-- ==== Sys2Proof/Word.lean ====
section
/-!
DEFINITION. Words, the sparse table that holds numbered units, and their plainest arithmetic.
-/
namespace Sys2Proof

/-- A 128-bit word: CSM words, stamp records, door words, Datum store words (R79, R80). -/
abbrev W128 := BitVec 128
/-- A 32-bit word of the direct and the indirect space (R692, R79). -/
abbrev W32 := BitVec 32

/-- A family of like units by number; an unlisted number holds the unit's reset value. -/
abbrev Tab (α : Type) := List (Nat × α)

namespace Tab

/-- The entry of number `i`, or `d` where none is listed. -/
def get {α : Type} (d : α) : Tab α → Nat → α
  | [], _ => d
  | (j, a) :: t, i => if j = i then a else get d t i

/-- The table with the entry of number `i` replaced; listed numbers stay in ascending order. -/
def put {α : Type} (i : Nat) (x : α) : Tab α → Tab α
  | [] => [(i, x)]
  | (j, a) :: t =>
    if i = j then (i, x) :: t else if i < j then (i, x) :: (j, a) :: t else (j, a) :: put i x t

end Tab

/-- `x` rounded to a whole multiple of `d` and divided by it, ties to even (R75). -/
def roundDiv (x : Int) (d : Nat) : Int :=
  let q := x / (d : Int)
  let r := 2 * (x % (d : Int))
  if r < d then q else if r = d then (if q % 2 = 0 then q else q + 1) else q + 1

/-- A saturating count of `w` bits advanced by `n`. -/
def satAdd (w n x : Nat) : Nat := min (2 ^ w - 1) (x + n)

/-- `x` cut to `w` bits and placed at bit `lo`. -/
def fld (lo w : Nat) (x : Nat) : Nat := (x % 2 ^ w) * 2 ^ lo

/-- The `w` bits of `x` from bit `lo`. -/
def bits (x lo w : Nat) : Nat := x / 2 ^ lo % 2 ^ w

/-- The two's-complement image of `x` in `w` bits. -/
def toBits (w : Nat) (x : Int) : Nat := (x % (2 ^ w : Nat)).toNat

/-- The signed value of the low `w` bits of `x`. -/
def ofBits (w x : Nat) : Int :=
  let y := x % 2 ^ w
  if 2 * y < 2 ^ w then (y : Int) else (y : Int) - (2 ^ w : Nat)

/-- 0 or 1. -/
def bit (b : Bool) : Nat := if b then 1 else 0

/-- The sign of `x`: −1, 0 or 1. -/
def sgn (x : Int) : Int := if x < 0 then -1 else if x = 0 then 0 else 1

/-- `x` limited to ±`l`. -/
def clampAbs (l x : Int) : Int := max (-l) (min l x)

end Sys2Proof
end

