-- ==== Sys2Proof/Syntax.lean ====
section
/-!
DEFINITION. The commands of the block: one constructor of `Instr` per row of the spec's table of operations
and events. What the device can only measure (a stamp, a count, a comparison against an analogue limit)
is an operand of the command that reports it; what the host chooses is an operand too.
-/
namespace Sys2Proof

/-- A channel index (R18): user channels 0 to 255, welts 256 to 263. -/
abbrev Ch := Fin 264
/-- An octant, loop or welt number (R16). -/
abbrev OctIx := Fin 8
/-- A servo engine (R16). -/
abbrev EngIx := Fin 32

/-- A stamp source by the core input that makes it (R57). -/
inductive Source where
  | rx (c : Ch) | mrk (c : Ch) | txm (c : Ch) | dev (d : Fin 4)
deriving DecidableEq, Repr

/-- The header a host gives a mailbox command (R767): its door, TAG, FORCE and NOTIFY. -/
structure Hdr where
  door : Fin 8
  tag : BitVec 16
  force : Bool
  notify : Bool
deriving DecidableEq, Repr

/-- The two masters of the register file (Register Behaviour, Access classes). -/
inductive Master where
  | host | cobbler
deriving DecidableEq, Repr

/-- The REFIN detectors of R92, in the coding of REF_STATUS.DET. -/
inductive RefDet where
  | none | missing | window | freq
deriving DecidableEq, Repr

/-- A phase-detector cycle of a loop: the measured phase difference, 2^-18 ns, and the tuning word. -/
structure PdCyc where
  diff : Int
  tune : Int
deriving DecidableEq, Repr

/-- What the detectors of R92 see in one ACLK cycle: the MPLL's latest phase-detector cycles, oldest first, the tuning words of the first
4,096 cycles of a 16 s gate, its relative deviation (RATE64) where a gate ends, and whether no REFIN edge has come within 16 ACLK cycles. -/
structure RefTrace where
  cyc : List PdCyc
  gate : List Int
  dev : Option Int
  missing : Bool
deriving DecidableEq, Repr

/-- What the detectors of R162 see in one phase-detector cycle of a master loop: its latest cycles, oldest first, whether no comb/16 edge has come
within 8 SCLK cycles, the comb/16 edges of a 1 µs count where one ends, and the amplitude alarm. -/
structure MlTrace where
  cyc : List PdCyc
  missing : Bool
  edges : Option Nat
  amp : Bool
deriving DecidableEq, Repr

/-- One band's counts at TUNE −16,384, 0 and +16,384; none where the VCO does not oscillate (R153, R155). -/
structure BandCount where
  loop : Fin 8
  band : Fin 64
  temp : BitVec 16
  counts : Option (Nat × Nat × Nat)
deriving DecidableEq, Repr

/-- What a log measures (R633, R635): octant temperatures, TUNE of loops, CTRL of DLL loops, driver currents, counts of ring
oscillators over 1 ms of SCLK, and seconds of the period with the timescale LOCKED. -/
structure GwMeas where
  temps : List (Fin 8 × BitVec 16)
  tunes : List (Fin 8 × BitVec 16)
  ctrls : List (Fin 9 × BitVec 10)
  drv : List (Fin 264 × BitVec 16)
  rings : List (Fin 24 × BitVec 24)
  locked : BitVec 32
deriving DecidableEq, Repr

/-- A code-density count of one core (R546, R555 to R557): hits by (t, v) in the order 32·t + v for each half of the data, and hits by tap
for each of sixteen blocks. -/
structure Hist where
  core : Fin 532
  first : List Nat
  second : List Nat
  blocks : List (List Nat)
deriving DecidableEq, Repr

/-- A mean strobe difference Δ of a core, over all data and over each half, and that of the MRKn receiver of a shared core (R557,
R558); 2^-18 ns. -/
structure OfsMeas where
  core : Fin 532
  d : Int
  first : Int
  second : Int
  mrk : Option (Int × Int × Int)
deriving DecidableEq, Repr

/-- The records of a DTC part in arrival order: the edge stamped, counted from the load of the divider, and its stamp, a count of 2^-18 ns (R562). -/
structure DtcMeas where
  ch : Ch
  recs : List (Nat × Nat)
deriving DecidableEq, Repr

/-- What a part of a calibration run measures (R551 to R565, R569): histograms, offsets, DTC records, the skew and its halves, CTRL of each
DLL range that locks, WELT_OFS by welt core, the units that pass their SURVEY check, and a failing condition of R548, orders 4 to 6. -/
structure PartMeas where
  hists : List Hist
  ofs : List OfsMeas
  dtcs : List DtcMeas
  skew : Option (Int × Int × Int)
  dlls : List (Fin 9 × List (Fin 8 × BitVec 10))
  welts : List (Fin 16 × List (BitVec 21))
  passed : List (Fin 8 × Fin 4096)
  fail : Option (Fin 3)
deriving DecidableEq, Repr

/-- What BM_LOOP measures: the two T_FIT values as counts of 2^-18 ns, the stamps used, and whether the channel hopped in the gate (R577). -/
structure LoopMeas where
  tIn : Nat
  tSrc : Nat
  used : Nat
  hop : Bool
deriving DecidableEq, Repr

/-- A dual-clock queue that software sees (R535, R536). -/
inductive Queue where
  | stamp (k : OctIx) | fcw (k : OctIx) | hop (k : OctIx) | sel (k : OctIx) | req (k : OctIx) | devStamp | rate | cascade | report
deriving DecidableEq, Repr

/-- How a stored word that is not ERASED reads (R591). -/
inductive WCls where
  | clean | corrected | bad
deriving DecidableEq, Repr

/-- A parameter item (R610, R788): identifier, channel index or 0xFFF for a device parameter, value; a DTF fills 96 bits. -/
structure Item where
  id : BitVec 16
  ch : BitVec 12
  val : BitVec 96
deriving DecidableEq, Repr

/-- A part of MNT_TDC_LOAD (R785): part 0 with TAP_POS, part 1 with TAP_WID, VERN_POS and the fields of the offset word (R610). -/
inductive TdcPart where
  | pos (tapPos : List (BitVec 18))
  | rest (tapWid : List (BitVec 14)) (vern : List (BitVec 16)) (ofs : BitVec 21) (trim : BitVec 6) (valid : Bool) (temp : BitVec 16)
      (secs : BitVec 48)
deriving DecidableEq, Repr

/-- TAP instructions (R838). -/
inductive Tap where
  | bypass | idcode | sample | extest | clamp | highz | extestPulse | extestTrain
deriving DecidableEq, Repr

/-- A cascade frame after its comma (R842): role 1 LEAD or 2 FOLLOW, SEC, STAMP_OK, SEQ, the sender's DTS and rate word, SEQ and stamp of
the last peer frame it stamped, its timescale state. -/
structure CasFrame where
  role : BitVec 2
  sec : Bool
  stampOk : Bool
  seq : BitVec 16
  dts : BitVec 96
  rate : BitVec 64
  peerSeq : BitVec 16
  peerStamp : BitVec 96
  tsState : BitVec 8
deriving DecidableEq, Repr

/-- What a mailbox command measures when its message is taken: logs of GW_LOG_NOW, the gate of BM_LOOP, the pulses of BM_REF, the slope check of
BM_CLOSE, the words that a scrub meets, the counts of the tests that TEST_STOP ends. A command that measures nothing ignores it. -/
structure Meas where
  gw : GwMeas
  loop : LoopMeas
  stamps : List Nat
  slope : Bool
  words : List (BitVec 32 × Bool)
  tests : List (Fin 7 × BitVec 64 × BitVec 32)
deriving DecidableEq, Repr

/-- A frame of the host port as the host sends it (R662, R665, R673): the header fields other than OP, the HSCK edges, the payload as 32-bit
groups of the stream (a last group of k bits in its k most significant bits), whether the pending read data are ready when it begins (R677),
the microseconds since a HOST test started, and what a message that it rings measures. -/
structure Frame where
  ring : Bool
  door : Fin 8
  tag : BitVec 8
  addr : BitVec 16
  edges : BitVec 32
  pay : List (BitVec 32)
  ready : Bool
  us : BitVec 16
  me : Meas
deriving DecidableEq, Repr

/-- The commands, one constructor per row of the table of operations and events, in its order. What a command measures or meets is an
operand; the meanings say what each operand is. One with a default may be left out: no cycles have been seen, or no boundary passed. -/
inductive Instr where
  | refinMissingEdge (tr : RefTrace)
  | refinLoopWindow (tr : RefTrace)
  | refinFrequencyGate (dev : Int) (tr : RefTrace)
  | refinFreqWindow (dev : Int)
  | mpllLock (cyc : List PdCyc := [])
  | refQual (cyc : List PdCyc := [])
  | measurementLoopLost (also : Option RefTrace)
  | ppsinEdge (t : Nat)
  | ppsLost
  | tsStart (h : Hdr) (mode : Fin 3) (v : BitVec 96)
  | tsStartExecute (lead : BitVec 96) (d : Nat)
  | tsStop (h : Hdr)
  | tsSetOffset (h : Hdr) (o : Int)
  | tsAdjust (h : Hdr) (d : Int)
  | tsHold (h : Hdr)
  | tsRelease (h : Hdr)
  | upLossT
  | hoQual
  | roleChange
  | tsTick
  | hoPredictorUpdate (a d : Int) (sa sd cover : Nat)
  | hoBound
  | extPeriod (b : Int)
  | mlLock (k : OctIx) (cyc : List PdCyc)
  | mlLoss (k : OctIx) (tr : MlTrace)
  | mlExcursion (k : OctIx) (cyc : List PdCyc := [])
  | mlAcqT (k : OctIx)
  | retuneRestoreRetry (k : OctIx)
  | margin (k : OctIx) (tune : Int)
  | relockPlan (k : OctIx) (temp : Int)
  | mlRetune (h : Hdr) (k : OctIx) (ni : Fin 256) (nf : BitVec 24)
  | gratScan (h : Hdr) (mask : BitVec 8)
  | gratEdit (h : Hdr) (k : OctIx) (band : Fin 64) (point : Fin 4) (w : W128)
  | forcedSwitch (c : Ch)
  | switchNoEdge (c : Ch) (yEdges : Bool)
  | correctionRecord (k : OctIx) (lane : EngIx) (bnd : Nat := 0) (same : Bool := false)
  | slotLoad (k : OctIx) (bnd own : Nat)
  | hopSelWrite (c : Fin 256) (slot : Fin 4)
  | mrkHopTrigger (c : Ch) (same : Bool)
  | chHop (h : Hdr) (c : Ch) (slot : Fin 4)
  | hopApply (c : Ch) (bnd own : Nat)
  | hopRampEnd (c : Ch) (bnd : Nat)
  | dtcTableApply (c : Ch)
  | outPpsPulse (c : Ch) (sec : BitVec 48)
  | chPhaseAdj (h : Hdr) (c : Ch) (d : Int)
  | chPhaseCancel (h : Hdr) (c : Ch)
  | chTraverse (h : Hdr) (c : Option Ch)
  | tdcEvent (x : Source) (fall : Bool) (tap : Fin 64) (vern : Fin 32)
  | stampRecordWrite (q : Fin 9)
  | dllLock (k : Fin 9) (ctrl : BitVec 10)
  | dllLoss (k : Fin 9)
  | dllFail (k : Fin 9)
  | lineFail (core : Fin 532)
  | ivRecordProcess (p : Fin 16)
  | ivTimeout (p : Fin 16)
  | ivSignedDecide (p : Fin 16)
  | stampRead (h : Hdr) (bd : Fin 8) (n : BitVec 16)
  | ivRead (h : Hdr) (bd : Fin 8) (n : BitVec 16)
  | ivStatus (h : Hdr) (p : Fin 16)
  | rgRecord (i : Fin 16)
  | rgGateClose (i : Fin 16)
  | rgResultWrite (i : Fin 16)
  | rgClaim (h : Hdr) (slot : Fin 32) (prio : Fin 4)
  | rgRelease (h : Hdr) (i : Fin 16)
  | rgRead (h : Hdr) (bd : Fin 8) (n : BitVec 16)
  | rgStatus (h : Hdr) (i : Fin 16)
  | dispatchRecord (q : Fin 9)
  | steeringJob (e : EngIx)
  | timescaleSteeringJob (e : EngIx)
  | wholeCycleRecordJob (e : EngIx)
  | hopReportJob (k : OctIx)
  | requestJob (e : EngIx)
  | settleDone (e : EngIx)
  | stealClaim (t v : EngIx)
  | csmFetchDone (e : EngIx)
  | skew (e : EngIx) (long : Bool) (seed : Option (BitVec 32))
  | engEpoch (h : Hdr) (seed e : BitVec 32)
  | epoch
  | parity (e : EngIx) (inSettle : Bool)
  | engineRetire (e : EngIx) (stuck : Bool)
  | engineArrayLost
  | engArrayRebuild (ue : List (Ch × BitVec 16))
  | engStatus (h : Hdr) (e : EngIx)
  | chStart (h : Hdr) (c : Ch)
  | chStop (h : Hdr) (c : Ch)
  | chStatus (h : Hdr) (c : Ch)
  | acqSlow (c : Ch)
  | channelSilence (c : Ch)
  | dividerRestartDone (c : Ch)
  | driver (c : Ch)
  | csmUe (c : Ch)
  | csmRebuild (c : Ch) (mask : BitVec 16)
  | handoverSwitch (k : OctIx)
  | handT (k : OctIx)
  | returnRetry (k : OctIx)
  | weltFault (k : OctIx) (fault : Fin 12)
  | retirement (c : Fin 256) (fault : Fin 12)
  | weltTakeover (k : OctIx)
  | mntClearRetire (h : Hdr) (kind : Fin 16) (unit : Fin 4096)
  | devWake (h : Hdr)
  | wakeAutoStart
  | wakeStepDone (temps : List (OctIx × BitVec 16))
  | wakeRefT
  | bypassExit
  | devService (h : Hdr)
  | devSurvey (h : Hdr)
  | devStow (h : Hdr)
  | devReset (h : Hdr)
  | coldReset (cause : Fin 3) (usable : Bool) (sectors : Fin 65537) (pfail : Bool)
  | railLost (r : Fin 8)
  | railRegained (r : Fin 8)
  | cobRestart (words : Nat)
  | brace (words : Nat) (cls : WCls)
  | braceDone
  | braceRel
  | holdupWaitExpiry (i : Nat)
  | queueReadyFall (q : Queue)
  | peerAbsent (q : Queue) (rail : Bool)
  | queueHandshakeDone (q : Queue)
  | calRun (h : Hdr) (c : Ch) (stat : Bool)
  | calSurvey (h : Hdr) (mask : BitVec 8) (band : Bool)
  | calStatus (h : Hdr) (bd : Fin 8) (n : BitVec 16)
  | calAbort (h : Hdr) (n : BitVec 32)
  | calPartDone (n : BitVec 32) (m : PartMeas)
  | calRunT (n : BitVec 32)
  | calSchedule (k : OctIx) (stat : Bool)
  | calStale (i : Fin 532)
  | bmOpen (h : Hdr) (uRef : BitVec 64) (refId : BitVec 256) (oper : BitVec 128)
  | bmRef (h : Hdr) (dCal uCal : BitVec 64) (stamps : List Nat)
  | bmLoop (h : Hdr) (c : Ch) (path : Fin 4) (dLb uLb : BitVec 64) (m : LoopMeas)
  | bmClose (h : Hdr) (slope : Bool)
  | bmAbort (h : Hdr)
  | bmExpired
  | dsStore (holdup : Bool)
  | dsRecordCommit (bad : Option (Nat × Bool))
  | eraseAhead (ring : Bool)
  | dsScrubPeriod (ws : List (BitVec 32 × Bool))
  | dsScrub (h : Hdr) (ws : List (BitVec 32 × Bool))
  | dsInfo (h : Hdr)
  | dsBenchList (h : Hdr) (bd : Fin 8)
  | dsBenchRead (h : Hdr) (bd : Fin 8) (n : BitVec 32)
  | dsRetireList (h : Hdr) (bd : Fin 8)
  | mntDsFormat (h : Hdr)
  | mntDtcLoad (h : Hdr) (c : Ch) (l : List (BitVec 32))
  | mntTdcLoad (h : Hdr) (core : BitVec 10) (part : TdcPart)
  | mntOtpWrite (h : Hdr) (node : Bool) (v : W128)
  | fwInfo (h : Hdr)
  | fwWrite (h : Hdr) (bd : Fin 8) (bytes : BitVec 32)
  | fwConfirm (h : Hdr)
  | fwSramRun (h : Hdr) (bd : Fin 8) (bytes : BitVec 32)
  | fwRevoke (h : Hdr) (k : Fin 4)
  | gwLog (m : GwMeas)
  | g8Accumulate (temp : BitVec 16)
  | g6ClaimRetry
  | gwHealth (h : Hdr) (bd : Fin 8) (attention : Bool)
  | gwLogRead (h : Hdr) (bd : Fin 8) (first : BitVec 32) (n : BitVec 16)
  | gwLogNow (h : Hdr) (m : GwMeas)
  | gwRestart (h : Hdr) (g : Fin 16) (n : Fin 4096)
  | gwReplanRun (h : Hdr) (g : Fin 16) (n : Fin 4096)
  | regWr (f : Frame)
  | regRd (f : Frame)
  | bulkWr (f : Frame)
  | bulkRd (f : Frame)
  | nop (f : Frame)
  | indWr (f : Frame)
  | indRd (f : Frame)
  | loop (f : Frame)
  | badop (op : BitVec 4) (f : Frame)
  | edgelessSelect
  | keyWrite (w : W32)
  | lockoutEnd
  | guardedWrite (a : BitVec 15) (w : W32) (me : Meas)
  | rsClear (m : Master) (a : BitVec 15) (w : W32)
  | rsRead (m : Master) (a : BitVec 15)
  | rcWrite (a : BitVec 15) (w : W32)
  | multiwordLowRead (m : Master) (a : BitVec 15)
  | multiwordWrite (m : Master) (a : BitVec 15) (w : W32)
  | wo1Write (m : Master) (a : BitVec 15) (w : W32)
  | hpLanesWrite (w : W32)
  | otpFieldWrite (node : Bool) (w : W32)
  | bitAliasWrite (m : Master) (a : BitVec 10) (b : Fin 32) (d : Bool) (me : Meas)
  | indDataRead
  | indDataWrite (w : W32)
  | indAddrWrite (ctl : Bool) (w : W32)
  | snap
  | latchUpdate
  | registerWrite (m : Master) (a : BitVec 15) (w : W32) (me : Meas)
  | ring (d : Fin 8) (me : Meas)
  | eventDoorReturn
  | evtLost
  | bulkBlockRing (five : Bool)
  | streamIdleTimeout (five : Bool)
  | bulkClose (h : Hdr) (bd : Fin 8)
  | infoId (h : Hdr)
  | devStatus (h : Hdr)
  | tsInfo (h : Hdr)
  | paramRd (h : Hdr) (l : List Item)
  | paramWr (h : Hdr) (l : List Item)
  | paramDefault (h : Hdr) (l : List Item)
  | lastSave (h : Hdr) (n : Fin 64) (c : Ch)
  | lastApply (h : Hdr) (n : BitVec 8) (c0 c1 : Ch)
  | lastDelete (h : Hdr) (n : Fin 64)
  | lastList (h : Hdr) (bd : Fin 8)
  | prefetchFill (n : BitVec 16)
  | periphEntryDone (inp : List (BitVec 32))
  | testRun (h : Hdr) (unit : BitVec 16) (kind : BitVec 4) (pattern : BitVec 8) (secs : BitVec 32)
  | testStop (h : Hdr) (unit : BitVec 16) (ms : List (Fin 7 × BitVec 64 × BitVec 32))
  | testEye (h : Hdr) (c : Ch) (bd : Fin 8)
  | eyeScanDone (c : Ch) (l : List (BitVec 32))
  | testDuration (kind : Fin 7) (unit : BitVec 16) (bits : BitVec 64) (errs : BitVec 32)
  | testNoSync (kind : Fin 7) (unit : BitVec 16)
  | jtagInstructionUpdate (t : Tap)
  | cascadeFrameSend
  | cascadeFrame (valid : Bool) (f : CasFrame) (mark : BitVec 96)
  | cascadeLinkLost
  | casTrainT
  | holdupOkHigh
  | shortHeaderFrame (edges : Fin 32) (ready : Bool)
  | checkerSync (kind : Fin 7) (unit : BitVec 16) (us : BitVec 16)
  | checkerSyncLoss (kind : Fin 7) (unit : BitVec 16) (bits : BitVec 64) (errs : BitVec 32)
  | sectorEraseDone (ok : Bool)
  | bandScanDone (rs : List BandCount)
  | otpRowProgrammed (damaged : Bool)
  | testLogicReset
  | firmwareHeartbeat
deriving DecidableEq, Repr

end Sys2Proof
end

