-- ==== Sys2Proof/Decode.lean ====
section
/-!
DEFINITION. The commands that words of the table spell. The table of operations and events gives no row any bits: commands reach the
block as frames, messages, events and pin changes, not as words of the table.
-/
namespace Sys2Proof

/-- The command that a word of the table spells: none, for no row gives bits. -/
def decodeTableWord (_nbits _w : Nat) : Option Instr := none

end Sys2Proof
end

