-- ==== Sys2Proof/Config.lean ====
section
/-!
DEFINITION. What one part is made with (its OTP identity and factory records) and the functions that the
spec names but does not give. None has a body: a claim about the model holds for every value of them.
-/
namespace Sys2Proof.Config

/-- OTP DEVICE_ID (R629, R738). -/
opaque deviceId : BitVec 64
/-- OTP SIL_REV (R588, R738): silicon A1. -/
def silRev : BitVec 8 := 0xA1
/-- True for PHS8256-E, false for PHS8256-C (R4, R738). -/
opaque gradeE : Bool
/-- True where the board's VDDIO level, sensed at the end of each cold reset, is that of 3.3 V, false for 1.8 V (R860). -/
opaque vddio33 : Bool
/-- Predicted TUNE of a band whose interpolated gain is zero, by the numerator of R158's quotient: the spec states
no result there. -/
opaque tuneKv0 : Int → Int

/-- Rising edges of bypass input 2j (A) or 2j + 1 (B) that come in idle step `n`: what the board puts there (R170, R900). -/
opaque bypRise : Nat → Nat → Nat
/-- The divider or generator that drives channel index `c` shows a falling edge in idle step `n`: when an edge falls is waveform (R172). -/
opaque divEdge : Nat → Nat → Bool
/-- Reading of the temperature sensor of octant `k` as its quadrant is powered, in idle step `n`, where the event that powers it carries none
(R760). -/
opaque octSensor : Nat → Nat → BitVec 16

/-- The MPLL tuning word frozen at a planned change of reference (R88, R93), by the count of SCLK edges: a measured
mean, which the command that changes REF_FREQ does not carry. -/
opaque frozenWord : Nat → Int

/-- Factory CORE_OFS of a core, from the factory Benchmark record in OTP (R298, FACTORY_CAL). -/
opaque factoryOfs : Nat → BitVec 21

/-- Factory MRK_TRIM of a shared core and RANGE of a DLL control loop (R588, FACTORY_CAL). -/
opaque factoryTrim : Nat → BitVec 6
opaque factoryRange : Nat → BitVec 3
/-- Factory Graticule entry by entry index (R150, R588). -/
opaque factoryGrat : Nat → BitVec 128

/-- Measured delay of coarse cell `i`, and of fine code `f` in segment `s`, that a DTC part derives from its sub-bin means, in 2^-64 comb period: how
it derives them is not stated (R563). -/
opaque cellDelay : List Int → Nat → Nat
opaque fineDelay : List Int → Nat → Nat → Nat

/-- The payload of an IMAGE record carries a public key whose SHA-384 equals KEY_HASH of its key slot, and a signature
that verifies (R625): the hashes stand in OTP and neither function is computed here. -/
opaque imageSigned : List Nat → Bool

/-- Payload words 1 to 8 of the factory Benchmark record in OTP (R588, FACTORY_BM); word 0 holds number 0 and no paths. -/
opaque factoryBench : Nat → BitVec 128

/-- Stored word `i` of a MEM test with a pattern (R835): in which order the pattern's bits stand in a word is not stated. -/
opaque memTest : Nat → Nat → BitVec 128

/-- UNIT that a FAULT event of kind 4, memory, carries for a stored word, by its number in the flash (R448, R784): how a word is numbered in
12 bits is not stated. -/
opaque memUnit : Nat → BitVec 12
/-- The fitted flash declares erase suspend and resume (R798, R807). -/
opaque eraseSuspend : Bool
/-- Mode clocks M and wait states D that the fitted flash declares for the four-lane read (R798). -/
opaque modeClocks : Nat
opaque waitStates : Nat
/-- How many words of a record in transfer a reset lets reach the flash, and whether the last of them reads UNCORRECTABLE: a free value of the
edge count at the reset (R500, R623). -/
opaque cutWords : Nat → Nat
opaque cutBad : Nat → Bool

end Sys2Proof.Config
end

