-- ==== Sys2Proof/Machine/State.lean ====
section
/-!
DEFINITION. The state of the block, whole, as plain data. Every field's docstring gives its width, the rule and
file of spec/ that names it and its reset value; INVENTORY.md lists the same lines.
-/
namespace Sys2Proof.Machine

/-- A fault of the model: none arises. Every command of the spec has an effect or changes nothing; the
constructor exists so that a later rule that stops the block has a name. Safe: nothing raises it. -/
inductive Fault where
  /-- Raised by no meaning. -/
  | none
deriving DecidableEq, Repr

/-- Why a command has no meaning in the model. -/
inductive Refusal where
  /-- An arm of `exec` whose meaning is not written yet; safe, since nothing is claimed of the command. -/
  | notModelled (mnemonic : String)
deriving DecidableEq, Repr

/-! ## Registers that carry events -/

/-- An RS register (R704 to R706): its SEQ, its event bits [31:8], the number of events delivered to it, and
that number at the last read of each master. -/
structure RsReg where
  /-- [8 b; R704 (17); reset 0] event sequence number -/
  seq : BitVec 8
  /-- [24 b; R704 (17); reset 0] register bits [31:8]: the event fields -/
  ev : BitVec 24
  /-- [count; R705 (17); reset 0] events delivered since the last reset of the register's domain -/
  n : Nat
  /-- [count or none; R706 (17); reset none] delivered-event count at the host's last read -/
  host : Option Nat
  /-- [count or none; R706 (17); reset none] delivered-event count at the cobbler's last read -/
  cob : Option Nat
deriving DecidableEq, Repr

/-! ## Stamps -/

/-- FLAGS of a stamp record (R59). -/
structure Flags where
  fall : Bool
  hold : Bool
  uncal : Bool
  gap : Bool
  welt : Bool
deriving DecidableEq, Repr

/-- A stamp record (R57 to R60): source, SEQ, flags, the DTF as a linear count of 2^-18 ns, and beside it the difference δ
that a core passes with its first record after a load (R561). -/
structure Rec where
  src : Nat
  seq : Nat
  fl : Flags
  t : Nat
  dl : Int
deriving DecidableEq, Repr

/-! ## Reference -/

/-- REFIN, the measurement loop and REF_EVENT (R82 to R97, R738, R749). -/
structure RefS where
  /-- [1 b; R94, R738 (03, 18); reset DESIGN CHOICE 0] REFIN qualified -/
  qual : Bool
  /-- [1 b; R90 (03); reset DESIGN CHOICE 0] MPLL lock declared -/
  lock : Bool
  /-- [2 b; R92, R738 (03, 18); reset 0] REF_STATUS.DET, detector of the last disqualification -/
  det : RefDet
  /-- [1 b; R84 (03); reset DESIGN CHOICE 0] fractional feedback in use -/
  frac : Bool
  /-- [1 b; R96, R738 (03, 18); reset DESIGN CHOICE 0] measurement loop present -/
  sclkOk : Bool
  /-- [integer; R83, R84 (03); reset DESIGN CHOICE 1] reference pre-divider P -/
  p : Nat
  /-- [58 b; R84 (03); reset DESIGN CHOICE 400·2^48] feedback divider M, 2^-48 -/
  m : Nat
  /-- [RATE64; R85 (03); reset DESIGN CHOICE 0] correction term of the rate word for the rounding of M -/
  corr : Int
  /-- [1 b; R93 (03); reset DESIGN CHOICE 0] the MPLL runs from a frozen tuning word -/
  frozen : Bool
  /-- [width not stated; R93 (03); reset DESIGN CHOICE 0] the frozen tuning word -/
  word : Int
  /-- [1 b; R896 (03); reset DESIGN CHOICE 1] the last 1 ms measurement of a disqualified REFIN was in window -/
  winOk : Bool
  /-- [1 b; R94, R95 (03); reset DESIGN CHOICE 0] REF_QUAL has been met since the disqualification, the divider restarted, and lock is awaited -/
  qualT : Bool
  /-- [FREQ64; R89 (03); reset DESIGN CHOICE 20 kHz, the reset REF_BW] bandwidth of the loop-filter coefficients in use -/
  bw : Nat
  /-- [width not stated; R89 (03); reset DESIGN CHOICE 0] integrator of the MPLL's loop filter: its tuning word -/
  integ : Int
  /-- [TIV64; R90, R897 (03); reset DESIGN CHOICE 0] phase-detector error of the last cycle seen -/
  err : Int
  /-- [32 b; R749 (18); reset 0] REF_EVENT -/
  ev : RsReg
deriving DecidableEq, Repr

/-- PPSIN qualification (R98 to R102). -/
structure PpsS where
  /-- [1 b; R99 (03); reset DESIGN CHOICE 0] PPSIN qualified -/
  qual : Bool
  /-- [1 b; R116 (03); reset DESIGN CHOICE 0] PPSIN has been qualified since the last start -/
  ever : Bool
  /-- [0 to 2; R99 (03); reset DESIGN CHOICE 0] consecutive edges with a good spacing before qualification -/
  run : Nat
  /-- [DTF or none; R99, R100 (03); reset DESIGN CHOICE none] stamp of the last edge (unqualified) or of the last accepted edge -/
  last : Option Nat
  /-- [32 b; R100, R738 (03, 18); reset 0] PPS_OUTLIER -/
  outlier : Nat
deriving DecidableEq, Repr

/-- External oscillator steering (R134 to R137, R738). -/
structure ExtS where
  /-- [24 b; R738 (18); reset 0] EXT_STATUS.CODE, last DAC code written -/
  code : Nat
  /-- [32 b; R137, R738 (03, 18); reset 0] EXT_SKIP -/
  skip : Nat
deriving DecidableEq, Repr

/-! ## The traverse and the timescale -/

/-- A traverse record, words W8 to W13 (R271); RES is P_CMD − P_REAL and ACTIVE is RES ≠ 0. -/
structure Trav where
  /-- [96 b; R271 (06); reset 0] commanded phase, 2^-18 ns -/
  pCmd : Int
  /-- [96 b; R271 (06); reset 0] realised phase, 2^-18 ns -/
  pReal : Int
  /-- [64 b; R272 (06); reset 0] extension of P_REAL below its LSB, 2^-82 ns -/
  guard : Nat
  /-- [32 b; R264 (06); reset 0] host requests accepted since the last exit from IDLE -/
  reqN : Nat
  /-- [RATE64; R271 (06); reset 0] slew term in force -/
  slew : Int
  /-- [1 b; R271 (06); reset 0] paused, channel ON_WELT -/
  pWelt : Bool
  /-- [1 b; R271 (06); reset 0] paused, channel in BYPASS -/
  pByp : Bool
  /-- [1 b; R271 (06); reset 0] paused, channel HOLDOVER or timescale COASTING -/
  pHold : Bool
  /-- [1 b; R271 (06); reset 0] FMAX or TS_RATE_MAX limited the last slew term -/
  clamped : Bool
  /-- [count; R266, R271 (06); reset 0] SLEW_DONE events pending; NOTIFY reads 1 while there is one -/
  notify : Nat
  /-- [64 b; R274 (06); reset 0] common-term debt, 2^-40 ns -/
  debt : Int
  /-- [96 b; R269 (06); reset 0] carried residue, 2^-128 comb period -/
  nomAcc : Int
  /-- [64 b; R271 (06); reset 0] rounding residue of the slot in force, 2^-128 comb period per divider period -/
  nomRem : Int
deriving DecidableEq, Repr

/-- Timescale states in the coding of R393. -/
inductive TsState where
  | stopped | free | acquiring | locked | coasting
deriving DecidableEq, Repr

/-- Node roles in the coding of TS_STATUS.ROLE (R738). -/
inductive Role where
  | gm | bnd | fol
deriving DecidableEq, Repr

/-- An armed start (R109 to R111). -/
inductive Armed where
  /-- a PPSIN start with its value S -/
  | pps (s : Nat)
  /-- a PPSIN start whose S is TS_START_VAL as it stands (R110) -/
  | ppsAuto
  | cascade
deriving DecidableEq, Repr

/-- What the servo of the timescale keeps between two updates (R393 W1, W2, W5, W7 and R404). -/
structure TsSrv where
  /-- [RATE64; R105 (03); reset 0] servo base term -/
  base : Int
  /-- [RATE64; R393 (09); reset 0] first integrator -/
  i1 : Int
  /-- [RATE64 per update; R393 (09); reset 0] second integrator -/
  i2 : Int
  /-- [TIV64; R114 (03); reset 0] last error e -/
  e : Int
  /-- [count; R124 (03); reset 0] consecutive updates inside TS_LKWIN -/
  inRun : Nat
  /-- [count; R124 (03); reset 0] consecutive updates outside TS_LKWIN -/
  outRun : Nat
  /-- [DTF; R393 W5 (09); reset 0] stamp of the last upstream record applied -/
  tLast : Nat
  /-- [12 b or none; R398 (09); reset none] SEQ of the last upstream record applied -/
  seqLast : Option Nat
  /-- [64 b; R393 W0 (09); reset 0] updates applied -/
  updN : Nat
  /-- [2^-64 ns; R272 (06); reset 0] counter value to which the traverse has been advanced -/
  adv : Nat
  /-- [1 b; R277 (06); reset 0] the next error enters as an internal re-entry -/
  reentry : Bool
  /-- [TIV64; R122 (03); reset 0] realised offset O_real -/
  oReal : Int
  /-- [1 b; R106 (03); reset 0] the rate clamp acts -/
  clamp : Bool
  /-- [upstream cycles or none; R119 (03); reset none] whole-cycle count of the last RX update and its stamp -/
  cyc : Option (Int × Nat)
  /-- [DTF or none; R119 (03); reset none] marker stamp that fixes the count of the next RX update -/
  mark : Option Nat
deriving DecidableEq, Repr

/-- The device timescale and its record (R103 to R133, R393). -/
structure TsS where
  /-- [3 b; R393 (09); reset 0 STOPPED (R108)] timescale state -/
  st : TsState
  /-- [2 b; R738 (18); reset DS, reads 0 (GM)] role in force -/
  role : Role
  /-- [2 b or none; R41 (01); reset none] role that takes effect at the next second mark -/
  rolePend : Option Role
  /-- [start or none; R109 (03); reset none] armed start -/
  armed : Option Armed
  /-- [142 b; R103 (03); reset DESIGN CHOICE 0] DTS counter, 2^-64 ns -/
  dts : Nat
  /-- [count; R276 (06); reset DESIGN CHOICE 0] SCLK edges since the start -/
  edges : Nat
  /-- [8 × (142 b, RATE64); R302 (07); reset DESIGN CHOICE empty] counter and rate of the last eight SCLK edges, newest first -/
  hist : List (Nat × Int)
  /-- [RATE64; R103 (03); reset DESIGN CHOICE 0] rate word in force -/
  rate : Int
  /-- [96 b; R130, R393 W7 (03, 09); reset 0] drift term since the entry to COASTING, 2^-96 -/
  drift : Int
  /-- [22 b; R393 W1 (09); reset DS, reads 0] proportional coefficient -/
  kp : Nat
  /-- [22 b; R393 W1 (09); reset DS, reads 0] integral coefficient -/
  ki : Nat
  /-- [22 b; R393 W1 (09); reset DS, reads 0] second-integral coefficient -/
  ki2 : Nat
  /-- [servo state; R393 (09)] -/
  srv : TsSrv
  /-- [W8 to W13; R271 (06); reset 0] traverse of the timescale -/
  trav : Trav
  /-- [TIV64; R121, R393 W6 (03, 09); reset 0] full offset O of the last accepted TS_SET_OFFSET -/
  o : Int
  /-- [1 b; R124 (03); reset DESIGN CHOICE 0] host-forced hold -/
  forced : Bool
  /-- [1 b; R124 (03); reset DESIGN CHOICE 0] upstream qualified at least once since the last start -/
  upOnce : Bool
  /-- [0 to 16; R898 (03); reset DESIGN CHOICE 0] consecutive RX records of BND_CH that meet R898 -/
  bndRun : Nat
  /-- [stamp and SEQ or none; R898 (03); reset DESIGN CHOICE none] last RX record of BND_CH -/
  bndLast : Option (Nat × Nat)
  /-- [1 b; R387 (09); reset DESIGN CHOICE 0] a tick that has fallen due is to be carried out by the timescale job that waits -/
  tickDue : Bool
  /-- [DTF; R393 W7 (09); reset 0] DTS at the last entry to COASTING -/
  tEntry : Nat
  /-- [1 b; R131 (03); reset DESIGN CHOICE 0] COASTING was entered by a disqualification of REFIN -/
  refEntry : Bool
  /-- [RATE64; R393 W3 (09); reset 0] predictor a -/
  hoA : Int
  /-- [2^-80 per s; R393 W3 (09); reset 0] predictor d -/
  hoD : Int
  /-- [RATE64; R393 W4 (09); reset 0] standard uncertainty of a -/
  sigA : Nat
  /-- [2^-80 per s; R393 W4 (09); reset 0] standard uncertainty of d -/
  sigD : Nat
  /-- [1 b; R129, R738 (03, 18); reset DESIGN CHOICE 0] d is valid -/
  dValid : Bool
  /-- [TIV64; R132, TS_INFO (03, 19); reset DESIGN CHOICE 0] latest time-error bound U(t) -/
  u : Int
  /-- [count; R132 (03); reset DESIGN CHOICE 0] bounds posted since the entry to COASTING -/
  boundN : Nat
  /-- [5 b or none; R30, R392 W0 (01, 09); reset none] engine that holds the lease of the record -/
  lease : Option Nat
  /-- [5 b; R392 W0 (09); reset 0] engine that last held the lease -/
  leaseEng : Nat
  /-- [1 b; R488 (11); reset DESIGN CHOICE 0] autostart CH_STARTs are held for the start -/
  held : Bool
  /-- [TIV64 or none; R845 (21); reset none] error e of the last complete follower set -/
  folE : Option Int
  /-- [32 b; R749 (18); reset 0] TS_EVENT -/
  ev : RsReg
deriving DecidableEq, Repr

/-! ## Channels -/

/-- Channel states in the coding of CH_FAST.STATE (R245). -/
inductive ChState where
  | idle | acquire | track | holdover | bypass | onWelt | retired | test
deriving DecidableEq, Repr

/-- What drives a channel's output pad (R439, R170, R454). -/
inductive OutSrc where
  /-- no source: the driver is in its DRV_IDLE state -/
  | none
  /-- the channel's own divider -/
  | own
  /-- the divider of the octant's welt -/
  | welt
  /-- on a welt's driver: the divider of a user channel, during a return (R454) -/
  | lent (c : Nat)
  /-- bypass input B (true) or A of the quadrant, divided by `div` (R170) -/
  | bypass (b : Bool) (div : Nat)
  /-- held low: BYP_SRC = STOP, stopped under R174, or between the two sides of a switch (R172) -/
  | stop
  /-- the pattern generator -/
  | pattern
deriving DecidableEq, Repr

/-- Why a channel is in BYPASS (R443). -/
inductive BypCause where
  | none
  /-- loss of the master loop or all engines of the octant retired (R178, R431) -/
  | loop
  /-- device mode BYPASS (R44) -/
  | device
  /-- entry to SURVEY (R481), or a loop lock that waits for its end (R181) -/
  | survey
  /-- divider restart after a DIV_CHK (R450) -/
  | restart
  /-- a permanent fault whose retirement is not yet committed (R459) -/
  | fault
  /-- a CH_START refused with NOSTAMP (R443) -/
  | noStamp
deriving DecidableEq, Repr

/-- A hop slot as the divider holds it (R219): NOM as N·2^64 + F, the post-divider it needs, VALID. -/
structure Slot where
  nom : Nat
  k : Nat
  valid : Bool
deriving DecidableEq, Repr

/-- A hop ramp in progress (R230): R_old, NOM_new, the number of ramp periods M and the boundary at which it starts. -/
structure Ramp where
  old : Nat
  new : Nat
  m : Nat
  b0 : Nat
deriving DecidableEq, Repr

/-- A trigger latched in the VCLK island and not yet applied (R222 to R227). -/
structure Trig where
  mrk : Bool
  slot : Nat
deriving DecidableEq, Repr

/-- The divider chain of a channel (R193 to R242, R245). -/
structure Div where
  /-- [4 × (76 b, 5 b, 1 b); R219 (05); reset empty slots] hop slots -/
  slots : Tab Slot
  /-- [2 b; R245 HOP_ACT (05); reset DESIGN CHOICE 0] slot in force -/
  act : Nat
  /-- [2 b; R245 HOP_SEL (05); reset DS, reads 0] slot last requested -/
  sel : Nat
  /-- [76 b; R195 (05); reset DESIGN CHOICE 0] DELTA, 2^-64 comb period -/
  delta : Int
  /-- [count; R193, R202 (05); reset DESIGN CHOICE 0] divider boundaries from the restart to the last change of the ratio -/
  bnd : Nat
  /-- [64 b; R203, R204 (05); reset DESIGN CHOICE 0] accumulator fraction at that boundary, 2^-64 comb period -/
  acc : Nat
  /-- [5 b; R211 (05); reset DESIGN CHOICE 0] post-divider setting k -/
  k : Nat
  /-- [ramp or none; R230 (05); reset DESIGN CHOICE none] hop ramp in progress -/
  ramp : Option Ramp
  /-- [list; R222 (05); reset empty] triggers latched and not yet applied -/
  trig : List Trig
  /-- [slot or none; R224 (05); reset DESIGN CHOICE none] slot of a trigger kept in IDLE or BYPASS -/
  kept : Option Nat
  /-- [1 b; R245 CLAMP (05); reset DESIGN CHOICE 0] the FMAX or the ratio clamp acts -/
  clamp : Bool
  /-- [8 b; R245 HOP_N (05); reset 0] hops executed -/
  hopN : Nat
  /-- [4 b; R245 HOP_LOST (05); reset 0] triggers not executed -/
  hopLost : Nat
  /-- [24 × 32 b; R206, R207 (05); reset DS: none listed, nominal] DTC correction entries in force -/
  dtc : Tab Nat
  /-- [24 × 32 b or none; R209 (05); reset none] DTC set that waits for its divider boundary -/
  dtcNew : Option (Tab Nat)
deriving DecidableEq, Repr

/-- A hop report (R202): channel, slot, boundary count, the ramp, whether it reports the end of one, and the index of the divider that has
written it, a welt's while the channel is ON_WELT (R228). -/
structure HopRep where
  ch : Nat
  slot : Nat
  bnd : Nat
  ramp : Option Ramp
  isEnd : Bool
  div : Nat
deriving DecidableEq, Repr

/-- What an engine computes for a channel and writes back at the end of the settle stage (R392). -/
structure Srv where
  /-- [RATE64; R392 W2 (09); reset 0] first integrator -/
  i1 : Int
  /-- [RATE64 per update; R392 W2 (09); reset 0] second integrator -/
  i2 : Int
  /-- [DTF extended to 2^-96 ns, or none before the first TXM stamp; R392 W3 (09); reset 0] grid anchor -/
  anchor : Option Nat
  /-- [count; R401 (09); reset DESIGN CHOICE 0] divider periods from ANCHOR to the last stamped edge -/
  pos : Int
  /-- [count; R202 (05); reset DESIGN CHOICE 0] divider-boundary count at ANCHOR -/
  bnd : Nat
  /-- [128 b; R392 W4 (09); reset 0] commanded output period, 2^-96 ns -/
  tCmd : Nat
  /-- [DTF; R392 W5 (09); reset 0] stamp of the last steering record applied -/
  tLast : Nat
  /-- [20 b; R392 W5 (09); reset 0] decimation of the steering source -/
  dec : Nat
  /-- [TIV64; R392 W7 (09); reset 0] last phase error -/
  e : Int
  /-- [16 b; R392 W7 (09); reset 0] consecutive updates inside the lock window -/
  lkRun : Nat
  /-- [count; R445 (10); reset DESIGN CHOICE 0] consecutive updates outside the lock window -/
  unRun : Nat
  /-- [8 b; R392 W7 (09); reset 0] consecutive outliers -/
  outRun : Nat
  /-- [12 b or none; R392 W0 (09); reset none, reads 0] SEQ of the last TXM record applied -/
  seqTxm : Option Nat
  /-- [12 b or none; R392 W0 (09); reset none, reads 0] SEQ of the last RX record applied -/
  seqRx : Option Nat
  /-- [1 b; R398 (09); reset DESIGN CHOICE 0] the channel has begun to acquire anew: its next record follows whatever SEQ came before -/
  fresh : Bool
  /-- [1 b; R446 (10); reset DESIGN CHOICE 0] the last steering record applied carried GAP -/
  gap : Bool
  /-- [64 b; R392 W0 (09); reset 0] steering updates applied -/
  updN : Nat
  /-- [TIV64 or none; R402 (09); reset DESIGN CHOICE none] LT_PHASE -/
  lt : Option Int
  /-- [count; R446 (10); reset DESIGN CHOICE 0] consistent records in a row in HOLDOVER -/
  hoRun : Nat
  /-- [slot; R392 W0 (09); reset 0] slot named in the last hop report -/
  slot : Nat
  /-- [76 b; R531 (12); reset DESIGN CHOICE 0] DELTA of the last record the FCW lane accepted -/
  delta : Int
  /-- [TXM stamp and position or none; R449 (10); reset DESIGN CHOICE none] last TXM record of the divider check -/
  chk : Option (Nat × Nat)
  /-- [list; R449 (10); reset DESIGN CHOICE empty] hop reports taken since that record -/
  segs : List HopRep
  /-- [0 or 1; R449 (10); reset DESIGN CHOICE 0] consecutive failing pairs -/
  chkRun : Nat
  /-- [0, 1 or 2; R279 (06); reset DESIGN CHOICE 0] re-entry due at the next TXM stamp: 1 after BYPASS, 2 after HOLDOVER -/
  reentry : Nat
deriving DecidableEq, Repr

/-- The software-visible counters of a channel's CSM entry that are not written back by a settle (R392, R308). -/
structure ChCnt where
  /-- [16 b; R392 W7 (09); reset 0] QDROP_N -/
  qdrop : Nat
  /-- [16 b; R392 W7 (09); reset 0] AWAY_N -/
  away : Nat
  /-- [32 b; R392 W14 (09); reset 0] OUTLIER_N -/
  outlier : Nat
  /-- [32 b; R392 W14 (09); reset 0] CLAMP_N -/
  clamp : Nat
  /-- [32 b; R392 W14 (09); reset 0] DELTA_STALE -/
  stale : Nat
  /-- [32 b; R392 W14 (09); reset 0] MRK_MISS -/
  miss : Nat
  /-- [32 b; R392 W15 (09); reset 0] RATE_DROP_N -/
  rate : Nat
  /-- [32 b; R392 W15 (09); reset 0] TXM_DROP_N -/
  txm : Nat
  /-- [32 b; R392 W15 (09); reset 0] DLL_DROP_N -/
  dll : Nat
  /-- [32 b; R392 W15 (09); reset 0] HOLD_DROP_N -/
  hold : Nat
  /-- [14 × 32 b; R786, 0x1899 to 0x18A6 (19); reset 0] LK_EXCUR_N, DIV_CHK_N, CSM_UE_N, HOLD_N, BYPASS_N, OUT_RUN_N, HAND_N, HAND_FAIL_N, CAL_N, CAL_FAIL_N, REQ_N_REFUSED, SLEW_DONE_N, HOP_N, HOP_LOST_N -/
  n : Tab Nat
deriving DecidableEq, Repr

/-- A channel (R18): its state, its CSM entry, its divider chain, its output switch and driver. -/
structure Chan where
  /-- [4 b; R245, R392 W0 (05, 09); reset 0 IDLE] channel state -/
  st : ChState
  /-- [cause; R443 (10); reset none] why the channel is in BYPASS -/
  cause : BypCause
  /-- [state; R443 (10); reset DESIGN CHOICE IDLE] state left for BYPASS -/
  prev : ChState
  /-- [1 b; R245 LOCK (05); reset DESIGN CHOICE 0] lock criterion met -/
  lock : Bool
  /-- [servo state; R392 (09)] -/
  srv : Srv
  /-- [W8 to W13; R271 (06); reset 0] traverse -/
  trav : Trav
  /-- [1 b; R392 W0 (09); reset DS, reads 0] second integrator in use -/
  i2En : Bool
  /-- [1 b; R392 W0 (09); reset DS, reads 0] SERVO_IN = RX -/
  servoRx : Bool
  /-- [22 b; R392 W1 (09); reset DS, reads 0] KP -/
  kp : Nat
  /-- [22 b; R392 W1 (09); reset DS, reads 0] KI -/
  ki : Nat
  /-- [22 b; R392 W1 (09); reset DS, reads 0] KI2 -/
  ki2 : Nat
  /-- [32 b; R392 W1 (09); reset DS, reads 0] nominal update interval, ns -/
  tUpd : Nat
  /-- [DTF; R392 W6 (09); reset 0] stamp of the last monitor record -/
  monLast : Nat
  /-- [32 b; R392 W6 (09); reset 0] monitor records -/
  monN : Nat
  /-- [1 b; R402 (09); reset DESIGN CHOICE 0] a monitor record has been written since the channel last began to acquire -/
  monSeen : Bool
  /-- [list of DTS and 2^-96 ns; R402 (09); reset DESIGN CHOICE empty] output periods applied since MON_LAST with SERVO_IN = RX, each with the time from which it has held, newest first -/
  periods : List (Nat × Nat)
  /-- [5 b or none; R392 W0 (09); reset none] engine that holds the lease -/
  lease : Option Nat
  /-- [5 b; R392 W0 (09); reset 0] engine that last held the lease -/
  leaseEng : Nat
  /-- [RATE64; R38 (01); reset DESIGN CHOICE 0] rate word the channel has adopted -/
  rAdopt : Int
  /-- [list; R274 (06); reset DESIGN CHOICE empty] rate-word edges not yet adopted: counter value and change -/
  rEdges : List (Nat × Int)
  /-- [counters; R392 (09)] -/
  cnt : ChCnt
  /-- [divider chain; 05] -/
  div : Div
  /-- [source; R439 (10); reset none] source that drives the output -/
  out : OutSrc
  /-- [switch request or none; R172 (04); reset none] source being switched to, and whether the old one is gated off and the output low until the new one shows edges -/
  sw : Option (OutSrc × Bool)
  /-- [2 b; R170, R900 (04); reset 2 STOP] BYP_SRC as the bypass divider selects its input -/
  bypSel : Nat
  /-- [3 b; R900 (04); reset DESIGN CHOICE 0] state of the bypass divider less the edges of its input in `BypS.n`; its state alone under STOP -/
  bypOfs : Nat
  /-- [1 b; R448 (10); reset DESIGN CHOICE 0] driver forced to high impedance by a DRIVER fault -/
  hiz : Bool
  /-- [1 b; R443 (10); reset DESIGN CHOICE 0] ACQ_SLOW posted since the entry to ACQUIRE -/
  slow : Bool
  /-- [list of DTS; R450 (10); reset DESIGN CHOICE empty] DIV_CHK faults of the last 10 s -/
  divT : List Nat
  /-- [list of DTS; R448 (10); reset DESIGN CHOICE empty] CSM_UE faults of the last hour -/
  ueT : List Nat
  /-- [≤ 2 edge counts; R236, R237 (05); reset DESIGN CHOICE empty] output edges on which the marker pulses of the last two seconds start, newest first -/
  pulse : List Nat
  /-- [TIV64; R470 (10); reset DS, reads 0] HAND_SKEW -/
  handSkew : Int
  /-- [16 b; R540, R610 CHCAL (13, 14); reset DS, reads 0] HS_TEMP -/
  hsTemp : Int
deriving DecidableEq, Repr

/-! ## Engines and queues -/

/-- A phase request, parameter update or start as the cobbler gives it to an engine (R263, R385). -/
inductive Req where
  /-- CH_PHASE_ADJ: the command that waits for its reply, NOTIFY, the step (R258) -/
  | adj (h : Option Hdr) (notify : Bool) (d : Int)
  /-- CH_PHASE_CANCEL (R258) -/
  | cancel (h : Option Hdr)
  /-- an accepted CH_START (R441) -/
  | start
  /-- new coefficients KP, KI, KI2, T_UPD and the second-integrator switch (R406) -/
  | coef (kp ki ki2 tUpd : Nat) (i2 : Bool)
deriving DecidableEq, Repr

/-- A job of an engine's input queue (R385). -/
inductive Job where
  /-- a steering record of channel index `c` -/
  | steer (c : Nat) (r : Rec)
  /-- a timescale steering record -/
  | ts (r : Rec)
  /-- a timescale whole-cycle record (R119) -/
  | whole (r : Rec)
  /-- a request for channel index `c` -/
  | req (c : Nat) (q : Req)
  /-- a hop report (R202) -/
  | hop (r : HopRep)
  /-- a timescale tick (R276) -/
  | tick
deriving DecidableEq, Repr

/-- What a job may change of a channel's entry, as it stood when the job took the lease (R395, R428). -/
structure Back where
  srv : Srv
  trav : Trav
  st : ChState
  outlier : Nat
  clamp : Nat
deriving DecidableEq, Repr

/-- The same of the timescale record. -/
structure TsBack where
  srv : TsSrv
  trav : Trav
  st : TsState
deriving DecidableEq, Repr

/-- Settle work that an engine holds: its ECLK cycles, and the entry as it stood, which the CSM shows until the write-back and which a parity
error in the settle stage brings back (R385, R386, R395, R428). -/
inductive Settle where
  | chan (c cost : Nat) (back : Back)
  | ts (cost : Nat) (back : TsBack)
deriving DecidableEq, Repr

/-- A servo engine (R385 to R434). -/
structure Eng where
  /-- [≤ 16 jobs; R388 (09); reset empty] input queue, oldest first -/
  q : List Job
  /-- [list; R386 (09); reset empty] settle work, oldest first -/
  settle : List Settle
  /-- [job or none; R413 (09); reset none] claimed job whose CSM fetch is in flight -/
  fetch : Option Job
  /-- [job or none; R413 (09); reset none] claimed job whose fetch has completed -/
  ready : Option Job
  /-- [≤ 12 entries; R394 (09); reset empty] indices cached, newest first -/
  cache : List Nat
  /-- [1 b; R429, R433 (09); reset DS, reads 0] retired -/
  retired : Bool
  /-- [1 b; R429, R432 (09); reset DESIGN CHOICE 0] its homes lie with its peers: from its retirement to the next epoch after it is cleared -/
  out : Bool
  /-- [list of DTS and 1 b; R423 (09); reset DESIGN CHOICE empty] its home jobs of the last second, newest first: when each ended, and whether on another engine -/
  ran : List (Nat × Bool)
  /-- [32 b; R434 (09); reset 0] JOBS_N -/
  jobsN : Nat
  /-- [32 b; R434 (09); reset 0] STOLEN_FROM_N -/
  fromN : Nat
  /-- [32 b; R434 (09); reset 0] STOLEN_BY_N -/
  byN : Nat
  /-- [32 b; R434 (09); reset 0] XSTOLEN_BY_N -/
  xbyN : Nat
  /-- [32 b; R434 (09); reset 0] PARITY_N -/
  parN : Nat
  /-- [list of DTS; R429 (09); reset DESIGN CHOICE empty] parity events of the last 10 s -/
  parT : List Nat
deriving DecidableEq, Repr

/-- The engine array as a whole (R389, R425, R431). -/
structure EngArr where
  /-- [32 b; R435 (09); reset 0x6A3C_91F5] hash seed in force -/
  seed : Nat
  /-- [seed and DTS second or none; R425, R427 (09); reset none] epoch pending -/
  epoch : Option (Nat × Nat)
  /-- [1 b; R431 (09); reset DESIGN CHOICE 0] the array is lost and not yet rebuilt -/
  lost : Bool
deriving DecidableEq, Repr

/-- A record of an octant FCW queue (R37, R200, R219). -/
inductive FcwRec where
  /-- a correction record: channel, slot tag, DELTA -/
  | corr (c slot : Nat) (delta : Int)
  /-- a slot load: channel, slot, contents, the post-divider of the slot in force, and the slot that a kept trigger selects -/
  | load (c slot : Nat) (v : Slot)
deriving DecidableEq, Repr

/-- The two sides of a dual-clock queue as software sees them, and its drop counter (R527 to R537). -/
structure Xq where
  /-- [1 b; R529, R535 (12); reset DESIGN CHOICE 0] PRESENT -/
  present : Bool
  /-- [1 b; R528, R535 (12); reset DESIGN CHOICE 0] RESYNC, handshake in progress -/
  resync : Bool
  /-- [1 b; R527 (12); reset DESIGN CHOICE 1] the writer side reports FULL from a reset -/
  full : Bool
  /-- [32 b, 16 b for the hop queues; R535, R536 (12); reset 0] words dropped -/
  drop : Nat
deriving DecidableEq, Repr

/-- States of a master loop in the coding of ML_STATUS.STATE (R188). -/
inductive LoopSt where
  | off | acq | locked | scan | hold | retired
deriving DecidableEq, Repr

/-- A retune in progress (R184, R185): the opening command and the feedback to fall back to. -/
structure Retune where
  h : Hdr
  ni : Nat
  nf : Nat
deriving DecidableEq, Repr

/-- A master loop (R139 to R192). -/
structure Loop where
  /-- [3 b; R188 (04); reset 0 OFF] state -/
  st : LoopSt
  /-- [16 b; R188 (04); reset DESIGN CHOICE 0] TUNE -/
  tune : Int
  /-- [6 b; R188 (04); reset DESIGN CHOICE 0] band -/
  band : Nat
  /-- [1 b; R188 (04); reset DESIGN CHOICE 0] the loop holds the octant's outputs on bypass -/
  byp : Bool
  /-- [2 b; R188 (04); reset DESIGN CHOICE 0] plan band under attempt -/
  attempt : Nat
  /-- [3 b; R162, R188 (04); reset 0] cause of the last loss -/
  cause : Nat
  /-- [8 b; R188 ML_FEED (04); reset DS, reads 0] NI in force -/
  ni : Nat
  /-- [24 b; R188 ML_FEED (04); reset DS, reads 0] NF in force -/
  nf : Nat
  /-- [1 b; R168 (04); reset DESIGN CHOICE 0] the attempt in progress is on the current band from a frozen TUNE -/
  hold : Bool
  /-- [≤ 3 × (6 b, 16 b); R157 (04); reset DESIGN CHOICE empty] relock plan -/
  plan : List (Nat × Int)
  /-- [temperature; R157 (04); reset DESIGN CHOICE 0] octant temperature of the last plan -/
  planT : Int
  /-- [list; R166 (04); reset DESIGN CHOICE empty] bands still to try in SCAN -/
  scan : List (Nat × Int)
  /-- [1 b; R169 (04); reset DESIGN CHOICE 0] MARGIN raised since lock -/
  warned : Bool
  /-- [retune or none; R183 (04); reset none] retune in progress -/
  retune : Option Retune
  /-- [1 b; R185 (04); reset DESIGN CHOICE 0] the restoring commit has failed and is repeated -/
  restore : Bool
  /-- [1 b; R162 (04); reset DESIGN CHOICE 0] the comb has edges -/
  run : Bool
  /-- [(6 b, 16 b) or none; R153 (04); reset none] a band scan has opened the loop: band and TUNE that it returns to -/
  opened : Option (Nat × Int)
  /-- [feedback or none; R221 (05); reset none] comb for which the octant's slots were last composed -/
  comb : Option (Nat × Nat)
  /-- [1 b; R185, R221 (05); reset DESIGN CHOICE 0] a retune has changed the feedback since then -/
  anew : Bool
  /-- [16 b; R188 ML_COUNT (04); reset 0] LOSS_N -/
  lossN : Nat
  /-- [8 b; R188 ML_COUNT (04); reset 0] FORCED_N -/
  forcedN : Nat
  /-- [8 b; R188 ML_COUNT (04); reset 0] EXCUR_N -/
  excurN : Nat
  /-- [32 b; R188 (04); reset 0] ML_EVENT -/
  ev : RsReg
deriving DecidableEq, Repr

/-- Who has the welt of an octant (R453, R460, R466). -/
inductive WeltUse where
  | free
  /-- on loan to a calibration run of user channel `c` -/
  | loan (c : Nat)
  /-- taking over retired channel `c` -/
  | takeover (c : Nat)
  /-- standing in for retired channel `c` for good -/
  | standing (c : Nat)
  /-- the welt itself is retired -/
  | retired
deriving DecidableEq, Repr

/-- A handover or return in progress (R454 to R457). -/
structure Hand where
  /-- user channel -/
  ch : Nat
  /-- step of R454 in progress: 1 to 3 before the switch, 5 ON_WELT, 6 return, 8 waiting to retry a return -/
  step : Nat
  /-- consecutive records within 2 ps -/
  agree : Nat
  /-- restarts by hops in this run (R456) -/
  restarts : Nat
  /-- failed returns (R457) -/
  fails : Nat
  /-- the first error a has been entered into the traverse -/
  entered : Bool
  /-- traverse of the return alignment, apart from the channel's own, which is paused (R279) -/
  trav : Trav
  /-- HAND_SKEW at the switch, 2^-18 ns -/
  skew : Int
deriving DecidableEq, Repr

/-- An octant: its loop, its queues, its welt, its sensors (R16, R188, R433, R535, R760). -/
structure Oct where
  /-- [loop; 04] master loop -/
  loop : Loop
  /-- [16 × 128 b; R522 (12); reset empty] octant stamp queue, oldest first -/
  stampQ : List Rec
  /-- [SRC; R306 (07); reset DESIGN CHOICE 0] round-robin position of the stamp queue -/
  rr : Nat
  /-- [13 lanes; R522 (12); reset empty] octant FCW queue: lane and record, oldest first; lane 32 is the cobbler's -/
  fcw : List (Nat × FcwRec)
  /-- [≤ 66; R522 (12); reset empty] octant hop report queue, oldest first -/
  hopQ : List HopRep
  /-- [queue status; R535 (12)] stamp queue -/
  xStamp : Xq
  /-- [queue status; R535 (12)] FCW queue -/
  xFcw : Xq
  /-- [queue status; R535 (12)] hop report queue, REPORT_N -/
  xHop : Xq
  /-- [queue status; R535 (12)] hop select queue, SELECT_N -/
  xSel : Xq
  /-- [queue status; R535 (12)] request queue -/
  xReq : Xq
  /-- [32 b; R433 (09); reset 0] ENG_EVENT -/
  engEv : RsReg
  /-- [3 b; R433 (09); reset 0] ENG_EVENT.ENG -/
  engNo : Nat
  /-- [16 b; R760 (18); reset 0x8000 while unpowered] octant temperature sensor -/
  temp : Int
  /-- [use; R453, R460 (10); reset free] the welt -/
  welt : WeltUse
  /-- [handover or none; R454 (10); reset none] -/
  hand : Option Hand
  /-- [1 b; R461 (10); reset DS] the octant's stamping is retired -/
  noStamp : Bool
  /-- [1 b; R180 (04); reset DESIGN CHOICE 1] the VCLK island is held in island reset -/
  vclkRst : Bool
deriving DecidableEq, Repr

/-- A DLL control loop (R292 to R294, R565, R566). -/
structure Dll where
  /-- [10 b; R566 (13); reset DESIGN CHOICE 512, the value a loop starts from] CTRL -/
  ctrl : Nat
  /-- [3 b; R566 (13); reset DS, reads 0] RANGE -/
  range : Nat
  /-- [1 b; R293 (07); reset DESIGN CHOICE 0] lock declared -/
  lock : Bool
  /-- [1 b; R294 (07); reset DESIGN CHOICE 0] DLL_FAIL raised -/
  fail : Bool
deriving DecidableEq, Repr

/-- A correction set of a core (R297). -/
structure CorrSet where
  tapPos : List Nat
  tapWid : List Nat
  vern : List Nat
  ofs : Nat
  valid : Bool
deriving DecidableEq, Repr

/-- A TDC core (R286 to R306). -/
structure Core where
  /-- [≤ 2 × 128 b; R306 (07); reset empty] records waiting for the stamp queue -/
  held : List Rec
  /-- [set or none; R297, R298 (07); reset DS: none, the nominal set] correction set -/
  set : Option CorrSet
  /-- [6 b; R558 (13); reset DESIGN CHOICE 32, the nominal step] MRK_TRIM of a shared core -/
  trim : Nat
  /-- [21 b, TIV64, or none; R558, R559 (13); reset DS: none] anchor pair CORE_OFS_A, Δ_A -/
  anchor : Option (Nat × Int)
  /-- [set or none; R561 (13); reset none] values in force before a load, until the first event after it -/
  old : Option (Option CorrSet)
  /-- [1 b; R295 (07); reset DESIGN CHOICE 0] LINE_FAIL raised -/
  fail : Bool
  /-- [DTF or none; R303 order 3 (07); reset DESIGN CHOICE none] last marker event -/
  lastMrk : Option Nat
  /-- [DTF or none; R305 (07); reset DESIGN CHOICE none] last TXM event that became a record still held -/
  lastTxm : Option Nat
  /-- [32 × 21 b, none listed where not measured; R540 WELT_OFS (13); reset DS: none] offset of a welt core by octant position -/
  weltOfs : Tab Nat
deriving DecidableEq, Repr

/-- A stamp source (R57, R60, R303). -/
structure SrcS where
  /-- [12 b; R60 (02); reset 0] SEQ of the next record -/
  seq : Nat
  /-- [20 b; R303, R304 (07); reset 0] decimation count -/
  dec : Nat
  /-- [DTF or none; R303 order 2 (07); reset DESIGN CHOICE none] stamp of the last record -/
  last : Option Nat
  /-- [1 b; R60 (02); reset 0] the next record carries GAP -/
  gap : Bool
  /-- [32 b; R308 (07); reset 0] RATE_DROP_N of a device-level source -/
  rate : Nat
  /-- [32 b; R308 (07); reset 0] DLL_DROP_N of a device-level source -/
  dll : Nat
  /-- [32 b; R308 (07); reset 0] HOLD_DROP_N of a device-level source -/
  hold : Nat
deriving DecidableEq, Repr

/-- The device-level queues (R522, R536). -/
structure DevQ where
  /-- [16 × 128 b; R522 (12); reset empty] device stamp queue -/
  stampQ : List Rec
  /-- [SRC; R306 (07); reset DESIGN CHOICE 0] round-robin position -/
  rr : Nat
  /-- [queue status; R536 (12)] device stamp queue -/
  xStamp : Xq
  /-- [queue status; R536 (12)] rate-word queue -/
  xRate : Xq
  /-- [queue status; R536 (12)] cascade receive queue -/
  xCas : Xq
  /-- [queue status; R536 (12)] engine report queue -/
  xRep : Xq
  /-- [≤ 64; R522, R757 (12, 18); reset empty] record copies for latch entries on their way in the engine report queue -/
  copies : List Rec
deriving DecidableEq, Repr

/-! ## Interval unit and host stamp ring -/

/-- An interval pair (R318 to R332). -/
structure Pair where
  /-- [list; R320 (07); reset empty] records delivered and not yet processed, with LATE -/
  inQ : List (Rec × Bool)
  /-- [record or none; R322 (07); reset none] pending start -/
  start : Option (Rec × Bool)
  /-- [≤ 16; R325 (07); reset empty] undecided events of SIGNED mode in stamp order -/
  und : List (Rec × Bool)
  /-- [1 b; R319 (07); reset 0] the next result carries CFG -/
  cfg : Bool
  /-- [16 b; R330 (07); reset DESIGN CHOICE 0] RESULT_N of the last result -/
  resN : Nat
  /-- [32 b; R332 (07); reset 0] STRAY_N -/
  stray : Nat
  /-- [32 b; R332 (07); reset 0] RESTART_N -/
  restart : Nat
  /-- [32 b; R332 (07); reset 0] TIMEOUT_N -/
  timeout : Nat
  /-- [32 b; R332 (07); reset 0] OVF_N -/
  ovf : Nat
deriving DecidableEq, Repr

/-- The interval pairs and their ring (R318 to R333). -/
structure IvS where
  pairs : Tab Pair
  /-- [2,048 × 256 b; R331 (07); reset empty] interval ring, oldest first -/
  ring : List (W128 × W128)
  /-- [32 b; R331, R332 (07); reset 0] IV_RING_DROP -/
  drop : Nat
deriving DecidableEq, Repr

/-! ## Regression -/

/-- A result of a regression slot (R359 to R362, R367). -/
structure RgRes where
  freq : Nat
  rate : Nat
  tFit : Nat
  nFit : Nat
  resvar : Nat
  used : Nat
  status : Nat
  /-- the gate was that of a ONESHOT -/
  oneshot : Bool
deriving DecidableEq, Repr

/-- A regression slot (R341 to R380). -/
structure RgSlot where
  /-- [2 b; R377 W0.PRIO (08); reset 0] 0 free, 1 calibration, 2 service measurement, 3 test -/
  prio : Nat
  /-- [1 b; R377 W0.INTERNAL (08); reset 0] held by the cobbler -/
  internal : Bool
  /-- [list; R343 (08); reset empty] records delivered and not yet processed -/
  inQ : List Rec
  /-- [1 b; R347 to R349 (08); reset DESIGN CHOICE 0] a gate is in progress or awaited -/
  armed : Bool
  /-- [DTF; R377 W1.START (08); reset 0] start of the gate in progress or next -/
  start : Nat
  /-- [list of two DTF; R352 (08); reset empty] start and end of the gates of RG_SRC closed so far, back-to-back ones as one, newest first -/
  past : List (Nat × Nat)
  /-- [32 b; R377 W8.N (08); reset 0] records used in the gate in progress -/
  n : Nat
  /-- [64 b; R377 W8.N_LAST (08); reset 0] edge index of the last record used -/
  nLast : Nat
  /-- [DTF; R377 W9.T0 (08); reset 0] stamp of the gate's first record used -/
  t0 : Nat
  /-- [DTF; R377 W10.T_LAST (08); reset 0] stamp of the last record used -/
  tLast : Nat
  /-- [1 b; R354 (08); reset DESIGN CHOICE 0] polarity of the gate -/
  fall : Bool
  /-- [128 b; R377 W3 (08); reset 0] Σn -/
  sn : Nat
  /-- [128 b; R377 W4 (08); reset 0] Σn² -/
  snn : Nat
  /-- [128 b; R377 W5 (08); reset 0] Στ -/
  st : Nat
  /-- [128 b; R377 W6 (08); reset 0] Σn·τ -/
  snt : Nat
  /-- [128 b; R377 W7 (08); reset 0] Στ² -/
  stt : Nat
  /-- [9 b; R367 (08); reset 0] STATUS bits SLIP, GAP, WELT, UNCAL, DTS_HOLD and ORDER of the gate in progress -/
  flags : Nat
  /-- [1 b; R352 (08); reset 0] the next result carries LATE -/
  late : Bool
  /-- [1 b; R374 (08); reset 0] the next result carries CFG -/
  cfg : Bool
  /-- [12 b or none; R367 (08); reset none] SEQ of the previous record that reached the slot -/
  seq : Option Nat
  /-- [results; R351, R363 (08); reset empty] computed and not yet written -/
  out : List RgRes
  /-- [W11 to W13, N_USED, STATUS; R377 (08); reset DESIGN CHOICE 0] last result -/
  res : RgRes
  /-- [1 b; R377 W0, W2 (08); reset 0] a grant or a write has loaded the slot's words since the last reset; SRC and GATE read 0 until then -/
  loaded : Bool
  /-- [16 b; R377 W14.RESULT_N (08); reset 0] results since the grant -/
  resN : Nat
  /-- [32 b; R368, R377 (08); reset 0] SLIP_N -/
  slipN : Nat
  /-- [32 b; R368, R377 (08); reset 0] ORDER_N -/
  orderN : Nat
  /-- [32 b; R368, R377 (08); reset 0] LATE_N -/
  lateN : Nat
  /-- [32 b; R368, R377 (08); reset 0] POL_N -/
  polN : Nat
deriving DecidableEq, Repr

/-- The regression unit and its ring (R341, R379). -/
structure RgS where
  slots : Tab RgSlot
  /-- [1,024 × 512 b; R379 (08); reset empty] results, oldest first, four words each -/
  ring : List (List W128)
  /-- [32 b; R379 (08); reset 0] RG_RING_DROP -/
  drop : Nat
deriving DecidableEq, Repr

/-- The host stamp ring (R313). -/
structure RingS where
  /-- [8,192 × 128 b; R313 (07); reset empty] records, oldest first -/
  ring : List Rec
  /-- [32 b; R313, R786 (07, 19); reset 0] HOSTRING_DROP -/
  drop : Nat
  /-- [DTS second and count; R313 (07); reset DESIGN CHOICE 0] records into the ring in the present second -/
  rate : Nat × Nat
deriving DecidableEq, Repr

/-! ## Mailbox -/

/-- Door states in the coding of DOORn.STATE (R744). -/
inductive DoorSt where
  | idle | busy | reply
deriving DecidableEq, Repr

/-- A bulk stream on a door (R778 to R782). -/
structure Stream where
  cmd : Nat
  tag : BitVec 16
  /-- door of the opening command, which an inbound stream answers at its end -/
  opener : Hdr
  inbound : Bool
  /-- number of the block in the door -/
  block : Nat
  /-- outbound: words not yet sent; inbound: words received -/
  data : List W128
  /-- inbound: bits that the command named -/
  want : Nat
  /-- inbound: bits received -/
  got : Nat
  /-- the block in the door is the last -/
  last : Bool
  /-- [11 b; R780 (19)] stream position in the door, bits -/
  pos : Nat
deriving DecidableEq, Repr

/-- A mailbox door (R744, R765). -/
structure Door where
  /-- [16 × 128 b; R765 (19); reset DESIGN CHOICE 0] door words -/
  words : Tab W128
  /-- [2 b; R744 (18); reset 0 IDLE] STATE -/
  st : DoorSt
  /-- [1 b; R744 (18); reset 0] ERR -/
  err : Bool
  /-- [16 b; R744 (18); reset 0] TAG -/
  tag : BitVec 16
  /-- [8 b; R744 (18); reset 0] DONE_N -/
  doneN : Nat
  /-- [stream or none; R778 (19); reset none] -/
  stream : Option Stream
deriving DecidableEq, Repr

/-- An event that waits for door 6 (R783, R784): code, PARAMS, word 1 [127:96] and word 2. -/
structure Event where
  code : Nat
  params : Nat
  hi : Nat
  w2 : Nat
deriving DecidableEq, Repr

/-- The mailboxes (R744 to R748, R765 to R784). -/
structure MboxS where
  doors : Tab Door
  /-- [≤ 512 events; R783 (19); reset empty] events that wait, oldest first -/
  evq : List Event
  /-- [32 b; R783, R786 (19); reset 0] EVT_LOST_N -/
  evLost : Nat
  /-- [32 b; R784 (19); reset 0] events discarded since the last EVT_LOST -/
  evLostNew : Nat
  /-- [16 b; R784 (19); reset DESIGN CHOICE 0] event sequence number of the next event -/
  evSeq : Nat
deriving DecidableEq, Repr

/-! ## Modes, power, reset -/

/-- Device modes in the coding of DEV_STATUS.MODE (R512). -/
inductive Mode where
  | stowed | wake | survey | service | holdover | bypass
deriving DecidableEq, Repr

/-- Modes, power domains, brace and reset (R473 to R514). -/
structure PwrS where
  /-- [3 b; R512 (11); reset 0 STOWED (R496)] MODE -/
  mode : Mode
  /-- [3 b; R512 (11); reset 0] WAKE_STEP -/
  step : Nat
  /-- [2 b; R512 (11); reset DESIGN CHOICE 0] BYP_CAUSE: 1 measurement loop, 2 engine array, 3 WAKE_REF -/
  bypCause : Nat
  /-- [mode; R486, R487 (11); reset DESIGN CHOICE STOWED] mode that BYPASS interrupted -/
  bypFrom : Mode
  /-- [1 b; R512 (11); reset DESIGN CHOICE 0] BRACE -/
  brace : Bool
  /-- [1 b; R512 (11); reset DESIGN CHOICE 0] BRACE_DONE -/
  braceDone : Bool
  /-- [1 b; R512 (11); reset DESIGN CHOICE 0] PFAIL_N reads low -/
  pfail : Bool
  /-- [1 b; R512 (11); reset DESIGN CHOICE 1] level of HOLDUP_OK -/
  holdup : Bool
  /-- [10 b; R512 PWR (11); reset 0x007: PD_AON, PD_CTL, PD_IO (R475)] domains powered -/
  pwr : Nat
  /-- [10 b; R512 ISO (11); reset DESIGN CHOICE 0] domains in island reset -/
  iso : Nat
  /-- [8 b; R512 RAIL (11); reset DESIGN CHOICE 0xFF] rails good -/
  rail : Nat
  /-- [3 b; R512 RESET_CAUSE (11); reset 0] source of the last cold or warm reset -/
  cause : Nat
  /-- [8 b; R512 COB_N (11); reset 0] cobbler restarts -/
  cobN : Nat
  /-- [1 b; R738, R776 (18, 19); reset 0 (R13)] FW_STATUS.ROM: the boot ROM has found no image to start -/
  rom : Bool
  /-- [1 b; R492 (11); reset DESIGN CHOICE 0] a cold reset is held -/
  held : Bool
  /-- [1 b; R489 (11); reset DESIGN CHOICE 0] WAKE step 2 is repeated after a loss of the measurement loop -/
  redo : Bool
  /-- [1 b; R478, R513 (11); reset DESIGN CHOICE 0] STOWED has been reached from a reset and a WAKE_AUTO wake is due -/
  auto : Bool
  /-- [1 b; R508, R514 (11); reset DESIGN CHOICE 0] BRACE_SHED at the entry to the brace in force -/
  shed : Bool
  /-- [1 b; R487 (11); reset DESIGN CHOICE 0] WAKE interrupted by a loss waits for the exit from BYPASS -/
  halt : Bool
  /-- [32 b; R512 (11); reset 0] DEV_EVENT -/
  ev : RsReg
deriving DecidableEq, Repr

/-! ## Parameters -/

/-- Written parameter values (R786, R792); a value not listed is at its reset value. -/
structure ParS where
  /-- [per identifier; R786 (19); reset none written] device parameters as written, by identifier -/
  dev : Tab Nat
  /-- [per identifier and channel; R792 (19); reset none written] channels' own values, by 65536·channel + identifier -/
  own : Tab Nat
  /-- [64 profiles; R791 (19); reset none] lasts: last number, then identifier and value -/
  lasts : Tab (Tab Nat)
deriving DecidableEq, Repr

/-- A calibration run and its candidates (R567 to R573). -/
structure CalRun where
  /-- run number -/
  num : Nat
  /-- 0 WELT, 1 STAT, 2 SURVEY -/
  kind : Nat
  /-- channel, or octant mask of a SURVEY run -/
  unit : Nat
  /-- a SURVEY run includes the band scan -/
  band : Bool
  /-- sub-step of R569 in progress, 0 before step 5 -/
  part : Nat
  /-- DTS at the start -/
  t0 : Nat
  /-- candidate correction sets by core -/
  sets : Tab CorrSet
  /-- candidate DTC tables by channel index -/
  dtcs : Tab (Tab Nat)
  /-- candidate anchor pairs by core -/
  anchors : Tab (Nat × Int)
  /-- candidate MRK_TRIM by core -/
  trims : Tab Nat
  /-- candidate HAND_SKEW and HS_TEMP -/
  skew : Option (Int × Int)
  /-- candidate DLL ranges by loop -/
  dlls : Tab Nat
  /-- candidate WELT_OFS by core -/
  welts : Tab (Tab Nat)
  /-- junction temperature and DTS second of the measurement -/
  temp : Int
  /-- PARTS of the run, the bits of CAL_PARTS -/
  parts : Nat
  /-- the commit of the run is queued -/
  stored : Bool
  /-- regression slot held (R549) -/
  slot : Option Nat
  /-- corrections in force before candidates were loaded: set, anchor and MRK_TRIM by core, DTC by channel, RANGE by loop, HAND_SKEW (R542) -/
  oldCores : Tab (Option CorrSet × Option (Nat × Int) × Nat)
  oldDtcs : Tab (Tab Nat)
  oldDlls : Tab Nat
  oldSkew : Option (Int × Int)
  /-- slot in force and k of the dividers that a DTC part holds (R562) -/
  oldDivs : Tab (Slot × Nat)
  /-- DTS at the start of the sub-step in progress (R570) -/
  tPart : Nat
  /-- parameters as the run has found them: CAL_SPREAD, CAL_RUN_T, CAL_FREQ, and whether linearity counts the tone (R573) -/
  spread : Int
  runT : Nat
  freq : Nat
  tone : Bool
  /-- the run is a DTC_REASSIGN (R647) -/
  reassign : Bool
deriving DecidableEq, Repr

/-! ## Stores that wait or run (Datum store journal) -/

/-- What a store changes when its commit stands (R600, R603, R604). -/
inductive Change where
  /-- parameter values: device (identifier, value; none returns it to its reset value) and channel (key of `ParS.own`, value) -/
  | params (dev : List (Nat × Option Nat)) (own : List (Nat × Nat))
  /-- a last and its content; none deletes it (R793) -/
  | last (n : Nat) (v : Option (Tab Nat))
  /-- CH_LAST of channels c0 to c1 (R794) -/
  | lastApply (n c0 c1 : Nat)
  /-- new feedback of loop `k`, committed before the retune it belongs to (R184) -/
  | retune (k ni nf : Nat)
  /-- the previous feedback of loop `k` committed again (R185) -/
  | restore (k ni nf : Nat)
  /-- a hash epoch: seed and DTS second (R425) -/
  | epoch (seed e : Nat)
  /-- Graticule entries by entry index (R151) -/
  | grat (es : List (Nat × W128))
  /-- a retirement: KIND, unit, fault code (R612) -/
  | retire (kind unit fault : Nat)
  /-- completion of the retirement of channel `c` with its welt (R460) -/
  | takeover (c : Nat)
  /-- the clearing of a retirement (R464) -/
  | clear (kind unit : Nat)
  /-- the DTC table of a channel index (MNT_DTC_LOAD) -/
  | dtc (c : Nat) (t : Tab Nat)
  /-- the correction set and MRK_TRIM of a core with its temperature and DTS second (MNT_TDC_LOAD) -/
  | tdc (core : Nat) (v : CorrSet) (trim : Nat) (temp : Int) (t : Nat)
  /-- the corrections of calibration run `num` (R541) -/
  | cal (r : CalRun)
  /-- a Benchmark record, then the generation that it anchors: payload, core offsets and trims (R578) -/
  | bench (pay : List Nat) (ofs : List (Nat × Nat)) (trims : List (Nat × Nat)) (chs : List Nat)
  /-- an ageing record (R640) -/
  | age (pay : List Nat)
  /-- an AGE_COPY or BENCH_COPY of record `gen` (R622) -/
  | copy (ty gen : Nat) (pay : List Nat)
  /-- a boot header: PREF and slot states (R624) -/
  | boot (pref a b : Nat)
  /-- an image, and the boot header that marks its slot (R627) -/
  | image (slot : Nat) (pay : List Nat)
  /-- a remap entry (R595) -/
  | remap (logical phys : Nat)
  /-- a refresh SET (R613, R622) -/
  | refresh
  /-- the first SET of an empty store (R614) -/
  | first
deriving DecidableEq, Repr

/-- A store that waits for the journal: the command it answers and its change (R601). -/
structure StoreReq where
  h : Option Hdr
  cmd : Nat
  ch : Change
  /-- RESULT and further words of the reply -/
  res : Nat
  ws : List Nat
  /-- DTS second at the request -/
  secs : Nat
  /-- generation in force at the request -/
  gen : Nat
deriving DecidableEq, Repr

/-- A stored word of the flash (R589, R591): its data bits and how its check bits and tag classify it. -/
structure FWord where
  data : W128
  cls : WCls
deriving DecidableEq, Repr

/-- A record being written (R596, R600): type, GEN, first sector of its region, record slot of its header, payload, SECS, attempt. -/
structure Prog where
  ty : Nat
  gen : Nat
  reg : Nat
  pos : Nat
  pay : List Nat
  secs : Nat
  att : Nat
  /-- 0 for the first record of a store, 1 for the second (R578, R627) -/
  stage : Nat
deriving DecidableEq, Repr

/-- The Datum store: its flash, the generation in force and the queue of stores (R587 to R632). -/
structure StoreS where
  /-- [list; R601 (14); reset empty] stores in arrival order; the first is in progress or waits -/
  q : List StoreReq
  /-- [record or none; R600 (14); reset none] record in progress -/
  prog : Option Prog
  /-- [count; R600 (14); reset 0] record of the first store still to be written: 0, or 1 once its first record stands -/
  stage : Nat
  /-- [count; R600 (14); reset 0] failed attempts at that record -/
  att : Nat
  /-- [1 b; R506, R738 (11, 18); reset 0] the first store waits for HOLDUP_OK or the end of brace -/
  wait : Bool
  /-- [flash words of 144 b by absolute word number; R589 to R594 (14); reset DESIGN CHOICE wholly ERASED; an unlisted word reads ERASED] -/
  flash : Tab FWord
  /-- [≤ 7,216 × 32 b; R595, R624 (14); reset empty] physical sector by logical sector -/
  remap : Tab Nat
  /-- [count; R595 (14); reset 0] reserve sectors used -/
  resv : Nat
  /-- [1 b; R14, R483 (00, 11); reset 0] WAKE step 1 has loaded the DS fields, which read 0 until then -/
  loaded : Bool
  /-- [1 b; R595, R738 (14, 18); reset DS, reads 0] RES_OUT -/
  resOut : Bool
  /-- [48 b; R624 (14); reset DESIGN CHOICE 0] GEN of the newest valid boot header; 0 for none -/
  bootGen : Nat
  /-- [1 b; R624 (14); reset DESIGN CHOICE 1] copy that holds it -/
  bootCopy : Nat
  /-- [1 b; R624 (14); reset DESIGN CHOICE 0] PREF -/
  pref : Nat
  /-- [2 b; R624, R738 (14, 18); reset 0] STATE_A -/
  stA : Nat
  /-- [2 b; R624, R738 (14, 18); reset 0] STATE_B -/
  stB : Nat
  /-- [1 b; R616, R738 (14, 18); reset DS, reads 0] FOREIGN -/
  foreign : Bool
  /-- [1 b; R613, R738 (14, 18); reset DS, reads 0] LOST -/
  lost : Bool
  /-- [48 b; R605, R738 (14, 18); reset DS, reads 0] generation in force -/
  gen : Nat
  /-- [48 b; R609 (14); reset DS, reads 0] generation of the SET in force; 0 for none -/
  base : Nat
  /-- [1 b; R606, R738 (14, 18); reset DS, reads 0] bank of the SET in force -/
  bank : Nat
  /-- [count; R606 (14); reset DS, reads 0] DELTAs since the SET in force -/
  chain : Nat
  /-- [48 b; R605 (14); reset DS, reads 0] largest generation ever used, as read in headers and BENCH records -/
  hi : Nat
  /-- [1 b; R606, R613, R622 (14); reset DS, reads 0] a refresh SET is due -/
  due : Bool
  /-- [128 b per unit; R612 (14); reset DS: none] RETIRE items by KIND·4096 + UNIT -/
  ret : Tab Nat
  /-- [128 b; R610 EPOCH (14); reset DS, reads 0] EPOCH item -/
  epoch : Nat
  /-- [32 b; R543, R610 ANCHOR (13, 14); reset DS, reads 0] anchor Benchmark record -/
  anchor : Nat
  /-- [32 b; R591, R738 (14, 18); reset 0] DS_CORR_N -/
  corr : Nat
  /-- [32 b; R591, R738 (14, 18); reset 0] DS_UE_N -/
  ue : Nat
  /-- [32 b; R599, R738 (14, 18); reset 0] DS_TORN_N -/
  torn : Nat
  /-- [count; R613 (14); reset 0] SETs met with a generation already met -/
  dup : Nat
  /-- [physical sector, logical sector, region code, failures, or none; R608, R617 (14); reset none] erase in progress -/
  erasing : Option (Nat × Nat × Nat × Nat)
  /-- [physical, logical sector and region, or none; R505 (11); reset none] erase abandoned in brace, repeated after the next WAKE -/
  redo : Option (Nat × Nat × Nat)
  /-- [powered seconds; R622, R631 (14); reset DESIGN CHOICE 0] of the last scrub -/
  scrubT : Nat
deriving DecidableEq, Repr

/-- On-die OTP fields that are written after the factory (R588, R615, R629). -/
structure OtpS where
  /-- [32 b or none; R588, R751 (14, 18); reset DESIGN CHOICE none: not written] OEM_ID -/
  oem : Option Nat
  /-- [128 b or none; R588, R751 (14, 18); reset DESIGN CHOICE none: not written] NODE_SERIAL -/
  node : Option Nat
  /-- [4 b; R588 (14); reset DESIGN CHOICE 0] KEY_REVOKE -/
  revoke : Nat
  /-- [0 to 64; R588 (14); reset DESIGN CHOICE 0] AR_COUNT -/
  ar : Nat
  /-- [312 × (4 b, 4 b) as counts; R615 (14); reset DESIGN CHOICE 0] RET_MIRROR: retire and clear counts by KIND·4096 + unit -/
  mirror : Tab (Nat × Nat)
  /-- [rows in progress; R629 (14); reset empty] OTP rows being programmed: 0 OEM_ID, 1 NODE_SERIAL, 2 RET_MIRROR (unit, clear), 3 AR_COUNT, 4 KEY_REVOKE; and the command that each answers -/
  rows : List (Nat × Nat × Option Hdr)
deriving DecidableEq, Repr

/-- The running image (R625, R739). -/
structure Img where
  /-- 0 slot A, 1 slot B -/
  slot : Nat
  sram : Bool
  trial : Bool
  rel : Nat
  sv : Nat
  key : Nat
deriving DecidableEq, Repr

/-- A request of the memory port (R810). -/
inductive MemReq where
  /-- code line `n` of the image in slot `k`, and the line after it (R801) -/
  | fill (k n : Nat)
  /-- the window read whose data the host port waits for (R807) -/
  | window
  /-- the first store of the queue -/
  | store
  /-- an erase ahead, of the ageing ring or of a bank -/
  | erase (ring : Bool)
deriving DecidableEq, Repr

/-- The memory port and the prefetch buffer (R796 to R812). -/
structure MemS where
  /-- [1 b; R799 (20); reset DESIGN CHOICE 1] the fitted flash is usable -/
  usable : Bool
  /-- [count; R798, R892 (20, 14); reset DESIGN CHOICE 8,192] density declared, in sectors -/
  sectors : Nat
  /-- [1 b; R802 (20); reset 0] the flash is in continuous-read mode -/
  cont : Bool
  /-- [64 lines of 64 code bytes; R801 (20); reset empty] line number and its four stored words, oldest first -/
  lines : List (Nat × List W128)
  /-- [1 b; R812 (20); reset 0] the last fetch met a bus error -/
  busErr : Bool
  /-- [list; R810 (20); reset empty] requests that wait for the port, oldest first -/
  waiting : List MemReq
deriving DecidableEq, Repr

/-- A queue entry of the peripheral port (R814, R815): control word, output words, and whether a DAC transfer posted it. -/
structure PEntry where
  ctl : Nat
  out : List Nat
  dac : Bool
deriving DecidableEq, Repr

/-- The peripheral port (R813 to R822). -/
structure PerS where
  /-- [4 entries; R813 (20); reset empty] queue, the first in progress -/
  q : List PEntry
  /-- [2 b; R818 (20); reset 3] GPIO[1:0] levels -/
  gpio : Nat
  /-- [1 b; R822 (20); reset 0] idle level of PSCK, the CPOL of the last entry -/
  cpol : Bool
  /-- [≤ 128 × 32 b; R815 (20); reset DESIGN CHOICE 0] input words of the last entry completed -/
  inp : List Nat
deriving DecidableEq, Repr

/-- A gauge instance (R633, R643 to R655, R763). -/
structure GwInst where
  /-- [64 b; R763 (18); reset DS, reads 0] newest valid value -/
  val : Int
  /-- [1 b; R763 (18); reset DS, reads 0] the newest log's sample was valid -/
  valid : Bool
  /-- [32 b; R655 (15); reset 0] samples in the series -/
  n : Nat
  /-- [powered seconds; R644 (15); reset 0] of the first sample of the series -/
  t0 : Nat
  /-- [powered seconds; R644 (15); reset 0] of the newest sample of the series -/
  t1 : Nat
  /-- [16 b or none; R633 (15); reset none] first sample in the series of G4 and G5 as measured -/
  first : Option Int
  /-- [8 b; R655 (15); reset 0] REPLAN_N -/
  replanN : Nat
  /-- [powered seconds or none; R648 (15); reset none] last action -/
  acted : Option Nat
  /-- [1 b; R648 (15); reset 0] beyond the re-plan threshold at the last log -/
  rp : Bool
  /-- [1 b; R648 (15); reset 0] beyond the end threshold at the last log -/
  fin : Bool
  /-- [1 b; R654 (15); reset 0] early re-plan date within GW_WARN_T -/
  soonRp : Bool
  /-- [1 b; R654 (15); reset 0] early end date within GW_WARN_T -/
  soonEnd : Bool
  /-- [R646 code; R649, R650 (15); reset 0] action that waits for the host, 0 none -/
  want : Nat
  /-- [1 b; R652 (15); reset 0] an action is due at the next log -/
  again : Bool
  /-- [1 b; R643 (15); reset 0] the series restarts at the next sample -/
  restart : Bool
  /-- [2 b; R655 (15); reset 1 INSUFFICIENT] FIT -/
  fit : Nat
  /-- [4 × 32 b; R655 (15); reset 0xFFFF_FFFF] D_RP, D_RP_EARLY, D_END, D_END_EARLY -/
  dates : List Nat
  /-- [list; R643 (15); reset DESIGN CHOICE empty] at the newest sample: band of G1, RANGE of G2, CELLS of G3, DRV_SWING of G4 -/
  ctx : List Nat
deriving DecidableEq, Repr

/-- The wear gauges (R633 to R658). -/
structure GwS where
  inst : Tab GwInst
  /-- [2^-24 h; R637, R738 AGE_HOURS (15, 18); reset DESIGN CHOICE 0] G8 counter; software reads it in 2^-4 h, 40 b -/
  eq : Nat
  /-- [s; R637 (15); reset DESIGN CHOICE 0] powered-hours counter -/
  secs : Nat
  /-- [count; R638 (15); reset DS, reads 0] erases of all sectors since the flash was new -/
  g7 : Nat
  /-- [16 b; R640 (15); reset 0x8000] highest octant temperature over the period -/
  tMax : Int
  /-- [48 b; R617 (14); reset DS, reads 0] sequence number of the next AGE record -/
  seq : Nat
  /-- [powered seconds; R639 (15); reset DESIGN CHOICE 0] of the last sample -/
  last : Nat
  /-- [s; R639, R658 (15); reset 86,400] GW_LOG_PERIOD as the last sample found it -/
  per : Nat
  /-- [DTF; R655 (15); reset 0] DTS of the newest sample -/
  dts : Nat
  /-- [32 b; R642 (15); reset 0] GW_SKIP_N -/
  skip : Nat
  /-- [slot or none; R636 (15); reset none] regression slot held for G6 -/
  slot : Option Nat
  /-- [RATE64 sum and count; R633 G6 (15); reset DESIGN CHOICE 0] 1 s RATE results of the log period -/
  g6 : Int × Nat
deriving DecidableEq, Repr

/-- What a read commits once its data have been sent (R676). -/
inductive HpFx where
  | none
  /-- IND_ADDR after the read -/
  | ind (addr : Nat)
  /-- position of the stream of a bulk door after the read -/
  | bulk (door pos : Nat)
deriving DecidableEq, Repr

/-- The host port (R659 to R691, R743). -/
structure HpS where
  /-- [1 b; R689 (16); reset 0] HP_CFG.IDLE_DRV -/
  idle : Bool
  /-- [1 b; R689 (16); reset 0] HP_CFG.STRICT -/
  strict : Bool
  /-- [13 b; R689 (16); reset 0x0800] HP_LEN -/
  len : Nat
  /-- [32 b; R689 (16); reset 0] HP_OVR -/
  ovr : Nat
  /-- [8 b; R689 (16); reset 0] TRUNC_N -/
  truncN : Nat
  /-- [8 b; R689 (16); reset 0] SHORT_N -/
  shortN : Nat
  /-- [8 b; R689 (16); reset 0] BADOP_N -/
  badopN : Nat
  /-- [8 b; R689 (16); reset 0] BUSY_N -/
  busyN : Nat
  /-- [2 b; R689 (16); reset 0] ILANES -/
  il : Nat
  /-- [2 b; R689 (16); reset 0] OLANES -/
  ol : Nat
  /-- [1 b; R690, R727 (16, 17); reset 0] HP_LANES has been written -/
  lanesW : Bool
  /-- [32 b; R689 (16); reset 0] HP_FRAMES -/
  frames : Nat
  /-- [32 b; R743 (18); reset 0] HP_SCRATCH -/
  scratch : W32
  /-- [8 b; R743 (18); reset 0] HP_LAST.STATUS -/
  lastSt : Nat
  /-- [8 b; R743 (18); reset 0] HP_LAST.TAG -/
  lastTag : Nat
  /-- [4 b; R743 (18); reset 0] HP_LAST.OP -/
  lastOp : Nat
  /-- [32 b; R666, R667 (16); reset 0] pending reply word: STATUS, TAG, COUNT -/
  reply : W32
  /-- [0 to 8,192 b; R666 (16); reset none] pending read data: bit count and words in stream order -/
  nOut : Nat
  out : List W32
  /-- [effect; R676 (16); reset none] side effect that the delivery of the pending data commits -/
  fx : HpFx
  /-- [1 b; R677, R811 (16, 20); reset 0] the pending data come from the Datum window, and the memory port has not served the read yet -/
  wait : Bool
  /-- [4 b; R743 (18); reset 0] OP of the frame that the pending reply answers -/
  op : Nat
  /-- [1 b; R664 (16); reset 0] a frame is in progress -/
  low : Bool
  /-- [32 b each; R662, R666 (16); reset none] what the last frame sent: reply word and data, cut to its edges, the last word right-aligned -/
  sent : List W32
deriving DecidableEq, Repr

/-- The register file's own state (R697 to R732, R742, R749). -/
structure RegS where
  /-- [1 b; R721 (17); reset 0] ARMED -/
  armed : Bool
  /-- [1 b; R721, R724 (17); reset DESIGN CHOICE 0] LOCKOUT -/
  lockout : Bool
  /-- [3 b; R721 (17); reset 0] RUN -/
  run : Nat
  /-- [16 b; R721 (17); reset 0] KEYERR -/
  keyErr : Nat
  /-- [32 b; R721 (17); reset 0] REG_EVENT -/
  ev : RsReg
  /-- [16 b; R721 (17); reset 0] WO_ADDR -/
  woAddr : Nat
  /-- [24 b; R713 (17); reset 0] IND_ADDR -/
  addr : Nat
  /-- [16 b; R713 (17); reset 1] STRIDE -/
  stride : Nat
  /-- [1 b; R713 (17); reset 0] ABSENT -/
  absent : Bool
  /-- [1 b; R713 (17); reset 0] UE -/
  ue : Bool
  /-- [1 b; R713 (17); reset 0] ROWR -/
  rowr : Bool
  /-- [24 b, 128 b and 1 b, or none; R715 (17); reset none] indirect read latch: address of part 0, the word, uncorrectable -/
  rdLatch : Option (Nat × Nat × Bool)
  /-- [3 × 32 b; R716 (17); reset empty] indirect write latch -/
  wrLatch : Tab Nat
  /-- [8 b; R753 (18); reset 0] ABSENT_N -/
  absentN : Nat
  /-- [8 b; R753 (18); reset 0] UE_N -/
  ueN : Nat
  /-- [8 b; R753 (18); reset 0] ROWR_N -/
  rowrN : Nat
  /-- [≤ 96 b per value and master; R707 (17); reset 0] read shadows by base address, the cobbler's from 65,536 -/
  rdSh : Tab (List Nat)
  /-- [≤ 96 b per value and master; R709 (17); reset 0] write shadows, word by word -/
  wrSh : Tab (Tab Nat)
  /-- [24 b; R749 (18); reset 0] INT_MASK.MASK -/
  mask : Nat
  /-- [1 b; R749 (18); reset 0] INT_MASK.PIN -/
  pin : Bool
  /-- [16 b; R738 (18); reset 0] COB_STATUS.BEAT -/
  beat : Nat
  /-- [1 b; R738 (18); reset 0] COB_STATUS.READY -/
  ready : Bool
  /-- [32 b per address; R538, R760 (12, 18); reset DESIGN CHOICE none] last words delivered by islands that are absent -/
  copy : Tab Nat
deriving DecidableEq, Repr

/-- The cascade link (R841 to R849). -/
structure CasS where
  /-- [1 b; R843 (21); reset DESIGN CHOICE 0] the link is UP -/
  up : Bool
  /-- [CAS_ROLE or none; R849 (21); reset DESIGN CHOICE none] role in force while the link is enabled: 1 LEAD, 2 FOLLOW; 0 OFF -/
  role : Nat
  /-- [value or none; R849 (21); reset none] CAS_ROLE that takes effect at the next second mark -/
  rolePend : Option Nat
  /-- [0 to 64; R843 (21); reset DESIGN CHOICE 0] consecutive good frames -/
  run : Nat
  /-- [0 to 7; R843 (21); reset DESIGN CHOICE 0] bad frames since the last good one, each a frame period without a good frame -/
  miss : Nat
  /-- [16 b or none; R843 (21); reset DESIGN CHOICE none] SEQ of the last good frame -/
  last : Option Nat
  /-- [16 b; R842 (21); reset DESIGN CHOICE 0] number of the next frame sent -/
  txSeq : Nat
  /-- [frame or none; R842 (21); reset none] last frame sent -/
  tx : Option CasFrame
  /-- [DTS second; R842 (21); reset DESIGN CHOICE 0] second in which the last frame was launched -/
  txSec : Nat
  /-- [(16 b, DTF) or none; R842 (21); reset none] SEQ and stamp of the last peer frame stamped -/
  rx : Option (Nat × Nat)
  /-- [list; R845 (21); reset empty] SEQ and DTS of lead frames received, newest first, for t1 -/
  t1 : List (Nat × Nat)
  /-- [list; R845 (21); reset empty] sets begun: SEQ of the follower frame, t1, t2 and t3 -/
  sets : List (Nat × Nat × Nat × Nat)
  /-- [TIV64 or none; R846 (21); reset none] half round trip of the last complete set -/
  half : Option Int
  /-- [RATE64; R846 (21); reset DESIGN CHOICE 0] rate word of the lead's last good frame -/
  rate : Int
deriving DecidableEq, Repr

/-! ## Calibration -/

/-- A measured path of a Benchmark session (R577). -/
structure BmPath where
  ch : Nat
  path : Nat
  dLb : Int
  uLb : Nat
  m : Int
  e : Int
  temp : Int
  used : Nat
deriving DecidableEq, Repr

/-- An open Benchmark session (R576). -/
structure Bench where
  h : Hdr
  num : Nat
  uRef : Nat
  refId : Nat
  oper : Nat
  t0 : Nat
  dCal : Int
  uCal : Nat
  refOfs : Option Int
  paths : List BmPath
  slots : List Nat
deriving DecidableEq, Repr

/-- Calibration runs, their log and the Benchmark session (R550, R567, R576). -/
structure CalS where
  /-- [32 b; R550 (13); reset DESIGN CHOICE 1] number of the next run -/
  next : Nat
  /-- [list; R567 (13); reset empty] runs in progress -/
  runs : List CalRun
  /-- [list; R550 (13); reset empty] run log, newest first: CAL_DONE PARAMS and word 2 -/
  log : List (Nat × Nat)
  /-- [per channel; R574 (13); reset none] DTS of the last DONE welt run of a channel -/
  lastWelt : Tab Nat
  /-- [per core; R574, R575 (13); reset none] DTS and temperature of the measurement of a core's set -/
  meas : Tab (Nat × Int)
  /-- [list; R575 (13); reset empty] units for which CAL_STALE stands posted -/
  stale : List Nat
  /-- [session or none; R576 (13); reset none] -/
  bench : Option Bench
  /-- [list; R574 (13); reset empty] channels due at once after a Benchmark -/
  due : List Nat
  /-- [per channel; R574 (13); reset none] DTS of the last run that ended other than DONE -/
  retry : Tab Nat
  /-- [core, part 0 and DTS, or none; R785 (19); reset none] TAP_POS that MNT_TDC_LOAD part 0 has given -/
  part0 : Option (Nat × List Nat × Nat)
  /-- [list; R464 (10); reset DESIGN CHOICE empty] units that have passed their SURVEY check in this SURVEY visit, as KIND·4096 + unit -/
  checked : List Nat
deriving DecidableEq, Repr

/-- The on-die Graticule and the band scans in progress (R146 to R156). -/
structure GratS where
  /-- [2,048 × 128 b; R146, R148 (04); reset DS, reads 0] entries by entry index e -/
  ent : Tab W128
  /-- [list; R153 (04); reset empty] band scans in progress: the command, or none for a SURVEY run, and the loop mask -/
  scans : List (Option Hdr × Nat)
deriving DecidableEq, Repr

/-! ## Tests -/

/-- The pattern checker of a HOST test (R825, R834). -/
structure Chk where
  /-- register, newest bit at bit 0 -/
  reg : Nat
  /-- bits loaded -/
  n : Nat
  /-- consecutive matching bits before sync -/
  run : Nat
  /-- errors among the last 64 bits, one bit each -/
  win : Nat
deriving DecidableEq, Repr

/-- A pattern test in progress (R823 to R837). -/
structure TestRun where
  kind : Nat
  unit : Nat
  pattern : Nat
  /-- duration in seconds; 0 runs until TEST_STOP -/
  secs : Nat
  /-- [1 b; R825 (21)] the checker is in sync -/
  sync : Bool
  /-- [16 b or none; R827 (21)] µs from the start to the first sync -/
  syncT : Option Nat
  /-- [64 b; R825 (21)] bits checked -/
  bits : Nat
  /-- [32 b; R827 (21)] errors -/
  errs : Nat
  /-- [16 b; R825 (21)] RESYNC -/
  resync : Nat
  /-- [≤ 31 b; R825 (21)] register of the generator, or its position in the period of a pattern without one -/
  gen : Nat
  /-- checker of a HOST test -/
  chk : Chk
  /-- eye scan in progress: the command and its stream door -/
  eye : Option (Hdr × Nat)
deriving DecidableEq, Repr

/-! ## Bypass inputs -/

/-- The bypass inputs BYP_INjA and BYP_INjB as the dividers of their quadrant see them (R170, R900). -/
structure BypS where
  /-- [count; the model's own; reset DESIGN CHOICE 0] idle steps taken: what the free values of `Config` for the inputs and sensors are taken at -/
  clk : Nat
  /-- [8 × count; R900 (04); reset DESIGN CHOICE 0] rising edges of input 2j (A) and 2j + 1 (B) while quadrant j is powered -/
  n : Tab Nat
deriving DecidableEq, Repr

/-- The whole block. -/
structure State where
  /-- REFIN and the measurement loop -/
  ref : RefS
  /-- PPSIN -/
  pps : PpsS
  /-- external oscillator steering -/
  ext : ExtS
  /-- the timescale and its record -/
  ts : TsS
  /-- [32 × 128 b; R754, R755 (18); reset 0, SRC 0xFFF] latch entries -/
  latch : Tab W128
  /-- the 264 channels -/
  chans : Tab Chan
  /-- the eight octants -/
  octs : Tab Oct
  /-- DLL control loops: 0 to 7 octants, 8 reference -/
  dlls : Tab Dll
  /-- the 32 engines -/
  engs : Tab Eng
  /-- the engine array as a whole -/
  arr : EngArr
  /-- the 532 cores, numbered 2c (RX of channel index c), 2c + 1 (shared), 528 + d (device) -/
  cores : Tab Core
  /-- stamp sources by SRC -/
  srcs : Tab SrcS
  /-- device-level queues -/
  devq : DevQ
  /-- interval unit -/
  iv : IvS
  /-- host stamp ring -/
  ring : RingS
  /-- regression unit -/
  rg : RgS
  /-- mailboxes -/
  mbox : MboxS
  /-- modes, power and reset -/
  pwr : PwrS
  /-- written parameters and lasts -/
  par : ParS
  /-- Datum store -/
  store : StoreS
  /-- Graticule -/
  grat : GratS
  /-- [list of (KIND, unit, FAULT, DTS); R448, R450 (10); reset DESIGN CHOICE empty] faults of the last RETRY_WINDOW -/
  flt : List (Nat × Nat × Nat × Nat)
  /-- [list; R823 (21); reset empty] tests in progress -/
  tests : List TestRun
  /-- cascade link -/
  cas : CasS
  /-- calibration -/
  cal : CalS
  /-- on-die OTP -/
  otp : OtpS
  /-- [image or none; R625, R739 (14, 18); reset none: the boot ROM runs] running image -/
  img : Option Img
  /-- memory port -/
  mem : MemS
  /-- peripheral port -/
  per : PerS
  /-- wear gauges -/
  gw : GwS
  /-- host port -/
  hp : HpS
  /-- register file -/
  reg : RegS
  /-- [instruction; R838 (21); reset IDCODE, as IEEE 1149.1 gives] TAP instruction in force -/
  tap : Tap
  /-- bypass inputs -/
  byp : BypS
  /-- commands that wait, first in, first out -/
  pending : List Instr
deriving DecidableEq, Repr

/-! ## The state after reset -/

def RsReg.init : RsReg := ⟨0, 0, 0, none, none⟩
def Flags.init : Flags := ⟨false, false, false, false, false⟩
/-- P = 1 and M = 400 stand for the reset REF_FREQ of 10 MHz (R83). -/
def RefS.init : RefS := ⟨false, false, .none, false, false, 1, 400 * 2 ^ 48, 0, false, 0, true, false, 20000 * 2 ^ 24, 0, 0, .init⟩
def PpsS.init : PpsS := ⟨false, false, 0, none, 0⟩
def ExtS.init : ExtS := ⟨0, 0⟩
def Trav.init : Trav := ⟨0, 0, 0, 0, 0, false, false, false, false, 0, 0, 0, 0⟩
def TsSrv.init : TsSrv := ⟨0, 0, 0, 0, 0, 0, 0, none, 0, 0, false, 0, false, none, none⟩
def TsS.init : TsS :=
  { st := .stopped, role := .gm, rolePend := none, armed := none, dts := 0, edges := 0, hist := [], rate := 0, drift := 0,
    kp := 0, ki := 0, ki2 := 0, srv := .init, trav := .init, o := 0, forced := false, upOnce := false, bndRun := 0,
    bndLast := none, tickDue := false, tEntry := 0, refEntry := false, hoA := 0, hoD := 0, sigA := 0, sigD := 0, dValid := false, u := 0, boundN := 0,
    lease := none, leaseEng := 0, held := false, folE := none, ev := .init }
def Slot.init : Slot := ⟨0, 0, false⟩
def Div.init : Div :=
  { slots := [], act := 0, sel := 0, delta := 0, bnd := 0, acc := 0, k := 0, ramp := none, trig := [], kept := none, clamp := false, hopN := 0, hopLost := 0,
    dtc := [], dtcNew := none }
def Srv.init : Srv :=
  { i1 := 0, i2 := 0, anchor := none, pos := 0, bnd := 0, tCmd := 0, tLast := 0, dec := 0, e := 0, lkRun := 0, unRun := 0,
    outRun := 0, seqTxm := none, seqRx := none, fresh := false, gap := false, updN := 0, lt := none, hoRun := 0, slot := 0, delta := 0, chk := none,
    segs := [], chkRun := 0, reentry := 0 }
def ChCnt.init : ChCnt := ⟨0, 0, 0, 0, 0, 0, 0, 0, 0, 0, []⟩
def Chan.init : Chan :=
  { st := .idle, cause := .none, prev := .idle, lock := false, srv := .init, trav := .init, i2En := false, servoRx := false,
    kp := 0, ki := 0, ki2 := 0, tUpd := 0, monLast := 0, monN := 0, monSeen := false, periods := [], lease := none, leaseEng := 0, rAdopt := 0, rEdges := [],
    cnt := .init, div := .init, out := .none, sw := none, bypSel := 2, bypOfs := 0, hiz := false, slow := false, divT := [], ueT := [], pulse := [],
    handSkew := 0, hsTemp := 0 }
def Eng.init : Eng := ⟨[], [], none, none, [], false, false, [], 0, 0, 0, 0, 0, []⟩
def EngArr.init : EngArr := ⟨0x6A3C91F5, none, false⟩
def Xq.init : Xq := ⟨false, false, true, 0⟩
def Loop.init : Loop :=
  { st := .off, tune := 0, band := 0, byp := false, attempt := 0, cause := 0, ni := 0, nf := 0, hold := false, plan := [], planT := 0,
    scan := [], warned := false, retune := none, restore := false, run := false, opened := none, comb := none, anew := false, lossN := 0, forcedN := 0, excurN := 0,
    ev := .init }
def Oct.init : Oct :=
  { loop := .init, stampQ := [], rr := 0, fcw := [], hopQ := [], xStamp := .init, xFcw := .init, xHop := .init,
    xSel := .init, xReq := .init, engEv := .init, engNo := 0, temp := -32768, welt := .free, hand := none, noStamp := false,
    vclkRst := true }
def Dll.init : Dll := ⟨512, 0, false, false⟩
def Core.init : Core := ⟨[], none, 32, none, none, false, none, none, []⟩
def SrcS.init : SrcS := ⟨0, 0, none, false, 0, 0, 0⟩
def DevQ.init : DevQ := ⟨[], 0, .init, .init, .init, .init, []⟩
def Pair.init : Pair := ⟨[], none, [], false, 0, 0, 0, 0, 0⟩
def IvS.init : IvS := ⟨[], [], 0⟩
def RingS.init : RingS := ⟨[], 0, (0, 0)⟩
def RgRes.init : RgRes := ⟨0, 0, 0, 0, 0, 0, 0, false⟩
def RgSlot.init : RgSlot :=
  { prio := 0, internal := false, inQ := [], armed := false, start := 0, past := [], n := 0, nLast := 0, t0 := 0, tLast := 0,
    fall := false, sn := 0, snn := 0, st := 0, snt := 0, stt := 0, flags := 0, late := false, cfg := false, seq := none,
    out := [], res := .init, loaded := false, resN := 0, slipN := 0, orderN := 0, lateN := 0, polN := 0 }
def RgS.init : RgS := ⟨[], [], 0⟩
def Door.init : Door := ⟨[], .idle, false, 0, 0, none⟩
def MboxS.init : MboxS := ⟨[], [], 0, 0, 0⟩
def PwrS.init : PwrS :=
  { mode := .stowed, step := 0, bypCause := 0, bypFrom := .stowed, brace := false, braceDone := false, pfail := false,
    holdup := true, pwr := 7, iso := 0, rail := 255, cause := 0, cobN := 0, rom := false, held := false, redo := false, auto := false
    shed := false, halt := false, ev := .init }
def ParS.init : ParS := ⟨[], [], []⟩
def StoreS.init : StoreS :=
  { q := [], prog := none, stage := 0, att := 0, wait := false, flash := [], remap := [], resv := 0, loaded := false, resOut := false, bootGen := 0,
    bootCopy := 1, pref := 0, stA := 0, stB := 0, foreign := false, lost := false, gen := 0, base := 0, bank := 0, chain := 0,
    hi := 0, due := false, ret := [], epoch := 0, anchor := 0, corr := 0, ue := 0, torn := 0, dup := 0, erasing := none,
    redo := none, scrubT := 0 }
def OtpS.init : OtpS := ⟨none, none, 0, 0, [], []⟩
def MemS.init : MemS := ⟨true, 8192, false, [], false, []⟩
def PerS.init : PerS := ⟨[], 3, false, []⟩
def GwInst.init : GwInst :=
  { val := 0, valid := false, n := 0, t0 := 0, t1 := 0, first := none, replanN := 0, acted := none, rp := false, fin := false,
    soonRp := false, soonEnd := false, want := 0, again := false, restart := false, fit := 1
    dates := List.replicate 4 0xFFFFFFFF, ctx := [] }
def GwS.init : GwS := ⟨[], 0, 0, 0, -32768, 0, 0, 86400, 0, 0, none, (0, 0)⟩
def HpS.init : HpS :=
  { idle := false, strict := false, len := 0x800, ovr := 0, truncN := 0, shortN := 0, badopN := 0, busyN := 0, il := 0, ol := 0, lanesW := false,
    frames := 0, scratch := 0, lastSt := 0, lastTag := 0, lastOp := 0, reply := 0, nOut := 0, out := [], fx := .none,
    wait := false, op := 0, low := false, sent := [] }
def RegS.init : RegS :=
  { armed := false, lockout := false, run := 0, keyErr := 0, ev := .init, woAddr := 0, addr := 0, stride := 1, absent := false, ue := false,
    rowr := false, rdLatch := none, wrLatch := [], absentN := 0, ueN := 0, rowrN := 0, rdSh := [], wrSh := [], mask := 0,
    pin := false, beat := 0, ready := false, copy := [] }
def GratS.init : GratS := ⟨[], []⟩
def CasS.init : CasS := ⟨false, 0, none, 0, 0, none, 0, none, 0, none, [], [], none, 0⟩
def CalS.init : CalS := ⟨1, [], [], [], [], [], none, [], [], none, []⟩

/-- The block right after reset (R13, R496): every register at its Reset column, nothing powered beyond PD_AON,
PD_CTL and PD_IO, every memory and queue empty. Fields whose value the spec does not state are named in the log. -/
def State.reset : State :=
  { ref := .init, pps := .init, ext := .init, ts := .init, latch := [], chans := [], octs := [], dlls := [], engs := [],
    arr := .init, cores := [], srcs := [], devq := .init, iv := .init, ring := .init, rg := .init, mbox := .init, pwr := .init,
    par := .init, store := .init, grat := .init, flt := [], tests := [], cas := .init, cal := .init, otp := .init, img := none,
    mem := .init, per := .init, gw := .init, hp := .init, reg := .init, tap := .idcode, byp := ⟨0, []⟩, pending := [] }

end Sys2Proof.Machine
end

