-- ==== Sys2Proof/Machine/Params.lean ====
section
/-!
DEFINITION. The parameter space (R786 to R792): every configuration identifier with its type, range, reset value,
persistence and class, and the value in force. Bounds and reset values that the manual gives in ps, Hz or powers of
ten are rounded to the format under R75 (DEDUCED, log 12).
-/
namespace Sys2Proof.Machine

/-- The type and range of a parameter as its chapter's table states it. -/
inductive PTy where
  | nat (lo hi : Nat)
  | int (lo hi : Int)
  /-- a DTF, normalised (R53) -/
  | dtf
  /-- a DTF whose bits [6:0] are zero -/
  | dtfStamp
  /-- a TIV64 whose bits [6:0] are zero -/
  | stamp (lo hi : Nat)
  /-- a SRC that is not reserved (R57) -/
  | src
  /-- as `src`, or 0xFFF for off -/
  | srcOff
  /-- 1, 2, 4 or 8 -/
  | div
  /-- a RATE64 other than 0 -/
  | nonzero
  /-- 0, or a value of the range -/
  | zeroOr (lo hi : Nat)
  /-- a signed 16-bit temperature -/
  | temp (lo hi : Int)
  /-- a multiple of `m`; its upper bound is R892's -/
  | mult (m : Nat)
  /-- a last number, or 0xFF for none (R787) -/
  | zeroOrLast
deriving DecidableEq, Repr

/-- One row of a parameter table: first identifier, instances and the step between them, and what R786 to R792 ask. -/
structure PDef where
  id : Nat
  ty : PTy
  rst : Nat
  persists : Bool
  guarded : Bool
  readOnly : Bool
  perCh : Bool
  count : Nat
  step : Nat
deriving DecidableEq, Repr

namespace P

def wakeAuto : Nat := 0x0000
def wakeTarget : Nat := 0x0001
def wakeRefT : Nat := 0x0002
def quadEn : Nat := 0x0003
def braceShed : Nat := 0x0004
def braceRel : Nat := 0x0005
def wdtT : Nat := 0x0006
def latchSrc : Nat := 0x0010
def refFreq : Nat := 0x0100
def refBw : Nat := 0x0101
def mpllLkwin : Nat := 0x0102
def refLosscnt : Nat := 0x0103
def refQualT : Nat := 0x0104
def refFwin : Nat := 0x0105
def ppsEdge : Nat := 0x0106
def ppsWin : Nat := 0x0107
def ppsDelay : Nat := 0x0108
def tsRole : Nat := 0x0109
def tsAutostart : Nat := 0x010A
def tsStartVal : Nat := 0x010B
def tsRateFixed : Nat := 0x010C
def tsBw : Nat := 0x010D
def tsSlew : Nat := 0x010E
def tsRateMax : Nat := 0x010F
def tsLkwin : Nat := 0x0110
def tsLkcnt : Nat := 0x0111
def bndCh : Nat := 0x0112
def bndFreq : Nat := 0x0113
def bndAnchor : Nat := 0x0114
def tsOfsStepMax : Nat := 0x0115
def upLossT : Nat := 0x0116
def hoQualT : Nat := 0x0117
def hoFitSpan : Nat := 0x0118
def hoFitMin : Nat := 0x0119
def extMode : Nat := 0x011A
def extSel : Nat := 0x011B
def extBits : Nat := 0x011C
def extGain : Nat := 0x011D
def extPeriodT : Nat := 0x011E
def extStepMax : Nat := 0x011F
def tsResMax : Nat := 0x0120
def casRole : Nat := 0x0121
def casAsym : Nat := 0x0122
def casTrainT : Nat := 0x0123
def mlNi : Nat := 0x0200
def mlNf : Nat := 0x0201
def mlBw : Nat := 0x0202
def mlLkwin : Nat := 0x0203
def mlLkcnt : Nat := 0x0204
def mlLosswin : Nat := 0x0205
def mlLosscnt : Nat := 0x0206
def mlAcqT : Nat := 0x0207
def mlReturn : Nat := 0x0208
def mlTuneWarn : Nat := 0x0209
def gratUse : Nat := 0x0280
def refMonDecim : Nat := 0x0300
def calEdge : Nat := 0x0301
def calDecim : Nat := 0x0302
def devStampTap : Nat := 0x0303
def ivMode : Nat := 0x0310
def ivStart : Nat := 0x0311
def ivStop : Nat := 0x0312
def ivTimeoutT : Nat := 0x0313
def rgSrc : Nat := 0x0400
def rgMode : Nat := 0x0401
def rgFnom : Nat := 0x0402
def rgStart : Nat := 0x0403
def rgGate : Nat := 0x0404
def rgNmin : Nat := 0x0405
def rgHostMax : Nat := 0x0480
def hashSeed : Nat := 0x0500
def stealEn : Nat := 0x0501
def settleTh : Nat := 0x0502
def idleTh : Nat := 0x0503
def stealWait : Nat := 0x0504
def stealXWait : Nat := 0x0505
def skewTh : Nat := 0x0506
def skewT : Nat := 0x0507
def calMode : Nat := 0x0600
def calFreq : Nat := 0x0601
def calLinSrc : Nat := 0x0602
def calParts : Nat := 0x0603
def calSched : Nat := 0x0604
def calPeriod : Nat := 0x0605
def calStatPeriod : Nat := 0x0606
def calRetryT : Nat := 0x0607
def calTempTrig : Nat := 0x0608
def calRunTime : Nat := 0x0609
def calSpread : Nat := 0x060A
def bmT : Nat := 0x060B
def dsEndurance : Nat := 0x0700
def dsDeltaMax : Nat := 0x0701
def dsScrubPeriod : Nat := 0x0702
def dsWinBase : Nat := 0x0703
def gwLogPeriod : Nat := 0x0A00
def gwTau : Nat := 0x0A01
def gwFitMin : Nat := 0x0A02
def gwWarnT : Nat := 0x0A03
def gwAuto : Nat := 0x0A04
def gwRp1 : Nat := 0x0A05
def gwRp2 : Nat := 0x0A06
def gwRp3 : Nat := 0x0A07
def gwRp4 : Nat := 0x0A08
def gwRp5 : Nat := 0x0A09
def gwRp6 : Nat := 0x0A0A
def gwRp7 : Nat := 0x0A0B
def gwRp8 : Nat := 0x0A0C
def gwLife : Nat := 0x0A0D
def gwLkwinMax : Nat := 0x0A0E
def hoModel : Nat := 0x0A0F
def gwSeries : Nat := 0x0A20
def bypSrc : Nat := 0x1000
def bypDiv : Nat := 0x1001
def hopFreq0 : Nat := 0x1010
def hopFreq1 : Nat := 0x1011
def hopFreq2 : Nat := 0x1012
def hopFreq3 : Nat := 0x1013
def hopRamp : Nat := 0x1014
def hopMrkLast : Nat := 0x1015
def fmax : Nat := 0x1016
def mrkMode : Nat := 0x1017
def mrkEdge : Nat := 0x1018
def mrkWidth : Nat := 0x1019
def mrkDiv : Nat := 0x101A
def mrkOfs : Nat := 0x101B
def drvSwing : Nat := 0x101C
def drvIdle : Nat := 0x101D
def drvInv : Nat := 0x101E
def slewLim : Nat := 0x1020
def phResMax : Nat := 0x1021
def rxMode : Nat := 0x1030
def rxEdge : Nat := 0x1031
def rxDecim : Nat := 0x1032
def txmDecim : Nat := 0x1033
def outGateRx : Nat := 0x1034
def outGateTxm : Nat := 0x1035
def outRunMax : Nat := 0x1036
def stampTap : Nat := 0x1037
def servoIn : Nat := 0x1040
def updRate : Nat := 0x1041
def servoBw : Nat := 0x1042
def servoDamp : Nat := 0x1043
def i2En : Nat := 0x1044
def lkwin : Nat := 0x1050
def lkcnt : Nat := 0x1051
def acqT : Nat := 0x1052
def lossN : Nat := 0x1053
def hoQualN : Nat := 0x1054
def divChkTh : Nat := 0x1055
def handSlew : Nat := 0x1056
def handT : Nat := 0x1057
def handSkewP : Nat := 0x1058
def chAutostart : Nat := 0x1060
def chLast : Nat := 0x1061
def gwSeries3 : Nat := 0x1070
def gwSeries4 : Nat := 0x1071
end P

/-- Device parameters (R513, R764). -/
def pDev : List PDef := [
  ⟨P.wakeAuto, .nat 0 1, 0, true, false, false, false, 1, 1⟩,
  ⟨P.wakeTarget, .nat 0 1, 0, true, false, false, false, 1, 1⟩,
  ⟨P.wakeRefT, .int (26214400000000) (157286400000000000), 262144000000000, true, false, false, false, 1, 1⟩,
  ⟨P.quadEn, .nat 0 15, 15, true, false, false, false, 1, 1⟩,
  ⟨P.braceShed, .nat 0 1, 0, true, false, false, false, 1, 1⟩,
  ⟨P.braceRel, .int (262144000000) (2621440000000000), 13107200000000, true, false, false, false, 1, 1⟩,
  ⟨P.wdtT, .int (2621440000000) (2621440000000000), 262144000000000, true, true, false, false, 1, 1⟩,
  ⟨P.latchSrc, .srcOff, 4095, false, false, false, false, 24, 1⟩]

/-- Timescale and cascade parameters (R138, R282, R848). -/
def pTs : List PDef := [
  ⟨P.refFreq, .nat 83886080000000 4194304000000000, 167772160000000, true, false, false, false, 1, 1⟩,
  ⟨P.refBw, .nat 16777216000 3355443200000, 335544320000, true, false, false, false, 1, 1⟩,
  ⟨P.mpllLkwin, .int (1311) (131072), 5243, true, false, false, false, 1, 1⟩,
  ⟨P.refLosscnt, .nat 8 4096, 64, true, false, false, false, 1, 1⟩,
  ⟨P.refQualT, .int (26214400000000) (157286400000000000), 524288000000000, true, false, false, false, 1, 1⟩,
  ⟨P.refFwin, .int (18446744) (184467440737096), 184467440737, true, false, false, false, 1, 1⟩,
  ⟨P.ppsEdge, .nat 0 1, 0, true, false, false, false, 1, 1⟩,
  ⟨P.ppsWin, .int (2621440) (26214400000000), 262144000, true, false, false, false, 1, 1⟩,
  ⟨P.ppsDelay, .int (-262144000000) (262144000000), 0, true, false, false, false, 1, 1⟩,
  ⟨P.tsRole, .nat 0 2, 0, true, false, false, false, 1, 1⟩,
  ⟨P.tsAutostart, .nat 0 2, 1, true, false, false, false, 1, 1⟩,
  ⟨P.tsStartVal, .dtf, 0, false, false, false, false, 1, 1⟩,
  ⟨P.tsRateFixed, .int (-3689348814741910) (3689348814741910), 0, true, false, false, false, 1, 1⟩,
  ⟨P.tsBw, .nat 1678 6710886400000, 16777, true, false, false, false, 1, 1⟩,
  ⟨P.tsSlew, .int (18446744) (3689348814741910), 1844674407371, true, false, false, false, 1, 1⟩,
  ⟨P.tsRateMax, .int (18446744074) (3689348814741910), 184467440737096, true, true, false, false, 1, 1⟩,
  ⟨P.tsLkwin, .int (2621) (262144000), 262144, true, false, false, false, 1, 1⟩,
  ⟨P.tsLkcnt, .nat 1 1024, 16, true, false, false, false, 1, 1⟩,
  ⟨P.bndCh, .nat 0 255, 0, true, false, false, false, 1, 1⟩,
  ⟨P.bndFreq, .nat 419430400000000 13522436096000000, 2621440000000000, true, false, false, false, 1, 1⟩,
  ⟨P.bndAnchor, .nat 0 1, 0, true, false, false, false, 1, 1⟩,
  ⟨P.tsOfsStepMax, .int (262) (262144000000), 2621440, true, false, false, false, 1, 1⟩,
  ⟨P.upLossT, .int (2621440000) (2621440000000000), 262144000000, true, false, false, false, 1, 1⟩,
  ⟨P.hoQualT, .int (262144000000000) (157286400000000000), 2621440000000000, true, false, false, false, 1, 1⟩,
  ⟨P.hoFitSpan, .nat 3600 2592000, 86400, true, false, false, false, 1, 1⟩,
  ⟨P.hoFitMin, .nat 3600 2592000, 14400, true, false, false, false, 1, 1⟩,
  ⟨P.extMode, .nat 0 1, 0, true, false, false, false, 1, 1⟩,
  ⟨P.extSel, .nat 0 1, 0, true, false, false, false, 1, 1⟩,
  ⟨P.extBits, .nat 12 24, 16, true, false, false, false, 1, 1⟩,
  ⟨P.extGain, .nonzero, 0, true, false, false, false, 1, 1⟩,
  ⟨P.extPeriodT, .int (262144000000000) (943718400000000000), 2621440000000000, true, false, false, false, 1, 1⟩,
  ⟨P.extStepMax, .int (1844674) (184467440737), 1844674407, true, false, false, false, 1, 1⟩,
  ⟨P.tsResMax, .int (262144) (2621440000000000000), 262144000000000, true, false, false, false, 1, 1⟩,
  ⟨P.casRole, .nat 0 2, 0, true, false, false, false, 1, 1⟩,
  ⟨P.casAsym, .int (-2621440) (2621440), 0, true, false, false, false, 1, 1⟩,
  ⟨P.casTrainT, .int (262144000000) (2621440000000000), 26214400000000, true, false, false, false, 1, 1⟩]

/-- Master-loop parameters (R189). -/
def pMl : List PDef := [
  ⟨P.mlNi, .nat 40 52, 40, true, false, true, false, 8, 16⟩,
  ⟨P.mlNf, .nat 0 16777215, 0, true, false, true, false, 8, 16⟩,
  ⟨P.mlBw, .nat 3355443200000 33554432000000, 8388608000000, true, false, false, false, 8, 16⟩,
  ⟨P.mlLkwin, .int (262) (26214), 1311, true, false, false, false, 8, 16⟩,
  ⟨P.mlLkcnt, .nat 256 65536, 4096, true, false, false, false, 8, 16⟩,
  ⟨P.mlLosswin, .int (262) (262144), 13107, true, false, false, false, 8, 16⟩,
  ⟨P.mlLosscnt, .nat 4 4096, 32, true, false, false, false, 8, 16⟩,
  ⟨P.mlAcqT, .int (13107200000) (2621440000000), 31457280000, true, false, false, false, 8, 16⟩,
  ⟨P.mlReturn, .nat 0 1, 0, true, false, false, false, 8, 16⟩,
  ⟨P.mlTuneWarn, .nat 16384 32000, 28672, true, false, false, false, 8, 16⟩,
  ⟨P.gratUse, .nat 8192 32767, 24576, true, false, false, false, 1, 1⟩]

/-- Stamp, interval and regression parameters (R339, R380). -/
def pIv : List PDef := [
  ⟨P.refMonDecim, .nat 1 1048576, 16, true, false, false, false, 1, 1⟩,
  ⟨P.calEdge, .nat 0 1, 0, true, false, false, false, 1, 1⟩,
  ⟨P.calDecim, .nat 1 1048576, 1, true, false, false, false, 1, 1⟩,
  ⟨P.devStampTap, .nat 0 15, 0, false, false, false, false, 1, 1⟩,
  ⟨P.ivMode, .nat 0 2, 0, false, false, false, false, 16, 4⟩,
  ⟨P.ivStart, .src, 2048, false, false, false, false, 16, 4⟩,
  ⟨P.ivStop, .src, 2049, false, false, false, false, 16, 4⟩,
  ⟨P.ivTimeoutT, .int (262144000) (2621440000000000), 262144000000000, false, false, false, false, 16, 4⟩,
  ⟨P.rgSrc, .src, 2050, false, false, false, false, 16, 8⟩,
  ⟨P.rgMode, .nat 0 2, 0, false, false, false, false, 16, 8⟩,
  ⟨P.rgFnom, .nat 16777216 26843545600000000, 0, false, false, false, false, 16, 8⟩,
  ⟨P.rgStart, .dtfStamp, 0, false, false, false, false, 16, 8⟩,
  ⟨P.rgGate, .stamp 2621440000 26214400000000000, 262144000000000, false, false, false, false, 16, 8⟩,
  ⟨P.rgNmin, .nat 3 16777216, 16, false, false, false, false, 16, 8⟩,
  ⟨P.rgHostMax, .nat 0 16, 12, true, false, false, false, 1, 1⟩]

/-- Engine, calibration and Datum store parameters (R435, R585, R631). -/
def pEng : List PDef := [
  ⟨P.hashSeed, .nat 0 4294967295, 1782354421, true, false, true, false, 1, 1⟩,
  ⟨P.stealEn, .nat 0 1, 0, true, true, false, false, 1, 1⟩,
  ⟨P.settleTh, .nat 32 128, 64, true, false, false, false, 1, 1⟩,
  ⟨P.idleTh, .nat 0 48, 24, true, false, false, false, 1, 1⟩,
  ⟨P.stealWait, .nat 1 16, 2, true, false, false, false, 1, 1⟩,
  ⟨P.stealXWait, .nat 4 27, 12, true, false, false, false, 1, 1⟩,
  ⟨P.skewTh, .nat 1 50, 10, true, false, false, false, 1, 1⟩,
  ⟨P.skewT, .int (262144000000000) (943718400000000000), 15728640000000000, true, false, false, false, 1, 1⟩,
  ⟨P.calMode, .nat 0 2, 0, true, false, false, false, 1, 1⟩,
  ⟨P.calFreq, .nat 16777216 4194304000000000, 167772160000000, true, false, false, false, 1, 1⟩,
  ⟨P.calLinSrc, .nat 0 2, 0, true, false, false, false, 1, 1⟩,
  ⟨P.calParts, .nat 0 15, 15, true, false, false, false, 1, 1⟩,
  ⟨P.calSched, .nat 0 1, 1, true, false, false, false, 1, 1⟩,
  ⟨P.calPeriod, .nat 86400 2678400, 2592000, true, false, false, false, 1, 1⟩,
  ⟨P.calStatPeriod, .zeroOr 3600 2678400, 86400, true, false, false, false, 1, 1⟩,
  ⟨P.calRetryT, .nat 60 86400, 3600, true, false, false, false, 1, 1⟩,
  ⟨P.calTempTrig, .temp 128 1280, 1024, true, false, false, false, 1, 1⟩,
  ⟨P.calRunTime, .int (262144000000000) (157286400000000000), 15728640000000000, true, false, false, false, 1, 1⟩,
  ⟨P.calSpread, .int (26) (1311), 262, true, false, false, false, 1, 1⟩,
  ⟨P.bmT, .nat 3600 604800, 86400, true, false, false, false, 1, 1⟩,
  ⟨P.dsEndurance, .nat 10000 1000000, 100000, true, false, false, false, 1, 1⟩,
  ⟨P.dsDeltaMax, .nat 16 4096, 1024, true, false, false, false, 1, 1⟩,
  ⟨P.dsScrubPeriod, .nat 2592000 63072000, 31536000, true, false, false, false, 1, 1⟩,
  ⟨P.dsWinBase, .mult 4096, 0, false, false, false, false, 1, 1⟩]

/-- Wear and forecast parameters (R656). -/
def pGw : List PDef := [
  ⟨P.gwLogPeriod, .nat 3600 604800, 86400, true, false, false, false, 1, 1⟩,
  ⟨P.gwTau, .nat 86400 31536000, 2592000, true, false, false, false, 1, 1⟩,
  ⟨P.gwFitMin, .nat 8 1000, 30, true, false, false, false, 1, 1⟩,
  ⟨P.gwWarnT, .nat 2592000 315360000, 31536000, true, false, false, false, 1, 1⟩,
  ⟨P.gwAuto, .nat 0 1, 0, true, false, false, false, 1, 1⟩,
  ⟨P.gwRp1, .nat 4096 32766, 16384, true, false, false, false, 1, 1⟩,
  ⟨P.gwRp2, .nat 64 383, 320, true, false, false, false, 1, 1⟩,
  ⟨P.gwRp3, .nat 16 512, 96, true, false, false, false, 1, 1⟩,
  ⟨P.gwRp4, .nat 2 24, 10, true, false, false, false, 1, 1⟩,
  ⟨P.gwRp5, .nat 1000 29000, 15000, true, false, false, false, 1, 1⟩,
  ⟨P.gwRp6, .nat 1 15, 8, true, false, false, false, 1, 1⟩,
  ⟨P.gwRp7, .nat 6554 58981, 32768, true, false, false, false, 1, 1⟩,
  ⟨P.gwRp8, .nat 50 99, 80, true, false, false, false, 1, 1⟩,
  ⟨P.gwLife, .nat 315360000 1576800000, 946080000, true, true, false, false, 1, 1⟩,
  ⟨P.gwLkwinMax, .int (1311) (26214), 5243, true, true, false, false, 1, 1⟩,
  ⟨P.hoModel, .nat 0 1, 0, true, false, false, false, 1, 1⟩,
  ⟨P.gwSeries, .nat 0 18446744073709551615, 0, true, false, true, false, 28, 1⟩]

/-- Per-channel templates (R189, R249, R282, R339, R435, R470, R513, R656, R787). -/
def pCh : List PDef := [
  ⟨P.bypSrc, .nat 0 2, 2, true, false, false, true, 1, 1⟩,
  ⟨P.bypDiv, .div, 1, true, false, false, true, 1, 1⟩,
  ⟨P.hopFreq0, .zeroOr 16777216 18446744073709551614, 0, true, false, false, true, 1, 1⟩,
  ⟨P.hopFreq1, .zeroOr 16777216 18446744073709551614, 0, true, false, false, true, 1, 1⟩,
  ⟨P.hopFreq2, .zeroOr 16777216 18446744073709551614, 0, true, false, false, true, 1, 1⟩,
  ⟨P.hopFreq3, .zeroOr 16777216 18446744073709551614, 0, true, false, false, true, 1, 1⟩,
  ⟨P.hopRamp, .nat 0 4095, 0, true, false, false, true, 1, 1⟩,
  ⟨P.hopMrkLast, .nat 1 3, 1, true, false, false, true, 1, 1⟩,
  ⟨P.fmax, .nat 16777216 26843545600000000, 26843545600000000, true, true, false, true, 1, 1⟩,
  ⟨P.mrkMode, .nat 0 4, 1, true, false, false, true, 1, 1⟩,
  ⟨P.mrkEdge, .nat 0 2, 0, true, false, false, true, 1, 1⟩,
  ⟨P.mrkWidth, .nat 1 1048576, 1, true, false, false, true, 1, 1⟩,
  ⟨P.mrkDiv, .nat 2 16777216, 2, true, false, false, true, 1, 1⟩,
  ⟨P.mrkOfs, .int (-131072000000000) (131072000000000), 0, true, false, false, true, 1, 1⟩,
  ⟨P.drvSwing, .nat 0 7, 4, true, false, false, true, 1, 1⟩,
  ⟨P.drvIdle, .nat 0 1, 1, true, false, false, true, 1, 1⟩,
  ⟨P.drvInv, .nat 0 1, 0, true, false, false, true, 1, 1⟩,
  ⟨P.slewLim, .int (18446744) (3689348814741910), 1844674407371, true, false, false, true, 1, 1⟩,
  ⟨P.phResMax, .int (262144) (2621440000000000000), 262144000000, true, false, false, true, 1, 1⟩,
  ⟨P.rxMode, .nat 0 1, 1, true, false, false, true, 1, 1⟩,
  ⟨P.rxEdge, .nat 0 1, 0, true, false, false, true, 1, 1⟩,
  ⟨P.rxDecim, .nat 1 1048576, 256, true, false, false, true, 1, 1⟩,
  ⟨P.txmDecim, .nat 0 1048576, 0, true, false, false, true, 1, 1⟩,
  ⟨P.outGateRx, .int (2621) (262144000), 131072, true, false, false, true, 1, 1⟩,
  ⟨P.outGateTxm, .int (2621) (262144000), 131072, true, false, false, true, 1, 1⟩,
  ⟨P.outRunMax, .nat 1 255, 8, true, false, false, true, 1, 1⟩,
  ⟨P.stampTap, .nat 0 7, 0, false, false, false, true, 1, 1⟩,
  ⟨P.servoIn, .nat 0 1, 0, true, false, false, true, 1, 1⟩,
  ⟨P.updRate, .nat 16777216000 67108864000000, 16777216000000, true, false, false, true, 1, 1⟩,
  ⟨P.servoBw, .nat 1678 6710886400000, 167772160000, true, false, false, true, 1, 1⟩,
  ⟨P.servoDamp, .nat 512 4096, 724, true, false, false, true, 1, 1⟩,
  ⟨P.i2En, .nat 0 1, 0, true, false, false, true, 1, 1⟩,
  ⟨P.lkwin, .int (262) (26214400), 5243, true, false, false, true, 1, 1⟩,
  ⟨P.lkcnt, .nat 1 65535, 64, true, false, false, true, 1, 1⟩,
  ⟨P.acqT, .int (262144000000) (2621440000000000000), 262144000000000, true, false, false, true, 1, 1⟩,
  ⟨P.lossN, .nat 2 1024, 16, true, false, false, true, 1, 1⟩,
  ⟨P.hoQualN, .nat 2 65535, 64, true, false, false, true, 1, 1⟩,
  ⟨P.divChkTh, .int (5243) (78643), 39322, true, false, false, true, 1, 1⟩,
  ⟨P.handSlew, .int (18446744) (3689348814741910), 3689348814741910, true, false, false, true, 1, 1⟩,
  ⟨P.handT, .int (262144000000) (2621440000000000000), 2621440000000000, true, false, false, true, 1, 1⟩,
  ⟨P.handSkewP, .int (-262144) (262144), 0, true, false, true, true, 1, 1⟩,
  ⟨P.chAutostart, .nat 0 1, 0, true, false, false, true, 1, 1⟩,
  ⟨P.chLast, .zeroOrLast, 255, true, false, true, true, 1, 1⟩,
  ⟨P.gwSeries3, .nat 0 18446744073709551615, 0, true, false, true, true, 1, 1⟩,
  ⟨P.gwSeries4, .nat 0 18446744073709551615, 0, true, false, true, true, 1, 1⟩]

/-- `v` is a legal TIV64 or RATE64 word, that is, not the marker of R65 and R67. -/
def signedOk (v : Nat) : Bool := v < 2 ^ 64 && v != 2 ^ 63

/-- A DTF word is normalised (R52, R53). -/
def dtfOk (v : Nat) : Bool := v < 2 ^ 96 && bits v 18 30 ≤ 999999999

/-- A SRC code that R57 does not reserve. -/
def srcOk (v : Nat) : Bool := (v < 0x420 && v % 4 != 3) || (0x800 ≤ v && v ≤ 0x803)

/-- The raw value `v` lies in the range that its own table row states (R789, check 4). -/
def PTy.ok : PTy → Nat → Bool
  | .nat lo hi, v => lo ≤ v && v ≤ hi
  | .int lo hi, v => signedOk v && lo ≤ ofBits 64 v && ofBits 64 v ≤ hi
  | .dtf, v => dtfOk v
  | .dtfStamp, v => dtfOk v && v % 128 == 0
  | .stamp lo hi, v => signedOk v && lo ≤ v && v ≤ hi && v % 128 == 0
  | .src, v => srcOk v
  | .srcOff, v => srcOk v || v == 0xFFF
  | .div, v => v == 1 || v == 2 || v == 4 || v == 8
  | .nonzero, v => signedOk v && v != 0
  | .zeroOr lo hi, v => v == 0 || (lo ≤ v && v ≤ hi)
  | .temp lo hi, v => lo ≤ ofBits 16 v && ofBits 16 v ≤ hi
  | .mult m, v => v % m == 0
  | .zeroOrLast, v => v < 64 || v == 0xFF

/-- Every configuration parameter of the device. -/
def pAll : List PDef := pDev ++ pTs ++ pMl ++ pIv ++ pEng ++ pGw ++ pCh

/-- The row that defines identifier `id`: its first identifier plus a whole number of steps (R786). -/
def PDef.has (d : PDef) (id : Nat) : Bool :=
  d.id ≤ id && (id - d.id) % d.step == 0 && (id - d.id) / d.step < d.count

def pFind (id : Nat) : Option PDef := pAll.find? (·.has id)

/-- The reset value of a configuration identifier. -/
def pReset (id : Nat) : Nat := match pFind id with
  | some d => d.rst
  | none => 0

/-- Key of channel `c`'s own value of template `id` in `ParS.own`. -/
def ownKey (c id : Nat) : Nat := 65536 * c + id

/-- The entry of key `i`, if one is listed. -/
def look {α : Type} : Tab α → Nat → Option α
  | [], _ => none
  | (j, a) :: t, i => if j = i then some a else look t i

/-- The table without the entry of key `i`. -/
def drop {α : Type} (i : Nat) : Tab α → Tab α
  | [] => []
  | (j, a) :: t => if j = i then drop i t else (j, a) :: drop i t

/-- A device parameter in force, raw. TS_BW while unwritten follows the role in force (R891). -/
def ParS.dv (p : ParS) (role : Role) (id : Nat) : Nat :=
  match look p.dev id with
  | some v => v
  | none => if id = P.tsBw ∧ role ≠ .gm then 167772160 else pReset id

/-- The last that channel `c` names, if any (R787, R792). -/
def ParS.lastOf (p : ParS) (c : Nat) : Option (Tab Nat) :=
  match look p.own (ownKey c P.chLast) with
  | some n => if n = 0xFF then none else look p.lasts n
  | none => none

/-- A channel parameter in force, raw: own value, else that of its last, else the reset value (R792). -/
def ParS.cv (p : ParS) (c id : Nat) : Nat :=
  match look p.own (ownKey c id) with
  | some v => v
  | none => match p.lastOf c with
    | some l => (look l id).getD (pReset id)
    | none => pReset id

/-- A device parameter in force, raw. -/
def State.pv (s : State) (id : Nat) : Nat := s.par.dv s.ts.role id
/-- A signed device parameter in force. -/
def State.pi (s : State) (id : Nat) : Int := ofBits 64 (s.pv id)
/-- A channel parameter in force, raw. -/
def State.cp (s : State) (c id : Nat) : Nat := s.par.cv c id
/-- A signed channel parameter in force. -/
def State.ci (s : State) (c id : Nat) : Int := ofBits 64 (s.cp c id)

end Sys2Proof.Machine
end

