-- ==== Sys2Proof/Machine/Ops.lean ====
section
/-!
DEFINITION. Named operations on the state that every family uses: reading and changing a unit, delivering an event
to an RS register, posting an event for door 6, counting, changing the device mode, the time formats.
-/
namespace Sys2Proof.Machine

/-! ## Units -/

def State.chan (s : State) (c : Nat) : Chan := s.chans.get .init c
def State.oct (s : State) (k : Nat) : Oct := s.octs.get .init k
def State.eng (s : State) (e : Nat) : Eng := s.engs.get .init e
def State.core (s : State) (i : Nat) : Core := s.cores.get .init i
def State.src (s : State) (i : Nat) : SrcS := s.srcs.get .init i
def State.dll (s : State) (i : Nat) : Dll := s.dlls.get .init i
def State.door (s : State) (n : Nat) : Door := s.mbox.doors.get .init n
def State.gwi (s : State) (i : Nat) : GwInst := s.gw.inst.get .init i
def State.rgSlot (s : State) (i : Nat) : RgSlot := s.rg.slots.get .init i
def State.pair (s : State) (p : Nat) : Pair := s.iv.pairs.get .init p

def State.modRef (f : RefS → RefS) (s : State) : State := { s with ref := f s.ref }
def State.modPps (f : PpsS → PpsS) (s : State) : State := { s with pps := f s.pps }
def State.modExt (f : ExtS → ExtS) (s : State) : State := { s with ext := f s.ext }
def State.modTs (f : TsS → TsS) (s : State) : State := { s with ts := f s.ts }
def State.modArr (f : EngArr → EngArr) (s : State) : State := { s with arr := f s.arr }
def State.modDevq (f : DevQ → DevQ) (s : State) : State := { s with devq := f s.devq }
def State.modIv (f : IvS → IvS) (s : State) : State := { s with iv := f s.iv }
def State.modRing (f : RingS → RingS) (s : State) : State := { s with ring := f s.ring }
def State.modRg (f : RgS → RgS) (s : State) : State := { s with rg := f s.rg }
def State.modMbox (f : MboxS → MboxS) (s : State) : State := { s with mbox := f s.mbox }
def State.modPwr (f : PwrS → PwrS) (s : State) : State := { s with pwr := f s.pwr }
def State.modPar (f : ParS → ParS) (s : State) : State := { s with par := f s.par }
def State.modStore (f : StoreS → StoreS) (s : State) : State := { s with store := f s.store }
def State.modGrat (f : GratS → GratS) (s : State) : State := { s with grat := f s.grat }
def State.modOtp (f : OtpS → OtpS) (s : State) : State := { s with otp := f s.otp }
def State.modMem (f : MemS → MemS) (s : State) : State := { s with mem := f s.mem }
def State.modPer (f : PerS → PerS) (s : State) : State := { s with per := f s.per }
def State.modGw (f : GwS → GwS) (s : State) : State := { s with gw := f s.gw }
def State.modHp (f : HpS → HpS) (s : State) : State := { s with hp := f s.hp }
def State.modReg (f : RegS → RegS) (s : State) : State := { s with reg := f s.reg }
def State.modCal (f : CalS → CalS) (s : State) : State := { s with cal := f s.cal }
def State.modByp (f : BypS → BypS) (s : State) : State := { s with byp := f s.byp }
def State.modCas (f : CasS → CasS) (s : State) : State := { s with cas := f s.cas }
def State.modChan (c : Nat) (f : Chan → Chan) (s : State) : State := { s with chans := s.chans.put c (f (s.chan c)) }
def State.modOct (k : Nat) (f : Oct → Oct) (s : State) : State := { s with octs := s.octs.put k (f (s.oct k)) }
def State.modEng (e : Nat) (f : Eng → Eng) (s : State) : State := { s with engs := s.engs.put e (f (s.eng e)) }
def State.modCore (i : Nat) (f : Core → Core) (s : State) : State := { s with cores := s.cores.put i (f (s.core i)) }
def State.modSrc (i : Nat) (f : SrcS → SrcS) (s : State) : State := { s with srcs := s.srcs.put i (f (s.src i)) }
def State.modDll (i : Nat) (f : Dll → Dll) (s : State) : State := { s with dlls := s.dlls.put i (f (s.dll i)) }
def State.modDoor (n : Nat) (f : Door → Door) (s : State) : State :=
  s.modMbox fun m => { m with doors := m.doors.put n (f (m.doors.get .init n)) }
def State.modPair (p : Nat) (f : Pair → Pair) (s : State) : State :=
  s.modIv fun v => { v with pairs := v.pairs.put p (f (v.pairs.get .init p)) }

def State.modGwi (i : Nat) (f : GwInst → GwInst) (s : State) : State :=
  s.modGw fun g => { g with inst := g.inst.put i (f (g.inst.get .init i)) }
def State.modSlot (i : Nat) (f : RgSlot → RgSlot) (s : State) : State :=
  s.modRg fun r => { r with slots := r.slots.put i (f (r.slots.get .init i)) }

def State.modLoop (k : Nat) (f : Loop → Loop) (s : State) : State := s.modOct k fun o => { o with loop := f o.loop }
def State.modTsSrv (f : TsSrv → TsSrv) (s : State) : State := s.modTs fun t => { t with srv := f t.srv }
def State.modTsTrav (f : Trav → Trav) (s : State) : State := s.modTs fun t => { t with trav := f t.trav }
def State.modTrav (c : Nat) (f : Trav → Trav) (s : State) : State := s.modChan c fun x => { x with trav := f x.trav }
def State.modSrv (c : Nat) (f : Srv → Srv) (s : State) : State := s.modChan c fun x => { x with srv := f x.srv }
def State.modDiv (c : Nat) (f : Div → Div) (s : State) : State := s.modChan c fun x => { x with div := f x.div }
def State.modCnt (c : Nat) (f : ChCnt → ChCnt) (s : State) : State := s.modChan c fun x => { x with cnt := f x.cnt }

/-- The state after applying `f` for every member of a list, first to last. -/
def forAll {α : Type} (l : List α) (f : α → State → State) (s : State) : State := l.foldl (fun s a => f a s) s

/-- The numbers 0 to n − 1. -/
def upTo (n : Nat) : List Nat := List.range n

/-! ## Octants, channels, engines by number (R16 to R18) -/

/-- Octant of channel index `c`. -/
def octOf (c : Nat) : Nat := if c < 256 then c / 32 else c - 256
/-- Welt of octant `k`, as a channel index. -/
def weltOf (k : Nat) : Nat := 256 + k
/-- The 32 user channels and the welt of octant `k`. -/
def chansOf (k : Nat) : List Nat := (upTo 32).map (32 * k + ·) ++ [weltOf k]
/-- Quadrant of octant `k` (R17). -/
def quadOf (k : Nat) : Nat := k / 2
/-- Core numbers (R286, R610): RX and shared cores of a channel index, device-level cores. -/
def rxCore (c : Nat) : Nat := 2 * c
def shCore (c : Nat) : Nat := 2 * c + 1
def devCore (d : Nat) : Nat := 528 + d

/-- Bits of PWR_STATUS by domain (R512). -/
def pdRef : Nat := 3
def pdEng : Nat := 4
def pdQ (j : Nat) : Nat := 5 + j
def pdCas : Nat := 9

/-- Domain `d` is powered and not in island reset. -/
def State.domOn (s : State) (d : Nat) : Bool := s.pwr.pwr.testBit d && !s.pwr.iso.testBit d
def setBit (x i : Nat) (b : Bool) : Nat := if x.testBit i = b then x else if b then x + 2 ^ i else x - 2 ^ i
def State.setPwr (d : Nat) (b : Bool) (s : State) : State := s.modPwr fun p => { p with pwr := setBit p.pwr d b }
def State.setIso (d : Nat) (b : Bool) (s : State) : State := s.modPwr fun p => { p with iso := setBit p.iso d b }
/-- Quadrant `j` is enabled in QUAD_EN (R476). -/
def State.quadEn (s : State) (j : Nat) : Bool := (s.pv P.quadEn).testBit j

/-! ## Events of RS registers (R518, R704) -/

/-- Delivery of one event: event bit `b` (register bit number) set, SEQ and the delivered count advanced. -/
def RsReg.raise (b : Nat) (r : RsReg) : RsReg :=
  { r with seq := r.seq + 1, ev := r.ev ||| (1 <<< (b - 8)), n := r.n + 1 }

/-- A clear request of a master that wrote word `w` (R705). -/
def RsReg.clear (host : Bool) (w : W32) (r : RsReg) : RsReg :=
  if w.setWidth 8 = r.seq ∧ (if host then r.host else r.cob) = some r.n
  then { r with ev := r.ev &&& ~~~((w >>> 8).setWidth 24) } else r

/-- A read by a master records the delivered-event count (R706). -/
def RsReg.noteRead (host : Bool) (r : RsReg) : RsReg :=
  if host then { r with host := some r.n } else { r with cob := some r.n }

/-- The register word: SEQ and event bits. -/
def RsReg.word (r : RsReg) : W32 := (r.ev.setWidth 32 <<< 8) ||| r.seq.setWidth 32

def State.devEv (b : Nat) (s : State) : State := s.modPwr fun p => { p with ev := p.ev.raise b }
def State.tsEv (b : Nat) (s : State) : State := s.modTs fun t => { t with ev := t.ev.raise b }
def State.refEv (b : Nat) (s : State) : State := s.modRef fun r => { r with ev := r.ev.raise b }
def State.mlEv (k b : Nat) (s : State) : State := s.modLoop k fun l => { l with ev := l.ev.raise b }
/-- An event of engine `e` in its octant's ENG_EVENT; ENG names the engine (R433). -/
def State.engEv (e b : Nat) (s : State) : State :=
  s.modOct (e / 4) fun o => { o with engEv := o.engEv.raise b, engNo := e % 4 }

/-! ## Time formats (R52 to R56, R103, R104) -/

/-- 2^-18 ns units in a second. -/
def secU : Nat := 1000000000 * 2 ^ 18
/-- Modulus of the linear count (R55). -/
def linMod : Nat := 2 ^ 48 * secU
/-- Modulus of the counter in 2^-64 ns. -/
def dtsMod : Nat := linMod * 2 ^ 46

/-- Linear count of a DTF word. -/
def linOf (w : Nat) : Nat := (bits w 48 48 * 1000000000 + bits w 18 30) * 2 ^ 18 + bits w 0 18
/-- DTF word of a linear count. -/
def dtfOf (l : Nat) : Nat :=
  (l / secU) % 2 ^ 48 * 2 ^ 48 + (l / 2 ^ 18 % 1000000000) * 2 ^ 18 + l % 2 ^ 18
/-- A counter value read out, rounded (R104), as a linear count. -/
def readDts (x : Nat) : Nat := (roundDiv x (2 ^ 46)).toNat % linMod
/-- Sum of a DTF and a TIV64 modulo 2^48 s (R55, R56). -/
def linAdd (l : Nat) (d : Int) : Nat := (((l : Int) + d) % (linMod : Int)).toNat

/-- The interval from time `b` to time `a`, modulo 2^48 s (R55, R56). -/
def stampDiff (a b : Nat) : Int :=
  ((a : Int) - b + (linMod / 2 : Nat)) % (linMod : Int) - (linMod / 2 : Nat)
/-- The interval from counter value `b` to counter value `a`, modulo 2^48 s, in 2^-64 ns. -/
def dtsDiff (a b : Nat) : Int :=
  ((a : Int) - b + (dtsMod / 2 : Nat)) % (dtsMod : Int) - (dtsMod / 2 : Nat)

/-- The DTS as read at this moment, or 0 while STOPPED, as a linear count. -/
def State.now (s : State) : Nat := if s.ts.st = .stopped then 0 else readDts s.ts.dts

/-- The image of a signed value in a TIV64, or the out-of-range marker (R65). -/
def tivWord (x : Int) : Nat := if x.natAbs < 2 ^ 63 then toBits 64 x else 2 ^ 63

/-- A TIV64 or RATE64 operand is not the marker (R65, R67). -/
def tivOk (d : Int) : Bool := d.natAbs < 2 ^ 63

/-- FLAGS as the 8-bit field of R59. -/
def Flags.word (f : Flags) : Nat :=
  fld 4 1 (bit f.fall) + fld 3 1 (bit f.hold) + fld 2 1 (bit f.uncal) + fld 1 1 (bit f.gap) + bit f.welt
/-- The 128-bit stamp record (R57). -/
def Rec.word (r : Rec) : W128 :=
  BitVec.ofNat 128 (dtfOf r.t * 2 ^ 32 + fld 20 12 r.src + fld 12 8 r.fl.word + fld 0 12 r.seq)

/-! ## Counters -/

def ChCnt.bump (i : Nat) (k : ChCnt) : ChCnt := { k with n := k.n.put i (satAdd 32 1 (k.n.get 0 i)) }
/-- Counter 0x1899 + i of channel `c` advances (R786). -/
def State.count (c i : Nat) (s : State) : State := s.modCnt c (ChCnt.bump i)

/-! ## Events on door 6 (R748, R783, R784) -/

/-- The message of event `e` with sequence number `n` at DTS `t`. -/
def Event.msg (e : Event) (n t : Nat) : Tab W128 :=
  [(0, BitVec.ofNat 128 (fld 112 16 e.code + fld 96 16 n + fld 80 16 48 + fld 0 64 e.params)),
   (1, BitVec.ofNat 128 (fld 96 32 e.hi + dtfOf t)), (2, BitVec.ofNat 128 e.w2)]

/-- The event that door 6 takes next: EVT_LOST after a discard, else the oldest. -/
def MboxS.nextEvent (m : MboxS) : Option (Event × MboxS) :=
  if m.evLostNew ≠ 0 then some (⟨0x8102, m.evLostNew, 0, 0⟩, { m with evLostNew := 0 })
  else match m.evq with
    | [] => none
    | e :: q => some (e, { m with evq := q })

/-- Door 6 takes the next event unless one waits there for the host. -/
def State.pump6 (s : State) : State :=
  if (s.door 6).st = .reply then s else
  match s.mbox.nextEvent with
  | none => s
  | some (e, m) =>
    { s with mbox := { m with
        evSeq := (m.evSeq + 1) % 2 ^ 16
        doors := m.doors.put 6 { m.doors.get .init 6 with
          words := (e.msg m.evSeq s.now).foldl (fun t w => t.put w.1 w.2) (m.doors.get .init 6).words
          st := .reply, tag := BitVec.ofNat 16 m.evSeq, doneN := satAdd 8 1 (m.doors.get .init 6).doneN } } }

/-- The cobbler queues an event; a full queue discards and counts it. -/
def State.post (e : Event) (s : State) : State :=
  if s.mbox.evq.length < 512 then (s.modMbox fun m => { m with evq := m.evq ++ [e] }).pump6
  else s.modMbox fun m => { m with evLost := satAdd 32 1 m.evLost, evLostNew := satAdd 32 1 m.evLostNew }

/-- CH_EVENT of channel `c` with kind and reason (R784). -/
def State.chEvent (c kind reason : Nat) (s : State) : State :=
  s.post ⟨0x8301, fld 0 16 c + fld 16 8 kind + fld 24 8 reason, 0, 0⟩
/-- FAULT (R448, R784): unit kind, unit, fault code, count in RETRY_WINDOW. -/
def State.faultEvent (kind unit fault n : Nat) (s : State) : State :=
  s.post ⟨0x8103, fld 0 4 kind + fld 4 12 unit + fld 16 8 fault + fld 24 8 (min n 255), 0, 0⟩

/-- A classified fault: counted over RETRY_WINDOW (10 s of DTS) and posted as FAULT (R448, R450). -/
def State.fault (kind unit fault : Nat) (s : State) : State :=
  let t := s.now
  let l := s.flt.filter fun e => e.2.2.2 ≤ t && t - e.2.2.2 ≤ 10 * secU
  let n := (l.filter fun e => e.1 = kind ∧ e.2.1 = unit ∧ e.2.2.1 = fault).length + 1
  { s with flt := l ++ [(kind, unit, fault, t)] }.faultEvent kind unit fault n

/-- Words of the Datum store that were read CORRECTED: CORR_N counts each, and each is an ECC_CORR fault (R448, R591). -/
def State.eccCorr (ws : List Nat) (s : State) : State :=
  forAll ws (fun w s => (s.modStore fun d => { d with corr := satAdd 32 1 d.corr }).fault 4 (Config.memUnit w).toNat 1) s

/-! ## Latch entries (R754 to R759) -/

/-- A latch entry with no record: SRC 0xFFF. -/
def latchEmpty : W128 := BitVec.ofNat 128 (0xFFF * 2 ^ 20)
def State.latchOf (s : State) (l : Nat) : W128 :=
  s.latch.get (if l = 6 ∨ l = 7 then 0 else latchEmpty) l
def State.setLatch (l : Nat) (w : W128) (s : State) : State := { s with latch := s.latch.put l w }
/-- Entries 0, 1 and 5: a DTS time with SRC 0xFFF, DTS_HOLD, and the count of updates as SEQ (R755). -/
def State.latchTime (l t : Nat) (s : State) : State :=
  s.setLatch l (Rec.word ⟨0xFFF, ((s.latchOf l).toNat + 1) % 4096, { Flags.init with hold := s.pwr.mode = .holdover }, t, 0⟩)

/-! ## Device mode (R478) -/

/-- The device enters mode `m`; a change raises DEV_EVENT.MODE. -/
def State.setMode (m : Mode) (s : State) : State :=
  if s.pwr.mode = m then s else (s.modPwr fun p => { p with mode := m }).devEv 8

/-! ## Mailbox replies (R773) -/

/-- Error codes of R777. -/
inductive Err where
  | ok | badcmd | badlen | badarg | badparam | readonly | guarded | rom | busy | conflict | mode | range | wo | absent
  | tsStopped | tsRunning | tsServo | ofsStep | resRange | bndFreq | fcw | fcwK | fmax | loop | nostamp | noband | nolock
  | noSlot | past | dtcForm | tdcForm | check | store | dsFull | bmFull | foreign | holdup | image | loopback | hop | nowelt
deriving DecidableEq, Repr

def Err.code (e : Err) : Nat := e.ctorIdx

/-- What a reply carries beyond CMD and TAG: error, DETAIL, NAME, RESULT and the words from 1 on. -/
structure Rep where
  err : Err
  detail : Nat
  name : Nat
  result : Nat
  words : List Nat
deriving DecidableEq, Repr

def Rep.ok : Rep := ⟨.ok, 0, 0, 0, []⟩
def Rep.fail (e : Err) : Rep := ⟨e, 0, 0, 0, []⟩
def Rep.named (e : Err) (name : Nat) : Rep := ⟨e, 0, name, 0, []⟩
def Rep.conflict (holder : Nat) : Rep := ⟨.conflict, holder, 0, 0, []⟩
def Rep.res (n : Nat) : Rep := ⟨.ok, 0, 0, n, []⟩

/-- Numbered door words from `i` on. -/
def numWords : Nat → List Nat → Tab W128
  | _, [] => []
  | i, w :: ws => (i, BitVec.ofNat 128 w) :: numWords (i + 1) ws

/-- The reply message of command `cmd` (R767, R773). -/
def Rep.msg (r : Rep) (cmd : Nat) (tag : BitVec 16) : Tab W128 :=
  numWords 0 ((fld 112 16 cmd + fld 96 16 tag.toNat + fld 80 16 (16 * (r.words.length + 1)) + 2 ^ 79
    + fld 64 8 r.err.code + fld 0 16 r.detail + fld 16 16 r.name + fld 32 32 r.result) :: r.words)

/-- The reply is written into the command's own door, which moves to REPLY (R745, R773). -/
def State.reply (h : Hdr) (cmd : Nat) (r : Rep) (s : State) : State :=
  s.modDoor h.door.val fun d => { d with
    words := (r.msg cmd h.tag).foldl (fun t w => t.put w.1 w.2) d.words, st := .reply, err := r.err ≠ .ok, tag := h.tag, doneN := satAdd 8 1 d.doneN }

/-- A reply to the command that opened an operation, where a command opened it. -/
def State.replyTo (h : Option Hdr) (cmd : Nat) (r : Rep) (s : State) : State := match h with
  | some h => s.reply h cmd r
  | none => s

/-- Commands accepted only on door 7 (R766). -/
def cmdGuarded (cmd : Nat) : Bool :=
  [0x0402, 0x0805, 0x0A03, 0x0A04, 0x0A05, 0x0A10, 0x0A11, 0x0A12, 0x0A13, 0x0A14, 0x0A15].contains cmd
/-- Commands that name NOTIFY, and those that name FORCE (R769). -/
def cmdNotify (cmd : Nat) : Bool := cmd = 0x0304 || cmd = 0x0404
def cmdForce (cmd : Nat) : Bool := cmd = 0x0403

/-- What refuses a message before its own checks: R776, R766, R769. -/
def State.preErr (h : Hdr) (cmd : Nat) (s : State) : Option Err :=
  if s.pwr.rom ∧ cmd / 256 ≠ 8 then some .rom
  else if cmdGuarded cmd ∧ h.door ≠ 7 then some .guarded
  else if (h.notify ∧ !cmdNotify cmd) ∨ (h.force ∧ !cmdForce cmd) then some .badarg
  else none

/-- A command message is taken from its door (R745, R765, R771): a command door in IDLE or REPLY turns BUSY, and `op` runs
after the checks of `preErr`. Doors 4 to 6 carry no command, a BUSY door holds one already, and a block held in reset takes none. -/
def State.viaDoor (h : Hdr) (cmd : Nat) (op : State → State) (s : State) : State :=
  if s.pwr.held ∨ h.door.val = 4 ∨ h.door.val = 5 ∨ h.door.val = 6 ∨ (s.door h.door).st = .busy then s else
  let s := s.modDoor h.door fun d => { d with st := .busy, tag := h.tag }
  match s.preErr h cmd with
  | some e => s.reply h cmd (.fail e)
  | none => op s

/-- A change is queued for the journal; its command answers when the commit stands (R601). -/
def State.commit (h : Option Hdr) (cmd : Nat) (c : Change) (s : State) : State :=
  s.modStore fun d => { d with q := d.q ++ [⟨h, cmd, c, 0, [], s.now / secU, d.gen⟩] }

end Sys2Proof.Machine
end

