-- ==== Sys2Proof/Machine/Streams.lean ====
section
/-!
DEFINITION. Bulk streams on doors 4 and 5 (R778 to R782): opening them and placing their blocks.
-/
namespace Sys2Proof.Machine

/-- The header of a block (R779). -/
def Stream.header (st : Stream) (n : Nat) (last : Bool) : Nat :=
  fld 0 16 (128 * n) + fld 16 1 (bit last) + fld 17 1 (bit st.inbound) + fld 32 32 st.block + fld 64 16 st.tag.toNat
    + fld 80 16 st.cmd

/-- A block of an outbound stream is written into door `n`, which goes to REPLY (R779, R780). -/
def State.putBlock (n : Nat) (s : State) : State := match (s.door n).stream with
  | none => s
  | some st =>
    let w := st.data.take 15
    let last : Bool := st.data.length ≤ 15
    s.modDoor n fun d => { d with
      words := numWords 0 (st.header w.length last :: (w.map BitVec.toNat ++ List.replicate (15 - w.length) 0))
      st := .reply, err := false, stream := some { st with data := st.data.drop 15, last := last, pos := 0 } }

/-- What refuses a command that opens a stream on door `bd` (R778). -/
def State.streamErr (bd : Nat) (s : State) : Option Err :=
  if bd ≠ 4 ∧ bd ≠ 5 then some .badarg else if (s.door bd).stream.isSome then some .busy else none

/-- An outbound stream of `data` opens on door `bd`, and its command is answered (R778). -/
def State.openOut (h : Hdr) (cmd bd : Nat) (data : List W128) (s : State) : State :=
  ((s.modDoor bd fun d => { d with stream := some ⟨cmd, h.tag, h, false, 0, data, 0, 0, false, 0⟩ }).putBlock bd).reply h cmd .ok

/-- An inbound stream of `len` bits opens on door `bd`; its command is answered at the stream's end (R778, R781). -/
def State.openIn (h : Hdr) (cmd bd len : Nat) (s : State) : State :=
  s.modDoor bd fun d => { d with st := .reply, err := false, stream := some ⟨cmd, h.tag, h, true, 0, [], len, 0, false, 0⟩ }

/-- A door's stream ends: the door returns to IDLE, and an inbound stream's command completes with `e` (R781, R782). -/
def State.closeStream (e : Err) (bd : Nat) (s : State) : State := match (s.door bd).stream with
  | none => s
  | some st =>
    let s := s.modDoor bd fun d => { d with stream := none, st := .idle }
    if st.inbound then s.reply st.opener st.cmd (.fail e) else s

end Sys2Proof.Machine
end

