-- ==== Sys2Proof/Machine/Interval.lean ====
section
/-!
DEFINITION. The interval unit, the host stamp ring and the copies of records (R312 to R333).
-/
namespace Sys2Proof.Machine

/-- 1 µs in 2^-18 ns. -/
def us1 : Nat := 1000 * 2 ^ 18

/-! ## Pair parameters (R339) -/

def State.ivMode (s : State) (p : Nat) : Nat := s.pv (P.ivMode + 4 * p)
def State.ivStart (s : State) (p : Nat) : Nat := s.pv (P.ivStart + 4 * p)
def State.ivStop (s : State) (p : Nat) : Nat := s.pv (P.ivStop + 4 * p)
def State.ivTime (s : State) (p : Nat) : Nat := s.pv (P.ivTimeoutT + 4 * p)

/-- A write of a pair parameter: what is pending is discarded, the next result carries CFG (R319). -/
def State.ivConfig (p : Nat) (s : State) : State := s.modPair p fun x => { x with inQ := [], start := none, und := [], cfg := true }

/-! ## Results (R328 to R331) -/

/-- A result enters the ring, or is counted as dropped when the ring is full; an absent report queue drops it (R331, R529). -/
def State.ivPush (w : W128 × W128) (s : State) : State :=
  if !s.devq.xRep.present then s.modDevq fun d => { d with xRep := { d.xRep with drop := satAdd 32 1 d.xRep.drop } }
  else if s.iv.ring.length < 2048 then s.modIv fun v => { v with ring := v.ring ++ [w] }
  else s.modIv fun v => { v with drop := satAdd 32 1 v.drop }

/-- Word 1 of a result (R330): `b` is the stop, none in a TIMEOUT result; NEG is of SIGNED mode only. -/
def ivWord (p n : Nat) (signed cfg : Bool) (a : Rec × Bool) (b : Option (Rec × Bool)) : Nat :=
  let d : Int := match b with
    | some b => stampDiff b.1.t a.1.t
    | none => 0
  let any (f : Flags → Bool) : Nat := bit (f a.1.fl || b.any fun b => f b.1.fl)
  toBits 64 d + fld 64 12 (match b with | some b => b.1.seq | none => 0)
    + fld 76 1 (bit (b.isSome && d.natAbs < 512)) + fld 77 1 (bit b.isNone) + fld 78 1 (bit (signed && decide (d < 0)))
    + fld 79 1 (any (·.gap)) + fld 80 1 (any (·.welt)) + fld 81 1 (any (·.uncal)) + fld 82 1 (any (·.hold))
    + fld 83 1 (bit (a.2 || b.any (·.2))) + fld 84 1 (bit cfg) + fld 88 4 p + fld 96 16 n

/-- A result of pair `p` is emitted. -/
def State.ivEmit (p : Nat) (a : Rec × Bool) (b : Option (Rec × Bool)) (s : State) : State :=
  let x := s.pair p
  let n := (x.resN + 1) % 65536
  let s := s.modPair p fun x => { x with resN := n, cfg := false }
  s.ivPush (a.1.word, BitVec.ofNat 128 (ivWord p n (s.ivMode p = 2) x.cfg a b))

/-- A TIMEOUT result of start `a`. -/
def State.ivLate (p : Nat) (a : Rec × Bool) (s : State) : State :=
  (s.ivEmit p a none).modPair p fun x => { x with timeout := satAdd 32 1 x.timeout }

/-! ## Processing (R320 to R327) -/

/-- Record `a` is processed before `b`: the lesser stamp, of equal stamps the start. -/
def ivBefore (start : Nat) (a b : Rec × Bool) : Bool := decide (stampDiff a.1.t b.1.t < 0) || (a.1.t = b.1.t && a.1.src = start && b.1.src ≠ start)

/-- The element that comes first, and the rest. -/
def takeFirst {α : Type} (lt : α → α → Bool) : List α → Option (α × List α)
  | [] => none
  | a :: l => match takeFirst lt l with
    | none => some (a, [])
    | some (b, r) => if lt b a then some (b, a :: r) else some (a, l)

/-- A list with `a` put in order. -/
def insertBy {α : Type} (lt : α → α → Bool) (a : α) : List α → List α
  | [] => [a]
  | b :: l => if lt a b then a :: b :: l else b :: insertBy lt a l

/-- A record in ORDERED mode (R322). -/
def State.ivOrdered (p : Nat) (r : Rec × Bool) (s : State) : State :=
  let s := match (s.pair p).start with
    | some a => if (s.ivTime p : Int) ≤ stampDiff r.1.t a.1.t then (s.ivLate p a).modPair p fun x => { x with start := none } else s
    | none => s
  let s := if r.1.src = s.ivStop p then match (s.pair p).start with
      | some a => (s.ivEmit p a (some r)).modPair p fun x => { x with start := none }
      | none => s.modPair p fun x => { x with stray := satAdd 32 1 x.stray }
    else s
  if r.1.src = s.ivStart p then
    s.modPair p fun x => { x with restart := if x.start.isSome then satAdd 32 1 x.restart else x.restart, start := some r }
  else s

/-- A record in SIGNED mode joins the undecided events, at most 16 (R325, R327). -/
def State.ivSigned (p : Nat) (r : Rec × Bool) (s : State) : State :=
  s.modPair p fun x =>
    if 16 ≤ x.und.length then { x with ovf := satAdd 32 1 x.ovf } else { x with und := insertBy (ivBefore (s.ivStart p)) r x.und }

/-- The DTS has reached time `t`. -/
def State.reached (s : State) (t : Nat) : Bool := decide (0 ≤ stampDiff s.now t)

/-- Record `r` of pair `p` is processed. -/
def State.ivTake (p : Nat) (r : Rec × Bool) (s : State) : State := match s.ivMode p with
  | 1 => s.ivOrdered p r
  | 2 => s.ivSigned p r
  | _ => s

/-- The next record of pair `p` in stamp order is processed, where `due` holds of its stamp. -/
def State.ivNext (p : Nat) (due : Nat → Bool) (s : State) : State :=
  match takeFirst (ivBefore (s.ivStart p)) (s.pair p).inQ with
  | none => s
  | some (r, l) => if due r.1.t then (s.modPair p fun x => { x with inQ := l }).ivTake p r else s

/-- IV_RECORD_PROCESS (R320): the next record of pair `p` in stamp order, once the DTS has reached its stamp plus 1 µs. -/
def execIvRecordProcess (p : Fin 16) (s : State) : Host.Outcome State Fault Refusal :=
  .next (s.ivNext p fun t => s.reached (linAdd t us1))

/-- Records of pair `p` with stamps up to `t` that still wait, and are due before what follows, are processed (R320). -/
def State.ivDrain (p t : Nat) (incl : Bool) (s : State) : State :=
  (s.pair p).inQ.foldl (fun s _ => s.ivNext p fun u => decide (stampDiff u t < (bit incl : Int))) s

/-- IV_TIMEOUT (R322): the pending start of an ORDERED pair has waited IV_TIMEOUT plus 1 µs; records that lie before come first. -/
def execIvTimeout (p : Fin 16) (s : State) : Host.Outcome State Fault Refusal := match (s.pair p).start with
  | some a =>
    let fin := linAdd a.1.t (s.ivTime p)
    if s.ivMode p ≠ 1 ∨ !s.reached (linAdd fin us1) then .next s else
    let s := s.ivDrain p fin false
    match (s.pair p).start with
    | some b => .next (if b = a then (s.ivLate p a).modPair p fun x => { x with start := none } else s)
    | none => .next s
  | none => .next s

/-- The oldest undecided event of SIGNED pair `p` is decided (R325, R326). -/
def State.ivDecide (p : Nat) (s : State) : State := match (s.pair p).und with
  | [] => s
  | x :: l =>
    let cand (y : Rec × Bool) : Bool :=
      y.1.src ≠ x.1.src && decide (0 ≤ stampDiff y.1.t x.1.t) && decide (stampDiff y.1.t x.1.t ≤ s.ivTime p)
    match l.find? cand with
    | some y =>
      let s := s.modPair p fun z => { z with und := l.erase y }
      if x.1.src = s.ivStart p then s.ivEmit p x (some y) else s.ivEmit p y (some x)
    | none =>
      let s := s.modPair p fun z => { z with und := l }
      if x.1.src = s.ivStart p then s.ivLate p x else s.modPair p fun z => { z with stray := satAdd 32 1 z.stray }

/-- IV_SIGNED_DECIDE (R325, R326): the oldest undecided event is decided, once the DTS has reached its stamp plus IV_TIMEOUT plus 1 µs; the records up to
the end of its window are among the undecided by then. -/
def execIvSignedDecide (p : Fin 16) (s : State) : Host.Outcome State Fault Refusal := match (s.pair p).und with
  | [] => .next s
  | x :: _ =>
    let fin := linAdd x.1.t (s.ivTime p)
    .next (if s.reached (linAdd fin us1) then (s.ivDrain p fin true).ivDecide p else s)

/-! ## Copies of a record (R312 to R314, R757) -/

/-- The tap bit of a source (R312, R339). -/
def State.tapped (s : State) (src : Nat) : Bool :=
  if src < 0x800 then (s.cp (src / 4) P.stampTap).testBit (src % 4) else (s.pv P.devStampTap).testBit (src - 0x800)

/-- A record goes to the host stamp ring, at most 25 M in a second (R313). -/
def State.toRing (r : Rec) (s : State) : State :=
  let sec := s.now / secU
  let n := (if s.ring.rate.1 = sec then s.ring.rate.2 else 0) + 1
  let s := s.modRing fun g => { g with rate := (sec, n) }
  if s.ring.ring.length < 8192 ∧ n ≤ 25000000 then s.modRing fun g => { g with ring := g.ring ++ [r] }
  else s.modRing fun g => { g with drop := satAdd 32 1 g.drop }

/-- Some latch entry names the source: entries 2 to 4, or a host latch (R754). -/
def State.latched (s : State) (src : Nat) : Bool :=
  src = 0x800 || src = 0x801 || src = 0x803 || (upTo 24).any fun i => s.pv (P.latchSrc + i) = src

/-- The copies of record `r`: host stamp ring, interval pairs, regression slots, latch entries. What passes the engine report
queue is dropped while that queue is absent or, for the latches, full (R522, R529, R757). -/
def State.copies (r : Rec) (s : State) : State :=
  let late : Bool := decide ((us1 : Int) < stampDiff s.now r.t)
  let drop (s : State) : State := s.modDevq fun d => { d with xRep := { d.xRep with drop := satAdd 32 1 d.xRep.drop } }
  let s := if s.tapped r.src then (if s.devq.xRep.present then s.toRing r else drop s) else s
  let s := forAll (upTo 16) (fun p s =>
    if s.ivMode p ≠ 0 ∧ (r.src = s.ivStart p ∨ r.src = s.ivStop p) then s.modPair p fun x => { x with inQ := x.inQ ++ [(r, late)] }
    else s) s
  let s := forAll (upTo 16) (fun i s =>
    if s.pv (P.rgSrc + 8 * i) = r.src ∧ (s.rgSlot i).prio ≠ 0 then s.modSlot i fun x => { x with inQ := x.inQ ++ [r] } else s) s
  if s.latched r.src then
    if !s.devq.xRep.present then drop s
    else if s.devq.copies.length < 64 then s.modDevq fun d => { d with copies := d.copies ++ [r] } else s
  else s

/-! ## Commands -/

/-- Of `n` records wanted of `l`: all present for 0, at most those present (R313). -/
def wanted {α : Type} (n : Nat) (l : List α) : Nat := if n = 0 then l.length else min n l.length

/-- STAMP_READ (R313). -/
def State.opStampRead (h : Hdr) (bd n : Nat) (s : State) : State := match s.streamErr bd with
  | some e => s.reply h 0x0310 (.fail e)
  | none =>
    let m := wanted n s.ring.ring
    (s.modRing fun g => { g with ring := g.ring.drop m }).openOut h 0x0310 bd ((s.ring.ring.take m).map Rec.word)

def execStampRead (h : Hdr) (bd : Fin 8) (n : BitVec 16) (s : State) : Host.Outcome State Fault Refusal :=
  .next (s.viaDoor h 0x0310 (·.opStampRead h bd n.toNat))

/-- IV_READ (R331). -/
def State.opIvRead (h : Hdr) (bd n : Nat) (s : State) : State := match s.streamErr bd with
  | some e => s.reply h 0x0311 (.fail e)
  | none =>
    let m := wanted n s.iv.ring
    (s.modIv fun g => { g with ring := g.ring.drop m }).openOut h 0x0311 bd ((s.iv.ring.take m).flatMap fun w => [w.1, w.2])

def execIvRead (h : Hdr) (bd : Fin 8) (n : BitVec 16) (s : State) : Host.Outcome State Fault Refusal :=
  .next (s.viaDoor h 0x0311 (·.opIvRead h bd n.toNat))

/-- IV_STATUS (R332). -/
def State.opIvStatus (h : Hdr) (p : Nat) (s : State) : State :=
  let x := s.pair p
  s.reply h 0x0312 ⟨.ok, 0, 0, s.iv.drop, [fld 0 32 x.stray + fld 32 32 x.restart + fld 64 32 x.timeout + fld 96 32 x.ovf]⟩

def execIvStatus (h : Hdr) (p : Fin 16) (s : State) : Host.Outcome State Fault Refusal :=
  .next (s.viaDoor h 0x0312 (·.opIvStatus h p))

end Sys2Proof.Machine
end

