-- ==== Sys2Proof/Machine/Regression.lean ====
section
/-!
DEFINITION. Frequency by regression (R341 to R381).
-/
namespace Sys2Proof.Machine

/-! ## Slot parameters (R380) -/

def State.rgMode (s : State) (i : Nat) : Nat := s.pv (P.rgMode + 8 * i)
def State.rgFnom (s : State) (i : Nat) : Nat := s.pv (P.rgFnom + 8 * i)
def State.rgGate (s : State) (i : Nat) : Nat := s.pv (P.rgGate + 8 * i)
def State.rgNmin (s : State) (i : Nat) : Nat := s.pv (P.rgNmin + 8 * i)
def State.rgStart (s : State) (i : Nat) : Nat := linOf (s.pv (P.rgStart + 8 * i))

/-- The gate in progress is discarded. -/
def RgSlot.clear (x : RgSlot) : RgSlot :=
  { x with n := 0, nLast := 0, t0 := 0, tLast := 0, fall := false, sn := 0, snn := 0, st := 0, snt := 0, stt := 0, flags := 0 }

/-! ## STATUS bits (R377 W14) -/

def rgInsufficient : Nat := 0
def rgSlip : Nat := 1
def rgGap : Nat := 2
def rgWelt : Nat := 3
def rgUncal : Nat := 4
def rgHold : Nat := 5
def rgLate : Nat := 6
def rgCfg : Nat := 7
def rgOrder : Nat := 8

/-- STATUS bit `i` set when `b`. -/
def orBit (i : Nat) (b : Bool) (x : Nat) : Nat := if b then setBit x i true else x

/-! ## Records (R353 to R358) -/

/-- A used record with edge index `n` and stamp `t` is accumulated. -/
def RgSlot.use (x : RgSlot) (r : Rec) (n : Nat) (gap : Bool) : RgSlot :=
  let tau := (stampDiff r.t x.t0).toNat / 128
  { x with
    n := x.n + 1, nLast := n, tLast := r.t, sn := x.sn + n, snn := x.snn + n * n, st := x.st + tau, snt := x.snt + n * tau
    stt := x.stt + tau * tau
    flags := orBit rgGap gap <| orBit rgWelt r.fl.welt <| orBit rgUncal r.fl.uncal <| orBit rgHold r.fl.hold x.flags }

/-- A record of the gate in progress (R353 to R355), `fnom` in 2^-24 Hz. -/
def RgSlot.take (x : RgSlot) (fnom : Nat) (r : Rec) (gap : Bool) : RgSlot :=
  if x.n = 0 then { x with t0 := r.t, fall := r.fl.fall }.use r 0 gap
  else if stampDiff r.t x.tLast ≤ 0 then { x with orderN := satAdd 32 1 x.orderN, flags := orBit rgOrder true x.flags }
  else if r.fl.fall ≠ x.fall then { x with polN := satAdd 32 1 x.polN }
  else
    let num := (stampDiff r.t x.tLast).toNat * fnom
    let den := 1000000000 * 2 ^ 42
    let inc := (roundDiv num den).toNat
    if inc = 0 ∨ den < 4 * ((num : Int) - inc * den).natAbs then
      { x with slipN := satAdd 32 1 x.slipN, flags := orBit rgSlip true x.flags }
    else x.use r (x.nLast + inc) gap

/-- Stamp `t` lies in the half-open gate from `a` to `b` (R345). -/
def inGate (a b t : Nat) : Bool := decide (0 ≤ stampDiff t a) && decide (stampDiff t b < 0)

/-- The first record that the slot can handle now: one stamped at or after the end of the gate in progress waits for its close. -/
def rgNext (armed : Bool) (fin : Nat) : List Rec → Option (Rec × List Rec)
  | [] => none
  | r :: l => if armed ∧ 0 ≤ stampDiff r.t fin then (rgNext armed fin l).map fun x => (x.1, r :: x.2) else some (r, l)

/-- End of the gate in progress of slot `i` (R345). -/
def State.rgEnd (s : State) (i : Nat) : Nat := linAdd (s.rgSlot i).start (s.rgGate i)

/-- Slot `i` takes its next record (R345, R352 to R357, R367). -/
def State.rgRecord (i : Nat) (s : State) : State :=
  let x := s.rgSlot i
  match rgNext x.armed (s.rgEnd i) x.inQ with
  | none => s
  | some (r, l) =>
    let gap : Bool := r.fl.gap || x.seq.any fun q => decide (r.seq ≠ (q + 1) % 4096)
    let x : RgSlot := { x with inQ := l, seq := some r.seq }
    let late : Bool := x.past.any fun p => inGate p.1 p.2 r.t
    let y := if late then { x with lateN := satAdd 32 1 x.lateN, late := true }
      else if x.armed ∧ 0 ≤ stampDiff r.t x.start then x.take (s.rgFnom i) r gap else x
    s.modSlot i fun _ => y

/-- Every record that slot `i` can handle now is taken. -/
def State.rgDrain (i : Nat) (s : State) : State := (s.rgSlot i).inQ.foldl (fun s _ => s.rgRecord i) s

/-- RG_RECORD. -/
def execRgRecord (i : Fin 16) (s : State) : Host.Outcome State Fault Refusal := .next (s.rgRecord i)

/-! ## Results (R359 to R363) -/

/-- The result of a gate with enough records (R359, R361). -/
def RgSlot.fit (x : RgSlot) (fnom : Nat) : RgRes :=
  let d : Int := x.n * x.snn - x.sn * x.sn
  let c : Nat := max 1 ((x.n * x.snt : Int) - x.sn * x.st).toNat
  let e : Int := x.n * x.stt - x.st * x.st
  let nFit := (roundDiv x.sn x.n).toNat
  let nd := max 1 (x.n * d).toNat
  let t := (x.t0 : Int) + roundDiv (2 ^ 7 * (x.st * d + c * ((x.n * nFit : Int) - x.sn))) nd
  let rv := (roundDiv (2 ^ 18 * (e * d - c * c)) (nd * (x.n - 2))).toNat
  { freq := min (2 ^ 64 - 2) (roundDiv (2 ^ 35 * 1000000000 * d) c).toNat
    rate := toBits 64 (roundDiv (2 ^ 64 * (2 ^ 35 * 1000000000 * d - fnom * c)) (max 1 (fnom * c)))
    tFit := t.toNat % linMod, nFit := nFit, resvar := min (2 ^ 64 - 2) rv, used := x.n, status := 0, oneshot := false }

/-- The result of a gate with too few records (R362). -/
def rgNone (n : Nat) : RgRes := ⟨2 ^ 64 - 1, 2 ^ 63, 0, 0, 2 ^ 64 - 1, n, 1, false⟩

/-- The result of the gate in progress of slot `i`, with its STATUS (R367). -/
def State.rgResult (s : State) (i : Nat) : RgRes :=
  let x := s.rgSlot i
  let r := if x.n < 3 ∨ x.n < s.rgNmin i then rgNone x.n else x.fit (s.rgFnom i)
  { r with status := orBit rgLate x.late <| orBit rgCfg x.cfg <| (r.status ||| x.flags), oneshot := s.rgMode i = 1 }

/-- Intervals with the one from `a` to `b` added; one that follows the newest directly joins it. -/
def pastAdd (a b : Nat) : List (Nat × Nat) → List (Nat × Nat)
  | (x, y) :: l => if y = a then (x, b) :: l else (a, b) :: (x, y) :: l
  | [] => [(a, b)]

/-- The gate in progress of slot `i` closes, once the DTS has reached its end plus 1 µs; records that have reached the slot come before (R349, R351). -/
def State.rgClose (i : Nat) (s : State) : State :=
  if !(s.rgSlot i).armed ∨ !s.reached (linAdd (s.rgEnd i) us1) then s else
  let s := s.rgDrain i
  let fin := s.rgEnd i
  let r := s.rgResult i
  s.modSlot i fun x => { x.clear with
    out := x.out ++ [r], late := false, cfg := false, armed := s.rgMode i = 2, start := if s.rgMode i = 2 then fin else x.start
    past := pastAdd x.start fin x.past }

/-- RG_GATE_CLOSE (R349, R351). -/
def execRgGateClose (i : Fin 16) (s : State) : Host.Outcome State Fault Refusal := .next (s.rgClose i)

/-- Words W11 to W14 of a result (R377). -/
def RgRes.words (r : RgRes) (i n : Nat) : List W128 :=
  [ BitVec.ofNat 128 (fld 0 64 r.freq + fld 64 64 r.rate), BitVec.ofNat 128 (dtfOf r.tFit),
    BitVec.ofNat 128 (fld 0 64 r.nFit + fld 64 64 r.resvar),
    BitVec.ofNat 128 (fld 0 32 r.used + fld 32 16 n + fld 48 9 r.status + fld 64 4 i) ]

/-- The oldest computed result of slot `i` is written; a host slot's also enters the ring; a ONESHOT turns OFF (R348, R363, R378,
R379). -/
def State.rgWrite (i : Nat) (s : State) : State := match (s.rgSlot i).out with
  | [] => s
  | r :: l =>
    let n := ((s.rgSlot i).resN + 1) % 65536
    let s := s.modSlot i fun x => { x with res := r, out := l, resN := n }
    let s := if r.oneshot then s.modPar fun p => { p with dev := p.dev.put (P.rgMode + 8 * i) 0 } else s
    if (s.rgSlot i).internal then
      (if s.gw.slot = some i ∧ !r.status.testBit rgInsufficient then
        s.modGw fun g => { g with g6 := (g.g6.1 + ofBits 64 r.rate, g.g6.2 + 1) } else s)
    else if !s.devq.xRep.present then s.modDevq fun d => { d with xRep := { d.xRep with drop := satAdd 32 1 d.xRep.drop } }
    else if s.rg.ring.length < 1024 then s.modRg fun g => { g with ring := g.ring ++ [r.words i n] }
    else s.modRg fun g => { g with drop := satAdd 32 1 g.drop }

/-- RG_RESULT_WRITE (R363). -/
def execRgResultWrite (i : Fin 16) (s : State) : Host.Outcome State Fault Refusal := .next (s.rgWrite i)

/-- Gates of slot `i` that are due to close by now. -/
def State.rgDue (s : State) (i : Nat) : Nat :=
  let d := stampDiff s.now (linAdd (s.rgEnd i) us1)
  if !(s.rgSlot i).armed ∨ d < 0 then 0 else if s.rgMode i = 2 then d.toNat / max 1 (s.rgGate i) + 1 else 1

/-- Gates that are due close, and results computed are written, before a parameter write or a release applies (R375); records that have reached the
slot come before it. -/
def State.rgFlush (i : Nat) (s : State) : State :=
  let s := ((upTo (s.rgDue i)).foldl (fun s _ => s.rgClose i) s).rgDrain i
  (s.rgSlot i).out.foldl (fun s _ => s.rgWrite i) s

/-- A write of a parameter of slot `i` (R347 to R349, R374): the gate is discarded, the next result carries CFG; `mode` and `src` say that
RG_MODE or RG_SRC itself was written. A ONESHOT is armed only by the first; another source has neither SEQ nor gates of its own yet. -/
def State.rgConfig (i : Nat) (mode src : Bool) (s : State) : State :=
  let s := s.modSlot i fun x => { x.clear with
    cfg := true, armed := false, loaded := true, inQ := if src then [] else x.inQ, past := if src then [] else x.past, seq := if src then none else x.seq }
  let st := s.rgStart i
  let g := s.rgGate i
  let lim := linAdd s.now (2 * us1)
  match s.rgMode i with
  | 1 => if mode then s.modSlot i fun x => { x with armed := true, start := st } else s.modSlot i fun x => { x with start := st }
  | 2 =>
    let m := ((stampDiff lim st).toNat + g - 1) / max 1 g
    s.modSlot i fun x => { x with armed := true, start := linAdd st (m * g : Nat) }
  | _ => s.modSlot i fun x => { x with start := st }

/-! ## Claims (R369 to R376) -/

/-- HOLDER of a slot: its priority and number (R469). -/
def State.rgHolder (s : State) (i : Nat) : Nat :=
  if (s.rgSlot i).prio = 0 then 0 else fld 12 4 ((s.rgSlot i).prio + 2) + fld 0 12 i

/-- Slot `i` is granted at priority `p` (R368, R374, R377). -/
def State.rgGrant (i p : Nat) (internal : Bool) (s : State) : State := s.modSlot i fun x => { x.clear with
  prio := p, internal := internal, cfg := true, armed := false, loaded := true, past := [], inQ := [], seq := none, late := false, resN := 0
  slipN := 0, orderN := 0, lateN := 0, polN := 0 }

/-- Slot `i` is freed; a gate in progress is discarded (R373). -/
def State.rgFree (i : Nat) (s : State) : State :=
  (s.rgFlush i).modSlot i fun x => { x.clear with prio := 0, internal := false, armed := false, past := [], inQ := [] }

/-- A claim of the cobbler: the highest-numbered free slot (R371). -/
def State.rgClaimTop (s : State) : Option Nat := (upTo 16).reverse.find? fun i => (s.rgSlot i).prio = 0

/-- The slot of G6 (R636): held in CONTINUOUS mode on the REFIN monitor while the timescale is LOCKED, free otherwise. -/
def State.g6Sync (s : State) : State :=
  if s.ts.st = .locked then
    if s.gw.slot.isSome then s else match s.rgClaimTop with
    | some i =>
      let set (id v : Nat) (s : State) : State := s.modPar fun p => { p with dev := p.dev.put (id + 8 * i) v }
      let s := set P.rgSrc 0x802 <| set P.rgFnom (s.pv P.refFreq) <| set P.rgGate secU <| set P.rgMode 2 <| s.rgGrant i 2 true
      (s.rgConfig i true true).modGw fun g => { g with slot := some i }
    | none => s
  else match s.gw.slot with
  | some i => (s.rgFree i).modGw fun g => { g with slot := none }
  | none => s

/-- Slots that the host holds. -/
def State.rgHost (s : State) : List Nat := (upTo 16).filter fun i => (s.rgSlot i).prio ≠ 0 && !(s.rgSlot i).internal

/-- RG_CLAIM (R370, R371): slot 31 stands for ANY. -/
def State.opRgClaim (h : Hdr) (slot prio : Nat) (s : State) : State :=
  if (16 ≤ slot ∧ slot ≠ 31) ∨ (prio ≠ 2 ∧ prio ≠ 3) then s.reply h 0x0320 (.fail .badarg)
  else
    let i := if slot = 31 then (upTo 16).find? fun i => (s.rgSlot i).prio = 0 else some slot
    match i with
    | none => s.reply h 0x0320 (.fail .noSlot)
    | some i =>
      if (s.rgSlot i).prio ≠ 0 then s.reply h 0x0320 (.conflict (s.rgHolder i))
      else if s.pv P.rgHostMax ≤ s.rgHost.length then s.reply h 0x0320 (.fail .noSlot)
      else (s.rgGrant i prio false).reply h 0x0320 (.res i)

def execRgClaim (h : Hdr) (slot : Fin 32) (prio : Fin 4) (s : State) : Host.Outcome State Fault Refusal :=
  .next (s.viaDoor h 0x0320 (·.opRgClaim h slot prio))

/-- RG_RELEASE (R373). -/
def State.opRgRelease (h : Hdr) (i : Nat) (s : State) : State :=
  if (s.rgSlot i).prio = 0 ∨ (s.rgSlot i).internal then s.reply h 0x0321 (.conflict (s.rgHolder i))
  else (s.rgFree i).reply h 0x0321 .ok

def execRgRelease (h : Hdr) (i : Fin 16) (s : State) : Host.Outcome State Fault Refusal :=
  .next (s.viaDoor h 0x0321 (·.opRgRelease h i))

/-- RG_READ (R379). -/
def State.opRgRead (h : Hdr) (bd n : Nat) (s : State) : State := match s.streamErr bd with
  | some e => s.reply h 0x0322 (.fail e)
  | none =>
    let m := wanted n s.rg.ring
    (s.modRg fun g => { g with ring := g.ring.drop m }).openOut h 0x0322 bd ((s.rg.ring.take m).flatMap id)

def execRgRead (h : Hdr) (bd : Fin 8) (n : BitVec 16) (s : State) : Host.Outcome State Fault Refusal :=
  .next (s.viaDoor h 0x0322 (·.opRgRead h bd n.toNat))

/-- W15 of a slot (R377). -/
def RgSlot.w15 (x : RgSlot) : Nat := fld 0 32 x.slipN + fld 32 32 x.orderN + fld 64 32 x.lateN + fld 96 32 x.polN

/-- W14 of slot `i` (R377). -/
def RgSlot.w14 (x : RgSlot) (i : Nat) : Nat := ((x.res.words i x.resN).getD 3 0).toNat

/-- RG_STATUS (R377). -/
def State.opRgStatus (h : Hdr) (i : Nat) (s : State) : State :=
  s.reply h 0x0323 ⟨.ok, 0, 0, s.rg.drop, [(s.rgSlot i).w14 i, (s.rgSlot i).w15]⟩

def execRgStatus (h : Hdr) (i : Fin 16) (s : State) : Host.Outcome State Fault Refusal :=
  .next (s.viaDoor h 0x0323 (·.opRgStatus h i))

end Sys2Proof.Machine
end

