-- ==== Sys2Proof/Machine/Traverse.lean ====
section
/-!
DEFINITION. The traverse (R252 to R284) and the loop-filter coefficients (R405, R406).
-/
namespace Sys2Proof.Machine

/-- RES = P_CMD − P_REAL (R258). -/
def Trav.res (t : Trav) : Int := t.pCmd - t.pReal
/-- A pause is in force (R279). -/
def Trav.paused (t : Trav) : Bool := t.pWelt || t.pByp || t.pHold

/-- P_REAL and GUARD advanced by `d`, in 2^-82 ns; an addition that would pass P_CMD ends at P_CMD (R272, R273). -/
def Trav.advance (d : Int) (t : Trav) : Trav :=
  let a := t.pReal * 2 ^ 64 + t.guard
  let b := a + d
  let c := t.pCmd * 2 ^ 64
  if (0 < d ∧ t.pReal ≤ t.pCmd ∧ c < b) ∨ (d < 0 ∧ t.pCmd ≤ t.pReal ∧ b < c) then { t with pReal := t.pCmd, guard := 0 }
  else { t with pReal := b / 2 ^ 64, guard := (b % 2 ^ 64).toNat }

/-- The slew term that the next update composes, for a nominal update interval of `tUpd` ns (R267). -/
def Trav.slewTerm (lim : Int) (tUpd : Nat) (t : Trav) : Int :=
  if t.res = 0 ∨ t.paused then 0
  else if t.slew ≠ 0 ∧ sgn t.slew ≠ sgn t.res then 0
  else sgn t.res * min lim (((t.res.natAbs * 2 ^ 46 + tUpd - 1) / tUpd : Nat) : Int)

/-- An internal re-entry: P_REAL set from a measurement (R258). -/
def Trav.reenter (p : Int) (t : Trav) : Trav := { t with pReal := p, guard := 0 }

/-- A host request on P_CMD (R258, R264). -/
def Trav.request (d : Int) (notify : Bool) (t : Trav) : Trav :=
  { t with pCmd := t.pCmd + d, reqN := (t.reqN + 1) % 2 ^ 32, notify := t.notify + bit notify }

/-- CH_PHASE_CANCEL: P_CMD := P_REAL (R258). -/
def Trav.cancel (t : Trav) : Trav := { t with pCmd := t.pReal, reqN := (t.reqN + 1) % 2 ^ 32 }

/-- W8 to W13 as 128-bit words (R271). -/
def Trav.words (t : Trav) : List Nat :=
  [ toBits 96 t.pCmd + fld 96 32 t.reqN,
    toBits 96 t.pReal + fld 96 1 (bit (t.res ≠ 0)) + fld 97 1 (bit t.pWelt) + fld 98 1 (bit t.pByp)
      + fld 99 1 (bit t.pHold) + fld 100 1 (bit t.clamped) + fld 101 1 (bit (t.notify ≠ 0)),
    toBits 96 t.res,
    toBits 64 t.slew + fld 64 64 t.guard,
    toBits 64 t.debt + fld 64 32 (toBits 96 t.nomAcc / 2 ^ 64),
    toBits 64 t.nomRem + fld 64 64 (toBits 96 t.nomAcc) ]

/-- One SLEW_DONE for `name` for every pending NOTIFY of `t` (R266). -/
def slewDone (name : Nat) (t : Trav) (s : State) : State :=
  forAll (upTo t.notify) (fun _ s => s.post ⟨0x8302, fld 0 16 name + fld 32 32 t.reqN, 0, 0⟩) s
def Trav.isDone (t : Trav) : Bool := t.res = 0 && t.notify ≠ 0

/-! ## Coefficients -/

/-- π in units of 2^-60. -/
def piQ : Nat := 3622009729038561421

/-- The 22-bit coefficient whose value M·2^(S − 32) is nearest `num / den` with the largest M (R405, R406). -/
def coefAt : Nat → Nat → Nat → Nat → Nat
  | 0, _, _, _ => 0
  | fuel + 1, sh, num, den =>
    let m := (roundDiv (num * 2 ^ 32) (den * 2 ^ sh)).toNat
    if m ≤ 65535 then m + 65536 * sh else coefAt fuel (sh + 1) num den
def coefOf (num den : Nat) : Nat := coefAt 64 0 num den

/-- A coefficient times an error, in RATE64 LSB (R405, R75). -/
def coefMul (c : Nat) (e : Int) : Int := roundDiv ((c % 65536 : Nat) * e * 2 ^ (c / 65536)) (2 ^ 32)

/-- KP, KI and KI2 of R406 for a bandwidth in 2^-24 Hz, ζ in 1/1,024 and T = `tn`/`td` s. -/
def coefsOf (bw damp tn td : Nat) : Nat × Nat × Nat :=
  let wn := 2 * piQ * bw
  let wd := 2 ^ 84
  let gn := 2 ^ 46
  let gd := 1000000000
  (coefOf (2 * damp * wn * gn) (1024 * wd * gd),
   coefOf (wn * wn * tn * gn) (wd * wd * td * gd),
   coefOf (wn * wn * tn * gn * wn * tn) (wd * wd * td * gd * wd * td * 4))

end Sys2Proof.Machine
end

