-- ==== Sys2Proof/Machine/Timescale.lean ====
section
/-!
DEFINITION. The device timescale: its rate word, its states, its servo (R103 to R133, R272 to R278, R891 to R899).
-/
namespace Sys2Proof.Machine

/-! ## Upstream -/

/-- The upstream of the role in force is qualified (R898). -/
def State.upQual (s : State) : Bool := match s.ts.role with
  | .gm => s.ref.qual
  | .bnd => 16 ≤ s.ts.bndRun
  | .fol => s.cas.up

/-- BND_FREQ in whole hertz (R117). -/
def State.bndHz (s : State) : Nat := s.pv P.bndFreq / 2 ^ 24

/-- T of R894, the nominal upstream event interval, in seconds, as a quotient. -/
def State.upT (s : State) : Nat × Nat := match s.ts.role with
  | .gm => (1, 1)
  | .bnd => (s.cp (s.pv P.bndCh) P.rxDecim, s.bndHz)
  | .fol => (1, 1000000)

/-- TS_BW in force for the servo: at most 1/10 of the upstream event rate (R894). -/
def State.tsBwUsed (s : State) : Nat :=
  let t := s.upT
  min (s.pv P.tsBw) (t.2 * 2 ^ 24 / (10 * t.1))

/-- The cobbler sets the coefficients of the timescale servo (R406, R894). -/
def State.tsCoefs (s : State) : State :=
  let c := coefsOf s.tsBwUsed 724 s.upT.1 s.upT.2
  s.modTs fun t => { t with kp := c.1, ki := c.2.1, ki2 := c.2.2 }

/-! ## Rate word -/

def Div.slot (d : Div) (i : Nat) : Slot := d.slots.get .init i

/-- The output period of a channel on the DTS under rate word `rate`, 2^-96 ns. -/
def Chan.period (rate : Int) (x : Chan) : Nat :=
  let nom : Nat := (x.div.slot x.srv.slot).nom
  (roundDiv ((x.srv.tCmd : Int) * (nom + x.srv.delta) * (2 ^ 64 + rate)) (max 1 nom * 2 ^ 64)).toNat

/-- The period in force from counter value `t` on is kept for the prediction of the output edges (R402). -/
def Chan.note (t : Nat) (rate : Int) (x : Chan) : Chan := if x.servoRx then { x with periods := (readDts t, x.period rate) :: x.periods } else x

/-- A new rate word takes effect; each running channel has the edge to adopt (R38, R274, R754). -/
def State.setRate (r : Int) (s : State) : State :=
  if s.devq.xRate.present && !s.devq.xRate.full then
    let d := r - s.ts.rate
    let s := if d = 0 then s else
      { s with chans := s.chans.map fun x =>
          if x.2.st = .idle then x else (x.1, { x.2 with rEdges := x.2.rEdges ++ [(s.ts.dts, d)] }.note s.ts.dts r) }
    (s.modTs fun t => { t with rate := r }).setLatch 6 (BitVec.ofNat 128 (toBits 64 r))
  else s.modDevq fun q => { q with xRate := { q.xRate with drop := satAdd 32 1 q.xRate.drop } }

/-- The drift term in whole RATE64 LSB (R130). -/
def TsS.driftWord (t : TsS) : Int := t.drift / 2 ^ 32

/-- The slew term that acts after the clamp: the clamp takes from it first, and never past zero (R106, R268). -/
def slewApplied (slew room : Int) : Int :=
  if 0 ≤ slew then max 0 (min slew room) else min 0 (max slew room)

/-- The rate word is composed from its four terms, clamped to ±TS_RATE_MAX and written (R105, R106, R267). -/
def State.tsCompose (s : State) : State :=
  let t := s.ts
  let slew := t.trav.slewTerm (s.pi P.tsSlew) 1000
  let rest := t.srv.base + s.ref.corr + t.driftWord
  let y := rest + slew
  let yc := clampAbs (s.pi P.tsRateMax) y
  let clamp : Bool := yc ≠ y
  let s := if clamp && !t.srv.clamp then s.tsEv 10 else s
  let s := s.modTs fun t => { t with
    srv := { t.srv with clamp := clamp }
    trav := { t.trav with slew := slewApplied slew (yc - rest), clamped := slewApplied slew (yc - rest) ≠ slew } }
  s.setRate yc

/-- The realised offset follows a movement `d` of P_REAL of the sign of O − O_real (R122). -/
def creditOfs (o oReal d : Int) : Int :=
  let r := o - oReal
  if sgn d = sgn r then oReal + sgn r * min d.natAbs r.natAbs else oReal

/-- The traverse of the timescale is advanced to counter value `x`, the slew term in force until then (R55, R272). -/
def State.tsAdvance (x : Nat) (s : State) : State :=
  if dtsDiff x s.ts.srv.adv ≤ 0 then s else
  let t := s.ts
  let tr := t.trav.advance (roundDiv (t.trav.slew * dtsDiff x t.srv.adv) (2 ^ 46))
  let oR := creditOfs t.o t.srv.oReal (tr.pReal - t.trav.pReal)
  let s := s.modTs fun t => { t with trav := tr, srv := { t.srv with adv := x, oReal := oR } }
  if tr.isDone then slewDone 0xFFFF tr (s.modTsTrav fun t => { t with notify := 0 }) else s

/-- TS_OFS shows the realised offset after each timescale update (R754, R899). -/
def State.latchOfs (s : State) : State := s.setLatch 7 (BitVec.ofNat 128 (toBits 64 s.ts.srv.oReal))

/-! ## States (R124) -/

/-- Entry to COASTING: T_ENTRY, slew paused, drift term started, device HOLDOVER unless BYPASS or SURVEY rules (R124,
R130, R131, R278, R477). -/
def State.tsCoast (byRef forced : Bool) (s : State) : State :=
  let s := s.tsAdvance s.ts.dts
  let s := s.modTs fun t => { t with
    st := .coasting, tEntry := readDts t.dts, refEntry := byRef, drift := 0, forced := forced, boundN := 0
    srv := { t.srv with reentry := false, inRun := 0, outRun := 0 }
    trav := { t.trav with pHold := true } }
  let s := ((s.tsCompose.tsEv 12).latchTime 5 s.ts.tEntry).g6Sync
  if s.pwr.mode = .service then s.setMode .holdover else s

/-- Loss of the upstream of the role in force (R42, R124, R125). -/
def State.tsUpLost (byRef : Bool) (s : State) : State :=
  if s.ts.upOnce && (s.ts.st = .acquiring || s.ts.st = .locked) then s.tsCoast byRef false else s

/-- The servo is enabled: integrators seeded from the base term, e enters as an internal re-entry (R124, R277). A follower
that comes from FREE takes its base term from the lead's rate word (R846). -/
def State.tsAcquire (s : State) : State :=
  let s := if s.ts.role = .fol ∧ s.ts.st = .free then s.modTsSrv fun v => { v with base := s.cas.rate } else s
  (s.modTs fun t => { t with
    st := .acquiring, upOnce := true
    srv := { t.srv with i1 := t.srv.base, i2 := 0, reentry := true, inRun := 0, outRun := 0 } }).g6Sync

/-- Channel `c` enters BYPASS or RETIRED: as BND_CH its run of records ends, in any role, and in boundary role the upstream is lost (R125, R898). -/
def State.bndGone (c : Nat) (s : State) : State :=
  if c ≠ s.pv P.bndCh then s else
  let s := s.modTs fun t => { t with bndRun := 0, bndLast := none }
  if s.ts.role = .bnd then s.tsUpLost false else s

/-- The condition "upstream qualified" takes a FREE timescale to ACQUIRING (R124, R898). -/
def State.tsQualified (s : State) : State :=
  if !s.upQual then s else match s.ts.st with
  | .free => s.tsAcquire
  | .stopped => s
  | _ => s.modTs fun t => { t with upOnce := true }

/-- Exit from COASTING: the drift term is frozen into the base term, the slew resumes, e enters as a re-entry
(R124, R278); a device in HOLDOVER returns to SERVICE (R477, R478). -/
def State.tsResume (s : State) : State :=
  let s := s.modTs fun t => { t with
    srv := { t.srv with base := t.srv.base + t.driftWord }, drift := 0, trav := { t.trav with pHold := false } }
  let s := (s.modTsSrv fun v => { v with adv := s.ts.dts }).tsAcquire.tsEv 13
  if s.pwr.mode = .holdover then s.setMode .service else s

/-- TS_STOP, or a loss of PD_REF: STOPPED, servo state cleared, an armed start cleared (R112, R124). -/
def State.tsStop (s : State) : State :=
  if s.ts.st = .stopped then s.modTs fun t => { t with armed := none } else
  let s := s.modTs fun t => { t with
    st := .stopped, armed := none, srv := .init, trav := .init, rate := 0, drift := 0, forced := false, upOnce := false,
    o := 0, tickDue := false, lease := none, hist := [], edges := 0, folE := none, bndRun := 0, bndLast := none }
  let s : State := { s with
    cores := s.cores.map fun e => (e.1, { e.2 with held := [], lastMrk := none, lastTxm := none })
    srcs := s.srcs.map fun e => (e.1, { e.2 with last := none }) }
  let s := (s.tsEv 14).g6Sync
  if s.pwr.mode = .holdover then s.setMode .service else s

/-- The timescale starts with counter value `x` and start value `v` (R109, R113, R124): FREE with base term
TS_RATE_FIXED, O cleared; R898 may take it on at once. DESIGN CHOICE (log 81): a PPSIN that is qualified stays so, counts as qualified since
this start (R116), and its next edge gives the expected second anew (R100). -/
def State.tsBegin (x v : Nat) (s : State) : State :=
  let s := s.modTs fun t => { t with
    st := .free, armed := none, dts := x % dtsMod, edges := 0, hist := [], trav := .init, o := 0, drift := 0,
    forced := false, upOnce := false, folE := none, role := t.rolePend.getD t.role, rolePend := none, bndRun := 0, bndLast := none
    srv := { TsSrv.init with adv := x % dtsMod } }
  let s := s.modTsSrv fun r => { r with base := s.pi P.tsRateFixed }
  let s := s.modPps fun p => { p with ever := p.qual, last := none, run := 0 }
  let s := (s.tsCoefs.tsCompose.latchTime 1 v).tsEv 11
  s.tsQualified

/-! ## The servo (R114 to R120, R404, R899) -/

/-- The whole-cycle count of an RX update at stamp `t`: from the marker that waits, from the count before, or the edge
nearest to t − O_real (R118, R119). -/
def State.cycleOf (s : State) (t : Nat) : Int :=
  let f : Int := s.pv P.bndFreq
  let cyc (d : Int) : Int := roundDiv (d * f) (secU * 2 ^ 24)
  let near := cyc (t - s.ts.srv.oReal)
  if s.pv P.bndAnchor = 0 then near else
  match s.ts.srv.mark, s.ts.srv.cyc with
  | some m, _ => roundDiv (m - s.ts.srv.oReal) secU * s.bndHz + cyc (t - m)
  | none, some (n, t0) => n + cyc (t - t0)
  | none, none => near

/-- The timescale error of a record under the role in force (R115, R118, R119, R120). -/
def State.tsError (r : Rec) (s : State) : Option Int := match s.ts.role with
  | .gm =>
    if r.src = 0x800 && s.pps.qual && s.pps.last = some r.t then
      let d : Int := r.t - s.pi P.ppsDelay
      some (d - roundDiv d secU * secU)
    else none
  | .bnd =>
    if r.src = 4 * s.pv P.bndCh then
      let f := s.pv P.bndFreq
      some (roundDiv (((r.t : Int) - s.ts.o) * f - s.cycleOf r.t * (secU * 2 ^ 24 : Nat)) f)
    else none
  | .fol => if r.src = 0x803 then s.ts.folE else none

/-- Lock counting of R124 on error `e`. -/
def State.tsLockCount (e : Int) (s : State) : State :=
  let inside : Bool := (e.natAbs : Int) ≤ s.pi P.tsLkwin
  let s := s.modTsSrv fun v =>
    if inside then { v with inRun := v.inRun + 1, outRun := 0 } else { v with inRun := 0, outRun := v.outRun + 1 }
  if s.ts.st = .acquiring ∧ s.pv P.tsLkcnt ≤ s.ts.srv.inRun then
    ((s.modTs fun t => { t with st := .locked, srv := { t.srv with inRun := 0, outRun := 0 } }).tsEv 8).g6Sync
  else if s.ts.st = .locked ∧ s.pv P.tsLkcnt ≤ s.ts.srv.outRun then
    ((s.modTs fun t => { t with st := .acquiring, srv := { t.srv with inRun := 0, outRun := 0 } }).tsEv 9).g6Sync
  else s

/-- The loop filter of R404 on −ε, the integrators held while the clamp acts (R106, R899). -/
def TsS.filter (eps : Int) (t : TsS) : TsSrv :=
  let v := t.srv
  let v := if v.clamp then v else
    let i2 := v.i2 - coefMul t.ki2 eps
    { v with i2 := i2, i1 := v.i1 + i2 - coefMul t.ki eps }
  { v with base := v.i1 - coefMul t.kp eps }

/-- A timescale update on an upstream record (R114, R272, R277, R561, R899). -/
def State.tsUpdate (r : Rec) (e : Int) (s : State) : State :=
  let s := (s.tsAdvance (r.t * 2 ^ 46)).modTsTrav fun t => { t with pReal := t.pReal + r.dl }
  let s := if s.ts.srv.reentry then s.modTs fun t => { t with
      trav := t.trav.reenter (t.trav.pCmd + e), srv := { t.srv with reentry := false, oReal := t.o } } else s
  let s := s.tsLockCount e
  let s := s.modTs fun t => { t with folE := none, srv := { t.filter (e + t.trav.res) with
    e := e, tLast := r.t, seqLast := some r.seq, updN := (t.srv.updN + 1) % 2 ^ 64
    cyc := if r.src = 0x800 ∨ r.src = 0x803 then none else some (s.cycleOf r.t, r.t), mark := none } }
  s.tsCompose.latchOfs

/-- Record `a` follows record `b` in SEQ (R62). -/
def seqFollows (a b : Nat) : Bool := let d := (a + 4096 - b) % 4096; 1 ≤ d && d ≤ 2047

/-- A timescale steering record reaches its steer stage: updated in ACQUIRING and LOCKED, in SEQ order (R398). -/
def State.tsSteer (r : Rec) (s : State) : State :=
  if (s.ts.st = .acquiring || s.ts.st = .locked) && (s.ts.srv.seqLast.map (seqFollows r.seq)).getD true then
    let s' := if s.ts.srv.reentry then s.modTsSrv fun v => { v with oReal := s.ts.o } else s
    match s'.tsError r with
    | some e => s'.tsUpdate r e
    | none => s
  else s

/-- The present SCLK edge is on the grid of ticks, every 1,000th edge after the one on which the timescale started (R276). -/
def State.onTick (s : State) : Bool := s.ts.edges ≠ 0 && s.ts.edges % 1000 = 0

/-- A tick: while RES is not zero and no pause is in force, s is composed anew (R276). -/
def State.tsTick (s : State) : State :=
  if s.ts.st = .stopped ∨ s.ts.trav.res = 0 ∨ s.ts.trav.paused then s
  else (s.tsAdvance s.ts.dts).tsCompose.latchOfs

end Sys2Proof.Machine
end

