-- ==== Sys2Proof/Machine/ChanOps.lean ====
section
/-!
DEFINITION. Shared operations on channels: composing slots, switching outputs, entering and leaving channel states,
ending calibration runs and handovers (R172 to R182, R213, R219, R439 to R465, R573).
-/
namespace Sys2Proof.Machine

/-! ## Frequencies -/

/-- Comb of feedback NI, NF in 2^-24 Hz (R140). -/
def combOf (ni nf : Nat) : Nat := 62500000 * (ni * 2 ^ 24 + nf)
def Loop.combF (l : Loop) : Nat := combOf l.ni l.nf

/-- The ratio of a frequency `f` (2^-24 Hz) at post-divider `k`, in 2^-64, rounded (R70, R72). -/
def ratioAt (comb f k : Nat) : Nat := (roundDiv (comb * 2 ^ 64) (f * 2 ^ k)).toNat

/-- The smallest post-divider from `k` to 30 whose rounded ratio is below 4,096 (R213). -/
def kFrom : Nat → Nat → Nat → Nat → Option Nat
  | 0, _, _, _ => none
  | fuel + 1, k, comb, f =>
    if ratioAt comb f k < 4096 * 2 ^ 64 then some k else kFrom fuel (k + 1) comb f

/-- Post-divider and NOM of frequency `f` on a comb, where the comb can make it (R213). -/
def planFreq (comb f : Nat) : Option (Nat × Nat) :=
  if f = 0 then none else
  match kFrom 31 0 comb f with
  | some k => let n := ratioAt comb f k; if 2 * 2 ^ 64 ≤ n then some (k, n) else none
  | none => none

/-- The user channel for which index `i` acts: the channel that a welt stands in for or is lent to, else `i` (R218, R228,
R280, R442). -/
def State.userOf (s : State) (i : Nat) : Nat :=
  if i < 256 then i else match (s.oct (octOf i)).welt with
    | .standing c | .loan c | .takeover c => c
    | _ => i

/-- A channel parameter in force for index `i`, under the user channel it acts for. -/
def State.up (s : State) (i id : Nat) : Nat := s.cp (s.userOf i) id
def State.ui (s : State) (i id : Nat) : Int := ofBits 64 (s.up i id)

/-- Slot `i` of channel `c` composed for its comb, given the post-divider `k` in force (R213, R214, R221); a frequency above FMAX is not VALID
(R199). -/
def State.composeSlot (s : State) (c i k : Nat) : Slot :=
  let f := s.up c (P.hopFreq0 + i)
  match planFreq (s.oct (octOf c)).loop.combF f with
  | some (k', n) => ⟨n, k', k' = k && decide (f ≤ s.up c P.fmax)⟩
  | none => .init

/-- The slots of channel `c` composed anew, with k that of the slot in force (R214, R221). -/
def State.composeSlots (c : Nat) (s : State) : State :=
  let d := (s.chan c).div
  let k := match planFreq (s.oct (octOf c)).loop.combF (s.up c (P.hopFreq0 + d.act)) with
    | some (k, _) => k
    | none => d.k
  s.modDiv c fun d => { d with k := k, slots := (upTo 4).foldl (fun t i => t.put i (s.composeSlot c i k)) d.slots }

/-- NOM of the slot in force. -/
def Div.nom (d : Div) : Nat := (d.slot d.act).nom
/-- Commanded frequency of channel `c`: that of its slot in force (R220), 2^-24 Hz. -/
def State.freqOf (s : State) (c : Nat) : Nat := s.up c (P.hopFreq0 + (s.chan c).div.act)
/-- Largest ratio, 4096 − 2^-64, and the least, 2 (R198). -/
def ratioMax : Int := 4096 * 2 ^ 64 - 1
def ratioMin : Int := 2 * 2 ^ 64

/-- `n` divided by `d`, rounded up. -/
def ceilDiv (n : Int) (d : Nat) : Int := -((-n) / (d : Int))

/-- Least ratio of a channel: 2, or that of FMAX (R198, R216). -/
def leastRatio (comb fmax k : Nat) : Int := max ratioMin (ceilDiv ((comb * 2 ^ 64 : Nat) : Int) (max 1 (fmax * 2 ^ k)))

/-- Least ratio of channel index `c` on its comb at its post-divider. -/
def State.least (s : State) (c : Nat) : Int := leastRatio (s.oct (octOf c)).loop.combF (s.up c P.fmax) (s.chan c).div.k

/-- A signed 76-bit DELTA, the nearest one to `d` (R195). -/
def delta76 (d : Int) : Int := max (-(2 ^ 75)) (min (2 ^ 75 - 1) d)

/-- DELTA limited so that the ratio with nominal part `nom` lies from `low` to 4096 − 2^-64 (R198, R216). -/
def limitDelta (low : Int) (nom : Nat) (delta : Int) : Int := delta76 (max low (min ratioMax (nom + delta)) - nom)

/-- T_CMD of frequency `f`, 2^-96 ns (R392). -/
def tCmdOf (f : Nat) : Nat := if f = 0 then 0 else (roundDiv (1000000000 * 2 ^ 120) f).toNat

/-- TXM decimation in force; 0 takes the least D within the update rate (R339). -/
def State.decTxm (s : State) (c : Nat) : Nat :=
  let d := s.up c P.txmDecim
  if d ≠ 0 then d else let r := s.up c P.updRate; max 1 ((s.freqOf c + r - 1) / r)
/-- Decimation of the steering source (R392 DEC). -/
def State.decServo (s : State) (c : Nat) : Nat := if s.up c P.servoIn = 1 then s.up c P.rxDecim else s.decTxm c

/-- T_UPD, KP, KI, KI2 of channel `c` under its parameters (R406, R407). -/
def State.coefsFor (s : State) (c : Nat) : Nat × Nat × Nat × Nat :=
  let rx := s.up c P.servoIn = 1
  let f := s.freqOf c
  let t : Nat × Nat := if rx ∧ f ≠ 0 then (s.up c P.rxDecim * 2 ^ 24, f) else (2 ^ 24, s.up c P.updRate)
  let k := coefsOf (s.up c P.servoBw) (s.up c P.servoDamp) t.1 t.2
  ((roundDiv (t.1 * 1000000000) t.2).toNat, k.1, k.2.1, if s.up c P.i2En = 1 then k.2.2 else 0)

/-- The configuration fields of channel `c`'s CSM entry loaded from its parameters (R451, R483). -/
def State.loadConfig (c : Nat) (s : State) : State :=
  let k := s.coefsFor c
  s.modChan c fun x => { x with
    i2En := s.up c P.i2En = 1, servoRx := s.up c P.servoIn = 1
    tUpd := k.1, kp := k.2.1, ki := k.2.2.1, ki2 := k.2.2.2
    srv := { x.srv with dec := s.decServo c, tCmd := tCmdOf (s.freqOf c) } }

/-! ## Output switch (R172 to R174, R439, R440) -/

/-- The bypass source of channel `c` (R170). -/
def State.bypSrc (s : State) (c : Nat) : OutSrc :=
  if s.cp c P.bypSrc = 2 then .stop else .bypass (s.cp c P.bypSrc = 1) (s.cp c P.bypDiv)

/-- Bypass input A (false) or B of channel `c`'s quadrant, among the eight. -/
def bypInput (c : Nat) (b : Bool) : Nat := 2 * quadOf (octOf c) + bit b

/-- The bypass divider of channel `c` is given the input that BYP_SRC selects, and counts on from the state it holds (R900). -/
def State.bypSelect (c : Nat) (s : State) : State :=
  let n (sel : Nat) : Nat := if sel = 2 then 0 else s.byp.n.get 0 (bypInput c (sel = 1))
  s.modChan c fun x => { x with bypSel := s.cp c P.bypSrc, bypOfs := (x.bypOfs + n x.bypSel + 7 * n (s.cp c P.bypSrc)) % 8 }

/-- State of channel `c`'s bypass divider: rising edges of its selected input, modulo 8 (R900). -/
def State.bypCount (s : State) (c : Nat) : Nat :=
  let x := s.chan c
  (x.bypOfs + if x.bypSel = 2 then 0 else s.byp.n.get 0 (bypInput c (x.bypSel = 1))) % 8

/-- Level of a bypass clock divided by `div`, 2 to 8, at divider state `n`: 50 % duty cycle (R171). -/
def bypLevel (n div : Nat) : Bool := n % div < div / 2

/-- Source `x` can show edges on channel `c`'s switch: comb sources need the comb of the octant, bypass inputs their quadrant powered; STOP and
no source run on ACLK (R174). -/
def State.hasEdges (s : State) (c : Nat) (x : OutSrc) : Bool := match x with
  | .own | .welt | .lent _ | .pattern => (s.oct (octOf c)).loop.run
  | .bypass .. => s.pwr.pwr.testBit (pdQ (quadOf (octOf c)))
  | .none | .stop => true

/-- Source `x` shows an edge on channel `c`'s switch in the present idle step (R172, R900); without VDDO nothing is switched (R493). -/
def State.sourceEdge (s : State) (c : Nat) (x : OutSrc) : Bool := s.pwr.rail.testBit (3 + quadOf (octOf c)) && s.hasEdges c x && match x with
  | .own | .pattern => Config.divEdge c s.byp.clk
  | .welt => Config.divEdge (weltOf (octOf c)) s.byp.clk
  | .lent d => Config.divEdge d s.byp.clk
  | .bypass b div =>
    let n := s.bypCount c
    (n + Config.bypRise (bypInput c b) s.byp.clk) / max 1 div ≠ n / max 1 div
  | .none | .stop => true

/-- TXM counting restarts when the output takes its own divider (R288, R304). -/
def State.restartTxm (c : Nat) (s : State) : State := s.modSrc (4 * c + 2) fun x => { x with dec := 0 }

/-- The inputs of user channel `c` have moved to another core, its own or its welt's: their decimation restarts (R304). -/
def State.restartIn (c : Nat) (s : State) : State := (s.modSrc (4 * c) fun x => { x with dec := 0 }).modSrc (4 * c + 1) fun x => { x with dec := 0 }

/-- The source that channel `c`'s output has, or is being switched to. -/
def Chan.goal (x : Chan) : OutSrc := match x.sw with
  | some (y, _) => y
  | none => x.out

/-- Step 4 of R172: Y is gated on. -/
def State.gateOn (c : Nat) (y : OutSrc) (s : State) : State :=
  let s := s.modChan c fun x => { x with out := y, sw := none }
  if y = .own then s.restartTxm c else s

/-- Step 2 of R172: X is gated off and the output held low; with STOP or no source to come, the switch is complete (R174). -/
def State.gateOff (c : Nat) (y : OutSrc) (s : State) : State :=
  if y = .none ∨ y = .stop then s.gateOn c y else s.modChan c fun x => { x with out := .stop, sw := some (y, true) }

/-- A switch request to source `y` (R172, R174). The present source is gated off on its next falling edge, or by force (R173, R901); a source that is
STOP or none is off at once. A request back to a source not yet gated off withdraws the switch. -/
def State.switchTo (c : Nat) (y : OutSrc) (s : State) : State :=
  let x := s.chan c
  if x.goal = y then s
  else if x.sw.any (·.2) then s.gateOff c y
  else if x.out = y then s.modChan c fun x => { x with sw := none }
  else if x.out = .none ∨ x.out = .stop then s.gateOff c y
  else s.modChan c fun x => { x with sw := some (y, false) }

/-- The switch of channel `c` in an idle step: an edge of X gates it off, then an edge of Y gates Y on (R172, R901). -/
def State.switchEdge (c : Nat) (s : State) : State := match (s.chan c).sw with
  | some (y, false) => if s.sourceEdge c (s.chan c).out then s.gateOff c y else s
  | some (y, true) => if s.sourceEdge c y then s.gateOn c y else s
  | none => s

/-! ## Welts -/

/-- The index whose entry serves requests for `c`: for a retired channel its welt, from the takeover on, else `c` (R280, R442). -/
def State.actOf (s : State) (c : Nat) : Nat :=
  let w := (s.oct (octOf c)).welt
  if (s.chan c).st = .retired ∧ (w = .standing c ∨ w = .takeover c) then weltOf (octOf c) else c

/-- A retired channel has its welt standing in. -/
def State.hasWelt (s : State) (c : Nat) : Bool := (s.oct (octOf c)).welt = .standing c

/-- ML_RETURN = LOCK (R182). -/
def State.returnsAtLock (s : State) (k : Nat) : Bool := s.pv (P.mlReturn + 16 * k) = 0

/-- A bypass source, STOP included. -/
def OutSrc.isBypass : OutSrc → Bool
  | .bypass .. | .stop => true
  | _ => false

/-- The output of the channel for which a welt acts follows the welt's state, once it has been switched to the welt (R48, R439); it returns from
bypass with the welt's ACQUIRE or TRACK as ML_RETURN says (R182). -/
def State.syncStanding (k : Nat) (s : State) : State :=
  let go (c : Nat) : State := match (s.chan (weltOf k)).st with
    | .acquire => if (s.chan c).goal.isBypass ∧ !s.returnsAtLock k then s else s.switchTo c .welt
    | .track | .holdover => s.switchTo c .welt
    | .bypass => s.switchTo c (s.bypSrc c)
    | _ => s.switchTo c .none
  match (s.oct k).welt with
  | .standing c => go c
  | .takeover c => if (s.chan c).goal = .welt ∧ (s.chan (weltOf k)).st = .bypass then go c else s
  | _ => s

/-- The welt of octant `k` leaves a loan: it stops, and the claim is released (R454, R457). -/
def State.weltRelease (k : Nat) (s : State) : State :=
  match (s.oct k).welt with
  | .loan _ =>
    let s := s.modOct k fun o => { o with welt := .free, hand := none }
    (s.modChan (weltOf k) fun x => { x with st := .idle, lock := false, cause := .none }).switchTo (weltOf k) .none
  | _ => s.modOct k fun o => { o with hand := none }

/-! ## Calibration runs that end (R550, R573) -/

/-- CAL_DONE PARAMS and word 2 of a run (R784). -/
def calDone (r : CalRun) (stale : Bool) (reason gen : Nat) : Nat × Nat :=
  (fld 0 32 r.num + fld 32 4 r.kind + fld 41 1 (bit stale) + fld 42 8 reason, fld 0 16 r.unit + fld 16 48 gen)

/-- Corrections that a run has loaded are those of the generation in force again (R542, R573). -/
def CalRun.restore (r : CalRun) (s : State) : State :=
  let s := forAll r.oldCores (fun e s => s.modCore e.1 fun c => { c with set := e.2.1, anchor := e.2.2.1, trim := e.2.2.2 }) s
  let s := forAll r.oldDtcs (fun e s => s.modDiv e.1 fun d => { d with dtc := e.2 }) s
  let s := forAll r.oldDlls (fun e s => s.modDll e.1 fun d => { d with range := e.2, lock := false }) s
  match r.oldSkew with
  | some (k, t) => s.modChan r.unit fun c => { c with handSkew := k, hsTemp := t }
  | none => s

/-- A commit of run `n` that has not begun is withdrawn. -/
def StoreS.unqueueCal (n : Nat) (d : StoreS) : StoreS :=
  let keep (r : StoreReq) : Bool := match r.ch with
    | .cal c => c.num ≠ n
    | _ => true
  if d.prog.isSome then { d with q := d.q.take 1 ++ (d.q.drop 1).filter keep } else { d with q := d.q.filter keep }

/-- Loop `k` is closed after a scan: it returns to its band and TUNE. -/
def State.scanClose (k : Nat) (s : State) : State := s.modLoop k fun l => match l.opened with
  | some (b, t) => { l with band := b, tune := t, opened := none }
  | none => l

/-- A band scan begins: each named loop that is powered is opened, on its first band at its first setting (R153); its STATE stays as it is (DESIGN
CHOICE, log 81). -/
def State.scanOpen (h : Option Hdr) (mask : Nat) (s : State) : State :=
  let s := s.modGrat fun g => { g with scans := g.scans ++ [(h, mask)] }
  forAll ((upTo 8).filter fun k => mask.testBit k && s.domOn (pdQ (quadOf k))) (fun k s => s.modLoop k fun l =>
    { l with opened := some (l.opened.getD (l.band, l.tune)), band := 0, tune := -16384 }) s

/-- The scans that `p` selects end, and loops that no other scan names are closed. -/
def State.scanDrop (p : Option Hdr × Nat → Bool) (s : State) : State :=
  let s := s.modGrat fun g => { g with scans := g.scans.filter fun x => !p x }
  forAll ((upTo 8).filter fun k => !s.grat.scans.any (·.2.testBit k)) (fun k s => s.scanClose k) s

/-- The dividers that a DTC part has held take their slot in force and k again. -/
def State.dtcFree (r : CalRun) (s : State) : State :=
  forAll r.oldDivs (fun e s => s.modDiv e.1 fun d => { d with slots := d.slots.put d.act e.2.1, k := e.2.2 }) s

/-- A run leaves the list, and what it holds is free. -/
def State.calDrop (r : CalRun) (s : State) : State :=
  let s := (s.dtcFree r).modCal fun k => { k with runs := k.runs.filter (·.num ≠ r.num) }
  let s := s.modStore (·.unqueueCal r.num)
  let s := if r.kind = 2 then s.scanDrop fun x => x.1.isNone && x.2 = r.unit else s
  match r.slot with
  | some i => s.rgFree i
  | none => s

/-- A run ends with `reason`: it leaves the list, CAL_DONE is posted and logged, the unit's counters advance (R550); unless DONE, the
corrections it has loaded are dropped and the unit is due again after CAL_RETRY_T (R542, R574). -/
def State.calEnd (r : CalRun) (stale : Bool) (reason gen : Nat) (s : State) : State :=
  let w := calDone r stale reason gen
  let s := (s.calDrop r).modCal fun k => { k with log := w :: k.log }
  let s := if reason = 0 then s else r.restore s
  let s := if reason ≠ 0 ∧ r.kind ≤ 1 then s.modCal fun k => { k with retry := k.retry.put (4096 * r.kind + r.unit) s.now }
    else s.modCal fun k => { k with retry := drop (4096 * r.kind + r.unit) k.retry }
  let s := s.post ⟨0x8501, w.1, 0, w.2⟩
  if r.kind ≤ 1 then s.count r.unit (if reason = 0 then 8 else 9) else s

/-- Step 1 of the handover: the welt of the octant takes the slots, grid and servo state of channel `c` (R228, R454). -/
def State.handLoad (c : Nat) (s : State) : State :=
  let x := s.chan c
  s.modChan (weltOf (octOf c)) fun w => { w with
    st := .acquire, cause := .none, lock := false, slow := false, rAdopt := x.rAdopt, rEdges := x.rEdges, monSeen := x.monSeen
    monLast := x.monLast, periods := x.periods, i2En := x.i2En, servoRx := x.servoRx, kp := x.kp, ki := x.ki, ki2 := x.ki2, tUpd := x.tUpd, trav := .init
    srv := { x.srv with seqTxm := w.srv.seqTxm, seqRx := w.srv.seqRx, fresh := true, reentry := 0, lkRun := 0, unRun := 0, outRun := 0, hoRun := 0, chk := none, segs := [], chkRun := 0 }
    div := { w.div with
      slots := x.div.slots, act := x.div.act, sel := x.div.act, k := x.div.k, delta := x.div.delta, bnd := x.div.bnd, acc := x.div.acc
      ramp := none, trig := [] } }

/-- Step 6 of the return: the welt's driver takes the channel's divider, loaded with the welt's slot in force and DELTA, and the
channel, on the welt's grid, aligns to the welt (R454); its TXM source is switched on (R304). -/
def State.beginReturn (k : Nat) (s : State) : State := match (s.oct k).hand with
  | some h =>
    let w := s.chan (weltOf k)
    let v := w.srv
    let s := s.modOct k fun o => { o with hand := some { h with step := 6, agree := 0, entered := false, trav := .init } }
    let s := s.modChan h.ch fun x => { x with
      div := { x.div with slots := w.div.slots, act := w.div.act, k := w.div.k, delta := w.div.delta, bnd := w.div.bnd, acc := w.div.acc, ramp := none, trig := [] }
      srv := { x.srv with
        anchor := v.anchor.map fun a => ((a : Int) - h.skew * 2 ^ 78).toNat
        slot := v.slot, tCmd := v.tCmd, dec := v.dec, i1 := v.i1, i2 := v.i2, delta := v.delta, fresh := true, tLast := v.tLast } }
    (s.restartTxm h.ch).switchTo (weltOf k) (.lent h.ch)
  | none => s

/-- The run on the welt of octant `k` stops: before the switch the welt is released, in step 5 the return begins with
the previous corrections (R457). -/
def State.handAbort (k : Nat) (s : State) : State :=
  match (s.oct k).hand with
  | some h =>
    if h.step ≤ 3 then (s.weltRelease k).count h.ch 7
    else if h.step = 5 then s.beginReturn k
    else s
  | none => s.weltRelease k

/-- Run `r` ends early with `reason`, its corrections dropped; a welt run proceeds under R457. -/
def State.calAbort (reason : Nat) (r : CalRun) (s : State) : State :=
  let s := if r.kind = 0 then s.handAbort (octOf r.unit) else s
  s.calEnd r false reason 0

/-- Every run that `p` selects ends with `reason`. -/
def State.calAbortIf (reason : Nat) (p : CalRun → Bool) (s : State) : State :=
  forAll (s.cal.runs.filter p) (fun r s => s.calAbort reason r) s

/-- A Benchmark session ends: CAL_IN and its slots are free, CAL_DONE of kind BENCHMARK is posted and logged (R550, R567). -/
def State.benchEnd (reason gen : Nat) (s : State) : State := match s.cal.bench with
  | some b =>
    let w : Nat × Nat := (fld 0 32 b.num + fld 32 4 3 + fld 42 8 reason, fld 16 48 gen)
    let s := s.modCal fun k => { k with bench := none, log := w :: k.log }
    (forAll b.slots (fun i s => s.rgFree i) s).post ⟨0x8501, w.1, 0, w.2⟩
  | none => s

/-- A run concerns octant `k`. -/
def CalRun.inOct (k : Nat) (r : CalRun) : Bool := if r.kind = 2 then r.unit.testBit k else octOf r.unit = k
/-- A WELT or STAT run of channel `c`. -/
def CalRun.ofChan (c : Nat) (r : CalRun) : Bool := r.kind ≠ 2 && r.unit = c

/-! ## Channel states (R443) -/

def State.setSt (c : Nat) (st : ChState) (s : State) : State := s.modChan c fun x => { x with st := st }

/-- A bypass/safety claim has taken the resource of `holder`: PREEMPTED is posted (R468). -/
def State.preempted (holder c : Nat) (s : State) : State :=
  s.post ⟨0x8104, fld 0 16 holder + fld 16 16 (4096 + c), 0, 0⟩

/-- Channel `c` enters BYPASS: integrators frozen, slew paused, output on its bypass source; a loan of its welt ends and
the nominated upstream channel is an upstream loss (R44, R125, R178, R179, R443, R481). From IDLE the traverse is cleared (R254). Triggers latched
and not yet applied are dropped uncounted (DESIGN CHOICE, log 81). -/
def State.enterBypass (cause : BypCause) (c : Nat) (s : State) : State :=
  let x := s.chan c
  let k := octOf c
  let safety : Bool := cause = .loop ∨ cause = .device ∨ cause = .fault
  let s := if x.st = .onWelt then s.restartIn c else s
  let s := if safety ∧ x.st = .test then s.preempted (5 * 4096 + c) c else s
  let s := match (s.oct k).hand with
    | some h => if h.ch = c then (if safety then s.preempted (3 * 4096 + c) c else s).weltRelease k else s
    | none => s
  let s := s.modChan c fun y => { y with
    st := .bypass, cause := cause, prev := x.st, lock := false, slow := false
    trav := { (if x.st = .idle then Trav.init else y.trav) with pByp := true, pHold := false, pWelt := false, slew := 0 }
    div := { y.div with ramp := none, trig := [] } }
  let s := (s.switchTo c (if x.hiz then .none else s.bypSrc c)).count c 4
  (if c ≥ 256 then s.syncStanding k else s).bndGone c

/-- A hop to slot `i` is not refused for its contents: VALID, at the k of the slot in force (R224). -/
def Div.canHop (d : Div) (i : Nat) : Bool := (d.slot i).valid && (d.slot i).k = d.k

/-- A trigger kept in IDLE or BYPASS decides the slot with which channel `c` acquires (R224); one that the slot's contents have come to refuse
leaves HOP_SEL at the slot in force. -/
def State.takeKept (c : Nat) (s : State) : State := s.modDiv c fun d => match d.kept with
  | some a => if d.canHop a then { d with act := a, kept := none } else { d with sel := d.act, kept := none }
  | none => d

/-- A divider that starts: DELTA 0, no ramp or trigger, accumulator and boundary count at 0 (R181, R443; DESIGN CHOICE, log 81: the accumulator). -/
def Div.restart (d : Div) : Div := { d with delta := 0, bnd := 0, acc := 0, ramp := none, trig := [], clamp := false }

/-- Channel `c` enters ACQUIRE with the re-entry of R181: the FCW of the commanded frequency, the phase from the first
TXM stamps. `out` switches the output back at once (R182). -/
def State.enterAcquire (out : Bool) (c : Nat) (s : State) : State :=
  let s := s.takeKept c
  let s := s.modChan c fun x => { x with
    st := .acquire, cause := .none, lock := false, slow := false, rAdopt := s.ts.rate, rEdges := [], monSeen := false
    trav := { x.trav with pByp := false, pHold := false, pWelt := false, slew := 0, debt := 0 }
    srv := { x.srv with
      reentry := 1, lkRun := 0, unRun := 0, outRun := 0, hoRun := 0, chk := none, segs := []
      chkRun := 0, delta := 0, fresh := true
      tCmd := tCmdOf (s.freqOf c), dec := s.decServo c, slot := x.div.act }
    div := x.div.restart }
  let s := if out then s.switchTo c .own else s
  if c ≥ 256 then s.syncStanding (octOf c) else s

/-- Channel `c` leaves IDLE (R254, R443): traverse cleared, divider loaded with NOM of the slot in force and DELTA 0, output on
the divider, grid to be anchored at the first TXM stamp. A kept trigger decides the slot (R224). -/
def State.leaveIdle (c : Nat) (s : State) : State :=
  let s := (s.takeKept c).modDiv c Div.restart
  let s := s.modChan c fun x => { x with
    st := .acquire, cause := .none, lock := false, slow := false, rAdopt := s.ts.rate, rEdges := [], monSeen := false
    trav := .init
    srv := { Srv.init with tCmd := tCmdOf (s.freqOf c), dec := s.decServo c, slot := x.div.act, updN := x.srv.updN, seqTxm := x.srv.seqTxm, seqRx := x.srv.seqRx, fresh := true } }
  let s := s.switchTo c .own
  if c ≥ 256 then s.syncStanding (octOf c) else s

/-- Channel `c` returns to IDLE with its output on no source (R443). -/
def State.enterIdle (c : Nat) (s : State) : State :=
  let s := if (s.chan c).st = .onWelt then s.restartIn c else s
  let s := s.modChan c fun x => { x with
    st := .idle, cause := .none, lock := false, slow := false
    trav := { x.trav with pByp := false, pHold := false, pWelt := false, slew := 0 }
    div := { x.div with ramp := none, trig := [] } }
  let s := s.switchTo c .none
  if c ≥ 256 then s.syncStanding (octOf c) else s

/-! ## Tests that end (R826, R827) -/

/-- TEST_DONE word 2 (R827). -/
def TestRun.word (r : TestRun) : Nat :=
  fld 0 64 r.bits + fld 64 32 (min r.errs (2 ^ 32 - 1)) + fld 96 16 (min r.resync 65535)
    + fld 112 16 (min (r.syncT.getD 65535) 65535)

/-- PASS 0 or FAIL 1 from the counts (R826). -/
def TestRun.verdict (r : TestRun) : Nat := if r.sync ∧ r.resync = 0 ∧ r.errs = 0 then 0 else 1

/-- Test `r` ends: it leaves the list, TEST_DONE is posted, a channel still in TEST returns to IDLE (R443, R826); an eye
scan's command gets MODE. -/
def State.testEnd (verdict : Nat) (r : TestRun) (s : State) : State :=
  let s : State := { s with tests := s.tests.filter fun x => ¬(x.kind = r.kind ∧ x.unit = r.unit) }
  let s := s.replyTo (r.eye.map (·.1)) 0x0903 (.fail .mode)
  let s := if (r.kind = 0 ∨ r.kind = 2) ∧ (s.chan r.unit).st = .test then s.enterIdle r.unit else s
  s.post ⟨0x8901, fld 0 16 r.unit + fld 16 2 verdict, 0, r.word⟩

/-- Every test that `p` selects ends as ABORTED. -/
def State.testAbortIf (p : TestRun → Bool) (s : State) : State :=
  forAll (s.tests.filter p) (fun r s => s.testEnd 2 r) s

/-- The pattern test of channel index `c`. -/
def TestRun.ofChan (c : Nat) (r : TestRun) : Bool := (r.kind = 0 || r.kind = 2) && r.unit = c

/-! ## FCW queue (R37, R200, R522, R531) -/

/-- Depth of a lane: 4 for an engine, 8 for the cobbler's (R522). -/
def laneDepth (lane : Nat) : Nat := if lane = 32 then 8 else 4
def cobLane : Nat := 32

/-- A record can be written into `lane` of octant `k`'s FCW queue. -/
def State.laneOpen (s : State) (k lane : Nat) : Bool :=
  let o := s.oct k
  o.xFcw.present && (lane = cobLane || (!o.xFcw.full && (o.fcw.filter (·.1 = lane)).length < laneDepth lane))

/-- A write into a lane: an engine's on FULL or absent is dropped and counted; the cobbler's waits on FULL and is dropped and counted where the
peer is absent (R522, R527, R529, R530). -/
def State.writeFcw (k lane : Nat) (r : FcwRec) (s : State) : State :=
  if s.laneOpen k lane then s.modOct k fun o => { o with fcw := o.fcw ++ [(lane, r)] }
  else s.modOct k fun o => { o with xFcw := { o.xFcw with drop := satAdd 32 1 o.xFcw.drop } }

/-- Channel `c` enters HOLDOVER: one correction record with the slew part of DELTA removed, slew paused, HOLD posted
with its reason (R279, R443). `delta` is the correction without the slew part, written by engine lane `lane`; FMAX holds for it too (R215), and a
record that the lane does not take leaves DELTA as it was (R531). -/
def State.enterHoldover (lane : Nat) (delta : Int) (reason c : Nat) (s : State) : State :=
  let x := s.chan c
  let delta := limitDelta (s.least c) (x.div.slot x.srv.slot).nom delta
  let taken := s.laneOpen (octOf c) lane
  let s := s.writeFcw (octOf c) lane (.corr c x.srv.slot delta)
  let s := s.modChan c fun x => { x with
    st := .holdover, lock := false
    trav := { x.trav with pHold := true, slew := if taken then 0 else x.trav.slew }
    srv := { x.srv with hoRun := 0, outRun := 0, delta := if taken then delta else x.srv.delta } }
  ((s.modChan c (·.note s.ts.dts s.ts.rate)).count c 3).chEvent c 4 reason

/-! ## Faults and retirement (R448, R459, R612) -/

/-- Unit kinds of a RETIRE item and of a FAULT event (R612, R784). -/
def kindChan : Nat := 0
def kindEng : Nat := 1
def kindLoop : Nat := 2
def kindStamp : Nat := 3
def kindRefStamp : Nat := 7

/-- Key of a unit's retirement. -/
def retKey (kind unit : Nat) : Nat := 4096 * kind + unit

/-- A unit stands retired in the journal or in RET_MIRROR (R615). -/
def State.isRetired (s : State) (kind unit : Nat) : Bool :=
  let k := retKey kind unit
  let m := s.otp.mirror.get (0, 0) k
  (look s.store.ret k).any (fun w => !w.testBit 24) || m.2 < m.1

/-- The welt of octant `k` is lost to the channel that has it: an ON_WELT channel goes to its bypass source for a restart of its
divider, a channel it stands in for keeps its bypass source; a run on it ends with WELT_FAULT (R458, R462). -/
def State.weltLost (k : Nat) (s : State) : State :=
  let u := (s.oct k).welt
  let s := s.modOct k fun o => { o with welt := .retired, hand := none }
  let s : State := match u with
    | .loan c => if (s.chan c).st = ChState.onWelt then s.enterBypass .restart c else s
    | .standing c => s.switchTo c (s.bypSrc c)
    | .takeover c => if (s.chan c).goal = .welt then s.switchTo c (s.bypSrc c) else s
    | _ => s
  s.calAbortIf 0x11 fun r => r.kind = 0 ∧ octOf r.unit = k

/-- A permanent fault of channel index `c` (R443, R452, R457, R459, R462): it goes to BYPASS unless IDLE, RETIRED or kept ON_WELT by
its welt, and its retirement record is stored. -/
def State.retireChan (fault c : Nat) (s : State) : State :=
  let x := s.chan c
  if x.st = .retired ∨ (x.st = .bypass ∧ x.cause = .fault) then s else
  let s := if c ≥ 256 then s.weltLost (c - 256) else s
  if x.st = .onWelt ∧ fault ≠ 9 then
    let s := s.modOct (octOf c) fun o => { o with hand := none }
    (forAll (s.cal.runs.filter (·.ofChan c)) (fun r s => s.calEnd r false 0x12 0) s).commit none 0 (.retire kindChan c fault)
  else
  let s := s.calAbortIf 0x12 (·.ofChan c)
  let s := if x.st = .idle then s else
    let s := if x.st = .bypass then s else s.enterBypass .fault c
    s.modChan c fun x => { x with cause := .fault }
  s.commit none 0 (.retire kindChan c fault)

/-! ## Takeover by a welt (R280, R459, R460, R465) -/

/-- The takeover of channel `c` by its octant's welt begins: the welt takes c's slots, traverse and grid, and acquires. -/
def State.takeoverBegin (c : Nat) (s : State) : State :=
  let k := octOf c
  let x := s.chan c
  let s := s.modOct k fun o => { o with welt := .takeover c }
  let s := s.modChan (weltOf k) fun w => { w with
    srv := x.srv, trav := x.trav, i2En := x.i2En, servoRx := x.servoRx, kp := x.kp, ki := x.ki, ki2 := x.ki2, tUpd := x.tUpd
    div := { w.div with slots := x.div.slots, act := x.div.act, sel := x.div.act, k := x.div.k } }
  s.enterAcquire true (weltOf k)

/-- Fault code of the retirement record of a unit. -/
def State.retFault (s : State) (kind unit : Nat) : Nat := bits (s.store.ret.get 0 (retKey kind unit)) 16 8

/-- A retired channel whose takeover is not complete can be taken over by its welt: no DRIVER fault, and the octant's
stamping not retired (R459, R461). -/
def State.takeable (s : State) (c : Nat) : Bool :=
  (s.chan c).st = .retired && !s.hasWelt c && s.retFault kindChan c ≠ 9 && !(s.oct (octOf c)).noStamp

/-- Octant `k` and the device let a channel acquire: the loop LOCKED, the timescale running, device mode SERVICE or HOLDOVER (R43, R108, R167, R176). -/
def State.acquires (s : State) (k : Nat) : Bool :=
  (s.oct k).loop.st = .locked && s.ts.st ≠ .stopped && (s.pwr.mode = .service || s.pwr.mode = .holdover)

/-- The takeover claim of retired channel `c`: it is granted on a free welt that no test holds (R50, R460, R466). -/
def State.takeoverClaim (c : Nat) (s : State) : State :=
  let k := octOf c
  if s.takeable c ∧ s.acquires k ∧ (s.oct k).welt = .free ∧ (s.chan (weltOf k)).st ≠ .test then s.takeoverBegin c else s

/-- A claim that could not be granted, the welt being on loan or the octant not fit to acquire, is made again when that has ended, lowest channel
first (R460). -/
def State.takeoverRetry (k : Nat) (s : State) : State :=
  if (s.oct k).welt = .free ∧ s.acquires k then
    match (chansOf k).find? fun c => c < 256 ∧ s.takeable c ∧ (s.chan c).cause = .fault with
    | some c => s.takeoverClaim c
    | none => s
  else s

end Sys2Proof.Machine
end

