-- ==== Sys2Proof/Machine/Loops.lean ====
section
/-!
DEFINITION. Master loops and the Graticule (R139 to R192, R900, R901): band prediction, relock, loss, retunes, band scans,
forced switches.
-/
namespace Sys2Proof.Machine

/-! ## The Graticule and the band choice (R146 to R160) -/

/-- Entry index of loop `l`, band `b`, point `p` (R146). -/
def gratIx (l b p : Nat) : Nat := 256 * l + 4 * b + p
def State.gratEnt (s : State) (e : Nat) : Nat := (s.grat.ent.get 0 e).toNat

/-! Fields of an entry (R148). -/
def gCtr (w : Nat) : Nat := bits w 0 40
def gKv (w : Nat) : Nat := bits w 40 20
def gTemp (w : Nat) : Int := ofBits 16 (bits w 76 16)
def gValid (w : Nat) : Bool := w.testBit 96
def gMarg (w : Nat) : Bool := w.testBit 97
def gDis (w : Nat) : Bool := w.testBit 98
/-- Entry `w` with field [lo + n − 1 : lo] set to `x`. -/
def gSet (lo n x w : Nat) : Nat := w - bits w lo n * 2 ^ lo + fld lo n x

/-- The four points of a band. -/
def State.gPts (s : State) (l b : Nat) : List Nat := (upTo 4).map fun p => s.gratEnt (gratIx l b p)

/-- The two adjacent valid points that bracket `t`, or the two nearest to it (R158). -/
def bracket (t : Int) : List Nat → Option (Nat × Nat)
  | p :: q :: r => if t ≤ gTemp q ∨ r.isEmpty then some (p, q) else bracket t (q :: r)
  | _ => none

/-- Predicted TUNE from the interpolation numerators over `d`: target `ft` in 2^-28 Hz, centre and gain in 2^-4 Hz. -/
def tuneFrom (ft : Nat) (f kv d : Int) : Int :=
  let num := ft * d - 2 ^ 24 * f
  let den := 2 ^ 24 * kv
  if 0 < den then roundDiv num den.toNat else if den < 0 then roundDiv (-num) (-den).toNat else Config.tuneKv0 num

/-- Predicted TUNE of band `b` of loop `l` for target `ft` at temperature `t`; none without a valid point (R158). -/
def State.predict (s : State) (l b ft : Nat) (t : Int) : Option Int :=
  let v := (s.gPts l b).filter gValid
  match v, bracket t v with
  | [], _ => none
  | [p], _ => some (tuneFrom ft (gCtr p) (gKv p) 1)
  | _, some (p, q) =>
    let d := gTemp q - gTemp p
    let w := t - gTemp p
    some (tuneFrom ft (gCtr p * d + w * ((gCtr q : Int) - gCtr p)) (gKv p * d + w * ((gKv q : Int) - gKv p)) d)
  | _, none => none

/-- A stable insertion by a key. -/
def insKey {α : Type} (k : α → Nat) (a : α) : List α → List α
  | [] => [a]
  | b :: l => if k a < k b then a :: b :: l else b :: insKey k a l
def sortKey {α : Type} (k : α → Nat) (l : List α) : List α := l.foldl (fun r a => insKey k a r) []

/-- Candidate bands in order: |TUNE| at most `lim`, no point DISABLED; `marg` puts marginal bands last (R158, R166). Bands of equal |TUNE| stand in
ascending order, as R158 says of a plan; for SCAN the spec names no order of them (DESIGN CHOICE, log 81). -/
def State.bands (s : State) (l ft : Nat) (t : Int) (lim : Nat) (marg : Bool) : List (Nat × Int) :=
  let c := (upTo 64).filterMap fun b => match s.predict l b ft t with
    | some u => if u.natAbs ≤ lim ∧ !(s.gPts l b).any gDis then some (b, u) else none
    | none => none
  sortKey (fun x => x.2.natAbs + (if marg ∧ (s.gPts l x.1).any gMarg then 2 ^ 32 else 0)) c

/-- VCO frequency of feedback NI, NF in 2^-28 Hz (R140). -/
def vcoOf (ni nf : Nat) : Nat := 4000000000 * (ni * 2 ^ 24 + nf)

/-- The relock plan of loop `k` for feedback NI, NF at the octant's temperature (R158). -/
def State.planFor (s : State) (k ni nf : Nat) : List (Nat × Int) :=
  (s.bands k (vcoOf ni nf) (s.oct k).temp (s.pv P.gratUse) true).take 3

/-- The cobbler recomputes the plan of loop `k` (R157). -/
def State.replan (k : Nat) (s : State) : State :=
  let l := (s.oct k).loop
  s.modLoop k fun l' => { l' with plan := s.planFor k l.ni l.nf, planT := (s.oct k).temp }

/-! ## Attempts, SCAN, retirement (R164 to R167, R185) -/

/-- The change at the head of the journal queue or behind it restores loop `k` (R185). -/
def State.restoring (s : State) (k : Nat) : Bool := s.store.q.any fun r => match r.ch with
  | .restore j _ _ => j = k
  | _ => false

/-- The restoring commit of loop `k` is placed first in the store queue, behind a store in progress (R185). -/
def State.restoreFirst (k : Nat) (s : State) : State :=
  if s.restoring k then s else
  let l := (s.oct k).loop
  let r : StoreReq := ⟨none, 0, .restore k l.ni l.nf, 0, [], s.now / secU, s.store.gen⟩
  s.modStore fun d =>
    let n := if d.prog.isSome ∨ d.stage ≠ 0 ∨ d.att ≠ 0 then 1 else 0
    { d with q := d.q.take n ++ r :: d.q.drop n }

/-- No band locks: the octant is retired (R167). -/
def State.loopRetire (k : Nat) (s : State) : State :=
  let s := (s.modLoop k fun l => { l with st := .retired, scan := [] }).mlEv k 12
  s.commit none 0 (.retire kindLoop k 0x20)

/-- The next band of SCAN, or `fail` when none is left (R166). -/
def State.scanTake (k : Nat) (l : List (Nat × Int)) (fail : State → State) (s : State) : State := match l with
  | [] => fail s
  | (b, t) :: r => s.modLoop k fun l => { l with st := .scan, band := b, tune := t, scan := r, hold := false }

/-- The bands of SCAN for loop `k` (R166). -/
def State.scanList (s : State) (k : Nat) : List (Nat × Int) :=
  let l := (s.oct k).loop
  s.bands k (vcoOf l.ni l.nf) (s.oct k).temp 32767 false

/-- Attempts from the first band of the plan, or SCAN where the plan is empty (R160, R164). -/
def State.attempts (k : Nat) (fail : State → State) (s : State) : State := match (s.oct k).loop.plan with
  | [] => s.scanTake k (s.scanList k) fail
  | (b, t) :: _ => s.modLoop k fun l => { l with st := .acq, attempt := 0, band := b, tune := t, hold := false }

/-- No band has locked: a retune falls back to the previous feedback, whose commit answers the command with NOLOCK (R185), else the octant is
retired. -/
def State.noBand (k : Nat) (s : State) : State :=
  let l := (s.oct k).loop
  match l.retune with
  | some r =>
    let s := (s.modLoop k fun l => { l with ni := r.ni, nf := r.nf, retune := none }).mlEv k 13
    let s := if r.ni = l.ni ∧ r.nf = l.nf then s.reply r.h 0x0340 (.fail .nolock) else s.commit (some r.h) 0x0340 (.restore k r.ni r.nf)
    (s.replan k).attempts k (·.loopRetire k)
  | none => s.loopRetire k

/-- Relock starts from the plan held (R159, R160, R164). -/
def State.relock (k : Nat) (s : State) : State := s.attempts k (·.noBand k)

/-! ## Channels during loss and recovery (R176 to R182) -/

/-- States that leave for BYPASS with their octant or the device (R44, R178). -/
def ChState.running : ChState → Bool
  | .acquire | .track | .holdover | .onWelt | .test => true
  | _ => false

/-- Every running channel of octant `k` enters BYPASS. -/
def State.octBypass (cause : BypCause) (k : Nat) (s : State) : State :=
  forAll (chansOf k) (fun c s => if (s.chan c).st.running then s.enterBypass cause c else s) s

/-- From loss or retune to lock: outputs on bypass, the VCLK island in reset (R176, R180). -/
def State.loopDown (k : Nat) (s : State) : State :=
  (s.modOct k fun o => { o with vclkRst := true, loop := { o.loop with byp := true } }).octBypass .loop k

/-- Channel `c` leaves BYPASS: ACQUIRE with re-entry, or IDLE with its test ABORTED (R181, R443). -/
def State.leaveBypass (out : Bool) (c : Nat) (s : State) : State :=
  if (s.chan c).prev = .test then (s.enterIdle c).testAbortIf (·.ofChan c) else s.enterAcquire out c

/-- What a lock declaration means for channel `c` of the octant (R181, R482). -/
def State.lockChan (out : Bool) (c : Nat) (s : State) : State :=
  let x := s.chan c
  if x.st = .bypass ∧ x.cause = .loop then
    if s.pwr.mode = .survey ∧ x.prev ≠ .test then s.modChan c fun x => { x with cause := .survey }
    else if s.pwr.mode = .bypass ∨ s.pwr.mode = .wake then s.modChan c fun x => { x with cause := .device }
    else s.leaveBypass out c
  else s

/-- Slots of the octant's channels composed for its comb at a lock where the comb is not the one they were last composed for, or a retune has changed
the feedback since, be it that it failed (R221). -/
def State.recompose (k : Nat) (s : State) : State :=
  let l := (s.oct k).loop
  if l.comb = some (l.ni, l.nf) ∧ !l.anew then s else
  (forAll (chansOf k) (fun c s => s.composeSlots c) s).modLoop k fun l => { l with comb := some (l.ni, l.nf), anew := false }

/-- A retune takes place: outputs to bypass, then the new feedback and plan; a retune to the feedback in force keeps the
plan (R184, R187). -/
def State.retuneBegin (h : Hdr) (k ni nf : Nat) (s : State) : State :=
  let l := (s.oct k).loop
  let s := s.loopDown k
  let s := s.modLoop k fun l' => { l' with
    ni := ni, nf := nf, retune := some ⟨h, l.ni, l.nf⟩, warned := false, anew := l'.anew || decide (¬(l.ni = ni ∧ l.nf = nf)) }
  (if l.ni = ni ∧ l.nf = nf then s else s.replan k).relock k

/-- The commit of a retune stands. A loop in HOLD takes the new feedback and waits for the MPLL (R168, R186); one that has been powered down or
retired since the checks of R183 is not LOCKED, and the command is answered BUSY (DESIGN CHOICE, log 81). A restoring commit that an earlier
retune left is superseded. -/
def State.retuneNow (h : Hdr) (k ni nf : Nat) (s : State) : State :=
  let l := (s.oct k).loop
  let s := s.modStore fun d => { d with q := d.q.filter fun r => match r.ch with
    | .restore j _ _ => j ≠ k
    | _ => true }
  let s := s.modLoop k fun l => { l with restore := false }
  match l.st with
  | .off | .retired => s.reply h 0x0340 (.named .busy l.st.ctorIdx)
  | .hold => (s.modLoop k fun l' => { l' with ni := ni, nf := nf, retune := some ⟨h, l.ni, l.nf⟩, warned := false, anew := true }).replan k
  | _ => s.retuneBegin h k ni nf

/-- A quadrant is powered: each loop not retired acquires from ML_NI and ML_NF (R169). -/
def State.loopStart (k : Nat) (s : State) : State :=
  if s.isRetired kindLoop k then s.modOct k fun o => { o with vclkRst := true, loop := { o.loop with st := .retired } } else
  let s := s.modOct k fun o => { o with vclkRst := true, loop := { o.loop with
    st := .acq, ni := s.pv (P.mlNi + 16 * k), nf := s.pv (P.mlNf + 16 * k), warned := false, retune := none, opened := none } }
  (s.replan k).relock k

/-- A quadrant is powered down: any loop turns OFF (R169); a retirement stands in the journal until the next power-up. -/
def State.loopOff (k : Nat) (s : State) : State := s.modOct k fun o => { o with vclkRst := true, loop := { o.loop with
  st := .off, byp := false, retune := none, run := false, scan := [], opened := none } }

/-- Loss of the measurement loop: a powered loop freezes and waits in HOLD (R168). -/
def State.loopHold (k : Nat) (s : State) : State := match (s.oct k).loop.st with
  | .acq | .scan | .locked =>
    (s.modOct k fun o => { o with vclkRst := true, loop := { o.loop with st := .hold, byp := true, scan := [] } })
  | _ => s

/-- The MPLL has locked: a loop in HOLD attempts its current band from the frozen TUNE (R168). -/
def State.loopUnhold (k : Nat) (s : State) : State :=
  if (s.oct k).loop.st = .hold then s.modLoop k fun l => { l with st := .acq, attempt := 0, hold := true } else s

/-! ## The commands -/

/-- Consecutive cycles, back from the newest, that `p` selects. -/
def runOf (p : PdCyc → Bool) (l : List PdCyc) : Nat := (l.reverse.takeWhile p).length

/-- |e| of a cycle lies within a window, inclusive. -/
def pdWithin (w : Int) (c : PdCyc) : Bool := (c.diff.natAbs : Int) ≤ w

/-- A loop parameter of loop `k` (R189). -/
def State.mlPar (s : State) (k id : Nat) : Nat := s.pv (id + 16 * k)
def State.mlInt (s : State) (k id : Nat) : Int := s.pi (id + 16 * k)

/-- ML_LOCK (R157, R161, R169, R180 to R182, R184, R185, R221): the newest ML_LKCNT cycles of an attempt lie within ML_LKWIN. -/
def execMlLock (k : OctIx) (cyc : List PdCyc) (s : State) : Host.Outcome State Fault Refusal :=
  let l := (s.oct k).loop
  if (l.st = .acq ∨ l.st = .scan) ∧ l.opened = none ∧ s.domOn (pdQ (quadOf k))
      ∧ s.mlPar k P.mlLkcnt ≤ runOf (pdWithin (s.mlInt k P.mlLkwin)) cyc then
    let s := s.modOct k fun o => { o with
      vclkRst := false, xFcw := { o.xFcw with resync := s.domOn pdEng }, xHop := { o.xHop with resync := s.domOn pdEng }
      xSel := { o.xSel with resync := true }
      loop := { o.loop with
        st := .locked, tune := (cyc.getLast?.map (·.tune)).getD l.tune, byp := false, hold := false, warned := false, scan := [], run := true } }
    let s := ((s.mlEv k 8).recompose k).replan k
    let s := forAll (chansOf k) (fun c s => s.lockChan (s.returnsAtLock k) c) s
    let s := s.takeoverRetry k
    .next (match l.retune with
      | some r => (s.reply r.h 0x0340 .ok).modLoop k fun l => { l with retune := none }
      | none => s)
  else .next s

/-- The detectors of R162 that fire for loop `k`, in table order. -/
def State.mlCauses (s : State) (k : Nat) (tr : MlTrace) : List Nat :=
  let n := s.mlPar k P.mlLosscnt
  let comb := (s.oct k).loop.combF
  (if n ≤ runOf (fun c => !pdWithin (s.mlInt k P.mlLosswin) c) tr.cyc then [1] else []) ++
  (if n ≤ runOf (fun c => c.tune ≤ -32768 || 32767 ≤ c.tune) tr.cyc then [2] else []) ++
  (if tr.missing then [3] else []) ++
  (if tr.edges.any fun e => comb < 50 * ((e : Int) * (16000000 * 2 ^ 24 : Nat) - comb).natAbs then [4] else []) ++
  (if tr.amp then [5] else [])

/-- ML_LOSS (R162, R164, R178 to R180): the first detector that fires is the cause; with causes 3 and 5 the comb may be missing. A loop that a scan
has opened has no lock to lose. -/
def execMlLoss (k : OctIx) (tr : MlTrace) (s : State) : Host.Outcome State Fault Refusal :=
  let l := (s.oct k).loop
  if l.st ≠ .locked ∨ l.opened.isSome then .next s else
  let s := s.modLoop k fun l => { l with tune := (tr.cyc.getLast?.map (·.tune)).getD l.tune }
  match s.mlCauses k tr with
  | [] => .next s
  | cause :: _ =>
    let s := s.modLoop k fun l => { l with
      lossN := satAdd 16 1 l.lossN, cause := cause, run := cause ≠ 3 ∧ cause ≠ 5, attempt := 0, st := .acq }
    let s := (s.mlEv k 9).calAbortIf 0x0C (·.inOct k)
    let s := s.testAbortIf fun r => r.kind = 1 ∧ octOf r.unit = k
    .next ((s.loopDown k).relock k)

/-- ML_EXCURSION (R163, R448): a run of out-of-window cycles has ended, its cycle within ML_LOSSWIN the newest, before it reached ML_LOSSCNT. -/
def execMlExcursion (k : OctIx) (s : State) (cyc : List PdCyc := []) : Host.Outcome State Fault Refusal :=
  let l := (s.oct k).loop
  let w := s.mlInt k P.mlLosswin
  let n := runOf (fun c => !pdWithin w c) cyc.dropLast
  if l.st = .locked ∧ l.opened = none ∧ cyc.getLast?.any (pdWithin w) ∧ 0 < n ∧ n < s.mlPar k P.mlLosscnt then
    .next ((s.modLoop k fun l => { l with excurN := satAdd 8 1 l.excurN }).fault kindLoop k 2)
  else .next s

/-- ML_ACQ_T (R164, R166, R167, R185): the attempt in progress has run out of time. -/
def execMlAcqT (k : OctIx) (s : State) : Host.Outcome State Fault Refusal :=
  let l := (s.oct k).loop
  if !s.domOn (pdQ (quadOf k)) then .next s else
  match l.st with
  | .acq =>
    if l.hold then .next (s.relock k) else
    match l.plan.drop (l.attempt + 1) with
    | (b, t) :: _ => .next (s.modLoop k fun l => { l with attempt := l.attempt + 1, band := b, tune := t })
    | [] => .next (s.scanTake k (s.scanList k) (·.noBand k))
  | .scan => .next (s.scanTake k l.scan (·.noBand k))
  | _ => .next s

/-- RETUNE_RESTORE_RETRY (R185): the restoring commit that has failed is placed first in the queue again. -/
def execRetuneRestoreRetry (k : OctIx) (s : State) : Host.Outcome State Fault Refusal :=
  if (s.oct k).loop.restore then .next (s.restoreFirst k) else .next s

/-- 1 °C in the temperature format. -/
def degC : Nat := 128

/-- The temperature sensor of octant `k` reads `t`: a powered loop is planned anew once it has moved more than 1 °C since its plan (R157, R760). -/
def State.setTemp (k : Nat) (t : Int) (s : State) : State :=
  if !s.domOn (pdQ (quadOf k)) then s else
  let s := s.modOct k fun o => { o with temp := t }
  if degC < (t - (s.oct k).loop.planT).natAbs ∧ (s.oct k).loop.st ≠ .off then s.replan k else s

/-- RELOCK_PLAN (R157): the octant's sensor reads `temp`. -/
def execRelockPlan (k : OctIx) (temp : Int) (s : State) : Host.Outcome State Fault Refusal := .next (s.setTemp k temp)

/-- HOLDER of R469. -/
def holderOf (prio unit : Nat) : Nat := fld 12 4 prio + fld 0 12 unit

/-- What holds channel `c` against a retune: ON_WELT or a calibration run, a SURVEY run of its octant among them, or a test (R183). -/
def State.retuneHolder (s : State) (c : Nat) : Option Nat :=
  if (s.chan c).st = .onWelt ∨ s.cal.runs.any (fun r => r.ofChan c || (r.kind = 2 && r.inOct (octOf c))) then some (holderOf 3 c)
  else if (s.chan c).st = .test then some (holderOf 5 c) else none

/-- A retune of loop `k` waits for its commit. -/
def State.retuning (s : State) (k : Nat) : Bool := s.store.q.any fun r => match r.ch with
  | .retune j _ _ => j = k
  | _ => false

/-- The checks of ML_RETUNE in their order (R183). A loop whose retune is accepted and waits for its commit counts as no longer LOCKED (DESIGN CHOICE,
log 81). -/
def State.retuneErr (s : State) (k ni nf : Nat) : Option Rep :=
  let l := (s.oct k).loop
  let m := s.pwr.mode
  if m ≠ .survey ∧ m ≠ .service ∧ m ≠ .holdover then some (.fail .mode)
  else if ¬(40 * 2 ^ 24 ≤ ni * 2 ^ 24 + nf ∧ ni * 2 ^ 24 + nf ≤ 52 * 2 ^ 24) then some (.fail .range)
  else if l.st ≠ .locked ∨ s.retuning k then some (.named .busy l.st.ctorIdx)
  else match (chansOf k).findSome? s.retuneHolder with
  | some h => some (.conflict h)
  | none =>
    if s.planFor k ni nf = [] then some (.fail .noband)
    else match (chansOf k).find? fun c =>
        (s.chan c).st ≠ .idle ∧ (s.chan c).st ≠ .retired ∧ (planFreq (combOf ni nf) (s.freqOf c)).isNone with
      | some c => some (.named .fcw c)
      | none => none

/-- ML_RETUNE (R141, R183, R184, R187). -/
def State.opMlRetune (h : Hdr) (k : OctIx) (ni : Fin 256) (nf : BitVec 24) (s : State) : State :=
  match s.retuneErr k ni nf.toNat with
  | some r => s.reply h 0x0340 r
  | none =>
    let l := (s.oct k).loop
    if l.ni = ni ∧ l.nf = nf.toNat then s.retuneBegin h k ni nf.toNat
    else s.commit (some h) 0x0340 (.retune k ni nf.toNat)

def execMlRetune (h : Hdr) (k : OctIx) (ni : Fin 256) (nf : BitVec 24) (s : State) : Host.Outcome State Fault Refusal :=
  .next (s.viaDoor h 0x0340 (·.opMlRetune h k ni nf))

/-- GRAT_SCAN (R153): the scan of the named loops begins. -/
def State.opGratScan (h : Hdr) (mask : BitVec 8) (s : State) : State :=
  if s.pwr.mode = .survey then s.scanOpen (some h) mask.toNat
  else s.reply h 0x0505 (.fail .mode)

def execGratScan (h : Hdr) (mask : BitVec 8) (s : State) : Host.Outcome State Fault Refusal :=
  .next (s.viaDoor h 0x0505 (·.opGratScan h mask))

/-- Points in the order of R149: ascending TEMP, at least 5 °C apart. -/
def gOrder : List Nat → Bool
  | p :: q :: r => gTemp p + 640 ≤ gTemp q && gOrder (q :: r)
  | _ => true

/-- The band's points with point `p` replaced. -/
def gPut (l : List Nat) (p w : Nat) : List Nat := l.set p w

/-- The point whose TEMP is nearest `t`, the lower of two equally near. -/
def gNearest (t : Int) (l : List Nat) : Nat :=
  ((upTo 4).foldl (fun b p => if (gTemp (l.getD p 0) - t).natAbs < (gTemp (l.getD b 0) - t).natAbs then p else b) 0)

/-- The four points of a band after its scan, or none where the result is discarded with reason ORDER (R153 to R155). A replaced point keeps its TLOCK
(DESIGN CHOICE, log 81: the spec does not say). -/
def scanPts (pts : List Nat) (r : BandCount) : Option (List Nat) := match r.counts with
  | none => some (pts.map (gSet 96 1 0))
  | some (a, b, c) =>
    let d : Int := 640000 * ((c : Int) - a)
    let kv := (roundDiv d 32768).toNat
    let p := gNearest r.temp.toInt pts
    let w := gSet 0 40 (640000 * b) <| gSet 40 20 kv <| gSet 76 16 r.temp.toNat <| gSet 92 4 1 <| gSet 96 1 1 (pts.getD p 0)
    let l := gPut pts p w
    if gOrder l then some (l.map (gSet 97 1 (bit (kv * 32768 < 70000000 * 16)))) else none

/-- The count of band `b` of loop `l` among the counts of a scan. -/
def bandCount (rs : List BandCount) (l b : Nat) : Option BandCount := rs.find? fun r => r.loop.val = l ∧ r.band.val = b

/-- The bands that a scan of the loops of `mask` covers (R153). -/
def scanBands (mask : Nat) : List (Nat × Nat) := ((upTo 8).filter mask.testBit).flatMap fun l => (upTo 64).map (l, ·)

/-- What a scan changes, and the bands it discards: entries by index, discarded bands as 16-bit reply entries. -/
def State.scanResult (s : State) (mask : Nat) (rs : List BandCount) : List (Nat × W128) × List Nat :=
  (scanBands mask).foldl (fun a e => match bandCount rs e.1 e.2 with
    | none => a
    | some r => match scanPts (s.gPts r.loop r.band) r with
      | some l => (a.1 ++ (upTo 4).map (fun p => (gratIx r.loop r.band p, BitVec.ofNat 128 (l.getD p 0))), a.2)
      | none => (a.1, a.2 ++ [fld 0 6 r.band + fld 6 3 r.loop + fld 9 7 1])) ([], [])

/-- 16-bit entries packed eight to a word. -/
def pack16 (l : List Nat) : Nat → List Nat
  | 0 => []
  | n + 1 => if l.isEmpty then [] else
      ((l.take 8).foldr (fun x w => x + 65536 * w) 0) :: pack16 (l.drop 8) n

/-- BAND_SCAN_DONE (R151, R153 to R155): the oldest scan ends, once every band of each loop it names has its counts; its loops are closed, and its result
is committed before it takes effect. -/
def execBandScanDone (rs : List BandCount) (s : State) : Host.Outcome State Fault Refusal := match s.grat.scans with
  | [] => .next s
  | (h, mask) :: q =>
    if (scanBands mask).any (fun e => (bandCount rs e.1 e.2).isNone) then .next s else
    let r := s.scanResult mask rs
    let s := (s.modGrat fun g => { g with scans := q }).scanDrop fun _ => false
    .next (s.modStore fun d => { d with q := d.q ++ [⟨h, 0x0505, .grat r.1, r.2.length, pack16 r.2 15, s.now / secU, d.gen⟩] })

/-- Reserved bits [127:99] of an entry (R148). -/
def gReserved (w : Nat) : Nat := bits w 99 29

/-- The points of a band as they will stand once the changes that wait for their commit have stood. -/
def State.gPtsNext (s : State) (l b : Nat) : List Nat :=
  s.store.q.foldl (fun pts r => match r.ch with
    | .grat es => (upTo 4).map fun p => (((es.find? fun e => e.1 = gratIx l b p).map (·.2.toNat)).getD (pts.getD p 0))
    | _ => pts) (s.gPts l b)

/-- GRAT_EDIT (R148, R149, R151, R155): the entry as written, SRC 3. Reserved bits must be 0, TEMP must not be the marker 0x8000 (R74), and the order
of points must hold both on the points that stand and on those that will stand after the changes that wait. -/
def State.opGratEdit (h : Hdr) (k : OctIx) (band : Fin 64) (point : Fin 4) (w : W128) (s : State) : State :=
  let e := gSet 92 4 3 w.toNat
  if gReserved w.toNat ≠ 0 then s.reply h 0x0A10 (.fail .badarg)
  else if gTemp e ≠ -32768 ∧ gOrder (gPut (s.gPts k band) point e) ∧ gOrder (gPut (s.gPtsNext k band) point e) then
    s.commit (some h) 0x0A10 (.grat [(gratIx k band point, BitVec.ofNat 128 e)])
  else s.reply h 0x0A10 (.fail .range)

def execGratEdit (h : Hdr) (k : OctIx) (band : Fin 64) (point : Fin 4) (w : W128) (s : State) :
    Host.Outcome State Fault Refusal := .next (s.viaDoor h 0x0A10 (·.opGratEdit h k band point w))

/-- The forced switch is raised and counted in the octant (R173, R901). -/
def State.forced (k : Nat) (s : State) : State :=
  (s.modLoop k fun l => { l with forcedN := satAdd 8 1 l.forcedN }).mlEv k 11

/-- FORCED_SWITCH (R173): step 3 has not completed within 64 Y cycles, so the Y side forces X off and step 4 follows. -/
def execForcedSwitch (c : Ch) (s : State) : Host.Outcome State Fault Refusal := match (s.chan c).sw with
  | some (y, false) =>
    if s.hasEdges c y then .next ((s.gateOn c y).forced (octOf c)) else .next s
  | _ => .next s

/-- SWITCH_NO_EDGE (R901): X has shown no edge for 256 ACLK cycles, and the ACLK side forces it off; the output is low until Y shows edges, as it does
with `yEdges`. -/
def execSwitchNoEdge (c : Ch) (yEdges : Bool) (s : State) : Host.Outcome State Fault Refusal := match (s.chan c).sw with
  | some (y, false) =>
    let s := s.gateOff c y
    .next ((if yEdges ∧ s.hasEdges c y then s.gateOn c y else s).forced (octOf c))
  | _ => .next s

end Sys2Proof.Machine
end

