-- ==== Sys2Proof/Machine/EngOps.lean ====
section
/-!
DEFINITION. Servo engines: homes and the hash, queues, leases, phase requests (R258 to R266, R382 to R399, R425 to R432,
R441).
-/
namespace Sys2Proof.Machine

/-! ## Homes (R389, R390, R429) -/

/-- `x` rotated left by `n` in 32 bits. -/
def rotl32 (x n : Nat) : Nat := (x * 2 ^ (n % 32)) % 2 ^ 32 + x % 2 ^ 32 / 2 ^ (32 - n % 32)

/-- h of position `p` in octant `k` under `seed` (R389). -/
def hashOf (seed k p : Nat) : Nat :=
  let t := rotl32 seed (4 * k)
  let m := bits t 0 5
  ((2 * bits t 5 4 + 1) * (p ^^^ m) + bits t 9 5) % 32

/-- Home engine of user channel `c` under the hash alone. -/
def hashEng (seed c : Nat) : Nat := 4 * (c / 32) + hashOf seed (c / 32) (c % 32) / 8
def hashSlot (seed c : Nat) : Nat := hashOf seed (c / 32) (c % 32) % 8

/-- The engines of octant `k` that take homes, ascending (R429, R432). -/
def State.liveEngs (s : State) (k : Nat) : List Nat := ((upTo 4).map (4 * k + ·)).filter fun e => !(s.eng e).out

/-- The engine of a list with the fewest queued jobs, the lowest of equals. -/
def State.leastBusy (s : State) (l : List Nat) : Option Nat :=
  l.foldl (fun b e => match b with
    | none => some e
    | some d => if (s.eng e).q.length < (s.eng d).q.length then some e else some d) none

/-- The channel index that a job concerns; none for the timescale record. -/
def Job.chan : Job → Option Nat
  | .steer c _ => some c
  | .req c _ => some c
  | .hop r => some r.div
  | .ts _ | .whole _ | .tick => none

/-- A home engine of user channel `c`, with the rehash around retired engines; none when all four are retired. -/
def State.homeUser (s : State) (c : Nat) : Option Nat :=
  let e := hashEng s.arr.seed c
  if !(s.eng e).out then some e else
  let a := s.liveEngs (octOf c)
  if a = [] then none else a[hashSlot s.arr.seed c % a.length]?

/-- The engine that a job of index `c` goes to: for a welt, that of its octant with the fewest queued jobs (R28, R390). -/
def State.homeOf (s : State) (c : Nat) : Option Nat :=
  if c < 256 then s.homeUser c else s.leastBusy (s.liveEngs (octOf c))

/-- The engine that a timescale job goes to, among SE0 to SE3 (R28, R390). -/
def State.homeTs (s : State) : Option Nat := s.leastBusy (s.liveEngs 0)

/-! ## Queues (R388, R532) -/

/-- Reply of a request refused on the way: REQ_N_REFUSED advances (R786). -/
def State.reqRefused (i : Nat) (h : Option Hdr) (cmd : Nat) (e : Err) (s : State) : State :=
  (s.count i 10).replyTo h cmd (.fail e)

/-- A request that is given up: the command of a phase request, which takes no effect, is answered `e`. -/
def State.reqLost (e : Err) (j : Job) (s : State) : State := match j with
  | .req c (.adj h _ _) => s.reqRefused c h 0x0304 e
  | .req c (.cancel h) => s.reqRefused c h 0x0305 e
  | _ => s

/-- A job that no queue takes is discarded, counted for a channel's job. DESIGN CHOICE (log 81): a phase request so lost is answered BUSY. -/
def State.discard (j : Job) (s : State) : State := State.reqLost .busy j (match j.chan with
  | some c => s.modCnt c fun n => { n with qdrop := satAdd 16 1 n.qdrop }
  | none => s)

/-- A job enters the queue of engine `e`; a full queue discards it, with the event. -/
def State.enqueue (e : Nat) (j : Job) (s : State) : State :=
  if (s.eng e).q.length < 16 then s.modEng e fun g => { g with q := g.q ++ [j] } else (s.discard j).engEv e 9

/-- A job of index `c` is dispatched to its engine; with none left it is discarded. -/
def State.dispatch (c : Nat) (j : Job) (s : State) : State := match s.homeOf c with
  | some e => s.enqueue e j
  | none => s.discard j

/-- A timescale job is dispatched. -/
def State.dispatchTs (j : Job) (s : State) : State := match s.homeTs with
  | some e => s.enqueue e j
  | none => s

/-- The engine queue of index `c` has room. -/
def State.hasRoom (s : State) (c : Nat) : Bool := (s.homeOf c).any fun e => (s.eng e).q.length < 16

/-- A request is written into the request queue of its octant and dispatched; an absent queue counts it as dropped and takes none (R529, R532). -/
def State.request (c : Nat) (q : Req) (s : State) : State :=
  if (s.oct (octOf c)).xReq.present then s.dispatch c (.req c q)
  else s.modOct (octOf c) fun o => { o with xReq := { o.xReq with drop := satAdd 32 1 o.xReq.drop } }

/-- The hop reports of octant `k` become jobs (R385). -/
def State.dispatchHops (k : Nat) (s : State) : State :=
  forAll (s.oct k).hopQ (fun r s => s.dispatch r.div (.hop r)) (s.modOct k fun o => { o with hopQ := [] })

/-! ## Leases and cached entries (R394 to R397) -/

/-- Engine `e` takes the lease of channel `c`: other caches drop the entry, and its own keeps it newest. -/
def State.takeLease (e c : Nat) (s : State) : State :=
  let s := s.modChan c fun x => { x with lease := some e, leaseEng := e }
  { s with engs := (s.engs.put e (s.eng e)).map fun g =>
      (g.1, if g.1 = e then { g.2 with cache := (c :: g.2.cache.filter (· ≠ c)).take 12 }
            else { g.2 with cache := g.2.cache.filter (· ≠ c) }) }

/-- Index of the timescale record among cached entries. -/
def tsIndex : Nat := 264

/-- Engine `e` takes the lease of the timescale record. -/
def State.takeTsLease (e : Nat) (s : State) : State :=
  let s := s.modTs fun t => { t with lease := some e, leaseEng := e }
  { s with engs := (s.engs.put e (s.eng e)).map fun g =>
      (g.1, if g.1 = e then { g.2 with cache := (tsIndex :: g.2.cache.filter (· ≠ tsIndex)).take 12 }
            else { g.2 with cache := g.2.cache.filter (· ≠ tsIndex) }) }

/-- The lease that a job needs is free or held by engine `e`. -/
def State.leaseOk (s : State) (e : Nat) (j : Job) : Bool := match j.chan with
  | some c => (s.chan c).lease = none || (s.chan c).lease = some e
  | none => s.ts.lease = none || s.ts.lease = some e

/-- Some engine still holds settle work for the record that `p` selects. -/
def State.settling (s : State) (p : Settle → Bool) : Bool := s.engs.any fun g => g.2.settle.any p

def Settle.isChan (c : Nat) : Settle → Bool
  | .chan d .. => d = c
  | .ts .. => false
def Settle.isTs : Settle → Bool
  | .ts .. => true
  | .chan .. => false
def Settle.cost : Settle → Nat
  | .chan _ n _ => n
  | .ts n _ => n

/-- The entry of `c` as it stands. -/
def State.back (s : State) (c : Nat) : Back :=
  let x := s.chan c
  ⟨x.srv, x.trav, x.st, x.cnt.outlier, x.cnt.clamp⟩
def State.tsBack (s : State) : TsBack := ⟨s.ts.srv, s.ts.trav, s.ts.st⟩

/-- The entry of `c` as last written back (R395): as the oldest job that still settles has found it. -/
def State.written (s : State) (c : Nat) : Back :=
  match (s.engs.findSome? fun g => g.2.settle.find? (·.isChan c) : Option Settle) with
  | some (.chan _ _ b) => b
  | _ => s.back c
def State.tsWritten (s : State) : TsBack :=
  match (s.engs.findSome? fun g => g.2.settle.find? (·.isTs) : Option Settle) with
  | some (.ts _ b) => b
  | _ => s.tsBack

/-! ## Requests (R258 to R266, R406, R441) -/

/-- States in which CH_PHASE_ADJ is accepted (R259). -/
def ChState.phased : ChState → Bool
  | .acquire | .track | .holdover | .bypass | .onWelt => true
  | _ => false

/-- Refusal of a phase request for channel `c` in its present state: MODE in IDLE, TEST and RETIRED without welt (R259). -/
def State.phaseMode (s : State) (c : Nat) : Bool := !(s.chan (s.actOf c)).st.phased

/-- Residual that CH_PHASE_ADJ would leave passes PH_RES_MAX (R260). -/
def State.adjRange (s : State) (i : Nat) (d : Int) : Bool :=
  s.ui i P.phResMax < (((s.chan i).trav.res + d).natAbs : Int)

/-- The first checks of CH_START, in the order of R441; NOSTAMP is the last of them. -/
def State.startErr (s : State) (c : Nat) : Option Err :=
  let m := s.pwr.mode
  let i := s.actOf c
  if m ≠ .service ∧ m ≠ .holdover then some .mode
  else if !s.quadEn (quadOf (octOf c)) then some .mode
  else if s.ts.st = .stopped then some .tsStopped
  else if (s.chan i).st ≠ .idle then some .mode
  else if !((s.chan i).div.slot (s.chan i).div.act).valid then some .fcw
  else if (s.oct (octOf c)).loop.st ≠ .locked then some .loop
  else if (s.oct (octOf c)).noStamp then some .nostamp
  else none

/-- A CH_START of channel `c`: its error, and the state with the start placed as a request job; a refusal with NOSTAMP moves
a channel in IDLE to BYPASS with BYP_NOSTAMP (R441 to R443, R774). -/
def State.chStart (c : Nat) (s : State) : Option Err × State :=
  let i := s.actOf c
  match s.startErr c with
  | some .nostamp =>
    (some .nostamp, if (s.chan i).st = .idle then (s.enterBypass .noStamp i).chEvent i 6 0 else s)
  | some e => (some e, s)
  | none =>
    let t := s.request i .start
    if !(s.oct (octOf i)).xReq.present then (some .absent, t) else if s.hasRoom i then (none, t) else (some .busy, t)

/-- The autostart channels, ascending; a refusal is posted as START_REFUSED (R488). -/
def State.autostart (s : State) : State :=
  forAll ((upTo 256).filter fun c => s.cp c P.chAutostart = 1) (fun c s =>
    match s.chStart c with
    | (some e, s) => s.post ⟨0x8105, fld 0 16 c + fld 16 8 e.code, 0, 0⟩
    | (none, s) => s) s

/-- A timescale start executes: counter value `x`, start value `v`; CH_STARTs held for it are issued (R488). -/
def State.tsExecute (x v : Nat) (s : State) : State :=
  let s := s.tsBegin x v
  if s.ts.held then (s.modTs fun t => { t with held := false }).autostart else s

/-- A request takes effect between two updates of the channel, checked against the state it then finds (R263, R444): a start that finds the
timescale STOPPED (R108), or a device mode that admits no running channel (R43), leaves the channel in IDLE. -/
def State.applyReq (c : Nat) (q : Req) (s : State) : State :=
  let x := s.chan c
  match q with
  | .adj h notify d =>
    if !x.st.phased then s.reqRefused c h 0x0304 .mode
    else if s.adjRange c d then s.reqRefused c h 0x0304 .resRange
    else
      let s := s.modTrav c (·.request d notify)
      let t := (s.chan c).trav
      let s := s.replyTo h 0x0304 ⟨.ok, 0, 0, t.reqN, [toBits 96 t.res]⟩
      if t.isDone then slewDone c t ((s.modTrav c fun t => { t with notify := 0 }).count c 11) else s
  | .cancel h =>
    if !x.st.phased then s.reqRefused c h 0x0305 .mode
    else
      let s := s.modTrav c Trav.cancel
      let t := (s.chan c).trav
      let s := s.replyTo h 0x0305 (.res t.reqN)
      if t.isDone then slewDone c t ((s.modTrav c fun t => { t with notify := 0 }).count c 11) else s
  | .start =>
    if x.st = .idle ∧ s.ts.st ≠ .stopped ∧ (s.pwr.mode = .service ∨ s.pwr.mode = .holdover) then s.leaveIdle c else s
  | .coef kp ki ki2 tUpd i2 =>
    s.modChan c fun x => { x with kp := kp, ki := ki, ki2 := ki2, tUpd := tUpd, i2En := i2 }

end Sys2Proof.Machine
end

