-- ==== Sys2Proof/Machine/ModeOps.lean ====
section
/-!
DEFINITION. Operations shared by the reference, the timescale commands and the device modes: configuring and losing
REFIN, entering and leaving device mode BYPASS (R44, R83 to R97, R478, R486, R489).
-/
namespace Sys2Proof.Machine

/-! ## REFIN -/

/-- P of a REF_FREQ in 2^-24 Hz (R83, R84). -/
def refP (f : Nat) : Nat :=
  if f = 125000000 * 2 ^ 24 then 3 else if f = 156250000 * 2 ^ 24 then 5
  else max 1 ((f + 50000000 * 2 ^ 24 - 1) / (50000000 * 2 ^ 24))

/-- P, M and the correction term for the REF_FREQ in force (R83 to R85). -/
def State.loadRef (s : State) : State :=
  let f := s.pv P.refFreq
  let p := refP f
  let m := (roundDiv ((4000000000 * 2 ^ 72 * p : Nat) : Int) (max 1 f)).toNat
  let n := f * m
  let d : Nat := 4000000000 * 2 ^ 72 * p
  s.modRef fun r => { r with p := p, m := m, frac := m % 2 ^ 48 ≠ 0, bw := s.pv P.refBw, corr := roundDiv (((d : Int) - n) * 2 ^ 64) (max 1 n) }

/-- A phase difference of `d` folded into one phase-detector period of the MPLL, as a numerator over REF_FREQ (R897): the value congruent to it
within (−1/(2·f_pd), +1/(2·f_pd)]. -/
def State.pdFold (s : State) (d : Int) : Int :=
  let f := max 1 (s.pv P.refFreq)
  let n : Int := (s.ref.p * 2 ^ 24 * secU : Nat)
  d * f - n * -((n - 2 * d * f) / (2 * n))

/-- The phase-detector error for a phase difference of `d`, 2^-18 ns (R897). -/
def State.pdErr (s : State) (d : Int) : Int := roundDiv (s.pdFold d) (max 1 (s.pv P.refFreq))

/-- The error of a phase-detector cycle lies within MPLL_LKWIN, inclusive (R90). -/
def State.pdIn (s : State) (c : PdCyc) : Bool := ((s.pdFold c.diff).natAbs : Int) ≤ s.pi P.mpllLkwin * (max 1 (s.pv P.refFreq) : Nat)

/-- The consecutive cycles outside MPLL_LKWIN with which a trace ends (R92). -/
def State.pdOut (s : State) (l : List PdCyc) : Nat := (l.reverse.takeWhile fun c => !s.pdIn c).length

/-- The MPLL declares lock on a trace (R90). -/
def State.pdLocks (s : State) (l : List PdCyc) : Bool := 1024 ≤ l.length && (l.reverse.take 1024).all s.pdIn

/-- The detectors that fire in an ACLK cycle, the one whose window of R93 ends earliest first (R92). -/
def State.refFires (s : State) (tr : RefTrace) : List RefDet :=
  (if s.ts.role = .gm ∧ s.pps.qual ∧ tr.dev.any (fun d => s.pi P.refFwin < d.natAbs) then [.freq] else []) ++
  (if s.ref.lock ∧ s.pv P.refLosscnt ≤ s.pdOut tr.cyc then [.window] else []) ++
  (if tr.missing then [.missing] else [])

/-- Mean of tuning words, rounded; without one, the word in force. -/
def State.meanTune (s : State) (l : List Int) : Int := if l = [] then s.ref.integ else roundDiv l.sum l.length

/-- The frozen word of R93: the mean over the 4,096 cycles that belong to detector `det`. -/
def State.frozenMean (s : State) (det : RefDet) (tr : RefTrace) : Int :=
  let newest := tr.cyc.reverse.map (·.tune)
  s.meanTune (match det with
    | .freq => tr.gate.take 4096
    | .window => (newest.drop (s.pdOut tr.cyc)).take 4096
    | _ => newest.take 4096)

/-- The MPLL follows the cycles of a trace: the last error and the integrator of its loop filter (R89, R897). -/
def State.pdFollow (l : List PdCyc) (s : State) : State := match l.getLast? with
  | some c => if s.ref.frozen then s else s.modRef fun r => { r with err := s.pdErr c.diff, integ := c.tune }
  | none => s

/-- REFIN is disqualified by detector `det`, the MPLL frozen at `mean`: REF_LOST, the end of calibration runs, and in
grandmaster role the loss of the upstream (R92, R93, R125, R573). -/
def State.refDisq (det : RefDet) (mean : Int) (s : State) : State :=
  if !s.ref.qual then s else
  let s := (s.modRef fun r => { r with
    qual := false, lock := false, frozen := true, word := mean, integ := mean, qualT := false, det := det, winOk := true }).refEv 8
  let s := s.calAbortIf 1 (fun _ => true)
  if s.ts.role = .gm then s.tsUpLost true else s

/-- The detectors of R92 in one ACLK cycle: the first of those that fire disqualifies REFIN (R93, R97). A missing edge while REFIN that has met
REF_QUAL awaits its lock breaks the run of edges, and the MPLL freezes at its word again (DESIGN CHOICE, log 81). -/
def State.refWatch (tr : RefTrace) (s : State) : State :=
  if !s.ref.qual then
    if tr.missing ∧ s.ref.qualT then s.modRef fun r => { r with qualT := false, frozen := true, integ := r.word } else s
  else
  let s := s.pdFollow tr.cyc
  match s.refFires tr with
  | det :: _ => s.refDisq det (s.frozenMean det tr)
  | [] => s

/-- A REF_FREQ written in SURVEY: a planned change of reference (R88). The mean over the 4,096 cycles before the write is a free value. -/
def State.refPlanned (s : State) : State :=
  let s := (s.refDisq .none (Config.frozenWord s.ts.edges)).loadRef
  let s := s.modRef fun r => if r.frozen then { r with qualT := false } else r
  if s.ts.st = .stopped then s else (s.tsAdvance s.ts.dts).tsCompose

/-- TS_AUTOSTART at the end of WAKE, or after a relock of the MPLL (R110, R489). -/
def State.tsAuto (s : State) : State :=
  if s.ts.st ≠ .stopped then s else
  match s.pv P.tsAutostart with
  | 1 => let v := linOf (s.pv P.tsStartVal); s.tsExecute (v * 2 ^ 46) v
  | 2 => s.modTs fun t => { t with armed := some .ppsAuto }
  | _ => s

/-! ## Device mode BYPASS -/

/-- All 264 channel indices. -/
def allChans : List Nat := upTo 264

/-- In a BYPASS that interrupts WAKE every output of a powered quadrant takes its bypass source (R485, R487). -/
def State.bypIdle (c : Nat) (s : State) : State :=
  let x := s.chan c
  if x.hiz ∨ !s.pwr.pwr.testBit (pdQ (quadOf (octOf c))) then s else s.switchTo c (s.bypSrc c)

/-- Entry to device mode BYPASS for `cause` (BYP_CAUSE): runs end with MODE, tests ABORTED, running channels to BYPASS; the mode
it interrupts is kept for the exit (R44, R478, R486, R573, R826). -/
def State.devBypass (cause : Nat) (s : State) : State :=
  let s := (s.calAbortIf 0x0D (fun _ => true)).benchEnd 0x0D 0
  let s := forAll allChans (fun c s => if (s.chan c).st.running then s.enterBypass .device c else s) s
  let s := s.testAbortIf (fun _ => true)
  let s := s.modPwr fun p => { p with bypCause := cause, bypFrom := if p.mode = .bypass then p.bypFrom else p.mode }
  let s := if s.pwr.bypFrom = .wake then forAll allChans (fun c s => s.bypIdle c) s else s
  s.setMode .bypass

/-- The mode that SERVICE, or WAKE's end, becomes under R477. -/
def State.serviceMode (s : State) : Mode := if s.ts.st = .coasting then .holdover else .service

/-- WAKE_TARGET, or HOLDOVER in place of SERVICE (R477, R478). -/
def State.targetMode (s : State) : Mode := if s.pv P.wakeTarget = 1 then .survey else s.serviceMode

/-- PD_ENG is powered, out of island reset and scrubbed (R486). -/
def State.engReady (s : State) : Bool := s.domOn pdEng && !s.arr.lost

/-- A channel in BYPASS since the device entered BYPASS, whose loop is LOCKED, acquires or returns to IDLE; one whose loop is still
down waits for the lock (R181, R443). -/
def State.leaveDevice (c : Nat) (s : State) : State :=
  let x := s.chan c
  let k := octOf c
  if x.st = .bypass ∧ x.cause = .device then
    if (s.oct k).loop.st ≠ .locked then s.modChan c fun x => { x with cause := .loop }
    else if s.pwr.mode = .survey ∧ x.prev ≠ .test then s.modChan c fun x => { x with cause := .survey }
    else s.leaveBypass (s.returnsAtLock k) c
  else s

/-- Exit from device mode BYPASS to mode `m`. -/
def State.leaveDevBypass (m : Mode) (s : State) : State :=
  let s := (s.modPwr fun p => { p with bypCause := 0, bypFrom := .stowed, step := 0, halt := false }).setMode m
  forAll (upTo 8) (fun k s => s.takeoverRetry k) (forAll allChans (fun c s => s.leaveDevice c) s)

/-- The timescale stops and PD_REF is reset for another WAKE step 2 (R112, R489, R497). -/
def State.refReset (s : State) : State :=
  let s := s.tsStop
  let s := s.modRef fun r => { RefS.init with ev := r.ev, det := r.det }
  let s := s.modPps fun p => { PpsS.init with outlier := p.outlier }
  let s := forAll (upTo 4) (fun d s => (s.modCore (devCore d) fun k => { k with held := [], fail := false }).modSrc (0x800 + d) fun x =>
    { x with seq := 0, dec := 0, last := none, gap := false }) s
  let s := s.modDevq fun q => { q with xStamp := { q.xStamp with drop := 0, resync := true }, xRate := { q.xRate with resync := true } }
  (s.modDll 8 fun d => { d with lock := false }).loadRef

/-- Loss of the measurement loop (R96, R97, R168, R489): the timescale stops, PD_REF is reset and step 2 is repeated, loops hold, and
the device enters BYPASS; WAKE stops where it is (R487). -/
def State.measLost (also : Option RefTrace) (s : State) : State :=
  let s := match also with
    | some tr => s.refWatch tr
    | none => s
  let s := forAll (upTo 8) (fun k s => s.loopHold k) s
  let s := s.refReset.devBypass 1
  s.modPwr fun p => { p with redo := p.bypFrom ≠ .wake, halt := p.bypFrom = .wake }

end Sys2Proof.Machine
end

