-- ==== Sys2Proof/Machine/Synthesis.lean ====
section
/-!
DEFINITION. Divider side of the channels: correction records, slot loads, hops and ramps, DTC tables, marker pulses
(R193 to R251, R456, R526).
-/
namespace Sys2Proof.Machine

/-! ## Shared operations -/


/-- The first record of `lane` in an octant's FCW queue, and the queue without it. -/
def takeLane (lane : Nat) : List (Nat × FcwRec) → Option (FcwRec × List (Nat × FcwRec))
  | [] => none
  | (l, r) :: q => if l = lane then some (r, q) else match takeLane lane q with
    | some (r', q') => some (r', (l, r) :: q')
    | none => none

/-- A hop report is written; one that the queue does not take for a reset of its reader is dropped and counted (R202, R527, R529). -/
def State.hopReport (k : Nat) (r : HopRep) (s : State) : State :=
  let o := s.oct k
  if o.xHop.present && !o.xHop.full then s.modOct k fun o => { o with hopQ := o.hopQ ++ [r] }
  else s.modOct k fun o => { o with xHop := { o.xHop with drop := satAdd 16 1 o.xHop.drop } }

/-- R_i of a ramp, rounded; NOM_new past its end (R72, R230). -/
def Ramp.at (r : Ramp) (i : Nat) : Nat :=
  let i := min i (r.m + 1)
  (roundDiv ((r.old : Int) * (r.m + 1) + ((r.new : Int) - r.old) * i) (r.m + 1)).toNat

/-- Sum of the nominal ratios of a ramp's first `n` periods. -/
def rampSum (r : Ramp) (n : Nat) : Nat := (upTo (min n r.m)).foldl (fun a i => a + r.at (i + 1)) 0

/-- Sum of the nominal ratios of the periods from boundary `b` to boundary `e`, under slot content `nom` or `ramp`. -/
def nomSum (nom : Nat) (ramp : Option Ramp) (b e : Nat) : Nat := match ramp with
  | some r =>
    rampSum r (e - r.b0) - rampSum r (b - r.b0) + r.new * ((e - b) - (min (e - r.b0) r.m - min (b - r.b0) r.m))
  | none => nom * (e - b)

/-- Nominal part of the ratio applied in the period that ends at boundary `b` (R230). -/
def Div.nomBefore (d : Div) (b : Nat) : Nat := match d.ramp with
  | some r => r.at (b - r.b0)
  | none => d.nom

/-- The ratio R applied in the period that begins at boundary `b` (R194, R196, R230). -/
def Div.ratio (d : Div) (b : Nat) : Int := d.nomBefore (b + 1) + d.delta

/-- The divider at boundary `b`: every period since its last change has added its ratio to the accumulator, which keeps 64 bits (R196, R203). -/
def Div.runTo (b : Nat) (d : Div) : Div :=
  let b := max b d.bnd
  { d with bnd := b, acc := ((d.acc + nomSum d.nom d.ramp d.bnd b + (b - d.bnd : Nat) * d.delta) % 2 ^ 64).toNat }

/-- The ramp from nominal part `old` towards `new` that starts at boundary `b`; none with HOP_RAMP = 0. -/
def rampOf (old new m b : Nat) : Option Ramp := if m = 0 then none else some ⟨old, new, m, b⟩

/-- DELTA kept over a change of the nominal part (R201), within 2 to 4096 − 2^-64 and FMAX, which holds in every divider period (R198, R215; DESIGN
CHOICE, log 81: the divider applies it). -/
def State.keepDelta (w : Nat) (s : State) : State :=
  let low := s.least w
  s.modDiv w fun d => let v := limitDelta low d.nom d.delta; { d with delta := v, clamp := d.clamp || v ≠ d.delta }

/-- Dividers that count periods. -/
def ChState.divides : ChState → Bool
  | .acquire | .track | .holdover | .onWelt | .test => true
  | _ => false

/-- The divider whose triggers are those of channel `c`: the welt's while the channel is ON_WELT (R228). -/
def State.divOf (s : State) (c : Nat) : Nat := if (s.chan c).st = .onWelt then weltOf (octOf c) else c

/-- A trigger that is not executed (R224). -/
def State.hopLost (c : Nat) (s : State) : State :=
  (s.modDiv c fun d => { d with hopLost := satAdd 4 1 d.hopLost }).count c 13

/-- A trigger is latched in the VCLK island. In a state that runs no divider it is not executed: a register or mailbox trigger is kept in IDLE and
BYPASS, and one that its slot's contents refuse leaves HOP_SEL at the slot in force (R222, R224). -/
def State.latchTrig (c : Nat) (t : Trig) (s : State) : State :=
  let st := (s.chan c).st
  if st = .idle ∨ st = .bypass ∨ st = .retired ∨ st = .test then
    let s := s.hopLost c
    if t.mrk then s
    else s.modDiv c fun d =>
      if !d.canHop t.slot then { d with sel := d.act } else if st = .idle ∨ st = .bypass then { d with kept := some t.slot } else d
  else s.modDiv (s.divOf c) fun d => { d with trig := d.trig ++ [t] }

/-- The slot that an MRKn trigger selects: the next VALID one of the cycle 0 to `last` after the slot in force; from a slot in force beyond `last` the
count goes on modulo the cycle (R223; DESIGN CHOICE, log 81). -/
def nextSlot (d : Div) (last : Nat) : Option Nat :=
  ((upTo (last + 1)).map fun j => (d.act + 1 + j) % (last + 1)).find? fun i => i ≠ d.act ∧ (d.slot i).valid

/-- A hop trigger during a handover or return restarts it, the welt or the channel loaded with the slot now in force; the third time ends the run with
reason HOP (R228, R456). -/
def State.handHop (c : Nat) (s : State) : State := match (s.oct (octOf c)).hand with
  | some h =>
    if h.ch = c ∧ (h.step ≤ 3 ∨ h.step = 6) then
      if h.restarts ≥ 2 then s.calAbortIf 0x0F (fun r => r.kind = 0 ∧ r.unit = c)
      else
        let s := s.modOct (octOf c) fun o => { o with
          hand := some { h with step := if h.step ≤ 3 then 1 else 6, agree := 0, entered := false, restarts := h.restarts + 1 } }
        if h.step ≤ 3 then s.handLoad c else s.beginReturn (octOf c)
    else s
  | none => s

/-- The nominal part at divider `w` of channel `c` changes to that of slot `n` at boundary `b`, with HOP_RAMP periods of ramp; an unfinished ramp is
reported as ended (R201, R202, R219, R230, R231). `f` changes the slots and the slot in force. -/
def State.changeNom (w c n b : Nat) (f : Div → Div) (s : State) : State :=
  let k := octOf c
  let d := (s.chan w).div.runTo b
  let s := match d.ramp with
    | some r => s.hopReport k ⟨c, d.act, d.bnd, some r, true, w⟩
    | none => s
  let d' := f d
  let r := rampOf (d.nomBefore d.bnd) (d'.slot n).nom (s.up c P.hopRamp) d.bnd
  ((s.modDiv w fun _ => { d' with ramp := r }).keepDelta w).hopReport k ⟨c, n, d.bnd, r, false, w⟩

/-- What the divider of a channel whose welt acts for it takes, its periods counted up to its own boundary `own`; without a welt, `f` alone. -/
def State.modOwn (c w own : Nat) (f : Div → Div) (s : State) : State := s.modDiv c fun d => f (if w = c then d else d.runTo own)

/-- The oldest latched trigger of channel `c` meets divider boundary `bnd`; while the welt acts, `own` is the boundary that the channel's own divider
has reached (R197, R201, R202, R223 to R233, R456, R526). -/
def State.hopApply (c bnd own : Nat) (s : State) : State :=
  let w := s.divOf c
  let d := (s.chan w).div
  match d.trig with
  | [] => s
  | t :: q =>
    let s := s.modDiv w fun d => { d with trig := q }
    match (if t.mrk then nextSlot d (s.up c P.hopMrkLast) else some t.slot) with
    | none => s.hopLost c
    | some n =>
      if !d.canHop n then
        let s := s.hopLost c
        if t.mrk then s else s.modDiv c fun x => { x with sel := d.act }
      else if ((s.oct (octOf c)).hopQ.filter (·.ch = c)).length ≥ 2 then s.hopLost c
      else
        let s := s.changeNom w c n bnd fun d => { d with act := n }
        ((s.modOwn c w own fun d => { d with act := n, hopN := satAdd 8 1 d.hopN }).count c 12).handHop c

/-- Every trigger latched for channel `c` is applied at boundary `bnd` (R227). -/
def State.hopsApply (c bnd : Nat) (s : State) : State :=
  forAll ((s.chan (s.divOf c)).div.trig) (fun _ s => s.hopApply c bnd 0) s

/-! ## The commands -/

/-- A record of channel `c` stands ahead of the first record of `lane` in the queue, in the lane of another engine (R400). -/
def laneBehind (lane c : Nat) (q : List (Nat × FcwRec)) : Bool :=
  (q.takeWhile fun e => e.1 ≠ lane).any fun e => match e.2 with
    | .corr d .. => d = c
    | .load .. => false

/-- CORRECTION_RECORD (R194 to R201, R227, R400): octant `k`'s divider takes the oldest record of engine lane `lane`, unless a record of the same channel
that another engine has written before it still waits. It applies from boundary `bnd`; `same` states that the triggers of its channel that are latched
and not yet applied have been latched in its VCLK cycle: they apply first. -/
def execCorrectionRecord (k : OctIx) (lane : EngIx) (s : State) (bnd : Nat := 0) (same : Bool := false) : Host.Outcome State Fault Refusal :=
  if (s.oct k).vclkRst then .next s else
  match takeLane lane (s.oct k).fcw with
  | some (.corr c slot delta, q) =>
    if laneBehind lane c (s.oct k).fcw then .next s else
    let s := s.modOct k fun o => { o with fcw := q }
    let s := if same then s.hopsApply (s.userOf c) bnd else s
    let d := (s.chan c).div
    if slot ≠ d.act then .next (s.modCnt c fun n => { n with stale := satAdd 32 1 n.stale }) else
    let v := limitDelta ratioMin d.nom delta
    let s := s.modDiv c fun d => { d.runTo bnd with delta := v, clamp := d.clamp || v ≠ delta }
    .next (if v = delta then s else s.modCnt c fun n => { n with clamp := satAdd 32 1 n.clamp })
  | _ => .next s

/-- SLOT_LOAD (R197, R202, R219, R228, R230, R231): octant `k` takes the oldest load of the cobbler's lane at boundary `bnd`; while the channel is ON_WELT the
welt's copy is loaded too, the welt's divider reports, and `own` is the boundary at which the channel's own divider is loaded. -/
def execSlotLoad (k : OctIx) (bnd own : Nat) (s : State) : Host.Outcome State Fault Refusal :=
  if (s.oct k).vclkRst then .next s else
  match takeLane cobLane (s.oct k).fcw with
  | some (.load c slot v, q) =>
    let s := s.modOct k fun o => { o with fcw := q }
    let w := s.divOf c
    let load (d : Div) : Div := { d with slots := d.slots.put slot v }
    let x := s.chan w
    let s := if w = c then s else s.modOwn c w own load
    if slot ≠ x.div.act then .next (s.modDiv w load)
    else if !x.st.divides then
      .next ((s.modDiv w fun d => { load d with k := v.k }).hopReport k ⟨c, slot, max bnd x.div.bnd, none, false, w⟩)
    else .next (s.changeNom w c slot bnd load)
  | _ => .next s

/-- A write into octant `k`'s hop select queue fails and is counted (R529). -/
def State.selDrop (k : Nat) (s : State) : State := s.modOct k fun o => { o with xSel := { o.xSel with drop := satAdd 16 1 o.xSel.drop } }

/-- HOP_SEL_WRITE (R222 to R225, R529): a write of CH_FAST.HOP_SEL. A write that would wait on FULL waits until the divider's side is found absent, and
fails then (DESIGN CHOICE, log 81: no reset of it ends sooner). -/
def State.hopSelWrite (c slot : Nat) (s : State) : State :=
  let d := (s.chan (s.divOf c)).div
  let s' := s.modDiv c fun d => { d with sel := slot }
  if slot = d.act then s' else
  let o := s.oct (octOf c)
  if o.xSel.present && !o.xSel.full then s'.latchTrig c ⟨false, slot⟩
  else s'.selDrop (octOf c)

def execHopSelWrite (c : Fin 256) (slot : Fin 4) (s : State) : Host.Outcome State Fault Refusal := .next (s.hopSelWrite c slot)

/-- MRK_HOP_TRIGGER (R222, R223, R226, R251): a selected marker edge in IN_HOP mode; `same` states that it is latched in the
VCLK cycle of the trigger latched last, which it then displaces. -/
def execMrkHopTrigger (c : Ch) (same : Bool) (s : State) : Host.Outcome State Fault Refusal :=
  if s.up c P.mrkMode ≠ 2 ∨ (s.oct (octOf c)).vclkRst then .next s else
  let w := s.divOf c
  let last := (s.chan w).div.trig.getLast?
  let s := if same ∧ last.any (fun t => !t.mrk) then
      (s.modDiv w fun d => { d with trig := d.trig.dropLast }).hopLost c else s
  .next (s.latchTrig c ⟨true, 0⟩)

/-- CH_HOP (R222 to R225, R532). -/
def State.opChHop (h : Hdr) (c : Ch) (slot : Fin 4) (s : State) : State :=
  let d := (s.chan (s.divOf c)).div
  if slot.val = d.act then ((s.modDiv c fun d => { d with sel := slot }).reply h 0x0303 .ok)
  else if !(s.oct (octOf c)).xSel.present ∨ (s.oct (octOf c)).xSel.full then (s.selDrop (octOf c)).reply h 0x0303 (.fail .absent)
  else if (d.slot slot).valid ∧ (d.slot slot).k = d.k then ((s.hopSelWrite c slot).reply h 0x0303 .ok)
  else (((s.modDiv c fun d => { d with sel := d.act }).hopLost c).reply h 0x0303 ⟨.conflict, 0, slot, 0, []⟩)

def execChHop (h : Hdr) (c : Ch) (slot : Fin 4) (s : State) : Host.Outcome State Fault Refusal :=
  .next (s.viaDoor h 0x0303 (·.opChHop h c slot))

/-- HOP_APPLY (R197, R201, R202, R223 to R233, R456, R526): the oldest latched trigger of channel `c` meets divider boundary `bnd`, and the
channel's own divider, while its welt acts, its boundary `own`. -/
def execHopApply (c : Ch) (bnd own : Nat) (s : State) : Host.Outcome State Fault Refusal :=
  .next (if (s.oct (octOf c)).vclkRst then s else s.hopApply c bnd own)

/-- HOP_RAMP_END (R202, R228, R230): NOM_new + DELTA applies from boundary `bnd`; divider `c` reports for the channel for which it acts. -/
def execHopRampEnd (c : Ch) (bnd : Nat) (s : State) : Host.Outcome State Fault Refusal := match (s.chan c).div.ramp with
  | some r =>
    let d := (s.chan c).div.runTo bnd
    .next ((s.modDiv c fun _ => { d with ramp := none }).hopReport (octOf c) ⟨s.userOf c, d.act, d.bnd, some r, true, c⟩)
  | none => .next s

/-- DTC_TABLE_APPLY (R209): the set that waits takes effect whole. -/
def execDtcTableApply (c : Ch) (s : State) : Host.Outcome State Fault Refusal := match (s.chan c).div.dtcNew with
  | some t => .next (s.modDiv c fun d => { d with dtc := t, dtcNew := none })
  | none => .next s

/-- First output edge at or after DTS second `sec` plus MRK_OFS, counted from the grid anchor (R236). -/
def State.pulseEdge (s : State) (c sec : Nat) (anchor : Nat) : Nat :=
  let x := s.chan c
  let t : Int := ((sec * secU : Nat) + s.ui c P.mrkOfs + x.trav.pReal) * 2 ^ 78 - anchor
  (ceilDiv t (max 1 x.srv.tCmd)).toNat

/-- OUT_PPS_PULSE (R236, R237): the marker pulse of DTS second `sec` is scheduled, or missed outside TRACK; MRKn is then low (DESIGN CHOICE, log 81). -/
def execOutPpsPulse (c : Ch) (sec : BitVec 48) (s : State) : Host.Outcome State Fault Refusal :=
  let m := s.up c P.mrkMode
  if m ≠ 3 ∧ m ≠ 4 then .next s else
  let x := s.chan c
  match x.st, x.srv.anchor with
  | .track, some a => .next (s.modChan c fun x => { x with pulse := s.pulseEdge c sec.toNat a :: x.pulse.take 1 })
  | _, _ => .next ((s.modCnt c fun n => { n with miss := satAdd 32 1 n.miss }).modChan c fun x => { x with pulse := [] })

/-- The marker of channel `c` is high in the output period that begins with rising output edge `n` of the grid (R236 to R238): for MRK_WIDTH periods from
the start edge of the second, in OUT_MARK also from every MRK_DIV-th edge after it, until the next second's start edge. -/
def State.mrkHigh (s : State) (c n : Nat) : Bool := match (s.chan c).pulse.find? (· ≤ n) with
  | none => false
  | some p =>
    let m := s.up c P.mrkMode
    let e := n - p
    if m = 3 then decide (e < s.up c P.mrkWidth)
    else if m = 4 then decide (e % max 1 (s.up c P.mrkDiv) < s.up c P.mrkWidth) else false

end Sys2Proof.Machine
end

