-- ==== Sys2Proof/Machine/Steering.lean ====
section
/-!
DEFINITION. The steer stage of a channel's steering record: phase error, outliers, lock, the loop filter, the composition of
DELTA with its clamps, the divider self-check, handover alignment (R256, R267 to R281, R315 to R317, R401 to R406, R443 to R450,
R454).
-/
namespace Sys2Proof.Machine

/-- One stamp LSB unit, 2^-18 ns, in 2^-96 ns. -/
def u96 : Int := 2 ^ 78

/-! ## The phase error (R279, R401, R402, R446) -/

/-- Spacing of the steering records of a channel at its commanded period, 2^-96 ns. -/
def Srv.spacing (v : Srv) : Nat := max 1 (v.dec * v.tCmd)

/-- Output periods from the last steering record to one at `t`: DEC, or after a jump DEC × the nearest whole number (R401). -/
def Srv.advance (v : Srv) (t : Nat) (jump : Bool) : Int :=
  if jump then v.dec * roundDiv (((t : Int) - v.tLast) * u96) v.spacing else v.dec

/-- Time from the grid edge `pos` (divider periods) to stamp `t`, in 2^-18 ns: the error without P_REAL. -/
def gridErr (anchor : Nat) (pos : Int) (tCmd k t : Nat) : Int :=
  roundDiv (((t : Int) * u96 - anchor) * 2 ^ k - pos * tCmd) (2 ^ (78 + k))

/-- The whole number of output periods for which a measured phase lies in R279's range around P_CMD. -/
def reentryN (anchor : Nat) (pCmd : Int) (tCmd t : Nat) : Int :=
  let g := (t : Int) * u96 - anchor
  ceilDiv (2 * (pCmd * u96 + g) - tCmd) (2 * max 1 tCmd)

/-- Output periods, in 2^-64, from monitor stamp `mon` to `t`, the periods applied since newest first and `p` before them all. -/
def periodsRun (mon p : Nat) : Nat → List (Nat × Nat) → Int
  | t, [] => roundDiv ((t - mon : Nat) * (2 ^ 142 : Int)) (max 1 p)
  | t, (t0, q) :: l =>
    let b := max mon (min t0 t)
    roundDiv ((t - b : Nat) * (2 ^ 142 : Int)) (max 1 q) + (if t0 ≤ mon then 0 else periodsRun mon q b l)

/-- ĝ − t of R402 in 2^-18 ns: ĝ is the output edge nearest `t`, from the monitor stamp and the ratios applied since; `p` is the period in force. -/
def rxEdge (mon p : Nat) (l : List (Nat × Nat)) (t : Nat) : Int :=
  let n := periodsRun mon ((l.head?.map (·.2)).getD p) t l
  roundDiv ((roundDiv n (2 ^ 64) * 2 ^ 64 - n) * p) (2 ^ 142)

/-- The interval from the record before, over DEC × T_CMD, lies within 1/4 of a whole number (R446). -/
def Srv.consistent (v : Srv) (t : Nat) : Bool :=
  let d := ((t : Int) - v.tLast) * u96
  let n := roundDiv d v.spacing
  4 * (d - n * v.spacing).natAbs ≤ v.spacing

/-! ## Handover alignment (R454) -/

/-- 2 ps in 2^-18 ns, rounded down. -/
def ps2 : Nat := 524

/-- The alignment error a of stamp `t` of index `i` against the last stamp of `j`, at the nearest of `j`'s stamps. -/
def State.alignErr (s : State) (j t : Nat) (skew : Int) : Int :=
  let y := s.chan j
  let m := if y.servoRx then y.monLast else y.srv.tLast
  let d := ((t : Int) - m) * u96
  let p : Nat := max 1 (s.decTxm j * y.srv.tCmd)
  roundDiv (d - roundDiv d p * p) (2 ^ 78) - skew

/-- The handover in which records of index `c` are aligned: of a welt in steps 1 to 3, of its user channel in step 6. -/
def State.aligning (s : State) (c : Nat) : Option Hand := match (s.oct (octOf c)).hand with
  | some h => if (c ≥ 256 ∧ h.step ≤ 3) ∨ (c = h.ch ∧ h.step = 6) then some h else none
  | none => none

/-- The steering source of index `c` is RX; an alignment works on TXM records (R383, R454). -/
def State.rxServo (s : State) (c : Nat) : Bool := (s.chan c).servoRx && (s.aligning c).isNone

/-- a of a record of `c` under handover `h`, with HAND_SKEW by direction. -/
def State.alignOf (s : State) (h : Hand) (c t : Nat) : Int :=
  let k := (s.chan h.ch).handSkew
  if c ≥ 256 then s.alignErr h.ch t k else s.alignErr (weltOf (octOf c)) t (-k)

/-- What a record with error `a` means for the handover: the first is entered as P_REAL, the slew then runs to RES = 0, and
sixteen records in a row within 2 ps agree. -/
def Hand.step' (a : Int) (res : Int) (h : Hand) : Hand :=
  if !h.entered then { h with entered := true, step := if h.step = 6 then 6 else 2, agree := 0 }
  else if h.step = 2 then (if res = 0 then { h with step := 3, agree := 0 } else h)
  else if res = 0 ∧ a.natAbs ≤ ps2 then { h with agree := h.agree + 1 } else { h with agree := 0 }

/-! ## The loop filter and DELTA (R269, R404, R198, R216) -/

/-- The loop filter on error `e`; the integrators hold while a clamp acts. Answers the servo state and u. -/
def Chan.filter (x : Chan) (e : Int) : Srv × Int :=
  let v := x.srv
  let v := if x.div.clamp then v else
    let i2 := if x.i2En then v.i2 + coefMul x.ki2 e else v.i2
    { v with i2 := i2, i1 := v.i1 + coefMul x.ki e + (if x.i2En then i2 else 0) }
  (v, coefMul x.kp e + v.i1)

/-- What an update composes: DELTA, whether a clamp acts, the slew term and the debt that remain after it, the residue
ledger. -/
structure Comp where
  delta : Int
  clamped : Bool
  slew : Int
  debt : Int
  nomAcc : Int
  nomRem : Int
  /-- FMAX limited the slew term -/
  lim : Bool
deriving DecidableEq, Repr

/-- The part of the rate terms `ur`, `debt`, `slew` that the clamped DELTA realises: u and r first, then the debt, then the slew
(R216, R268, R274). -/
def afterClamp (nom : Nat) (delta ur debt slew : Int) (tUpd : Nat) : Int × Int :=
  let room := roundDiv (-delta * 2 ^ 64) (max 1 (nom + delta).toNat) - ur
  let db := roundDiv (debt * 2 ^ 24) tUpd
  let da := slewApplied db room
  (slewApplied slew (room - da), debt - roundDiv (da * tUpd) (2 ^ 24))

/-- DELTA of channel `c` for correction `u` and slew term `slew` (R256, R269, R404). -/
def State.compose (s : State) (c : Nat) (u slew debt : Int) : Comp :=
  let x := s.chan c
  let k := x.div.k
  let nom := (x.div.slot x.srv.slot).nom
  let comb := (s.oct (octOf c)).loop.combF
  let f := max 1 (s.up c (P.hopFreq0 + x.srv.slot))
  let tU := max 1 x.tUpd
  let num : Int := (u + slew + s.ts.rate) * (tU : Int) + debt * 2 ^ 24
  let den : Nat := max 1 (((tU * 2 ^ 64 : Nat) : Int) + num).toNat
  let raw := roundDiv (-nom * num) den
  let nomRem := roundDiv ((comb * 2 ^ 128 : Nat) : Int) (f * 2 ^ k) - nom * 2 ^ 64
  let devRem := roundDiv (-nom * num * 2 ^ 64) den - raw * 2 ^ 64
  let p : Int := max 1 (x.srv.dec * 2 ^ k : Nat)
  let acc := x.trav.nomAcc + (nomRem + devRem) * p
  let adj : Int := if 2 ^ 63 * p ≤ acc then 1 else if acc ≤ -(2 ^ 63 * p) then -1 else 0
  let d := raw + adj
  let low := s.least c
  let v := limitDelta low nom d
  let a := if v = d then (slew, 0) else afterClamp nom v (u + s.ts.rate) debt slew tU
  ⟨v, v ≠ d, a.1, a.2, acc - adj * 2 ^ 64 * p, nomRem, d < v && decide (ratioMin < low) && a.1 ≠ slew⟩

/-- The debt of rate-word edges not yet adopted, at counter value `now`, rounded to 2^-40 ns (R274). -/
def debtOf (now : Nat) (l : List (Nat × Int)) : Int :=
  l.foldl (fun d e => d + roundDiv (((now : Int) - e.1) * e.2) (2 ^ 88)) 0

/-- The update is composed and written into lane `lane`. A record that the lane does not take leaves DELTA, the slew term
applied and the debt as they were (R215, R216, R530, R531). -/
def State.writeUpdate (lane c : Nat) (v : Srv) (u slew : Int) (s : State) : State :=
  let debt := (s.chan c).trav.debt + debtOf s.ts.dts (s.chan c).rEdges
  let s := s.modChan c fun x => { x with srv := v, rAdopt := s.ts.rate, rEdges := [], trav := { x.trav with debt := debt } }
  let m := s.compose c u slew debt
  let s := s.modChan c fun x => { x with
    div := { x.div with clamp := m.clamped }
    trav := { x.trav with nomAcc := m.nomAcc, nomRem := m.nomRem, clamped := m.lim } }
  let s := if m.clamped then s.modCnt c fun n => { n with clamp := satAdd 32 1 n.clamp } else s
  if s.laneOpen (octOf c) lane then
    (s.writeFcw (octOf c) lane (.corr c v.slot m.delta)).modChan c fun x => { x with
      srv := { x.srv with delta := m.delta }, trav := { x.trav with slew := m.slew, debt := m.debt } }.note s.ts.dts s.ts.rate
  else s.writeFcw (octOf c) lane (.corr c v.slot m.delta)

/-- DELTA in force without its slew part (R256, R279). -/
def Chan.noSlew (x : Chan) : Int :=
  let nom := (x.div.slot x.srv.slot).nom
  x.srv.delta - roundDiv (-nom * x.trav.slew) (max 1 (2 ^ 64 + x.trav.slew).toNat)

/-! ## The divider self-check (R449, R450) -/

/-- Sum of nominal ratios over the divider periods from boundary `b` to `e`, slot `slot` and ramp `ramp` in force at `b`, hop reports `l` after it. -/
def ratioSum (d : Div) : Nat → Option Ramp → Nat → Nat → List HopRep → Nat
  | slot, ramp, b, e, [] => nomSum (d.slot slot).nom ramp b e
  | slot, ramp, b, e, r :: l =>
    let m := max b (min e r.bnd)
    nomSum (d.slot slot).nom ramp b m + ratioSum d r.slot (if r.isEnd then none else r.ramp) m e l

/-- The interval that the applied ratios give over `n` divider periods whose nominal ratios sum to `sum`, in 2^-18 ns (R449). -/
def ratioTime (sum n comb : Nat) (delta rate : Int) : Int :=
  roundDiv ((sum + n * delta) * 1000000000 * 2 ^ 42 * (2 ^ 64 + rate)) (max 1 comb * 2 ^ 128)

/-- A pair of consecutive TXM records, the second at `t` and boundary `b`: whether it differs by more than DIV_CHK_TH. -/
def State.chkFails (s : State) (c t b : Nat) : Bool := match (s.chan c).srv.chk with
  | some (t0, b0) =>
    let x := s.chan c
    let slot := match x.srv.segs with
      | r :: _ => if r.isEnd then r.slot else x.srv.slot
      | [] => x.srv.slot
    let sum := ratioSum x.div slot none b0 b x.srv.segs
    let d := (t : Int) - t0 - ratioTime sum (b - b0) (s.oct (octOf c)).loop.combF x.srv.delta s.ts.rate
    s.ci c P.divChkTh < (d.natAbs : Int)
  | none => false

/-- A DIV_CHK fault: a restart of the divider, or the fourth within 10 s is permanent (R448, R450). -/
def State.divChk (c : Nat) (s : State) : State :=
  let t := s.now
  let l := ((s.chan c).divT.filter fun x => x ≤ t && t - x ≤ 10 * secU) ++ [t]
  let s := (s.modChan c fun x => { x with divT := l }).count c 1
  let s := s.fault kindChan c 7
  if 4 ≤ l.length then s.retireChan 7 c else s.enterBypass .restart c

/-! ## Lock (R443, R445) -/

/-- Lock counting on error `e`, and the transitions between ACQUIRE and TRACK. -/
def State.lockCount (c : Nat) (e : Int) (s : State) : State :=
  let x := s.chan c
  let inside : Bool := (e.natAbs : Int) ≤ s.ui c P.lkwin
  let n := s.up c P.lkcnt
  let s := if inside ∧ x.st = .track ∧ 0 < x.srv.unRun ∧ x.srv.unRun < n then s.count c 0 else s
  let s := s.modSrv c fun v =>
    if inside then { v with lkRun := min 65535 (v.lkRun + 1), unRun := 0 } else { v with lkRun := 0, unRun := v.unRun + 1 }
  let v := (s.chan c).srv
  if x.st = .acquire ∧ inside ∧ n ≤ v.lkRun then
    let s := (s.modChan c fun x => { x with st := .track, lock := true, srv := { x.srv with unRun := 0 } }).chEvent c 1 0
    let s := if (s.chan c).goal.isBypass then s.switchTo c .own else s
    if c ≥ 256 then s.syncStanding (octOf c) else s
  else if x.st = .track ∧ !inside ∧ n ≤ v.unRun then
    (s.modChan c fun x => { x with st := .acquire, lock := false, slow := false, srv := { x.srv with unRun := 0 } }).chEvent c 2 0
  else s

/-! ## The steer stage -/

/-- The record is the last steering record of its source (R398). -/
def Srv.applied (v : Srv) (rx : Bool) (r : Rec) : Srv :=
  let v := { v with tLast := r.t, fresh := false, gap := r.fl.gap }
  if rx then { v with seqRx := some r.seq } else { v with seqTxm := some r.seq }

/-- The welt of index `c` holds its last correction: it stands for a channel in sub-step 5b or 5d of its run, for at most 80 ms (R570). -/
def State.weltHolds (s : State) (c : Nat) : Bool := match (s.oct (octOf c)).hand with
  | some h => decide (256 ≤ c) && h.step = 5 && s.cal.runs.any fun r =>
      r.kind = 0 && r.unit = h.ch && (r.part = 2 || r.part = 4) && decide (s.now - r.tPart < 80000000 * 2 ^ 18)
  | none => false

/-- A record of a welt that holds its correction: its grid goes on, as a channel's in HOLDOVER (R570). -/
def State.steerIdle (c : Nat) (rx : Bool) (r : Rec) (jump : Bool) (s : State) : State :=
  s.modChan c fun x => { x with srv := { x.srv.applied rx r with pos := x.srv.pos + x.srv.advance r.t jump * 2 ^ x.div.k, chk := none, segs := [] } }

/-- A steering record in HOLDOVER only qualifies the return (R446); `next` says that its SEQ follows the one before at once. -/
def State.steerHold (c : Nat) (rx : Bool) (r : Rec) (jump next : Bool) (s : State) : State :=
  let x := s.chan c
  let n := if next ∧ !x.srv.gap ∧ x.srv.consistent r.t then x.srv.hoRun + 1 else 0
  let s := s.modSrv c fun v => { v.applied rx r with hoRun := n, pos := v.pos + v.advance r.t jump * 2 ^ x.div.k }
  if s.up c P.hoQualN ≤ n then
    (s.modChan c fun x => { x with
      st := .acquire, lock := false, slow := false, trav := { x.trav with pHold := false }
      srv := { x.srv with reentry := 2, hoRun := 0, lkRun := 0, unRun := 0, chk := none, segs := [], chkRun := 0 } }).chEvent c 5 0
  else s

/-- The anchor, position and P_REAL with which a TXM record at `t` enters: the first anchors the grid, a re-entry takes P_REAL from
the measurement, any other advances the position (R254, R279, R401). -/
def State.gridTxm (c t : Nat) (jump : Bool) (s : State) : State :=
  let x := s.chan c
  let v := x.srv
  let k := x.div.k
  match v.anchor with
  | none =>
    s.modSrv c fun v => { v with
      anchor := some (((t : Int) + x.trav.pReal) * u96).toNat, pos := 0, bnd := v.dec * 2 ^ k, reentry := 0 }
  | some a =>
    if v.reentry = 1 then
      let n := reentryN a x.trav.pCmd v.tCmd t
      let p := roundDiv (n * v.tCmd - ((t : Int) * u96 - a)) (2 ^ 78)
      s.modChan c fun x => { x with
        trav := x.trav.reenter p, srv := { x.srv with pos := n * 2 ^ k, bnd := ((v.dec : Int) * 2 ^ k - n * 2 ^ k).toNat, reentry := 0 } }
    else
      let pos := v.pos + v.advance t jump * 2 ^ k
      let s := s.modSrv c fun v => { v with pos := pos, reentry := 0 }
      if v.reentry = 2 then s.modTrav c (·.reenter (-(gridErr a pos v.tCmd k t))) else s

/-- LT_PHASE and P_REAL with which an RX record enters: the first takes LT_PHASE, a re-entry P_REAL (R279, R402). -/
def State.gridRx (c : Nat) (g : Int) (s : State) : State :=
  let x := s.chan c
  let s := if x.srv.anchor.isNone then s.modSrv c fun v => { v with anchor := some (x.monLast * 2 ^ 78), pos := 0 } else s
  match x.srv.lt with
  | none => s.modSrv c fun v => { v with lt := some g, reentry := 0 }
  | some l =>
    let p := l - g
    let q := if x.srv.reentry = 1 then
        let n := ceilDiv (2 * (x.trav.pCmd - p) * u96 - x.srv.tCmd) (2 * max 1 x.srv.tCmd)
        p + roundDiv (n * x.srv.tCmd) (2 ^ 78)
      else p
    if x.srv.reentry = 0 then s
    else s.modChan c fun x => { x with trav := x.trav.reenter q, srv := { x.srv with reentry := 0 } }

/-- The steering error of a record at `t` once the grid is set (R401, R402). -/
def Chan.err (x : Chan) (rx : Bool) (t : Nat) (g : Int) : Int :=
  if rx then g - x.srv.lt.getD g + x.trav.pReal
  else match x.srv.anchor with
    | some a => gridErr a x.srv.pos x.srv.tCmd x.div.k t + x.trav.pReal
    | none => 0

/-- The slew limit of index `c`: HAND_SLEW while it is being aligned (R267, R454). -/
def State.slewLim (s : State) (c : Nat) : Int := if (s.aligning c).isSome then s.ui c P.handSlew else s.ui c P.slewLim

/-- An update of channel `c` in ACQUIRE or TRACK with error `e` on record `r`, composed by engine lane `lane` (R267, R404). -/
def State.steerUpdate (lane c : Nat) (rx : Bool) (r : Rec) (e : Int) (s : State) : State :=
  let s := s.modSrv c fun v => { v with e := e, outRun := 0 }
  let s := if (s.aligning c).isSome then s else s.lockCount c e
  let x := s.chan c
  let f := x.filter e
  let slew := x.trav.slewTerm (s.slewLim c) (max 1 x.tUpd)
  s.writeUpdate lane c { f.1.applied rx r with updN := (f.1.updN + 1) % 2 ^ 64 } f.2 slew

/-- A SLEW_DONE that is due is posted (R266). -/
def State.chDone (c : Nat) (s : State) : State :=
  let t := (s.chan c).trav
  if t.isDone then slewDone c t ((s.modTrav c fun t => { t with notify := 0 }).count c 11) else s

/-- A record in TRACK that is an outlier: discarded and counted; OUT_RUN of them in a row lead to HOLDOVER (R315, R316). -/
def State.outlierRec (lane c : Nat) (s : State) : State :=
  let s := (s.modCnt c fun n => { n with outlier := satAdd 32 1 n.outlier }).modSrv c fun v => { v with outRun := v.outRun + 1 }
  let s := s.fault kindChan c 3
  if s.up c P.outRunMax ≤ (s.chan c).srv.outRun then (s.count c 5).enterHoldover lane (s.chan c).noSlew 2 c else s

/-- A steering record under an alignment: error a + RES, the first a entered as P_REAL (R258, R454). `d` is the time since the
record before. On the return the alignment has a traverse of its own, since the channel's is paused (R279). -/
def State.steerAlign (lane c : Nat) (r : Rec) (h : Hand) (d : Int) (s : State) : State :=
  let a := s.alignOf h c r.t
  let own := (s.chan c).trav
  let s := if c < 256 then s.modTrav c fun t => { h.trav with debt := t.debt, nomAcc := t.nomAcc, nomRem := t.nomRem } else s
  let s := s.modTrav c fun t => t.advance (t.slew * d)
  let s := if h.entered then s else s.modTrav c (·.reenter a)
  let t := (s.chan c).trav
  let s := s.modOct (octOf c) fun o => { o with hand := some (h.step' a t.res) }
  let s := s.steerUpdate lane c false r (a + t.res)
  if c < 256 then
    let t := (s.chan c).trav
    let s := s.modOct (octOf c) fun o => { o with hand := o.hand.map fun h => { h with trav := t } }
    s.modTrav c fun t => { own with debt := t.debt, nomAcc := t.nomAcc, nomRem := t.nomRem, clamped := t.clamped }
  else s

/-- The first record after a load of its core's corrections moves P_REAL by the difference δ, so that the servo sees no error
from it (R561): −δ on TXM stamps, and +δ on RX stamps, whose error carries t with the opposite sign (R402). -/
def State.shiftReal (c : Nat) (rx : Bool) (d : Int) (s : State) : State :=
  if d = 0 then s else s.modTrav c fun t => { t with pReal := t.pReal + (if rx then d else -d) }

/-- A record that steers: the traverse up to its stamp, the grid, the outlier gate, the divider self-check on TXM pairs, and the update. -/
def State.steerRun (lane c : Nat) (rx : Bool) (r : Rec) (g : Int) (jump : Bool) (s : State) : State :=
  let x := s.chan c
  let s1 := s.modTrav c (·.advance (x.trav.slew * ((r.t : Int) - x.srv.tLast)))
  let s1 := if rx then s1.gridRx c g else s1.gridTxm c r.t jump
  let y := s1.chan c
  let e := y.err rx r.t g
  let gate := s.ui c (if rx then P.outGateRx else P.outGateTxm)
  if x.st = .track ∧ gate < ((e - x.srv.e).natAbs : Int) then s.outlierRec lane c
  else
    let s1 := s1.chDone c
    if rx then s1.steerUpdate lane c rx r e else
    let b := ((y.srv.bnd : Int) + y.srv.pos).toNat
    let fails := !jump && s.chkFails c r.t b
    let n := if jump ∨ x.srv.chk.isNone then 0 else if fails then x.srv.chkRun + 1 else 0
    let s1 := s1.modSrv c fun v => { v with chk := if r.fl.gap then none else some (r.t, b), segs := [], chkRun := n }
    if 2 ≤ n then s1.divChk c else s1.steerUpdate lane c rx r e

/-- A channel steering record in its steer stage on engine lane `lane`. -/
def State.steer (lane c : Nat) (r : Rec) (s : State) : State :=
  let x := s.chan c
  let rx := s.rxServo c
  let last := if x.srv.fresh then none else if rx then x.srv.seqRx else x.srv.seqTxm
  if x.st ≠ .acquire ∧ x.st ≠ .track ∧ x.st ≠ .holdover ∧ (s.aligning c).isNone then s
  else if last.any (fun l => !seqFollows r.seq l) then s.modCnt c fun n => { n with outlier := satAdd 32 1 n.outlier }
  else
    let jump : Bool := r.fl.gap || last.any fun l => decide (r.seq ≠ (l + 1) % 4096)
    let s := s.shiftReal c rx r.dl
    if x.st = .holdover then s.steerHold c rx r jump (last.any fun l => r.seq = (l + 1) % 4096) else
    if s.weltHolds c then s.steerIdle c rx r jump else
    if rx ∧ !x.monSeen then s else
    let g := rxEdge x.monLast (x.period s.ts.rate) x.periods r.t
    match s.aligning c with
    | some h => s.steerAlign lane c r h ((r.t : Int) - x.srv.tLast)
    | none => s.steerRun lane c rx r g jump

/-! ## Hop reports (R202, R281, R401) -/

/-- The engine takes a hop report of its entry's divider: later corrections are for its slot; the anchor moves to the boundary of the change, and by the
periods that a ramp has run when it ends. A divider that does not run has no edge to move (R201, R229). -/
def State.moveGrid (r : HopRep) (s : State) : State :=
  let c := r.div
  let x := s.chan c
  let k := x.div.k
  let f := s.up c (P.hopFreq0 + r.slot)
  let tNew := tCmdOf f
  let s := s.modSrv c fun v => { v with segs := v.segs ++ [r] }
  match (if x.st.divides then x.srv.anchor else none) with
  | none => s.modSrv c fun v => { v with slot := r.slot, tCmd := tNew, dec := s.decServo c }
  | some a =>
    if r.isEnd then
      -- the ramp periods run, beyond those already counted at the new period
      match r.ramp with
      | some m =>
        let nom := max 1 m.new
        let n := min (r.bnd - m.b0) m.m
        let extra := roundDiv (((rampSum m n : Nat) - (n * m.new : Nat) : Int) * tNew) (nom * 2 ^ k)
        s.modSrv c fun v => { v with anchor := some ((a : Int) + extra).toNat }
      | none => s
    else
      let d := (r.bnd : Int) - x.srv.bnd
      let a' := (a : Int) + roundDiv (d * x.srv.tCmd) (2 ^ k)
      s.modSrv c fun v => { v with
        slot := r.slot, anchor := some a'.toNat, bnd := r.bnd, pos := v.pos - d, tCmd := tNew, dec := s.decServo c }

/-- The engine takes a hop report. -/
def State.takeReport (r : HopRep) (s : State) : State := (s.moveGrid r).modChan r.div (·.note s.ts.dts s.ts.rate)

end Sys2Proof.Machine
end

