-- ==== Sys2Proof/Machine/Stamping.lean ====
section
/-!
DEFINITION. TDC cores and the way of a record into its stamp queue; the DLL control loops (R285 to R308, R461, R463, R561).
-/
namespace Sys2Proof.Machine

/-! ## The stamp (R297 to R302) -/

/-- The nominal correction set of a core (R298). -/
def nominalSet (core : Nat) : CorrSet :=
  ⟨(upTo 64).map (4096 * ·), List.replicate 64 4096, (upTo 32).map (1024 * ·), (Config.factoryOfs core).toNat, false⟩

/-- The set with which a core stamps. -/
def State.setOf (s : State) (core : Nat) : CorrSet := (s.core core).set.getD (nominalSet core)

/-- d of R301: the time from the edge at the ball to the sampling edge, 2^-18 ns of SCLK time. -/
def CorrSet.delay (c : CorrSet) (t v : Nat) : Nat :=
  c.tapPos.getD t 0 + c.tapWid.getD t 0 * c.vern.getD v 0 / 2 ^ 15 + c.ofs

/-- Counter and rate word of the SCLK edge `j` before the last one, of the eight that a core keeps (R302). -/
def State.edgeAt (s : State) (j : Nat) : Nat × Int :=
  match s.ts.hist[j]?, s.ts.hist.getLast? with
  | some e, _ => e
  | none, some (d, r) => (((d : Int) - ((j + 1 - s.ts.hist.length : Nat) : Int) * (2 ^ 64 + r)).toNat, r)
  | none, none => (((s.ts.dts : Int) - (j : Int) * (2 ^ 64 + s.ts.rate)).toNat, s.ts.rate)

/-- The stamp of an event with delay `d`, as a linear count (R301). -/
def State.stampAt (s : State) (d : Nat) : Nat :=
  let p := (d + 2 ^ 18 - 1) / 2 ^ 18
  let f : Nat := p * 2 ^ 18 - d
  let x : Int := ((s.edgeAt p).1 * 2 ^ 18 : Nat) + (f : Int) * (2 ^ 64 + (s.edgeAt (p - 1)).2)
  (x / 2 ^ 71 * 128 % (linMod : Int)).toNat

/-! ## Sources (R57, R58, R286 to R291) -/

/-- The channel index whose cores stamp the CKIn and MRK inputs of user channel `c`: its welt while it stands in (R58, R289). -/
def State.inputIx (s : State) (c : Nat) : Nat :=
  if (s.chan c).st = .onWelt ∨ s.hasWelt c then weltOf (octOf c) else c

/-- Core, SRC and the WELT flag of an event; an input of a welt of its own does not exist. -/
def State.srcOf (s : State) : Source → Option (Nat × Nat × Bool)
  | .rx c => if c.val < 256 then some (rxCore (s.inputIx c), 4 * c, s.inputIx c ≠ c) else none
  | .mrk c => if c.val < 256 then some (shCore (s.inputIx c), 4 * c + 1, s.inputIx c ≠ c) else none
  | .txm c => some (shCore c, 4 * c + 2, false)
  | .dev d => some (devCore d, 0x800 + d, false)

/-- The source is switched on (R287, R288, R339, R831); during a return both dividers compared are stamped (R454). -/
def State.srcOn (s : State) : Source → Bool
  | .rx c => s.cp c P.rxMode = 1
  | .mrk c => (s.cp c P.mrkMode = 1 || s.cp c P.mrkMode = 2) && !s.tests.any fun r => r.kind = 1 && r.unit = c.val
  | .txm c => (s.chan c).out = .own || (s.oct (octOf c)).hand.any fun h => h.step = 6 && (h.ch = c.val || 256 ≤ c.val)
  | .dev _ => true

/-- The edge polarity is selected (R286). -/
def State.edgeSel (s : State) (fall : Bool) : Source → Bool
  | .rx c => fall = (s.cp c P.rxEdge == 1)
  | .mrk c => s.cp c P.mrkEdge = 2 || fall = (s.cp c P.mrkEdge == 1)
  | .txm _ => !fall
  | .dev d => match d.val with
    | 0 => fall = (s.pv P.ppsEdge == 1)
    | 1 => fall = (s.pv P.calEdge == 1)
    | 2 => !fall
    | _ => true

/-- Decimation of the source (R286). -/
def State.decOf (s : State) : Source → Nat
  | .rx c => s.cp c P.rxDecim
  | .txm c => s.decTxm c
  | .dev d => if d.val = 1 then s.pv P.calDecim else if d.val = 2 then s.pv P.refMonDecim else 1
  | .mrk _ => 1

/-- Power domain and DLL control loop of the source's core. -/
def domOf : Source → Nat
  | .rx c | .mrk c | .txm c => pdQ (quadOf (octOf c))
  | .dev _ => pdRef
def dllOf : Source → Nat
  | .rx c | .mrk c | .txm c => octOf c
  | .dev _ => 8

/-! ## Drops (R303 to R305, R308) -/

/-- 240 ns and 3 ns in 2^-18 ns. -/
def ns240 : Nat := 240 * 2 ^ 18
def ns3 : Nat := 3 * 2 ^ 18

/-- An event of source `src` is dropped: `ch` counts it in a channel's entry, `dv` for a device-level source; the next record carries GAP. -/
def State.dropEv (src : Nat) (ch : ChCnt → ChCnt) (dv : SrcS → SrcS) (s : State) : State :=
  let s := s.modSrc src fun x => { x with gap := true }
  if src < 0x800 then s.modCnt (src / 4) ch else s.modSrc src dv

def State.dropRate (src : Nat) (s : State) : State :=
  s.dropEv src (fun n => { n with rate := satAdd 32 1 n.rate }) (fun x => { x with rate := satAdd 32 1 x.rate })
def State.dropTxm (src : Nat) (s : State) : State :=
  s.dropEv src (fun n => { n with txm := satAdd 32 1 n.txm }) id
def State.dropDll (src : Nat) (s : State) : State :=
  s.dropEv src (fun n => { n with dll := satAdd 32 1 n.dll }) (fun x => { x with dll := satAdd 32 1 x.dll })
def State.dropHold (src : Nat) (s : State) : State :=
  s.dropEv src (fun n => { n with hold := satAdd 32 1 n.hold }) (fun x => { x with hold := satAdd 32 1 x.hold })

/-- Stamps `a` and `b` lie within 3 ns of each other. -/
def within3 (a b : Nat) : Bool := (stampDiff a b).natAbs ≤ ns3

/-- A marker event at `t` abandons a TXM conversion within 3 ns before it (R305). -/
def State.abandonTxm (core t : Nat) (s : State) : State :=
  let k := s.core core
  match k.lastTxm with
  | some x =>
    if within3 t x ∧ k.held.any (fun r => r.src % 4 = 2 ∧ r.t = x) then
      let c := (core - 1) / 2
      let s := s.modCore core fun k => { k with held := k.held.filter (fun r => ¬(r.src % 4 = 2 ∧ r.t = x)), lastTxm := none }
      (s.dropTxm (4 * c + 2)).modSrc (4 * c + 2) fun y => { y with last := none }
    else s
  | none => s

/-- An event that has passed the checks becomes a record in its core's holding register, to be numbered when it is written into
the stamp queue (R60, R306). DTS_HOLD follows R59, device mode HOLDOVER; R133's COASTING differs from it in SURVEY and BYPASS only (DESIGN CHOICE,
log 81). -/
def State.hold (core src : Nat) (fall welt : Bool) (t : Nat) (dl : Int) (s : State) : State :=
  if 2 ≤ (s.core core).held.length then s.dropHold src else
  let r : Rec := ⟨src, 0, ⟨fall, s.pwr.mode = .holdover, !(s.setOf core).valid, (s.src src).gap, welt⟩, t, dl⟩
  (s.modCore core fun k => { k with held := k.held ++ [r], lastTxm := if src % 4 = 2 ∧ src < 0x800 then some t else k.lastTxm }).modSrc
    src fun x => { x with gap := false, last := some t }

/-- The retirement of the reference stamping stands: KIND 7, unit 0 (R463, R612). -/
def State.refRetired (s : State) : Bool := (look s.store.ret (4096 * kindRefStamp)).any fun w => !w.testBit 24

/-- The offset with which a core stamps: a welt core that stamps for a user channel takes that channel's WELT_OFS (R540). -/
def State.setFor (s : State) (core src : Nat) (v : CorrSet) : CorrSet :=
  if 2 * weltOf 0 ≤ core ∧ core < 528 ∧ src / 4 < 256 then
    { v with ofs := (s.core core).weltOfs.get v.ofs (src / 4 % 32) }
  else v

/-- An event reaches the checks of R303 from order 2 on. -/
def State.event (x : Source) (core src : Nat) (welt fall : Bool) (tap vern : Nat) (s : State) : State :=
  let t := s.stampAt ((s.setFor core src (s.setOf core)).delay tap vern)
  if (s.src src).last.any (fun l => decide (stampDiff t l < ns240)) then s.dropRate src else
  let isMrk : Bool := src < 0x800 && src % 4 = 1
  if src < 0x800 ∧ src % 4 = 2 ∧ (s.core core).lastMrk.any (within3 t) then s.dropTxm src else
  let s := if isMrk then (s.abandonTxm core t).modCore core fun k => { k with lastMrk := some t } else s
  if !(s.dll (dllOf x)).lock ∨ (s.core core).fail ∨ (0x800 ≤ src ∧ s.refRetired) then s.dropDll src else
  let dl : Int := match (s.core core).old with
    | some o => stampDiff t (s.stampAt ((s.setFor core src (o.getD (nominalSet core))).delay tap vern))
    | none => 0
  (s.modCore core fun k => { k with old := none }).hold core src fall welt t dl

/-- The calibration strobe runs: a run measures offsets, and the reference stamping is not retired (R463, R545). -/
def State.strobe (s : State) : Bool := !s.refRetired && s.cal.runs.any fun r => r.kind ≠ 1 && r.part = 2

/-- TDC_EVENT (R303, R304): while the strobe runs, the CAL_IN core stamps the strobe alone, and an event of the CAL_IN input is no drop (R545). An edge of
input `x`; `tap` and `vern` are the line's reading should it become an event. -/
def execTdcEvent (x : Source) (fall : Bool) (tap : Fin 64) (vern : Fin 32) (s : State) : Host.Outcome State Fault Refusal :=
  match s.srcOf x with
  | none => .next s
  | some (core, src, welt) =>
    if s.ts.st = .stopped ∨ !s.domOn (domOf x) ∨ !s.srcOn x ∨ !s.edgeSel fall x ∨ (x = .dev 1 ∧ s.strobe) then .next s else
    let n := (s.src src).dec + 1
    if n < s.decOf x then .next (s.modSrc src fun y => { y with dec := n })
    else .next ((s.modSrc src fun y => { y with dec := 0 }).event x core src welt fall tap vern)

/-! ## Stamp queues (R306) -/

/-- The cores that write queue `q`: an octant's, or the device-level cores. -/
def coresOf (q : Nat) : List Nat :=
  if q < 8 then (chansOf q).flatMap fun c => [rxCore c, shCore c] else (upTo 4).map devCore

/-- The core served next: the least SRC after the last one served, round robin. -/
def State.nextCore (s : State) (q rr : Nat) : Option (Nat × Rec) :=
  let l := (coresOf q).filterMap fun i => ((s.core i).held.head?).map (i, ·)
  let best (p : Nat × Rec → Bool) := l.foldl (fun b x => if p x ∧ b.all (fun y => x.2.src < y.2.src) then some x else b) none
  match best (fun x => rr < x.2.src) with
  | some x => some x
  | none => best (fun _ => true)

/-- The source of SRC `src`, where it is one that cores write. -/
def sourceOf (src : Nat) : Option Source :=
  if src < 0x800 then
    if h : src / 4 < 264 then match src % 4 with
      | 0 => some (.rx ⟨src / 4, h⟩)
      | 1 => some (.mrk ⟨src / 4, h⟩)
      | 2 => some (.txm ⟨src / 4, h⟩)
      | _ => none
    else none
  else if h : src - 0x800 < 4 then some (.dev ⟨src - 0x800, h⟩) else none

/-- Records of SRC `src` are written: the timescale runs, the core's domain is powered, and the source is switched on (R291). -/
def State.writes (s : State) (src : Nat) : Bool := match sourceOf src with
  | some x => s.ts.st ≠ .stopped && s.domOn (domOf x) && s.srcOn x && !(x = .dev 1 && s.strobe)
  | none => false

/-- A TXM conversion is over once no marker event within 3 ns of it can come (R305). -/
def State.converted (s : State) (r : Rec) : Bool := ¬(r.src < 0x800 ∧ r.src % 4 = 2) || decide ((ns3 : Int) ≤ stampDiff s.now r.t)

/-- Depth of a stamp queue (R522). -/
def stampDepth : Nat := 16

/-- STAMP_RECORD_WRITE (R60, R291, R305, R306, R522, R529): queue 0 to 7 of an octant, 8 of the device. A record whose source has been switched off since its
event is not written, and takes no SEQ. -/
def execStampRecordWrite (q : Fin 9) (s : State) : Host.Outcome State Fault Refusal :=
  let x := if q.val < 8 then (s.oct q).xStamp else s.devq.xStamp
  let n := if q.val < 8 then (s.oct q).stampQ.length else s.devq.stampQ.length
  match s.nextCore q (if q.val < 8 then (s.oct q).rr else s.devq.rr) with
  | none => .next s
  | some (i, r) =>
    if !s.converted r ∨ (x.present ∧ (x.full ∨ stampDepth ≤ n)) then .next s else
    if !s.writes r.src then .next (s.modCore i fun k => { k with held := k.held.drop 1 }) else
    let r := { r with seq := (s.src r.src).seq }
    let s := (s.modCore i fun k => { k with held := k.held.drop 1, lastTxm := if r.src % 4 = 2 then none else k.lastTxm }).modSrc r.src
      fun y => { y with seq := (y.seq + 1) % 4096 }
    let put (l : List Rec) := if x.present then l ++ [r] else l
    let y := if x.present then x else { x with drop := satAdd 32 1 x.drop }
    if q.val < 8 then .next (s.modOct q fun o => { o with stampQ := put o.stampQ, rr := r.src, xStamp := y })
    else .next (s.modDevq fun d => { d with stampQ := put d.stampQ, rr := r.src, xStamp := y })

/-! ## DLL control loops (R292 to R295) -/

/-- Power domain of DLL loop `k`. -/
def dllDom (k : Nat) : Nat := if k < 8 then pdQ (quadOf k) else pdRef

/-- DLL_LOCK (R293): the loop locks at control word `ctrl`. -/
def execDllLock (k : Fin 9) (ctrl : BitVec 10) (s : State) : Host.Outcome State Fault Refusal :=
  if s.domOn (dllDom k) then .next (s.modDll k fun d => { d with lock := true, ctrl := ctrl.toNat }) else .next s

/-- DLL_LOSS (R293). -/
def execDllLoss (k : Fin 9) (s : State) : Host.Outcome State Fault Refusal :=
  if (s.dll k).lock then .next (s.modDll k fun d => { d with lock := false }) else .next s

/-- The octant's stamping is retired: channels in ACQUIRE or TRACK enter HOLDOVER, the welt is unusable (R461). -/
def State.retireStamping (k : Nat) (s : State) : State :=
  let s := forAll (chansOf k) (fun c s =>
    let x := s.chan c
    if x.st = .acquire ∨ x.st = .track then s.enterHoldover ((s.homeOf c).getD 32) x.noSlew 1 c else s) s
  let s := s.calAbortIf 2 (·.inOct k)
  s.commit none 0 (.retire kindStamp k 11)

/-- DLL_FAIL (R294, R448, R461, R463): not locked 1 ms after power-up, for every core the loop controls. -/
def execDllFail (k : Fin 9) (s : State) : Host.Outcome State Fault Refusal :=
  if !s.domOn (dllDom k) ∨ (s.dll k).lock ∨ (s.dll k).fail then .next s else
  let s := s.modDll k fun d => { d with fail := true }
  if k.val < 8 then .next ((s.fault kindStamp k 11).retireStamping k)
  else .next ((s.fault kindRefStamp 0 11).commit none 0 (.retire kindRefStamp 0 11))

/-- LINE_FAIL (R295, R448): the core writes no further records, those that it holds being dropped under order 4 of R303 (DESIGN CHOICE, log 81), and a
channel's core retires its channel. -/
def execLineFail (core : Fin 532) (s : State) : Host.Outcome State Fault Refusal :=
  let x : Nat := if core.val < 528 then octOf (core.val / 2) else 8
  if !s.domOn (dllDom x) ∨ !(s.dll x).lock ∨ (s.core core).fail then .next s else
  let s := forAll (s.core core).held (fun r s => s.dropDll r.src) s
  let s := s.modCore core fun k => { k with fail := true, held := [] }
  if core.val < 528 then .next ((s.fault kindChan (core.val / 2) 10).retireChan 10 (core.val / 2))
  else .next (s.fault kindRefStamp 0 10)

end Sys2Proof.Machine
end

