-- ==== Sys2Proof/Machine/Engines.lean ====
section
/-!
DEFINITION. Dispatch, the jobs of the engines, stealing, epochs, parity, retirement and loss of the array (R309 to R311, R382 to
R434, R490, R898).
-/
namespace Sys2Proof.Machine

/-! ## Dispatch (R383, R384) -/

/-- An RX record of BND_CH counts towards R898, in any role, so that a role change may find the upstream qualified: consecutive, without GAP, its interval times BND_FREQ within 1/4 of a whole number. -/
def State.bndCount (r : Rec) (s : State) : State :=
  let b := s.chan (s.pv P.bndCh)
  if b.st = .bypass ∨ b.st = .retired then s else
  let f := s.pv P.bndFreq
  let one : Nat := secU * 2 ^ 24
  let ok : Bool := match s.ts.bndLast with
    | some (t, q) =>
      let d : Int := stampDiff r.t t * f
      r.seq = (q + 1) % 4096 && !r.fl.gap && decide (4 * (d - roundDiv d one * one).natAbs ≤ one)
    | none => false
  let s := s.modTs fun t => { t with bndLast := some (r.t, r.seq), bndRun := if ok then t.bndRun + 1 else if 16 ≤ t.bndRun then t.bndRun else 0 }
  if s.ts.bndRun = 16 ∧ s.ts.role = .bnd then s.tsQualified else s

/-- The periods applied after `t`, and the one in force at `t`. -/
def since (t : Nat) : List (Nat × Nat) → List (Nat × Nat)
  | [] => []
  | e :: l => if e.1 ≤ t then [e] else e :: since t l

/-- A channel's RX or TXM record: a steering job of its index or a monitor record in W6; an RX record of BND_CH in boundary role is
also a timescale steering record. -/
def State.dispatchChan (r : Rec) (s : State) : State :=
  let c := r.src / 4
  let rx : Bool := r.src % 4 = 0
  let i := if rx then s.inputIx c else c
  let s := if s.rxServo i = rx then s.dispatch i (.steer i r)
    else s.modChan i fun x => { x with monLast := r.t, monN := (x.monN + 1) % 2 ^ 32, monSeen := true, periods := since r.t x.periods }
  if rx ∧ c = s.pv P.bndCh then
    let s := s.bndCount r
    if s.ts.role = .bnd then s.dispatchTs (.ts r) else s
  else s

/-- DISPATCH_RECORD (R309 to R312, R383 to R385): the hop reports of an octant, then the oldest record of queue `q`, an octant's 0 to 7 or the device's 8. -/
def execDispatchRecord (q : Fin 9) (s : State) : Host.Outcome State Fault Refusal :=
  if !s.domOn pdEng then .next s else
  let s := if q.val < 8 then s.dispatchHops q else s
  match (if q.val < 8 then (s.oct q).stampQ else s.devq.stampQ) with
  | [] => .next s
  | r :: l =>
    let s := if q.val < 8 then s.modOct q fun o => { o with stampQ := l } else s.modDevq fun d => { d with stampQ := l }
    let s := s.copies r
    if r.src < 0x800 then
      if r.src % 4 = 1 then
        if s.ts.role = .bnd ∧ r.src / 4 = s.pv P.bndCh ∧ s.pv P.bndAnchor = 1 then .next (s.dispatchTs (.whole r)) else .next s
      else .next (s.dispatchChan r)
    else if (r.src = 0x800 ∧ s.ts.role = .gm) ∨ (r.src = 0x803 ∧ s.ts.role = .fol) then .next (s.dispatchTs (.ts r))
    else .next s

/-! ## Jobs (R385 to R399) -/

/-- A job with a steer stage. -/
def Job.steers : Job → Bool
  | .steer .. | .ts _ | .tick => true
  | .whole _ | .req .. | .hop _ => false
def Job.isSteer : Job → Bool
  | .steer .. => true
  | _ => false
def Job.isTs : Job → Bool
  | .ts _ | .tick => true
  | _ => false
def Job.isWhole : Job → Bool
  | .whole _ => true
  | _ => false
def Job.isReq : Job → Bool
  | .req .. => true
  | _ => false
def Job.isHop : Job → Bool
  | .hop _ => true
  | _ => false

/-- The first job of a list that `p` selects, given the jobs before it: those before it, itself, those after it. -/
def pickJob (p : List Job → Job → Bool) (pre : List Job) : List Job → Option (List Job × Job × List Job)
  | [] => none
  | j :: l => if p pre j then some (pre, j, l) else pickJob p (pre ++ [j]) l

/-- The oldest startable steering job of engine `e` that `p` selects: a stolen job whose fetch has completed, else one of its queue; the jobs
that wait before it, and the state without it (R397, R408). -/
def State.startJob (e : Nat) (p : Job → Bool) (s : State) : Option (Job × List Job × State) :=
  let g := s.eng e
  if g.retired ∨ !s.engReady then none else
  match g.ready with
  | some j => if p j then some (j, [], s.modEng e fun g => { g with ready := none }) else none
  | none => match pickJob (fun pre j => p j && s.leaseOk e j && !pre.any (fun i => i.steers && i.chan = j.chan)) [] g.q with
    | some (pre, j, l) => some (j, pre, s.modEng e fun g => { g with q := pre ++ l })
    | none => none

/-- The oldest job of engine `e` without a steer stage that `p` selects, with no job of its record before it, and the state without it
(R397, R408). -/
def State.startSide (e : Nat) (p : Job → Bool) (s : State) : Option (Job × State) :=
  if (s.eng e).retired ∨ !s.engReady then none else
  match pickJob (fun pre j => p j && s.leaseOk e j && !pre.any (fun i => i.chan = j.chan)) [] (s.eng e).q with
  | some (pre, j, l) => some (j, s.modEng e fun g => { g with q := pre ++ l })
  | none => none

/-- A job that has ended advances JOBS_N (R434). -/
def State.jobDone (e : Nat) (s : State) : State := s.modEng e fun g => { g with jobsN := satAdd 32 1 g.jobsN }

/-- Engine `e` holds settle work. -/
def State.settle (e : Nat) (w : Settle) (s : State) : State := s.modEng e fun g => { g with settle := g.settle ++ [w] }

/-- What a job without a steer stage does. A whole-cycle record fixes the count of the next RX update (R119). -/
def State.side : Job → State → State
  | .req c q, s => s.applyReq c q
  | .hop r, s => s.takeReport r
  | .whole r, s => s.modTsSrv fun v => { v with mark := some r.t }
  | .steer .., s | .ts _, s | .tick, s => s

/-- Jobs completed inside a steer stage on engine `e` (R399). -/
def State.sides (e : Nat) (l : List Job) (s : State) : State := forAll l (fun j s => (s.side j).jobDone e) s

/-- The jobs of a queue that concern channel `c` before its next steering record, and the queue without them. -/
def sideOf (c : Nat) : List Job → List Job × List Job
  | [] => ([], [])
  | j :: l =>
    if j.chan ≠ some c then ((sideOf c l).1, j :: (sideOf c l).2)
    else if j.steers then ([], j :: l)
    else (j :: (sideOf c l).1, (sideOf c l).2)

/-- Requests and hop reports of `c` that wait in any queue behind its steering record are completed in its steer stage, after its update
(R263, R399). -/
def State.sidesOf (e c : Nat) (s : State) : State :=
  forAll (upTo 32) (fun d s =>
    let w := sideOf c (s.eng d).q
    if w.1 = [] then s else (s.modEng d fun g => { g with q := w.2 }).sides e w.1) s

/-- The steer stage of a record on engine `e`, behind the jobs `pre` of its queue: what of them concerns the channel is done first, what waits behind
the record after it, and settle work is left (R386, R398, R399). -/
def State.steerStage (e c : Nat) (r : Rec) (pre : List Job) (s : State) : State :=
  let w := s.back c
  let s := (s.modEng e fun g => { g with q := (pre.filter (·.chan ≠ some c)) ++ g.q.drop pre.length }).takeLease e c
  let s := (s.sides e (pre.filter (·.chan = some c))).steer e c r
  (s.sidesOf e c).settle e (.chan c (if (s.chan c).i2En then 21 else 13) w)

/-- STEERING_JOB (R386, R396, R398, R399, R404): the requests and reports that wait before the record first. -/
def execSteeringJob (e : EngIx) (s : State) : Host.Outcome State Fault Refusal := match s.startJob e Job.isSteer with
  | some (.steer c r, pre, s) => .next (s.steerStage e c r pre)
  | _ => .next s

/-- A tick that a timescale job is to carry out: a job that has composed the rate word has done so (R387). -/
def State.tickFor (composed : Bool) (s : State) : State :=
  if !s.ts.tickDue then s else
  let s := s.modTs fun t => { t with tickDue := false }
  if composed then s else s.tsTick

/-- The steer stage of a timescale job or tick `j` on engine `e`, behind the jobs `pre` of its queue. -/
def State.tsStage (e : Nat) (j : Job) (pre : List Job) (s : State) : State :=
  let w := s.tsBack
  let s := (s.modEng e fun g => { g with q := (pre.filter (·.chan ≠ none)) ++ g.q.drop pre.length }).takeTsLease e
  let s := s.sides e (pre.filter (·.chan = none))
  match j with
  | .ts r =>
    let t := s.tsSteer r
    (t.tickFor (t.ts.srv.updN ≠ s.ts.srv.updN)).settle e (.ts 21 w)
  | _ => (s.tickFor true).tsTick.settle e (.ts 9 w)

/-- TIMESCALE_STEERING_JOB (R114, R276, R386, R387, R398): the whole-cycle records that wait before it first. -/
def execTimescaleSteeringJob (e : EngIx) (s : State) : Host.Outcome State Fault Refusal := match s.startJob e Job.isTs with
  | some (j, pre, s) => .next (s.tsStage e j pre)
  | none => .next s

/-- WHOLE_CYCLE_RECORD_JOB (R119). -/
def execWholeCycleRecordJob (e : EngIx) (s : State) : Host.Outcome State Fault Refusal := match s.startSide e Job.isWhole with
  | some (j, s) => .next ((((s.takeTsLease e).side j).tickFor false).settle e (.ts 4 s.tsBack))
  | none => .next s

/-- A job of channel `c` without a steer stage runs on engine `e`. -/
def State.sideJob (e c : Nat) (j : Job) (s : State) : State := ((s.takeLease e c).side j).settle e (.chan c 4 (s.back c))

/-- HOP_REPORT_JOB (R202, R281, R385): the reports of octant `k` become jobs, and the first engine of the octant that can start one runs its
oldest. -/
def execHopReportJob (k : OctIx) (s : State) : Host.Outcome State Fault Refusal :=
  if !s.engReady then .next s else
  let s := s.dispatchHops k
  match (upTo 4).findSome? fun i => (s.startSide (4 * k + i) Job.isHop).map fun w => (4 * k.val + i, w) with
  | some (e, .hop r, s) => .next (s.sideJob e r.div (.hop r))
  | _ => .next s

/-- REQUEST_JOB (R263, R397). -/
def execRequestJob (e : EngIx) (s : State) : Host.Outcome State Fault Refusal := match s.startSide e Job.isReq with
  | some (.req c q, s) => .next (s.sideJob e c (.req c q))
  | _ => .next s

/-- TS_TICK (R267, R272, R276, R385, R387): on an SCLK edge of the grid while RES is not zero and no pause is in force. A timescale job that waits
in an input queue carries the tick out; else it is a job of its own, which starts at once where the lease of the record allows. -/
def execTsTick (s : State) : Host.Outcome State Fault Refusal :=
  if !s.engReady ∨ !s.onTick ∨ s.ts.st = .stopped ∨ s.ts.trav.res = 0 ∨ s.ts.trav.paused then .next s
  else if (upTo 32).any fun e => (s.eng e).q.any (·.chan = none) then .next (s.modTs fun t => { t with tickDue := true })
  else match s.homeTs with
    | some e =>
      if s.leaseOk e .tick then .next ((s.takeTsLease e).tsTick.settle e (.ts 9 s.tsBack)) else .next (s.dispatchTs .tick)
    | none => .next s

/-- The lease of a record is released once engine `e` holds no settle work for it (R395). -/
def State.release (e : Nat) : Option Nat → State → State
  | some c, s => if (s.eng e).settle.any (·.isChan c) then s else s.modChan c fun x => { x with lease := none }
  | none, s => if (s.eng e).settle.any (·.isTs) then s else s.modTs fun t => { t with lease := none }

/-- The record of settle work. -/
def Settle.chan' : Settle → Option Nat
  | .chan c .. => some c
  | .ts .. => none

/-- A job of user channel `c` has ended on engine `e`: it enters SHED of its home, and one away from home is counted (R392, R423). -/
def State.homeJob (e c : Nat) (s : State) : State :=
  if 256 ≤ c then s else match s.homeUser c with
  | some h =>
    let t := s.now
    let s := s.modEng h fun g => { g with ran := (t, decide (h ≠ e)) :: g.ran.filter fun x => x.1 ≤ t ∧ t < x.1 + secU }
    if h = e then s else s.modCnt c fun n => { n with away := satAdd 16 1 n.away }
  | none => s

/-- SHED of engine `e` in percent: the fraction of its home jobs run on other engines over the last second (R423). -/
def State.shed (s : State) (e : Nat) : Nat :=
  let l := (s.eng e).ran.filter fun x => x.1 ≤ s.now ∧ s.now < x.1 + secU
  100 * (l.filter (·.2)).length / max 1 l.length

/-- SETTLE_DONE (R386, R395): the oldest settle work of engine `e` is complete: write-back and release; a job away from home is counted. -/
def execSettleDone (e : EngIx) (s : State) : Host.Outcome State Fault Refusal := match (s.eng e).settle with
  | [] => .next s
  | w :: l =>
    let s := ((s.modEng e fun g => { g with settle := l }).jobDone e).release e w.chan'
    .next (match w.chan' with
      | some c => s.homeJob e c
      | none => s)

/-! ## Stealing (R410 to R417) -/

/-- Backlog of engine `e`: the settle work it holds counts whole (R410). -/
def State.backlog (s : State) (e : Nat) : Nat :=
  3 * ((s.eng e).q.filter Job.steers).length + (s.eng e).settle.foldl (fun a w => a + w.cost) 0

/-- Engine `e` is idle for stealing (R412). -/
def State.idleEng (s : State) (e : Nat) : Bool :=
  let g := s.eng e
  !g.retired && !g.q.any Job.steers && g.fetch.isNone && g.ready.isNone && s.backlog e ≤ s.pv P.idleTh

/-- Octants `a` and `b` are neighbours (R414). -/
def nextOct (a b : Nat) : Bool := (a + 1) % 8 = b || (b + 1) % 8 = a

/-- STEAL_CLAIM (R411 to R417): engine `t` claims the oldest waiting job of engine `v` whose lease is free; that it has waited within its
window is the event. -/
def execStealClaim (t v : EngIx) (s : State) : Host.Outcome State Fault Refusal :=
  let inOct : Bool := t.val / 4 = v.val / 4
  let okPeer : Bool := (inOct && t ≠ v && s.pv P.settleTh < s.backlog v) || nextOct (t.val / 4) (v.val / 4)
  if s.pv P.stealEn ≠ 0 ∨ !s.engReady ∨ !s.idleEng t ∨ !okPeer ∨ (s.eng v).retired then .next s else
  let free (j : Job) : Bool := match j.chan with
    | some c => (s.chan c).lease.isNone
    | none => s.ts.lease.isNone
  match pickJob (fun pre j => j.steers && free j && !pre.any (fun i => i.chan = j.chan)) [] (s.eng v).q with
  | some (pre, j, l) =>
    let s := s.modEng v fun g => { g with q := pre ++ l, fromN := satAdd 32 1 g.fromN }
    let s := match j.chan with
      | some c => s.takeLease t c
      | none => s.takeTsLease t
    .next (s.modEng t fun g => { g with
      fetch := some j, byN := satAdd 32 1 g.byN, xbyN := if inOct then g.xbyN else satAdd 32 1 g.xbyN })
  | none => .next s

/-- CSM_FETCH_DONE (R413, R414). -/
def execCsmFetchDone (e : EngIx) (s : State) : Host.Outcome State Fault Refusal := match (s.eng e).fetch with
  | some j => .next (s.modEng e fun g => { g with fetch := none, ready := some j })
  | none => .next s

/-! ## Hash epochs (R423 to R427) -/

/-- The home channels of engine `e` under the hash, by home slot. -/
def State.homesOf (s : State) (e : Nat) : List Nat :=
  (upTo 8).filterMap fun j => ((upTo 32).map (32 * (e / 4) + ·)).find? fun c => hashEng s.arr.seed c = e ∧ hashSlot s.arr.seed c = j

/-- SKEW (R423, R424): SHED of engine `e` exceeds SKEW_TH; `long` says that it has done so for SKEW_T without a break, and `seed` is the proposal
that the cobbler may post. -/
def execSkew (e : EngIx) (long : Bool) (seed : Option (BitVec 32)) (s : State) : Host.Outcome State Fault Refusal :=
  let shed := s.shed e
  if !long ∨ shed ≤ s.pv P.skewTh then .next s else
  let s := s.engEv e 8
  let w := (s.homesOf e).foldr (fun c w => c + 512 * w) 0
  let s := s.post ⟨0x8304, fld 0 5 e + fld 5 7 shed, 0, w⟩
  .next (match seed with
    | some x => s.post ⟨0x8305, x.toNat, 0, 0⟩
    | none => s)

/-- The next second with low 32 bits `e` at or after the DTS. -/
def State.epochSec (s : State) (e : Nat) : Nat :=
  let c := (s.now + secU - 1) / secU
  c + (e + 2 ^ 32 - c % 2 ^ 32) % 2 ^ 32

/-- ENG_EPOCH (R425). -/
def State.opEngEpoch (h : Hdr) (seed e : Nat) (s : State) : State :=
  if s.ts.st = .stopped then s.reply h 0x0330 (.fail .tsStopped)
  else if s.epochSec e * secU < s.now + 2 * secU then s.reply h 0x0330 (.fail .past)
  else s.commit (some h) 0x0330 (.epoch seed (s.epochSec e))

def execEngEpoch (h : Hdr) (seed e : BitVec 32) (s : State) : Host.Outcome State Fault Refusal :=
  .next (s.viaDoor h 0x0330 (·.opEngEpoch h seed.toNat e.toNat))

/-- EPOCH (R426, R427, R432): the DTS has reached E. -/
def execEpoch (s : State) : Host.Outcome State Fault Refusal := match s.arr.epoch with
  | some (seed, sec) =>
    if s.now < sec * secU then .next s else
    let s := s.modArr fun a => { a with seed := seed, epoch := none }
    let s := forAll (upTo 32) (fun e s => if (s.eng e).retired then s else s.modEng e fun g => { g with out := false }) s
    .next (forAll (upTo 8) (fun k s => s.modOct k fun o => { o with engEv := o.engEv.raise 12 }) s)
  | none => .next s

/-! ## Parity, retirement, loss of the array (R428 to R432, R490) -/

/-- States in which an entry is steered. -/
def ChState.steered : ChState → Bool
  | .acquire | .track | .holdover => true
  | _ => false

/-- Settle work is given up: the entry is as last written back (R428). DESIGN CHOICE (log 81): what the host and the cobbler have done meanwhile
stands (accepted requests, pauses, a state the channel has left steering for, the entry to HOLDOVER and the return from it, counters cleared). -/
def State.dropSettle : Settle → State → State
  | .chan c _ b, s =>
    let x := s.chan c
    if !b.st.steered ∨ !x.st.steered then s else
    let st := if b.st = .holdover ∨ x.st = .holdover then x.st else b.st
    s.modChan c fun x => { x with
      st := st, lock := x.lock && st = .track || (st = .track && x.st ≠ .track), srv := b.srv
      trav := { x.trav with
        pReal := b.trav.pReal, guard := b.trav.guard, slew := b.trav.slew, debt := b.trav.debt, nomAcc := b.trav.nomAcc
        nomRem := b.trav.nomRem, clamped := b.trav.clamped }
      cnt := { x.cnt with outlier := min b.outlier x.cnt.outlier, clamp := min b.clamp x.cnt.clamp } }
  | .ts _ b, s => s.modTs fun x => { x with
      st := if (b.st = .acquiring ∨ b.st = .locked) ∧ (x.st = .acquiring ∨ x.st = .locked) then b.st else x.st
      srv := b.srv
      trav := { x.trav with
        pReal := b.trav.pReal, guard := b.trav.guard, slew := b.trav.slew, clamped := b.trav.clamped } }

/-- Engine `e` gives up the settle work that `p` selects, from the newest back to the oldest, and its leases. -/
def State.dropSettles (e : Nat) (p : Settle → Bool) (s : State) : State :=
  let l := (s.eng e).settle.filter p
  let s := forAll l.reverse (fun w s => s.dropSettle w) s
  let s := s.modEng e fun g => { g with settle := g.settle.filter fun w => !p w }
  forAll l (fun w s => s.release e w.chan') s

/-- PARITY (R428): in the settle stage the settle in progress is discarded, with later work on the same record; else the job whose steer stage
runs. -/
def execParity (e : EngIx) (inSettle : Bool) (s : State) : Host.Outcome State Fault Refusal :=
  if (s.eng e).retired then .next s else
  let s := if inSettle then match (s.eng e).settle with
      | w :: _ => s.dropSettles e fun v => v.chan' = w.chan'
      | [] => s
    else match s.startJob e Job.steers with
    | some (j, _, s) => s.release e j.chan
    | none => s
  let t := s.now
  let s := s.modEng e fun g => { g with
    parN := satAdd 32 1 g.parN, parT := (g.parT.filter fun x => x ≤ t && t - x ≤ 10 * secU) ++ [t] }
  .next ((s.engEv e 10).fault kindEng e 5)

/-- A job in progress is discarded and counted in QDROP_N. -/
def State.qdrop : Option Nat → State → State
  | some c, s => s.modCnt c fun n => { n with qdrop := satAdd 16 1 n.qdrop }
  | none, s => s

/-- ENGINE_RETIRE (R429 to R431): more than RETRY_MAX parity events within RETRY_WINDOW, or no progress for 1 µs (`stuck`). -/
def execEngineRetire (e : EngIx) (stuck : Bool) (s : State) : Host.Outcome State Fault Refusal :=
  let g := s.eng e
  if g.retired ∨ !(stuck || 3 < g.parT.length) then .next s else
  let drops : List (Option Nat) := g.settle.map Settle.chan'
    ++ (g.fetch.toList ++ g.ready.toList).map Job.chan
  let s := s.dropSettles e fun _ => true
  let s := forAll drops (fun c s => s.qdrop c) s
  let s := forAll (g.fetch.toList ++ g.ready.toList) (fun j s => match j.chan with
    | some c => s.modChan c fun x => { x with lease := none }
    | none => s.modTs fun t => { t with lease := none }) s
  let s := s.modEng e fun g => { g with q := [], fetch := none, ready := none, cache := [], retired := true, out := true }
  let s := forAll g.q (fun j s => match j.chan with
    | some c => s.dispatch c j
    | none => s.dispatchTs j) s
  let s := s.engEv e 11
  let s := if stuck then s.fault kindEng e 0x21 else s
  let s := s.commit none 0 (.retire kindEng e (if stuck then 0x21 else 5))
  .next (if s.liveEngs (e / 4) = [] then s.octBypass .loop (e / 4) else s)

/-- Phase requests of PD_ENG are answered ABSENT (R532), and its jobs, leases, pending settles, interval pairs and regression gates of PD_ENG go with a reset of it; a host slot's loss is
posted (R376, R490, R498). -/
def State.engClear (s : State) : State :=
  let s := forAll (upTo 32) (fun e s =>
    let g := s.eng e
    forAll (g.q ++ g.fetch.toList ++ g.ready.toList) (fun j s => s.reqLost .absent j) s) s
  let s := forAll (upTo 32) (fun e s =>
    (s.dropSettles e fun _ => true).modEng e fun g => { g with q := [], fetch := none, ready := none, cache := [] }) s
  let s : State := { s with chans := s.chans.map fun x => (x.1, { x.2 with lease := none }) }
  let s := s.modTs fun t => { t with lease := none, tickDue := false }
  let s := forAll (upTo 16) (fun p s => s.modPair p fun x => { x with inQ := [], start := none, und := [] }) s
  let s := forAll (upTo 8) (fun k s => s.modOct k fun o => { o with xFcw := { o.xFcw with drop := 0 } }) s
  let s := s.modDevq fun q => { q with xRate := { q.xRate with drop := 0 }, xRep := { q.xRep with drop := 0 } }
  let lost := s.rgHost
  let s := forAll (upTo 16) (fun i s => s.modSlot i fun x => { x.clear with
    prio := 0, internal := false, armed := false, past := [], inQ := [], out := [] }) s
  forAll lost (fun i s => s.post ⟨0x8303, i, 0, 0⟩) (s.modGw fun g => { g with slot := none })

/-- The words of an entry that a mask names are rebuilt (R451): W8 to W13 clear the traverse, W14 and W15 their counters, configuration
is loaded again; other words lost read 0. -/
def State.rebuildEntry (c mask : Nat) (s : State) : State :=
  let m := mask.testBit
  let s := if m 2 then s.modSrv c fun v => { v with i1 := 0, i2 := 0 } else s
  let s := if m 3 then s.modSrv c fun v => { v with anchor := none, pos := 0, lt := none } else s
  let s := if m 5 then s.modSrv c fun v => { v with tLast := 0 } else s
  let s := if m 6 then s.modChan c fun x => { x with monLast := 0, monN := 0, periods := [] } else s
  let s := if m 7 then s.modChan c fun x => { x with
      srv := { x.srv with e := 0, lkRun := 0, outRun := 0 }, cnt := { x.cnt with qdrop := 0, away := 0 } } else s
  let s := if (upTo 6).any (fun i => m (8 + i)) then s.modChan c fun x => { x with
      trav := { Trav.init with pWelt := x.trav.pWelt, pByp := x.trav.pByp, pHold := x.trav.pHold } } else s
  let s := if m 14 then s.modCnt c fun n => { n with outlier := 0, clamp := 0, stale := 0, miss := 0 } else s
  let s := if m 15 then s.modCnt c fun n => { n with rate := 0, txm := 0, dll := 0, hold := 0 } else s
  let s := if m 0 then s.modSrv c fun v => { v with seqTxm := none, seqRx := none, updN := 0 } else s
  if m 0 ∨ m 1 ∨ m 4 ∨ m 5 then s.loadConfig c else s

/-- Queues with a side in PD_ENG begin their handshake, the other side being out of reset (R528). -/
def State.engResync (s : State) : State :=
  let s := forAll (upTo 8) (fun k s =>
    let on := s.domOn (pdQ (quadOf k))
    let up := on && !(s.oct k).vclkRst
    s.modOct k fun o => { o with
      xReq := { o.xReq with resync := true }, xStamp := { o.xStamp with resync := on }, xFcw := { o.xFcw with resync := up }
      xHop := { o.xHop with resync := up } }) s
  let ref := s.domOn pdRef
  let cas := s.domOn pdCas
  s.modDevq fun q => { q with
    xRep := { q.xRep with resync := true }, xStamp := { q.xStamp with resync := ref }, xRate := { q.xRate with resync := ref }
    xCas := { q.xCas with resync := cas } }

/-- ENG_ARRAY_REBUILD (R451, R490): PD_ENG is out of island reset and scrubbed; `ue` names the entries with uncorrectable words. -/
def execEngArrayRebuild (ue : List (Ch × BitVec 16)) (s : State) : Host.Outcome State Fault Refusal :=
  if !s.arr.lost then .next s else
  let s := (s.setIso pdEng false).modArr fun a => { a with lost := false }
  let s := s.engResync
  let s := forAll ue (fun x s => s.rebuildEntry x.1 x.2.toNat) s
  if s.ts.st = .stopped then .next s else
  let s := s.modTs fun t => { t with
    st := .free, drift := 0, forced := false, trav := .init
    srv := { TsSrv.init with base := t.rate, oReal := t.o, adv := t.dts } }
  .next s.tsCoefs.tsQualified

/-- ENG_STATUS (R434). -/
def State.opEngStatus (h : Hdr) (e : Nat) (s : State) : State :=
  let g := s.eng e
  s.reply h 0x0331 ⟨.ok, 0, 0, g.parN, [fld 0 32 g.jobsN + fld 32 32 g.fromN + fld 64 32 g.byN + fld 96 32 g.xbyN]⟩

def execEngStatus (h : Hdr) (e : EngIx) (s : State) : Host.Outcome State Fault Refusal :=
  .next (s.viaDoor h 0x0331 (·.opEngStatus h e))

end Sys2Proof.Machine
end

