-- ==== Sys2Proof/Machine/Journal.lean ====
section
/-!
DEFINITION. The layout of the Datum store: stored words by region, records, the CRC, the sections of a journal payload,
encoded from and decoded into the state (R588 to R613, R624, R785).
-/
namespace Sys2Proof.Machine

/-! ## CRC and packing (R597, R610) -/

def crcBit (c : Nat) : Nat := if c % 2 = 1 then (c / 2) ^^^ 0xEDB88320 else c / 2
def crcByte (c b : Nat) : Nat := (upTo 8).foldl (fun c _ => crcBit c) (c ^^^ b)
/-- The CRC register after the bytes of a list of bytes. -/
def crcBytes (l : List Nat) : Nat := l.foldl crcByte 0xFFFFFFFF ^^^ 0xFFFFFFFF
/-- The 16 bytes of a word, byte 0 first (R80). -/
def bytesOf (w : Nat) : List Nat := (upTo 16).map fun i => bits w (8 * i) 8
/-- CRC-32 over payload words (R597). -/
def crc32 (ws : List Nat) : Nat := crcBytes (ws.flatMap bytesOf)

/-- Values of width `w` packed from bit 0 up. -/
def packB (w : Nat) : List Nat → Nat
  | [] => 0
  | x :: l => x % 2 ^ w + 2 ^ w * packB w l
/-- The first `n` 128-bit words of a packed item. -/
def wordsOf : Nat → Nat → List Nat
  | 0, _ => []
  | n + 1, x => x % 2 ^ 128 :: wordsOf n (x / 2 ^ 128)
/-- `n` values of width `w` from a packed item. -/
def unpackB (w n x : Nat) : List Nat := (upTo n).map fun i => bits x (w * i) w
/-- Packed values as words. -/
def packWords (w n : Nat) (l : List Nat) : List Nat := wordsOf n (packB w l)
def joinWords (ws : List Nat) : Nat := packB 128 ws

/-! ## Regions (R590, R592, R594, R595) -/

def regBoot (copy : Nat) : Nat := 8 * copy
def regSlot (slot : Nat) : Nat := 16 + 1024 * slot
def regBank (b : Nat) : Nat := 2064 + 512 * b
def regAge : Nat := 3088
def regBench : Nat := 5136
def regRes : Nat := 5392
/-- Sectors of the region that starts at logical sector `r`. -/
def regSize (r : Nat) : Nat :=
  if r < 16 then 8 else if r < 2064 then 1024 else if r < 3088 then 512 else if r < 5136 then 2048 else 256
/-- REGION code of a logical sector. -/
def regCode (l : Nat) : Nat :=
  if l < 16 then 1 else if l < 1040 then 2 else if l < 2064 then 3 else if l < 2576 then 4 else if l < 3088 then 5
  else if l < 5136 then 6 else if l < 5392 then 7 else 8
/-- Record slots of a region. -/
def regCap (r : Nat) : Nat := 226 * regSize r

/-- Physical sector of a logical one (R595, R624). -/
def StoreS.phys (d : StoreS) (l : Nat) : Nat := (look d.remap l).getD l
/-- Logical sector that a physical one serves; none once it has been replaced. -/
def StoreS.logical (d : StoreS) (p : Nat) : Option Nat := match d.remap.find? (fun e => e.2 = p) with
  | some e => some e.1
  | none => if (look d.remap p).isSome then none else some p
/-- Absolute word number of record slot `i` of region `r`. -/
def StoreS.wordNo (d : StoreS) (r i : Nat) : Nat := 227 * d.phys (r + i % regCap r / 226) + 1 + i % regCap r % 226
/-- The words of region `r` that are not ERASED, by record slot in ascending order. -/
def StoreS.words (d : StoreS) (r : Nat) : Tab FWord :=
  let l := d.flash.filterMap fun e =>
    if e.1 % 227 = 0 then none else
    match d.logical (e.1 / 227) with
    | some x => if r ≤ x ∧ x < r + regSize r then some (226 * (x - r) + e.1 % 227 - 1, e.2) else none
    | none => none
  if d.remap = [] then l else l.foldl (fun t e => t.put e.1 e.2) []

/-- The first ERASED record slot from `i` on. -/
def gapFrom : Nat → Tab FWord → Nat
  | i, [] => i
  | i, (j, _) :: t => if j = i then gapFrom (i + 1) t else i
/-- Where the next record of region `r` begins, and how many ERASED slots follow from there (R596, R608, R617). -/
def StoreS.room (d : StoreS) (r : Nat) : Nat × Nat :=
  let l := d.words r
  let g := gapFrom 0 l
  let n := match l.find? (fun e => g < e.1) with
    | some e => e.1 - g
    | none => if r = regAge then regCap r - g + (match l with | e :: _ => e.1 | [] => 0) else regCap r - g
  (g, n)

/-- ERASE_N of a physical sector; without a readable sector word, the largest of the region of the map that the sector lies in (R592, R593). -/
def StoreS.eraseN (d : StoreS) (p : Nat) : Nat := match look d.flash (227 * p) with
  | some ⟨w, .clean⟩ | some ⟨w, .corrected⟩ => bits w.toNat 0 32
  | _ => (d.flash.filterMap fun e =>
      if e.1 % 227 = 0 ∧ e.2.cls ≠ .bad ∧ regCode (e.1 / 227) = regCode p then some (bits e.2.data.toNat 0 32) else none).foldl max 0
/-- The sector word (R592). -/
def sectorWord (n l : Nat) : W128 := BitVec.ofNat 128 (fld 0 32 n + fld 32 16 l + fld 48 8 (regCode l))

/-- Physical sector `p` is erased and its sector word written for logical sector `l` (R592). DESIGN CHOICE (log 81): the erase that writes back the value
of R593 is counted on top of it. -/
def StoreS.erase (p l : Nat) (d : StoreS) : StoreS :=
  let n := d.eraseN p + 1
  { d with flash := Tab.put (227 * p) ⟨sectorWord n l, .clean⟩ (d.flash.filter fun e => e.1 / 227 ≠ p) }
/-- Physical sector `p` reads ERASED, its sector word still to be written. -/
def StoreS.blank (p : Nat) (d : StoreS) : StoreS := { d with flash := d.flash.filter fun e => e.1 / 227 ≠ p }

/-- Words are programmed from record slot `i` of region `r` on. -/
def StoreS.program (r : Nat) : Nat → List FWord → StoreS → StoreS
  | _, [], d => d
  | i, w :: ws, d => StoreS.program r (i + 1) ws { d with flash := d.flash.put (d.wordNo r i) w }

/-! ## Records (R596 to R599) -/

def recHeader (ty len gen secs : Nat) : Nat := fld 0 8 ty + fld 12 20 len + fld 32 48 gen + fld 80 48 secs
def recTrailer (ty len gen crc : Nat) : Nat := fld 0 32 crc + fld 32 48 gen + fld 80 8 ty + fld 88 20 len
def recCommit (ty gen : Nat) : Nat := fld 0 48 gen + fld 48 8 ty + fld 56 8 0xA5
/-- The words of a record: header, payload, trailer, commit. -/
def recWords (ty gen secs : Nat) (pay : List Nat) : List Nat :=
  recHeader ty pay.length gen secs :: (pay ++ [recTrailer ty pay.length gen (crc32 pay), recCommit ty gen])

/-- A record met in a walk of a region. -/
structure Found where
  ty : Nat
  gen : Nat
  pos : Nat
  pay : List Nat
  /-- the header reads CLEAN or CORRECTED -/
  head : Bool
  valid : Bool
  /-- a word of it reads CORRECTED -/
  corr : Bool
deriving DecidableEq, Repr

/-- The record whose header word is `h` at slot `i`, followed by `t` (R599). -/
def takeRec (i : Nat) (h : FWord) (t : Tab FWord) : Found :=
  let w := h.data.toNat
  let len := bits w 12 20
  let ty := bits w 0 8
  let gen := bits w 32 48
  let body := t.take (len + 2)
  let pay := (body.take len).map fun e => e.2.data.toNat
  let ok : Bool := body.length = len + 2 && (body.getLast?).any (fun e => e.1 = i + len + 2)
    && (body.take (len + 1)).all (fun e => e.2.cls ≠ .bad)
    && (body[len]?).any (fun e => e.2.data.toNat = recTrailer ty len gen (crc32 pay))
    && (body[len + 1]?).any (fun e => e.2.cls = .clean && e.2.data.toNat = recCommit ty gen)
  ⟨ty, gen, i, pay, true, ok, h.cls = .corrected || body.any (fun e => e.2.cls = .corrected)⟩

/-- TYPE codes of R598. -/
def knownType (ty : Nat) : Bool := [1, 0x10, 0x11, 0x20, 0x21, 0x30, 0x31, 0x40].contains ty

/-- The records of a region in slot order; past a torn record the walk resumes at the next word that reads as a header
(R613). -/
def walk : Nat → Bool → Tab FWord → List Found
  | 0, _, _ => []
  | _ + 1, _, [] => []
  | n + 1, torn, (i, w) :: t =>
    let isHead : Bool := w.cls ≠ .bad && bits w.data.toNat 8 4 = 0 && (!torn || knownType (bits w.data.toNat 0 8))
    if isHead then
      let f := takeRec i w t
      if f.valid then f :: walk n false (t.drop (f.pay.length + 2)) else f :: walk n true t
    else if torn then walk n true t
    else ⟨0, 0, i, [], false, false, false⟩ :: walk n true t

def StoreS.records (d : StoreS) (r : Nat) : List Found := let l := d.words r; walk l.length false l

/-! ## Items of the journal (R609 to R612) -/

/-- Key of a parameter item: 65,536·channel + identifier, channel 0xFFF for a device parameter. -/
def devKey (id : Nat) : Nat := 65536 * 0xFFF + id
def paramWord (key v : Nat) : Nat := fld 0 16 key + fld 16 12 (key / 65536) + fld 64 64 v

/-- The correction set, anchor and measurement of a core as the 22 words of a TDC item. -/
def State.tdcWords (s : State) (i : Nat) : List Nat :=
  let c := s.core i
  let v := s.setOf i
  let m : Nat × Int := (look s.cal.meas i).getD (0, 0)
  packWords 18 9 v.tapPos ++ packWords 14 7 v.tapWid ++ packWords 16 4 v.vern ++
    [fld 0 21 v.ofs + fld 21 6 c.trim + fld 27 1 (bit v.valid) + fld 28 16 (toBits 16 m.2) + fld 44 48 m.1,
     match c.anchor with
     | some (a, d) => fld 0 21 a + 2 ^ 64 * toBits 64 d
     | none => 0]

/-- Core of item `i` of the WELT section: RX and shared core of W0, then of W1 and so on. -/
def weltCore (i : Nat) : Nat := 2 * weltOf 0 + i

/-- A nominal DTC entry (R207). -/
def dtcNominal (seg : Nat) : Nat := 341 + 1365 * 2 ^ 11 + seg * 2 ^ 23
/-- DTC entry `seg` of channel index `c`; an entry never loaded is nominal. -/
def State.dtcEnt (s : State) (c seg : Nat) : Nat := (s.chan c).div.dtc.get (dtcNominal seg) seg

/-- The words of item `key` of section `sec`. DESIGN CHOICE (log 81): a DELTA that returns TS_BW to its reset value (R891) carries a TS_BW item of
value 0, which `State.loadItem` reads as not written. -/
def State.item (s : State) (sec key : Nat) : List Nat := match sec with
  | 1 =>
    let id := key % 65536
    let c := key / 65536
    let v := if c ≠ 0xFFF then s.cp c id else if id = P.tsBw ∧ (look s.par.dev id).isNone then 0 else s.pv id
    [paramWord key v]
  | 2 =>
    let l : Tab Nat := (look s.par.lasts key).getD []
    (fld 0 8 key + fld 8 20 l.length) :: l.map fun e => paramWord e.1 e.2
  | 3 => [s.gratEnt key]
  | 4 => [packB 32 ((upTo 4).map fun j =>
      let d := (s.chan (key / 6)).div
      (d.dtcNew.getD d.dtc).get (dtcNominal (4 * (key % 6) + j)) (4 * (key % 6) + j))]
  | 5 => s.tdcWords key
  | 6 => [toBits 64 (s.chan key).handSkew + fld 64 16 (toBits 16 (s.chan key).hsTemp)]
  | 7 => packWords 21 6 ((upTo 32).map ((s.core (weltCore key)).weltOfs.get 0 ·))
  | 8 => [(s.dll key).range]
  | 9 => [s.store.ret.get 0 key]
  | 10 => [s.store.epoch]
  | _ => [s.store.anchor]

/-- Words per item of the tabular sections. -/
def itemSize (sec : Nat) : Nat := if sec = 5 then 22 else if sec = 7 then 6 else 1
def tabular (sec : Nat) : Bool := 3 ≤ sec && sec ≤ 8

/-- The items of a SET by section (R610). -/
def State.setKeys (s : State) : List (Nat × List Nat) :=
  let dev := s.par.dev.filter fun e => (pFind e.1).any (·.persists) ∧ (e.2 ≠ pReset e.1 ∨ e.1 = P.tsBw)
  let own := s.par.own.filter fun e => (pFind (e.1 % 65536)).any (·.persists)
  [(1, dev.map (devKey ·.1) ++ own.map (·.1)), (2, s.par.lasts.map (·.1)), (3, upTo 2048), (4, upTo 1584),
   (5, upTo 532), (6, upTo 264), (7, upTo 16), (8, upTo 9), (9, s.store.ret.map (·.1)), (10, [0]), (11, [0])]

def sectionWord (sec n : Nat) : Nat := fld 0 8 sec + fld 8 20 n
/-- Payload of a SET (R609, R610). -/
def State.setPay (s : State) (cause : Nat) : List Nat :=
  fld 96 8 cause :: s.setKeys.flatMap fun e =>
    let ws := e.2.flatMap (s.item e.1 ·)
    sectionWord e.1 ws.length :: ws

/-- Ascending runs of keys: first key and count (R611). -/
def runsOf : List Nat → List (Nat × Nat)
  | [] => []
  | k :: t => match runsOf t with
    | (a, n) :: r => if a = k + 1 then (k, n + 1) :: r else (k, 1) :: (a, n) :: r
    | [] => [(k, 1)]

/-- Payload of a DELTA that carries the named items (R609, R611). -/
def State.deltaPay (s : State) (cause : Nat) (ks : List (Nat × List Nat)) : List Nat :=
  (fld 0 48 s.store.base + fld 48 48 s.store.gen + fld 96 8 cause) :: ks.flatMap fun e =>
    let ws := if tabular e.1 then (runsOf e.2).flatMap fun r =>
        (fld 0 16 r.1 + fld 16 16 r.2) :: (upTo r.2).flatMap fun j => s.item e.1 (r.1 + j)
      else e.2.flatMap (s.item e.1 ·)
    sectionWord e.1 ws.length :: ws

/-! ## Decoding -/

/-- Items of `n` words each, numbered from `k` on. -/
def chunk (sec n : Nat) : Nat → Nat → List Nat → List (Nat × Nat × List Nat)
  | 0, _, _ => []
  | f + 1, k, ws => if ws = [] then [] else (sec, k, ws.take n) :: chunk sec n f (k + 1) (ws.drop n)

/-- The runs of a tabular section of a DELTA. -/
def unRuns (sec : Nat) : Nat → List Nat → List (Nat × Nat × List Nat)
  | 0, _ => []
  | _ + 1, [] => []
  | f + 1, w :: t =>
    let n := bits w 16 16
    chunk sec (itemSize sec) n (bits w 0 16) (t.take (n * itemSize sec)) ++ unRuns sec f (t.drop (n * itemSize sec))

/-- The lasts of a LASTS section. -/
def unLasts : Nat → List Nat → List (Nat × Nat × List Nat)
  | 0, _ => []
  | _ + 1, [] => []
  | f + 1, w :: t => (2, bits w 0 8, t.take (bits w 8 20)) :: unLasts f (t.drop (bits w 8 20))

/-- The items of one section. -/
def unSection (isSet : Bool) (sec : Nat) (ws : List Nat) : List (Nat × Nat × List Nat) :=
  if sec = 1 then ws.map fun w => (1, 65536 * bits w 16 12 + bits w 0 16, [w])
  else if sec = 2 then unLasts ws.length ws
  else if sec = 9 then ws.map fun w => (9, 4096 * bits w 12 4 + bits w 0 12, [w])
  else if tabular sec then (if isSet then chunk sec (itemSize sec) ws.length 0 ws else unRuns sec ws.length ws)
  else ws.map fun w => (sec, 0, [w])

/-- The items of a payload's sections. -/
def unPay (isSet : Bool) : Nat → List Nat → List (Nat × Nat × List Nat)
  | 0, _ => []
  | _ + 1, [] => []
  | f + 1, w :: t =>
    unSection isSet (bits w 0 8) (t.take (bits w 8 20)) ++ unPay isSet f (t.drop (bits w 8 20))

/-- A device parameter takes a stored value; a value equal to the reset value leaves nothing written, but for TS_BW (R610,
R891). -/
def ParS.setDev (id : Nat) (v : Option Nat) (p : ParS) : ParS := match v with
  | some v => { p with dev := if v = pReset id ∧ id ≠ P.tsBw then drop id p.dev else p.dev.put id v }
  | none => { p with dev := drop id p.dev }

/-- CH_LAST of a channel is set; the channel's own values of the templates that the last carries are removed (R794). -/
def ParS.setLast (n c : Nat) (p : ParS) : ParS :=
  let p := { p with own := p.own.put (ownKey c P.chLast) n }
  if n = 0xFF then p else
  let l : Tab Nat := (look p.lasts n).getD []
  { p with own := l.foldl (fun o e => drop (ownKey c e.1) o) p.own }

/-- One stored item takes its place in the state. -/
def State.loadItem (isSet : Bool) (sec key : Nat) (ws : List Nat) (s : State) : State :=
  let w := ws.headD 0
  match sec with
  | 1 =>
    let id := key % 65536
    let c := key / 65536
    let v := bits w 64 64
    if c = 0xFFF then s.modPar (·.setDev id (if id = P.tsBw ∧ v = 0 then none else some v))
    else if !isSet ∧ id = P.chLast then s.modPar (·.setLast v c)
    else s.modPar fun p => { p with own := p.own.put key v }
  | 2 => s.modPar fun p => { p with
      lasts := if ws = [] then drop key p.lasts
        else p.lasts.put key (ws.foldl (fun t w => t.put (bits w 0 16) (bits w 64 64)) []) }
  | 3 => s.modGrat fun g => { g with ent := g.ent.put key (BitVec.ofNat 128 w) }
  | 4 => s.modDiv (key / 6) fun d => { d with
      dtc := (upTo 4).foldl (fun t j => t.put (4 * (key % 6) + j) (bits w (32 * j) 32)) d.dtc }
  | 5 =>
    let x := joinWords ws
    let o := ws.getD 20 0
    let v : CorrSet := ⟨unpackB 18 64 x, unpackB 14 64 (x / 2 ^ 1152), unpackB 16 32 (x / 2 ^ 2048), bits o 0 21, o.testBit 27⟩
    let s := s.modCore key fun c => { c with
      set := some v, trim := bits o 21 6
      anchor := if ws.getD 21 0 = 0 then none else some (bits (ws.getD 21 0) 0 21, ofBits 64 (ws.getD 21 0 / 2 ^ 64)) }
    s.modCal fun k => { k with meas := k.meas.put key (bits o 44 48, ofBits 16 (bits o 28 16)) }
  | 6 => s.modChan key fun c => { c with handSkew := ofBits 64 w, hsTemp := ofBits 16 (bits w 64 16) }
  | 7 => s.modCore (weltCore key) fun c => { c with
      weltOfs := (upTo 32).foldl (fun t p => t.put p (bits (joinWords ws) (21 * p) 21)) c.weltOfs }
  | 8 => s.modDll key fun d => { d with range := bits w 0 3 }
  | 9 => s.modStore fun d => { d with ret := d.ret.put key w }
  | 10 => s.modStore fun d => { d with epoch := w }
  | 11 => s.modStore fun d => { d with anchor := bits w 0 32 }
  | _ => s

/-- The contents of a SET or DELTA payload take their place in the state. -/
def State.loadPay (isSet : Bool) (pay : List Nat) (s : State) : State :=
  forAll (unPay isSet pay.length (pay.drop 1)) (fun e s => s.loadItem isSet e.1 e.2.1 e.2.2) s

/-! ## Changes as items (R604, R610 to R612) -/

/-- A RETIRE item (R612). -/
def retireWord (kind unit fault gen secs : Nat) : Nat :=
  fld 0 12 unit + fld 12 4 kind + fld 16 8 fault + fld 25 4 0xF + fld 29 48 gen + fld 77 48 secs

/-- A correction set of core `i` with CORE_OFS `o`. -/
def State.withOfs (i o : Nat) (s : State) : State := s.modCore i fun c => { c with set := some { s.setOf i with ofs := o } }

/-- The candidates of run `r` take their place in the state (R541). -/
def CalRun.load (r : CalRun) (s : State) : State :=
  let s := forAll r.sets (fun e s => (s.modCore e.1 fun c => { c with set := some e.2 }).modCal fun k => { k with
    meas := k.meas.put e.1 (s.now / secU, if e.1 < 528 then (s.oct (octOf (e.1 / 2))).temp else r.temp) }) s
  let s := forAll r.anchors (fun e s => s.modCore e.1 fun c => { c with anchor := some e.2 }) s
  let s := forAll r.trims (fun e s => s.modCore e.1 fun c => { c with trim := e.2 }) s
  let s := forAll r.dtcs (fun e s => s.modDiv e.1 fun d => { d with dtc := e.2, dtcNew := none }) s
  let s := forAll r.welts (fun e s => s.modCore e.1 fun c => { c with weltOfs := e.2 }) s
  let s := forAll r.dlls (fun e s => s.modDll e.1 fun d => { d with range := e.2 }) s
  match r.skew with
  | some (k, t) => s.modChan r.unit fun c => { c with handSkew := k, hsTemp := t }
  | none => s

/-- The stored contents of a change take their place in the state; what else it causes is `State.effect`. -/
def StoreReq.load (r : StoreReq) (s : State) : State := match r.ch with
  | .params dev own =>
    let s := forAll dev (fun e s => s.modPar (·.setDev e.1 e.2)) s
    forAll own (fun e s => s.modPar fun p => { p with own := p.own.put e.1 e.2 }) s
  | .last n v => s.modPar fun p => { p with lasts := match v with
      | some l => p.lasts.put n l
      | none => drop n p.lasts }
  | .lastApply n a b => forAll ((upTo (b + 1 - a)).map (a + ·)) (fun c s => s.modPar (·.setLast n c)) s
  | .retune k ni nf | .restore k ni nf =>
    (s.modPar (·.setDev (P.mlNi + 16 * k) (some ni))).modPar (·.setDev (P.mlNf + 16 * k) (some nf))
  | .epoch seed e =>
    (s.modPar (·.setDev P.hashSeed (some seed))).modStore fun d => { d with epoch := fld 0 32 seed + fld 32 48 e + 2 ^ 80 }
  | .grat es => forAll es (fun e s => s.modGrat fun g => { g with ent := g.ent.put e.1 e.2 }) s
  | .retire kind unit fault =>
    s.modStore fun d => { d with ret := d.ret.put (retKey kind unit) (retireWord kind unit fault r.gen r.secs) }
  | .takeover c => s.modStore fun d => { d with ret := d.ret.put (retKey 0 c) (gSet 25 4 (octOf c) (d.ret.get 0 (retKey 0 c))) }
  | .clear kind unit => s.modStore fun d => { d with
      ret := d.ret.put (retKey kind unit) (gSet 24 1 1 (d.ret.get 0 (retKey kind unit))) }
  | .dtc c t => s.modDiv c fun d => { d with dtc := t, dtcNew := none }
  | .tdc i v trim temp t => (s.modCore i fun c => { c with set := some v, trim := trim }).modCal fun k => { k with
      meas := k.meas.put i (t, temp) }
  | .cal c => c.load s
  | .bench pay ofs trims _ =>
    let s := forAll ofs (fun e s => (s.withOfs e.1 e.2).modCore e.1 fun c => { c with anchor := none }) s
    let s := forAll trims (fun e s => s.modCore e.1 fun c => { c with trim := e.2, anchor := none }) s
    s.modStore fun d => { d with anchor := bits (pay.headD 0) 0 32 }
  | .age _ | .copy .. | .boot .. | .image .. | .remap .. | .refresh | .first => s

/-- The items that a DELTA of this change carries. -/
def StoreReq.keys (r : StoreReq) : List (Nat × List Nat) := match r.ch with
  | .params dev own =>
    let stays (id : Nat) : Bool := (pFind id).any (·.persists)
    [(1, (dev.filter (stays ·.1)).map (devKey ·.1) ++ (own.filter fun e => stays (e.1 % 65536)).map (·.1))]
  | .last n _ => [(2, [n])]
  | .lastApply _ a b => [(1, (upTo (b + 1 - a)).map fun j => ownKey (a + j) P.chLast)]
  | .retune k _ _ | .restore k _ _ => [(1, [devKey (P.mlNi + 16 * k), devKey (P.mlNf + 16 * k)])]
  | .epoch .. => [(1, [devKey P.hashSeed]), (10, [0])]
  | .grat es => [(3, es.map (·.1))]
  | .retire kind unit _ | .clear kind unit => [(9, [retKey kind unit])]
  | .takeover c => [(9, [retKey 0 c])]
  | .dtc c _ => [(4, (upTo 6).map (6 * c + ·))]
  | .tdc i .. => [(5, [i])]
  | .cal c =>
    let cores := (c.sets.map (·.1) ++ c.anchors.map (·.1) ++ c.trims.map (·.1)).eraseDups
    [(4, c.dtcs.flatMap fun e => (upTo 6).map (6 * e.1 + ·)), (5, cores), (6, if c.skew.isSome then [c.unit] else []),
     (7, c.welts.map fun e => e.1 - weltCore 0), (8, c.dlls.map (·.1))].filter fun e => e.2 ≠ []
  | .bench _ ofs trims _ => [(5, (ofs.map (·.1) ++ trims.map (·.1)).eraseDups), (11, [0])]
  | .age _ | .copy .. | .boot .. | .image .. | .remap .. | .refresh | .first => []

/-- CAUSE of a journal commit (R609). -/
def Change.cause : Change → Nat
  | .params .. | .last .. | .lastApply .. | .retune .. | .restore .. => 1
  | .dtc .. | .tdc .. | .cal _ => 2
  | .bench .. => 3
  | .grat _ => 4
  | .retire .. | .takeover _ => 5
  | .clear .. => 6
  | .epoch .. => 7
  | .first => 9
  | .age _ | .copy .. | .boot .. | .image .. | .remap .. | .refresh => 8

end Sys2Proof.Machine
end

