-- ==== Sys2Proof/Machine/StoreOps.lean ====
section
/-!
DEFINITION. Operations of the Datum store: how a queued store becomes records, erasing and replacing sectors, loading at wake
(R506, R595 to R608, R613 to R624).
-/
namespace Sys2Proof.Machine

/-! ## From a store to a record -/

/-- What the first store of the queue does next. -/
inductive Plan where
  | fail (e : Err)
  /-- it waits for erased space (R608, R617) -/
  | wait
  | go (p : Prog)

/-- The other bank, which a SET goes to (R606). -/
def StoreS.otherBank (d : StoreS) : Nat := if d.base = 0 then 0 else 1 - d.bank
/-- Largest payload of a SET, and the erased words kept ready for one (R607, R608). -/
def dsSetMax : Nat := 80000

/-- A commit is due as a SET before its own size counts (R606, R632). -/
def State.setDue (s : State) : Bool := s.store.base = 0 || s.store.due || s.pv P.dsDeltaMax ≤ s.store.chain

/-- A journal commit: SET or DELTA under R605 to R608. -/
def State.journalPlan (r : StoreReq) (s : State) : Plan :=
  let d := s.store
  let t := r.load s
  let set := t.setPay r.ch.cause
  let dl := t.deltaPay r.ch.cause r.keys
  let own : Bool := r.ch = .refresh ∨ r.ch = .first
  let here := d.room (regBank d.bank)
  let there := d.room (regBank d.otherBank)
  let gen := 1 + max d.gen d.hi
  let delta : Prog := ⟨0x11, gen, regBank d.bank, here.1, dl, (s.now / secU), d.att, d.stage⟩
  if dsSetMax < set.length then .fail .dsFull
  else if own ∨ s.setDue ∨ here.2 < dl.length + 3 + 4096 then
    if dsSetMax + 3 ≤ there.2 then .go ⟨0x10, gen, regBank d.otherBank, there.1, set, (s.now / secU), d.att, d.stage⟩
    else if !own ∧ d.base ≠ 0 ∧ dl.length + 3 ≤ here.2 then .go delta else .wait
  else .go delta

/-- The newest valid boot header: copy and record (R624). -/
def StoreS.bootRec (d : StoreS) : Option (Nat × Found) :=
  ((upTo 2).filterMap fun c => ((d.records (regBoot c)).find? fun f => f.valid ∧ f.ty = 1 ∧ f.pos = 0).map (c, ·)).foldl
    (fun b x => match b with
      | some y => if y.2.gen < x.2.gen then some x else some y
      | none => some x) none

/-- DEVICE_ID that a new boot header holds: the device's own, but that of the header in force while the store is foreign, so that only
MNT_DS_FORMAT ends that (R616). -/
def StoreS.bootId (d : StoreS) : Nat := match d.bootRec with
  | some (_, f) => if d.foreign then bits (f.pay.headD 0) 64 64 else Config.deviceId.toNat
  | none => Config.deviceId.toNat

/-- Payload of a boot header (R624). -/
def bootPay (id pref a b : Nat) (remap : Tab Nat) : List Nat :=
  (fld 0 1 pref + fld 2 2 a + fld 4 2 b + 2 ^ 64 * id) ::
    wordsOf ((remap.length + 3) / 4) (packB 32 (remap.map fun e => fld 0 16 e.1 + fld 16 16 e.2))

/-- A boot header goes into the copy that does not hold the newest one (R624). -/
def StoreS.bootPlan (pref a b secs : Nat) (m : Tab Nat) (d : StoreS) : Plan :=
  .go ⟨1, d.bootGen + 1, regBoot (1 - d.bootCopy), 0, bootPay d.bootId pref a b m, secs, d.att, d.stage⟩

/-- A record appended to the ageing log or the Benchmark region (R617, R619). In the log, one that would reach the last erased sector waits for the
erase of the sector after it. -/
def StoreS.append (ty gen r secs : Nat) (pay : List Nat) (full : Plan) (d : StoreS) : Plan :=
  let x := d.room r
  if pay.length + 3 ≤ x.2 ∧ (r ≠ regAge ∨ (x.1 + pay.length + 2) / 226 < (x.1 + x.2 - 1) / 226) then .go ⟨ty, gen, r, x.1, pay, secs, d.att, d.stage⟩ else full

/-- The record that store `r` writes next. -/
def State.plan (r : StoreReq) (s : State) : Plan :=
  let d := s.store
  match r.ch with
  | .age pay => d.append 0x20 s.gw.seq regAge (s.now / secU) pay .wait
  | .copy ty gen pay => if ty = 0x21 then d.append ty gen regAge (s.now / secU) pay .wait else d.append ty gen regBench (s.now / secU) pay (.fail .bmFull)
  | .boot p a b => d.bootPlan p a b (s.now / secU) d.remap
  | .remap l p => d.bootPlan d.pref d.stA d.stB (s.now / secU) (d.remap.put l p)
  | .image k pay =>
    if d.stage = 0 then
      if pay.length + 3 ≤ regCap (regSlot k) then .go ⟨0x40, 0, regSlot k, 0, pay, (s.now / secU), d.att, 0⟩ else .fail .image
    else .wait
  | .bench pay .. =>
    if d.stage = 0 then
      let w := gSet 64 48 (1 + max d.gen d.hi) (pay.headD 0)
      d.append 0x30 (bits w 0 32) regBench (s.now / secU) (w :: pay.drop 1) (.fail .bmFull)
    else s.journalPlan r
  | _ => s.journalPlan r

/-- Stores that a foreign store refuses (R616): all but boot headers and images. -/
def Change.inStore : Change → Bool
  | .boot .. | .image .. | .remap .. => false
  | _ => true

/-- The sectors of region `r` are erased, each counted (R624, R627, R638). -/
def State.eraseRegion (r : Nat) (s : State) : State :=
  (s.modStore fun d => (upTo (regSize r)).foldl (fun d i => d.erase (d.phys (r + i)) (r + i)) d).modGw fun g => { g with g7 := g.g7 + regSize r }

/-- Reserve sectors that remain. -/
def State.reserve (s : State) : Nat := s.mem.sectors - regRes - s.store.resv

/-- A sector is to be replaced by a reserve sector: that is erased and marked, and a boot header with the remap entry is stored
before the queue goes on; with none left DS_RESERVE_OUT is posted. -/
def State.replaceSector (l : Nat) (s : State) : State :=
  if s.reserve = 0 ∨ 7216 ≤ s.store.remap.length then
    if s.store.resOut then s else (s.modStore fun d => { d with resOut := true }).post ⟨0x8602, 0, 0, 0⟩
  else
    let p := regRes + s.store.resv
    let r : StoreReq := ⟨none, 0, .remap l p, 0, [], s.now / secU, s.store.gen⟩
    let s := s.modGw fun g => { g with g7 := g.g7 + 1 }
    s.modStore fun d =>
      let k := if d.prog.isSome ∨ d.stage ≠ 0 ∨ d.att ≠ 0 then 1 else 0
      { d.erase p l with resv := d.resv + 1, q := d.q.take k ++ r :: d.q.drop k }

/-- Logical sector `l` has reached 0.9 × DS_ENDURANCE (R595). -/
def State.worn (s : State) (l : Nat) : Bool := 9 * s.pv P.dsEndurance ≤ 10 * (s.store.eraseN (s.store.phys l))
/-- The first worn sector of a firmware slot, while a replacement is possible. -/
def State.wornSlot (s : State) (k : Nat) : Option Nat :=
  if s.reserve = 0 ∨ 7216 ≤ s.store.remap.length then none
  else ((upTo 1024).map (regSlot k + ·)).find? fun l => s.worn l

/-- A record takes the port, which leaves continuous-read mode (R802); a boot header copy or an image slot is erased before it. -/
def State.beginRec (p : Prog) (s : State) : State :=
  let s := if p.ty = 1 ∨ p.ty = 0x40 then s.eraseRegion p.reg else s
  (s.modMem fun m => { m with cont := false }).modStore fun d =>
    { d with prog := some p, wait := false, hi := if p.ty = 0x10 ∨ p.ty = 0x11 then max d.hi p.gen else d.hi }

/-- A program or an erase is in progress on the memory port, or a MEM test: the next one waits for its end (R810, R835). -/
def State.portBusy (s : State) : Bool := s.store.prog.isSome || s.store.erasing.isSome || s.tests.any (·.kind = 4)

/-- `n` record slots of region `r` are read from slot `i` on: each UNCORRECTABLE and each CORRECTED word among them is counted (R591). -/
def State.readSpan (r i n : Nat) (s : State) : State :=
  let d := s.store
  let l := (d.words r).filter fun e => i ≤ e.1 ∧ e.1 < i + n
  (s.modStore fun d => { d with ue := satAdd 32 (l.filter (·.2.cls = .bad)).length d.ue }).eccCorr
    ((l.filter (·.2.cls = .corrected)).map fun e => d.wordNo r e.1)
/-- A whole region is read. -/
def State.readRegion (r : Nat) (s : State) : State := s.readSpan r 0 (regCap r)

/-- A worn sector that is replaced before an image is written over it (R595). -/
def StoreReq.worn (r : StoreReq) (s : State) : Option Nat := match r.ch with
  | .image k _ => if s.store.stage = 0 ∧ s.store.att = 0 then s.wornSlot k else none
  | _ => none

/-- The first store begins, waits, or fails at once (R506, R601, R603, R616, R799, R835). -/
def State.storeStart (s : State) : State × Option Err := match s.store.q with
  | [] => (s, none)
  | r :: _ =>
    if s.portBusy then (s, none)
    else if !s.mem.usable then (s, some .store)
    else if s.store.foreign ∧ r.ch.inStore then (s, some .foreign)
    else if s.pwr.brace ∨ !s.pwr.holdup then
      (if s.store.wait then s else (s.modStore fun d => { d with wait := true }).devEv 11, none)
    else match r.worn s, s.plan r with
    | some l, _ => (s.replaceSector l, none)
    | none, .fail e => (s, some e)
    | none, .wait => (s.modStore fun d => { d with wait := false }, none)
    | none, .go p => (s.beginRec p, none)

/-- The words of the record in progress reach the flash: the first `n` of them, the last of these as `c` (R503, R600, R809). -/
def State.programRec (n : Nat) (c : WCls) (s : State) : State := match s.store.prog with
  | none => s
  | some p =>
    let ws := ((recWords p.ty p.gen p.secs p.pay).take n).map fun w => (⟨BitVec.ofNat 128 w, .clean⟩ : FWord)
    let ws := ws.take (n - 1) ++ (ws.drop (n - 1)).map fun w => { w with cls := c }
    s.modStore fun d => d.program p.reg p.pos ws

/-- The record in progress stays uncommitted after `n` words (R503, R501, R623). -/
def State.cutRec (n : Nat) (c : WCls) (s : State) : State := match s.store.prog with
  | none => s
  | some p => (s.programRec (min n (p.pay.length + 2)) c).modStore fun d => { d with prog := none }

/-- The words of physical sector `p` that are listed read UNCORRECTABLE. -/
def StoreS.ruin (p : Nat) (d : StoreS) : StoreS :=
  { d with flash := d.flash.map fun e => if e.1 / 227 = p then (e.1, { e.2 with cls := .bad }) else e }

/-- The erase in progress is abandoned: its sector reads neither ERASED nor CLEAN, and it is erased again after the next WAKE (R505, R623). -/
def State.cutErase (s : State) : State := match s.store.erasing with
  | some (p, l, r, _) => s.modStore fun d => { (d.ruin p) with erasing := none, redo := some (p, l, r) }
  | none => s

/-- What a reset leaves of the record and the erase in progress (R500, R623): how much of a record has reached the flash is free. -/
def State.cutReset (s : State) : State :=
  (s.cutRec (Config.cutWords s.byp.clk) (if Config.cutBad s.byp.clk then .bad else .clean)).cutErase

/-! ## Sectors (R595, R608, R617) -/

/-- The sector to erase ahead in the ageing ring, or in the bank that the next SET goes to. -/
def State.eraseTarget (ring : Bool) (s : State) : Option Nat :=
  let d := s.store
  let r := if ring then regAge else regBank d.otherBank
  let x := d.room r
  if (if ring then 452 else dsSetMax + 3) ≤ x.2 then none
  else if x.1 + x.2 < regCap r then some (r + (x.1 + x.2) / 226)
  else match d.words r with
  | e :: _ => some (r + e.1 / 226)
  | [] => none

/-! ## Loading at wake (R483 step 1, R613 to R616, R641) -/

/-- Nominal temperature of factory point `p`, for the grade (R150). -/
def factoryTemp (p : Nat) : Int := 128 * (if Config.gradeE then [-40, 15, 60, 105] else [0, 30, 60, 95]).getD p 0
/-- Factory Graticule entry `e` (R148, R150): SRC 0, the nominal temperature of its point, reserved bits 0. -/
def factoryEnt (e : Nat) : W128 :=
  BitVec.ofNat 128 (gSet 92 4 0 (gSet 76 16 (toBits 16 (factoryTemp (e % 4))) ((Config.factoryGrat e).toNat % 2 ^ 99)))

/-- Factory values and reset values of what the journal holds (R13, R588, R613). -/
def State.factory (s : State) : State :=
  let s := s.modPar fun p => { p with
    dev := p.dev.filter fun e => !(pFind e.1).any (·.persists), own := [], lasts := [] }
  let s := forAll (upTo 532) (fun i s => s.modCore i fun c => { c with
    set := none, anchor := none, weltOfs := [], trim := if i < 528 ∧ i % 2 = 1 then (Config.factoryTrim i).toNat else c.trim }) s
  let s := forAll (upTo 9) (fun k s => s.modDll k fun d => { d with range := (Config.factoryRange k).toNat }) s
  let s := forAll (upTo 264) (fun c s => (s.modDiv c fun d => { d with dtc := [], dtcNew := none }).modChan c fun x => { x with
    handSkew := 0, hsTemp := 0 }) s
  let s := s.modGrat fun g => { g with ent := (upTo 2048).map fun e => (e, factoryEnt e) }
  let s := s.modCal fun k => { k with meas := [] }
  s.modStore fun d => { d with ret := [], epoch := 0, anchor := 0, gen := 0, base := 0, chain := 0, due := false, hi := 0, lost := false }

/-- The boot header in force is read: PREF, slot states, remap entries, FOREIGN (R616, R624). -/
def State.loadBoot (s : State) : State := match s.store.bootRec with
  | none => s.modStore fun d => { d with bootGen := 0, bootCopy := 1, stA := 0, stB := 0, pref := 0, foreign := false, remap := [], resv := 0 }
  | some (c, f) =>
    let w := f.pay.headD 0
    let m : Tab Nat := ((f.pay.drop 1).flatMap fun x => (upTo 4).map fun j => (bits x (32 * j) 16, bits x (32 * j + 16) 16)).filter
      fun e => e.2 ≠ 0
    s.modStore fun d => { d with
      bootGen := f.gen, bootCopy := c, pref := bits w 0 1, stA := bits w 2 2, stB := bits w 4 2
      foreign := bits w 64 64 ≠ Config.deviceId.toNat, remap := m
      resv := (m.map fun e => e.2 + 1 - regRes).foldl max 0 }

/-- The DELTAs that follow generation `g` of the SET of generation `b`, in order. -/
def chainOf (b : Nat) (l : List Found) : Nat → Nat → List Found
  | 0, _ => []
  | n + 1, g => match l.find? fun f => f.valid ∧ f.ty = 0x11 ∧ bits (f.pay.headD 0) 0 48 = b ∧ bits (f.pay.headD 0) 48 48 = g with
    | some f => f :: chainOf b l n f.gen
    | none => []

/-- The SET in force: the valid one of the largest generation, the first of equals (R613). -/
def bestSet (l : List (Nat × Found)) : Option (Nat × Found) :=
  (l.filter fun x => x.2.valid ∧ x.2.ty = 0x10).foldl (fun b x => match b with
    | some y => if y.2.gen < x.2.gen then some x else some y
    | none => some x) none

/-- Selection of the generation in force, and its contents (R605, R613, R614). -/
def State.loadJournal (s : State) : State :=
  let d := s.store
  let a := d.records (regBank 0)
  let b := d.records (regBank 1)
  let all := a.map ((0 : Nat), ·) ++ b.map ((1 : Nat), ·)
  let gens := ((all.filter (·.2.head)).map (·.2.gen)) ++
    ((d.records regBench).filter fun f => f.valid ∧ (f.ty = 0x30 ∨ f.ty = 0x31)).map fun f => bits (f.pay.headD 0) 64 48
  let torn := (all.filter fun x => !x.2.valid).length
  let s := s.modStore fun d => { d with hi := gens.foldl max 0, torn := satAdd 32 torn d.torn }
  let s := ((s.readRegion (regBank 0)).readRegion (regBank 1)).readRegion regBench
  match bestSet all with
  | none =>
    if all = [] then s.commit none 0 .first
    else (s.modStore fun d => { d with lost := true }).post ⟨0x8601, 0, 0, 0⟩
  | some (k, f) =>
    let ds := chainOf f.gen (if k = 0 then a else b) (all.length) f.gen
    let s := s.loadPay true f.pay
    let s := forAll ds (fun x s => s.loadPay false x.pay) s
    let due : Bool := f.corr || ds.any (·.corr)
    let s := s.modStore fun d => { d with
      gen := (ds.getLast?.map (·.gen)).getD f.gen, base := f.gen, bank := k, chain := ds.length, due := due
      dup := d.dup + (all.filter fun x => x.2.valid ∧ x.2.ty = 0x10 ∧ x.2.gen = f.gen).length - 1 }
    if due then s.commit none 0 .refresh else s

/-- The flash of a store that reads wholly ERASED is given a boot header with the device's own DEVICE_ID (R616). -/
def State.formatBoot (s : State) : State :=
  s.modStore fun d => d.program (regBoot 0) 0
    ((recWords 1 (d.bootGen + 1) 0 (bootPay Config.deviceId.toNat d.pref d.stA d.stB [])).map fun w => ⟨BitVec.ofNat 128 w, .clean⟩)

/-- WAKE step 1 of the Datum store (R483, R616, R799). -/
def State.dsLoad (s : State) : State :=
  let s := s.factory.modStore fun d => { d with loaded := true }
  if !s.mem.usable then s else
  let s := if s.store.flash = [] then s.formatBoot else s
  let s := ((s.readRegion (regBoot 0)).readRegion (regBoot 1)).loadBoot
  if s.store.foreign then s else s.loadJournal

/-- The Benchmark records by number, each with its payload and whether a copy serves it (R620, R622). -/
def State.benches (s : State) : List (Nat × List Nat × Bool) :=
  let l := (s.store.records regBench).filter (·.valid)
  let o := (l.filter (·.ty = 0x30)).map fun f => (f.gen, f.pay, false)
  let c := (l.filter fun f => f.ty = 0x31 ∧ !(o.any (·.1 = f.gen))).map fun f => (f.gen, f.pay, true)
  sortKey (fun x : Nat × List Nat × Bool => x.1) (o ++ c)

/-- The valid AGE records, a copy standing in for an original no longer valid (R617, R622). -/
def State.ages (s : State) : List (Nat × List Nat) :=
  let l := (s.store.records regAge).filter (·.valid)
  let o := (l.filter (·.ty = 0x20)).map fun f => (f.gen, f.pay)
  let c := (l.filter fun f => f.ty = 0x21 ∧ !(o.any (·.1 = f.gen))).map fun f => (f.gen, f.pay)
  sortKey (fun x : Nat × List Nat => x.1) (o ++ c)

end Sys2Proof.Machine
end

