-- ==== Sys2Proof/Machine/Entries.lean ====
section
/-!
DEFINITION. The words of a CSM entry, of the timescale record and of CH_FAST as software reads them (R245, R271, R391 to R393).
-/
namespace Sys2Proof.Machine

/-- W0 to W2 as a channel entry and the timescale record hold them. -/
def entryW0 (st i2 rx slot txm rxs : Nat) (lease : Option Nat) (eng home hslot upd : Nat) : Nat :=
  fld 0 4 st + fld 4 1 i2 + fld 5 1 rx + fld 6 2 slot + fld 8 12 txm + fld 20 12 rxs + fld 32 1 (bit lease.isSome)
    + fld 33 5 (lease.getD eng) + fld 38 5 home + fld 43 3 hslot + fld 64 64 upd
def entryW1 (kp ki ki2 tUpd : Nat) : Nat := fld 0 22 kp + fld 32 22 ki + fld 64 22 ki2 + fld 96 32 tUpd
def entryW2 (i1 i2 : Int) : Nat := toBits 64 i1 + 2 ^ 64 * toBits 64 i2

/-- Word `w` of the CSM entry of channel index `c` (R271, R392), as last written back (R395). -/
def State.entryWord (s : State) (c w : Nat) : Nat :=
  let x := s.chan c
  let b := s.written c
  let v := b.srv
  match w with
  | 0 => entryW0 b.st.ctorIdx (bit x.i2En) (bit x.servoRx) v.slot (v.seqTxm.getD 0) (v.seqRx.getD 0) x.lease x.leaseEng
      ((s.homeOf c).getD 0) (if c < 256 then hashSlot s.arr.seed c else 0) v.updN
  | 1 => entryW1 x.kp x.ki x.ki2 x.tUpd
  | 2 => entryW2 v.i1 v.i2
  | 3 => dtfOf (roundDiv (v.anchor.getD 0) (2 ^ 78)).toNat
  | 4 => v.tCmd % 2 ^ 128
  | 5 => dtfOf v.tLast + fld 96 20 v.dec
  | 6 => dtfOf x.monLast + fld 96 32 x.monN
  | 7 => tivWord v.e + fld 64 16 v.lkRun + fld 80 8 v.outRun + fld 88 16 x.cnt.qdrop + fld 104 16 x.cnt.away
  | 14 => fld 0 32 (min b.outlier x.cnt.outlier) + fld 32 32 (min b.clamp x.cnt.clamp) + fld 64 32 x.cnt.stale + fld 96 32 x.cnt.miss
  | 15 => fld 0 32 x.cnt.rate + fld 32 32 x.cnt.txm + fld 64 32 x.cnt.dll + fld 96 32 x.cnt.hold
  | _ => b.trav.words.getD (w - 8) 0

/-- Word `w` of the timescale record (R393), as last written back; the SEQ of its upstream stands in SEQ_RX in the boundary role, whose records are
RX records. -/
def State.tsEntryWord (s : State) (w : Nat) : Nat :=
  let t := s.ts
  let b := s.tsWritten
  let v := b.srv
  let q := v.seqLast.getD 0
  let rx : Bool := t.role = .bnd
  match w with
  | 0 => entryW0 b.st.ctorIdx (bit s.store.loaded) (bit rx) 0 (if rx then 0 else q) (if rx then q else 0) t.lease t.leaseEng (s.homeTs.getD 0) 0 v.updN
  | 1 => entryW1 t.kp t.ki t.ki2 1000
  | 2 => entryW2 v.i1 v.i2
  | 3 => toBits 64 t.hoA + 2 ^ 64 * toBits 64 t.hoD
  | 4 => fld 0 64 t.sigA + fld 64 64 t.sigD
  | 5 => dtfOf v.tLast
  | 6 => tivWord v.oReal
  | 7 => dtfOf t.tEntry + fld 96 32 (t.drift % 2 ^ 32).toNat
  | 14 | 15 => 0
  | _ => b.trav.words.getD (w - 8) 0

/-- The fast word of channel index `c` in the CH_FAST layout (R245). -/
def State.chFast (s : State) (c : Nat) : Nat :=
  let x := s.chan c
  let d := (s.chan (s.divOf c)).div
  fld 0 4 x.st.ctorIdx + fld 4 1 (bit x.lock) + fld 5 1 (bit (x.trav.res ≠ 0)) + fld 6 2 x.div.sel + fld 8 2 d.act
    + fld 10 1 (bit d.ramp.isSome) + fld 11 1 (bit d.clamp) + fld 16 8 x.div.hopN + fld 24 4 x.div.hopLost

end Sys2Proof.Machine
end

