-- ==== Sys2Proof/Machine/ChannelCmds.lean ====
section
/-!
DEFINITION. Channel commands and events: starting and stopping, silence, restarts, faults, handover, retirement and its clearing
(R441 to R472).
-/
namespace Sys2Proof.Machine

/-! ## Start, stop, status -/

/-- CH_START (R441 to R443, R465): for a retired channel whose takeover is not complete it resumes the takeover. -/
def State.opChStart (h : Hdr) (c : Nat) (s : State) : State :=
  if c < 256 ∧ s.takeable c ∧ s.startErr c = some .mode ∧ (s.pwr.mode = .service ∨ s.pwr.mode = .holdover) ∧ s.quadEn (quadOf (octOf c))
    ∧ s.ts.st ≠ .stopped then
    if (s.oct (octOf c)).loop.st ≠ .locked then s.reply h 0x0301 (.fail .loop) else
    match (s.oct (octOf c)).welt with
    | .free => if (s.chan (weltOf (octOf c))).st = .test then s.reply h 0x0301 (.conflict (holderOf 5 (weltOf (octOf c))))
        else (s.takeoverClaim c).reply h 0x0301 .ok
    | .loan d => s.reply h 0x0301 (.conflict (holderOf 3 d))
    | .takeover d | .standing d => s.reply h 0x0301 (.conflict (holderOf 2 d))
    | .retired => s.reply h 0x0301 (.fail .mode)
  else match s.chStart c with
  | (some e, s) => s.reply h 0x0301 (.fail e)
  | (none, s) => s.reply h 0x0301 .ok

def execChStart (h : Hdr) (c : Ch) (s : State) : Host.Outcome State Fault Refusal := .next (s.viaDoor h 0x0301 (·.opChStart h c))

/-- CH_STOP (R443): any but RETIRED to IDLE, its run ended with STOPPED and its welt freed; a retired channel's standing welt stops. -/
def State.chStop (c : Nat) (s : State) : State :=
  let k := octOf c
  let s := s.calAbortIf 0x12 (·.ofChan c)
  let s := match (s.oct k).hand with
    | some h => if h.ch = c then s.weltRelease k else s
    | none => s
  let s := (s.enterIdle c).testAbortIf (·.ofChan c)
  s.takeoverRetry k

def State.opChStop (h : Hdr) (c : Nat) (s : State) : State :=
  let i := s.actOf c
  if (s.chan i).st = .retired then s.reply h 0x0302 (.fail .mode) else (s.chStop i).reply h 0x0302 .ok

def execChStop (h : Hdr) (c : Ch) (s : State) : Host.Outcome State Fault Refusal := .next (s.viaDoor h 0x0302 (·.opChStop h c))

/-- Counters 0x1899 to 0x18A6 four to a word (R786, CH_STATUS). -/
def ChCnt.words (k : ChCnt) : List Nat := (upTo 4).map fun i => packB 32 ((upTo 4).map fun j => k.n.get 0 (4 * i + j))

/-- CH_STATUS (R461). -/
def State.opChStatus (h : Hdr) (c : Nat) (s : State) : State :=
  let x := s.chan c
  let w : Nat := if s.hasWelt c then octOf c else 0xF
  let nospare : Bool := x.st = .retired && !s.hasWelt c
  s.reply h 0x0307 ⟨.ok, 0, 0, 0, [fld 0 4 x.st.ctorIdx + fld 4 1 (bit x.lock) + fld 5 1 (bit (x.trav.res ≠ 0))
    + fld 6 1 (bit nospare) + fld 7 4 w, s.entryWord c 7, s.entryWord c 14, s.entryWord c 15] ++ x.cnt.words⟩

def execChStatus (h : Hdr) (c : Ch) (s : State) : Host.Outcome State Fault Refusal := .next (s.viaDoor h 0x0307 (·.opChStatus h c))

/-! ## Timers of a channel -/

/-- ACQ_SLOW (R443). -/
def execAcqSlow (c : Ch) (s : State) : Host.Outcome State Fault Refusal :=
  let x := s.chan c
  if x.st = .acquire ∧ !x.slow then .next ((s.modChan c fun x => { x with slow := true }).chEvent c 3 0) else .next s

/-- The last steering record of channel `c` lies less than LOSS_N nominal update intervals back (R443). -/
def State.heard (s : State) (c : Nat) : Bool :=
  let t := (s.chan c).srv.tLast
  decide (t ≤ s.now) && decide (s.now < t + s.up c P.lossN * (s.chan c).tUpd * 2 ^ 18)

/-- CHANNEL_SILENCE (R279, R443). -/
def execChannelSilence (c : Ch) (s : State) : Host.Outcome State Fault Refusal :=
  let x := s.chan c
  if (x.st = .acquire ∨ x.st = .track) ∧ !s.heard c then .next (s.enterHoldover ((s.homeOf c).getD cobLane) x.noSlew 1 c) else .next s

/-- DIVIDER_RESTART_DONE (R443, R450, R458): in a mode or with a loop that lets no channel acquire, the channel waits for them. -/
def execDividerRestartDone (c : Ch) (s : State) : Host.Outcome State Fault Refusal :=
  let x := s.chan c
  if x.st = .bypass ∧ x.cause = .restart then
    if (s.oct (octOf c)).loop.st ≠ .locked then .next (s.modChan c fun x => { x with cause := .loop })
    else if s.pwr.mode = .survey then .next (s.modChan c fun x => { x with cause := .survey })
    else if s.pwr.mode = .bypass ∨ s.pwr.mode = .wake then .next (s.modChan c fun x => { x with cause := .device })
    else .next (s.enterAcquire true c)
  else .next s

/-! ## Faults -/

/-- DRIVER (R448, R459): the driver goes to high impedance and the channel index retires. -/
def execDriver (c : Ch) (s : State) : Host.Outcome State Fault Refusal :=
  let x := s.chan c
  if x.hiz ∨ !s.domOn (pdQ (quadOf (octOf c))) then .next s else
  let s := (s.fault kindChan c 9).modChan c fun x => { x with hiz := true }
  let s := if x.st = .retired then s.switchTo c .none else s.retireChan 9 c
  .next (s.switchTo c .none)

/-- The job of channel `c` in an engine is discarded and its lease released without a write-back (R451). -/
def State.discardJob (c : Nat) (s : State) : State := match (s.chan c).lease with
  | none => s
  | some e =>
    let keep (j : Option Job) : Option Job := j.filter fun j => j.chan ≠ some c
    let s := s.modEng e fun g => { g with
      fetch := keep g.fetch, ready := keep g.ready, cache := g.cache.filter (· ≠ c), settle := g.settle.filter (!·.isChan c) }
    s.modChan c fun x => { x with lease := none }

/-- CSM_UE (R448, R451): a second one within 1 h is permanent. -/
def execCsmUe (c : Ch) (s : State) : Host.Outcome State Fault Refusal :=
  if !s.domOn pdEng then .next s else
  let t := s.now
  let l := ((s.chan c).ueT.filter fun x => x ≤ t && t - x ≤ 3600 * secU) ++ [t]
  let s := ((s.discardJob c).modChan c fun x => { x with ueT := l }).count c 2
  let s := s.fault kindChan c 6
  .next (if 2 ≤ l.length then s.retireChan 6 c else s)

/-- CSM_REBUILD (R451): the words that `mask` names are rebuilt and a running channel acquires again. -/
def execCsmRebuild (c : Ch) (mask : BitVec 16) (s : State) : Host.Outcome State Fault Refusal :=
  if mask = 0 ∨ !s.domOn pdEng then .next s else
  let n := ((upTo 16).filter mask.toNat.testBit).length
  let s := (s.rebuildEntry c mask.toNat).post ⟨0x8301, fld 0 16 c + fld 16 8 7 + fld 24 8 n, 0, mask.toNat⟩
  match (s.chan c).st with
  | .acquire | .track | .holdover => .next (s.enterAcquire true c)
  | _ => .next s

/-! ## Handover and return (R453 to R458) -/

/-- Grid position of index `c` at its last record, from its anchor: divider periods, and the boundary count they end at (R401). -/
def State.regrid (c : Nat) (s : State) : State := s.modChan c fun x => match x.srv.anchor with
  | some a =>
    let n := reentryN a x.trav.pReal x.srv.tCmd x.srv.tLast
    let m : Int := x.srv.dec * 2 ^ x.div.k
    { x with srv := { x.srv with pos := n * 2 ^ x.div.k, bnd := (m - n * 2 ^ x.div.k).toNat, chk := none, segs := [], chkRun := 0 } }
  | none => x

/-- A loan has ended with the channel back on its divider (step 7). -/
def State.handEnd (k : Nat) (s : State) : State := match (s.oct k).hand with
  | some h =>
    let s := (s.modChan h.ch fun x => { x with st := .track, out := .own, sw := none, trav := { x.trav with pWelt := false } }).regrid h.ch
    ((s.restartIn h.ch).weltRelease k).takeoverRetry k
  | none => s

/-- Step 4: the channel is ON_WELT, and the welt holds the channel's P_REAL on the channel's grid as its own target (R279, R454). -/
def State.handSwitch (k : Nat) (h : Hand) (s : State) : State :=
  let x := s.chan h.ch
  let s := s.modOct k fun o => { o with hand := some { h with step := 5, agree := 0, entered := false, skew := x.handSkew } }
  let s := s.modChan h.ch fun x => { x with st := .onWelt, out := .welt, sw := none, trav := { x.trav with pWelt := true, slew := 0 } }
  let s := s.modChan (weltOf k) fun w => { w with
    st := .track, lock := x.lock
    trav := { Trav.init with pCmd := x.trav.pReal, pReal := x.trav.pReal, nomAcc := w.trav.nomAcc, nomRem := w.trav.nomRem, debt := w.trav.debt }
    srv := { w.srv with anchor := x.srv.anchor.map fun a => ((a : Int) + x.handSkew * 2 ^ 78).toNat } }
  ((s.regrid (weltOf k)).restartIn h.ch).count h.ch 6

/-- The first selected sub-step of a welt run from sub-step `p` on; 5 is the check (R569). -/
def CalRun.partFrom (r : CalRun) (p : Nat) : Nat :=
  ((upTo 5).find? fun q => p ≤ q ∧ 1 ≤ q ∧ r.parts.testBit (q - 1)).getD 5

/-- Octants that a run uses. -/
def CalRun.octs (r : CalRun) : List Nat := if r.kind = 2 then (upTo 8).filter r.unit.testBit else [octOf r.unit]
/-- A run with its sub-step and candidates changed. -/
def State.setRun (r : CalRun) (s : State) : State := s.modCal fun c => { c with runs := c.runs.map fun y => if y.num = r.num then r else y }

/-- The fraction with which the held divider runs, and the records that the part takes. -/
def dtcFrac : Nat := 0x9E3779B97F4A7C15
def dtcRecs : Nat := 2 ^ 22

/-- N of the slot in force with the part's fraction, 2^-64. -/
def Div.dtcRatio (d : Div) : Nat := d.nom / 2 ^ 64 * 2 ^ 64 + dtcFrac

/-- The held divider of index `c` is loaded with that ratio and k = 0. -/
def State.dtcHold (c : Nat) (s : State) : State :=
  s.modDiv c fun d => { d.restart with slots := d.slots.put d.act ⟨d.dtcRatio, 0, true⟩, k := 0 }

/-- Sub-step `p` of run `r` begins: the dividers of a DTC part are held, those of one that is over are free (R562, R570). -/
def State.toPart (r : CalRun) (p : Nat) (s : State) : State :=
  let dtc : Bool := (r.kind = 0 && p = 3) || (r.kind = 2 && p = 4)
  let cs := if !dtc then [] else if r.kind = 0 then [r.unit] else r.octs.flatMap chansOf
  let s := s.dtcFree r
  let old := cs.map fun c => (c, (s.chan c).div.slot (s.chan c).div.act, (s.chan c).div.k)
  forAll cs (fun c s => s.dtcHold c) (s.setRun { r with part := p, tPart := s.now, oldDivs := old })

/-- HANDOVER_SWITCH (R454, R455, R571): in a common low phase once sixteen records agree; back only once the run's commit has stood. -/
def execHandoverSwitch (k : OctIx) (s : State) : Host.Outcome State Fault Refusal := match (s.oct k).hand with
  | some h =>
    if h.agree < 16 then .next s
    else if h.step = 3 then
      let s := s.handSwitch k h
      .next (match s.cal.runs.find? (fun r => r.kind = 0 ∧ r.unit = h.ch) with
        | some r => s.toPart r (r.partFrom 1)
        | none => s)
    else if h.step = 6 then
      match s.cal.runs.find? (fun r => r.kind = 0 ∧ r.unit = h.ch) with
      | none => .next (s.handEnd k)
      | some r =>
        if r.stored then .next s
        else
          let stale : Bool := 1280 < ((s.chan h.ch).hsTemp - (s.oct k).temp).natAbs
          let s := (s.handEnd k).modCal fun c => { c with lastWelt := c.lastWelt.put r.unit s.now, due := c.due.filter (· ≠ r.unit) }
          .next (s.calEnd r stale 0 s.store.gen)
    else .next s
  | none => .next s

/-- HAND_T (R454, R457): before the switch the run ends with ALIGN; a return fails, the third time for good. -/
def execHandT (k : OctIx) (s : State) : Host.Outcome State Fault Refusal := match (s.oct k).hand with
  | some h =>
    if h.step ≤ 3 then
      .next ((s.calAbortIf 0x0E fun r => r.kind = 0 ∧ r.unit = h.ch).takeoverRetry k)
    else if h.step = 6 then
      let s := forAll (s.cal.runs.filter fun r => r.kind = 0 ∧ r.unit = h.ch) (fun r s => s.calEnd r false 0x10 0) s
      let s := s.modOct k fun o => { o with hand := some { h with step := 8, agree := 0, fails := h.fails + 1 } }
      let s := s.count h.ch 7
      .next (if 2 ≤ h.fails then (s.fault kindChan h.ch 7).retireChan 7 h.ch else s)
    else .next s
  | none => .next s

/-- RETURN_RETRY (R457). -/
def execReturnRetry (k : OctIx) (s : State) : Host.Outcome State Fault Refusal := match (s.oct k).hand with
  | some h => if h.step = 8 then .next (s.beginReturn k) else .next s
  | none => .next s

/-- WELT_FAULT (R448, R458, R462): a permanent fault of the welt of octant `k`. -/
def execWeltFault (k : OctIx) (fault : Fin 12) (s : State) : Host.Outcome State Fault Refusal :=
  if (s.chan (weltOf k)).st = .retired ∨ (s.oct k).welt = .retired then .next s
  else .next ((s.fault kindChan (weltOf k) fault).retireChan fault (weltOf k))

/-- RETIREMENT (R448, R459): a permanent fault of user channel `c`. -/
def execRetirement (c : Fin 256) (fault : Fin 12) (s : State) : Host.Outcome State Fault Refusal :=
  if (s.chan c).st = .retired ∨ ((s.chan c).st = .bypass ∧ (s.chan c).cause = .fault) then .next s
  else .next ((s.fault kindChan c fault).retireChan fault c)

/-- WELT_TAKEOVER (R460): the welt is in TRACK, the retired channel's crossbar switches to it, and the record is completed. -/
def execWeltTakeover (k : OctIx) (s : State) : Host.Outcome State Fault Refusal := match (s.oct k).welt with
  | .takeover c =>
    if (s.chan (weltOf k)).st = .track ∧ (s.chan c).goal ≠ .welt then
      .next ((s.switchTo c .welt).commit none 0 (.takeover c))
    else .next s
  | _ => .next s

/-- What a committed retirement of KIND `kind` does to its unit (R167, R429, R459 to R463). -/
def State.retired (kind unit fault : Nat) (s : State) : State :=
  if kind = kindChan then
    let s := s.bndGone unit
    if unit ≥ 256 then
      ((s.modChan unit fun x => { x with st := .retired }).switchTo unit .none).modOct (unit - 256) fun o => { o with welt := .retired }
    else if (s.chan unit).st = .onWelt then
      let k := octOf unit
      let s := s.modChan (weltOf k) fun w => { w with trav := { (s.chan unit).trav with pWelt := false } }
      let s := (s.modChan unit fun x => { x with st := .retired }).modOct k fun o => { o with welt := .standing unit, hand := none }
      s.commit none 0 (.takeover unit)
    else
      let idle : Bool := (s.chan unit).st = .idle
      let s := s.modChan unit fun x => { x with st := .retired, cause := if idle then .none else .fault }
      if idle ∨ fault = 9 then s else s.takeoverClaim unit
  else if kind = kindStamp then s.modOct unit fun o => { o with noStamp := true }
  else s

/-- A retirement is cleared: the unit returns to service (R443, R464). -/
def State.cleared (kind unit : Nat) (s : State) : State :=
  if kind = kindChan then
    if unit ≥ 256 then
      (s.modChan unit fun x => { x with st := .idle, cause := .none, hiz := false }).modOct (unit - 256) fun o => { o with welt := .free }
    else
      let k := octOf unit
      let s := match (s.oct k).welt with
        | .standing c | .takeover c => if c = unit then
            ((s.modOct k fun o => { o with welt := .free, hand := none }).enterIdle (weltOf k)).restartIn unit else s
        | _ => s
      (s.modChan unit fun x => { x with hiz := false }).enterIdle unit
  else if kind = kindEng then s.modEng unit fun g => { g with retired := false, parT := [] }
  else if kind = kindLoop then
    s.modLoop unit fun l => { l with st := .off }
  else if kind = kindStamp then (s.modOct unit fun o => { o with noStamp := false }).modDll unit fun d => { d with fail := false }
  else s.modDll 8 fun d => { d with fail := false }

/-- MNT_CLEAR_RETIRE (R464): in SURVEY, after the unit's SURVEY check. -/
def State.opMntClearRetire (h : Hdr) (kind unit : Nat) (s : State) : State :=
  if s.pwr.mode ≠ .survey then s.reply h 0x0A11 (.fail .mode)
  else if !s.cal.checked.contains (retKey kind unit) ∨ !s.isRetired kind unit then s.reply h 0x0A11 (.fail .check)
  else s.commit (some h) 0x0A11 (.clear kind unit)

def execMntClearRetire (h : Hdr) (kind : Fin 16) (unit : Fin 4096) (s : State) : Host.Outcome State Fault Refusal :=
  .next (s.viaDoor h 0x0A11 (·.opMntClearRetire h kind unit))

end Sys2Proof.Machine
end

