-- ==== Sys2Proof/Machine/Fits.lean ====
section
/-!
DEFINITION. The least-squares fit of the wear gauges in exact integers over fixed-point regressors, its crossing dates, and the Arrhenius factor
(R637, R644, R645). DESIGN CHOICE (log 82): logarithms and exponentials are carried to 2^-64, days of the regressor t to 2^-64.
-/
namespace Sys2Proof.Machine

/-! ## Fixed point -/

/-- The integer square root of a number below 4^`n`. -/
def isqrt : Nat → Nat → Nat
  | 0, _ => 0
  | n + 1, x => let r := 2 * isqrt n (x / 4); if (r + 1) * (r + 1) ≤ x then r + 1 else r

/-- atanh of `z`, both in 2^-80, for z from 0 to 1/3. -/
def atanhFix (z : Nat) : Nat :=
  ((upTo 28).foldl (fun (p : Nat × Nat) i => (p.1 + p.2 / (2 * i + 1), p.2 * (z * z / 2 ^ 80) / 2 ^ 80)) (0, z)).1

/-- ln(a/b) in 2^-64, for a from b on: with a/b = 2^k·m, ln m = 2·atanh((m − 1)/(m + 1)) and ln 2 = 2·atanh(1/3). -/
def lnFix (a b : Nat) : Nat :=
  let k := (a / max 1 b).log2
  let c := b * 2 ^ k
  2 * (atanhFix ((a - c) * 2 ^ 80 / max 1 (a + c)) + k * atanhFix (2 ^ 80 / 3)) / 2 ^ 16

/-- exp of `x`, both in 2^-80: the series at x/256, squared eight times. -/
def expFix (x : Int) : Int :=
  let y := x / 256
  let e := ((upTo 16).foldl (fun (p : Int × Int) i => (p.1 + p.2, p.2 * y / ((i + 1 : Nat) : Int) / 2 ^ 80)) (0, 2 ^ 80)).1
  (upTo 8).foldl (fun e _ => e * e / 2 ^ 80) e

/-- What one minute at junction temperature `t`, 2^-7 °C, adds to the G8 counter, in 2^-24 h: 60 s × AF (R637), with
1/328.15 K − 1/T_j = 10,000·(t − 7,040)/(32,815·(100·t + 3,496,320)). -/
def ageStep (t : Int) : Nat :=
  (roundDiv (expFix (81230000 * (t - 7040) * 2 ^ 80 / (32815 * (100 * t + 3496320))) * 2 ^ 24) (60 * 2 ^ 80)).toNat

/-! ## The fit (R644) -/

/-- Regressors 1, t and ln(1 + t/τ) in 2^-64, t in days, at `t` seconds since the series start; the last one stays away from a linear fit. -/
structure Regr where
  x : Int
  z : Int
deriving DecidableEq, Repr

def one64 : Int := 2 ^ 64
def regr (lin : Bool) (tau t : Nat) : Regr := ⟨roundDiv ((t : Int) * 2 ^ 64) 86400, if lin then 0 else lnFix (tau + t) tau⟩

/-- A fit: samples, the determinant of the normal equations, the numerators of p0, p1, p2, the adjugate, and the residual sum of squares, its numerator
over the determinant. -/
structure Fit where
  lin : Bool
  tau : Nat
  n : Nat
  det : Int
  n0 : Int
  n1 : Int
  n2 : Int
  a00 : Int
  a01 : Int
  a02 : Int
  a11 : Int
  a12 : Int
  a22 : Int
  rss : Int
deriving DecidableEq, Repr

def sumBy {α : Type} (f : α → Int) (l : List α) : Int := l.foldl (fun a x => a + f x) 0

/-- The ordinary least-squares fit of samples (seconds since the series start, value), with p2 = 0 in a linear one; none where it is singular. -/
def fitOf (lin : Bool) (tau : Nat) (l : List (Nat × Int)) : Option Fit :=
  let r : List (Regr × Int) := l.map fun e => (regr lin tau e.1, e.2)
  let a := sumBy (fun _ => one64 * one64) r
  let b := sumBy (fun e => one64 * e.1.x) r
  let c := sumBy (fun e => one64 * e.1.z) r
  let d := sumBy (fun e => e.1.x * e.1.x) r
  let e := sumBy (fun e => e.1.x * e.1.z) r
  let f := if lin then 1 else sumBy (fun e => e.1.z * e.1.z) r
  let r0 := sumBy (fun e => one64 * e.2) r
  let r1 := sumBy (fun e => e.1.x * e.2) r
  let r2 := sumBy (fun e => e.1.z * e.2) r
  let a00 := d * f - e * e
  let a01 := c * e - b * f
  let a02 := b * e - c * d
  let a11 := a * f - c * c
  let a12 := b * c - a * e
  let a22 := a * d - b * b
  let det := a * a00 + b * a01 + c * a02
  let n0 := a00 * r0 + a01 * r1 + a02 * r2
  let n1 := a01 * r0 + a11 * r1 + a12 * r2
  let n2 := a02 * r0 + a12 * r1 + a22 * r2
  if det ≤ 0 then none
  else some ⟨lin, tau, l.length, det, n0, n1, n2, a00, a01, a02, a11, a12, a22,
    max 0 (det * sumBy (fun e => e.2 * e.2) r - (n0 * r0 + n1 * r1 + n2 * r2))⟩

/-- The fit of R644: linear where the full one is singular, that is, with fewer than three distinct times. -/
def fitSeries (tau : Nat) (l : List (Nat × Int)) : Option Fit :=
  fitOf ((l.map (·.1)).eraseDups.length < 3) tau l

/-- The quadratic form of the adjugate. -/
def Fit.quad (f : Fit) (u x z : Int) : Int :=
  f.a00 * u * u + 2 * f.a01 * u * x + 2 * f.a02 * u * z + f.a11 * x * x + 2 * f.a12 * x * z + f.a22 * z * z

/-- y at `t` seconds since the series start, over the determinant. -/
def Fit.num (f : Fit) (t : Nat) : Int := let v := regr f.lin f.tau t; f.n0 * one64 + f.n1 * v.x + f.n2 * v.z

/-! ## Dates (R645) -/

/-- A threshold: numerator and denominator of x, and the direction of wear. -/
structure Limit where
  num : Int
  den : Nat
  up : Bool
deriving DecidableEq, Repr

/-- A value lies at or beyond the threshold. -/
def Limit.beyond (x : Limit) (v : Int) : Bool := if x.up then x.num ≤ v * x.den else v * x.den ≤ x.num

/-- What y at `t` lacks to the threshold, over determinant and denominator. -/
def Fit.gap (f : Fit) (x : Limit) (t : Nat) : Int :=
  let g := x.num * f.det - f.num t * x.den
  if x.up then g else -g

/-- y(t) + 1.645 × sig(t) × w lies at or beyond the threshold: 1.645² × sig² reaches the square of what is lacking. -/
def Fit.early (f : Fit) (x : Limit) (t : Nat) : Bool :=
  let g := f.gap x t
  let v := regr f.lin f.tau t
  decide (g ≤ 0) || decide (1000000 * ((f.n : Int) - 3) * (g * g) ≤ 1645 * 1645 * f.rss * (f.det + f.quad one64 v.x v.z) * (x.den * x.den))

/-- The first whole day from today, the newest sample's time rounded up, to 18,262 days later at which `p` holds, in days after that sample's whole day; 0xFFFF_FFFF where there is none. -/
def firstDay (t : Nat) (p : Nat → Bool) : Nat :=
  let today := (t + 86399) / 86400
  match (upTo 18263).find? fun j => p (86400 * (today + j)) with
  | some j => today + j - t / 86400
  | none => 0xFFFFFFFF

/-- Central and early date of a threshold, for a newest sample `v` at `t` seconds (R645). -/
def Fit.datesOf (f : Fit) (x : Limit) (t : Nat) (v : Int) : List Nat :=
  if x.beyond v then [0, 0] else [firstDay t fun d => decide (f.gap x d ≤ 0), firstDay t fun d => f.early x d]

/-- y of the fit is negative today. -/
def Fit.negToday (f : Fit) (t : Nat) : Bool := decide (f.num (86400 * ((t + 86399) / 86400)) < 0)

/-! ## The slope (R647, HO_MODEL) -/

/-- The slope at `t` seconds, and its standard uncertainty, for a value in RATE64: 2^-80 per second. -/
def Fit.slope (f : Fit) (t : Nat) : Int × Nat :=
  let z : Int := if f.lin then 0 else roundDiv (one64 * 86400) (max 1 (f.tau + t))
  let var := f.rss * f.quad 0 one64 z * 2 ^ 32 / (f.det * f.det * ((f.n : Int) - 3))
  (roundDiv ((f.n1 * one64 + f.n2 * z) * 2 ^ 16) (f.det.toNat * 86400), isqrt 128 var.toNat / 86400)

end Sys2Proof.Machine
end

