-- ==== Sys2Proof/Machine/RegWords.lean ====
section
/-!
DEFINITION. What software reads: the words of the direct and of the indirect space, without side effects (R188, R433, R512, R535 to R538,
R566, R689, R713, R721, R735 to R763).
-/
namespace Sys2Proof.Machine

/-! ## Direct space (R735) -/

/-- The register that a direct address reaches (R692, R693, R735). -/
def canon (a : Nat) : Nat :=
  let w := a % 1024
  if w < 0x040 then w % 32 else if w < 0x080 then 0x040 + w % 8 else if w < 0x0C0 then 0x080 + w % 8
  else if w < 0x100 then 0x0C0 + w % 4 else if w < 0x140 then 0x100 + w % 8 else if w < 0x180 then 0x140 + w % 4
  else if w < 0x200 then w else if w < 0x300 then w / 32 * 32 + w % 16 else w

/-- A temperature, sign extended (R77). -/
def tempWord (t : Int) : Nat := toBits 32 t
/-- The AGE_HOURS counter, 2^-4 h. -/
def State.ageHours (s : State) : Nat := s.gw.eq / 2 ^ 20 % 2 ^ 40

def dllWord (d : Dll) : Nat :=
  fld 0 10 d.ctrl + fld 10 3 d.range + fld 13 1 (bit d.lock) + fld 14 1 (bit (d.ctrl < 128 || 895 < d.ctrl))
/-- XQ_OCT_STAT or XQ_DEV_STAT of four queues (R535, R536). -/
def xqWord (l : List Xq) : Nat := packB 1 (l.map fun q => bit q.present) + 16 * packB 1 (l.map fun q => bit q.resync)

/-- ENG_STATUS of engine `e` (R433). -/
def State.engWord (s : State) (e : Nat) : Nat :=
  let g := s.eng e
  fld 0 8 (min 255 (s.backlog e)) + fld 8 5 g.q.length
    + fld 13 4 (min 15 ((chansOf (e / 4)).filter fun c => s.homeOf c = some e).length)
    + fld 17 1 (bit (s.idleEng e)) + fld 18 1 (bit g.retired) + fld 19 7 (s.shed e)

/-- Register `o` of octant summary `k` as its island has it (R188, R433, R535, R566, R760). -/
def State.octWord (s : State) (k o : Nat) : Nat :=
  let x := s.oct k
  let l := x.loop
  match o with
  | 0 => fld 0 16 (toBits 16 l.tune) + fld 16 6 l.band + fld 22 3 l.st.ctorIdx + fld 25 1 (bit l.byp) + fld 26 2 l.attempt + fld 28 3 l.cause
  | 1 => l.ev.word.toNat
  | 2 => fld 0 8 l.ni + fld 8 24 l.nf
  | 3 => fld 0 16 l.lossN + fld 16 8 l.forcedN + fld 24 8 l.excurN
  | 4 | 5 | 6 | 7 => s.engWord (4 * k + (o - 4))
  | 8 => x.engEv.word.toNat + fld 13 3 x.engNo
  | 9 => xqWord [x.xStamp, x.xFcw, { x.xHop with present := x.xHop.present && x.xSel.present, resync := x.xHop.resync || x.xSel.resync }, x.xReq]
  | 10 => x.xStamp.drop
  | 11 => x.xFcw.drop
  | 12 => fld 0 16 x.xHop.drop + fld 16 16 x.xSel.drop
  | 13 => dllWord (s.dll k)
  | 14 => tempWord x.temp
  | _ => packB 1 ((upTo 32).map fun p => bit (s.chan (32 * k + p)).lock)

/-- TS_STATUS (R738); SNAP completes in the command that sets it. -/
def State.tsStatus (s : State) : Nat :=
  let t := s.ts
  fld 0 3 t.st.ctorIdx + fld 3 2 t.role.ctorIdx + fld 5 1 (bit t.armed.isSome) + fld 6 1 (bit t.forced) + fld 7 1 (bit (t.trav.res ≠ 0))
    + fld 8 1 (bit t.srv.clamp) + fld 9 1 (bit t.dValid)
def State.refStatus (s : State) : Nat :=
  let r := s.ref
  fld 0 1 (bit r.qual) + fld 1 1 (bit r.lock) + fld 2 2 r.det.ctorIdx + fld 4 1 (bit r.frac) + fld 5 1 (bit s.pps.qual)
    + fld 6 1 (bit r.sclkOk)
/-- EXT_STATUS.ACTIVE (R135, R738). -/
def State.extActive (s : State) : Bool :=
  s.pv P.extMode = 1 && (s.ts.st = .acquiring || s.ts.st = .locked) && s.ref.qual && s.pwr.mode ≠ .survey

/-- FW_STATUS (R738). -/
def State.fwStatus (s : State) : Nat :=
  let i := s.img.getD ⟨0, false, false, 0, 0, 0⟩
  fld 0 1 i.slot + fld 1 1 (bit i.trial) + fld 2 2 s.store.stA + fld 4 2 s.store.stB + fld 6 1 (bit s.pwr.rom) + fld 7 1 (bit i.sram)
    + fld 8 7 s.otp.ar + fld 16 8 i.sv
/-- A DS field: 0 until WAKE has loaded it (R14). -/
def State.ds (s : State) (n : Nat) : Nat := if s.store.loaded then n else 0
/-- DS_STATUS (R738). -/
def State.dsStatus (s : State) : Nat :=
  let d := s.store
  fld 0 1 (bit (d.prog.isSome || d.erasing.isSome)) + fld 1 1 (s.ds (bit d.foreign)) + fld 2 1 (bit d.lost) + fld 3 1 (bit d.wait)
    + fld 4 1 (s.ds (bit s.setDue)) + fld 5 1 d.bank + fld 6 1 (bit d.resOut)
    + fld 8 8 (min 255 (d.q.length - (if d.prog.isSome then 1 else 0))) + fld 16 16 (s.ds (min 65535 s.reserve))

/-- INT_SUM (R749). -/
def State.intSum (s : State) : Nat :=
  let on (r : RsReg) : Nat := bit (r.ev ≠ 0)
  on s.pwr.ev + 2 * on s.reg.ev + 4 * on s.ts.ev + 8 * on s.ref.ev
    + 2 ^ 8 * packB 1 ((upTo 8).map fun k => bit ((s.oct k).loop.ev.ev ≠ 0 || (s.oct k).engEv.ev ≠ 0))
    + 2 ^ 16 * packB 1 ((upTo 8).map fun n => bit ((s.door n).st = .reply))
/-- HINT_N is asserted (R750). -/
def State.hint (s : State) : Bool := s.reg.pin && (s.intSum &&& s.reg.mask) % 2 ^ 24 ≠ 0

/-- DOORn (R744). -/
def doorWord (d : Door) : Nat :=
  fld 0 1 (bit (d.st = .busy)) + fld 2 2 d.st.ctorIdx + fld 4 1 (bit d.err) + fld 8 16 d.tag.toNat + fld 24 8 d.doneN

/-- A 128-bit latch entry as its four words. -/
def wordPart (w : W128) (i : Nat) : Nat := bits w.toNat (32 * i) 32

/-- HP_ERR (R689), IND_CTL (R713), IND_ERR (R753), KEY_STATUS (R721). -/
def HpS.errWord (h : HpS) : Nat := fld 0 8 h.truncN + fld 8 8 h.shortN + fld 16 8 h.badopN + fld 24 8 h.busyN
def RegS.indCtl (r : RegS) : Nat := fld 0 16 r.stride + fld 16 1 (bit r.absent) + fld 17 1 (bit r.ue) + fld 18 1 (bit r.rowr)
def RegS.indErr (r : RegS) : Nat := fld 0 8 r.absentN + fld 8 8 r.ueN + fld 16 8 r.rowrN
def RegS.keyStatus (r : RegS) : Nat := fld 0 1 (bit r.armed) + fld 1 1 (bit r.lockout) + fld 2 3 r.run + fld 16 16 r.keyErr

/-- The live word of the register at canonical address `a`, its island present; IND_DATA apart. -/
def State.live (s : State) (a : Nat) : Nat :=
  if 0x300 ≤ a then s.chFast (a - 0x300)
  else if 0x200 ≤ a then s.octWord (a / 32 - 16) (a % 16)
  else if 0x180 ≤ a then wordPart (s.latchOf ((a - 0x180) / 4)) (a % 4)
  else match a with
  | 0x000 => 0xD75A8256
  | 0x001 => Config.silRev.toNat + 256 * bit Config.gradeE
  | 0x002 => (s.img.map (·.rel)).getD 0
  | 0x003 => Config.deviceId.toNat % 2 ^ 32
  | 0x004 => Config.deviceId.toNat / 2 ^ 32
  | 0x005 => 0x08411100
  | 0x006 => s.fwStatus
  | 0x007 => s.dsStatus
  | 0x008 => s.store.gen % 2 ^ 32
  | 0x009 => s.store.gen / 2 ^ 32 % 2 ^ 16
  | 0x00A => s.store.corr
  | 0x00B => s.store.ue
  | 0x00C => s.store.torn
  | 0x00D => tempWord ((upTo 8).foldl (fun a k => max a (s.oct k).temp) (-32768))
  | 0x00E => s.ageHours % 2 ^ 32
  | 0x00F => s.ageHours / 2 ^ 32
  | 0x010 => fld 0 3 s.pwr.mode.ctorIdx + fld 3 3 s.pwr.step + fld 6 2 s.pwr.bypCause + fld 8 1 (bit s.pwr.brace)
      + fld 9 1 (bit s.pwr.braceDone) + fld 10 1 (bit s.pwr.pfail) + fld 11 1 (bit s.pwr.holdup)
  | 0x011 => s.pwr.ev.word.toNat
  | 0x012 => fld 0 10 s.pwr.pwr + fld 10 10 s.pwr.iso + fld 20 8 s.pwr.rail
  | 0x013 => fld 0 3 s.pwr.cause + fld 8 8 s.pwr.cobN
  | 0x014 => xqWord [s.devq.xStamp, s.devq.xRate, s.devq.xCas, s.devq.xRep]
  | 0x015 => s.devq.xStamp.drop
  | 0x016 => s.devq.xRate.drop
  | 0x017 => s.devq.xCas.drop
  | 0x018 => s.devq.xRep.drop
  | 0x019 => dllWord (s.dll 8)
  | 0x01A => s.refStatus
  | 0x01B => s.tsStatus
  | 0x01C => s.pps.outlier
  | 0x01D => fld 0 24 s.ext.code + fld 24 1 (bit s.extActive)
  | 0x01E => s.ext.skip
  | 0x01F => fld 0 16 s.reg.beat + fld 16 1 (bit s.reg.ready)
  | 0x040 => fld 0 1 (bit s.hp.idle) + fld 2 1 (bit s.hp.strict)
  | 0x041 => s.hp.len
  | 0x042 => s.hp.ovr
  | 0x043 => s.hp.errWord
  | 0x044 => fld 0 2 s.hp.il + fld 2 2 s.hp.ol
  | 0x045 => s.hp.frames
  | 0x046 => s.hp.scratch.toNat
  | 0x047 => fld 0 8 s.hp.lastSt + fld 8 8 s.hp.lastTag + fld 16 4 s.hp.lastOp
  | 0x0C0 => s.intSum
  | 0x0C1 => fld 0 24 s.reg.mask + fld 31 1 (bit s.reg.pin)
  | 0x0C2 => s.ts.ev.word.toNat
  | 0x0C3 => s.ref.ev.word.toNat
  | 0x101 => s.reg.keyStatus
  | 0x102 => s.reg.ev.word.toNat + fld 16 16 s.reg.woAddr
  | 0x103 => s.otp.oem.getD 0
  | 0x104 | 0x105 | 0x106 | 0x107 => bits (s.otp.node.getD 0) (32 * (a - 0x104)) 32
  | 0x140 => s.reg.addr
  | 0x142 => s.reg.indCtl
  | 0x143 => s.reg.indErr
  | _ => if 0x080 ≤ a ∧ a < 0x088 then doorWord (s.door (a - 0x080)) else 0

/-! ## Words of islands that are absent (R538, R760) -/

/-- The domain whose island delivers the word at canonical address `a`, where a copy stands for it. -/
def wordDom (a : Nat) : Option Nat :=
  if a = 0x019 ∨ a = 0x01A ∨ a = 0x01B then some pdRef
  else if 0x300 ≤ a then some pdEng
  else if 0x200 ≤ a then match a % 32 with
    | 0 | 2 | 13 | 15 => some (pdQ ((a / 32 - 16) / 2))
    | 4 | 5 | 6 | 7 => some pdEng
    | _ => none
  else none

/-- Bits of a channel fast word that the register file holds: HOP_SEL, HOP_N and HOP_LOST. -/
def fastOwn : Nat := 0x0FFF00C0

/-- The word at canonical address `a` as software reads it: the last word delivered while its island is absent. -/
def State.shown (s : State) (a : Nat) : Nat := match wordDom a with
  | some d =>
    if s.domOn d then s.live a else match look s.reg.copy a with
    | some w => if 0x300 ≤ a then (w &&& (0xFFFFFFFF - fastOwn)) + (s.live a &&& fastOwn) else w
    | none => s.live a
  | none => s.live a

/-- Domain `d` is about to go: the words that its island delivers keep their last value. -/
def State.keepWords (d : Nat) (s : State) : State :=
  if !s.domOn d then s else
  let c := ((upTo 1024).filter fun a => canon a = a ∧ wordDom a = some d).map fun a => (a, s.live a)
  s.modReg fun r => { r with copy := c.foldl (fun t e => t.put e.1 e.2) r.copy }

/-! ## Indirect space (R762, R763) -/

/-- Words W0 to W15 of regression slot `i` (R377). -/
def State.rgWord (s : State) (i w : Nat) : Nat :=
  let x := s.rgSlot i
  match w with
  | 0 => fld 0 12 (if x.loaded then s.pv (P.rgSrc + 8 * i) else 0) + fld 12 2 (s.rgMode i) + fld 16 2 x.prio + fld 18 1 (bit x.internal)
      + fld 32 32 (s.rgNmin i) + fld 64 64 (s.rgFnom i)
  | 1 => dtfOf x.start
  | 2 => if x.loaded then fld 0 64 (s.rgGate i) else 0
  | 3 => x.sn
  | 4 => x.snn
  | 5 => x.st
  | 6 => x.snt
  | 7 => x.stt
  | 8 => fld 0 32 x.n + fld 32 64 x.nLast
  | 9 => dtfOf x.t0
  | 10 => dtfOf x.tLast
  | 15 => x.w15
  | _ => ((x.res.words i x.resN).getD (w - 11) 0).toNat

/-- Gauge and instance of instance number `i`. -/
def gwOf (i : Nat) : Nat × Nat :=
  if i < 8 then (1, i) else if i < 17 then (2, i - 8) else if i < 281 then (3, i - 17) else if i < 545 then (4, i - 281)
  else if i < 553 then (5, i - 545) else (i - 547, 0)
/-- A wear gauge word (R763). -/
def State.gwWord (s : State) (i : Nat) : Nat :=
  let x := s.gwi i
  fld 0 64 (toBits 64 x.val) + s.ds (fld 64 4 (gwOf i).1 + fld 68 12 (gwOf i).2) + fld 80 1 (bit x.valid)

/-- What an indirect word gives: 128 bits of the memory word, whether its island is absent, whether the word is uncorrectable. -/
structure IndRd where
  data : Nat
  absent : Bool
  ue : Bool
deriving DecidableEq, Repr

def IndRd.zero : IndRd := ⟨0, false, false⟩
def State.indFrom (s : State) (d w : Nat) : IndRd := if s.domOn d then ⟨w % 2 ^ 128, false, false⟩ else ⟨0, true, false⟩

/-- Slot `j` of sector `r` of the Datum window; an ERASED word reads all ones (R591, R630, R892). -/
def State.winWord (s : State) (r j : Nat) : IndRd :=
  let p := s.pv P.dsWinBase + r
  if !s.mem.usable ∨ s.mem.sectors ≤ p ∨ 227 ≤ j then .zero
  else match look s.store.flash (227 * p + j) with
    | some w => ⟨w.data.toNat, false, w.cls = .bad⟩
    | none => ⟨2 ^ 128 - 1, false, false⟩

/-- The 128-bit memory word that holds indirect address `a` (R79, R146, R377, R391, R630, R762); a DTC entry is a word of its own. -/
def State.indWord (s : State) (a : Nat) : IndRd :=
  if a < 0x4200 then s.indFrom pdEng (s.entryWord (a / 64) (a % 64 / 4))
  else if a < 0x4240 then s.indFrom pdEng (s.tsEntryWord (a % 64 / 4))
  else if 0x100000 ≤ a ∧ a < 0x102000 then s.indFrom pdEng (s.gratEnt ((a - 0x100000) / 4))
  else if 0x200000 ≤ a ∧ a < 0x2018C0 then
    let e := a - 0x200000
    let k := octOf (e / 24)
    if s.domOn (pdQ (quadOf k)) ∧ !(s.oct k).vclkRst then ⟨s.dtcEnt (e / 24) (e % 24) * 2 ^ (32 * (a % 4)), false, false⟩ else ⟨0, true, false⟩
  else if 0x300000 ≤ a ∧ a < 0x3008B0 then
    ⟨s.gwWord ((a - 0x300000) / 4), false, false⟩
  else if 0x400000 ≤ a ∧ a < 0x800000 then s.winWord ((a - 0x400000) / 1024) (a % 1024 / 4)
  else if 0x800000 ≤ a ∧ a < 0x800400 then s.indFrom pdEng (s.rgWord ((a - 0x800000) / 64) (a % 64 / 4))
  else .zero

/-- Indirect addresses that some chapter maps (R719). -/
def indMapped (a : Nat) : Bool :=
  a < 0x4240 || (0x100000 ≤ a && a < 0x102000) || (0x200000 ≤ a && a < 0x2018C0) || (0x300000 ≤ a && a < 0x3008B0)
    || (0x400000 ≤ a && a < 0x800400)

/-! ## Status identifiers (R786) -/

/-- Half `h` of a 128-bit word. -/
def halfOf (w h : Nat) : Nat := bits w (64 * h) 64

/-- A status identifier of the device space; none where undefined. -/
def State.devStatus (s : State) (id : Nat) : Option Nat :=
  let tdc (d o : Nat) : Option Nat := some (halfOf ((s.tdcWords (devCore d)).getD (o / 2) 0) (o % 2))
  if 0x0800 ≤ id ∧ id < 0x082C then tdc 0 (id - 0x0800)
  else if 0x082C ≤ id ∧ id < 0x0856 then tdc 1 (id - 0x082C)
  else if 0x0856 ≤ id ∧ id < 0x0882 then tdc 2 (id - 0x0856)
  else if 0x0882 ≤ id ∧ id < 0x08AE then tdc 3 (id - 0x0882)
  else if 0x0900 ≤ id ∧ id < 0x0980 then some (s.shown (0x200 + 32 * ((id - 0x0900) / 16) + id % 16))
  else if id = 0x0980 then some (fld 0 32 s.ring.drop + fld 32 32 s.mbox.evLost)
  else none

/-- A status identifier of channel index `c`; none where undefined. -/
def State.chStatus (s : State) (c id : Nat) : Option Nat :=
  let tdc (q o : Nat) : Option Nat := some (halfOf ((s.tdcWords (2 * c + q)).getD (o / 2) 0) (o % 2))
  if 0x1800 ≤ id ∧ id < 0x1820 then some (halfOf (s.entryWord c ((id - 0x1800) / 2)) (id % 2))
  else if 0x1820 ≤ id ∧ id < 0x1838 then some (s.ds (s.dtcEnt c (id - 0x1820)))
  else if 0x1838 ≤ id ∧ id < 0x1864 then tdc 0 (id - 0x1838)
  else if 0x1864 ≤ id ∧ id < 0x1890 then tdc 1 (id - 0x1864)
  else if 0x1890 ≤ id ∧ id < 0x1898 then
    let x := (s.chan c).div.slot ((id - 0x1890) / 2)
    some (if id % 2 = 0 then x.nom % 2 ^ 64 else fld 0 12 (x.nom / 2 ^ 64) + fld 12 5 x.k + fld 17 1 (bit x.valid))
  else if id = 0x1898 then some (s.chFast c)
  else if 0x1899 ≤ id ∧ id ≤ 0x18A6 then some ((s.chan c).cnt.n.get 0 (id - 0x1899))
  else none

end Sys2Proof.Machine
end

