-- ==== Sys2Proof/Machine/MemPort.lean ====
section
/-!
DEFINITION. The memory port: the requests that wait for it and the order in which it takes them, prefetch fills, window reads, and the clocks of a read
(R591, R677, R800 to R807, R810 to R812).
-/
namespace Sys2Proof.Machine

/-! ## Arbitration (R807, R810, R811) -/

/-- Row of a request in the table of R810; row 1 is the word in transfer at a brace, which is part of `State.cutRec`. -/
def MemReq.row : MemReq → Nat
  | .fill .. => 2
  | .window => 3
  | .store | .erase _ => 4

/-- A request joins those that wait. -/
def State.ask (r : MemReq) (s : State) : State :=
  s.modMem fun m => if m.waiting.contains r then m else { m with waiting := m.waiting ++ [r] }
/-- Requests of a row that wait, oldest first. -/
def MemS.inRow (n : Nat) (m : MemS) : List MemReq := m.waiting.filter (·.row = n)

/-- Fills and window reads are served: between page programs, outside brace until BRACE_DONE, and outside an erase that cannot be suspended. -/
def State.readsOpen (s : State) : Bool :=
  (!s.pwr.brace || s.pwr.braceDone) && (s.store.erasing.isNone || Config.eraseSuspend)

/-! ## Prefetch (R800 to R804) -/

/-- The four stored words of code line `n` of the image in slot `k`, ERASED words as all ones; none beyond the slot. -/
def State.codeLine (s : State) (k n : Nat) : Option (List FWord) :=
  if regCap (regSlot k) < 4 * n + 6 then none
  else some ((upTo 4).map fun j => (look s.store.flash (s.store.wordNo (regSlot k) (2 + 4 * n + j))).getD ⟨BitVec.allOnes 128, .clean⟩)

/-- A line of 64 code bytes is filled: its words are checked and counted, and a whole line replaces the oldest of 64. -/
def State.fillLine (k n : Nat) (s : State) : State := match s.codeLine k n with
  | none => s
  | some ws =>
    let bad := (ws.filter (·.cls = .bad)).length
    let s := s.modStore fun d => { d with ue := satAdd 32 bad d.ue }
    let no (j : Nat) : Nat := s.store.wordNo (regSlot k) (2 + 4 * n + j)
    let s := s.eccCorr (((upTo 4).filter fun j => (ws.map (·.cls))[j]? = some .corrected).map no)
    s.modMem fun m =>
      let l := m.lines.filter (·.1 ≠ n)
      if bad ≠ 0 then { m with lines := l, busErr := true }
      else { m with lines := l.drop (l.length - 63) ++ [(n, ws.map (·.data))] }

/-! ## Window reads (R591, R630, R802, R805) -/

/-- Part `i` of a 128-bit word. -/
def partOf (w i : Nat) : Nat := bits w (32 * i) 32

/-- A stored word read through the Datum window is counted by its class, and the port enters continuous-read mode; a read that the port does not
serve yet counts nothing. -/
def State.winRead (a : Nat) (s : State) : State :=
  let p := s.pv P.dsWinBase + (a - 0x400000) / 1024
  let j := a % 1024 / 4
  if a < 0x400000 ∨ 0x800000 ≤ a ∨ !s.mem.usable ∨ s.mem.sectors ≤ p ∨ 227 ≤ j ∨ !s.readsOpen then s else
  let s := s.modMem fun m => { m with cont := true }
  match look s.store.flash (227 * p + j) with
  | some ⟨_, .corrected⟩ => s.eccCorr [227 * p + j]
  | some ⟨_, .bad⟩ => s.modStore fun d => { d with ue := satAdd 32 1 d.ue }
  | _ => s

/-- The indirect addresses of the pending read of the host port, from IND_ADDR on, which stands until the data have been delivered (R676). -/
def State.pendingAddrs (s : State) : List Nat :=
  (upTo ((s.hp.nOut + 31) / 32)).map fun i => (s.reg.addr + i * s.reg.stride) % 2 ^ 24

/-- The pending reply once an uncorrectable word, or none, has been read: STATUS ECC, or OK (R630). -/
def HpS.eccReply (ue : Bool) (h : HpS) : HpS :=
  let st := bits h.reply.toNat 24 8
  if st = 0 ∨ st = 6 then { h with reply := BitVec.ofNat 32 (h.reply.toNat % 2 ^ 24 + (if ue then 6 else 0) * 2 ^ 24) } else h

/-- The window read that waited is served: its data enter the pending reply and the indirect read latch. -/
def State.readWindow (s : State) : State :=
  let l := s.pendingAddrs
  let s := forAll ((l.map fun a => a - a % 4).eraseDups) (fun a s => s.winRead a) s
  let s := s.modReg fun r => { r with rdLatch := r.rdLatch.map fun x => (x.1, (s.indWord x.1).data % 2 ^ 128, (s.indWord x.1).ue) }
  s.modHp fun h => { (h.eccReply (l.any fun a => (s.indWord a).ue)) with
    wait := false, out := l.map fun a => BitVec.ofNat 32 (partOf (s.indWord a).data (a % 4)) }

/-- A request of row 2 or 3 is served. -/
def State.serveReq (r : MemReq) (s : State) : State := match r with
  | .fill k n => ((s.fillLine k n).fillLine k (n + 1)).modMem fun m => { m with cont := true }
  | .window => s.readWindow
  | .store | .erase _ => s

/-- The fills that wait are served, then the window reads, oldest first (R810). -/
def State.servePort (s : State) : State :=
  if !s.readsOpen then s else
  let l := s.mem.inRow 2 ++ s.mem.inRow 3
  forAll l State.serveReq (s.modMem fun m => { m with waiting := m.inRow 4 })

/-! ## Clocks of a read (R803, R806) -/

/-- MSCK cycles of a command that reads `w` stored words. -/
def State.readClocks (s : State) (w : Nat) : Nat := (if s.mem.cont then 0 else 8) + 8 + Config.modeClocks + Config.waitStates + 36 * w + 2
/-- MSCK cycles of a fill. -/
def State.fillClocks (s : State) : Nat := s.readClocks 4

end Sys2Proof.Machine
end

