-- ==== Sys2Proof/Machine/GaugeOps.lean ====
section
/-!
DEFINITION. The wear gauges: their instances, the AGE payload, values and thresholds, loading at wake (R633 to R658, R763).
-/
namespace Sys2Proof.Machine

/-! ## Instances (R633, R763) -/

/-- Instance number of a gauge and instance. -/
def gwIx (g n : Nat) : Option Nat := (upTo 556).find? fun i => gwOf i = (g, n)
/-- GW_SERIES of instance `i`: the key of a channel's own value, or a device identifier (R786). -/
def gwKey (i : Nat) : Nat ⊕ Nat :=
  if i < 17 then .inr (P.gwSeries + i) else if i < 281 then .inl (ownKey (i - 17) P.gwSeries3)
  else if i < 545 then .inl (ownKey (i - 281) P.gwSeries4) else .inr (P.gwSeries + i - 528)
def State.gwSeries (s : State) (i : Nat) : Nat := match gwKey i with
  | .inl k => s.cp (k / 65536) (k % 65536)
  | .inr id => s.pv id

/-! ## Fields of a DTC entry (R206, R207) -/

def dBase (w : Nat) : Nat := bits w 0 11
def dGain (w : Nat) : Nat := bits w 11 12
def dCells (w : Nat) : Nat := bits w 23 5
def dValid (w : Nat) : Bool := w.testBit 28

/-- Segment of r16. -/
def dtcSeg (r16 : Nat) : Nat := 24 * r16 / 2 ^ 16
/-- Fine code at position `u` of a segment with entry `ent` (R204). -/
def dtcFine (ent u : Nat) : Nat := dBase ent + (dGain ent * u + 2 ^ 15) / 2 ^ 16
/-- Coarse cells and fine code with which an edge is launched, from the segment's table entry (R204, R206). -/
def dtcLaunch (ent r16 : Nat) : Nat × Nat := (dCells ent, dtcFine ent (24 * r16 % 2 ^ 16))

/-- DTC headroom of channel index `c` in 16 fine codes, rounded (R633 G3, R75). -/
def State.headroom (s : State) (c : Nat) : Nat :=
  let m := (upTo 24).foldl (fun (a : Int) i =>
    let e := s.dtcEnt c i
    min a (min (dBase e : Int) (2047 - dBase e - dGain e))) 2047
  (roundDiv m 16).toNat

/-! ## The point in use (R633 G1, R640) -/

/-- The VALID point of a band nearest temperature `t`, the lower of two equally near. -/
def nearValid (t : Int) (pts : List Nat) : Option Nat :=
  (upTo pts.length).foldl (fun b p =>
    if !gValid (pts.getD p 0) then b else match b with
    | some q => if (gTemp (pts.getD p 0) - t).natAbs < (gTemp (pts.getD q 0) - t).natAbs then some p else b
    | none => some p) none

/-- The VCO target of loop `k` under its feedback parameters. -/
def State.feedVco (s : State) (k : Nat) : Nat := vcoOf (s.pv (P.mlNi + 16 * k)) (s.pv (P.mlNf + 16 * k))

/-- G1 of loop `k` from TUNE, band, point and octant temperature. -/
def State.g1Value (s : State) (k : Nat) (tune : Int) (band point : Nat) (t : Int) : Int :=
  let ft := s.feedVco k
  match s.predict k band ft t, s.predict k band ft (gTemp (s.gratEnt (gratIx k band point))) with
  | some a, some b => tune - (a - b)
  | _, _ => tune

/-! ## The AGE payload (R634, R640) -/

/-- Context in which a sample of instance `i` belongs to its series (R643). -/
def State.gwCtx (s : State) (i : Nat) : List Nat :=
  let g := gwOf i
  match g.1 with
  | 1 => [(s.oct g.2).loop.band]
  | 2 => [(s.dll g.2).range]
  | 3 => (upTo 24).map fun j => dCells (s.dtcEnt g.2 j)
  | 4 => [s.cp g.2 P.drvSwing]
  | _ => []
/-- The series of instance `i` restarts at its next sample (R643). -/
def State.gwStale (s : State) (i : Nat) : Bool := let x := s.gwi i; x.restart || (x.n ≠ 0 && x.ctx ≠ s.gwCtx i)
/-- First sample of the series as measured, where the series goes on. -/
def State.gwFirst (s : State) (i : Nat) : Option Int := if s.gwStale i then none else (s.gwi i).first

/-- Median of three. -/
def med3 (a b c : Int) : Int := max (min a b) (min (max a b) c)

/-- Channels whose driver current is sampled (R634). -/
def ChState.driven : ChState → Bool
  | .acquire | .track | .onWelt => true
  | _ => false

/-- Driver current of channel index `c` relative to the first of its series, in 1 %, saturating at ±31; −32 invalid. -/
def State.g4Word (s : State) (m : GwMeas) (c : Nat) : Int :=
  match m.drv.find? (fun e => e.1.val = c) with
  | some (_, x) =>
    if !(s.chan c).st.driven ∨ !s.domOn (pdQ (quadOf (octOf c))) then -32 else
    let f := (s.gwFirst (281 + c)).getD x.toNat
    clampAbs 31 (roundDiv (100 * (x.toNat - f)) (max 1 f).toNat)
  | none => -32

def State.g3Word (s : State) (c : Nat) : Nat :=
  if (s.chan c).st = .retired ∨ !s.domOn (pdQ (quadOf (octOf c))) ∨ !((upTo 24).all fun j => dValid (s.dtcEnt c j)) then 63
  else min 62 (s.headroom c)

/-- Ring `r` as logged: its count over 1 ms of SCLK, corrected to 55 °C by +1,000 ppm per kelvin above it, relative to 1.000 GHz in 4 ppm (R635). -/
def State.ringWord (s : State) (m : GwMeas) (r : Nat) : Int :=
  let o := s.oct (r / 3)
  if !s.ref.sclkOk ∨ !s.domOn (pdQ (quadOf (r / 3))) ∨ o.loop.st = .retired then -32768 else
  match m.rings.find? (fun e => e.1.val = r) with
  | some (_, n) => clampAbs 32767 (roundDiv (n.toNat * (128000 + o.temp - 7040) - 1000000 * 128000) (4 * 128000))
  | none => -32768

/-- G6: the mean of the period's RATE results; none when the timescale was LOCKED for less than half of the period (R634). -/
def State.g6Value (s : State) (m : GwMeas) : Option Int :=
  if s.gw.slot.isNone ∨ s.gw.g6.2 = 0 ∨ 2 * m.locked.toNat < s.gw.secs - s.gw.last then none
  else some (roundDiv s.gw.g6.1 s.gw.g6.2)

/-- G7: the share of all sectors' endurance, 2^-16 (R633). -/
def State.g7Value (s : State) : Nat :=
  min 65535 (roundDiv ((s.gw.g7 * 2 ^ 16 : Nat) : Int) (max 1 (s.mem.sectors * s.pv P.dsEndurance))).toNat

/-- Loop `k` yields a sample. -/
def State.loopSampled (s : State) (k : Nat) : Bool := (s.oct k).loop.st = .locked && s.domOn (pdQ (quadOf k))
/-- DLL loop `d` yields a sample: locked, powered, its stamping unit not retired (R634). -/
def State.dllSampled (s : State) (d : Nat) : Bool :=
  (s.dll d).lock && (if d < 8 then s.domOn (pdQ (quadOf d)) && !(s.oct d).noStamp else s.domOn pdRef && !s.refRetired)
/-- Point of the band in use of loop `k`. -/
def State.pointOf (s : State) (k : Nat) : Nat := (nearValid (s.oct k).temp (s.gPts k (s.oct k).loop.band)).getD 0

/-- The 34 payload words of a log, but for VALID of word 0 (R640); what was measured stands in the state already. -/
def State.ageBody (s : State) (m : GwMeas) : List Nat :=
  let per (w n : Nat) (f : Nat → Nat) : Nat := packB w ((upTo n).map f)
  let tune (k : Nat) : Int := if s.loopSampled k then (s.oct k).loop.tune else -32768
  let rings := per 16 24 fun r => toBits 16 (s.ringWord m r)
  let chs := per 12 264 fun c => s.g3Word c + 64 * toBits 6 (s.g4Word m c)
  let tMax := (upTo 8).foldl (fun a k => max a (s.oct k).temp) s.gw.tMax
  [ dtfOf s.now + 2 ^ 104 + fld 112 16 (min 65535 s.reserve),
    per 16 8 fun k => toBits 16 (tune k),
    per 8 8 (fun k => (s.oct k).loop.band + 64 * s.pointOf k) + 2 ^ 64 * (match s.g6Value m with
      | some v => toBits 64 v
      | none => 2 ^ 63),
    per 10 9 (fun d => (s.dll d).ctrl) + 2 ^ 90 * per 3 9 (fun d => (s.dll d).range)
      + 2 ^ 117 * per 1 9 (fun d => bit (s.dllSampled d)) ]
  ++ wordsOf 3 rings ++
  [ per 16 8 fun k => toBits 16 (s.oct k).temp,
    fld 0 40 (s.gw.eq / 2 ^ 20) + fld 40 40 (s.gw.secs * 16 / 3600) + fld 80 16 (toBits 16 tMax) + fld 96 16 s.g7Value ]
  ++ wordsOf 25 chs

/-- Ring median of octant `k` in a payload, as measured. -/
def ageRing (p : List Nat) (k : Nat) : Option Int :=
  let x := joinWords ((p.drop 4).take 3)
  let r (j : Nat) : Int := ofBits 16 (bits x (16 * (3 * k + j)) 16)
  if r 0 = -32768 ∨ r 1 = -32768 ∨ r 2 = -32768 then none else some (med3 (r 0) (r 1) (r 2))

/-- The value of instance `i` in payload `p`; none where the sample is invalid. `first` is the series' first ring median. -/
def State.ageVal (s : State) (p : List Nat) (first : Option Int) (i : Nat) : Option Int :=
  let g := gwOf i
  let n := g.2
  let w (j : Nat) : Nat := p.getD j 0
  let ch : Nat := bits (joinWords (p.drop 9)) (12 * n) 12
  match g.1 with
  | 1 =>
    let t := ofBits 16 (bits (w 1) (16 * n) 16)
    if t = -32768 then none else
    some (s.g1Value n t (bits (w 2) (8 * n) 6) (bits (w 2) (8 * n + 6) 2) (ofBits 16 (bits (w 7) (16 * n) 16)))
  | 2 => if (w 3).testBit (117 + n) then some ((bits (w 3) (10 * n) 10 : Int) - 512) else none
  | 3 => if bits ch 0 6 = 63 then none else some (bits ch 0 6 : Int)
  | 4 => if bits ch 6 6 = 32 then none else some (ofBits 6 (bits ch 6 6))
  | 5 => (ageRing p n).map fun m => first.getD m - m
  | 6 => if bits (w 2) 64 64 = 2 ^ 63 then none else some (ofBits 64 (bits (w 2) 64 64))
  | 7 => some (bits (w 8) 96 16 : Int)
  | _ => some (bits (w 8) 0 40 : Int)

/-- The payload with VALID: bit g − 1 for a gauge with a valid instance. -/
def State.agePay (s : State) (m : GwMeas) : List Nat :=
  let p := s.ageBody m
  let v := packB 1 ((upTo 8).map fun g => bit ((upTo 556).any fun i => (gwOf i).1 = g + 1 && (s.ageVal p none i).isSome))
  match p with
  | w :: t => (w + v * 2 ^ 96) :: t
  | [] => []

/-! ## Thresholds (R633, R646, R657) -/

/-- Value `v` of gauge `g` lies at or beyond the re-plan threshold; at or beyond the end threshold. -/
def State.gwBeyond (s : State) (g : Nat) (v : Int) : Bool × Bool :=
  let a : Int := v.natAbs
  match g with
  | 1 => (decide ((min (s.pv P.gwRp1) (s.pv P.gratUse - 1) : Nat) ≤ a), decide ((s.pv P.gratUse : Int) ≤ a))
  | 2 => (decide ((s.pv P.gwRp2 : Int) ≤ a), decide (v + 512 < 128 ∨ 895 < v + 512))
  | 3 => (decide (v * 16 ≤ s.pv P.gwRp3), decide (v = 0))
  | 4 => (decide ((s.pv P.gwRp4 : Int) ≤ a), decide (25 ≤ a))
  | 5 => (decide ((s.pv P.gwRp5 : Int) ≤ v * 4), decide (30000 ≤ v * 4))
  | 6 => (decide (s.pv P.gwRp6 * s.pi P.tsRateMax ≤ 16 * a), decide (s.pi P.tsRateMax ≤ a))
  | 7 => (decide ((s.pv P.gwRp7 : Int) ≤ v), decide (58982 ≤ v))
  | _ => (decide (((s.pv P.gwRp8 * s.pv P.gwLife : Nat) : Int) ≤ v * 22500), decide ((s.pv P.gwLife : Int) ≤ v * 225))

/-! ## Series and fits (R643 to R645) -/

/-- The payloads of the ageing log, oldest first, those that wait to be stored after the others. -/
def State.ageRecords (s : State) : List (List Nat) :=
  (if s.store.foreign ∨ !s.mem.usable then [] else s.ages.map (·.2)) ++ s.store.q.filterMap fun r => match r.ch with
    | .age p => some p
    | _ => none

/-- The series of instance `i`: seconds of powered time since its start, and value, of each valid sample from the start on. -/
def State.series (s : State) (i : Nat) : List (Nat × Int) :=
  s.ageRecords.filterMap fun p =>
    let h := bits (p.getD 8 0) 40 40
    if h < 16 * s.gwSeries i then none
    else (s.ageVal p (s.gwi i).first i).map fun v => (225 * (h - 16 * s.gwSeries i), v)

/-- The VALID or LINEAR fit of a series; none while it is INSUFFICIENT (R644). -/
def State.fitFor (s : State) (l : List (Nat × Int)) : Option Fit :=
  if s.pv P.gwFitMin ≤ l.length ∧ 2 * s.pv P.gwTau ≤ (l.getLast?.map (·.1)).getD 0 - (l.head?.map (·.1)).getD 0 then
    fitSeries (s.pv P.gwTau) l else none

/-- The re-plan (`th` 0) or end (1) threshold of gauge `g`; `neg` gives the side of one on |value| (R633, R646, R657). -/
def State.limit (s : State) (g th : Nat) (neg : Bool) : Limit :=
  let side (n : Int) (d : Nat) : Limit := ⟨if neg then -n else n, d, !neg⟩
  match g, th with
  | 1, 0 => side (min (s.pv P.gwRp1) (s.pv P.gratUse - 1) : Nat) 1
  | 1, _ => side (s.pv P.gratUse) 1
  | 2, 0 => side (s.pv P.gwRp2) 1
  | 2, _ => side (if neg then 385 else 384) 1
  | 3, 0 => ⟨s.pv P.gwRp3, 16, false⟩
  | 3, _ => ⟨0, 1, false⟩
  | 4, 0 => side (s.pv P.gwRp4) 1
  | 4, _ => side 25 1
  | 5, 0 => ⟨s.pv P.gwRp5, 4, true⟩
  | 5, _ => ⟨30000, 4, true⟩
  | 6, 0 => side (s.pv P.gwRp6 * s.pi P.tsRateMax) 16
  | 6, _ => side (s.pi P.tsRateMax) 1
  | 7, 0 => ⟨s.pv P.gwRp7, 1, true⟩
  | 7, _ => ⟨58982, 1, true⟩
  | _, 0 => ⟨(s.pv P.gwRp8 * s.pv P.gwLife : Nat), 22500, true⟩
  | _, _ => ⟨s.pv P.gwLife, 225, true⟩

/-- FIT and the four dates of instance `i` after a log (R644, R645, R655). -/
def State.forecast (s : State) (i : Nat) : Nat × List Nat :=
  let l := s.series i
  match s.fitFor l, l.getLast? with
  | some f, some (t, v) =>
    let x (th : Nat) : Limit := s.limit (gwOf i).1 th (f.negToday t)
    (if f.lin then 2 else 0, f.datesOf (x 0) t v ++ f.datesOf (x 1) t v)
  | _, _ => (1, List.replicate 4 0xFFFFFFFF)

/-- Slope of the G6 fit now, and its standard uncertainty (R647, HO_MODEL). -/
def State.g6Slope (s : State) : Option (Int × Nat) :=
  (s.fitFor (s.series 553)).map fun f => f.slope (s.gw.secs - 3600 * s.gwSeries 553)

/-! ## Wake (R638, R641, R763) -/

/-- TLOCK of the entries that a payload names (R152, R641). -/
def State.loadTlock (p : List Nat) (s : State) : State :=
  forAll (upTo 8) (fun k s =>
    let t := bits (p.getD 1 0) (16 * k) 16
    if t = 2 ^ 15 then s else
    let e := gratIx k (bits (p.getD 2 0) (8 * k) 6) (bits (p.getD 2 0) (8 * k + 6) 2)
    s.modGrat fun g => { g with ent := g.ent.put e (BitVec.ofNat 128 (gSet 60 16 t (g.ent.get 0 e).toNat)) }) s

/-- One logged sample joins the series of instance `i`. -/
def State.gwRejoin (p : List Nat) (i : Nat) (s : State) : State :=
  let h := bits (p.getD 8 0) 40 40
  let t := h * 225
  let x := s.gwi i
  let med := if (gwOf i).1 = 5 then ageRing p (gwOf i).2 else none
  let old : Bool := h < 16 * s.gwSeries i
  let x := if !old ∧ x.n = 0 ∧ med.isSome then { x with first := med } else x
  match s.ageVal p x.first i with
  | some v => s.modGwi i fun _ =>
      if old then { x with val := v, valid := true }
      else { x with val := v, valid := true, n := x.n + 1, t0 := if x.n = 0 then t else x.t0, t1 := t }
  | none => s.modGwi i fun _ => { x with valid := false }

/-- The gauges' state from the ageing log: series, newest values, TLOCK, G7, and the hour counters where they have been cleared. -/
def State.gwLoad (s : State) : State :=
  if s.store.foreign ∨ !s.mem.usable then s else
  let l := s.ages
  let s := (s.readRegion regAge).modGw fun g => { g with per := s.pv P.gwLogPeriod }
  let s := s.modGw fun g => { g with inst := g.inst.map fun e => (e.1, { GwInst.init with first := e.2.first, ctx := e.2.ctx }) }
  let s := forAll l (fun r s => forAll (upTo 556) (fun i s => s.gwRejoin r.2 i) s) s
  match l.getLast? with
  | none => s
  | some (n, p) =>
    let w := p.getD 8 0
    let s := s.loadTlock p
    let secs := bits w 40 40 * 225
    let s := s.modStore fun d => { d with scrubT := d.scrubT + (secs - s.gw.secs) }
    s.modGw fun g => { g with
      seq := n + 1, dts := linOf (bits (p.getD 0 0) 0 96)
      g7 := (roundDiv ((bits w 96 16 * (s.mem.sectors * s.pv P.dsEndurance) : Nat) : Int) (2 ^ 16)).toNat
      eq := if g.secs < secs then bits w 0 40 * 2 ^ 20 else g.eq, secs := max g.secs secs, last := secs }

end Sys2Proof.Machine
end

