-- ==== Sys2Proof/Machine/PowerOps.lean ====
section
/-!
DEFINITION. Power domains, resets, boot and the steps of WAKE as shared operations (R473 to R501, R625 to R628).
-/
namespace Sys2Proof.Machine

/-! ## Domains powered down (R475, R494, R497, R498, R537) -/

/-- Quadrant `j` is unpowered. -/
def State.offQuad (j : Nat) (s : State) : State :=
  let ks := [2 * j, 2 * j + 1]
  let s := s.keepWords (pdQ j)
  let s := forAll ks (fun k s =>
    let s := s.loopOff k
    let s := s.modOct k fun o => { o with
      stampQ := [], fcw := [], hopQ := [], temp := -32768, hand := none, xStamp := { o.xStamp with drop := 0 }
      xHop := { o.xHop with drop := 0 }, loop := { o.loop with comb := none, plan := [] } }
    let s := s.modDll k fun d => { Dll.init with range := d.range }
    forAll (chansOf k) (fun c s =>
      let s := s.modChan c fun x => { x with out := .none, sw := none, pulse := [], div := { Div.init with
        dtc := x.div.dtcNew.getD x.div.dtc, sel := x.div.sel, hopN := x.div.hopN, hopLost := x.div.hopLost } }
      let s := forAll [rxCore c, shCore c] (fun i s => s.modCore i fun y => { y with
        held := [], lastMrk := none, lastTxm := none, fail := false, old := none }) s
      forAll (upTo 3) (fun i s => s.modSrc (4 * c + i) fun y => { y with seq := 0, dec := 0, last := none, gap := false }) s) s) s
  (s.setPwr (pdQ j) false).setIso (pdQ j) false

/-- What a channel index keeps when the CSM loses its content. -/
def Chan.offCsm (x : Chan) : Chan :=
  { Chan.init with
    st := if x.st = .retired then .retired else .idle
    out := x.out, sw := x.sw, bypSel := x.bypSel, bypOfs := x.bypOfs, hiz := x.hiz, div := x.div, handSkew := x.handSkew, hsTemp := x.hsTemp }

/-- PD_ENG is unpowered: the CSM and the timescale record lose their content, the counters are cleared. -/
def State.offEng (s : State) : State :=
  let s := (s.keepWords pdEng).engClear
  let s : State := { s with
    chans := s.chans.map fun x => (x.1, x.2.offCsm)
    engs := s.engs.map fun g => (g.1, { Eng.init with retired := g.2.retired, out := g.2.out })
    ts := { TsS.init with ev := s.ts.ev, role := s.ts.role, dts := s.ts.dts }
    arr := { EngArr.init with seed := s.arr.seed } }
  let s := s.modIv fun v => { v with pairs := [] }
  let s := s.modRg fun v => { v with slots := [] }
  (s.setPwr pdEng false).setIso pdEng false

/-- PD_REF is unpowered: the drop counters of the device-level sources lie in it (R308). -/
def State.offRef (s : State) : State :=
  let s := forAll (upTo 4) (fun d s => s.modSrc (0x800 + d) fun x => { x with rate := 0, dll := 0, hold := 0 }) s
  (((s.keepWords pdRef).refReset.modTs fun t => { t with dts := 0 }).setPwr pdRef false).setIso pdRef false

/-- PD_CAS is unpowered. -/
def State.offCas (s : State) : State :=
  ((s.modCas fun c => { CasS.init with role := c.role, rolePend := c.rolePend }).setPwr pdCas false).setIso pdCas false

/-- The domains are powered down in the reverse of WAKE order. -/
def State.offAll (s : State) : State :=
  (forAll [3, 2, 1, 0] (fun j s => if s.pwr.pwr.testBit (pdQ j) then s.offQuad j else s) s.offCas).offEng.offRef

/-- Operations that the power-down of their units ends: retunes and band scans are answered MODE, runs end with MODE, tests are
ABORTED. -/
def State.abortOps (s : State) : State :=
  let s := (s.calAbortIf 0x0D (fun _ => true)).benchEnd 0x0D 0
  let s := s.testAbortIf (fun _ => true)
  let s := forAll (upTo 8) (fun k s => match (s.oct k).loop.retune with
    | some r => (s.reply r.h 0x0340 (.fail .mode)).modLoop k fun l => { l with retune := none }
    | none => s) s
  let s := forAll s.grat.scans (fun x s => s.replyTo x.1 0x0505 (.fail .mode)) s
  s.scanDrop fun _ => true

/-! ## Resets (R496 to R500, R840) -/

/-- A reset of every domain except PD_AON: what PD_AON, the flash, the OTP and the TAP hold stays (R496, R499, R500). -/
def State.warm (s : State) : State :=
  let s := s.cutReset
  { State.reset with
    pending := s.pending, tap := s.tap, byp := s.byp, otp := { s.otp with rows := [] }
    mem := { MemS.init with usable := s.mem.usable, sectors := s.mem.sectors }
    store := { StoreS.init with flash := s.store.flash, scrubT := s.store.scrubT }
    gw := { GwS.init with eq := s.gw.eq, secs := s.gw.secs, last := s.gw.secs
                          inst := s.gw.inst.map fun e => (e.1, { GwInst.init with first := e.2.first, ctx := e.2.ctx }) }
    reg := { RegS.init with lockout := s.reg.lockout }
    pwr := { PwrS.init with
      brace := s.pwr.brace, braceDone := s.pwr.braceDone, pfail := s.pwr.pfail, holdup := s.pwr.holdup, rail := s.pwr.rail
      cause := s.pwr.cause, cobN := s.pwr.cobN, shed := s.pwr.shed, held := s.pwr.held } }

/-- A reset of every domain (R492, R496); `pfail` is the level of PFAIL_N at its end, low for true (R502). -/
def State.cold (cause : Nat) (pfail : Bool) (s : State) : State :=
  let s := s.warm
  let s := (s.modGw fun g => { g with eq := 0, secs := 0, last := 0 }).modStore fun d => { d with scrubT := 0 }
  let s := s.modReg fun r => { r with lockout := false }
  let s := s.modPwr fun p => { p with cause := cause, cobN := 0, pfail := pfail, brace := pfail, braceDone := false, shed := false }
  if pfail then s.devEv 9 else s

/-- The rails of PD_AON, PD_CTL and PD_IO are good (R492). -/
def State.railsUp (s : State) : Bool := s.pwr.rail.testBit 0 && s.pwr.rail.testBit 1 && s.pwr.rail.testBit 7

/-- Instructions of the TAP that hold the domains in cold reset (R840). -/
def tapHolds : Tap → Bool
  | .extest | .clamp | .highz | .extestPulse | .extestTrain => true
  | _ => false

/-! ## Boot (R624 to R628) -/

/-- The IMAGE record of a slot: its payload. -/
def State.imageOf (s : State) (k : Nat) : Option (List Nat) :=
  ((s.store.records (regSlot k)).find? fun f => f.valid ∧ f.ty = 0x40).map (·.pay)
def imgRel (p : List Nat) : Nat := bits (p.headD 0) 0 32
def imgSv (p : List Nat) : Nat := bits (p.headD 0) 32 32
def imgKey (p : List Nat) : Nat := bits (p.headD 0) 96 2
/-- A payload passes the checks of R625 other than the record's validity. -/
def State.imageOk (s : State) (p : List Nat) : Bool :=
  Config.imageSigned p && !s.otp.revoke.testBit (imgKey p) && imgSv p ≤ 64 && s.otp.ar ≤ imgSv p
def State.bootable (s : State) (k : Nat) : Bool := (s.imageOf k).any s.imageOk
def State.slotSt (s : State) (k : Nat) : Nat := if k = 0 then s.store.stA else s.store.stB

/-- The boot ROM writes a boot header (R624, R626). -/
def State.writeBoot (pref a b : Nat) (s : State) : State :=
  let c := 1 - s.store.bootCopy
  let s := s.eraseRegion (regBoot c)
  s.modStore fun d =>
    let d := d.program (regBoot c) 0 ((recWords 1 (d.bootGen + 1) 0 (bootPay d.bootId pref a b d.remap)).map fun w => ⟨BitVec.ofNat 128 w, .clean⟩)
    { d with bootGen := d.bootGen + 1, bootCopy := c, pref := pref, stA := a, stB := b }

/-- AR_COUNT is due to rise to the SV of the running GOOD image (R627). -/
def State.raiseAr (sv : Nat) (s : State) : State :=
  if s.otp.ar < sv then s.modOtp fun o => { o with rows := o.rows ++ [(3, sv, none)] } else s

/-- An image starts: the device reaches STOWED where it comes from a reset (R478, R742). -/
def State.startImage (slot : Nat) (sram trial : Bool) (p : List Nat) (s : State) : State :=
  let s : State := { s with img := some ⟨slot, sram, trial, imgRel p, imgSv p, imgKey p⟩ }
  let s := (s.modPwr fun x => { x with rom := false }).modReg fun r => { r with ready := true }
  if sram ∨ trial then s else s.raiseAr (imgSv p)

/-- The boot ROM selects and starts an image, or serves the firmware commands (R626, R628, R799). -/
def State.bootImage (s : State) : State :=
  let s : State := ({ s with img := none }).modPwr fun x => { x with rom := true }
  if !s.mem.usable then s else
  let s := s.loadBoot
  let p := s.store.pref
  let other (s : State) : State := match s.imageOf (1 - p) with
    | some y => if s.slotSt (1 - p) = 2 ∧ s.imageOk y then s.startImage (1 - p) false false y else s
    | none => s
  match s.imageOf p with
  | some y =>
    if !s.imageOk y then other s
    else if s.slotSt p = 2 then s.startImage p false false y
    else if s.slotSt p = 1 then
      if s.pwr.brace ∨ !s.pwr.holdup then s else
      (s.writeBoot (1 - p) (if p = 0 then 3 else s.store.stA) (if p = 1 then 3 else s.store.stB)).startImage p false true y
    else other s
  | none => other s

/-- The device leaves reset: an image boots, and with it running STOWED is reached. -/
def State.boot (s : State) : State :=
  let s := (s.modPwr fun p => { p with held := false }).bootImage
  if s.img.isSome then (s.modPwr fun p => { p with auto := true }).devEv 8 else s

/-! ## WAKE (R483 to R488, R465) -/

/-- Every committed retirement is loaded (R462, R465, R615). -/
def State.applyRetired (s : State) : State :=
  let s := forAll (upTo 8) (fun k s => s.modOct k fun o => { o with
    welt := if s.isRetired kindChan (weltOf k) then .retired else .free, hand := none, noStamp := s.isRetired kindStamp k
    loop := { o.loop with st := if s.isRetired kindLoop k then .retired else .off } }) s
  let s := forAll (upTo 32) (fun e s =>
    let r := s.isRetired kindEng e
    s.modEng e fun g => { g with retired := r, out := r, parT := [] }) s
  forAll allChans (fun c s =>
    let r := s.isRetired kindChan c
    let w := bits (s.store.ret.get (15 * 2 ^ 25) (retKey kindChan c)) 25 4
    let s := s.modChan c fun x => { x with
      st := if r then .retired else .idle, cause := .none, hiz := r && s.retFault kindChan c = 9 }
    if r ∧ c < 256 ∧ w = octOf c ∧ (s.oct (octOf c)).welt = .free then s.modOct (octOf c) fun o => { o with welt := .standing c } else s) s

/-- The rails of PD_REF and PD_CAS, and with VDDO_Qj those of PD_Qj, are good (R473, R493). -/
def State.railA (s : State) : Bool := s.pwr.rail.testBit 1 && s.pwr.rail.testBit 2
def State.railQ (s : State) (j : Nat) : Bool := s.railA && s.pwr.rail.testBit (3 + j)

/-- Quadrant `j` is powered where its rails are good, its loops still OFF: its sensors read (R760), and its bypass dividers count (R900). -/
def State.onQuad (j : Nat) (s : State) : State :=
  if s.pwr.pwr.testBit (pdQ j) ∨ !s.railQ j then s else
  let s := (s.setPwr (pdQ j) true).setIso (pdQ j) false
  forAll [2 * j, 2 * j + 1] (fun k s =>
    let s := s.modOct k fun o => { o with
      temp := (Config.octSensor k s.byp.clk).toInt, xStamp := { o.xStamp with resync := s.domOn pdEng } }
    forAll (chansOf k) (fun c s => s.bypSelect c) s) s

/-- CAS_ROLE enables the cascade link. -/
def State.casOn (s : State) : Bool := s.pv P.casRole ≠ 0

/-- WAKE step `n` begins (R483); `temps` are the octant sensors of step 4. -/
def State.wakeStep (n : Nat) (temps : List (OctIx × BitVec 16)) (s : State) : State :=
  let s := s.modPwr fun p => { p with step := n, halt := false }
  match n with
  | 1 =>
    let s := s.dsLoad
    let s := s.applyRetired.gwLoad
    match s.store.redo with
    | some (p, l, r) => s.modStore fun d => { d with redo := none, erasing := some (p, l, r, 0) }
    | none => s
  | 2 =>
    let s := (s.setPwr pdRef s.railA).setIso pdRef false
    s.refReset
  | 3 =>
    let s := (s.setPwr pdEng true).setIso pdEng false
    let s : State := { s with chans := s.chans.map fun x => (x.1, x.2.offCsm) }
    let s := forAll allChans (fun c s => s.loadConfig c) s
    let s := s.modTs fun t => { TsS.init with ev := t.ev, armed := t.armed, role := match s.pv P.tsRole with
      | 0 => .gm
      | 1 => .bnd
      | _ => .fol }
    (s.modArr fun a => { a with seed := s.pv P.hashSeed, epoch := none, lost := false }).engResync
  | 4 =>
    let s := forAll (upTo 4) (fun j s => if s.quadEn j then s.onQuad j else s) s
    let s := forAll temps (fun e s => s.setTemp e.1 e.2.toInt) s
    forAll (upTo 8) (fun k s => if s.domOn (pdQ (quadOf k)) ∧ (s.oct k).loop.st ≠ .locked then s.loopStart k else s) s
  | _ =>
    let s := s.modCas fun c => { CasS.init with role := s.pv P.casRole, txSeq := c.txSeq }
    if s.casOn ∧ s.railA then ((s.setPwr pdCas true).setIso pdCas false).modDevq fun q => { q with xCas := { q.xCas with resync := true } } else s

/-- A retired channel without welt has its bypass source (R461), and any other idle output no source. -/
def State.wakeOut (c : Nat) (s : State) : State :=
  let x := s.chan c
  if !s.domOn (pdQ (quadOf (octOf c))) ∨ x.hiz then s
  else if x.st = .retired ∧ c < 256 ∧ !s.hasWelt c then s.switchTo c (s.bypSrc c)
  else if x.st = .idle ∨ x.st = .retired then s.switchTo c .none
  else s

/-- The last step of WAKE is complete: the target mode, TS_AUTOSTART, and the autostart channels (R110, R478, R485, R487, R488). -/
def State.wakeEnd (s : State) : State :=
  let m := s.targetMode
  let s := s.leaveDevBypass m
  let s := (forAll allChans (fun c s => s.wakeOut c) s).tsAuto
  if m = .survey then s
  else if s.ts.st = .stopped then s.modTs fun t => { t with held := true }
  else s.autostart

/-- The step in progress is complete (R463, R483). -/
def State.wakeDone (s : State) : Bool := match s.pwr.step with
  | 1 => !(s.store.q.any fun r => r.ch = .first)
  | 2 => s.ref.lock && ((s.dll 8).lock || s.refRetired)
  | 3 => true
  | 4 => (upTo 8).all fun k => !s.quadEn (quadOf k) || (s.oct k).loop.st = .locked || (s.oct k).loop.st = .retired
  | _ => !s.casOn || s.cas.up

/-- WAKE goes on from its present step. -/
def State.wakeNext (temps : List (OctIx × BitVec 16)) (s : State) : State :=
  if s.pwr.step = 5 then s.wakeEnd else s.wakeStep (s.pwr.step + 1) temps

/-- WAKE runs, or goes on beneath BYPASS (R485, R487). -/
def State.waking (s : State) : Bool :=
  (s.pwr.mode = .wake || (s.pwr.mode = .bypass && s.pwr.bypFrom = .wake)) && !s.pwr.halt && s.pwr.step ≠ 0

end Sys2Proof.Machine
end

