-- ==== Sys2Proof/Machine/Modes.lean ====
section
/-!
DEFINITION. Device modes, supplies, resets and brace (R473 to R514).
-/
namespace Sys2Proof.Machine

/-! ## WAKE (R478, R479, R483 to R488) -/

/-- WAKE begins. -/
def State.wakeBegin (s : State) : State := ((s.modPwr fun p => { p with auto := false }).setMode .wake).wakeStep 1 []

/-- DEV_WAKE (R478 to R480): in STOWED, and not in brace. -/
def State.opDevWake (h : Hdr) (s : State) : State :=
  if s.pwr.mode ≠ .stowed ∨ s.pwr.brace then s.reply h 0x0A01 (.fail .mode) else s.wakeBegin.reply h 0x0A01 .ok

def execDevWake (h : Hdr) (s : State) : Host.Outcome State Fault Refusal := .next (s.viaDoor h 0x0A01 (·.opDevWake h))

/-- WAKE_AUTO as the journal holds it, before step 1 has loaded it. -/
def State.autoStored (s : State) : Bool := s.dsLoad.pv P.wakeAuto = 0

/-- WAKE_AUTO_START (R478, R507, R513). -/
def execWakeAutoStart (s : State) : Host.Outcome State Fault Refusal :=
  if s.pwr.mode = .stowed ∧ s.pwr.auto ∧ !s.pwr.rom ∧ !s.pwr.brace ∧ s.autoStored then .next s.wakeBegin else .next s

/-- WAKE_STEP_DONE (R483, R485, R487): `temps` are the octant sensors as step 4 reads them. -/
def execWakeStepDone (temps : List (OctIx × BitVec 16)) (s : State) : Host.Outcome State Fault Refusal :=
  if s.waking ∧ s.wakeDone then .next (s.wakeNext temps) else .next s

/-- WAKE_REF_T (R485). -/
def execWakeRefT (s : State) : Host.Outcome State Fault Refusal :=
  if s.pwr.mode = .wake ∧ s.pwr.step = 2 ∧ !s.ref.lock then
    .next ((forAll (upTo 4) (fun j s => if s.quadEn j then s.onQuad j else s) s).devBypass 3)
  else .next s

/-- The exit conditions of BYPASS hold (R486, R487). -/
def State.bypEnds (s : State) : Bool :=
  s.pwr.mode = .bypass && s.ref.lock &&
    (if s.pwr.bypFrom = .wake then s.pwr.halt && (s.pwr.step < 3 || s.engReady) else s.engReady && s.ts.st ≠ .stopped)

/-- BYPASS_EXIT (R477, R486, R487): the mode that BYPASS interrupted, or the interrupted WAKE step again. -/
def execBypassExit (s : State) : Host.Outcome State Fault Refusal :=
  if !s.bypEnds then .next s
  else if s.pwr.bypFrom = .wake then .next (s.wakeStep s.pwr.step [])
  else .next (s.leaveDevBypass (if s.pwr.bypFrom = .survey then .survey else s.serviceMode))

/-! ## SURVEY and STOWED (R479 to R482) -/

/-- A channel that waited for the end of SURVEY acquires, or waits for its loop (R181, R482). -/
def State.leaveSurvey (c : Nat) (s : State) : State :=
  let k := octOf c
  if (s.chan c).st = .bypass ∧ (s.chan c).cause = .survey then
    if (s.oct k).loop.st = .locked then s.leaveBypass (s.returnsAtLock k) c else s.modChan c fun x => { x with cause := .loop }
  else s

/-- DEV_SERVICE (R477, R479, R482). -/
def State.opDevService (h : Hdr) (s : State) : State :=
  if s.pwr.mode ≠ .survey then s.reply h 0x0A02 (.fail .mode) else
  let s := s.calAbortIf 0x0D (·.kind = 2)
  let s := (s.modCal fun c => { c with checked := [] }).setMode s.serviceMode
  (forAll (upTo 8) (fun k s => s.takeoverRetry k) (forAll allChans (fun c s => s.leaveSurvey c) s)).reply h 0x0A02 .ok

def execDevService (h : Hdr) (s : State) : Host.Outcome State Fault Refusal := .next (s.viaDoor h 0x0A02 (·.opDevService h))

/-- States that SURVEY sends to BYPASS (R481). -/
def ChState.surveyed : ChState → Bool
  | .acquire | .track | .holdover | .onWelt => true
  | _ => false

/-- DEV_SURVEY (R479, R481). -/
def State.opDevSurvey (h : Hdr) (s : State) : State :=
  if s.pwr.mode ≠ .service ∧ s.pwr.mode ≠ .holdover then s.reply h 0x0A03 (.fail .mode) else
  let s := ((s.calAbortIf 0x0D (fun _ => true)).benchEnd 0x0D 0).setMode .survey
  let s := s.modCal fun c => { c with checked := [] }
  (forAll allChans (fun c s => if (s.chan c).st.surveyed then s.enterBypass .survey c else s) s).reply h 0x0A03 .ok

def execDevSurvey (h : Hdr) (s : State) : Host.Outcome State Fault Refusal := .next (s.viaDoor h 0x0A03 (·.opDevSurvey h))

/-- Every output that has a source stops through its switch (R174). -/
def State.stopOutputs (s : State) : State :=
  forAll allChans (fun c s => if (s.chan c).hiz ∨ (s.chan c).goal = .none then s else s.switchTo c .stop) s

/-- DEV_STOW (R478, R480). -/
def State.opDevStow (h : Hdr) (s : State) : State :=
  if s.pwr.mode = .stowed then s.reply h 0x0A04 (.fail .mode) else
  let s := s.abortOps.tsStop.stopOutputs.offAll.setMode .stowed
  (s.modPwr fun p => { p with
    step := 0, bypCause := 0, bypFrom := .stowed, redo := false, auto := false, halt := false }).reply h 0x0A04 .ok

def execDevStow (h : Hdr) (s : State) : Host.Outcome State Fault Refusal := .next (s.viaDoor h 0x0A04 (·.opDevStow h))

/-! ## Resets and supplies (R491 to R501) -/

/-- A warm reset with RESET_CAUSE `cause`, and the boot that follows it (R496). -/
def State.warmReset (cause : Nat) (s : State) : State := (s.warm.modPwr fun p => { p with cause := cause }).boot

/-- DEV_RESET (R496): no reply. -/
def execDevReset (h : Hdr) (s : State) : Host.Outcome State Fault Refusal := .next (s.viaDoor h 0x0A05 (·.warmReset 3))

/-- A cold reset ends where every rail it waits for is good and no TAP instruction holds it (R492, R840). -/
def State.endReset (s : State) : State :=
  if s.railsUp ∧ !tapHolds s.tap then s.boot else s.modPwr fun p => { p with held := true }

/-- COLD_RESET (R492, R496, R502): `cause` as RESET_CAUSE codes it; the fitted flash is found usable or not, with its density; `pfail` is
PFAIL_N low at the end. -/
def execColdReset (cause : Fin 3) (usable : Bool) (sectors : Fin 65537) (pfail : Bool) (s : State) : Host.Outcome State Fault Refusal :=
  let s := (s.cold cause pfail).modMem fun m => { m with usable := usable, sectors := sectors }
  .next s.endReset

/-- The logic of quadrant `j` is held in island reset; its memories keep their content (R493, R498). -/
def State.isoQuad (j : Nat) (s : State) : State :=
  if !s.pwr.pwr.testBit (pdQ j) then s else
  let s := (s.keepWords (pdQ j)).setIso (pdQ j) true
  forAll [2 * j, 2 * j + 1] (fun k s =>
    let s := s.modOct k fun o => { o with
      vclkRst := true, loop := { o.loop with run := false }, xStamp := { o.xStamp with drop := 0 }, xHop := { o.xHop with drop := 0 } }
    let s := s.modDll k fun d => { Dll.init with range := d.range }
    forAll (chansOf k) (fun c s => forAll [rxCore c, shCore c] (fun i s => s.modCore i fun y => { y with
      held := [], lastMrk := none, lastTxm := none, fail := false })
        (forAll (upTo 3) (fun i s => s.modSrc (4 * c + i) fun y => { y with seq := 0, dec := 0, last := none, gap := false }) s)) s) s

/-- Loop `k` of a quadrant without VDDO declares loss (R178, R179, R493). -/
def State.railLoss (k : Nat) (s : State) : State :=
  let st := (s.oct k).loop.st
  if st = .off ∨ st = .retired then s else
  let s := s.modLoop k fun l => { l with
    st := .acq, attempt := 0, scan := [], hold := false, run := false, lossN := if st = .locked then satAdd 16 1 l.lossN else l.lossN }
  let s := (s.mlEv k 9).calAbortIf 0x0C (·.inOct k)
  (s.testAbortIf fun r => r.kind = 1 ∧ octOf r.unit = k).loopDown k

/-- RAIL_LOST (R492, R493); rails in the order of PWR_STATUS.RAIL. -/
def execRailLost (r : Fin 8) (s : State) : Host.Outcome State Fault Refusal :=
  if !s.pwr.rail.testBit r then .next s else
  let s := s.modPwr fun p => { p with rail := setBit p.rail r false }
  if r = 0 ∨ r = 1 ∨ r = 7 then .next ((s.cold 2 s.pwr.pfail).modPwr fun p => { p with held := true })
  else if s.pwr.held then .next s
  else if r = 2 then
    let s := s.devEv 10
    let s := if s.pwr.pwr.testBit pdRef then s.measLost none else s
    .next ((forAll (upTo 4) (fun j s => s.isoQuad j) s).modDll 8 fun d => { d with lock := false })
  else
    let j := r.val - 3
    let s := s.devEv 10
    if s.pwr.pwr.testBit (pdQ j) then
      .next (forAll [2 * j, 2 * j + 1] (fun k s => s.railLoss k) (s.isoQuad j))
    else .next s

/-- Quadrant `j` is released from island reset, or powered where WAKE has passed its step 4 without it. -/
def State.releaseQuad (j : Nat) (s : State) : State :=
  if !s.railQ j then s
  else if s.pwr.pwr.testBit (pdQ j) then
    let s := s.setIso (pdQ j) false
    forAll [2 * j, 2 * j + 1] (fun k s =>
      let s := s.modOct k fun o => { o with xStamp := { o.xStamp with resync := s.domOn pdEng } }
      if (s.oct k).loop.st = .acq then (s.replan k).relock k else s) s
  else if s.quadEn j ∧ s.pwr.mode ≠ .stowed ∧ (s.pwr.step = 0 ∨ 4 ≤ s.pwr.step) ∧ !s.pwr.brace then
    forAll [2 * j, 2 * j + 1] (fun k s => s.loopStart k) (s.onQuad j)
  else s

/-- RAIL_REGAINED (R492, R493). -/
def execRailRegained (r : Fin 8) (s : State) : Host.Outcome State Fault Refusal :=
  if s.pwr.rail.testBit r then .next s else
  let s := s.modPwr fun p => { p with rail := setBit p.rail r true }
  if s.pwr.held then .next s.endReset else
  let s := s.devEv 10
  let s := if s.waking ∧ s.pwr.step = 2 ∧ !s.pwr.pwr.testBit pdRef then s.wakeStep 2 [] else s
  .next (forAll (upTo 4) (fun j s => s.releaseQuad j) s)

/-- A request whose command has been lost gets no reply (R501). -/
def Job.orphan : Job → Job
  | .req c (.adj _ n d) => .req c (.adj none n d)
  | .req c (.cancel _) => .req c (.cancel none)
  | j => j

/-- No command waits for an answer of the jobs and eye scans under way: their doors are idle again (R501). -/
def State.orphans (s : State) : State :=
  { s with
    tests := s.tests.map fun t => { t with eye := none }
    engs := s.engs.map fun g => (g.1, { g.2 with q := g.2.q.map Job.orphan, fetch := g.2.fetch.map Job.orphan, ready := g.2.ready.map Job.orphan }) }

/-- What the cobbler had under way goes: the record in transfer after `words` of it, the store queue, messages and streams, runs, a session, scans,
retunes (R501, R573). -/
def State.cobDrop (words : Nat) (s : State) : State :=
  let s := s.cutRec words .clean
  let s := s.modStore fun d => { d with q := [], prog := none, stage := 0, att := 0, wait := false }
  let s := s.modMbox fun m => { m with doors := m.doors.map fun d => (d.1, { d.2 with words := [], st := .idle, stream := none }) }
  let runs := s.cal.runs
  let s := forAll runs (fun r s => r.restore (s.calDrop r)) s
  let s := forAll (s.cal.bench.toList.flatMap (·.slots)) (fun i s => s.rgFree i) s
  let s := s.modCal fun c => { c with bench := none, part0 := none }
  let s := forAll (runs.filter (·.kind = 0)) (fun r s => s.handAbort (octOf r.unit)) s
  let s := s.scanDrop fun _ => true
  (forAll (upTo 8) (fun k s => s.modLoop k fun l => { l with retune := none, restore := false }) s).orphans

/-- The OTP rows lose the commands that wait for them, the peripheral port its entries, the memory port its requests and the prefetch buffer (R812, R819). -/
def State.cobPorts (s : State) : State :=
  let s := s.modOtp fun o => { o with rows := o.rows.map fun r => (r.1, r.2.1, none) }
  let skips := ((s.per.q.drop 1).filter (·.dac)).length
  let s := s.modExt fun e => { e with skip := satAdd 32 skips e.skip }
  let s := s.modPer fun p => { p with q := [], gpio := 3, cpol := (p.q.head?.map fun e => e.ctl.testBit 22).getD p.cpol }
  s.modMem fun m => { m with lines := [], cont := false, busErr := false, waiting := [] }

/-- COB_RESTART (R501, R573, R742, R812, R819): `words` of a record in transfer have reached the flash. -/
def execCobRestart (words : Nat) (s : State) : Host.Outcome State Fault Refusal :=
  if s.pwr.held then .next s else
  let s := (s.cobDrop words).cobPorts
  let s := (s.modPwr fun p => { p with cobN := satAdd 8 1 p.cobN }).modReg fun r => { r with ready := false }
  let s := (s.devEv 12).bootImage
  .next (if s.img.isSome then s.post ⟨0x8101, 0, 0, 0⟩ else s)

/-! ## Brace (R502 to R508) -/

/-- BRACE (R502, R503, R505, R508): `words` of a record in transfer have reached the flash, the last of them as `cls`. -/
def execBrace (words : Nat) (cls : WCls) (s : State) : Host.Outcome State Fault Refusal :=
  if s.pwr.brace ∨ s.pwr.held then .next s else
  let shed : Bool := s.pv P.braceShed = 1
  let s := (s.modPwr fun p => { p with brace := true, braceDone := false, pfail := true, shed := shed }).devEv 9
  let s := ((s.cutRec words cls).cutErase).modMem fun m => { m with waiting := m.inRow 2 ++ m.inRow 3 }
  .next (if shed then s.abortOps.stopOutputs.offAll else s)

/-- BRACE_DONE (R504, R811): fills and window reads that wait are served again. -/
def execBraceDone (s : State) : Host.Outcome State Fault Refusal :=
  if s.pwr.brace then .next (s.modPwr fun p => { p with braceDone := true }).servePort else .next s

/-- BRACE_REL (R507): PFAIL_N has been high for BRACE_REL. -/
def execBraceRel (s : State) : Host.Outcome State Fault Refusal :=
  if s.pwr.brace ∧ s.pwr.braceDone then
    let shed := s.pwr.shed
    let s := s.modPwr fun p => { p with brace := false, braceDone := false, pfail := false, shed := false }
    if shed then .next (s.warmReset 4) else .next (s.modStore fun d => { d with wait := false })
  else .next s

/-! ## Loss of the engine array -/

/-- ENGINE_ARRAY_LOST (R431, R478, R490, R538): device BYPASS, and PD_ENG in island reset. -/
def execEngineArrayLost (s : State) : Host.Outcome State Fault Refusal :=
  if !s.domOn pdEng ∨ s.arr.lost then .next s else
  let s := (s.keepWords pdEng).engClear.modArr fun a => { a with lost := true }
  .next (((s.setIso pdEng true).devBypass 2).modPwr fun p => { p with halt := p.bypFrom = .wake })

end Sys2Proof.Machine
end

