-- ==== Sys2Proof/Machine/Queues.lean ====
section
/-!
DEFINITION. Reset coordination of the dual-clock queues (R527 to R537).
-/
namespace Sys2Proof.Machine

/-- Both sides of the queue are out of reset (R528); PD_CTL always is. -/
def State.bothOn (s : State) : Queue → Bool
  | .stamp k => s.domOn (pdQ (quadOf k)) && s.domOn pdEng
  | .fcw k | .hop k => s.domOn (pdQ (quadOf k)) && !(s.oct k).vclkRst && s.domOn pdEng
  | .sel k => s.domOn (pdQ (quadOf k)) && !(s.oct k).vclkRst
  | .req _ | .report => s.domOn pdEng
  | .devStamp | .rate => s.domOn pdRef && s.domOn pdEng
  | .cascade => s.domOn pdCas && s.domOn pdEng

/-- The status of a queue changes. -/
def State.modXq (f : Xq → Xq) (q : Queue) (s : State) : State := match q with
  | .stamp k => s.modOct k fun o => { o with xStamp := f o.xStamp }
  | .fcw k => s.modOct k fun o => { o with xFcw := f o.xFcw }
  | .hop k => s.modOct k fun o => { o with xHop := f o.xHop }
  | .sel k => s.modOct k fun o => { o with xSel := f o.xSel }
  | .req k => s.modOct k fun o => { o with xReq := f o.xReq }
  | .devStamp => s.modDevq fun d => { d with xStamp := f d.xStamp }
  | .rate => s.modDevq fun d => { d with xRate := f d.xRate }
  | .cascade => s.modDevq fun d => { d with xCas := f d.xCas }
  | .report => s.modDevq fun d => { d with xRep := f d.xRep }

def State.xq (s : State) : Queue → Xq
  | .stamp k => (s.oct k).xStamp
  | .fcw k => (s.oct k).xFcw
  | .hop k => (s.oct k).xHop
  | .sel k => (s.oct k).xSel
  | .req k => (s.oct k).xReq
  | .devStamp => s.devq.xStamp
  | .rate => s.devq.xRate
  | .cascade => s.devq.xCas
  | .report => s.devq.xRep

/-- Words written and not yet read. -/
def State.xqWords (s : State) : Queue → Nat
  | .stamp k => (s.oct k).stampQ.length
  | .fcw k => (s.oct k).fcw.length
  | .hop k => (s.oct k).hopQ.length
  | .devStamp => s.devq.stampQ.length
  | .report => s.devq.copies.length
  | .sel _ | .req _ | .rate | .cascade => 0

/-- The queue is emptied. -/
def State.xqEmpty (s : State) : Queue → State
  | .stamp k => s.modOct k fun o => { o with stampQ := [] }
  | .fcw k => s.modOct k fun o => { o with fcw := [] }
  | .hop k => s.modOct k fun o => { o with hopQ := [] }
  | .devStamp => s.modDevq fun d => { d with stampQ := [] }
  | .report => s.modDevq fun d => { d with copies := [] }
  | .sel _ | .req _ | .rate | .cascade => s

/-- Width of a queue's drop counter (R536). -/
def xqWidth : Queue → Nat
  | .hop _ | .sel _ => 16
  | _ => 32

/-- QUEUE_READY_FALL (R527): one side is in reset; the words in the queue are dropped and counted, and the writer sees FULL. -/
def execQueueReadyFall (q : Queue) (s : State) : Host.Outcome State Fault Refusal :=
  if s.bothOn q then .next s else
  let n := s.xqWords q
  .next ((s.xqEmpty q).modXq (fun x => { x with full := true, resync := false, drop := satAdd (xqWidth q) n x.drop }) q)

/-- PEER_ABSENT (R529): the writer has seen READY low for 64 of its cycles; `rail` says that the absence comes from a rail loss. -/
def execPeerAbsent (q : Queue) (rail : Bool) (s : State) : Host.Outcome State Fault Refusal :=
  if s.bothOn q ∨ !(s.xq q).present then .next s else
  let s := s.modXq (fun x => { x with present := false }) q
  .next (if rail then s.devEv 10 else s)

/-- QUEUE_HANDSHAKE_DONE (R528). -/
def execQueueHandshakeDone (q : Queue) (s : State) : Host.Outcome State Fault Refusal :=
  if s.bothOn q ∧ (s.xq q).resync then
    .next (s.modXq (fun x => { x with present := true, resync := false, full := false }) q)
  else .next s

end Sys2Proof.Machine
end

