-- ==== Sys2Proof/Machine/Calibration.lean ====
section
/-!
DEFINITION. Calibration runs and Benchmark sessions (R540 to R586).
-/
namespace Sys2Proof.Machine

/-! ## Correction sets and tables (R208, R297, R299, R551 to R558) -/

def ascending : List Nat → Bool
  | a :: b :: l => a < b && ascending (b :: l)
  | _ => true

/-- A set that R299 accepts. -/
def CorrSet.ok (v : CorrSet) : Bool :=
  v.tapPos.length = 64 && v.tapPos.headD 0 ≤ 4096 && ascending v.tapPos && v.tapWid.length = 64 && v.tapWid.all (fun w => 3072 ≤ w ∧ w ≤ 5120)
    && v.vern.length = 32 && v.vern.headD 0 = 0 && ascending v.vern && v.ofs ≤ 1572864

/-- Two entries of a DTC table in order (R208). -/
def dtcPair (a b : Nat) : Bool := dCells a ≤ dCells b && (dCells a ≠ dCells b || dBase a + dGain a ≤ dBase b)
/-- A table of 24 entries that R208 accepts. -/
def dtcOk (l : List Nat) : Bool :=
  l.length = 24 && l.all (fun w => dBase w + dGain w ≤ 2047 && dCells w ≤ 24) && dCells (l.headD 0) = 0
    && (l.zip (l.drop 1)).all fun p => dtcPair p.1 p.2

/-- A list as a table numbered from 0. -/
def tabOf {α : Type} (l : List α) : Tab α := (upTo l.length).zip l

/-- Rows of `n` counts. -/
def rowsOf (n : Nat) : Nat → List Nat → List (List Nat)
  | 0, _ => []
  | k + 1, l => l.take n :: rowsOf n k (l.drop n)
def sumOf (l : List Nat) : Nat := l.foldl (· + ·) 0

/-- The candidate set of a histogram with TAP_POS[0] and CORE_OFS as given (R555). -/
def composeSet (p0 ofs : Nat) (h : List Nat) : CorrSet :=
  let n := sumOf h
  let rows := rowsOf 32 64 h
  let at18 (t : Nat) : Nat := p0 + (roundDiv ((2 ^ 18 * sumOf ((rows.take t).map sumOf) : Nat) : Int) n).toNat
  let hv := (upTo 32).map fun v => sumOf (rows.map fun r => r.getD v 0)
  ⟨(upTo 64).map at18, (upTo 64).map (fun t => at18 (t + 1) - at18 t),
   (upTo 32).map (fun v => (roundDiv ((2 ^ 15 * sumOf (hv.take v) : Nat) : Int) n).toNat), ofs, true⟩

/-- Two candidates of the halves agree within `lim` (R557); a Vernier step is 1/8 of 2^-18 ns at the nominal tap width. -/
def setsAgree (lim : Int) (a b : CorrSet) : Bool :=
  let near (l m : List Nat) (k : Int) : Bool := (l.zip m).all fun p => (((p.1 : Int) - p.2).natAbs : Int) ≤ k
  near a.tapPos b.tapPos lim && near a.tapWid b.tapWid lim && near a.vern b.vern (8 * lim)

/-- Δ′ of R551 in ns, times the tone frequency `f` in 2^-24 Hz. -/
def toneStep (f : Nat) : Int := let a : Nat := 1000000000 * 2 ^ 24; (a : Int) - roundDiv a (max 1 f) * f

/-- Hits that a linearity count takes: K whole beat cycles of L tone edges on the reference path, else 2^22 (R552, R553). -/
def hitsFor (tone : Bool) (f : Nat) : Nat :=
  if !tone then 2 ^ 22 else
  let l := (roundDiv f (max 1 (toneStep f).natAbs)).toNat
  (2 ^ 22 + l - 1) / max 1 l * l

/-- The tone at CAL_IN qualifies for the reference path (R551). -/
def State.toneOk (s : State) : Bool :=
  let f := s.pv P.calFreq
  let d := toneStep f
  s.pv P.calMode = 1 && f ≤ 250000000 * 2 ^ 24 && f ≤ d.natAbs * 2 ^ 24 && d.natAbs * 2 ^ 14 ≤ f

/-- Linearity counts the tone (R569). -/
def State.refPath (s : State) : Bool := s.toneOk && s.pv P.calLinSrc ≠ 2

/-- h_b[t] against h[t]/16: |16·h_b − h| ≤ 16·(5·√(h/16) + 1) (R553). -/
def stationary (hb h : Nat) : Bool :=
  let d := ((16 * hb : Int) - h).natAbs
  d ≤ 16 || (d - 16) * (d - 16) ≤ 400 * h

/-- What a histogram gives: the candidate set, or the reason that ends the run (R548 orders 7 to 9, R555 to R557). -/
def State.linearity (s : State) (tone : Bool) (run : CalRun) (x : Hist) : Except Nat CorrSet :=
  let o := s.setOf x.core
  let h := (x.first.zip x.second).map fun p => p.1 + p.2
  let n := sumOf h
  let p0 := o.tapPos.headD 0
  let taps := (rowsOf 32 64 h).map sumOf
  let v := composeSet p0 o.ofs h
  if n ≠ hitsFor tone run.freq then .error 6
  else if h.length ≠ 2048 ∨ !(h.all fun c => 1 ≤ c ∧ c * 2048 ≤ 4 * n) then .error 8
  else if !tone ∧ !(x.blocks.length = 16 ∧ x.blocks.all fun b => (b.zip taps).all fun p => stationary p.1 p.2) then .error 7
  else if !setsAgree run.spread (composeSet p0 o.ofs x.first) (composeSet p0 o.ofs x.second) then .error 9
  else if !v.ok then .error 0x0A
  else .ok v

/-- The MRK_TRIM step, of 0.25 ps, that brings the MRKn receiver's Δ `m` nearest to `d`, the lower of two (R558). -/
def trimFor (trim : Nat) (m d : Int) : Nat :=
  (upTo 64).foldl (fun b k =>
    let err (j : Nat) : Nat := (1000 * (m - d) + ((j : Int) - trim) * 65536).natAbs
    if err k < err b then k else b) 0

/-! ## Starting runs (R548, R549, R567 to R572) -/

/-- Conditions 1 to 3 of R548 for a run on octants `ks`; `ref` says that it uses CAL_IN or the strobe, `loops` that it needs the loops. -/
def State.calPre (s : State) (ks : List Nat) (ref loops : Bool) : Option Nat :=
  if !s.ref.qual ∨ !s.ref.lock then some 1
  else if !(ks.all fun k => (s.dll k).lock) ∨ (ref && (!(s.dll 8).lock || s.refRetired)) then some 2
  else if loops ∧ !(ks.all fun k => (s.oct k).loop.st = .locked) then some 0x0C
  else none

/-- The run uses CAL_IN or the strobe. -/
def State.usesCalIn (s : State) (kind parts : Nat) : Bool :=
  kind = 2 || (kind = 0 && (parts.testBit 1 || (parts.testBit 0 && s.refPath)))
def CalRun.usesCalIn (r : CalRun) : Bool := r.kind = 2 || (r.kind = 0 && (r.parts.testBit 1 || (r.parts.testBit 0 && r.tone)))
/-- Conditions 1 to 3 for run `r`; a retired loop is no bar to a SURVEY run. -/
def State.runPre (s : State) (r : CalRun) : Option Nat :=
  let ks := if r.kind = 2 then r.octs.filter fun k => (s.oct k).loop.st ≠ .retired else r.octs
  s.calPre ks r.usesCalIn (r.kind ≠ 1)

/-- HOLDER of a run: its channel, or the welt index of its first octant. -/
def CalRun.holder (r : CalRun) : Nat := holderOf 3 (if r.kind = 2 then weltOf (r.octs.headD 0) else r.unit)

/-- PARTS of a run of `kind` that no re-plan action narrows (R569). -/
def State.partsFor (s : State) (kind : Nat) : Nat := if kind = 0 then s.pv P.calParts else if kind = 1 then 1 else 15

/-- What refuses a WELT or STAT run of channel `c` with `parts` (R453, R568, R572). -/
def State.runErr (s : State) (c kind parts : Nat) : Option Rep :=
  let k := octOf c
  let x := s.chan c
  let m := s.pwr.mode
  if ¬(m = .service ∨ m = .holdover ∨ (kind = 1 ∧ m = .survey)) then some (.fail .mode)
  else if kind = 0 ∧ 256 ≤ c then some (.fail .badarg)
  else if kind = 0 ∧ ((s.oct k).noStamp ∨ (s.chan (weltOf k)).st = .retired) then some (.fail .nowelt)
  else match kind, (s.oct k).welt with
    | 0, .standing _ | 0, .retired => some (.fail .nowelt)
    | 0, .loan d => some (.conflict (holderOf 3 d))
    | 0, .takeover d => some (.conflict (holderOf 2 d))
    | _, _ =>
      if kind = 0 ∧ (s.chan (weltOf k)).st = .test then some (.conflict (holderOf 5 (weltOf k)))
      else if kind = 0 ∧ (x.st ≠ .track ∨ x.div.ramp.isSome) then some (.fail .mode)
      else if kind = 1 ∧ (x.st = .idle ∨ x.st = .retired ∨ x.st = .test ∨ x.st = .onWelt ∨ s.cal.runs.any (·.ofChan c)) then some (.fail .mode)
      else match s.cal.runs.find? (·.inOct k), s.cal.bench with
        | some r, _ => some (.conflict r.holder)
        | none, some b => if s.usesCalIn kind parts then some (.conflict (holderOf 3 b.h.door)) else none
        | none, none => none

/-- The welt of the octant is lent to channel `c` and takes its slots, grid and servo state (step 1 of R454). -/
def State.handBegin (c : Nat) (s : State) : State :=
  let k := octOf c
  let s := s.modOct k fun o => { o with welt := .loan c, hand := some ⟨c, 1, 0, 0, 0, false, .init, 0⟩ }
  ((s.handLoad c).modChan (weltOf k) fun w => { w with sw := none }).switchTo (weltOf k) .own

/-- A run begins (R548, R549, R567): with `band`, a SURVEY run measures bands and a welt run reassigns coarse cells (R647). It takes its number and slot, and ends at once where a condition fails. -/
def State.calStart (kind unit parts : Nat) (band : Bool) (s : State) : State :=
  let slot := s.rgClaimTop
  let r : CalRun :=
    { num := s.cal.next, kind := kind, unit := unit, band := band && kind ≠ 0, part := if kind = 0 then 0 else 1, t0 := s.now, sets := [], dtcs := [],
      anchors := [], trims := [], skew := none, dlls := [], welts := [], temp := (s.oct (if kind = 2 then 0 else octOf unit)).temp
      parts := parts, stored := false, slot := slot, oldCores := [], oldDtcs := [], oldDlls := [], oldSkew := none
      oldDivs := [], tPart := s.now, spread := s.pi P.calSpread, runT := s.pv P.calRunTime, freq := s.pv P.calFreq, tone := kind ≠ 1 && s.refPath, reassign := band && kind = 0 }
  let s := match slot with
    | some i => s.rgGrant i 1 true
    | none => s
  let s := s.modCal fun k => { k with next := (k.next + 1) % 2 ^ 32, runs := k.runs ++ [r] }
  match (if slot.isNone then some 0x14 else s.runPre r) with
  | some e => s.calEnd r false e 0
  | none =>
    if kind = 0 then s.handBegin unit
    else if band then s.scanOpen none unit
    else s

/-- CAL_RUN (R567 to R572). -/
def State.opCalRun (h : Hdr) (c kind : Nat) (s : State) : State := match s.runErr c kind (s.partsFor kind) with
  | some r => s.reply h 0x0501 r
  | none => if s.rgClaimTop.isNone then s.reply h 0x0501 (.fail .noSlot) else (s.reply h 0x0501 (.res s.cal.next)).calStart kind c (s.partsFor kind) false

def execCalRun (h : Hdr) (c : Ch) (stat : Bool) (s : State) : Host.Outcome State Fault Refusal :=
  .next (s.viaDoor h 0x0501 (·.opCalRun h c (bit stat)))

/-- CAL_SURVEY (R567, R568). -/
def State.opCalSurvey (h : Hdr) (mask : Nat) (band : Bool) (s : State) : State :=
  if s.pwr.mode ≠ .survey then s.reply h 0x0502 (.fail .mode)
  else match s.cal.runs.find? (fun r => (upTo 8).any fun k => mask.testBit k && r.inOct k) with
    | some r => s.reply h 0x0502 (.conflict r.holder)
    | none =>
      if s.rgClaimTop.isNone then s.reply h 0x0502 (.conflict (s.rgHolder 15)) else (s.reply h 0x0502 (.res s.cal.next)).calStart 2 mask 15 band

def execCalSurvey (h : Hdr) (mask : BitVec 8) (band : Bool) (s : State) : Host.Outcome State Fault Refusal :=
  .next (s.viaDoor h 0x0502 (·.opCalSurvey h mask.toNat band))

/-- CAL_STATUS (R550): `n` entries of the run log, newest first. -/
def State.opCalStatus (h : Hdr) (bd n : Nat) (s : State) : State := match s.streamErr bd with
  | some e => s.reply h 0x0503 (.fail e)
  | none => s.openOut h 0x0503 bd ((s.cal.log.take (wanted n s.cal.log)).flatMap fun w => [BitVec.ofNat 128 w.1, BitVec.ofNat 128 w.2])

def execCalStatus (h : Hdr) (bd : Fin 8) (n : BitVec 16) (s : State) : Host.Outcome State Fault Refusal :=
  .next (s.viaDoor h 0x0503 (·.opCalStatus h bd n.toNat))

/-- CAL_ABORT (R550). -/
def State.opCalAbort (h : Hdr) (n : Nat) (s : State) : State := match s.cal.runs.find? (·.num = n) with
  | some r => (s.calAbort 0x12 r).reply h 0x0504 .ok
  | none => s.reply h 0x0504 (.fail .range)

def execCalAbort (h : Hdr) (n : BitVec 32) (s : State) : Host.Outcome State Fault Refusal :=
  .next (s.viaDoor h 0x0504 (·.opCalAbort h n.toNat))

/-! ## Parts (R551 to R565, R569) -/

/-- A part folded over its measurements: the run with its candidates, or the reason that ends it. -/
def eachOk {α : Type} (f : α → CalRun → Except Nat CalRun) : List α → CalRun → Except Nat CalRun
  | [], r => .ok r
  | a :: l, r => match f a r with
    | .ok r => eachOk f l r
    | .error e => .error e

/-- Core `i` belongs to the run. -/
def CalRun.hasCore (r : CalRun) (i : Nat) : Bool :=
  if r.kind = 2 then 528 ≤ i || r.inOct (octOf (i / 2)) || (r.unit.testBit (octOf (i / 2)))
  else if r.kind = 1 then i = rxCore r.unit else i = rxCore r.unit || i = shCore r.unit

/-- The linearity part (R551 to R557): a core of a WELT or STAT run without a count has no hits. -/
def State.linPart (s : State) (m : PartMeas) (r : CalRun) : Except Nat CalRun :=
  let need := if r.kind = 2 then [] else if r.kind = 1 then [rxCore r.unit] else [rxCore r.unit, shCore r.unit]
  if !(need.all fun i => m.hists.any fun x => x.core = i) then .error 6 else
  eachOk (fun x r => if !r.hasCore x.core then .ok r else match s.linearity r.tone r x with
    | .ok v => .ok { r with sets := r.sets.put x.core v }
    | .error e => .error e) m.hists r

/-- The offset of one core (R557 to R560). -/
def State.ofsOne (s : State) (x : OfsMeas) (r : CalRun) : Except Nat CalRun :=
  let i := x.core.val
  let lim := r.spread
  if !r.hasCore i ∨ i = devCore 1 then .ok r
  else if lim < ((x.first - x.second).natAbs : Int) then .error 9
  else
    let base := (look r.sets i).getD (s.setOf i)
    let r : Except Nat CalRun := match (s.core i).anchor with
      | none => .ok { r with anchors := r.anchors.put i (base.ofs, x.d), sets := r.sets.put i base }
      | some (a, d) =>
        let o : Int := a + (x.d - d)
        if o < 0 ∨ 1572864 < o then .error 0x0A else .ok { r with sets := r.sets.put i { base with ofs := o.toNat } }
    match r, x.mrk with
    | .ok r, some (m, m1, m2) =>
      let t := (s.core i).trim
      let a := trimFor t m1 x.first
      let b := trimFor t m2 x.second
      if lim * 1000 < (((a : Int) - b) * 65536).natAbs then .error 9
      else .ok { r with trims := r.trims.put i (trimFor t m x.d) }
    | e, _ => e

/-! ### The DTC part (R557, R562 to R564) -/

/-- A stamp less the ideal edge time of its edge, 2^-64 comb period. -/
def dtcResidual (comb ratio : Nat) (e : Nat × Nat) : Int := roundDiv ((e.2 * comb * 2 ^ 22 : Nat) : Int) 1000000000 - (e.1 * ratio : Nat)

/-- Residuals less their fitted line over the edge numbers. -/
def detrend (l : List (Nat × Int)) : List (Nat × Int) :=
  let m : Int := l.length
  let sx : Int := (l.map fun e => (e.1 : Int)).sum
  let sy := (l.map (·.2)).sum
  let d := m * (l.map fun e => (e.1 : Int) * e.1).sum - sx * sx
  let k := m * (l.map fun e => (e.1 : Int) * e.2).sum - sx * sy
  l.map fun e => (e.1, e.2 - roundDiv (sy * d + k * (m * e.1 - sx)) (max 1 (m * d).toNat))

/-- Sub-bin (s, u div 1,024) of edge `n`, of 1,536. -/
def subBin (ratio n : Nat) : Nat := let r := n * ratio % 2 ^ 64 / 2 ^ 48; 64 * dtcSeg r + 24 * r % 2 ^ 16 / 1024

/-- Means of the residuals by sub-bin. -/
def dtcMeans (comb ratio : Nat) (recs : List (Nat × Nat)) : List Int :=
  let l := detrend (recs.map fun e => (e.1, dtcResidual comb ratio e))
  (upTo 1536).map fun j =>
    let g := l.filter fun e => subBin ratio e.1 = j
    roundDiv (g.map (·.2)).sum (max 1 g.length)

/-- Measured delay of `n` coarse cells, 2^-64 comb period. -/
def cellsDelay (means : List Int) (n : Nat) : Nat := ((upTo n).map (Config.cellDelay means)).sum
/-- Measured delay with which position `u` of segment `s` is launched under entry `ent`. -/
def launchDelay (means : List Int) (ent s u : Nat) : Nat := cellsDelay means (dCells ent) + Config.fineDelay means s (dtcFine ent u)

/-- The fine code of segment `s` that gives delay `x`/24 of a comb period behind `cells` cells, the lowest of the nearest. -/
def fineFor (means : List Int) (s cells x : Nat) : Nat :=
  let err (f : Nat) : Nat := ((24 * (cellsDelay means cells + Config.fineDelay means s f) : Nat) - (x * 2 ^ 64 : Nat) : Int).natAbs
  (upTo 2048).foldl (fun b f => if err f < err b then f else b) 0

/-- The entry of segment `s` behind `cells` coarse cells. -/
def entryFor (means : List Int) (s cells : Nat) : Nat :=
  let base := fineFor means s cells s
  base + 2 ^ 11 * (fineFor means s cells (s + 1) - base) + 2 ^ 23 * cells + 2 ^ 28
/-- The entry of segment `s` (R563); in a DTC_REASSIGN run a segment whose BASE limits its headroom gives up one coarse cell (R633, R647). -/
def composeEntry (means : List Int) (re : Bool) (s : Nat) : Nat :=
  let cells := (upTo 25).foldl (fun b n => if 24 * cellsDelay means n ≤ s * 2 ^ 64 then n else b) 0
  let w := entryFor means s cells
  if re ∧ 2 * dBase w + dGain w < 2047 ∧ cells ≠ 0 then entryFor means s (cells - 1) else w

def composeDtc (means : List Int) (re : Bool) : List Nat := (upTo 24).map (composeEntry means re)

/-- The delay that a table predicts falls nowhere by more than 0.5 ps from one sub-bin to the next (R564). -/
def dtcMono (comb : Nat) (means : List Int) (l : List Nat) : Bool :=
  let at' (j : Nat) : Nat := launchDelay means (l.getD (j / 64) 0) (j / 64) (1024 * (j % 64))
  (upTo 1535).all fun j => decide ((at' j - at' (j + 1)) * 2 * 10 ^ 12 * 2 ^ 24 ≤ comb * 2 ^ 64)

/-- Tables `a` and `b` agree within `lim`, 2^-18 ns, at the start and the end of every segment (R557). -/
def dtcAgree (comb : Nat) (lim : Int) (means : List Int) (a b : List Nat) : Bool :=
  (upTo 24).all fun s => [0, 2 ^ 16].all fun u =>
    let d := (launchDelay means (a.getD s 0) s u : Int) - launchDelay means (b.getD s 0) s u
    decide ((d.natAbs : Int) * (10 ^ 9 * 2 ^ 42) ≤ lim * (comb * 2 ^ 64 : Nat))

/-- The DTC part of one channel index: the table composed from its records (R557, R562 to R564). -/
def State.dtcOne (s : State) (x : DtcMeas) (r : CalRun) : Except Nat CalRun :=
  if (r.kind = 2 ∧ !r.inOct (octOf x.ch)) ∨ (r.kind = 0 ∧ x.ch.val ≠ r.unit) then .ok r else
  let comb := (s.oct (octOf x.ch)).loop.combF
  let means (l : List (Nat × Nat)) : List Int := dtcMeans comb (s.chan x.ch).div.dtcRatio l
  let w := means x.recs
  let l := composeDtc w r.reassign
  let half (l : List (Nat × Nat)) : List Nat := composeDtc (means l) r.reassign
  if !dtcMono comb w l then .error 0x0B
  else if !dtcAgree comb r.spread w (half (x.recs.take (dtcRecs / 2))) (half (x.recs.drop (dtcRecs / 2))) then .error 9
  else if !dtcOk l then .error 0x0A
  else .ok { r with dtcs := r.dtcs.put x.ch (tabOf l) }

/-- The channels whose characteristic is not monotonic (R564). -/
def State.notMono (s : State) (m : PartMeas) (r : CalRun) : List Nat :=
  (m.dtcs.filter fun x => match s.dtcOne x r with
    | .error e => e = 0x0B
    | .ok _ => false).map (·.ch.val)

/-- The skew part (R557, R569): HAND_SKEW within its range. -/
def State.skewPart (s : State) (m : PartMeas) (r : CalRun) : Except Nat CalRun := match m.skew with
  | some (d, a, b) =>
    if r.spread < ((a - b).natAbs : Int) then .error 9
    else if 2 ^ 18 < d.natAbs then .error 0x0A
    else .ok { r with skew := some (d, (s.oct (octOf r.unit)).temp) }
  | none => .error 4

/-- The range whose locked CTRL lies nearest 512, the lower of two (R565). -/
def bestRange (l : List (Fin 8 × BitVec 10)) : Option (Nat × Nat) :=
  (sortKey (fun x : Nat × Nat => x.1) (l.map fun x => (x.1.val, x.2.toNat))).foldl (fun b x => match b with
    | some y => if ((x.2 : Int) - 512).natAbs < ((y.2 : Int) - 512).natAbs then some x else b
    | none => some x) none

/-- The DLL part (R294, R565): each loop takes its best range and relocks; one that locks on none raises DLL_FAIL. -/
def State.dllPart (m : PartMeas) (num : Nat) (s : State) : State :=
  forAll m.dlls (fun x s => match s.cal.runs.find? (·.num = num) with
    | none => s
    | some r =>
      let k := x.1.val
      if k < 8 ∧ !r.unit.testBit k then s else
      match bestRange x.2 with
      | some (g, c) =>
        let old := (s.dll k).range
        let s := s.modDll k fun d => { d with range := g, ctrl := c, lock := true }
        let r := { r with dlls := if g = old then r.dlls else r.dlls.put k g, oldDlls := if g = old then r.oldDlls else r.oldDlls.put k old }
        s.modCal fun c => { c with runs := c.runs.map fun y => if y.num = num then r else y }
      | none =>
        let s := s.modDll k fun d => { d with lock := false, fail := true }
        if k < 8 then (s.fault kindStamp k 11).retireStamping k
        else ((s.fault kindRefStamp 0 11).commit none 0 (.retire kindRefStamp 0 11)).calAbortIf 2 (·.kind = 2)) s

/-- The run's present corrections, kept while its candidates are loaded (R542). -/
def State.keepOld (s : State) (r : CalRun) : CalRun :=
  let is := (r.sets.map (·.1) ++ r.anchors.map (·.1) ++ r.trims.map (·.1)).eraseDups
  { r with
    oldCores := is.foldl (fun t i => t.put i ((s.core i).set, (s.core i).anchor, (s.core i).trim)) []
    oldDtcs := r.dtcs.map fun e => (e.1, (s.chan e.1).div.dtc)
    oldSkew := if r.skew.isSome then some ((s.chan r.unit).handSkew, (s.chan r.unit).hsTemp) else none }

/-- The check before the commit, and the commit (R541, R542, R548, R569): a welt run loads its candidates and begins the return. -/
def State.calFinish (r : CalRun) (s : State) : State := match s.runPre r with
  | some e => s.calAbort e r
  | none =>
    if r.kind = 0 then
      let r := { s.keepOld r with stored := true }
      (((r.load s).setRun r).commit none 0 (.cal r)).beginReturn (octOf r.unit)
    else
      let r := { r with stored := true }
      (s.setRun r).commit none 0 (.cal r)

/-- The result of the part in progress. -/
def State.partResult (s : State) (m : PartMeas) (r : CalRun) : Except Nat CalRun := match r.kind, r.part with
  | 2, 2 => match s.linPart m r with
    | .ok r =>
      let r := { r with welts := m.welts.foldl (fun t w => t.put (weltCore w.1) (tabOf (w.2.map (·.toNat)))) r.welts }
      eachOk s.ofsOne m.ofs r
    | .error e => .error e
  | 2, _ => eachOk s.dtcOne m.dtcs r
  | _, 1 => s.linPart m r
  | _, 2 =>
    if m.ofs.any (fun x => x.core = rxCore r.unit) ∧ m.ofs.any (fun x => x.core = shCore r.unit) then eachOk s.ofsOne m.ofs r else .error 4
  | _, 3 => if m.dtcs.any (fun x => x.ch = r.unit) then eachOk s.dtcOne m.dtcs r else .error 4
  | _, _ => s.skewPart m r

/-- A part of run `r` ends the run: DTC_MONO is a permanent fault of its channel (R564). -/
def State.partFails (e : Nat) (m : PartMeas) (r : CalRun) (s : State) : State :=
  if e = 0x0B then
    let cs := s.notMono m r
    let s := s.calEnd r false 0x0B 0
    forAll cs (fun c s => (s.fault kindChan c 8).retireChan 8 c) s
  else s.calAbort e r

/-- A DTC part whose records are not yet all taken goes on (R562). -/
def State.dtcShort (_ : State) (m : PartMeas) (r : CalRun) : Bool :=
  ((r.kind = 0 && r.part = 3) || (r.kind = 2 && r.part = 4)) && m.dtcs.any fun x => x.recs.length ≠ dtcRecs

/-- CAL_PART_DONE (R548, R551 to R571): the part in progress of run `n` has ended with `m`. Sub-steps 1 to 5 are 5a to 5e of a welt run; a
SURVEY run has 1 DLL ranges, 2 linearity and offsets, 4 DTC tables; 5 is the check of every run. -/
def execCalPartDone (n : BitVec 32) (m : PartMeas) (s : State) : Host.Outcome State Fault Refusal :=
  match s.cal.runs.find? (·.num = n.toNat) with
  | none => .next s
  | some r =>
    if r.part = 0 ∨ r.stored then .next s else
    let s := if r.kind = 2 then s.modCal fun c => { c with
        checked := (c.checked ++ m.passed.map fun u => retKey u.1 u.2).eraseDups } else s
    if m.fail.isNone ∧ s.dtcShort m r then .next s else
    match m.fail with
    | some f => .next (s.calAbort (f.val + 3) r)
    | none =>
      if r.kind = 2 ∧ r.part = 1 then
        let s := s.dllPart m r.num
        .next (match s.cal.runs.find? (·.num = n.toNat) with
          | some r => s.toPart r 2
          | none => s)
      else if r.part = 5 then
        if r.kind = 2 ∧ s.grat.scans.any (fun x => x.1.isNone && x.2 = r.unit) then .next s else .next (s.calFinish r)
      else match s.partResult m r with
        | .error e => .next (s.partFails e m r)
        | .ok r' =>
          let p := if r.kind = 2 then (if r.part = 2 then 4 else 5) else r.partFrom (r.part + 1)
          .next (s.toPart r' p)

/-- CAL_RUN_T (R550). -/
def execCalRunT (n : BitVec 32) (s : State) : Host.Outcome State Fault Refusal := match s.cal.runs.find? (·.num = n.toNat) with
  | some r => if s.now - r.t0 < r.runT then .next s else .next (s.calAbort 0x19 r)
  | none => .next s

/-! ## The schedule (R574, R575) -/

/-- Age in 2^-18 ns of DTS time `t`. -/
def State.ageOf (s : State) (t : Nat) : Nat := s.now - t
/-- The set of core `i` has moved more than `lim` in temperature since its measurement. -/
def State.tempMoved (s : State) (i : Nat) (lim : Int) : Bool := match look s.cal.meas i with
  | some (_, t) => i < 528 && decide (lim < (((s.oct (octOf (i / 2))).temp - t).natAbs : Int))
  | none => false

/-- A run of kind `kind` on channel `c` is due. -/
def State.calDue (s : State) (kind c : Nat) : Bool := match look s.cal.retry (4096 * kind + c) with
  | some t => s.pv P.calRetryT * secU ≤ s.ageOf t
  | none =>
    if kind = 0 then
      s.cal.due.contains c || (match look s.cal.lastWelt c with
        | some t => s.pv P.calPeriod * secU ≤ s.ageOf t
        | none => true) || s.tempMoved (rxCore c) (ofBits 16 (s.pv P.calTempTrig)) || s.tempMoved (shCore c) (ofBits 16 (s.pv P.calTempTrig))
    else s.pv P.calStatPeriod ≠ 0 && (match look s.cal.meas (rxCore c) with
      | some (t, _) => s.pv P.calStatPeriod * secU ≤ s.ageOf (t * secU)
      | none => true)

/-- The channel of octant `k` that is due and longest without a run of its kind. -/
def State.calNext (s : State) (kind k : Nat) : Option Nat :=
  let last (c : Nat) : Nat := if kind = 0 then (look s.cal.lastWelt c).getD 0 else ((look s.cal.meas (rxCore c)).map (·.1)).getD 0
  ((upTo 32).map (32 * k + ·)).foldl (fun b c =>
    if !s.calDue kind c ∨ (s.runErr c kind (s.partsFor kind)).isSome then b else match b with
    | some d => if last c < last d then some c else b
    | none => some c) none

/-- CAL_SCHEDULE (R574): a WELT or STAT run of octant `k`. -/
def execCalSchedule (k : OctIx) (stat : Bool) (s : State) : Host.Outcome State Fault Refusal :=
  if s.pv P.calSched ≠ 1 ∨ s.cal.bench.isSome then .next s else
  match s.calNext (bit stat) k with
  | some c => .next (s.calStart (bit stat) c (s.partsFor (bit stat)) false)
  | none => .next s

/-- CAL_STALE (R575): core `i`, by its number, once per occurrence. -/
def execCalStale (i : Fin 532) (s : State) : Host.Outcome State Fault Refusal := match look s.cal.meas i with
  | none => .next s
  | some (t, _) =>
    if 31 * 86400 * secU ≤ s.ageOf (t * secU) ∨ s.tempMoved i 1280 then
      if s.cal.stale.contains i then .next s
      else .next ((s.modCal fun c => { c with stale := i.val :: c.stale }).post ⟨0x8502, i, 0, 0⟩)
    else .next (s.modCal fun c => { c with stale := c.stale.filter (· ≠ i.val) })

/-! ## Benchmark sessions (R576 to R581) -/

/-- BM_OPEN (R463, R568, R576). -/
def State.opBmOpen (h : Hdr) (uRef refId oper : Nat) (s : State) : State :=
  if uRef = 2 ^ 63 then s.reply h 0x0510 (.fail .badarg) else
  if (s.pwr.mode ≠ .service ∧ s.pwr.mode ≠ .holdover) ∨ s.refRetired then s.reply h 0x0510 (.fail .mode) else
  match s.cal.bench, s.cal.runs.find? CalRun.usesCalIn with
  | some b, _ => s.reply h 0x0510 (.conflict (holderOf 3 b.h.door))
  | none, some r => s.reply h 0x0510 (.conflict r.holder)
  | none, none =>
    match (upTo 16).reverse.filter (fun i => (s.rgSlot i).prio = 0) with
    | i :: j :: _ =>
      let s := (s.rgGrant i 1 true).rgGrant j 1 true
      let b : Bench := ⟨h, s.cal.next, uRef, refId, oper, s.now, 0, 0, none, [], [i, j]⟩
      let s := s.modCal fun c => { c with next := (c.next + 1) % 2 ^ 32, bench := some b }
      (s.modPar (·.setDev P.calMode (some 2))).reply h 0x0510 .ok
    | _ => s.reply h 0x0510 (.conflict (s.rgHolder 15))

def execBmOpen (h : Hdr) (uRef : BitVec 64) (refId : BitVec 256) (oper : BitVec 128) (s : State) : Host.Outcome State Fault Refusal :=
  .next (s.viaDoor h 0x0510 (·.opBmOpen h uRef.toNat refId.toNat oper.toNat))

/-- What lies beyond the nearest whole multiple of 2^24·secU / f, times f (R576). -/
def beyond (x : Int) (f : Nat) : Int :=
  let p : Nat := 2 ^ 24 * secU
  x * f - roundDiv (x * f) p * p

/-- BM_REF (R576): the stamps of 64 pulses. -/
def State.opBmRef (h : Hdr) (dCal : BitVec 64) (uCal : Nat) (stamps : List Nat) (s : State) : State :=
  if !tivOk dCal.toInt ∨ uCal = 2 ^ 63 then s.reply h 0x0511 (.fail .badarg) else
  match s.cal.bench with
  | none => s.reply h 0x0511 (.conflict 0)
  | some b =>
    let f := max 1 (s.pv P.calFreq)
    let o := roundDiv (stamps.foldl (fun (a : Int) (t : Nat) => a + beyond ((t : Int) - dCal.toInt) f) 0) (max 1 stamps.length * f)
    (s.modCal fun c => { c with bench := some { b with dCal := dCal.toInt, uCal := uCal, refOfs := some o } }).reply h 0x0511
      ⟨.ok, 0, 0, 0, [tivWord o]⟩

def execBmRef (h : Hdr) (dCal uCal : BitVec 64) (stamps : List Nat) (s : State) : Host.Outcome State Fault Refusal :=
  .next (s.viaDoor h 0x0511 (·.opBmRef h dCal uCal.toNat stamps))

/-- BM_LOOP (R577): the error of one path, its whole periods taken from D_LB. -/
def State.opBmLoop (h : Hdr) (c path : Nat) (dLb : BitVec 64) (uLb : Nat) (m : LoopMeas) (s : State) : State :=
  if path = 0 ∨ !tivOk dLb.toInt ∨ uLb = 2 ^ 63 then s.reply h 0x0512 (.fail .badarg) else
  match s.cal.bench with
  | none => s.reply h 0x0512 (.conflict 0)
  | some b =>
    if path = 3 ∧ s.tests.any (fun r => r.kind = 1 ∧ r.unit = c) then s.reply h 0x0512 (.conflict (holderOf 5 c)) else
    if m.hop then s.reply h 0x0512 (.fail .hop) else
    let f := max 1 (s.freqOf c)
    let x := beyond ((m.tIn : Int) - m.tSrc - dLb.toInt) f
    if 2 ^ 24 * secU < 4 * x.natAbs then s.reply h 0x0512 (.fail .loopback) else
    let e := roundDiv x f
    let p : BmPath := ⟨c, path, dLb.toInt, uLb, dLb.toInt + e, e, (s.oct (octOf c)).temp, m.used⟩
    (s.modCal fun k => { k with bench := some { b with paths := b.paths.filter (fun q => ¬(q.ch = c ∧ q.path = path)) ++ [p] } }).reply h 0x0512
      ⟨.ok, 0, 0, 0, [tivWord p.m + 2 ^ 64 * tivWord e]⟩

def execBmLoop (h : Hdr) (c : Ch) (path : Fin 4) (dLb uLb : BitVec 64) (m : LoopMeas) (s : State) : Host.Outcome State Fault Refusal :=
  .next (s.viaDoor h 0x0512 (·.opBmLoop h c path dLb uLb.toNat m))

/-- This session's TXM_CAL path of a channel. -/
def Bench.txm (b : Bench) (c : Nat) : Option BmPath := b.paths.find? fun p => p.ch = c ∧ p.path = 1
/-- Steps of 0.25 ps nearest to `e`. -/
def trimSteps (e : Int) : Int := roundDiv (e * 1000) 65536
/-- The correction that a path applies, 2^-18 ns (R577). -/
def Bench.corr (b : Bench) (p : BmPath) : Int := match p.path with
  | 1 => -p.e
  | 2 => p.e - ((b.txm p.ch).map (·.e)).getD 0
  | _ => roundDiv (trimSteps (-p.e) * 65536) 1000

/-- The expanded uncertainty of a path (R581): u_dev is 1.25 ps, 327.68 units of 2^-18 ns. -/
def Bench.expanded (b : Bench) (p : BmPath) : Nat :=
  let t := if p.path = 2 then ((b.txm p.ch).map (·.uLb)).getD 0 else 0
  (isqrt 80 (4 * (32768 * 32768 + 10000 * (b.uRef * b.uRef + b.uCal * b.uCal + p.uLb * p.uLb + t * t))) + 50) / 100

/-- The payload of a Benchmark record but for the generation of word 0 (R580, R620). -/
def State.benchPay (s : State) (b : Bench) : List Nat :=
  let last := (s.benches.getLast?.map (·.1)).getD 0
  let img := (s.img.map (·.rel)).getD 0
  [ fld 0 32 (last + 1) + fld 32 32 last + fld 112 16 b.paths.length,
    Config.deviceId.toNat + fld 64 32 img + fld 96 32 (s.otp.oem.getD 0), dtfOf b.t0, dtfOf s.now,
    b.refId % 2 ^ 128, b.refId / 2 ^ 128, b.oper, fld 0 64 b.uRef + 2 ^ 64 * toBits 64 b.dCal,
    fld 0 64 b.uCal + 2 ^ 64 * tivWord (b.refOfs.getD 0) ] ++
  b.paths.flatMap fun p =>
    [ toBits 64 p.dLb + fld 64 64 p.uLb, tivWord p.m + 2 ^ 64 * tivWord (b.corr p),
      fld 0 64 (b.expanded p) + fld 64 12 p.ch + fld 76 4 p.path + fld 80 16 (toBits 16 p.temp) + fld 96 16 (min 65535 (p.used / 1000)) ]

/-- New CORE_OFS of the cores, and new MRK_TRIM, that a session gives (R577); an offset stays within the range of R297. -/
def State.benchOfs (s : State) (b : Bench) : List (Nat × Nat) :=
  (b.paths.filter (·.path ≠ 3)).map fun p =>
    let i := if p.path = 1 then shCore p.ch else rxCore p.ch
    (i, (max 0 (min 1572864 (((s.setOf i).ofs : Int) + b.corr p))).toNat)
def State.benchTrims (s : State) (b : Bench) : List (Nat × Nat) :=
  (b.paths.filter (·.path = 3)).map fun p =>
    (shCore p.ch, (max 0 (min 63 (((s.core (shCore p.ch)).trim : Int) + trimSteps (-p.e)))).toNat)

/-- The octants of a session's paths. -/
def Bench.octs (b : Bench) : List Nat := (b.paths.map fun p => octOf p.ch).eraseDups

/-- A Benchmark record waits for its commit. -/
def State.benchQueued (s : State) : Bool := s.store.q.any fun r => match r.ch with
  | .bench .. => true
  | _ => false

/-- BM_CLOSE (R548 orders 1 to 4, R578): `slope` says that a sensor's slope is below 0.5 K/min. -/
def State.opBmClose (h : Hdr) (slope : Bool) (s : State) : State := match s.cal.bench with
  | none => s.reply h 0x0513 (.conflict 0)
  | some b =>
    match (s.calPre b.octs true false).or (if slope then none else some 3) with
    | some e => s.reply h 0x0513 (.named .mode e)
    | none =>
      if s.benchQueued then s.reply h 0x0513 (.fail .busy)
      else s.commit (some h) 0x0513 (.bench (s.benchPay b) (s.benchOfs b) (s.benchTrims b) (b.paths.map (·.ch)).eraseDups)

def execBmClose (h : Hdr) (slope : Bool) (s : State) : Host.Outcome State Fault Refusal :=
  .next (s.viaDoor h 0x0513 (·.opBmClose h slope))

/-- BM_ABORT (R576): nothing is committed. -/
def State.opBmAbort (h : Hdr) (s : State) : State := (s.benchEnd 0x12 0).reply h 0x0514 .ok

def execBmAbort (h : Hdr) (s : State) : Host.Outcome State Fault Refusal := .next (s.viaDoor h 0x0514 (·.opBmAbort h))

/-- BM_EXPIRED (R579): the session has lasted BM_T. -/
def execBmExpired (s : State) : Host.Outcome State Fault Refusal := match s.cal.bench with
  | some b =>
    if s.pv P.bmT * secU ≤ s.ageOf b.t0 then .next ((s.benchEnd 0x12 0).post ⟨0x8503, 0, 0, 0⟩) else .next s
  | none => .next s

end Sys2Proof.Machine
end

