-- ==== Sys2Proof/Machine/Gauges.lean ====
section
/-!
DEFINITION. The gauge log, thresholds and re-plan actions, and the wear commands (R633 to R658).
-/
namespace Sys2Proof.Machine

/-! ## Re-plan actions (R646 to R653) -/

def dayS : Nat := 86400
/-- Octant that a re-plan event names. -/
def gwOct (i : Nat) : Nat := match gwOf i with
  | (1, n) | (5, n) => n
  | (2, n) => if n < 8 then n else 0
  | (3, n) | (4, n) => octOf n
  | _ => 0
/-- PARAMS of GW_REPLAN, GW_END and REPLAN_REQ but for the octant (R784). -/
def gwParams (i action : Nat) : Nat := fld 0 4 (gwOf i).1 + fld 4 12 (gwOf i).2 + fld 16 4 action
def State.replanReq (i action : Nat) (v : Int) (s : State) : State :=
  s.post ⟨0x8704, gwParams i action + fld 20 4 (gwOct i), 0, toBits 64 v⟩
/-- Action of a gauge, in R647 order from 1. -/
def gwAction (g : Nat) : Nat := match g with
  | 1 => 1
  | 2 => 3
  | 3 => 4
  | 5 => 5
  | 6 => 6
  | _ => 7

/-- A calibration run or a Benchmark session holds the unit of instance `i` (R652). -/
def State.gwHeld (s : State) (i : Nat) : Bool :=
  let c := (gwOf i).2
  match (gwOf i).1 with
  | 1 | 5 => s.cal.runs.any fun r => r.kind = 2 && r.inOct c
  | 3 => s.cal.runs.any (fun r => r.ofChan c || (r.kind = 2 && r.inOct (octOf c))) || s.cal.bench.any fun b => b.paths.any (·.ch = c)
  | _ => false

def State.gwAgain (i : Nat) (s : State) : State := s.modGwi i fun x => { x with again := true }
/-- An action of instance `i` has run. -/
def State.gwRan (i : Nat) (s : State) : State :=
  s.modGwi i fun x => { x with replanN := satAdd 8 1 x.replanN, acted := some s.gw.secs, again := false, want := 0 }

/-- F_CTR of the point of every VALID band of loop `k` nearest the octant temperature, less the shift of the entry in use
(GRAT_RECENTRE, R647). -/
def State.recentred (s : State) (k : Nat) : List (Nat × W128) :=
  let l := (s.oct k).loop
  let t := (s.oct k).temp
  let e := s.gratEnt (gratIx k l.band (s.pointOf k))
  let shift := roundDiv ((gCtr e : Int) * 2 ^ 24 - s.feedVco k + (gKv e : Int) * l.tune * 2 ^ 24) (2 ^ 24)
  (upTo 64).filterMap fun b => (nearValid t (s.gPts k b)).map fun p =>
    let w := s.gratEnt (gratIx k b p)
    (gratIx k b p, BitVec.ofNat 128 (gSet 92 4 2 (gSet 0 40 (toBits 40 ((gCtr w : Int) - shift)) w)))

/-- ML_LKWIN of loop `k` raised by a quarter to a whole picosecond, at most GW_LKWIN_MAX, and ML_LOSSWIN at least as wide (WIDEN_LOCK,
R190, R647). -/
def State.widened (s : State) (k : Nat) : List (Nat × Option Nat) :=
  let w := s.pv (P.mlLkwin + 16 * k)
  let ps := (5 * 1000 * w + 4 * 2 ^ 18 - 1) / (4 * 2 ^ 18)
  let v := max w (min (roundDiv ((ps * 2 ^ 18 : Nat) : Int) 1000).toNat (s.pv P.gwLkwinMax))
  (P.mlLkwin + 16 * k, some v) ::
    (if s.pv (P.mlLosswin + 16 * k) < v then [(P.mlLosswin + 16 * k, some v)] else [])

/-- A welt run with CAL_PARTS = DTC, or the request for a SURVEY run where no welt is usable (DTC_REASSIGN, R647, R652). -/
def State.dtcReassign (i : Nat) (v : Int) (s : State) : State :=
  let c := (gwOf i).2
  match s.runErr c 0 4 with
  | some r => if r.err = .nowelt ∨ r.err = .badarg then (s.replanReq i 4 v).gwRan i else s.gwAgain i
  | none => if s.rgClaimTop.isNone then s.gwAgain i else (s.calStart 0 c 4 true).gwRan i

/-- Action `code` of instance `i` runs (R647, R651, R652). -/
def State.gwRun (i code : Nat) (v : Int) (s : State) : State :=
  if s.gwHeld i then s.gwAgain i else
  match code with
  | 1 => (s.commit none 0x0705 (.grat (s.recentred (gwOf i).2))).gwRan i
  | 4 => s.dtcReassign i v
  | 5 => (s.commit none 0x0705 (.params (s.widened (gwOf i).2) [])).gwRan i
  | 6 => (s.commit none 0x0705 (.params [(P.hoModel, some 1)] [])).gwRan i
  | _ => s.modGwi i fun x => { x with acted := some s.gw.secs, again := false }

/-- The action of a gauge follows (R649, R650): it runs at once, or is posted for the host to run or to perform. -/
def State.gwAct (i : Nat) (v : Int) (s : State) : State :=
  let code := gwAction (gwOf i).1
  if code = 3 ∨ (code ≠ 7 ∧ s.pv P.gwAuto = 1) then
    (s.replanReq i code v).modGwi i fun x => { x with
      acted := some s.gw.secs, again := false, want := if code = 3 then 0 else code }
  else s.gwRun i code v

/-- MARGIN (R169, R653): the event of the loop, the request on the event door, and the G1 action at once. -/
def execMargin (k : OctIx) (tune : Int) (s : State) : Host.Outcome State Fault Refusal :=
  let l := (s.oct k).loop
  if l.st = .locked ∧ !l.warned ∧ s.pv (P.mlTuneWarn + 16 * k) < tune.natAbs then
    let s := (s.modLoop k fun l => { l with tune := tune, warned := true }).mlEv k 10
    let s := s.replanReq k 1 tune
    .next (if s.pv P.gwAuto = 1 then s.modGwi k fun x => { x with want := 1 } else s.gwRun k 1 tune)
  else .next s

/-! ## The log (R634, R639 to R648, R654) -/

/-- What a log measures takes its place in the state. -/
def State.gwMeasure (m : GwMeas) (s : State) : State :=
  let s := forAll m.temps (fun e s => s.setTemp e.1 e.2.toInt) s
  let s := forAll m.tunes (fun e s => if s.loopSampled e.1 then s.modLoop e.1 fun l => { l with tune := e.2.toInt } else s) s
  forAll m.ctrls (fun e s => s.modDll e.1 fun d => if d.lock then { d with ctrl := e.2.toNat } else d) s

/-- The first sample of the series as measured: driver current of G4, ring median of G5. -/
def State.gwRaw (s : State) (m : GwMeas) (p : List Nat) (i : Nat) : Option Int := match gwOf i with
  | (4, c) => (m.drv.find? (fun e => e.1.val = c)).map fun e => e.2.toNat
  | (5, k) => if s.gwStale i ∨ (s.gwi i).first.isNone then ageRing p k else (s.gwi i).first
  | _ => none

/-- The sample of instance `i` joins its series, or begins one (R643); the fit that follows it (R644, R645). -/
def State.gwSample (m : GwMeas) (p : List Nat) (i : Nat) (s : State) : State :=
  let x := s.gwi i
  let stale := s.gwStale i
  let first := if stale ∨ x.first.isNone then s.gwRaw m p i else x.first
  match s.ageVal p first i with
  | none => s.modGwi i fun x => { x with valid := false }
  | some v =>
    let fresh : Bool := stale || x.n = 0
    let x : GwInst :=
      if fresh then { x with
        n := 1, t0 := s.gw.secs, t1 := s.gw.secs, ctx := s.gwCtx i, first := first, restart := false
        replanN := if stale then 0 else x.replanN }
      else { x with n := satAdd 32 1 x.n, t1 := s.gw.secs }
    let s := s.modGwi i fun _ => { x with val := v, valid := true }
    let f := if fresh then (1, List.replicate 4 0xFFFFFFFF) else s.forecast i
    s.modGwi i fun x => { x with fit := f.1, dates := f.2 }

/-- GW_SOON of threshold `th` (0 re-plan, 1 end) where the early date comes within GW_WARN_T (R654). -/
def State.gwSoon (i th : Nat) (s : State) : State :=
  let x := s.gwi i
  let d := x.dates.getD (2 * th + 1) 0xFFFFFFFF
  let near : Bool := d ≠ 0xFFFFFFFF && d * dayS ≤ s.pv P.gwWarnT
  let was := if th = 0 then x.soonRp else x.soonEnd
  let s := s.modGwi i fun x => if th = 0 then { x with soonRp := near } else { x with soonEnd := near }
  if near ∧ !was then s.post ⟨0x8703, fld 0 4 (gwOf i).1 + fld 4 12 (gwOf i).2 + fld 16 1 th + fld 32 32 d, 0, 0⟩ else s

/-- The newest sample of instance `i` against its thresholds (R646, R648). -/
def State.gwCheck (i : Nat) (s : State) : State :=
  let x := s.gwi i
  if !x.valid then s else
  let g := (gwOf i).1
  let b := s.gwBeyond g x.val
  let action := gwAction g
  let s := s.modGwi i fun y => { y with rp := b.1, fin := b.2 }
  let s := if b.1 ∧ !x.rp then s.post ⟨0x8701, gwParams i action, 0, toBits 64 x.val⟩ else s
  let s := if b.2 ∧ !x.fin then s.post ⟨0x8702, gwParams i 0, 0, toBits 64 x.val⟩ else s
  let late : Bool := match x.acted with
    | some t => t + 7 * dayS ≤ s.gw.secs
    | none => true
  let s := if x.again ∨ (b.1 ∧ (!x.rp ∨ late)) then s.gwAct i x.val else s
  (s.gwSoon i 0).gwSoon i 1

/-- GW_SERIES of the instances whose series this log restarts (R643). -/
def State.gwStarts (s : State) (l : List Nat) : Change :=
  let h := s.gw.secs / 3600
  .params (l.filterMap fun i => match gwKey i with
      | .inr id => some (id, some h)
      | .inl _ => none)
    (l.filterMap fun i => match gwKey i with
      | .inl k => some (k, h)
      | .inr _ => none)

/-- The AGE record is queued; it replaces one that waits and has not begun, whose GW_LOG_NOW gets HOLDUP (R642). -/
def State.gwStore (h : Option Hdr) (pay : List Nat) (s : State) : State :=
  let q := s.store.q
  let k := if s.store.prog.isSome ∨ s.store.att ≠ 0 then 1 else 0
  let isAge (r : StoreReq) : Bool := match r.ch with
    | .age _ => true
    | _ => false
  match (q.drop k).find? isAge with
  | some o =>
    let s := s.replyTo o.h 0x0703 (.fail .holdup)
    let r : StoreReq := ⟨h, 0x0703, .age pay, 0, [], s.now / secU, s.store.gen⟩
    (s.modStore fun d => { d with q := q.take k ++ (q.drop k).map fun x => if isAge x then r else x }).modGw fun g => { g with
      skip := satAdd 32 1 g.skip }
  | none => s.commit h 0x0703 (.age pay)

/-- A log (R639 to R648): every instance is sampled, the AGE record queued, TLOCK written, fits and thresholds checked. -/
def State.gwLog (h : Option Hdr) (m : GwMeas) (s : State) : State :=
  let s := s.gwMeasure m
  let s := if s.gw.seq = 0 then match s.ages.getLast? with
      | some (n, _) => s.modGw fun g => { g with seq := n + 1 }
      | none => s
    else s
  let pay := s.agePay m
  let new := (upTo 556).filter fun i => s.gwStale i ∧ (s.ageVal pay none i).isSome
  let s := (s.gwStore h pay).loadTlock pay
  let s := if new = [] then s else s.commit none 0 (s.gwStarts new)
  let s := forAll (upTo 556) (fun i s => State.gwSample m pay i s) s
  let s := s.modGw fun g => { g with last := g.secs, per := s.pv P.gwLogPeriod, tMax := -32768, g6 := (0, 0), dts := s.now }
  forAll (upTo 556) (fun i s => s.gwCheck i) s

/-- GW_LOG (R639, R658): a log falls due each GW_LOG_PERIOD of powered time; a write of the period applies from the next sample. -/
def execGwLog (m : GwMeas) (s : State) : Host.Outcome State Fault Refusal :=
  if s.pwr.rom ∨ s.pwr.held ∨ s.gw.secs < s.gw.last + s.gw.per then .next s else .next (s.gwLog none m)

/-- GW_LOG_NOW (R655). -/
def execGwLogNow (h : Hdr) (m : GwMeas) (s : State) : Host.Outcome State Fault Refusal :=
  .next (s.viaDoor h 0x0703 (·.gwLog (some h) m))

/-- 60 s of ACLK have passed at junction temperature `temp` (R637, R640). -/
def execG8Accumulate (temp : BitVec 16) (s : State) : Host.Outcome State Fault Refusal :=
  if s.pwr.rom ∨ s.pwr.held then .next s else
  .next (s.modGw fun g => { g with
    eq := g.eq + ageStep temp.toInt, secs := g.secs + 60
    tMax := if (upTo 4).any fun j => s.domOn (pdQ j) then max g.tMax temp.toInt else g.tMax })

/-- The claim of the G6 slot is made again (R636). -/
def execG6ClaimRetry (s : State) : Host.Outcome State Fault Refusal := .next s.g6Sync

/-! ## Wear and forecast commands -/

/-- The two words of a report entry (R655). -/
def State.healthWords (s : State) (i : Nat) : List W128 :=
  let x := s.gwi i
  let g := gwOf i
  let st := if x.n = 0 then 3 else if x.fin then 2 else if x.rp then 1 else 0
  [BitVec.ofNat 128 (fld 0 4 g.1 + fld 4 12 g.2 + fld 16 2 st + fld 18 2 x.fit + fld 20 8 x.replanN
      + fld 32 64 (toBits 64 x.val) + fld 96 32 x.n),
   BitVec.ofNat 128 (packB 32 x.dates)]

/-- GW_HEALTH (R655). -/
def State.opGwHealth (h : Hdr) (bd : Nat) (attention : Bool) (s : State) : State := match s.streamErr bd with
  | some e => s.reply h 0x0701 (.fail e)
  | none =>
    let l := (upTo 556).filter fun i => let x := s.gwi i; !attention || x.rp || x.soonRp || x.soonEnd
    s.openOut h 0x0701 bd
      (BitVec.ofNat 128 (dtfOf s.gw.dts + fld 96 16 l.length + fld 112 16 (min 65535 s.reserve)) :: l.flatMap s.healthWords)

def execGwHealth (h : Hdr) (bd : Fin 8) (attention : Bool) (s : State) : Host.Outcome State Fault Refusal :=
  .next (s.viaDoor h 0x0701 (·.opGwHealth h bd attention))

/-- GW_LOG_READ (R640): `n` records from sequence number `first` on. -/
def State.opGwLogRead (h : Hdr) (bd first n : Nat) (s : State) : State := match s.streamErr bd with
  | some e => s.reply h 0x0702 (.fail e)
  | none => s.openOut h 0x0702 bd
      (((s.ages.filter fun r => first ≤ r.1).take n).flatMap fun r => (r.1 :: r.2).map (BitVec.ofNat 128 ·))

def execGwLogRead (h : Hdr) (bd : Fin 8) (first : BitVec 32) (n : BitVec 16) (s : State) :
    Host.Outcome State Fault Refusal := .next (s.viaDoor h 0x0702 (·.opGwLogRead h bd first.toNat n.toNat))

/-- GW_RESTART (R643): the series start is the present powered hour. -/
def State.opGwRestart (h : Hdr) (g n : Nat) (s : State) : State := match gwIx g n with
  | some i => s.commit (some h) 0x0704 (s.gwStarts [i])
  | none => s.reply h 0x0704 (.fail .range)

def execGwRestart (h : Hdr) (g : Fin 16) (n : Fin 4096) (s : State) : Host.Outcome State Fault Refusal :=
  .next (s.viaDoor h 0x0704 (·.opGwRestart h g n))

/-- GW_REPLAN_RUN (R649): the action that waits for the host runs. -/
def State.opGwReplanRun (h : Hdr) (g n : Nat) (s : State) : State := match gwIx g n with
  | some i =>
    let x := s.gwi i
    if x.want = 0 then s.reply h 0x0705 (.fail .range)
    else ((s.modGwi i fun x => { x with want := 0 }).gwRun i x.want x.val).reply h 0x0705 .ok
  | none => s.reply h 0x0705 (.fail .range)

def execGwReplanRun (h : Hdr) (g : Fin 16) (n : Fin 4096) (s : State) : Host.Outcome State Fault Refusal :=
  .next (s.viaDoor h 0x0705 (·.opGwReplanRun h g n))

end Sys2Proof.Machine
end

