-- ==== Sys2Proof/Machine/TimescaleCmds.lean ====
section
/-!
DEFINITION. Commands and timer events of the device timescale (R109 to R133, R261, R276 to R278).
-/
namespace Sys2Proof.Machine

/-! ## Starting and stopping -/

/-- TS_START (R109, R111, R53): `mode` 0 IMMEDIATE, 1 PPSIN, 2 CASCADE; a PD_REF that is off or in reset answers ABSENT. -/
def State.opTsStart (h : Hdr) (mode : Fin 3) (v : BitVec 96) (s : State) : State :=
  if s.ts.st ≠ .stopped then s.reply h 0x0401 (.fail .tsRunning)
  else if !dtfOk v.toNat then s.reply h 0x0401 (.fail .range)
  else if !s.domOn pdRef then s.reply h 0x0401 (.fail .absent)
  else match mode.val with
  | 0 => (s.tsExecute (linOf v.toNat * 2 ^ 46) (linOf v.toNat)).reply h 0x0401 .ok
  | 1 => (s.modTs fun t => { t with armed := some (.pps (linOf v.toNat)) }).reply h 0x0401 .ok
  | _ => (s.modTs fun t => { t with armed := some .cascade }).reply h 0x0401 .ok

def execTsStart (h : Hdr) (mode : Fin 3) (v : BitVec 96) (s : State) : Host.Outcome State Fault Refusal :=
  .next (s.viaDoor h 0x0401 (·.opTsStart h mode v))

/-- TS_START_EXECUTE (R109 to R111, R113, R846): the qualifying PPSIN edge or cascade mark came `d` (2^-18 ns of SCLK time) ago; for
a CASCADE start the lead's DTS at its mark is `lead`. DESIGN CHOICE (log 81): TS_START_LATCH takes the counter value on the SCLK edge of the load,
not that at the stamped edge or mark. -/
def execTsStartExecute (lead : BitVec 96) (d : Nat) (s : State) : Host.Outcome State Fault Refusal :=
  if s.ts.st ≠ .stopped ∨ !s.domOn pdRef then .next s else
  let run (v : Int) : State :=
    let x := (v * 2 ^ 46 + roundDiv ((d : Int) * (2 ^ 64 + s.pi P.tsRateFixed + s.ref.corr)) (2 ^ 18)) % (dtsMod : Int)
    s.tsExecute x.toNat (readDts x.toNat)
  match s.ts.armed with
  | some (.pps v) => .next (run (v + s.pi P.ppsDelay))
  | some .ppsAuto => .next (run (linOf (s.pv P.tsStartVal) + s.pi P.ppsDelay))
  | some .cascade => .next (run (linOf lead.toNat + s.cas.half.getD 0))
  | none => .next s

/-- TS_STOP (R112): only in SURVEY. -/
def State.opTsStop (h : Hdr) (s : State) : State :=
  if s.pwr.mode = .survey then s.tsStop.reply h 0x0402 .ok else s.reply h 0x0402 (.fail .mode)

def execTsStop (h : Hdr) (s : State) : Host.Outcome State Fault Refusal := .next (s.viaDoor h 0x0402 (·.opTsStop h))

/-! ## Requests -/

/-- The residual that a timescale request of `d` would leave passes TS_RES_MAX (R261, R262). -/
def State.tsRange (s : State) (d : Int) : Bool := s.pi P.tsResMax < ((s.ts.trav.res + d).natAbs : Int)

/-- A pending NOTIFY of the timescale is posted once RES is zero (R266). -/
def State.tsDone (s : State) : State :=
  if s.ts.trav.isDone then slewDone 0xFFFF s.ts.trav (s.modTsTrav fun t => { t with notify := 0 }) else s

/-- TS_SET_OFFSET (R121 to R123, R126, R127): in COASTING, and while STOPPED, O is stored without a slew. -/
def State.opTsSetOffset (h : Hdr) (o : Int) (s : State) : State :=
  let d := o - s.ts.o
  if !tivOk o then s.reply h 0x0403 (.fail .badarg)
  else if s.ts.role ≠ .bnd then s.reply h 0x0403 (.fail .mode)
  else if s.pi P.tsOfsStepMax < (d.natAbs : Int) ∧ !h.force then s.reply h 0x0403 (.fail .ofsStep)
  else if s.ts.st = .coasting ∨ s.ts.st = .stopped then (s.modTs fun t => { t with o := o }).reply h 0x0403 .ok
  else if s.tsRange d then s.reply h 0x0403 (.fail .resRange)
  else
    let s := s.modTs fun t => { t with o := o, trav := t.trav.request d false }
    (s.reply h 0x0403 .ok).tsDone

def execTsSetOffset (h : Hdr) (o : Int) (s : State) : Host.Outcome State Fault Refusal :=
  .next (s.viaDoor h 0x0403 (·.opTsSetOffset h o))

/-- TS_ADJUST (R258, R261, R264, R266): only in FREE. -/
def State.opTsAdjust (h : Hdr) (d : Int) (s : State) : State :=
  if !tivOk d then s.reply h 0x0404 (.fail .badarg)
  else if s.ts.st ≠ .free then s.reply h 0x0404 (.fail .tsServo)
  else if s.tsRange d then s.reply h 0x0404 (.fail .resRange)
  else
    let s := s.modTsTrav (·.request d h.notify)
    (s.reply h 0x0404 (.res s.ts.trav.reqN)).tsDone

def execTsAdjust (h : Hdr) (d : Int) (s : State) : Host.Outcome State Fault Refusal :=
  .next (s.viaDoor h 0x0404 (·.opTsAdjust h d))

/-- TS_HOLD (R124): a LOCKED timescale coasts as host-forced. -/
def State.opTsHold (h : Hdr) (s : State) : State :=
  if s.ts.st = .locked then (s.tsCoast false true).reply h 0x0405 .ok else s.reply h 0x0405 (.fail .mode)

def execTsHold (h : Hdr) (s : State) : Host.Outcome State Fault Refusal := .next (s.viaDoor h 0x0405 (·.opTsHold h))

/-- TS_RELEASE (R124). -/
def State.opTsRelease (h : Hdr) (s : State) : State :=
  if s.ts.st = .coasting then (s.modTs fun t => { t with forced := false }).reply h 0x0406 .ok
  else s.reply h 0x0406 (.fail .mode)

def execTsRelease (h : Hdr) (s : State) : Host.Outcome State Fault Refusal := .next (s.viaDoor h 0x0406 (·.opTsRelease h))

/-! ## Upstream and role -/

/-- BND_CH has been silent for UP_LOSS_T; where no record stands since the last loss, the event's own word is taken (R125). -/
def State.bndSilent (s : State) : Bool := match s.ts.bndLast with
  | some (t, _) => s.pi P.upLossT ≤ stampDiff s.now t
  | none => true

/-- UP_LOSS_T (R125, R463, R898): silence of BND_CH, a loss of the upstream in boundary role, and in any role the end of the run of records
that R898 counts; or of complete sets in follower role. -/
def execUpLossT (s : State) : Host.Outcome State Fault Refusal :=
  let s' := if s.bndSilent then s.modTs fun t => { t with bndRun := 0, bndLast := none } else s
  match s.ts.role with
  | .gm => .next s'
  | .bnd => if s.bndSilent then .next (s'.tsUpLost false) else .next s
  | .fol => .next (s'.tsUpLost false)

/-- HO_QUAL (R124, R278, R898). -/
def execHoQual (s : State) : Host.Outcome State Fault Refusal :=
  if s.ts.st = .coasting ∧ s.upQual ∧ !s.ts.forced then .next s.tsResume else .next s

/-- A role takes effect (R41, R124, R277, R891, R894, R898). In grandmaster role a base term that no PPSIN has set is TS_RATE_FIXED (R116). -/
def State.tsRoleNow (r : Role) (s : State) : State :=
  let s := (s.modTs fun t => { t with role := r, rolePend := none, srv := { t.srv with seqLast := none, cyc := none, mark := none } }).tsCoefs
  let s := if r = .gm ∧ !s.pps.ever ∧ (s.ts.st = .free ∨ s.ts.st = .acquiring ∨ s.ts.st = .locked) then
    ((s.tsAdvance s.ts.dts).modTsSrv fun v => { v with base := s.pi P.tsRateFixed }).tsCompose else s
  match s.ts.st with
  | .stopped | .coasting => s
  | _ => if s.upQual then s.tsAcquire else (s.modTs fun t => { t with st := .free }).g6Sync

/-- A cascade role takes effect: the link starts anew, and PD_CAS is powered unless the role is OFF (R475, R844, R849). -/
def State.casRoleNow (r : Nat) (s : State) : State :=
  let s := s.modCas fun c => { CasS.init with role := r, txSeq := c.txSeq }
  if r = 0 then (s.setPwr pdCas false).setIso pdCas false
  else if s.pwr.pwr.testBit pdCas ∨ !(s.pwr.rail.testBit 1 && s.pwr.rail.testBit 2) then s
  else ((s.setPwr pdCas true).setIso pdCas false).modDevq fun q => { q with xCas := { q.xCas with resync := true } }

/-- ROLE_CHANGE (R41, R849): a DTS second mark at which a pending TS_ROLE or CAS_ROLE takes effect. -/
def execRoleChange (s : State) : Host.Outcome State Fault Refusal :=
  let s := match s.cas.rolePend with
    | some r => s.casRoleNow r
    | none => s
  match s.ts.rolePend with
  | some r => .next (s.tsRoleNow r)
  | none => .next s

/-! ## Holdover prediction -/

/-- The drift and its uncertainty that an update writes: with HO_MODEL = LONG those of the G6 fit, where it is the surer one (R647). -/
def State.driftFit (s : State) (d : Int) (sd : Nat) : Int × Nat := match (if s.pv P.hoModel = 1 then s.g6Slope else none) with
  | some (d', sd') => if sd' < sd then (d', sd') else (d, sd)
  | none => (d, sd)

/-- HO_PREDICTOR_UPDATE (R128, R129, R647): the fit's a, d, their uncertainties, and the span in seconds that it covers. DESIGN CHOICE (log 81): the
validity of d is decided here, so a later write of HO_FIT_MIN acts at the next update. -/
def execHoPredictorUpdate (a d : Int) (sa sd cover : Nat) (s : State) : Host.Outcome State Fault Refusal :=
  if s.ts.st = .stopped then .next s
  else
    let x := s.driftFit d sd
    .next (s.modTs fun t => { t with hoA := a, hoD := x.1, sigA := sa, sigD := x.2, dValid := s.pv P.hoFitMin ≤ cover })

/-- U(t) of R132 in 2^-18 ns, `t` in 2^-18 ns. -/
def hoBoundOf (sa sd t : Nat) : Int :=
  roundDiv ((2 * sa * t * 2 ^ 16 * secU + sd * t * t : Nat)) (2 ^ 80 * secU)

/-- HO_BOUND (R132): in COASTING the bound U(t) is posted every 60 s, t the time since entry. -/
def execHoBound (s : State) : Host.Outcome State Fault Refusal :=
  let t := (s.now + linMod - s.ts.tEntry) % linMod
  if s.ts.st ≠ .coasting ∨ t < 60 * secU * (s.ts.boundN + 1) then .next s else
  let u := hoBoundOf s.ts.sigA s.ts.sigD t
  .next ((s.modTs fun x => { x with u := u, boundN := x.boundN + 1 }).post ⟨0x8401, tivWord u, (roundDiv t secU).toNat, 0⟩)

end Sys2Proof.Machine
end

