-- ==== Sys2Proof/Machine/ParamCmds.lean ====
section
/-!
DEFINITION. Parameters and lasts: reading, checking and writing them, and what a write causes (R786 to R795 and the rules that R790 names).
-/
namespace Sys2Proof.Machine

/-! ## Items -/

/-- The row of a configuration item, with its channel in range (R786, R610). -/
def itemRow (x : Item) : Option PDef := pFind x.id.toNat
/-- The item names a device parameter by channel 0xFFF, or a channel parameter by a channel index. -/
def itemPlaced (x : Item) (perCh : Bool) : Bool := if perCh then x.ch.toNat < 264 else x.ch.toNat = 0xFFF
/-- Identifiers that carry a DTF, in two words of a message (R788). -/
def dtfId (id : Nat) : Bool := id = P.tsStartVal || (P.rgStart ≤ id && id < P.rgStart + 128 && (id - P.rgStart) % 8 = 0)
/-- First identifier of the row that defines `id`: what the rules go by. -/
def kindOf (id : Nat) : Nat := ((pFind id).map (·.id)).getD 0
/-- Instance of a device parameter. -/
def instOf (id : Nat) : Nat := match pFind id with
  | some d => (id - d.id) / d.step
  | none => 0

/-- Status identifiers (R786): per channel, or of the device. -/
def isChStatus (id : Nat) : Bool := 0x1800 ≤ id && id ≤ 0x18A6
def State.statusOf (s : State) (x : Item) : Option Nat :=
  if isChStatus x.id.toNat then s.chStatus x.ch.toNat x.id.toNat else s.devStatus x.id.toNat

/-- Value of an item, or what refuses it. -/
def State.itemVal (s : State) (x : Item) : Except Err Nat := match itemRow x with
  | some d => if !itemPlaced x d.perCh then .error .badarg else .ok (if d.perCh then s.cp x.ch.toNat x.id.toNat else s.pv x.id.toNat)
  | none => match s.statusOf x with
    | some v => if itemPlaced x (isChStatus x.id.toNat) then .ok v else .error .badarg
    | none => .error .badparam

/-- The words of an item with value `v` in a message (R788). -/
def itemWords (x : Item) (v : Nat) : List Nat :=
  (fld 0 16 x.id.toNat + fld 16 12 x.ch.toNat + fld 64 64 v) :: (if dtfId x.id.toNat then [bits v 64 32] else [])

/-- PARAM_RD (R788). -/
def State.readItems (s : State) : Nat → List Item → Except Rep (List Nat)
  | _, [] => .ok []
  | i, x :: l => match s.itemVal x with
    | .error e => .error ⟨e, i, x.id.toNat, 0, []⟩
    | .ok v => match s.readItems (i + 1) l with
      | .error r => .error r
      | .ok ws => .ok (itemWords x v ++ ws)

def State.opParamRd (h : Hdr) (l : List Item) (s : State) : State := match s.readItems 0 l with
  | .error r => s.reply h 0x0201 r
  | .ok ws => if 15 < ws.length then s.reply h 0x0201 (.fail .badarg) else s.reply h 0x0201 { Rep.ok with words := ws }

def execParamRd (h : Hdr) (l : List Item) (s : State) : Host.Outcome State Fault Refusal := .next (s.viaDoor h 0x0201 (·.opParamRd h l))

/-! ## Checks (R789, R790) -/

/-- A write as it is checked: identifier, channel index or none, and the value; none returns a device parameter to its reset value. -/
structure PWrite where
  id : Nat
  ch : Option Nat
  val : Option Nat
deriving DecidableEq, Repr

def PWrite.value (w : PWrite) : Nat := w.val.getD (pReset w.id)
/-- The writes as a change. -/
def changeOf (l : List PWrite) : Change :=
  .params (l.filterMap fun w => if w.ch.isSome then none else some (w.id, w.val))
    (l.filterMap fun w => w.ch.map fun c => (ownKey c w.id, w.value))
/-- The parameters after a change. -/
def State.withChange (c : Change) (s : State) : State := StoreReq.load ⟨none, 0, c, 0, [], 0, 0⟩ s

/-- Comb of octant `k` under its feedback parameters. -/
def State.combPar (s : State) (k : Nat) : Nat := combOf (s.pv (P.mlNi + 16 * k)) (s.pv (P.mlNf + 16 * k))
/-- The update rate that bounds SERVO_BW of channel `c`, as a quotient; none where it has no bound yet (R407). -/
def State.servoRate (s : State) (c : Nat) : Option (Nat × Nat) :=
  if s.cp c P.servoIn = 1 then
    let f := s.cp c (P.hopFreq0 + (s.chan c).div.act)
    if f = 0 then none else some (f, s.cp c P.rxDecim)
  else some (s.cp c P.updRate, 1)
/-- R407 holds for channel `c`. -/
def State.servoOk (s : State) (c : Nat) : Bool := match s.servoRate c with
  | some (f, d) =>
    s.cp c P.servoBw * 10 * d ≤ f && (s.cp c P.servoIn = 0 || (1000 * 2 ^ 24 * d ≤ f && f ≤ 4000000 * 2 ^ 24 * d))
  | none => true

/-- Post-divider of the slot in force of channel `c`: that of its frequency in IDLE, else the one in force (R213, R214). -/
def State.kForce (s : State) (c : Nat) : Nat :=
  let d := (s.chan c).div
  if (s.chan c).st = .idle then ((planFreq (s.combPar (octOf c)) (s.cp c (P.hopFreq0 + d.act))).map (·.1)).getD d.k else d.k

/-- What refuses a hop frequency (R199, R214, R250, R532), the parameters as the whole set leaves them. -/
def State.hopErr (s : State) (c i f : Nat) : Option Rep :=
  let d := (s.chan c).div
  let o := s.oct (octOf c)
  if f = 0 then (if i = d.act then some (.named .fcw i) else none)
  else if s.cp c P.fmax < f then some (.named .fmax i)
  else match planFreq (s.combPar (octOf c)) f with
    | none => some (.named .fcw i)
    | some (k, _) =>
      if i = d.act ∧ (s.chan c).st ≠ .idle ∧ k ≠ d.k then some (.named .fcwK i)
      else if o.loop.comb.isSome ∧ !o.xFcw.present then some (.named .absent i)
      else none

/-- Engines of octant `k` not retired. -/
def State.liveN (s : State) (k : Nat) : Nat := ((upTo 4).filter fun j => !(s.eng (4 * k + j)).retired).length

/-- The range and the cross-rules of one write (R789 order 4), `s` with the whole set in place. -/
def State.crossErr (s : State) (w : PWrite) : Option Rep :=
  let v := w.value
  let c := w.ch.getD 0
  let i := instOf w.id
  let range (b : Bool) : Option Rep := if b then none else some (.named .range w.id)
  let k := kindOf w.id
  if k = P.refFreq ∨ k = P.refMonDecim then range (s.pv P.refFreq ≤ 4000000 * 2 ^ 24 * s.pv P.refMonDecim)
  else if k = P.mlLkwin ∨ k = P.mlLosswin then range (s.pv (P.mlLkwin + 16 * i) ≤ s.pv (P.mlLosswin + 16 * i))
  else if k = P.mlTuneWarn then range (s.pv P.gratUse < v)
  else if k = P.gratUse then range ((upTo 8).all fun l => v < s.pv (P.mlTuneWarn + 16 * l))
  else if k = P.gwRp1 then range (v < s.pv P.gratUse)
  else if k = P.fmax then
    ((upTo 4).find? fun j => ((s.chan c).div.slot j).valid ∧ v < s.cp c (P.hopFreq0 + j)).map (Rep.named .fmax ·)
  else if P.hopFreq0 ≤ k ∧ k ≤ P.hopFreq3 then s.hopErr c (k - P.hopFreq0) v
  else if k = P.mrkWidth ∨ k = P.mrkDiv then range (s.cp c P.mrkWidth < s.cp c P.mrkDiv)
  else if k = P.lkwin ∨ k = P.outGateRx ∨ k = P.outGateTxm then
    range (s.ci c P.lkwin < s.ci c (if s.cp c P.servoIn = 1 then P.outGateRx else P.outGateTxm))
  else if k = P.servoIn then
    range (s.ci c P.lkwin < s.ci c (if v = 1 then P.outGateRx else P.outGateTxm) ∧ s.servoOk c)
  else if k = P.servoBw ∨ k = P.rxDecim then range (s.servoOk c)
  else if k = P.updRate then range (s.servoOk c ∧ v ≤ 1000000 * 2 ^ 24 * max 1 (s.liveN (octOf c)))
  else if k = P.tsRateFixed ∨ k = P.tsRateMax then range (((s.pi P.tsRateFixed).natAbs : Int) ≤ s.pi P.tsRateMax)
  else if k = P.hoFitMin ∨ k = P.hoFitSpan then range (s.pv P.hoFitMin ≤ s.pv P.hoFitSpan)
  else if k = P.tsBw then range (w.val.isNone ∨ v * 10 * s.upT.1 ≤ s.upT.2 * 2 ^ 24)
  else if k = P.bndFreq then (if v % 2 ^ 24 = 0 then none else some (.named .bndFreq w.id))
  else if k = P.tsRole ∨ k = P.casRole then range (s.pv P.tsRole ≠ 2 ∨ s.pv P.casRole = 2)
  else if k = P.ivMode ∨ k = P.ivStart ∨ k = P.ivStop then range (s.ivMode i ≠ 2 ∨ s.ivStart i ≠ s.ivStop i)
  else if k = P.rgMode then range (v = 0 ∨ s.rgFnom i ≠ 0)
  else if k = P.extMode then range (v = 0 ∨ s.pv P.extGain ≠ 0)
  else if k = P.dsWinBase then range (v < (if s.mem.usable then s.mem.sectors else 8192))
  else if k = P.chAutostart then (if c < 256 then none else some (.named .badarg w.id))
  else none

/-- The holder of the MRKn pin of channel `c` against MRK_MODE: a Benchmark loopback of the marker path, a marker test (R50, R235, R466). -/
def State.mrkHolder (s : State) (c : Nat) : Option Nat :=
  if s.cal.bench.any fun b => b.paths.any fun p => p.ch = c ∧ p.path = 3 then
    some (holderOf 3 ((s.cal.bench.map fun b => b.h.door.val).getD 0))
  else if s.tests.any fun r => r.kind = 1 ∧ r.unit = c then some (holderOf 5 c) else none

/-- MODE and CONFLICT of one write (R789 order 5; R87, R235, R241, R347, R350, R372, R437, R476, R586, R849). -/
def State.modeErr (s : State) (w : PWrite) : Option Rep :=
  let c := w.ch.getD 0
  let m := s.pwr.mode
  let mode (b : Bool) : Option Rep := if b then none else some (.named .mode w.id)
  let k := kindOf w.id
  let i := instOf w.id
  if k = P.refFreq ∨ k = P.casRole then mode (m = .stowed ∨ m = .survey)
  else if k = P.quadEn then mode (m = .stowed)
  else if k = P.drvInv ∨ k = P.servoIn then mode ((s.chan c).st = .idle)
  else if k = P.mrkMode then (s.mrkHolder c).map fun x => ⟨.conflict, x, w.id, 0, []⟩
  else if k = P.calMode ∨ k = P.calFreq then s.cal.bench.map fun b => ⟨.conflict, holderOf 3 b.h.door, w.id, 0, []⟩
  else if P.rgSrc ≤ k ∧ k ≤ P.rgNmin then
    if (s.rgSlot i).prio = 0 ∨ (s.rgSlot i).internal then some ⟨.conflict, s.rgHolder i, w.id, 0, []⟩
    else if k = P.rgMode ∧ w.value ≠ 0 ∧ s.ts.st = .stopped then some (.named .tsStopped w.id)
    else if k = P.rgMode ∧ w.value = 1 ∧ s.rgStart i < s.now + 2 * us1 then some (.named .past w.id)
    else none
  else none

/-- The first failing write of a list under `f`; a reply without a holder carries the item's index as DETAIL (R789). -/
def firstErr (f : PWrite → Option Rep) : Nat → List PWrite → Option Rep
  | _, [] => none
  | i, w :: l => match f w with
    | some r => some (if r.err = .conflict then r else { r with detail := i })
    | none => firstErr f (i + 1) l

/-- The checks of R789 in order on writes that name configuration parameters. DESIGN CHOICE (log 81): pairs of parameters (R893) are checked
against the values in force, not against an accepted write that still waits for its commit. -/
def State.writeErr (s : State) (door : Nat) (l : List PWrite) : Option Rep :=
  let t := s.withChange (changeOf l)
  let at1 (b : Bool) (e : Err) (w : PWrite) : Option Rep := if b then some (.named e w.id) else none
  let row (w : PWrite) (f : PDef → Bool) : Bool := (pFind w.id).any f
  (firstErr (fun w => at1 (row w (·.readOnly)) .readonly w) 0 l).orElse fun _ =>
  (firstErr (fun w => at1 (row w (·.guarded) && door ≠ 7) .guarded w) 0 l).orElse fun _ =>
  (firstErr (fun w => at1 (!row w (·.ty.ok w.value) && w.val.isSome) .range w) 0 l).orElse fun _ =>
  (firstErr t.crossErr 0 l).orElse fun _ => firstErr t.modeErr 0 l

/-! ## What a write causes -/

/-- The indices that act under the parameters of channel `c`: itself, and a welt that acts for it (R218, R280). -/
def State.actors (s : State) (c : Nat) : List Nat := if s.userOf (weltOf (octOf c)) = c ∧ c < 256 then [c, weltOf (octOf c)] else [c]

/-- Slot `i` of channel `c` is loaded through the FCW queue; in IDLE a change of the slot in force reloads all four (R214, R219). -/
def State.loadSlot (c i : Nat) (s : State) : State :=
  if (s.oct (octOf c)).loop.comb.isNone then s else
  forAll (s.actors c) (fun j s =>
    let d := (s.chan j).div
    let idle : Bool := (s.chan j).st = .idle
    let k := if idle then ((planFreq (s.oct (octOf c)).loop.combF (s.up j (P.hopFreq0 + d.act))).map (·.1)).getD d.k else d.k
    forAll (if k ≠ d.k then upTo 4 else [i]) (fun n s => s.writeFcw (octOf c) cobLane (.load j n (s.composeSlot j n k))) s) s

/-- New coefficients reach the entry as one parameter update job (R406); with the array out of power they are loaded at WAKE. -/
def State.sendCoefs (c : Nat) (s : State) : State :=
  if !s.domOn pdEng then s else
  forAll (s.actors c) (fun j s =>
    let k := s.coefsFor j
    s.request j (.coef k.2.1 k.2.2.1 k.2.2.2 k.1 (s.up j P.i2En = 1))) s

/-- Configuration fields that change only in IDLE, or that no job carries. -/
def State.sendConfig (c : Nat) (s : State) : State :=
  if !s.domOn pdEng then s else
  forAll (s.actors c) (fun j s =>
    let idle : Bool := (s.chan j).st = .idle
    s.modChan j fun x => { x with
      servoRx := if idle then s.up j P.servoIn = 1 else x.servoRx
      srv := { x.srv with dec := s.decServo j, tCmd := if idle then tCmdOf (s.freqOf j) else x.srv.tCmd } }) s

/-- Decimation of source `i` (0 RX, 2 TXM) of channel `c` restarts (R304). -/
def State.restartDec (c i : Nat) (s : State) : State :=
  forAll (s.actors c) (fun j s => s.modSrc (4 * j + i) fun x => { x with dec := 0 }) s

/-- What a write of a channel template causes (R177, R219, R304, R406). -/
def State.chEffect (c id : Nat) (s : State) : State :=
  if id = P.bypSrc ∨ id = P.bypDiv then
    let s := s.bypSelect c
    match (s.chan c).goal with
    | .bypass .. | .stop => s.switchTo c (s.bypSrc c)
    | _ => s
  else if P.hopFreq0 ≤ id ∧ id ≤ P.hopFreq3 then
    let s := (s.loadSlot c (id - P.hopFreq0)).sendConfig c
    if s.cp c P.servoIn = 1 then s.sendCoefs c else s
  else if id = P.servoBw ∨ id = P.servoDamp ∨ id = P.updRate ∨ id = P.i2En then (s.sendConfig c).sendCoefs c
  else if id = P.servoIn then (s.sendConfig c).sendCoefs c
  else if id = P.rxDecim then
    let s := (s.restartDec c 0).sendConfig c
    let s := if s.cp c P.servoIn = 1 then s.sendCoefs c else s
    if s.ts.role = .bnd ∧ c = s.pv P.bndCh then s.tsCoefs else s
  else if id = P.txmDecim then (s.restartDec c 2).sendConfig c
  else if id = P.rxMode then s.restartDec c 0
  else if id = P.mrkMode then s.modChan c fun x => { x with pulse := [] }
  else s

/-- A new nomination (R117, R118): its cycles are counted anew, and those of another channel qualify anew. R125 does not list a write among the
losses, so the timescale stays in its state (DEDUCED, log 81). -/
def State.bndAnew (ch : Bool) (s : State) : State :=
  let s := if ch then s.modTs fun t => { t with bndRun := 0, bndLast := none } else s
  if s.ts.role ≠ .bnd then s else
  (s.modTs fun t => { t with srv := { t.srv with seqLast := if ch then none else t.srv.seqLast, cyc := none, mark := none } }).tsCoefs

/-- A host latch takes its source (R758). -/
def State.latchSrc (i : Nat) (s : State) : State := s.setLatch (8 + i) (BitVec.ofNat 128 (fld 20 12 (s.pv (P.latchSrc + i))))

/-- What a write of a device parameter causes (R41, R88, R89, R105, R117, R304, R758, R849, R894). A REF_FREQ
accepted in SURVEY whose commit stands after the device has left SURVEY waits for the next WAKE step 2, and REF_BW keeps the integrator (DESIGN
CHOICE, log 81: the mode is tested at the commit). -/
def State.devEffect (id : Nat) (s : State) : State :=
  let k := kindOf id
  if k = P.latchSrc then s.latchSrc (instOf id)
  else if k = P.refFreq then (if s.pwr.mode = .survey ∧ s.domOn pdRef then s.refPlanned else s)
  else if k = P.tsRole then
    let r : Role := match s.pv P.tsRole with
      | 0 => .gm
      | 1 => .bnd
      | _ => .fol
    if s.ts.st = .stopped then s.tsRoleNow r else s.modTs fun t => { t with rolePend := if t.role = r then none else some r }
  else if k = P.casRole then
    if s.pwr.mode = .stowed then s
    else if s.ts.st = .stopped then s.casRoleNow (s.pv P.casRole)
    else s.modCas fun c => { c with rolePend := some (s.pv P.casRole) }
  else if k = P.tsRateFixed then
    if s.ts.st = .free ∨ (s.ts.st = .acquiring ∧ s.ts.role = .gm ∧ !s.pps.ever) then
      ((s.tsAdvance s.ts.dts).modTsSrv fun v => { v with base := s.pi P.tsRateFixed, i1 := s.pi P.tsRateFixed }).tsCompose
    else s
  else if k = P.tsBw then s.tsCoefs
  else if k = P.bndCh ∨ k = P.bndFreq ∨ k = P.bndAnchor then s.bndAnew (k = P.bndCh)
  else if k = P.refBw then s.modRef fun r => { r with bw := s.pv P.refBw }
  else if k = P.refMonDecim then s.modSrc 0x802 fun x => { x with dec := 0 }
  else if k = P.calDecim then s.modSrc 0x801 fun x => { x with dec := 0 }
  else s

/-- Slots or pairs of which a write names a parameter. -/
def touched (lo hi : Nat) (ids : List Nat) : List Nat :=
  (upTo 16).filter fun i => ids.any fun id => lo ≤ kindOf id ∧ kindOf id ≤ hi ∧ instOf id = i

/-- What a set of writes causes, its values in place (R319, R374, R789). -/
def State.paramEffects (dev : List Nat) (own : List (Nat × Nat)) (s : State) : State :=
  let s := forAll dev (fun id s => s.devEffect id) s
  let s := forAll (touched P.ivMode P.ivTimeoutT dev) (fun p s => s.ivConfig p) s
  let s := forAll (touched P.rgSrc P.rgNmin dev) (fun i s => s.rgConfig i (dev.contains (P.rgMode + 8 * i)) (dev.contains (P.rgSrc + 8 * i))) s
  forAll own (fun e s => s.chEffect e.1 e.2) s

/-- The templates that a last can carry. -/
def lastable : List Nat := (pCh.filter fun d => !d.readOnly).map (·.id)

/-- Channel templates whose value for channel `c` differs between two states. -/
def State.changed (old s : State) (c : Nat) : List Nat := lastable.filter fun id => s.cp c id ≠ old.cp c id

/-- The write of a template's change to the engine or the divider finds its queue absent (R532). -/
def State.noQueue (s : State) (e : Nat × Nat) : Bool :=
  let o := s.oct (octOf e.1)
  let servo : Bool := e.2 = P.servoBw ∨ e.2 = P.servoDamp ∨ e.2 = P.updRate ∨ e.2 = P.i2En ∨ e.2 = P.servoIn
  (servo && s.domOn pdEng && !o.xReq.present) || (decide (P.hopFreq0 ≤ e.2 ∧ e.2 ≤ P.hopFreq3) && o.loop.comb.isSome && !o.xFcw.present)

/-- The reply to templates written: ABSENT where a change does not reach its unit (R532), FCW_K where slots not in force are left without VALID for
want of the same k (R214). -/
def State.fcwWarn (s : State) (own : List (Nat × Nat)) : Rep :=
  let bad (e : Nat × Nat) : Bool :=
    P.hopFreq0 ≤ e.2 && e.2 ≤ P.hopFreq3 && e.2 - P.hopFreq0 ≠ (s.chan e.1).div.act &&
      (planFreq (s.combPar (octOf e.1)) (s.cp e.1 e.2)).any fun p => p.1 ≠ s.kForce e.1
  if own.any s.noQueue then .fail .absent else match own.find? bad with
  | some e => .named .fcwK (e.2 - P.hopFreq0)
  | none => .ok

/-- A change of parameters takes effect with its values: gates that a slot's new configuration ends are flushed first. -/
def State.applyParams (c : Change) (s : State) : State := match c with
  | .params dev own =>
    let s := forAll (touched P.rgSrc P.rgNmin (dev.map (·.1))) (fun i s => s.rgFlush i) s
    (s.withChange c).paramEffects (dev.map (·.1)) (own.map fun e => (e.1 / 65536, e.1 % 65536))
  | _ => s
/-- The channels c0 to c1. -/
def chanRange (c0 c1 : Nat) : List Nat := (upTo (c1 + 1 - c0)).map (c0 + ·)

/-- The reply to a change of parameters that has taken effect on `old`: a set, or the last that channels c0 to c1 have taken (R214). -/
def State.paramRep (old : State) (c : Change) (s : State) : Rep := match c with
  | .params _ own => s.fcwWarn (own.map fun e => (e.1 / 65536, e.1 % 65536))
  | .lastApply _ c0 c1 => s.fcwWarn ((chanRange c0 c1).flatMap fun c => (State.changed old s c).map fun id => (c, id))
  | _ => .ok

/-- Checked writes are committed where one persists, else take effect at once (R789). -/
def State.doWrite (h : Hdr) (cmd : Nat) (l : List PWrite) (s : State) : State := match s.writeErr h.door l with
  | some r => s.reply h cmd r
  | none =>
    let c := changeOf l
    if l.any fun w => (pFind w.id).any (·.persists) then s.commit (some h) cmd c
    else let t := s.applyParams c; t.reply h cmd (State.paramRep s c t)

/-- The items as writes, or BADPARAM, READONLY of a status identifier, BADARG (R789). -/
def State.itemErr (s : State) : Nat → List Item → Option Rep
  | _, [] => none
  | i, x :: l => match itemRow x with
    | some d => if itemPlaced x d.perCh then s.itemErr (i + 1) l else some ⟨.badarg, i, x.id.toNat, 0, []⟩
    | none => match s.statusOf x with
      | some _ => some ⟨.readonly, i, x.id.toNat, 0, []⟩
      | none => some ⟨.badparam, i, x.id.toNat, 0, []⟩
def itemWrite (dflt : Bool) (x : Item) : PWrite :=
  let c := if ((itemRow x).map (·.perCh)).getD false then some x.ch.toNat else none
  ⟨x.id.toNat, c, if dflt then c.map fun _ => pReset x.id.toNat else some x.val.toNat⟩

/-- An undefined identifier refuses a set before a status identifier does (R789 orders 1 and 2). -/
def State.badparam (s : State) : Nat → List Item → Option Rep
  | _, [] => none
  | i, x :: l => if (itemRow x).isNone ∧ (s.statusOf x).isNone then some ⟨.badparam, i, x.id.toNat, 0, []⟩ else s.badparam (i + 1) l

def State.opParamWr (h : Hdr) (cmd : Nat) (dflt : Bool) (l : List Item) (s : State) : State :=
  match (s.badparam 0 l).orElse fun _ => s.itemErr 0 l with
  | some r => s.reply h cmd r
  | none => s.doWrite h cmd (l.map (itemWrite dflt))

/-- PARAM_WR (R789). -/
def execParamWr (h : Hdr) (l : List Item) (s : State) : Host.Outcome State Fault Refusal :=
  .next (s.viaDoor h 0x0202 (·.opParamWr h 0x0202 false l))

/-- PARAM_DEFAULT (R789, R790): each parameter returns to its reset value. -/
def execParamDefault (h : Hdr) (l : List Item) (s : State) : Host.Outcome State Fault Refusal :=
  .next (s.viaDoor h 0x0203 (·.opParamWr h 0x0203 true l))

/-! ## Lasts (R791 to R795) -/

/-- What LAST_SAVE stores for channel `c`. -/
def State.lastFor (s : State) (c : Nat) : Tab Nat := (lastable.filter fun id => s.cp c id ≠ pReset id).map fun id => (id, s.cp c id)
/-- The lowest channel that names last `n`. -/
def State.lastUser (s : State) (n : Nat) : Option Nat := (upTo 264).find? fun c => (s.par.own.get 0xFF (ownKey c P.chLast)) = n

/-- LAST_SAVE (R793, R795). -/
def State.opLastSave (h : Hdr) (n c : Nat) (s : State) : State :=
  match s.lastUser n with
  | some d => s.reply h 0x0204 (.named .busy d)
  | none =>
    let l := s.lastFor c
    if (look l P.fmax).isSome ∧ h.door ≠ 7 then s.reply h 0x0204 (.fail .guarded)
    else s.commit (some h) 0x0204 (.last n (some l))

def execLastSave (h : Hdr) (n : Fin 64) (c : Ch) (s : State) : Host.Outcome State Fault Refusal :=
  .next (s.viaDoor h 0x0204 (·.opLastSave h n c))

/-- LAST_DELETE (R793). -/
def State.opLastDelete (h : Hdr) (n : Nat) (s : State) : State := match s.lastUser n with
  | some d => s.reply h 0x0206 (.named .busy d)
  | none => s.commit (some h) 0x0206 (.last n none)

def execLastDelete (h : Hdr) (n : Fin 64) (s : State) : Host.Outcome State Fault Refusal :=
  .next (s.viaDoor h 0x0206 (·.opLastDelete h n))

/-- Channel `c` takes a last: IDLE, or RETIRED with no welt standing in (R794). -/
def State.lastOk (s : State) (c : Nat) : Bool := (s.chan c).st = .idle || ((s.chan c).st = .retired && !s.hasWelt c)

/-- LAST_APPLY (R794, R795): the checks of R790 run per channel on the templates that change. -/
def State.opLastApply (h : Hdr) (n c0 c1 : Nat) (s : State) : State :=
  let cs := chanRange c0 c1
  let l : Tab Nat := if n = 0xFF then [] else (look s.par.lasts n).getD []
  if 63 < n ∧ n ≠ 0xFF then s.reply h 0x0205 (.fail .badarg)
  else if c1 < c0 then s.reply h 0x0205 (.fail .range)
  else match cs.find? fun c => !s.lastOk c with
  | some c => s.reply h 0x0205 (.named .mode c)
  | none =>
    if (look l P.fmax).isSome ∧ h.door ≠ 7 then s.reply h 0x0205 (.fail .guarded) else
    let t := s.withChange (.lastApply n c0 c1)
    let ws := cs.flatMap fun c => (State.changed s t c).map fun id => (⟨id, some c, some (t.cp c id)⟩ : PWrite)
    let auto := cs.find? fun c => 256 ≤ c ∧ (look l P.chAutostart).isSome
    match (auto.map fun c => Rep.named .badarg c).orElse fun _ =>
      (firstErr t.crossErr 0 ws).orElse fun _ => firstErr t.modeErr 0 ws with
    | some r => s.reply h 0x0205 r
    | none => s.commit (some h) 0x0205 (.lastApply n c0 c1)

def execLastApply (h : Hdr) (n : BitVec 8) (c0 c1 : Ch) (s : State) : Host.Outcome State Fault Refusal :=
  .next (s.viaDoor h 0x0205 (·.opLastApply h n.toNat c0 c1))

/-- Channels c0 to c1 take their new configuration (R792, R794), `ids` the templates whose value has changed. -/
def State.lastEffects (old : State) (c0 c1 : Nat) (s : State) : State :=
  forAll (chanRange c0 c1) (fun c s => forAll (State.changed old s c) (fun id s => s.chEffect c id) s) s

/-- LAST_LIST (R610): the words of the LASTS section. -/
def State.opLastList (h : Hdr) (bd : Nat) (s : State) : State := match s.streamErr bd with
  | some e => s.reply h 0x0207 (.fail e)
  | none =>
    let ws := s.par.lasts.flatMap fun e => s.item 2 e.1
    s.openOut h 0x0207 bd ((sectionWord 2 ws.length :: ws).map (BitVec.ofNat 128 ·))

def execLastList (h : Hdr) (bd : Fin 8) (s : State) : Host.Outcome State Fault Refusal := .next (s.viaDoor h 0x0207 (·.opLastList h bd))

end Sys2Proof.Machine
end

