-- ==== Sys2Proof/Machine/StoreCmds.lean ====
section
/-!
DEFINITION. The Datum store at work: stores that begin, stand or fail, erasing ahead, scrubbing, and the store's commands
(R587 to R632, R785).
-/
namespace Sys2Proof.Machine

/-! ## What a change does once its commit stands (R541, R601, R604) -/

/-- Instance whose action a change carries out of the device's own accord (R651). -/
def StoreReq.gwInst (r : StoreReq) : Option Nat :=
  if r.h.isSome then none else match r.cmd, r.ch with
  | 0x0705, .grat ((e, _) :: _) => some (e / 256)
  | 0x0705, .params ((id, _) :: _) _ => some (if id = P.hoModel then 553 else 545 + (id - P.mlLkwin) / 16)
  | _, .cal c => if c.kind = 0 ∧ c.parts = 4 then some (17 + c.unit) else none
  | _, _ => none

/-- The cores of a list keep the set that they had in `old` until their next event (R561). -/
def State.keepPrev (old : State) (is : List Nat) (s : State) : State :=
  forAll is (fun i s => if (s.core i).set = (old.core i).set then s else s.modCore i fun c => { c with old := some (c.old.getD (old.core i).set) }) s

/-- The retirement mirror is due a bit (R615). -/
def State.mirrorRow (kind unit : Nat) (clear : Bool) (s : State) : State :=
  if 3 < kind then s else s.modOtp fun o => { o with rows := o.rows ++ [(2, 2 * retKey kind unit + bit clear, none)] }

/-- The Graticule of loop `k` has changed (R157, R643): the plan is recomputed; after the device's own action a move of band is requested
(R647). -/
def State.gratChanged (own : Bool) (k : Nat) (s : State) : State :=
  let s := s.modGwi k fun x => { x with restart := true }
  if !s.domOn (pdQ (quadOf k)) then s else
  let s := s.replan k
  let l := (s.oct k).loop
  if own ∧ l.plan.head?.any (·.1 ≠ l.band) then s.replanReq k 2 (s.gwi k).val else s

/-- The corrections of a run stand: a welt run goes on to the switch of its return, any other run is DONE (R541, R542, R550). -/
def State.calStored (old : State) (r : CalRun) (s : State) : State :=
  let is := (r.sets.map (·.1) ++ r.trims.map (·.1)).eraseDups
  match s.cal.runs.find? (·.num = r.num) with
  | none => State.keepPrev old is s
  | some x => if x.kind = 0 then s.setRun { x with stored := false, part := 0 } else (State.keepPrev old is s).calEnd x false 0 s.store.gen

/-- A change takes effect; `old` is the state before its contents took their place. -/
def StoreReq.effect (r : StoreReq) (old s : State) : State := match r.ch with
  | .params dev own =>
    if r.cmd ≠ 0x0704 then s else
    forAll ((upTo 556).filter fun i => match gwKey i with
      | .inr id => dev.any (·.1 = id)
      | .inl k => own.any (·.1 = k)) (fun i s => s.modGwi i fun x => { x with restart := true }) s
  | .retune k ni nf => match r.h with
    | some h => s.retuneNow h k ni nf
    | none => s
  | .restore k _ _ => s.modLoop k fun l => { l with restore := false }
  | .epoch seed e => s.modArr fun a => { a with epoch := some (seed, e) }
  | .grat es => forAll ((es.map (·.1 / 256)).eraseDups) (fun k s => s.gratChanged (r.cmd = 0x0705) k) s
  | .retire kind unit fault => (s.retired kind unit fault).mirrorRow kind unit false
  | .clear kind unit => (s.cleared kind unit).mirrorRow kind unit true
  | .takeover c => ((s.modOct (octOf c) fun o => { o with welt := .standing c }).syncStanding (octOf c)).restartIn c
  | .dtc c t =>
    if s.domOn (pdQ (quadOf (octOf c))) ∧ (s.oct (octOf c)).loop.comb.isSome then
      s.modDiv c fun d => { d with dtc := (old.chan c).div.dtc, dtcNew := some t }
    else s
  | .tdc i .. => State.keepPrev old [i] s
  | .cal c => State.calStored old c s
  | .bench pay ofs _ chs =>
    let n := bits (pay.headD 0) 0 32
    let s := (State.keepPrev old (ofs.map (·.1)) s).modCal fun c => { c with due := (c.due ++ chs).eraseDups }
    if s.cal.bench.any (·.num = n) then s.benchEnd 0 s.store.gen else s
  | .age _ => s.modGw fun g => { g with seq := g.seq + 1 }
  | .boot .. =>
    if r.cmd ≠ 0x0803 then s else
    let s : State := { s with img := s.img.map fun i => { i with trial := false } }
    match s.img with
    | some i => if s.slotSt i.slot = 2 then s.raiseAr i.sv else s
    | none => s
  | .last .. | .lastApply .. | .copy .. | .image .. | .remap .. | .refresh | .first => s

/-- The reply to a command whose change stands: a retune answers at its lock (R184), or with its restoring commit (R185); a scan names the bands that it
discards (R154). -/
def StoreReq.rep (r : StoreReq) (p : Prog) (old s : State) : Option Rep := match r.ch with
  | .retune .. => none
  | .restore .. => some (.fail .nolock)
  | .grat _ => some ⟨.ok, 0, 0, r.res, r.ws⟩
  | .params .. | .lastApply .. => some (State.paramRep old r.ch s)
  | .bench pay .. => some (.res (bits (pay.headD 0) 0 32))
  | .age _ => some (.res p.gen)
  | .boot .. => some (if r.res = 1 then .fail .image else .ok)
  | _ => some .ok

/-- The first store leaves the queue; one that waits further behind leaves it. -/
def State.dropStore (i : Nat) (s : State) : State := s.modStore fun d =>
  if i = 0 then { d with q := d.q.drop 1, prog := none, stage := 0, att := 0, wait := false } else { d with q := d.q.eraseIdx i }

/-- Record `p` stands: the generation in force, or the boot header in force (R601, R605, R624). -/
def StoreS.stands (p : Prog) (r : StoreReq) (d : StoreS) : StoreS :=
  if p.ty = 0x10 then { d with gen := p.gen, base := p.gen, bank := if p.reg = regBank 0 then 0 else 1, chain := 0, due := false }
  else if p.ty = 0x11 then { d with gen := p.gen, chain := d.chain + 1 }
  else if p.ty = 1 then
    let d := { d with bootGen := p.gen, bootCopy := p.reg / 8 }
    match r.ch with
    | .boot f a b => { d with pref := f, stA := a, stB := b }
    | .remap l x => { d with remap := d.remap.put l x }
    | _ => d
  else d

/-- The last record of the first store stands. -/
def State.storeDone (p : Prog) (r : StoreReq) (s : State) : State :=
  let old := (s.dropStore 0).modStore (·.stands p r)
  let s := match r.ch with
    | .params .. => old.applyParams r.ch
    | .lastApply _ a b => State.lastEffects old a b (r.load old)
    | _ => r.load old
  let s := r.effect old s
  match r.rep p old s with
  | some x => s.replyTo r.h r.cmd x
  | none => s

/-- What a request that has failed with `e` leaves: its gauge's date stands as due again, a restoring commit is retried, a run ends. -/
def StoreReq.failed (r : StoreReq) (e : Err) (s : State) : State :=
  let s := match r.gwInst with
    | some i => if (s.gwi i).rp ∨ r.cmd = 0x0705 then s.gwAgain i else s
    | none => s
  match r.ch with
  | .restore k _ _ => (s.modLoop k fun l => { l with restore := true }).restoreFirst k
  | .cal c => match s.cal.runs.find? (·.num = c.num) with
    | some x => s.calEnd x false (if e = .holdup then 0x17 else 0x16) 0
    | none => s
  | _ => s

/-- Store `i` of the queue fails with `e`: its command is answered and nothing else it carries takes effect (R185, R542, R603, R652). -/
def State.storeFail (i : Nat) (e : Err) (s : State) : State := match s.store.q[i]? with
  | none => s
  | some r =>
    let s := s.modStore fun d => { d with hi := if i = 0 ∧ d.stage = 1 ∧ d.att = 0 then 1 + max d.gen d.hi else d.hi }
    r.failed e ((s.dropStore i).replyTo r.h r.cmd (.fail (match r.ch with
      | .restore .. => .store
      | _ => e)))

/-- The first store begins where it can. -/
def State.runStart (s : State) : State := match s.storeStart with
  | (s, none) => s
  | (s, some e) => s.storeFail 0 e

/-- The erase of the next sector of the ageing ring, or of the bank that the next SET goes to, begins (R608, R617). -/
def State.eraseBegin (ring : Bool) (s : State) : State := match s.eraseTarget ring with
  | some l => (s.modMem fun m => { m with cont := false }).modStore fun d =>
      { d with erasing := some (d.phys l, l, if ring then regAge else regBank d.otherBank, 0) }
  | none => s

/-- A request of row 4 of R810 takes the port if no other holds it. -/
def State.takePort (r : MemReq) (s : State) : State :=
  if s.portBusy then s else
  let s := s.modMem fun m => { m with waiting := m.waiting.erase r }
  match r with
  | .store => s.runStart
  | .erase ring => s.eraseBegin ring
  | .fill .. | .window => s

/-- The port is free of a program or an erase: reads that waited are served, then the requests of row 4 in the order of their arrival (R810). -/
def State.portNext (s : State) : State :=
  let s := s.servePort
  forAll (s.mem.inRow 4) State.takePort s

/-! ## Records (R506, R595, R600, R601) -/

/-- DS_STORE (R506, R596, R601, R810): the first store of the queue begins, or waits for the port; `holdup` is the level of HOLDUP_OK. A refresh that a
SET has overtaken is not written. -/
def execDsStore (holdup : Bool) (s : State) : Host.Outcome State Fault Refusal :=
  if s.pwr.held then .next s else
  let s := s.modPwr fun p => { p with holdup := holdup }
  match s.store.q.head? with
  | some r =>
    if s.store.prog.isSome then .next s
    else if r.ch = .refresh ∧ !s.store.due then .next (s.dropStore 0)
    else .next (if s.portBusy then s.ask .store else s.runStart)
  | none => .next s

/-- HOLDUP_OK_HIGH (R506): the record that waits begins. -/
def execHoldupOkHigh (s : State) : Host.Outcome State Fault Refusal :=
  let s := s.modPwr fun p => { p with holdup := true }
  .next (if s.store.wait ∧ !s.pwr.held then s.runStart else s)

/-- A store that answers no command and ends no run goes on waiting. -/
def StoreReq.stays (r : StoreReq) : Bool := r.h.isNone && r.gwInst.isNone && match r.ch with
  | .cal _ | .restore .. => false
  | _ => true

/-- HOLDUP_WAIT_EXPIRY (R506, R642): store `i` of the queue has waited for more than 10 s; an ageing sample stays in SRAM. -/
def execHoldupWaitExpiry (i : Nat) (s : State) : Host.Outcome State Fault Refusal :=
  if !s.store.wait then .next s else
  match s.store.q[i]? with
  | none => .next s
  | some r => match r.ch with
    | .age _ => .next ((s.modStore fun d => { d with q := d.q.set i { r with h := none } }).replyTo r.h r.cmd (.fail .holdup))
    | _ => .next (if r.stays then s else s.storeFail i .holdup)

/-- A first record of two stands: a Benchmark record before its generation (R578), an image before its boot header, which marks the slot
TRIAL and names it, or BAD (R625, R627). -/
def State.recStands (p : Prog) (r : StoreReq) (s : State) : State := match r.ch with
  | .bench .. => if p.stage = 0 then (s.modStore fun d => { d with stage := 1, att := 0 }).runStart else s.storeDone p r
  | .image k pay =>
    let ok := s.imageOk pay
    let st := if ok then 1 else 3
    let r : StoreReq := { r with
      ch := .boot (if ok then k else s.store.pref) (if k = 0 then st else s.store.stA) (if k = 1 then st else s.store.stB), res := bit (!ok) }
    (s.modStore fun d => { d with q := r :: d.q.drop 1, stage := 0, att := 0 }).runStart
  | _ => s.storeDone p r

/-- Word `i` of record `p` reads back as `c`. -/
def StoreS.spoil (p : Prog) (i : Nat) (c : WCls) (d : StoreS) : StoreS :=
  let n := d.wordNo p.reg (p.pos + i)
  { d with flash := d.flash.map fun e => if e.1 = n then (n, { e.2 with cls := c }) else e }

/-- DS_RECORD_COMMIT (R595, R599, R600, R601): the record in progress stands, or word `bad.1` of it reads back CORRECTED (true) or
UNCORRECTABLE, and it is written afresh, three times in all. -/
def execDsRecordCommit (bad : Option (Nat × Bool)) (s : State) : Host.Outcome State Fault Refusal :=
  match s.store.prog, s.store.q with
  | some p, r :: _ =>
    if s.pwr.held ∨ s.pwr.brace then .next s else
    let n := p.pay.length + 3
    match bad with
    | none => .next (((s.programRec n .clean).modStore fun d => { d with prog := none }).recStands p r).portNext
    | some (i, corr) =>
      let i := min i (n - 1)
      let c : WCls := if corr then .corrected else .bad
      let s := (s.programRec (if i + 1 < n then n - 1 else n) .clean).modStore fun d => { (d.spoil p i c) with prog := none }
      if p.att < 2 then .next (s.modStore fun d => { d with att := p.att + 1 }).runStart
      else .next ((s.storeFail 0 .store).replaceSector (p.reg + (p.pos + i) % regCap p.reg / 226)).portNext
  | _, _ => .next s

/-! ## Erasing ahead (R592, R593, R595, R608, R617) -/

/-- ERASE_AHEAD (R608, R617, R810): the erase of the next sector begins, or waits for the port. -/
def execEraseAhead (ring : Bool) (s : State) : Host.Outcome State Fault Refusal :=
  if s.pwr.held ∨ s.pwr.brace ∨ s.pwr.rom ∨ !s.mem.usable ∨ s.store.foreign then .next s
  else .next (if s.portBusy then s.ask (.erase ring) else s.eraseBegin ring)

/-- SECTOR_ERASE_DONE (R592, R595, R638): the sector word is written, a worn sector is replaced, and the port is free; an erase that fails its verify is
repeated, three times in all. -/
def execSectorEraseDone (ok : Bool) (s : State) : Host.Outcome State Fault Refusal := match s.store.erasing with
  | none => .next s
  | some (p, l, r, n) =>
    if s.pwr.held then .next s
    else if ok then
      let s := (s.modStore fun d => { (d.erase p l) with erasing := none }).modGw fun g => { g with g7 := g.g7 + 1 }
      .next (if s.worn l then s.replaceSector l else s).portNext.runStart
    else if n < 2 then .next (s.modStore fun d => { d with erasing := some (p, l, r, n + 1) })
    else .next ((s.modStore fun d => { (d.ruin p) with erasing := none }).replaceSector l).portNext.runStart

/-! ## Scrub (R622) -/

/-- A record lies in the chain in force. -/
def State.inChain (s : State) (f : Found) : Bool :=
  (f.ty = 0x10 && f.gen = s.store.base) || (f.ty = 0x11 && bits (f.pay.headD 0) 0 48 = s.store.base)

/-- A stored word that `ws` lists has come to read CORRECTED (true) or UNCORRECTABLE. -/
def drift (ws : List (BitVec 32 × Bool)) (e : Nat × FWord) : Nat × FWord := match ws.find? (fun w => w.1.toNat = e.1) with
  | some w => (e.1, { e.2 with cls := if w.2 then .corrected else .bad })
  | none => e

/-- A scrub of every region: words `ws` (absolute word number, and CORRECTED true or UNCORRECTABLE) have come to read so; the words that read so are
counted (R591), and corrected records are refreshed or copied. -/
def State.scrubNow (ws : List (BitVec 32 × Bool)) (s : State) : State :=
  if !s.mem.usable ∨ s.store.foreign then s else
  let s := s.modStore fun d => { d with flash := d.flash.map (drift ws), scrubT := s.gw.secs }
  let s := s.modStore fun d => { d with ue := satAdd 32 (d.flash.filter (·.2.cls = .bad)).length d.ue }
  let s := s.eccCorr ((s.store.flash.filter (·.2.cls = .corrected)).map (·.1))
  let dirty (r : Nat) : List Found := (s.store.records r).filter fun f => f.valid && f.corr
  let s := if ((dirty (regBank 0)) ++ dirty (regBank 1)).any s.inChain ∧ !s.store.due then
      (s.modStore fun d => { d with due := true }).commit none 0 .refresh else s
  forAll ((dirty regAge ++ dirty regBench).filter fun f => knownType f.ty)
    (fun f s => s.commit none 0 (.copy (if f.ty ≤ 0x21 then 0x21 else 0x31) f.gen f.pay)) s

/-- DS_SCRUB_PERIOD (R622, R631): a scrub falls due each DS_SCRUB_PERIOD of powered time. -/
def execDsScrubPeriod (ws : List (BitVec 32 × Bool)) (s : State) : Host.Outcome State Fault Refusal :=
  if s.pwr.held ∨ s.pwr.rom ∨ s.gw.secs < s.store.scrubT + s.pv P.dsScrubPeriod then .next s else .next (s.scrubNow ws)

/-- DS_SCRUB (R622). -/
def State.opDsScrub (h : Hdr) (ws : List (BitVec 32 × Bool)) (s : State) : State := (s.scrubNow ws).reply h 0x0605 .ok
def execDsScrub (h : Hdr) (ws : List (BitVec 32 × Bool)) (s : State) : Host.Outcome State Fault Refusal :=
  .next (s.viaDoor h 0x0605 (·.opDsScrub h ws))

/-! ## Reading the store -/

/-- DS_INFO (R605, R613). -/
def State.opDsInfo (h : Hdr) (s : State) : State :=
  let d := s.store
  s.reply h 0x0601 ⟨.ok, 0, 0, 0, [fld 0 48 d.gen + fld 48 48 (1 + max d.gen d.hi),
    fld 0 32 d.corr + fld 32 32 d.ue + fld 64 32 d.torn + fld 96 32 s.reserve]⟩
def execDsInfo (h : Hdr) (s : State) : Host.Outcome State Fault Refusal := .next (s.viaDoor h 0x0601 (·.opDsInfo h))

/-- The Benchmark records that can be read (R616, R799). -/
def State.benchList (s : State) : List (Nat × List Nat × Bool) := if s.mem.usable ∧ !s.store.foreign then s.benches else []

/-- A Benchmark record whose generation the journal does not hold (R621). -/
def State.unadopted (s : State) (n g : Nat) : Bool :=
  let l := s.store.records (regBank 0) ++ s.store.records (regBank 1)
  s.store.anchor ≠ n && !(l.any fun f => f.valid && f.gen = g) && (s.store.base ≤ g || l.any fun f => f.head && f.gen = g)

/-- DS_BENCH_LIST (R621). -/
def State.opDsBenchList (h : Hdr) (bd : Nat) (s : State) : State := match s.streamErr bd with
  | some e => s.reply h 0x0602 (.fail e)
  | none =>
    if s.store.foreign then s.reply h 0x0602 (.fail .foreign) else
    let s := if s.mem.usable then s.readRegion regBench else s
    s.openOut h 0x0602 bd (s.benchList.map fun b =>
      let w := b.2.1.headD 0
      let g := bits w 64 48
      BitVec.ofNat 128 (bits w 0 112 + fld 112 1 (bit (s.unadopted b.1 g)) + fld 113 1 (bit b.2.2) + fld 114 14 (bits w 112 16)))
def execDsBenchList (h : Hdr) (bd : Fin 8) (s : State) : Host.Outcome State Fault Refusal := .next (s.viaDoor h 0x0602 (·.opDsBenchList h bd))

/-- The factory Benchmark record in OTP, number 0, without paths (R588). -/
def factoryBench : List Nat := 0 :: (upTo 8).map fun i => (Config.factoryBench i).toNat

/-- DS_BENCH_READ (R620). -/
def State.opDsBenchRead (h : Hdr) (bd n : Nat) (s : State) : State := match s.streamErr bd with
  | some e => s.reply h 0x0603 (.fail e)
  | none => match s.benchList.find? (·.1 = n) with
    | some b =>
      let s := match (s.store.records regBench).find? fun f => f.valid ∧ f.gen = n ∧ f.ty = (if b.2.2 then 0x31 else 0x30) with
        | some f => s.readSpan regBench f.pos (f.pay.length + 3)
        | none => s
      s.openOut h 0x0603 bd (b.2.1.map (BitVec.ofNat 128 ·))
    | none => if n = 0 then s.openOut h 0x0603 bd (factoryBench.map (BitVec.ofNat 128 ·)) else s.reply h 0x0603 (.fail .range)
def execDsBenchRead (h : Hdr) (bd : Fin 8) (n : BitVec 32) (s : State) : Host.Outcome State Fault Refusal :=
  .next (s.viaDoor h 0x0603 (·.opDsBenchRead h bd n.toNat))

/-- DS_RETIRE_LIST (R612): closed retirements included. -/
def State.opDsRetireList (h : Hdr) (bd : Nat) (s : State) : State := match s.streamErr bd with
  | some e => s.reply h 0x0604 (.fail e)
  | none => s.openOut h 0x0604 bd (s.store.ret.map fun e => BitVec.ofNat 128 e.2)
def execDsRetireList (h : Hdr) (bd : Fin 8) (s : State) : Host.Outcome State Fault Refusal := .next (s.viaDoor h 0x0604 (·.opDsRetireList h bd))

/-! ## Maintenance -/

/-- MNT_DS_FORMAT (R503, R506, R616, R799): only of a foreign store, in STOWED. -/
def State.opMntDsFormat (h : Hdr) (s : State) : State :=
  if s.pwr.mode ≠ .stowed then s.reply h 0x0A12 (.fail .mode)
  else if !s.mem.usable then s.reply h 0x0A12 (.fail .store)
  else if s.pwr.brace ∨ !s.pwr.holdup then s.reply h 0x0A12 (.fail .holdup)
  else if !s.store.foreign then s.reply h 0x0A12 .ok
  else
    let s := forAll [regBank 0, regBank 1, regAge, regBench] (fun r s => s.eraseRegion r) s
    let s := s.modStore fun d => { d with foreign := false }
    (s.writeBoot s.store.pref s.store.stA s.store.stB).reply h 0x0A12 .ok
def execMntDsFormat (h : Hdr) (s : State) : Host.Outcome State Fault Refusal := .next (s.viaDoor h 0x0A12 (·.opMntDsFormat h))

/-- MNT_DTC_LOAD (R208, R209, R785). -/
def State.opMntDtcLoad (h : Hdr) (c : Nat) (l : List (BitVec 32)) (s : State) : State :=
  let l := l.map (·.toNat)
  if dtcOk l then s.commit (some h) 0x0A13 (.dtc c (tabOf l)) else s.reply h 0x0A13 (.fail .dtcForm)
def execMntDtcLoad (h : Hdr) (c : Ch) (l : List (BitVec 32)) (s : State) : Host.Outcome State Fault Refusal :=
  .next (s.viaDoor h 0x0A13 (·.opMntDtcLoad h c l))

/-- MNT_TDC_LOAD (R299, R561, R785): part 0 gives TAP_POS, part 1 completes the set within 10 s. -/
def State.opMntTdcLoad (h : Hdr) (core : Nat) (part : TdcPart) (s : State) : State :=
  if 532 ≤ core then s.reply h 0x0A14 (.fail .range) else
  match part with
  | .pos l => (s.modCal fun c => { c with part0 := some (core, l.map (·.toNat), s.now) }).reply h 0x0A14 .ok
  | .rest wid vern ofs trim valid temp secs =>
    let p := s.cal.part0
    let s := s.modCal fun c => { c with part0 := none }
    match p with
    | some (i, pos, t) =>
      if i ≠ core ∨ s.now < t ∨ 10 * secU < s.now - t then s.reply h 0x0A14 (.fail .range) else
      let v : CorrSet := ⟨pos, wid.map (·.toNat), vern.map (·.toNat), ofs.toNat, valid⟩
      if v.ok ∧ temp.toInt ≠ -32768 then s.commit (some h) 0x0A14 (.tdc core v trim.toNat temp.toInt secs.toNat) else s.reply h 0x0A14 (.fail .tdcForm)
    | none => s.reply h 0x0A14 (.fail .range)
def execMntTdcLoad (h : Hdr) (core : BitVec 10) (part : TdcPart) (s : State) : Host.Outcome State Fault Refusal :=
  .next (s.viaDoor h 0x0A14 (·.opMntTdcLoad h core.toNat part))

/-! ## OTP (R588, R615, R627, R629, R731) -/

/-- OEM_ID (0) or NODE_SERIAL (1) has been written. -/
def OtpS.written (o : OtpS) (node : Bool) : Bool := if node then o.node.isSome else o.oem.isSome
/-- An accepted write of it: the new value reads back at once, and its row is due. -/
def OtpS.write (node : Bool) (v : Nat) (h : Option Hdr) (o : OtpS) : OtpS :=
  let o := { o with rows := o.rows ++ [(bit node, v, h)] }
  if node then { o with node := some v } else { o with oem := some v }

/-- MNT_OTP_WRITE (R629). -/
def State.opMntOtpWrite (h : Hdr) (node : Bool) (v : Nat) (s : State) : State :=
  if s.otp.written node then (s.modReg fun r => { r with ev := r.ev.raise 8 }).reply h 0x0A15 (.fail .wo)
  else if s.pwr.brace ∨ !s.pwr.holdup then s.reply h 0x0A15 (.fail .holdup)
  else s.modOtp (·.write node (if node then v else v % 2 ^ 32) (some h))
def execMntOtpWrite (h : Hdr) (node : Bool) (v : W128) (s : State) : Host.Outcome State Fault Refusal :=
  .next (s.viaDoor h 0x0A15 (·.opMntOtpWrite h node v.toNat))

/-- A bit of the retirement mirror is programmed; four-bit thermometer counts hold no more than 4 (R615). -/
def mirrorUp (x : Nat) (t : Tab (Nat × Nat)) : Tab (Nat × Nat) :=
  let c := t.get (0, 0) (x / 2)
  t.put (x / 2) (if x % 2 = 1 then (c.1, min 4 (c.2 + 1)) else (min 4 (c.1 + 1), c.2))

/-- The field of a row takes its value; a damaged row reads 0. -/
def OtpS.program (f x : Nat) (damaged : Bool) (o : OtpS) : OtpS := match f with
  | 0 => { o with oem := some (if damaged then 0 else x) }
  | 1 => { o with node := some (if damaged then 0 else x) }
  | 2 => { o with mirror := if damaged then o.mirror.put (x / 2) (0, 0) else mirrorUp x o.mirror }
  | 3 => { o with ar := if damaged then 0 else max o.ar x }
  | _ => { o with revoke := if damaged then 0 else setBit o.revoke x true }
/-- Command of a row's field. -/
def otpCmd (f : Nat) : Nat := if f = 4 then 0x0805 else 0x0A15

/-- OTP_ROW_PROGRAMMED (R615, R627, R629): the oldest row is programmed; OTP_DAMAGED names the field of a row that reads
UNCORRECTABLE. -/
def execOtpRowProgrammed (damaged : Bool) (s : State) : Host.Outcome State Fault Refusal := match s.otp.rows with
  | [] => .next s
  | (f, x, h) :: l =>
    if s.pwr.held ∨ s.pwr.brace ∨ !s.pwr.holdup then .next s else
    let s := s.modOtp fun o => { (o.program f x damaged) with rows := l }
    let s := if damaged ∧ f < 4 then s.post ⟨0x8603, f, 0, 0⟩ else s
    .next (s.replyTo h (otpCmd f) .ok)

end Sys2Proof.Machine
end

