-- ==== Sys2Proof/Machine/Firmware.lean ====
section
/-!
DEFINITION. The information commands and the firmware commands (R113, R308, R588, R625 to R628, R738, R739).
-/
namespace Sys2Proof.Machine

/-! ## Information -/

/-- INFO_ID (R739). -/
def State.opInfoId (h : Hdr) (s : State) : State :=
  s.reply h 0x0101 ⟨.ok, 0, 0, 0, [
    fld 0 64 Config.deviceId.toNat + fld 64 8 Config.silRev.toNat + fld 72 1 (bit Config.gradeE) + fld 96 32 ((s.img.map (·.rel)).getD 0),
    fld 0 32 (s.otp.oem.getD 0) + fld 32 8 ((s.img.map (·.sv)).getD 0), s.otp.node.getD 0 % 2 ^ 128]⟩
def execInfoId (h : Hdr) (s : State) : Host.Outcome State Fault Refusal := .next (s.viaDoor h 0x0101 (·.opInfoId h))

/-- DEV_STATUS (R308): the drop counters of the device-level sources. -/
def State.opDevStatus (h : Hdr) (s : State) : State :=
  s.reply h 0x0102 ⟨.ok, 0, 0, 0, (upTo 4).map fun d =>
    let x := s.src (0x800 + d)
    fld 0 32 x.rate + fld 32 32 x.dll + fld 64 32 x.hold⟩
def execDevStatus (h : Hdr) (s : State) : Host.Outcome State Fault Refusal := .next (s.viaDoor h 0x0102 (·.opDevStatus h))

/-- TS_INFO (R113, R132). -/
def State.opTsInfo (h : Hdr) (s : State) : State :=
  s.reply h 0x0103 ⟨.ok, 0, 0, 0,
    [bits (s.latchOf 1).toNat 32 96, toBits 64 s.ts.rate + 2 ^ 64 * tivWord s.ts.o, tivWord s.ts.u]⟩
def execTsInfo (h : Hdr) (s : State) : Host.Outcome State Fault Refusal := .next (s.viaDoor h 0x0103 (·.opTsInfo h))

/-! ## Firmware -/

/-- FW_INFO (R738). -/
def State.opFwInfo (h : Hdr) (s : State) : State := s.reply h 0x0801 (.res s.fwStatus)
def execFwInfo (h : Hdr) (s : State) : Host.Outcome State Fault Refusal := .next (s.viaDoor h 0x0801 (·.opFwInfo h))

/-- The slot that FW_WRITE writes: the one that is not running; with an image in SRAM or none running, the one that PREF does not name. -/
def State.idleSlot (s : State) : Nat := match s.img with
  | some i => if i.sram then 1 - s.store.pref else 1 - i.slot
  | none => 1 - s.store.pref

/-- An image is on its way to the flash. -/
def State.imageQueued (s : State) : Bool := s.store.q.any fun r => r.cmd = 0x0802

/-- FW_WRITE (R627): the inbound stream opens; what follows is `State.streamDone`. -/
def State.opFwWrite (h : Hdr) (bd bytes : Nat) (s : State) : State := match s.streamErr bd with
  | some e => s.reply h 0x0802 (.fail e)
  | none => if s.imageQueued then s.reply h 0x0802 (.fail .busy) else s.openIn h 0x0802 bd (8 * bytes)
def execFwWrite (h : Hdr) (bd : Fin 8) (bytes : BitVec 32) (s : State) : Host.Outcome State Fault Refusal :=
  .next (s.viaDoor h 0x0802 (·.opFwWrite h bd bytes.toNat))

/-- FW_CONFIRM (R626): a boot header marks the running TRIAL image GOOD and names its slot. -/
def State.opFwConfirm (h : Hdr) (s : State) : State := match s.img with
  | some i =>
    if i.trial then
      s.commit (some h) 0x0803 (.boot i.slot (if i.slot = 0 then 2 else s.store.stA) (if i.slot = 1 then 2 else s.store.stB))
    else s.reply h 0x0803 (.fail .mode)
  | none => s.reply h 0x0803 (.fail .mode)
def execFwConfirm (h : Hdr) (s : State) : Host.Outcome State Fault Refusal := .next (s.viaDoor h 0x0803 (·.opFwConfirm h))

/-- FW_SRAM_RUN (R628). -/
def State.opFwSramRun (h : Hdr) (bd bytes : Nat) (s : State) : State :=
  if !s.pwr.rom then s.reply h 0x0804 (.fail .mode) else
  match s.streamErr bd with
  | some e => s.reply h 0x0804 (.fail e)
  | none => s.openIn h 0x0804 bd (8 * bytes)
def execFwSramRun (h : Hdr) (bd : Fin 8) (bytes : BitVec 32) (s : State) : Host.Outcome State Fault Refusal :=
  .next (s.viaDoor h 0x0804 (·.opFwSramRun h bd bytes.toNat))

/-- FW_REVOKE (R588): the key's bit is programmed; the running image's own key stays. -/
def State.opFwRevoke (h : Hdr) (k : Nat) (s : State) : State :=
  if s.img.any (·.key = k) then s.reply h 0x0805 (.fail .mode)
  else s.modOtp fun o => { o with rows := o.rows ++ [(4, k, some h)] }
def execFwRevoke (h : Hdr) (k : Fin 4) (s : State) : Host.Outcome State Fault Refusal := .next (s.viaDoor h 0x0805 (·.opFwRevoke h k))

/-- The inbound stream `st` is complete: FW_WRITE stores the image as a record of the idle slot, FW_SRAM_RUN checks and starts it, with no
reply where it starts (R627, R628, R781). -/
def State.streamDone (st : Stream) (s : State) : State :=
  let pay := st.data.map (·.toNat)
  if st.cmd = 0x0802 then
    if st.got ≠ st.want ∨ pay = [] then s.reply st.opener 0x0802 (.fail .image)
    else s.commit (some st.opener) 0x0802 (.image s.idleSlot pay)
  else if st.got = st.want ∧ s.pwr.rom ∧ s.imageOk pay then
    let s := s.modDoor st.opener.door.val fun d => { d with st := .idle }
    ((s.startImage 0 true false pay).modPwr fun p => { p with auto := true }).devEv 8
  else s.reply st.opener st.cmd (.fail .image)

end Sys2Proof.Machine
end

