-- ==== Sys2Proof/Machine/Ports.lean ====
section
/-!
DEFINITION. The memory port's prefetch buffer, the peripheral port and the steering of an external oscillator
(R134 to R137, R796 to R822).
-/
namespace Sys2Proof.Machine

/-! ## Prefetch (R800 to R804, R811) -/

/-- PREFETCH_FILL (R801, R807, R810, R811): a fetch of code line `n` misses the buffer, and that line and the next are filled, at once or when the
port serves reads again. Code runs from the flash only while an image of a slot runs. -/
def execPrefetchFill (n : BitVec 16) (s : State) : Host.Outcome State Fault Refusal := match s.img with
  | some i =>
    if i.sram ∨ s.pwr.held ∨ s.mem.lines.any (fun l => l.1 = n.toNat) then .next s
    else .next (s.ask (.fill i.slot n.toNat)).servePort
  | none => .next s

/-! ## Peripheral port (R813 to R822) -/

/-- A control word (R814). -/
def periphCtl (len wlen sel pdiv : Nat) (cont cpol cpha : Bool) : Nat :=
  fld 0 13 len + fld 13 5 wlen + fld 18 3 sel + fld 21 1 (bit cont) + fld 22 1 (bit cpol) + fld 23 1 (bit cpha) + fld 24 8 pdiv

/-- Words of a transfer (R815). -/
def PEntry.words (e : PEntry) : Nat :=
  let w := if bits e.ctl 13 5 = 0 then 32 else bits e.ctl 13 5
  (bits e.ctl 0 13 + w - 1) / w

/-- The port takes the entry (R814): codes that are not reserved, LEN from 1 to 4,096, PDIV from 3 on. -/
def PEntry.ok (e : PEntry) : Bool :=
  let len := bits e.ctl 0 13
  1 ≤ len && len ≤ 4096 && bits e.ctl 18 3 ≤ 4 && 3 ≤ bits e.ctl 24 8
/-- An entry joins the queue of four; none where the port refuses it (R813, R814). -/
def PerS.post (e : PEntry) (p : PerS) : Option PerS := if e.ok ∧ p.q.length < 4 then some { p with q := p.q ++ [e] } else none

/-- The entry of a DAC transfer (R818). -/
def dacEntry (n code : Nat) : PEntry := ⟨periphCtl n n 4 7 true false true, [code], true⟩

/-- A pattern: taps n and m of x^n + x^m + 1; none for a pattern without a register (R824). -/
def prbsOf : Nat → Option (Nat × Nat)
  | 1 => some (7, 6)
  | 2 => some (15, 14)
  | 3 => some (23, 18)
  | 4 => some (31, 28)
  | _ => none

/-- One bit of a pattern, and the register or position after it (R824, R825): a register starts from all ones, and its oldest stage is
the bit sent. -/
def patBit (p g : Nat) : Nat × Nat := match prbsOf p with
  | some (n, m) => (bits g (n - 1) 1, (2 * g + (bits g (n - 1) 1 + bits g (m - 1) 1) % 2) % 2 ^ n)
  | none => if p = 0 then (1 - g % 2, (g + 1) % 2) else (if g < 16 then 1 else 0, (g + 1) % 32)
/-- Where the generator of a pattern starts. -/
def patStart (p : Nat) : Nat := match prbsOf p with
  | some (n, _) => 2 ^ n - 1
  | none => 0

/-- The next 32 bits of a pattern, most significant first, on top of `w`, and the generator after them. -/
def patWord (p : Nat) : Nat → Nat → Nat → Nat × Nat
  | 0, g, w => (w, g)
  | k + 1, g, w => patWord p k (patBit p g).2 (2 * w + (patBit p g).1)
/-- The next `k` words of 32 bits of a pattern. -/
def patWords (p : Nat) : Nat → Nat → List Nat × Nat
  | 0, g => ([], g)
  | k + 1, g =>
    let x := patWord p 32 g 0
    let y := patWords p k x.2
    (x.1 :: y.1, y.2)

/-- The running PERIPH test posts its next entry of 4,096 bits (R836). -/
def State.postPeriph (s : State) : State := match s.tests.find? (·.kind = 5) with
  | none => s
  | some r =>
    let x := patWords (r.pattern % 128) 128 r.gen
    let s : State := { s with tests := s.tests.map fun t => if t.kind = 5 then { t with gen := x.2 } else t }
    s.modPer fun p => (p.post ⟨periphCtl 4096 0 4 3 false false false, x.1, false⟩).getD p

/-- PERIPH_ENTRY_DONE (R815, R817, R818): the first entry completes with `inp` received; the GPIO select of a DAC transfer goes high, and
a PERIPH test goes on. -/
def execPeriphEntryDone (inp : List (BitVec 32)) (s : State) : Host.Outcome State Fault Refusal := match s.per.q with
  | [] => .next s
  | e :: q =>
    if s.pwr.held then .next s else
    let s := s.modPer fun p => { p with
      q := q, cpol := e.ctl.testBit 22, inp := (inp.take e.words).map (·.toNat), gpio := if e.dac then 3 else p.gpio }
    .next (if e.dac then s else s.postPeriph)

/-! ## External oscillator steering -/

/-- The DAC code after a step for mean base term `b`, and whether it was clamped to the DAC range (R134, R136). -/
def State.extCode (s : State) (b : Int) : Nat × Bool :=
  let g := s.pi P.extGain
  let x := clampAbs (s.pi P.extStepMax / (g.natAbs : Int)) (roundDiv (b * sgn g) g.natAbs) + s.ext.code
  let top : Int := 2 ^ s.pv P.extBits - 1
  ((max 0 (min top x)).toNat, decide (x < 0 ∨ top < x))

/-- EXT_PERIOD (R134 to R137, R818, R821): `b` is the mean base term of the period, RATE64. The port held by a test or by a transfer
not yet complete skips the period. -/
def execExtPeriod (b : Int) (s : State) : Host.Outcome State Fault Refusal :=
  if !s.extActive ∨ s.pi P.extGain = 0 then .next s
  else if s.tests.any (·.kind = 5) ∨ s.per.q ≠ [] then .next (s.modExt fun e => { e with skip := satAdd 32 1 e.skip })
  else
    let x := s.extCode b
    match s.per.post (dacEntry (s.pv P.extBits) x.1) with
    | none => .next (s.modExt fun e => { e with skip := satAdd 32 1 e.skip })
    | some p =>
      let s := s.modPer fun _ => { p with gpio := setBit 3 (s.pv P.extSel) false }
      let s := s.modExt fun e => { e with code := x.1 }
      .next (if x.2 then s.refEv 12 else s)

end Sys2Proof.Machine
end

