-- ==== Sys2Proof/Machine/PatternTests.lean ====
section
/-!
DEFINITION. Pattern tests of channels, welts, marker pins and ports, and the eye scan (R823 to R837).
-/
namespace Sys2Proof.Machine

/-! ## What refuses a test (R823, R824, R835, R466 to R469) -/

/-- Kind, unit and pattern are defined together. -/
def testForm (kind unit pattern : Nat) : Bool :=
  let p := pattern % 128
  (if kind ≤ 1 then unit < 256 else if kind = 2 then 256 ≤ unit && unit < 264 else kind ≤ 6 && unit = 0)
    && ((1 ≤ p && p ≤ 4) || (p = 0 && kind ≠ 3 && kind ≠ 4) || (p = 5 && (kind = 0 || kind = 2 || kind = 6)))

/-- The column "Modes and state". -/
def State.testMode (s : State) (kind unit : Nat) : Bool :=
  let m : Bool := s.pwr.mode = .survey ∨ s.pwr.mode = .service ∨ s.pwr.mode = .holdover
  let q := s.domOn (pdQ (quadOf (octOf unit)))
  let o := s.oct (octOf unit)
  match kind with
  | 0 => m && q && (s.chan unit).st = .idle
  | 1 => m && q && s.cp unit P.mrkMode ≠ 3 && s.cp unit P.mrkMode ≠ 4
  | 2 => m && q && (s.chan unit).st = .idle && (match o.welt with | .standing _ => false | _ => true)
  | 3 | 5 => true
  | 4 => (s.pwr.mode = .stowed || s.pwr.mode = .survey) && s.mem.usable && s.reserve ≠ 0
  | _ => s.domOn pdCas && s.ts.role ≠ .fol

/-- The holder of what the test claims (R469). -/
def State.testHolder (s : State) (kind unit : Nat) : Option Nat :=
  if s.tests.any (fun r => r.kind = kind ∧ r.unit = unit) then some (holderOf 5 unit) else
  let run := (s.cal.runs.find? fun r => r.kind = 2 ∧ r.inOct (octOf unit)).map (·.holder)
  match kind with
  | 0 => run
  | 1 => s.mrkHolder unit
  | 2 => match (s.oct (octOf unit)).welt with
    | .loan c => some (holderOf 3 c)
    | .takeover c => some (holderOf 2 c)
    | _ => run
  | 5 => if s.per.q.any (·.dac) then some (holderOf 4 0) else none
  | _ => none

def State.testErr (s : State) (kind unit pattern : Nat) : Option Rep :=
  if !testForm kind unit pattern then some (.fail .badarg)
  else if !s.testMode kind unit then some (.fail .mode)
  else if (kind = 0 ∨ kind = 2) ∧ s.ts.st = .stopped then some (.fail .tsStopped)
  else if (kind = 0 ∨ kind = 2) ∧ (s.oct (octOf unit)).loop.st ≠ .locked then some (.fail .loop)
  else match s.testHolder kind unit with
  | some h => some (.conflict h)
  | none => if kind = 4 ∧ (s.pwr.brace ∨ !s.pwr.holdup) then some (.fail .holdup) else none

/-! ## Start and end -/

/-- The MEM test's sector is erased and written, its erase counted (R835). -/
def State.memTestFill (pattern : Nat) (s : State) : State :=
  let p := s.mem.sectors - 1
  let s := s.modGw fun g => { g with g7 := g.g7 + 1 }
  s.modStore fun d => (upTo 227).foldl
    (fun d i => { d with flash := d.flash.put (227 * p + i) ⟨Config.memTest pattern i, .clean⟩ }) (d.blank p)

/-- The test begins: the unit is claimed, and its generator takes it (R443, R828, R835, R836). -/
def State.testBegin (kind unit pattern secs : Nat) (s : State) : State :=
  let s : State := { s with tests := s.tests ++
    [⟨kind, unit, pattern, secs, false, none, 0, 0, 0, patStart (pattern % 128), ⟨0, 0, 0, 0⟩, none⟩] }
  match kind with
  | 0 | 2 =>
    let s := (s.takeKept unit).modDiv unit Div.restart
    ((s.setSt unit .test).modTrav unit fun _ => .init).switchTo unit .pattern
  | 4 => s.memTestFill (pattern % 128)
  | 5 => s.postPeriph
  | _ => s

/-- TEST_RUN. -/
def State.opTestRun (h : Hdr) (unit kind pattern secs : Nat) (s : State) : State := match s.testErr kind unit pattern with
  | some r => s.reply h 0x0901 r
  | none => (s.testBegin kind unit pattern secs).reply h 0x0901 .ok
def execTestRun (h : Hdr) (unit : BitVec 16) (kind : BitVec 4) (pattern : BitVec 8) (secs : BitVec 32) (s : State) :
    Host.Outcome State Fault Refusal := .next (s.viaDoor h 0x0901 (·.opTestRun h unit.toNat kind.toNat pattern.toNat secs.toNat))

/-- Bits checked and errors reach the counts of a test in sync; a HOST test counts by itself. -/
def TestRun.count (bits errs : Nat) (r : TestRun) : TestRun :=
  if r.sync ∧ r.kind ≠ 3 then { r with bits := (r.bits + bits) % 2 ^ 64, errs := satAdd 32 errs r.errs } else r

/-- A test leaves the memory port: a store that waits may begin (R835). -/
def State.testOver (verdict : TestRun → Nat) (r : TestRun) (s : State) : State :=
  let s := s.testEnd (verdict r) r
  if r.kind = 4 then s.portNext.runStart else s

/-- TEST_STOP (R826): every test of the unit ends, with what `ms` names for its kind: bits checked and errors since the last report. -/
def State.opTestStop (h : Hdr) (unit : Nat) (ms : List (Fin 7 × BitVec 64 × BitVec 32)) (s : State) : State :=
  let n (r : TestRun) : TestRun := match ms.find? (fun m => m.1.val = r.kind) with
    | some m => r.count m.2.1.toNat m.2.2.toNat
    | none => r
  (forAll (s.tests.filter (·.unit = unit)) (fun r s => s.testOver (·.verdict) (n r)) s).reply h 0x0902 .ok
def execTestStop (h : Hdr) (unit : BitVec 16) (ms : List (Fin 7 × BitVec 64 × BitVec 32)) (s : State) : Host.Outcome State Fault Refusal :=
  .next (s.viaDoor h 0x0902 (·.opTestStop h unit.toNat ms))

/-- The test of a kind and a unit. -/
def State.testOf (s : State) (kind unit : Nat) : Option TestRun := s.tests.find? fun r => r.kind = kind ∧ r.unit = unit
def State.modTest (kind unit : Nat) (f : TestRun → TestRun) (s : State) : State :=
  { s with tests := s.tests.map fun r => if r.kind = kind ∧ r.unit = unit then f r else r }

/-- TEST_DURATION (R826). -/
def execTestDuration (kind : Fin 7) (unit : BitVec 16) (bits : BitVec 64) (errs : BitVec 32) (s : State) : Host.Outcome State Fault Refusal :=
  match s.testOf kind unit.toNat with
  | some r => if r.secs = 0 then .next s else .next (s.testOver (·.verdict) (r.count bits.toNat errs.toNat))
  | none => .next s

/-- TEST_NO_SYNC (R826). -/
def execTestNoSync (kind : Fin 7) (unit : BitVec 16) (s : State) : Host.Outcome State Fault Refusal := match s.testOf kind unit.toNat with
  | some r => if r.syncT.isSome then .next s else .next (s.testOver (fun _ => 1) r)
  | none => .next s

/-! ## The checker (R825, R834) -/

/-- Sync is declared `us` microseconds after the start; the first one is kept. -/
def TestRun.synced (us : Nat) (r : TestRun) : TestRun := { r with sync := true, syncT := some (r.syncT.getD us) }

/-- CHECKER_SYNC: the checker of a test other than HOST, whose bits the block sees itself. -/
def execCheckerSync (kind : Fin 7) (unit : BitVec 16) (us : BitVec 16) (s : State) : Host.Outcome State Fault Refusal :=
  .next (s.modTest kind unit.toNat fun r => if r.kind = 3 ∨ r.sync then r else r.synced us.toNat)

/-- CHECKER_SYNC_LOSS: the counts up to the loss, and the return to loading; an eye scan advances no count of the test (R832). -/
def execCheckerSyncLoss (kind : Fin 7) (unit : BitVec 16) (bits : BitVec 64) (errs : BitVec 32) (s : State) :
    Host.Outcome State Fault Refusal :=
  .next (s.modTest kind unit.toNat fun r =>
    if r.kind = 3 ∨ !r.sync then r else if r.eye.isSome then { r with sync := false } else { (r.count bits.toNat errs.toNat) with sync := false, resync := satAdd 16 1 r.resync })

/-- One received bit at the checker of a HOST test: it loads its register, compares 64 bits, then counts on its own prediction until
17 errors stand among the last 64 bits. -/
def TestRun.bitIn (us b : Nat) (r : TestRun) : TestRun := match prbsOf (r.pattern % 128) with
  | none => r
  | some (n, m) =>
    let c := r.chk
    if c.n < n then { r with chk := ⟨(2 * c.reg + b) % 2 ^ n, c.n + 1, 0, 0⟩ } else
    let x := (Sys2Proof.bits c.reg (n - 1) 1 + Sys2Proof.bits c.reg (m - 1) 1) % 2
    let reg := (2 * c.reg + x) % 2 ^ n
    if r.sync then
      let win := (2 * c.win + bit (x ≠ b)) % 2 ^ 64
      let r := { r with bits := (r.bits + 1) % 2 ^ 64, errs := satAdd 32 (bit (x ≠ b)) r.errs }
      if 16 < ((upTo 64).filter win.testBit).length then
        { r with sync := false, resync := satAdd 16 1 r.resync, chk := ⟨0, 0, 0, 0⟩ }
      else { r with chk := ⟨reg, c.n, c.run, win⟩ }
    else if x ≠ b then { r with chk := ⟨0, 0, 0, 0⟩ }
    else
      let r := { r with chk := ⟨reg, c.n, c.run + 1, 0⟩ }
      if c.run + 1 = 64 then r.synced us else r

/-- A LOOP payload of `n` bits, its words in stream order and the last one right-aligned, at the checker of a HOST test. -/
def TestRun.payload (us : Nat) : Nat → List Nat → TestRun → TestRun
  | _, [], r => r
  | n, w :: ws, r =>
    let k := min n 32
    TestRun.payload us (n - k) ws ((upTo k).foldl (fun r i => r.bitIn us (Sys2Proof.bits w (k - 1 - i) 1)) r)

/-! ## Eye scan (R832, R833) -/

/-- TEST_EYE. -/
def State.opTestEye (h : Hdr) (c bd : Nat) (s : State) : State := match s.testOf 0 c with
  | some r =>
    if !r.sync ∨ r.eye.isSome then s.reply h 0x0903 (.fail .mode) else
    match s.streamErr bd with
    | some e => s.reply h 0x0903 (.fail e)
    | none => s.modTest 0 c fun r => { r with eye := some (h, bd) }
  | none => s.reply h 0x0903 (.fail .mode)
def execTestEye (h : Hdr) (c : Ch) (bd : Fin 8) (s : State) : Host.Outcome State Fault Refusal := .next (s.viaDoor h 0x0903 (·.opTestEye h c bd))

/-- Length of the run of zeros that begins at step `i` of 64, counted cyclically. -/
def zeroRun (l : List Nat) (i : Nat) : Nat := ((upTo 64).find? fun j => l.getD ((i + j) % 64) 0 ≠ 0).getD 64

/-- WIDTH and CENTRE of R833: the first of the longest runs. -/
def eyeRun (l : List Nat) : Nat × Nat :=
  let best := (upTo 64).foldl (fun (b : Nat × Nat) i => if b.2 < zeroRun l i then (i, zeroRun l i) else b) (0, 0)
  if best.2 = 0 then (0, 255) else (best.2, (best.1 + (best.2 - 1) / 2) % 64)

/-- The 17 words of the eye stream (R833). -/
def State.eyeWords (s : State) (c : Nat) (l : List Nat) : List W128 :=
  let w := eyeRun l
  let step := roundDiv ((1000000000 * 2 ^ 42 : Nat) : Int) (64 * max 1 (s.freqOf c))
  (BitVec.ofNat 128 (fld 0 16 c + fld 16 8 64 + fld 24 8 w.1 + fld 32 8 w.2 + fld 40 24 (2 ^ 20) + 2 ^ 64 * tivWord step)) ::
    (wordsOf 16 (packB 32 (l.map (min (2 ^ 32 - 1))))).map (BitVec.ofNat 128 ·)

/-- EYE_SCAN_DONE: the error counts of the 64 steps, step 0 first. -/
def execEyeScanDone (c : Ch) (l : List (BitVec 32)) (s : State) : Host.Outcome State Fault Refusal := match s.testOf 0 c with
  | some ⟨_, _, _, _, _, _, _, _, _, _, _, some (h, bd)⟩ =>
    let s := s.modTest 0 c fun r => { r with eye := none }
    let l := ((l.map BitVec.toNat) ++ List.replicate 64 0).take 64
    .next (match s.streamErr bd with
      | some e => s.reply h 0x0903 (.fail e)
      | none => s.openOut h 0x0903 bd (s.eyeWords c l))
  | _ => .next s

end Sys2Proof.Machine
end

