-- ==== Sys2Proof/Machine/Cascade.lean ====
section
/-!
DEFINITION. The cascade link, boundary scan, and the firmware heartbeat (R742, R838 to R849).
-/
namespace Sys2Proof.Machine

/-! ## The cascade link -/

/-- The link runs: PD_CAS powered, a role in force, and no CASCADE test in its place (R837, R844). -/
def State.casRuns (s : State) : Bool := s.domOn pdCas && s.cas.role ≠ 0 && !s.tests.any (·.kind = 6)

/-- The frame that the device launches now (R842). -/
def State.casFrame (s : State) : CasFrame :=
  { role := BitVec.ofNat 2 s.cas.role, sec := s.ts.st ≠ .stopped && s.now / secU ≠ s.cas.txSec, stampOk := s.cas.rx.isSome
    seq := BitVec.ofNat 16 s.cas.txSeq, dts := BitVec.ofNat 96 (dtfOf s.now), rate := BitVec.ofInt 64 s.ts.rate
    peerSeq := BitVec.ofNat 16 (s.cas.rx.getD (0, 0)).1, peerStamp := BitVec.ofNat 96 (dtfOf (s.cas.rx.getD (0, 0)).2)
    tsState := BitVec.ofNat 8 s.ts.st.ctorIdx }

/-- CASCADE_FRAME_SEND (R841, R842, R845): a follower that has stamped a frame of the lead begins a set. -/
def execCascadeFrameSend (s : State) : Host.Outcome State Fault Refusal :=
  if !s.casRuns then .next s else
  .next (s.modCas fun c =>
    let set := match c.rx with
      | some (q, t2) => match look c.t1 q with
        | some t1 => [(c.txSeq, t1, t2, s.now)]
        | none => []
      | none => []
    { c with
      tx := some s.casFrame, txSec := s.now / secU, txSeq := (c.txSeq + 1) % 2 ^ 16
      sets := if c.role = 2 ∧ s.ts.st ≠ .stopped then (set ++ c.sets).take 64 else [] })

/-- The link is lost: FAULT of kind 6, and for a follower the loss of its upstream (R843, R847). -/
def State.casLost (s : State) : State :=
  let s := (s.modCas fun c => { c with up := false, run := 0, miss := 0, sets := [] }).fault 6 0 0x30
  if s.ts.role = .fol then s.tsUpLost false else s

/-- A good frame of the other role: its mark is stamped, the run advances, and 64 of them bring the link up (R843). -/
def State.casGood (f : CasFrame) (mark : Option Nat) (s : State) : State :=
  let s := s.modCas fun c => { c with
    run := min 64 (c.run + 1), miss := 0, last := some f.seq.toNat, rx := (mark.map fun t => (f.seq.toNat, t)).or c.rx }
  if s.cas.run = 64 ∧ !s.cas.up then
    let s := s.modCas fun c => { c with up := true }
    if s.ts.role = .fol then s.tsQualified else s
  else s

/-- What a follower takes from a good frame of its lead: the rate word, t1, and the set that the frame completes (R845, R846). -/
def State.casFollow (f : CasFrame) (s : State) : State :=
  let s := s.modCas fun c => { c with rate := f.rate.toInt, t1 := ((f.seq.toNat, linOf f.dts.toNat) :: c.t1).take 8 }
  if !f.stampOk then s else
  match look s.cas.sets f.peerSeq.toNat with
  | none => s
  | some (t1, t2, t3) =>
    let x := stampDiff t2 t1
    let y := stampDiff (linOf f.peerStamp.toNat) t3
    let s := s.modCas fun c => { c with half := some (roundDiv (x + y) 2), sets := c.sets.takeWhile (·.1 ≠ f.peerSeq.toNat) }
    s.modTs fun t => { t with folE := some (roundDiv (x - y) 2 - s.pi P.casAsym) }

/-- A frame that is not good: it ends the run of a link that is not up, and is one frame period without a good frame for one that is, the eighth of
which loses it (R843). `seq` is the SEQ of a frame received whole: the next one follows it. -/
def State.casBad (seq : Option Nat) (s : State) : State :=
  let s := s.modCas fun c => { c with run := if c.up then c.run else 0, miss := if c.up then c.miss + 1 else 0, last := seq.or c.last }
  if s.cas.up ∧ 8 ≤ s.cas.miss then s.casLost else s

/-- CASCADE_FRAME (R522, R842 to R846): a frame arrives, its comma, characters and CRC valid or not; `mark` is the stamp of its mark. -/
def execCascadeFrame (valid : Bool) (f : CasFrame) (mark : BitVec 96) (s : State) : Host.Outcome State Fault Refusal :=
  if !s.casRuns then .next s
  else if !valid then .next (s.casBad none)
  else if f.role.toNat = s.cas.role then
    .next (if s.cas.up then s.casLost else s.modCas fun c => { c with run := 0 })
  else if f.role.toNat ≠ 3 - s.cas.role ∨ s.cas.last.any (fun q => f.seq.toNat ≠ (q + 1) % 2 ^ 16) then
    .next (s.casBad (some f.seq.toNat))
  else
    let s := s.casGood f (if s.ts.st = .stopped then none else some (linOf mark.toNat))
    if !s.devq.xCas.present ∨ s.devq.xCas.full then
      .next (s.modDevq fun q => { q with xCas := { q.xCas with drop := satAdd 32 1 q.xCas.drop } })
    else .next (if s.cas.role = 2 then s.casFollow f else s)

/-- CASCADE_LINK_LOST (R843, R847): 8 frame periods have passed without a good frame, whether or not frames came in them. -/
def execCascadeLinkLost (s : State) : Host.Outcome State Fault Refusal := .next (if s.cas.up then s.casLost else s)

/-- CAS_TRAIN_T (R483, R843): WAKE step 5 ends without the link. -/
def execCasTrainT (s : State) : Host.Outcome State Fault Refusal :=
  if s.waking ∧ s.pwr.step = 5 ∧ s.casOn ∧ !s.cas.up then .next s.casLost.wakeEnd else .next s

/-! ## Boundary scan (R838, R840) -/

/-- A TAP instruction takes effect: the instructions of R840 hold every domain except PD_AON in cold reset, the others release it. -/
def State.tapUpdate (t : Tap) (s : State) : State :=
  let was := tapHolds s.tap
  let s : State := { s with tap := t }
  if tapHolds t then (if was then s else s.warm.modPwr fun p => { p with held := true })
  else if was then (s.modPwr fun p => { p with cause := 1 }).endReset else s

/-- JTAG_INSTRUCTION_UPDATE. -/
def execJtagInstructionUpdate (t : Tap) (s : State) : Host.Outcome State Fault Refusal := .next (s.tapUpdate t)
/-- TEST_LOGIC_RESET: IDCODE is in force, as IEEE 1149.1 has it. -/
def execTestLogicReset (s : State) : Host.Outcome State Fault Refusal := .next (s.tapUpdate .idcode)

/-! ## Firmware -/

/-- FIRMWARE_HEARTBEAT (R742): while an image runs. -/
def execFirmwareHeartbeat (s : State) : Host.Outcome State Fault Refusal :=
  if s.pwr.held ∨ s.pwr.rom then .next s else .next (s.modReg fun r => { r with beat := (r.beat + 1) % 2 ^ 16 })

end Sys2Proof.Machine
end

