-- ==== Sys2Proof/Machine/PhaseCmds.lean ====
section
/-!
DEFINITION. Phase requests and the traverse read (R258 to R266, R275, R280).
-/
namespace Sys2Proof.Machine

/-- CH_PHASE_ADJ (R259, R263): accepted, it becomes a request job of the acting index, which `State.applyReq` checks against
PH_RES_MAX (R260). -/
def State.opPhaseAdj (h : Hdr) (c : Nat) (d : Int) (s : State) : State :=
  let i := s.actOf c
  if !tivOk d then s.reply h 0x0304 (.fail .badarg)
  else if s.phaseMode c then s.reqRefused i (some h) 0x0304 .mode
  else
    let t := s.request i (.adj (some h) h.notify d)
    if (s.oct (octOf i)).xReq.present then t else t.reqRefused i (some h) 0x0304 .absent

def execChPhaseAdj (h : Hdr) (c : Ch) (d : Int) (s : State) : Host.Outcome State Fault Refusal :=
  .next (s.viaDoor h 0x0304 (·.opPhaseAdj h c d))

/-- CH_PHASE_CANCEL (R258, R266). -/
def State.opPhaseCancel (h : Hdr) (c : Nat) (s : State) : State :=
  let i := s.actOf c
  if s.phaseMode c then s.reqRefused i (some h) 0x0305 .mode
  else
    let t := s.request i (.cancel (some h))
    if (s.oct (octOf i)).xReq.present then t else t.reqRefused i (some h) 0x0305 .absent

def execChPhaseCancel (h : Hdr) (c : Ch) (s : State) : Host.Outcome State Fault Refusal :=
  .next (s.viaDoor h 0x0305 (·.opPhaseCancel h c))

/-- CH_TRAVERSE (R275, R280): none names the timescale. -/
def State.opTraverse (h : Hdr) (c : Option Nat) (s : State) : State :=
  let t := match c with
    | none => s.ts.trav
    | some c => (s.chan (s.actOf c)).trav
  s.reply h 0x0306 ⟨.ok, 0, 0, 0, t.words⟩

def execChTraverse (h : Hdr) (c : Option Ch) (s : State) : Host.Outcome State Fault Refusal :=
  .next (s.viaDoor h 0x0306 (·.opTraverse h (c.map Fin.val)))

end Sys2Proof.Machine
end

