-- ==== Sys2Proof/Machine/Doors.lean ====
section
/-!
DEFINITION. Doors as the host rings them: messages read from their words, commands dispatched, stream blocks, events
(R744 to R748, R765 to R784).
-/
namespace Sys2Proof.Machine

/-! ## The form of a command message (R766 to R769) -/

/-- Bits `lo` to `lo + w − 1`. -/
def ones (lo w : Nat) : Nat := (2 ^ w - 1) * 2 ^ lo
/-- The bulk door field of R778. -/
def bdBits : Nat := ones 56 3

/-- LEN, the PARAMS bits that are not reserved, and those of words 1 to 15 (all of a word that is not listed); none for an undefined
command. `p` are the PARAMS of the message. -/
def cmdForm (cmd p : Nat) : Option (Nat × Nat × List Nat) := match cmd with
  | 0x0101 | 0x0102 | 0x0103 => some (16, 0, [])
  | 0x0104 => some (16, bdBits, [])
  | 0x0201 | 0x0202 | 0x0203 => some (16 + 16 * (p % 16), ones 0 4, [])
  | 0x0204 => some (16, ones 0 6 + ones 16 16, [])
  | 0x0205 => some (16, ones 0 8 + ones 16 32, [])
  | 0x0206 => some (16, ones 0 6, [])
  | 0x0207 => some (16, bdBits, [])
  | 0x0301 | 0x0302 | 0x0305 | 0x0306 | 0x0307 => some (16, ones 0 16, [])
  | 0x0303 => some (16, ones 0 18, [])
  | 0x0304 => some (32, ones 0 16, [ones 0 64])
  | 0x0310 | 0x0311 | 0x0322 | 0x0503 => some (16, bdBits + ones 0 16, [])
  | 0x0312 | 0x0321 | 0x0323 => some (16, ones 0 4, [])
  | 0x0320 => some (16, ones 0 5 + ones 8 2, [])
  | 0x0330 => some (16, ones 0 64, [])
  | 0x0331 => some (16, ones 0 5, [])
  | 0x0340 => some (16, ones 0 3 + ones 8 32, [])
  | 0x0401 => some (32, ones 0 2, [ones 0 96])
  | 0x0402 | 0x0405 | 0x0406 => some (16, 0, [])
  | 0x0403 | 0x0404 => some (32, 0, [ones 0 64])
  | 0x0501 => some (16, ones 0 17, [])
  | 0x0502 => some (16, ones 0 9, [])
  | 0x0504 => some (16, ones 0 32, [])
  | 0x0505 => some (16, ones 0 8, [])
  | 0x0510 => some (64, ones 0 64, [])
  | 0x0511 => some (32, 0, [])
  | 0x0512 => some (32, ones 0 18, [])
  | 0x0513 | 0x0514 | 0x0601 | 0x0605 => some (16, 0, [])
  | 0x0602 | 0x0604 => some (16, bdBits, [])
  | 0x0603 | 0x0802 | 0x0804 => some (16, bdBits + ones 0 32, [])
  | 0x0701 => some (16, bdBits + 1, [])
  | 0x0702 => some (16, bdBits + ones 0 48, [])
  | 0x0703 | 0x0801 | 0x0803 => some (16, 0, [])
  | 0x0704 | 0x0705 | 0x0902 | 0x0A11 => some (16, ones 0 16, [])
  | 0x0805 => some (16, ones 0 2, [])
  | 0x0901 => some (16, ones 0 28 + ones 32 32, [])
  | 0x0903 => some (16, ones 0 16 + bdBits, [])
  | 0x0A01 | 0x0A02 | 0x0A03 | 0x0A04 | 0x0A05 | 0x0A12 => some (16, 0, [])
  | 0x0A10 => some (32, ones 0 3 + ones 8 6 + ones 16 2, [])
  | 0x0A13 => some (112, ones 0 16, List.replicate 6 (packB 32 (List.replicate 4 (ones 0 29))))
  | 0x0A14 => if p.testBit 10 then some (208, ones 0 11, List.replicate 11 (ones 0 128) ++ [ones 0 92]) else some (160, ones 0 11, [])
  | 0x0A15 => some (32, 1, [])
  | _ => none

/-- `x` has no bit outside `mask`. -/
def inMask (mask x : Nat) : Bool := x &&& mask = x

/-- The items of `n` message words (R788): a DTF takes two; none where a reserved bit is set or a second word is missing. -/
def itemsOf : List Nat → Option (List Item)
  | [] => some []
  | w :: l =>
    if !inMask (ones 0 28 + ones 64 64) w then none else
    let x : Item := ⟨BitVec.ofNat 16 w, BitVec.ofNat 12 (w / 2 ^ 16), BitVec.ofNat 96 (w / 2 ^ 64)⟩
    if dtfId (w % 2 ^ 16) then match l with
      | v :: l => if !inMask (ones 0 32) v then none else (itemsOf l).map ({ x with val := BitVec.ofNat 96 (w / 2 ^ 64 + v * 2 ^ 64) } :: ·)
      | [] => none
    else (itemsOf l).map (x :: ·)

/-- Words 1 to `n` of a message. -/
def wordsTo (w : Nat → Nat) (n : Nat) : List Nat := (upTo n).map fun i => w (i + 1)

/-! ## BULK_CLOSE (R782) -/

def State.opBulkClose (h : Hdr) (bd : Nat) (s : State) : State :=
  if bd ≠ 4 ∧ bd ≠ 5 then s.reply h 0x0104 (.fail .badarg) else (s.closeStream .badarg bd).reply h 0x0104 .ok
def execBulkClose (h : Hdr) (bd : Fin 8) (s : State) : Host.Outcome State Fault Refusal := .next (s.viaDoor h 0x0104 (·.opBulkClose h bd))

/-! ## Commands as messages -/

/-- A channel command: CH is a channel index. -/
def chArg (p : Nat) (f : Ch → State → State) : Option (State → State) :=
  if h : p % 2 ^ 16 < 264 then some (f ⟨p % 2 ^ 16, h⟩) else none

/-- The effect of command `cmd` with PARAMS `p` and further words `w`; none where a field is outside its range. -/
def cmdOp (h : Hdr) (cmd p : Nat) (w : Nat → Nat) (m : Meas) : Option (State → State) :=
  let bd := bits p 56 3
  let i64 (x : Nat) : Int := ofBits 64 x
  match cmd with
  | 0x0101 => some (·.opInfoId h)
  | 0x0102 => some (·.opDevStatus h)
  | 0x0103 => some (·.opTsInfo h)
  | 0x0104 => some (·.opBulkClose h bd)
  | 0x0201 => (itemsOf (wordsTo w (p % 16))).map fun l s => s.opParamRd h l
  | 0x0202 => (itemsOf (wordsTo w (p % 16))).map fun l s => s.opParamWr h 0x0202 false l
  | 0x0203 => (itemsOf (wordsTo w (p % 16))).map fun l s => s.opParamWr h 0x0203 true l
  | 0x0204 => chArg (p / 2 ^ 16) fun c s => s.opLastSave h (p % 64) c
  | 0x0205 => if bits p 16 16 < 264 ∧ bits p 32 16 < 264 then some (·.opLastApply h (p % 256) (bits p 16 16) (bits p 32 16)) else none
  | 0x0206 => some (·.opLastDelete h (p % 64))
  | 0x0207 => some (·.opLastList h bd)
  | 0x0301 => chArg p fun c s => s.opChStart h c
  | 0x0302 => chArg p fun c s => s.opChStop h c
  | 0x0303 => chArg p fun c s => s.opChHop h c (Fin.ofNat 4 (p / 2 ^ 16))
  | 0x0304 => chArg p fun c s => s.opPhaseAdj h c (i64 (w 1))
  | 0x0305 => chArg p fun c s => s.opPhaseCancel h c
  | 0x0306 => if p = 0xFFFF then some (·.opTraverse h none) else chArg p fun c s => s.opTraverse h (some c.val)
  | 0x0307 => chArg p fun c s => s.opChStatus h c
  | 0x0310 => some (·.opStampRead h bd (p % 2 ^ 16))
  | 0x0311 => some (·.opIvRead h bd (p % 2 ^ 16))
  | 0x0312 => some (·.opIvStatus h (p % 16))
  | 0x0320 => some (·.opRgClaim h (p % 32) (bits p 8 2))
  | 0x0321 => some (·.opRgRelease h (p % 16))
  | 0x0322 => some (·.opRgRead h bd (p % 2 ^ 16))
  | 0x0323 => some (·.opRgStatus h (p % 16))
  | 0x0330 => some (·.opEngEpoch h (bits p 0 32) (bits p 32 32))
  | 0x0331 => some (·.opEngStatus h (p % 32))
  | 0x0340 => some (·.opMlRetune h (Fin.ofNat 8 p) (Fin.ofNat 256 (p / 2 ^ 8)) (BitVec.ofNat 24 (p / 2 ^ 16)))
  | 0x0401 => if p % 4 = 3 then none else some (·.opTsStart h (Fin.ofNat 3 (p % 4)) (BitVec.ofNat 96 (w 1)))
  | 0x0402 => some (·.opTsStop h)
  | 0x0403 => some (·.opTsSetOffset h (i64 (w 1)))
  | 0x0404 => some (·.opTsAdjust h (i64 (w 1)))
  | 0x0405 => some (·.opTsHold h)
  | 0x0406 => some (·.opTsRelease h)
  | 0x0501 => chArg p fun c s => s.opCalRun h c (bits p 16 1)
  | 0x0502 => some (·.opCalSurvey h (p % 256) (p.testBit 8))
  | 0x0503 => some (·.opCalStatus h bd (p % 2 ^ 16))
  | 0x0504 => some (·.opCalAbort h p)
  | 0x0505 => some (·.opGratScan h (BitVec.ofNat 8 p))
  | 0x0510 => some (·.opBmOpen h p (w 1 + 2 ^ 128 * w 2) (w 3))
  | 0x0511 => some (·.opBmRef h (BitVec.ofNat 64 (w 1)) (bits (w 1) 64 64) m.stamps)
  | 0x0512 => chArg p fun c s => s.opBmLoop h c (bits p 16 2) (BitVec.ofNat 64 (w 1)) (bits (w 1) 64 64) m.loop
  | 0x0513 => some (·.opBmClose h m.slope)
  | 0x0514 => some (·.opBmAbort h)
  | 0x0601 => some (·.opDsInfo h)
  | 0x0602 => some (·.opDsBenchList h bd)
  | 0x0603 => some (·.opDsBenchRead h bd (bits p 0 32))
  | 0x0604 => some (·.opDsRetireList h bd)
  | 0x0605 => some (·.opDsScrub h m.words)
  | 0x0701 => some (·.opGwHealth h bd (p.testBit 0))
  | 0x0702 => some (·.opGwLogRead h bd (bits p 0 32) (bits p 32 16))
  | 0x0703 => some (·.gwLog (some h) m.gw)
  | 0x0704 => some (·.opGwRestart h (p % 16) (bits p 4 12))
  | 0x0705 => some (·.opGwReplanRun h (p % 16) (bits p 4 12))
  | 0x0801 => some (·.opFwInfo h)
  | 0x0802 => some (·.opFwWrite h bd (bits p 0 32))
  | 0x0803 => some (·.opFwConfirm h)
  | 0x0804 => some (·.opFwSramRun h bd (bits p 0 32))
  | 0x0805 => some (·.opFwRevoke h (p % 4))
  | 0x0901 => some (·.opTestRun h (p % 2 ^ 16) (bits p 16 4) (bits p 20 8) (bits p 32 32))
  | 0x0902 => some (·.opTestStop h (p % 2 ^ 16) m.tests)
  | 0x0903 => chArg p fun c s => s.opTestEye h c bd
  | 0x0A01 => some (·.opDevWake h)
  | 0x0A02 => some (·.opDevService h)
  | 0x0A03 => some (·.opDevSurvey h)
  | 0x0A04 => some (·.opDevStow h)
  | 0x0A05 => some (·.warmReset 3)
  | 0x0A10 => some (·.opGratEdit h (Fin.ofNat 8 p) (Fin.ofNat 64 (p / 2 ^ 8)) (Fin.ofNat 4 (p / 2 ^ 16)) (BitVec.ofNat 128 (w 1)))
  | 0x0A11 => some (·.opMntClearRetire h (p % 16) (bits p 4 12))
  | 0x0A12 => some (·.opMntDsFormat h)
  | 0x0A13 => chArg p fun c s => s.opMntDtcLoad h c ((unpackB 32 24 (joinWords (wordsTo w 6))).map (BitVec.ofNat 32 ·))
  | 0x0A14 =>
    if p.testBit 10 then
      let x := joinWords (wordsTo w 11)
      let o := w 12
      some (·.opMntTdcLoad h (p % 1024) (.rest ((unpackB 14 64 x).map (BitVec.ofNat 14 ·)) ((unpackB 16 32 (x / 2 ^ 896)).map (BitVec.ofNat 16 ·))
        (BitVec.ofNat 21 o) (BitVec.ofNat 6 (o / 2 ^ 21)) (o.testBit 27) (BitVec.ofNat 16 (o / 2 ^ 28)) (BitVec.ofNat 48 (o / 2 ^ 44))))
    else some (·.opMntTdcLoad h (p % 1024) (.pos ((unpackB 18 64 (joinWords (wordsTo w 9))).map (BitVec.ofNat 18 ·))))
  | 0x0A15 => some (·.opMntOtpWrite h (p.testBit 0) (w 1))
  | _ => none

/-- What refuses a message, or its effect (R766, R768, R769, R776, R777). -/
def State.msgOp (s : State) (h : Hdr) (cmd len flags p : Nat) (w : Nat → Nat) (m : Meas) : Except Err (State → State) :=
  if s.pwr.rom ∧ cmd / 256 ≠ 8 then .error .rom else
  match cmdForm cmd p with
  | none => .error .badcmd
  | some (n, pm, wm) =>
    if cmdGuarded cmd ∧ h.door ≠ 7 then .error .guarded
    else if len ≠ n then .error .badlen
    else if 4 ≤ flags ∨ !inMask pm p ∨ (wm.zip (wordsTo w wm.length)).any (fun x => !inMask x.1 x.2) then .error .badarg
    else match s.preErr h cmd with
    | some e => .error e
    | none => match cmdOp h cmd p w m with
      | some f => .ok f
      | none => .error .badarg

/-- The device takes the message that door `d` holds (R745, R767, R771). -/
def State.takeMsg (d : Fin 8) (m : Meas) (s : State) : State :=
  let w (i : Nat) : Nat := ((s.door d).words.get 0 i).toNat
  let flags := bits (w 0) 64 16
  let cmd := bits (w 0) 112 16
  let h : Hdr := ⟨d, BitVec.ofNat 16 (w 0 / 2 ^ 96), flags.testBit 1, flags.testBit 0⟩
  let s := s.modDoor d fun x => { x with st := .busy, tag := h.tag }
  match s.msgOp h cmd (bits (w 0) 80 16) flags (bits (w 0) 0 64) w m with
  | .ok f => f s
  | .error e => s.reply h cmd (.fail e)

/-! ## Bulk doors (R779 to R782) -/

/-- Bits that an inbound block adds to a stream. -/
def Stream.add (n x : Nat) (st : Stream) : Stream :=
  let y := packB 128 (st.data.map (·.toNat)) + 2 ^ st.got * (x % 2 ^ n)
  { st with got := st.got + n, data := (wordsOf ((st.got + n + 127) / 128) y).map (BitVec.ofNat 128 ·) }

/-- The header of the block in the door fits the stream (R779, R781). -/
def Stream.headOk (st : Stream) (w : Nat) : Bool :=
  bits w 0 16 ≤ 1920 && w.testBit 17 && bits w 32 32 = st.block && bits w 64 16 = st.tag.toNat && bits w 80 16 = st.cmd

/-- A ring of bulk door `d` in REPLY: the next outbound block or the end of the stream; an inbound block is taken. -/
def State.ringBulk (d : Nat) (s : State) : State := match (s.door d).stream with
  | none => s
  | some st =>
    if !st.inbound then
      if st.last then s.modDoor d fun x => { x with st := .idle, stream := none }
      else (s.modDoor d fun x => { x with stream := some { st with block := st.block + 1 } }).putBlock d
    else
      let w (i : Nat) : Nat := ((s.door d).words.get 0 i).toNat
      if !st.headOk (w 0) then s.closeStream .badarg d else
      let st := st.add (bits (w 0) 0 16) (joinWords (wordsTo w 15))
      if (w 0).testBit 16 then (s.modDoor d fun x => { x with st := .idle, stream := none }).streamDone st
      else s.modDoor d fun x => { x with stream := some { st with block := st.block + 1, pos := 0 } }

/-- The host returns door 6, and the next event follows (R748, R784). -/
def State.ringEvent (s : State) : State :=
  if (s.door 6).st = .reply then (s.modDoor 6 fun d => { d with st := .busy }).pump6 else s

/-- A RING that reaches the mailbox (R745, R748, R780, R781). -/
def State.ringDoor (d : Fin 8) (m : Meas) (s : State) : State :=
  if d = 6 then s.ringEvent
  else if s.pwr.held ∨ (s.door d).st = .busy then s
  else if d = 4 ∨ d = 5 then (if (s.door d).st = .reply then s.ringBulk d else s)
  else s.takeMsg d m

/-- EVENT_DOOR_RETURN. -/
def execEventDoorReturn (s : State) : Host.Outcome State Fault Refusal := .next s.ringEvent

/-- EVT_LOST (R783): an event that finds the queue full is discarded and counted. -/
def execEvtLost (s : State) : Host.Outcome State Fault Refusal :=
  if s.mbox.evq.length < 512 then .next s
  else .next (s.modMbox fun m => { m with evLost := satAdd 32 1 m.evLost, evLostNew := satAdd 32 1 m.evLostNew })

/-- BULK_BLOCK_RING. -/
def execBulkBlockRing (five : Bool) (s : State) : Host.Outcome State Fault Refusal :=
  let d := 4 + bit five
  if s.pwr.held ∨ (s.door d).st ≠ .reply then .next s else .next (s.ringBulk d)

/-- STREAM_IDLE_TIMEOUT (R782). -/
def execStreamIdleTimeout (five : Bool) (s : State) : Host.Outcome State Fault Refusal :=
  let d := 4 + bit five
  if (s.door d).st ≠ .reply then .next s else .next (s.closeStream .badarg d)

end Sys2Proof.Machine
end

