-- ==== Sys2Proof/Machine/Registers.lean ====
section
/-!
DEFINITION. Register accesses of the two masters: access classes, shadows, the indirect window, the key, write-once fields
(R692 to R734, R741 to R759).
-/
namespace Sys2Proof.Machine

/-! ## Indirect access (R713 to R720) -/

/-- IND_ADDR after an access. -/
def RegS.nextAddr (r : RegS) : Nat := (r.addr + r.stride) % 2 ^ 24

/-- What an indirect access found: ABSENT, UE, ROWR, each counted (R717, R753). -/
def RegS.indDone (absent ue rowr : Bool) (r : RegS) : RegS :=
  { r with
    absent := absent, ue := ue, rowr := rowr
    absentN := satAdd 8 (bit absent) r.absentN, ueN := satAdd 8 (bit ue) r.ueN, rowrN := satAdd 8 (bit rowr) r.rowrN }

/-- A read of IND_DATA (R714, R715, R717, R718): its data, whether the word is uncorrectable, and the state, ADDR advanced. -/
def State.indRead (s : State) : Nat × Bool × State :=
  let a := s.reg.addr
  let i := a % 4
  match s.reg.rdLatch with
  | some (b, w, ue) =>
    if i ≠ 0 ∧ b = a - i then
      (partOf w i, ue, s.modReg fun r => { (r.indDone false ue false) with addr := r.nextAddr })
    else fresh a i
  | none => fresh a i
where
  fresh (a i : Nat) : Nat × Bool × State :=
    let x := s.indWord a
    let s := if x.absent then s else s.winRead a
    let keep : Bool := i = 0 && !x.absent && indMapped a && !(0x200000 ≤ a && a < 0x300000)
    (partOf x.data i, x.ue, s.modReg fun r => { (r.indDone x.absent x.ue false) with
      addr := r.nextAddr, rdLatch := if keep then some (a, x.data % 2 ^ 128, x.ue) else none })

/-- A write of IND_DATA (R716, R718, R762): every location is RO. -/
def State.indWrite (w : Nat) (s : State) : State :=
  let a := s.reg.addr
  let absent := (s.indWord a).absent
  s.modReg fun r => { (r.indDone absent false (!absent)) with
    addr := r.nextAddr, rdLatch := none, wrLatch := if a % 4 = 3 then [] else r.wrLatch.put (a % 4) w }

/-! ## Multi-word values (R707 to R710, R737) -/

/-- Base and length of the multi-word value that holds canonical address `c`. -/
def multiOf (c : Nat) : Option (Nat × Nat) :=
  if c = 0x003 ∨ c = 0x004 then some (0x003, 2) else if c = 0x008 ∨ c = 0x009 then some (0x008, 2)
  else if c = 0x00E ∨ c = 0x00F then some (0x00E, 2) else if 0x104 ≤ c ∧ c < 0x108 then some (0x104, 4)
  else if 0x180 ≤ c ∧ c < 0x200 then some (c / 4 * 4, 4) else none

/-- Key of a master's shadow of the value at `b`. -/
def shadowKey (m : Master) (b : Nat) : Nat := if m = .cobbler then 65536 + b else b

/-! ## RS registers (R704 to R706) -/

/-- The RS register at canonical address `c` changes. -/
def State.modRs (c : Nat) (f : RsReg → RsReg) (s : State) : State :=
  if c = 0x011 then s.modPwr fun p => { p with ev := f p.ev }
  else if c = 0x0C2 then s.modTs fun t => { t with ev := f t.ev }
  else if c = 0x0C3 then s.modRef fun r => { r with ev := f r.ev }
  else if c = 0x102 then s.modReg fun r => { r with ev := f r.ev }
  else if 0x200 ≤ c ∧ c < 0x300 ∧ c % 32 = 1 then s.modLoop (c / 32 - 16) fun l => { l with ev := f l.ev }
  else if 0x200 ≤ c ∧ c < 0x300 ∧ c % 32 = 8 then s.modOct (c / 32 - 16) fun o => { o with engEv := f o.engEv }
  else s
/-- `c` is an RS register. -/
def isRs (c : Nat) : Bool :=
  c = 0x011 || c = 0x0C2 || c = 0x0C3 || c = 0x102 || (0x200 ≤ c && c < 0x300 && (c % 32 = 1 || c % 32 = 8))

/-! ## Reads -/

/-- What a register read gives: data, whether they include an uncorrectable word, and the state. -/
structure RegRd where
  val : Nat
  ue : Bool
  st : State

/-- A read of direct address `a` by a master (R692, R694, R698, R701, R706, R707, R714). -/
def State.regRead (m : Master) (a : Nat) (s : State) : RegRd :=
  if 0x8000 ≤ a then
    let c := canon (bits a 5 10)
    let w := if c = 0x141 then partOf (s.indWord s.reg.addr).data (s.reg.addr % 4) else s.shown c
    ⟨bits w (a % 32) 1, false, s⟩
  else
    let c := canon a
    if c = 0x141 then let x := s.indRead; ⟨x.1, x.2.1, x.2.2⟩
    else if isRs c then ⟨s.shown c, false, s.modRs c (·.noteRead (m = .host))⟩
    else match multiOf c with
    | some (b, n) =>
      let k := shadowKey m b
      if c = b then ⟨s.shown c, false, s.modReg fun r => { r with rdSh := r.rdSh.put k ((upTo (n - 1)).map fun i => s.shown (b + 1 + i)) }⟩
      else ⟨(s.reg.rdSh.get [] k).getD (c - b - 1) 0, false, s⟩
    | none => ⟨s.shown c, false, s⟩

/-! ## The key (R721 to R726) -/

/-- Statuses of R687 that a write can have. -/
inductive WrSt where
  | ok | locked | wo | badop
deriving DecidableEq, Repr

/-- A write of KEY by the host (R722, R724, R725). -/
def State.keyWrite (w : Nat) (s : State) : WrSt × State :=
  let r := s.reg
  if r.lockout then (.locked, s)
  else if w = 0xC0B1 then (.ok, s.modReg fun r => { r with armed := true, run := 0 })
  else
    let s := s.modReg fun r => { r with armed := false, keyErr := satAdd 16 1 r.keyErr, run := r.run + 1 }
    if 4 ≤ s.reg.run then (.ok, s.modReg fun r => { r with lockout := true, ev := r.ev.raise 9 }) else (.ok, s)

/-- A guarded write: of the host only while the key is armed, which it then disarms; the cobbler needs no key (R723, R726). -/
def State.guarded (m : Master) (f : State → WrSt × State) (s : State) : WrSt × State :=
  if m = .cobbler then f s else if s.reg.armed then f (s.modReg fun r => { r with armed := false }) else (.locked, s)

/-! ## Write-once fields (R727 to R731) -/

/-- A WO1 field already written was written again at canonical address `c` (R728). -/
def State.woViol (c : Nat) (s : State) : WrSt × State := (.wo, s.modReg fun r => { r with ev := r.ev.raise 8, woAddr := c })

/-- The committing write of OEM_ID or NODE_SERIAL (R730, R731). -/
def State.otpWrite (node : Bool) (v : Nat) (s : State) : WrSt × State :=
  if s.otp.written node then s.woViol (if node then 0x107 else 0x103)
  else if !s.pwr.holdup ∨ s.pwr.brace then (.ok, s.modReg fun r => { r with ev := r.ev.raise 10 })
  else (.ok, s.modOtp (·.write node v none))

/-- A write of HP_LANES (R690). -/
def State.lanesWrite (w : Nat) (s : State) : WrSt × State :=
  if s.hp.lanesW then s.woViol 0x044
  else if bits w 0 2 = 3 ∨ bits w 2 2 = 3 then (.badop, s)
  else (.ok, s.modHp fun h => { h with il := bits w 0 2, ol := bits w 2 2, lanesW := true })

/-! ## Writes -/

/-- The counters of an RC register take the written value (R701). -/
def State.setRc (c w : Nat) (s : State) : State :=
  if 0x300 ≤ c then s.modDiv (c - 0x300) fun d => { d with hopN := bits w 16 8, hopLost := bits w 24 4 }
  else if 0x200 ≤ c then
    let k := c / 32 - 16
    match c % 32 with
    | 3 => s.modLoop k fun l => { l with lossN := bits w 0 16, forcedN := bits w 16 8, excurN := bits w 24 8 }
    | 10 => s.modOct k fun o => { o with xStamp := { o.xStamp with drop := w } }
    | 11 => s.modOct k fun o => { o with xFcw := { o.xFcw with drop := w } }
    | 12 => s.modOct k fun o => { o with xHop := { o.xHop with drop := bits w 0 16 }, xSel := { o.xSel with drop := bits w 16 16 } }
    | _ => s
  else match c with
  | 0x00A => s.modStore fun d => { d with corr := w }
  | 0x00B => s.modStore fun d => { d with ue := w }
  | 0x00C => s.modStore fun d => { d with torn := w }
  | 0x013 => s.modPwr fun p => { p with cobN := bits w 8 8 }
  | 0x015 => s.modDevq fun q => { q with xStamp := { q.xStamp with drop := w } }
  | 0x016 => s.modDevq fun q => { q with xRate := { q.xRate with drop := w } }
  | 0x017 => s.modDevq fun q => { q with xCas := { q.xCas with drop := w } }
  | 0x018 => s.modDevq fun q => { q with xRep := { q.xRep with drop := w } }
  | 0x01C => s.modPps fun p => { p with outlier := w }
  | 0x01E => s.modExt fun e => { e with skip := w }
  | 0x042 => s.modHp fun h => { h with ovr := w }
  | 0x043 => s.modHp fun h => { h with truncN := bits w 0 8, shortN := bits w 8 8, badopN := bits w 16 8, busyN := bits w 24 8 }
  | 0x045 => s.modHp fun h => { h with frames := w }
  | 0x101 => s.modReg fun r => { r with keyErr := bits w 16 16 }
  | 0x143 => s.modReg fun r => { r with absentN := bits w 0 8, ueN := bits w 8 8, rowrN := bits w 16 8 }
  | _ => s
/-- `c` is a register that holds an RC count and nothing else that software writes. -/
def isRc (c : Nat) : Bool :=
  (0x200 ≤ c && c < 0x300 && (c % 32 = 3 || c % 32 = 10 || c % 32 = 11 || c % 32 = 12))
    || [0x00A, 0x00B, 0x00C, 0x013, 0x015, 0x016, 0x017, 0x018, 0x01C, 0x01E, 0x042, 0x043, 0x045, 0x101, 0x143].contains c

/-- TS_STATUS.SNAP (R741): the snapshot stands in entry 0; in a PD_REF that is absent the write is discarded. -/
def State.snap (s : State) : State := if s.domOn pdRef then s.latchTime 0 s.now else s

/-- A write of doorbell `n`: DONE_N takes its value, and RING rings (R744 to R748). -/
def State.doorWrite (n w : Nat) (me : Meas) (s : State) : State :=
  let s := s.modDoor n fun d => { d with doneN := bits w 24 8 }
  if w.testBit 0 then s.ringDoor (Fin.ofNat 8 n) me else s

/-- Registers whose write is guarded as a whole (R723): DOOR7, OEM_ID, NODE_SERIAL's committing word. -/
def isGuarded (c : Nat) : Bool := c = 0x087 || c = 0x103 || c = 0x107

/-- Whole-word write of `w` to canonical address `c`, its guard passed. -/
def State.putReg (m : Master) (c w : Nat) (me : Meas) (s : State) : WrSt × State :=
  if isRs c then (.ok, s.modRs c (·.clear (m = .host) (BitVec.ofNat 32 w)))
  else if isRc c then (.ok, s.setRc c w)
  else if 0x300 ≤ c then (.ok, (s.setRc c w).hopSelWrite (c - 0x300) (bits w 6 2))
  else if 0x080 ≤ c ∧ c < 0x088 then (.ok, s.doorWrite (c - 0x080) w me)
  else match multiOf c with
  | some (b, n) =>
    let k := shadowKey m b
    if c < b + n - 1 then (.ok, s.modReg fun r => { r with wrSh := r.wrSh.put k (Tab.put (c - b) w (r.wrSh.get [] k)) })
    else
      let sh := s.reg.wrSh.get [] k
      let v := packB 32 (((upTo (n - 1)).map fun i => Tab.get 0 sh i) ++ [w])
      let s := s.modReg fun r => { r with wrSh := r.wrSh.put k [] }
      if b = 0x104 then s.otpWrite true v else (.ok, s)
  | none => match c with
    | 0x01B => (.ok, if w.testBit 16 then s.snap else s)
    | 0x040 => (.ok, s.modHp fun h => { h with idle := w.testBit 0, strict := w.testBit 2 })
    | 0x041 => (.ok, s.modHp fun h => { h with len := bits w 0 13 })
    | 0x044 => s.lanesWrite w
    | 0x046 => (.ok, s.modHp fun h => { h with scratch := BitVec.ofNat 32 w })
    | 0x0C1 => (.ok, s.modReg fun r => { r with mask := bits w 0 24, pin := w.testBit 31 })
    | 0x100 => if m = .host then s.keyWrite w else (.ok, s)
    | 0x103 => s.otpWrite false w
    | 0x140 => (.ok, s.modReg fun r => { r with addr := bits w 0 24, rdLatch := none, wrLatch := [] })
    | 0x141 => (.ok, s.indWrite w)
    | 0x142 => (.ok, s.modReg fun r => { r with stride := bits w 0 16, rdLatch := none, wrLatch := [] })
    | _ => (.ok, s)

/-- A bit of class RW of register `c`, which a bit-alias write changes alone (R699). -/
def rwMask (c : Nat) : Nat := match c with
  | 0x040 => 5
  | 0x041 => ones 0 13
  | 0x046 | 0x100 | 0x141 => ones 0 32
  | 0x0C1 => ones 0 24 + ones 31 1
  | 0x140 => ones 0 24
  | 0x142 => ones 0 16
  | _ => if 0x300 ≤ c ∧ c < 0x400 then ones 6 2 else 0

/-- A bit-alias write of bit `b` of canonical address `c` (R699, R700). -/
def State.bitWrite (m : Master) (c b : Nat) (d : Bool) (me : Meas) (s : State) : WrSt × State :=
  if c = 0x087 ∧ b = 0 then s.guarded m fun s => (.ok, if d then s.ringDoor 7 me else s)
  else if 0x080 ≤ c ∧ c < 0x088 ∧ b = 0 then (.ok, if d then s.ringDoor (Fin.ofNat 8 (c - 0x080)) me else s)
  else if c = 0x01B ∧ b = 16 then (.ok, if d then s.snap else s)
  else if !(rwMask c).testBit b then (.ok, s)
  else if 0x300 ≤ c then (.ok, s.hopSelWrite (c - 0x300) (setBit (s.chan (c - 0x300)).div.sel (b - 6) d))
  else
    let w := if c = 0x100 then 0 else if c = 0x141 then partOf (s.indWord s.reg.addr).data (s.reg.addr % 4) else s.shown c
    s.putReg m c (setBit w b d) me

/-- A write of `w` to direct address `a` by a master (R692 to R701, R723, R733). -/
def State.regWrite (m : Master) (a w : Nat) (me : Meas) (s : State) : WrSt × State :=
  if 0x8000 ≤ a then s.bitWrite m (canon (bits a 5 10)) (a % 32) (w.testBit 0) me
  else if isGuarded (canon a) then s.guarded m fun s => s.putReg m (canon a) w me
  else s.putReg m (canon a) w me

/-! ## The commands -/

/-- A register access that happens only where `p` holds of its canonical address, and not while the register file is in reset. -/
def State.accessIf (p : Bool) (f : State → State) (s : State) : State := if p ∧ !s.pwr.held then f s else s

/-- A measurement bundle for writes that ring nothing. -/
def measNone : Meas := ⟨⟨[], [], [], [], [], 0⟩, ⟨0, 0, 0, false⟩, [], false, [], []⟩

/-- KEY_WRITE (R722, R724). -/
def execKeyWrite (w : W32) (s : State) : Host.Outcome State Fault Refusal := .next (s.accessIf true fun s => (s.keyWrite w.toNat).2)

/-- LOCKOUT_END (R724): the timer lies in PD_AON. -/
def execLockoutEnd (s : State) : Host.Outcome State Fault Refusal :=
  if s.reg.lockout then .next (s.modReg fun r => { r with lockout := false, run := 0, armed := false }) else .next s

/-- GUARDED_WRITE (R723). -/
def execGuardedWrite (a : BitVec 15) (w : W32) (me : Meas) (s : State) : Host.Outcome State Fault Refusal :=
  .next (s.accessIf (isGuarded (canon a.toNat)) fun s => (s.regWrite .host a.toNat w.toNat me).2)

/-- RS_CLEAR (R705). -/
def execRsClear (m : Master) (a : BitVec 15) (w : W32) (s : State) : Host.Outcome State Fault Refusal :=
  .next (s.accessIf (isRs (canon a.toNat)) fun s => s.modRs (canon a.toNat) (·.clear (m = .host) w))

/-- RS_READ (R706). -/
def execRsRead (m : Master) (a : BitVec 15) (s : State) : Host.Outcome State Fault Refusal :=
  .next (s.accessIf (isRs (canon a.toNat)) fun s => (s.regRead m a.toNat).st)

/-- RC_WRITE (R701, R703). -/
def execRcWrite (a : BitVec 15) (w : W32) (s : State) : Host.Outcome State Fault Refusal :=
  .next (s.accessIf (isRc (canon a.toNat)) fun s => s.setRc (canon a.toNat) w.toNat)

/-- MULTIWORD_LOW_READ (R707). -/
def execMultiwordLowRead (m : Master) (a : BitVec 15) (s : State) : Host.Outcome State Fault Refusal :=
  .next (s.accessIf ((multiOf (canon a.toNat)).any (·.1 = canon a.toNat)) fun s => (s.regRead m a.toNat).st)

/-- MULTIWORD_WRITE (R709, R710). -/
def execMultiwordWrite (m : Master) (a : BitVec 15) (w : W32) (s : State) : Host.Outcome State Fault Refusal :=
  .next (s.accessIf (multiOf (canon a.toNat)).isSome fun s => (s.regWrite m a.toNat w.toNat measNone).2)

/-- WO1_WRITE (R727 to R729): HP_LANES, OEM_ID or the committing word of NODE_SERIAL. -/
def execWo1Write (m : Master) (a : BitVec 15) (w : W32) (s : State) : Host.Outcome State Fault Refusal :=
  let c := canon a.toNat
  .next (s.accessIf (c = 0x044 || c = 0x103 || c = 0x107) fun s => (s.regWrite m a.toNat w.toNat measNone).2)

/-- HP_LANES_WRITE (R690). -/
def execHpLanesWrite (w : W32) (s : State) : Host.Outcome State Fault Refusal := .next (s.accessIf true fun s => (s.lanesWrite w.toNat).2)

/-- OTP_FIELD_WRITE (R730, R731): the guarded committing write; for NODE_SERIAL the word 0x107 after its write shadow. -/
def execOtpFieldWrite (node : Bool) (w : W32) (s : State) : Host.Outcome State Fault Refusal :=
  .next (s.accessIf true fun s => (s.regWrite .host (if node then 0x107 else 0x103) w.toNat measNone).2)

/-- BIT_ALIAS_WRITE (R699, R700): bit `b` of word `a`. -/
def execBitAliasWrite (m : Master) (a : BitVec 10) (b : Fin 32) (d : Bool) (me : Meas) (s : State) : Host.Outcome State Fault Refusal :=
  .next (s.accessIf true fun s => (s.bitWrite m (canon a.toNat) b d me).2)

/-- IND_DATA_READ (R714, R715, R718). -/
def execIndDataRead (s : State) : Host.Outcome State Fault Refusal := .next (s.accessIf true fun s => s.indRead.2.2)

/-- IND_DATA_WRITE (R716, R718). -/
def execIndDataWrite (w : W32) (s : State) : Host.Outcome State Fault Refusal := .next (s.accessIf true fun s => s.indWrite w.toNat)

/-- IND_ADDR_WRITE (R717): a write of IND_ADDR, or of IND_CTL. -/
def execIndAddrWrite (ctl : Bool) (w : W32) (s : State) : Host.Outcome State Fault Refusal :=
  .next (s.accessIf true fun s => (s.putReg .host (if ctl then 0x142 else 0x140) w.toNat measNone).2)

/-- SNAP (R741). -/
def execSnap (s : State) : Host.Outcome State Fault Refusal := .next (s.accessIf true (·.snap))

/-- LATCH_UPDATE (R754 to R757): the oldest copy in the engine report queue reaches the entries of its source. -/
def execLatchUpdate (s : State) : Host.Outcome State Fault Refusal := match s.devq.copies with
  | [] => .next s
  | r :: q =>
    let s := s.modDevq fun d => { d with copies := q }
    let fixed : List Nat := if r.src = 0x800 then [2] else if r.src = 0x801 then [3] else if r.src = 0x803 then [4] else []
    let hl := ((upTo 24).filter fun i => s.pv (P.latchSrc + i) = r.src).map (8 + ·)
    .next (forAll (fixed ++ hl) (fun l s => s.setLatch l r.word) s)

/-- REGISTER_WRITE (R696, R701, R733): a whole-word write of any register, under its class. -/
def execRegisterWrite (m : Master) (a : BitVec 15) (w : W32) (me : Meas) (s : State) : Host.Outcome State Fault Refusal :=
  .next (s.accessIf true fun s => (s.regWrite m a.toNat w.toNat me).2)

/-- RING (R744, R745, R747): the host writes DOORn.RING; on door 7 as a guarded write. -/
def execRing (d : Fin 8) (me : Meas) (s : State) : Host.Outcome State Fault Refusal :=
  .next (s.accessIf true fun s => (s.bitWrite .host (0x080 + d.val) 0 true me).2)

end Sys2Proof.Machine
end

