-- ==== Sys2Proof/Machine/HostPort.lean ====
section
/-!
DEFINITION. The host port's frames (R659 to R691, R743, R834).
-/
namespace Sys2Proof.Machine

/-- Lanes of a code of HP_LANES (R689). -/
def laneN (c : Nat) : Nat := if c = 1 then 2 else if c = 2 then 4 else 1
def divUp (a b : Nat) : Nat := (a + b - 1) / b

/-- The first `n` bits of a stream of 32-bit groups, each group right-aligned (R673). -/
def groupsOf (n : Nat) (l : List W32) : List Nat :=
  (upTo (divUp n 32)).map fun j => (l.getD j 0).toNat / 2 ^ (32 - min 32 (n - 32 * j))

/-- The first `n` of `total` bits whose groups are `ws`, the last group of each right-aligned. -/
def cutGroups (n total : Nat) (ws : List W32) : List W32 :=
  (upTo (divUp n 32)).map fun j =>
    (ws.getD j 0) >>> (min 32 (total - 32 * j) - min 32 (n - 32 * j))

/-- What a frame reads: bits, words in stream order, the effect that their delivery commits, an uncorrectable word among them, a wait for the
memory port, and the state. -/
structure HpRead where
  n : Nat
  ws : List Nat
  fx : HpFx
  ue : Bool
  wait : Bool
  st : State

/-- A read of IND_DATA keeps IND_ADDR until its data have been delivered (R676). -/
def HpRead.hold (a : Nat) (r : HpRead) : HpRead :=
  if r.st.reg.addr = a then r
  else { r with fx := .ind r.st.reg.addr, st := r.st.modReg fun x => { x with addr := a } }

/-- `n` successive reads of IND_DATA (R675). -/
def State.indBurst : Nat → State → List Nat × Bool × State
  | 0, s => ([], false, s)
  | n + 1, s =>
    let x := s.indRead
    let y := State.indBurst n x.2.2
    (x.1 :: y.1, x.2.1 || y.2.1, y.2.2)

/-- IND_ADDR lies in the Datum window, and the memory port does not serve reads (R807, R811). -/
def State.windowWait (s : State) : Bool := 0x400000 ≤ s.reg.addr && s.reg.addr < 0x800000 && !s.readsOpen

/-- A door's 2,048 bits. -/
def State.doorBits (s : State) (d : Nat) : Nat := joinWords ((upTo 16).map fun i => ((s.door d).words.get 0 i).toNat)

/-- Bits `p` to `p + n − 1` of `x` as words of a stream (R673, R674). -/
def sliceWords (x p n : Nat) : List Nat := (upTo (divUp n 32)).map fun j => bits x (p + 32 * j) (min 32 (n - 32 * j))

/-- The read of a frame, taken when its header has been decoded (R669, R671, R674, R675). -/
def State.frameRead (op : Nat) (f : Frame) (len : Nat) (s : State) : HpRead :=
  let d := f.door.val
  match op with
  | 2 =>
    let r := s.regRead .host f.addr.toNat
    HpRead.hold s.reg.addr ⟨32, [r.val], .none, r.ue, s.windowWait && r.st.reg.addr ≠ s.reg.addr, r.st⟩
  | 4 =>
    if d = 4 ∨ d = 5 then match (s.door d).stream with
      | some t => ⟨len, sliceWords (s.doorBits d) t.pos len, .bulk d (min 2048 (t.pos + len)), false, false, s⟩
      | none => ⟨len, List.replicate (divUp len 32) 0, .none, false, false, s⟩
    else ⟨len, sliceWords (s.doorBits d) (32 * f.addr.toNat) len, .none, false, false, s⟩
  | 7 =>
    let r := s.indBurst (len / 32)
    HpRead.hold s.reg.addr ⟨len, r.1, .none, r.2.1, s.windowWait, r.2.2⟩
  | _ => ⟨0, [], .none, false, false, s⟩

/-- The side effect of a delivered read (R676). -/
def State.commitRead (s : State) : State := match s.hp.fx with
  | .none => s
  | .ind a => s.modReg fun r => { r with addr := a }
  | .bulk d p => s.modDoor d fun x => { x with stream := x.stream.map fun t => { t with pos := max t.pos p } }

/-- `w` bits at bit `p` of a door replaced by `v`. -/
def Door.putBits (p w v : Nat) (d : Door) : Door :=
  let i := p / 128
  let x : Nat := (d.words.get 0 i).toNat
  let lo := p % 128
  let k := min w (128 - lo)
  let put (x lo k v : Nat) : W128 := BitVec.ofNat 128 (x - bits x lo k * 2 ^ lo + v % 2 ^ k * 2 ^ lo)
  let d := { d with words := d.words.put i (put x lo k v) }
  if k = w ∨ 15 ≤ i then d
  else { d with words := d.words.put (i + 1) (put ((d.words.get 0 (i + 1)).toNat) 0 (w - k) (v / 2 ^ k)) }

/-- Payload groups of `n` bits at 32-bit word `m` of a command door (R673, R674). -/
def Door.putWords : Nat → List Nat → Door → Door
  | _, [], d => d
  | m, w :: ws, d => Door.putWords (m + 1) ws (if 64 ≤ m then d else d.putBits (32 * m) 32 w)

/-- Payload groups of `n` bits at bit `p` of a bulk door. -/
def Door.putStream : Nat → Nat → List Nat → Door → Door
  | _, _, [], d => d
  | p, n, w :: ws, d => Door.putStream (p + 32) (n - 32) ws (if 2048 ≤ p then d else d.putBits p (min (min 32 n) (2048 - p)) w)

/-- The payload of a BULK_WR reaches a door (R674, R781). -/
def State.bulkWrite (d addr n : Nat) (ws : List Nat) (s : State) : State :=
  if d = 4 ∨ d = 5 then match (s.door d).stream with
    | some t =>
      if t.inbound ∧ (s.door d).st = .reply then
        s.modDoor d fun x => { (x.putStream t.pos n ws) with stream := some { t with pos := min 2048 (t.pos + n) } }
      else s
    | none => s
  else s.modDoor d (·.putWords addr ws)

def WrSt.code : WrSt → Nat
  | .ok => 0
  | .locked => 3
  | .wo => 7
  | .badop => 4

/-- A REG_WR address reaches a register whose write is guarded, KEY (R683). -/
def guardedAt (a : Nat) : Bool := if 0x8000 ≤ a then canon (bits a 5 10) = 0x087 && a % 32 = 0 else isGuarded (canon a)
def keyAt (a : Nat) : Bool := if 0x8000 ≤ a then canon (bits a 5 10) = 0x100 else canon a = 0x100

def State.disarm (s : State) : State := s.modReg fun r => { r with armed := false }

/-- The writes of a frame, of which `n` payload bits arrived, `cut` where that is not the whole payload (R669, R671, R679 to R684, R688).
The first component is the status of R687 that the write itself calls for. -/
def State.frameWrite (op : Nat) (f : Frame) (n : Nat) (cut : Bool) (s : State) : Nat × State :=
  let ws := groupsOf n f.pay
  let a := f.addr.toNat
  let d := f.door.val
  match op with
  | 1 =>
    if cut ∧ (guardedAt a ∨ keyAt a) then
      if (keyAt a ∧ s.reg.lockout) ∨ (guardedAt a ∧ !s.reg.armed) then (3, s) else (0, s.disarm)
    else if n = 0 ∨ (cut ∧ s.hp.strict) then (0, s)
    else let r := s.regWrite .host a (ws.headD 0) f.me; (r.1.code, r.2)
  | 3 =>
    if d = 7 ∧ !s.reg.armed then (3, s)
    else if (s.door d).st = .busy then (8, s)
    else if cut ∧ (s.hp.strict ∨ d = 7) then (0, if d = 7 then s.disarm else s)
    else
      let s := (if d = 7 then s.disarm else s).bulkWrite d a n ws
      (0, if f.ring then s.ringDoor f.door f.me else s)
  | 6 => if cut ∧ s.hp.strict then (0, s) else (0, forAll ws (fun w s => s.indWrite w) s)
  | 8 => (0, s.modTest 3 0 (TestRun.payload f.us.toNat n ws))
  | _ => (0, s)

/-- The conditions for BADOP that the header shows (R665, R674, R675, R687). -/
def frameBad (op : Nat) (f : Frame) (len : Nat) : Bool :=
  let d := f.door.val
  op = 0 || 9 ≤ op || (f.ring && op ≠ 3) || (d ≠ 0 && op ≠ 3 && op ≠ 4) || (op = 3 && d = 6)
    || ((op = 3 || op = 4) && d ≠ 4 && d ≠ 5 && 2048 < 32 * f.addr.toNat + len)
    || ((op = 6 || op = 7) && len % 32 ≠ 0)

/-- HP_LAST after a frame answered other than OK (R743). -/
def HpS.note (st tag op : Nat) (h : HpS) : HpS := if st = 0 then h else { h with lastSt := st, lastTag := tag, lastOp := op }

/-- Pending read data that are not ready when the frame begins are abandoned (R677). -/
def State.readReady (ready : Bool) (s : State) : State :=
  if s.hp.nOut = 0 ∨ (ready ∧ !s.hp.wait) then s
  else (s.modMem fun m => { m with waiting := m.waiting.filter (· ≠ .window) }).modHp fun h =>
    { (h.note 5 (bits h.reply.toNat 16 8) h.op) with
      reply := BitVec.ofNat 32 (h.reply.toNat % 2 ^ 24 + 5 * 2 ^ 24), out := h.out.map fun _ => 0, fx := .none
      busyN := satAdd 8 1 h.busyN }

/-- EDGELESS_SELECT (R664). -/
def State.edgeless (s : State) : State := if s.pwr.held then s else s.modHp fun h => { h with shortN := satAdd 8 1 h.shortN }

/-- A frame with operation `op`. -/
def State.frame (op : Nat) (f : Frame) (s : State) : State :=
  let e := f.edges.toNat
  if s.pwr.held then s else if e = 0 then s.edgeless else
  let s := s.readReady f.ready
  let h := s.hp
  let li := laneN h.il
  let lo := laneN h.ol
  let olen := 32 + h.nOut
  let count := e * li
  let short : Bool := count < 32
  let whole : Bool := olen ≤ e * lo
  let len := if h.len = 0 then 8192 else h.len
  let bad : Bool := frameBad op f len
  let run : Bool := !short && !bad
  let pin := if op = 1 then 32 else if op = 3 ∨ op = 6 ∨ op = 8 then len else 0
  let n := min pin (count - 32)
  let cut : Bool := n < pin && op ≠ 8
  let rd : HpRead := if run then s.frameRead op f len else ⟨0, [], .none, false, false, s⟩
  let s := if whole then rd.st.commitRead else rd.st
  let s := s.modHp fun h => { h with low := true }
  let w := if run then s.frameWrite op f n cut else (0, s)
  let s := w.2
  if !s.hp.low then s else
  let isBad : Bool := (!short && bad) || w.1 = 4
  let trunc : Bool := short || (run && cut) || !whole
  let flen := max (divUp (32 + (if isBad then 0 else pin)) li) (divUp olen lo)
  let past := if short then 0 else e - flen
  let st := if isBad then 4 else if w.1 ≠ 0 then w.1 else if rd.ue then 6 else if trunc then 1 else if past ≠ 0 then 2 else 0
  let tag := if short then 0 else f.tag.toNat
  let opn := if short then 0 else op % 16
  let loop : Bool := run && op = 8
  let sentBits := min olen (e * lo)
  let s := s.modHp fun x => { (x.note st tag opn) with
    frames := satAdd 32 1 x.frames, ovr := satAdd 32 past x.ovr
    truncN := satAdd 8 (bit ((run && cut) || !whole)) x.truncN, shortN := satAdd 8 (bit short) x.shortN
    badopN := satAdd 8 (bit isBad) x.badopN
    reply := BitVec.ofNat 32 (fld 24 8 st + fld 16 8 tag + min 0xFFFF count)
    nOut := if loop then n else rd.n
    out := (if loop then groupsOf n f.pay else rd.ws).map (BitVec.ofNat 32 ·)
    fx := rd.fx, wait := rd.wait, op := opn, low := false
    sent := cutGroups sentBits olen (h.reply :: h.out) }
  let s := if rd.wait then s.ask .window else s
  if isBad ∨ trunc then s.fault 5 0 4 else s

/-! ## The commands -/

/-- REG_WR. -/
def execRegWr (f : Frame) (s : State) : Host.Outcome State Fault Refusal := .next (s.frame 1 f)
/-- REG_RD. -/
def execRegRd (f : Frame) (s : State) : Host.Outcome State Fault Refusal := .next (s.frame 2 f)
/-- BULK_WR. -/
def execBulkWr (f : Frame) (s : State) : Host.Outcome State Fault Refusal := .next (s.frame 3 f)
/-- BULK_RD. -/
def execBulkRd (f : Frame) (s : State) : Host.Outcome State Fault Refusal := .next (s.frame 4 f)
/-- NOP. -/
def execNop (f : Frame) (s : State) : Host.Outcome State Fault Refusal := .next (s.frame 5 f)
/-- IND_WR. -/
def execIndWr (f : Frame) (s : State) : Host.Outcome State Fault Refusal := .next (s.frame 6 f)
/-- IND_RD. -/
def execIndRd (f : Frame) (s : State) : Host.Outcome State Fault Refusal := .next (s.frame 7 f)
/-- LOOP. -/
def execLoop (f : Frame) (s : State) : Host.Outcome State Fault Refusal := .next (s.frame 8 f)
/-- BADOP: OP 0, or 9 to 15. -/
def execBadop (op : BitVec 4) (f : Frame) (s : State) : Host.Outcome State Fault Refusal :=
  if 1 ≤ op.toNat ∧ op.toNat ≤ 8 then .next s else .next (s.frame op.toNat f)
/-- SHORT_HEADER_FRAME (R681): fewer than 32 header bits arrive. -/
def execShortHeaderFrame (edges : Fin 32) (ready : Bool) (s : State) : Host.Outcome State Fault Refusal :=
  if 32 ≤ edges.val * laneN s.hp.il then .next s
  else .next (s.frame 0 ⟨false, 0, 0, 0, BitVec.ofNat 32 edges.val, [], ready, 0, measNone⟩)
/-- EDGELESS_SELECT. -/
def execEdgelessSelect (s : State) : Host.Outcome State Fault Refusal := .next s.edgeless

end Sys2Proof.Machine
end

