-- ==== Sys2Proof/Machine/Idle.lean ====
section
/-!
DEFINITION. What an SCLK edge does of itself, while no command waits (R103, R129 to R131, R302).
-/
namespace Sys2Proof.Machine

/-- Seconds in COASTING times d, in 2^-96 (R129 to R131). -/
def State.driftNow (s : State) : Int :=
  if !s.ts.dValid ∨ s.ts.refEntry then 0
  else s.ts.hoD * 2 ^ 16 * (((s.now + linMod - s.ts.tEntry) % linMod : Nat) : Int) / (secU : Int)

/-- The drift term of a COASTING timescale follows the DTS; the rate word is written where a whole LSB has accumulated (R130). -/
def State.coastEdge (s : State) : State :=
  if s.ts.st ≠ .coasting ∨ !s.engReady then s else
  let w := s.ts.driftWord
  let s := s.modTs fun t => { t with drift := s.driftNow }
  if s.ts.driftWord = w then s else s.tsCompose

/-- One SCLK edge of a running timescale: the counter adds 2^64 + rate, exactly, and the last eight edges are kept (R103, R302). -/
def State.sclkEdge (s : State) : State :=
  if s.ts.st = .stopped ∨ !s.ref.sclkOk ∨ !s.domOn pdRef then s
  else
    (s.modTs fun t =>
      let dts := (((t.dts : Int) + 2 ^ 64 + t.rate) % (dtsMod : Int)).toNat
      { t with dts := dts, edges := t.edges + 1, hist := (dts, t.rate) :: t.hist.take 7 }).coastEdge

/-- The bypass inputs of powered quadrants count what the board puts there (R900). -/
def State.bypEdges (s : State) : State := s.modByp fun b => { b with
  clk := b.clk + 1
  n := (upTo 8).foldl (fun t i => if s.pwr.pwr.testBit (pdQ (i / 2)) then t.put i (t.get 0 i + Config.bypRise i b.clk) else t) b.n }

/-- What happens of itself while no command waits: an SCLK edge, and the edges that switches wait for (R103, R172, R900). -/
def State.idleStep (s : State) : State :=
  (forAll ((s.chans.filter fun x => x.2.sw.isSome).map (·.1)) (fun c s => s.switchEdge c) s.sclkEdge).bypEdges

end Sys2Proof.Machine
end

