-- ==== Sys2Proof/Machine/Reference.lean ====
section
/-!
DEFINITION. REFIN, the measurement loop and PPSIN (R82 to R102, R484, R489, R896, R897).
-/
namespace Sys2Proof.Machine

/-- REFIN_MISSING_EDGE (R92, R93, R97): no REFIN edge has come within 16 ACLK cycles. -/
def execRefinMissingEdge (tr : RefTrace) (s : State) : Host.Outcome State Fault Refusal := .next (s.refWatch { tr with missing := true })

/-- REFIN_LOOP_WINDOW (R92, R93, R897): the trace shows whether the error has stayed outside MPLL_LKWIN for REF_LOSSCNT cycles of a locked MPLL. -/
def execRefinLoopWindow (tr : RefTrace) (s : State) : Host.Outcome State Fault Refusal := .next (s.refWatch tr)

/-- REFIN_FREQUENCY_GATE (R92, R93): a 16 s gate ends with relative deviation `dev`, RATE64; it counts in grandmaster role while PPSIN is
qualified. -/
def execRefinFrequencyGate (dev : Int) (tr : RefTrace) (s : State) : Host.Outcome State Fault Refusal :=
  .next (s.refWatch { tr with dev := some dev })

/-- ±100 ppm as a RATE64 magnitude, rounded down (R896). -/
def ppm100 : Nat := 1844674407370955

/-- REFIN_FREQ_WINDOW (R896): a 1 ms measurement of a disqualified REFIN ends with deviation `dev`. -/
def execRefinFreqWindow (dev : Int) (s : State) : Host.Outcome State Fault Refusal :=
  if !s.ref.qual ∧ s.ref.frozen then .next (s.modRef fun r => { r with winOk := dev.natAbs ≤ ppm100 }) else .next s

/-- The MPLL has declared lock: REFIN is qualified where no frozen word was left, as at WAKE, or where REF_QUAL has been met; loops leave HOLD,
and after a loss of the measurement loop TS_AUTOSTART applies (R90, R94, R168, R484, R489). -/
def State.mpllLocked (s : State) : State :=
  let again := s.ref.qualT && !s.ref.qual
  let s := s.modRef fun r => { r with lock := true, sclkOk := true, qual := true, qualT := false }
  let s := if again then s.refEv 9 else s
  let s := forAll (upTo 8) (fun k s => s.loopUnhold k) s
  let s := if s.ts.role = .gm then s.tsQualified else s
  if s.pwr.redo then (s.modPwr fun p => { p with redo := false }).tsAuto else s

/-- MPLL_LOCK (R90, R168, R484, R485, R489): the errors of the last 1,024 cycles lie within MPLL_LKWIN; a frozen MPLL runs no cycle of its own. -/
def execMpllLock (s : State) (cyc : List PdCyc := []) : Host.Outcome State Fault Refusal :=
  if s.ref.lock ∨ s.ref.frozen ∨ !s.domOn pdRef then .next s else
  let s := s.pdFollow cyc
  .next (if s.pdLocks cyc then s.mpllLocked else s)

/-- REF_QUAL (R94, R95, R896): REF_QUAL of continuous in-window edges has passed. The MPLL leaves its frozen word with its divider restarted, so
that the error of the first cycle is zero and the others count from it; REFIN is qualified once it locks, in this trace or at a later MPLL_LOCK. -/
def execRefQual (s : State) (cyc : List PdCyc := []) : Host.Outcome State Fault Refusal :=
  if s.ref.qual ∨ !s.ref.frozen ∨ !s.ref.winOk then .next s else
  let s := s.modRef fun r => { r with frozen := false, qualT := true, integ := r.word, err := 0 }
  let cyc := cyc.map fun c => { c with diff := c.diff - (cyc.headD ⟨0, 0⟩).diff }
  let s := s.pdFollow cyc
  .next (if s.pdLocks cyc then s.mpllLocked else s)

/-- MEASUREMENT_LOOP_LOST (R96, R97, R168, R489): `also` is what the detectors of R92 see where one fires in the same ACLK cycle. -/
def execMeasurementLoopLost (also : Option RefTrace) (s : State) : Host.Outcome State Fault Refusal :=
  if s.domOn pdRef then .next (s.measLost also) else .next s

/-- PPSIN_EDGE (R55, R99, R100): the edge stamped at `t`. A qualified PPSIN without an expected second, after a start, takes it from this edge
(DESIGN CHOICE, log 81). -/
def execPpsinEdge (t : Nat) (s : State) : Host.Outcome State Fault Refusal :=
  if s.ts.st = .stopped then .next s else
  let good : Bool := match s.pps.last with
    | some l => ((stampDiff t l - secU).natAbs : Int) ≤ s.pi P.ppsWin
    | none => s.pps.qual
  if s.pps.qual then
    if good then .next (s.modPps fun p => { p with last := some t })
    else .next (s.modPps fun p => { p with outlier := satAdd 32 1 p.outlier })
  else
    let run := if good then s.pps.run + 1 else 0
    let s := s.modPps fun p => { p with last := some t, run := run }
    if 2 ≤ run then .next ((s.modPps fun p => { p with qual := true, ever := true, run := 0 }).refEv 11) else .next s

/-- No accepted edge has come within 1 s + PPS_WIN of the last one (R101); where no edge stands, or no time runs, the event's own word is taken. -/
def State.ppsOver (s : State) : Bool := match s.pps.last with
  | some l => s.ts.st = .stopped || (secU : Int) + s.pi P.ppsWin < stampDiff s.now l
  | none => true

/-- PPS_LOST (R101, R116). -/
def execPpsLost (s : State) : Host.Outcome State Fault Refusal :=
  if s.pps.qual ∧ s.ppsOver then .next ((s.modPps fun p => { p with qual := false, run := 0, last := none }).refEv 10) else .next s

end Sys2Proof.Machine
end

