-- ==== Sys2Proof/Machine/Dispatch.lean ====
section
/-!
DEFINITION. The meaning of each command: one arm per constructor, in the order of the table of operations and events.
-/
namespace Sys2Proof.Machine
open Sys2Proof

/-- A command's effect on everything but the queue. -/
def exec (i : Instr) (s : State) : Host.Outcome State Fault Refusal :=
  match i with
  | .refinMissingEdge tr => Sys2Proof.Machine.execRefinMissingEdge tr s
  | .refinLoopWindow tr => Sys2Proof.Machine.execRefinLoopWindow tr s
  | .refinFrequencyGate dev tr => Sys2Proof.Machine.execRefinFrequencyGate dev tr s
  | .refinFreqWindow dev => Sys2Proof.Machine.execRefinFreqWindow dev s
  | .mpllLock cyc => Sys2Proof.Machine.execMpllLock s cyc
  | .refQual cyc => Sys2Proof.Machine.execRefQual s cyc
  | .measurementLoopLost also => Sys2Proof.Machine.execMeasurementLoopLost also s
  | .ppsinEdge t => Sys2Proof.Machine.execPpsinEdge t s
  | .ppsLost => Sys2Proof.Machine.execPpsLost s
  | .tsStart h mode v => Sys2Proof.Machine.execTsStart h mode v s
  | .tsStartExecute lead d => Sys2Proof.Machine.execTsStartExecute lead d s
  | .tsStop h => Sys2Proof.Machine.execTsStop h s
  | .tsSetOffset h o => Sys2Proof.Machine.execTsSetOffset h o s
  | .tsAdjust h d => Sys2Proof.Machine.execTsAdjust h d s
  | .tsHold h => Sys2Proof.Machine.execTsHold h s
  | .tsRelease h => Sys2Proof.Machine.execTsRelease h s
  | .upLossT => Sys2Proof.Machine.execUpLossT s
  | .hoQual => Sys2Proof.Machine.execHoQual s
  | .roleChange => Sys2Proof.Machine.execRoleChange s
  | .tsTick => Sys2Proof.Machine.execTsTick s
  | .hoPredictorUpdate a d sa sd cover => Sys2Proof.Machine.execHoPredictorUpdate a d sa sd cover s
  | .hoBound => Sys2Proof.Machine.execHoBound s
  | .extPeriod b => Sys2Proof.Machine.execExtPeriod b s
  | .mlLock k cyc => Sys2Proof.Machine.execMlLock k cyc s
  | .mlLoss k tr => Sys2Proof.Machine.execMlLoss k tr s
  | .mlExcursion k cyc => Sys2Proof.Machine.execMlExcursion k s cyc
  | .mlAcqT k => Sys2Proof.Machine.execMlAcqT k s
  | .retuneRestoreRetry k => Sys2Proof.Machine.execRetuneRestoreRetry k s
  | .margin k tune => Sys2Proof.Machine.execMargin k tune s
  | .relockPlan k temp => Sys2Proof.Machine.execRelockPlan k temp s
  | .mlRetune h k ni nf => Sys2Proof.Machine.execMlRetune h k ni nf s
  | .gratScan h mask => Sys2Proof.Machine.execGratScan h mask s
  | .gratEdit h k band point w => Sys2Proof.Machine.execGratEdit h k band point w s
  | .forcedSwitch c => Sys2Proof.Machine.execForcedSwitch c s
  | .switchNoEdge c yEdges => Sys2Proof.Machine.execSwitchNoEdge c yEdges s
  | .correctionRecord k lane bnd same => Sys2Proof.Machine.execCorrectionRecord k lane s bnd same
  | .slotLoad k bnd own => Sys2Proof.Machine.execSlotLoad k bnd own s
  | .hopSelWrite c slot => Sys2Proof.Machine.execHopSelWrite c slot s
  | .mrkHopTrigger c same => Sys2Proof.Machine.execMrkHopTrigger c same s
  | .chHop h c slot => Sys2Proof.Machine.execChHop h c slot s
  | .hopApply c bnd own => Sys2Proof.Machine.execHopApply c bnd own s
  | .hopRampEnd c bnd => Sys2Proof.Machine.execHopRampEnd c bnd s
  | .dtcTableApply c => Sys2Proof.Machine.execDtcTableApply c s
  | .outPpsPulse c sec => Sys2Proof.Machine.execOutPpsPulse c sec s
  | .chPhaseAdj h c d => Sys2Proof.Machine.execChPhaseAdj h c d s
  | .chPhaseCancel h c => Sys2Proof.Machine.execChPhaseCancel h c s
  | .chTraverse h c => Sys2Proof.Machine.execChTraverse h c s
  | .tdcEvent x fall tap vern => Sys2Proof.Machine.execTdcEvent x fall tap vern s
  | .stampRecordWrite q => Sys2Proof.Machine.execStampRecordWrite q s
  | .dllLock k ctrl => Sys2Proof.Machine.execDllLock k ctrl s
  | .dllLoss k => Sys2Proof.Machine.execDllLoss k s
  | .dllFail k => Sys2Proof.Machine.execDllFail k s
  | .lineFail core => Sys2Proof.Machine.execLineFail core s
  | .ivRecordProcess p => Sys2Proof.Machine.execIvRecordProcess p s
  | .ivTimeout p => Sys2Proof.Machine.execIvTimeout p s
  | .ivSignedDecide p => Sys2Proof.Machine.execIvSignedDecide p s
  | .stampRead h bd n => Sys2Proof.Machine.execStampRead h bd n s
  | .ivRead h bd n => Sys2Proof.Machine.execIvRead h bd n s
  | .ivStatus h p => Sys2Proof.Machine.execIvStatus h p s
  | .rgRecord ix => Sys2Proof.Machine.execRgRecord ix s
  | .rgGateClose ix => Sys2Proof.Machine.execRgGateClose ix s
  | .rgResultWrite ix => Sys2Proof.Machine.execRgResultWrite ix s
  | .rgClaim h slot prio => Sys2Proof.Machine.execRgClaim h slot prio s
  | .rgRelease h ix => Sys2Proof.Machine.execRgRelease h ix s
  | .rgRead h bd n => Sys2Proof.Machine.execRgRead h bd n s
  | .rgStatus h ix => Sys2Proof.Machine.execRgStatus h ix s
  | .dispatchRecord q => Sys2Proof.Machine.execDispatchRecord q s
  | .steeringJob e => Sys2Proof.Machine.execSteeringJob e s
  | .timescaleSteeringJob e => Sys2Proof.Machine.execTimescaleSteeringJob e s
  | .wholeCycleRecordJob e => Sys2Proof.Machine.execWholeCycleRecordJob e s
  | .hopReportJob k => Sys2Proof.Machine.execHopReportJob k s
  | .requestJob e => Sys2Proof.Machine.execRequestJob e s
  | .settleDone e => Sys2Proof.Machine.execSettleDone e s
  | .stealClaim t v => Sys2Proof.Machine.execStealClaim t v s
  | .csmFetchDone e => Sys2Proof.Machine.execCsmFetchDone e s
  | .skew e long seed => Sys2Proof.Machine.execSkew e long seed s
  | .engEpoch h seed e => Sys2Proof.Machine.execEngEpoch h seed e s
  | .epoch => Sys2Proof.Machine.execEpoch s
  | .parity e inSettle => Sys2Proof.Machine.execParity e inSettle s
  | .engineRetire e stuck => Sys2Proof.Machine.execEngineRetire e stuck s
  | .engineArrayLost => Sys2Proof.Machine.execEngineArrayLost s
  | .engArrayRebuild ue => Sys2Proof.Machine.execEngArrayRebuild ue s
  | .engStatus h e => Sys2Proof.Machine.execEngStatus h e s
  | .chStart h c => Sys2Proof.Machine.execChStart h c s
  | .chStop h c => Sys2Proof.Machine.execChStop h c s
  | .chStatus h c => Sys2Proof.Machine.execChStatus h c s
  | .acqSlow c => Sys2Proof.Machine.execAcqSlow c s
  | .channelSilence c => Sys2Proof.Machine.execChannelSilence c s
  | .dividerRestartDone c => Sys2Proof.Machine.execDividerRestartDone c s
  | .driver c => Sys2Proof.Machine.execDriver c s
  | .csmUe c => Sys2Proof.Machine.execCsmUe c s
  | .csmRebuild c mask => Sys2Proof.Machine.execCsmRebuild c mask s
  | .handoverSwitch k => Sys2Proof.Machine.execHandoverSwitch k s
  | .handT k => Sys2Proof.Machine.execHandT k s
  | .returnRetry k => Sys2Proof.Machine.execReturnRetry k s
  | .weltFault k fault => Sys2Proof.Machine.execWeltFault k fault s
  | .retirement c fault => Sys2Proof.Machine.execRetirement c fault s
  | .weltTakeover k => Sys2Proof.Machine.execWeltTakeover k s
  | .mntClearRetire h kind unit => Sys2Proof.Machine.execMntClearRetire h kind unit s
  | .devWake h => Sys2Proof.Machine.execDevWake h s
  | .wakeAutoStart => Sys2Proof.Machine.execWakeAutoStart s
  | .wakeStepDone temps => Sys2Proof.Machine.execWakeStepDone temps s
  | .wakeRefT => Sys2Proof.Machine.execWakeRefT s
  | .bypassExit => Sys2Proof.Machine.execBypassExit s
  | .devService h => Sys2Proof.Machine.execDevService h s
  | .devSurvey h => Sys2Proof.Machine.execDevSurvey h s
  | .devStow h => Sys2Proof.Machine.execDevStow h s
  | .devReset h => Sys2Proof.Machine.execDevReset h s
  | .coldReset cause usable sectors pfail => Sys2Proof.Machine.execColdReset cause usable sectors pfail s
  | .railLost r => Sys2Proof.Machine.execRailLost r s
  | .railRegained r => Sys2Proof.Machine.execRailRegained r s
  | .cobRestart words => Sys2Proof.Machine.execCobRestart words s
  | .brace words cls => Sys2Proof.Machine.execBrace words cls s
  | .braceDone => Sys2Proof.Machine.execBraceDone s
  | .braceRel => Sys2Proof.Machine.execBraceRel s
  | .holdupWaitExpiry ix => Sys2Proof.Machine.execHoldupWaitExpiry ix s
  | .queueReadyFall q => Sys2Proof.Machine.execQueueReadyFall q s
  | .peerAbsent q rail => Sys2Proof.Machine.execPeerAbsent q rail s
  | .queueHandshakeDone q => Sys2Proof.Machine.execQueueHandshakeDone q s
  | .calRun h c stat => Sys2Proof.Machine.execCalRun h c stat s
  | .calSurvey h mask band => Sys2Proof.Machine.execCalSurvey h mask band s
  | .calStatus h bd n => Sys2Proof.Machine.execCalStatus h bd n s
  | .calAbort h n => Sys2Proof.Machine.execCalAbort h n s
  | .calPartDone n m => Sys2Proof.Machine.execCalPartDone n m s
  | .calRunT n => Sys2Proof.Machine.execCalRunT n s
  | .calSchedule k stat => Sys2Proof.Machine.execCalSchedule k stat s
  | .calStale ix => Sys2Proof.Machine.execCalStale ix s
  | .bmOpen h uRef refId oper => Sys2Proof.Machine.execBmOpen h uRef refId oper s
  | .bmRef h dCal uCal stamps => Sys2Proof.Machine.execBmRef h dCal uCal stamps s
  | .bmLoop h c path dLb uLb m => Sys2Proof.Machine.execBmLoop h c path dLb uLb m s
  | .bmClose h slope => Sys2Proof.Machine.execBmClose h slope s
  | .bmAbort h => Sys2Proof.Machine.execBmAbort h s
  | .bmExpired => Sys2Proof.Machine.execBmExpired s
  | .dsStore holdup => Sys2Proof.Machine.execDsStore holdup s
  | .dsRecordCommit bad => Sys2Proof.Machine.execDsRecordCommit bad s
  | .eraseAhead ring => Sys2Proof.Machine.execEraseAhead ring s
  | .dsScrubPeriod ws => Sys2Proof.Machine.execDsScrubPeriod ws s
  | .dsScrub h ws => Sys2Proof.Machine.execDsScrub h ws s
  | .dsInfo h => Sys2Proof.Machine.execDsInfo h s
  | .dsBenchList h bd => Sys2Proof.Machine.execDsBenchList h bd s
  | .dsBenchRead h bd n => Sys2Proof.Machine.execDsBenchRead h bd n s
  | .dsRetireList h bd => Sys2Proof.Machine.execDsRetireList h bd s
  | .mntDsFormat h => Sys2Proof.Machine.execMntDsFormat h s
  | .mntDtcLoad h c l => Sys2Proof.Machine.execMntDtcLoad h c l s
  | .mntTdcLoad h core part => Sys2Proof.Machine.execMntTdcLoad h core part s
  | .mntOtpWrite h node v => Sys2Proof.Machine.execMntOtpWrite h node v s
  | .fwInfo h => Sys2Proof.Machine.execFwInfo h s
  | .fwWrite h bd bytes => Sys2Proof.Machine.execFwWrite h bd bytes s
  | .fwConfirm h => Sys2Proof.Machine.execFwConfirm h s
  | .fwSramRun h bd bytes => Sys2Proof.Machine.execFwSramRun h bd bytes s
  | .fwRevoke h k => Sys2Proof.Machine.execFwRevoke h k s
  | .gwLog m => Sys2Proof.Machine.execGwLog m s
  | .g8Accumulate temp => Sys2Proof.Machine.execG8Accumulate temp s
  | .g6ClaimRetry => Sys2Proof.Machine.execG6ClaimRetry s
  | .gwHealth h bd attention => Sys2Proof.Machine.execGwHealth h bd attention s
  | .gwLogRead h bd first n => Sys2Proof.Machine.execGwLogRead h bd first n s
  | .gwLogNow h m => Sys2Proof.Machine.execGwLogNow h m s
  | .gwRestart h g n => Sys2Proof.Machine.execGwRestart h g n s
  | .gwReplanRun h g n => Sys2Proof.Machine.execGwReplanRun h g n s
  | .regWr f => Sys2Proof.Machine.execRegWr f s
  | .regRd f => Sys2Proof.Machine.execRegRd f s
  | .bulkWr f => Sys2Proof.Machine.execBulkWr f s
  | .bulkRd f => Sys2Proof.Machine.execBulkRd f s
  | .nop f => Sys2Proof.Machine.execNop f s
  | .indWr f => Sys2Proof.Machine.execIndWr f s
  | .indRd f => Sys2Proof.Machine.execIndRd f s
  | .loop f => Sys2Proof.Machine.execLoop f s
  | .badop op f => Sys2Proof.Machine.execBadop op f s
  | .edgelessSelect => Sys2Proof.Machine.execEdgelessSelect s
  | .keyWrite w => Sys2Proof.Machine.execKeyWrite w s
  | .lockoutEnd => Sys2Proof.Machine.execLockoutEnd s
  | .guardedWrite a w me => Sys2Proof.Machine.execGuardedWrite a w me s
  | .rsClear m a w => Sys2Proof.Machine.execRsClear m a w s
  | .rsRead m a => Sys2Proof.Machine.execRsRead m a s
  | .rcWrite a w => Sys2Proof.Machine.execRcWrite a w s
  | .multiwordLowRead m a => Sys2Proof.Machine.execMultiwordLowRead m a s
  | .multiwordWrite m a w => Sys2Proof.Machine.execMultiwordWrite m a w s
  | .wo1Write m a w => Sys2Proof.Machine.execWo1Write m a w s
  | .hpLanesWrite w => Sys2Proof.Machine.execHpLanesWrite w s
  | .otpFieldWrite node w => Sys2Proof.Machine.execOtpFieldWrite node w s
  | .bitAliasWrite m a b d me => Sys2Proof.Machine.execBitAliasWrite m a b d me s
  | .indDataRead => Sys2Proof.Machine.execIndDataRead s
  | .indDataWrite w => Sys2Proof.Machine.execIndDataWrite w s
  | .indAddrWrite ctl w => Sys2Proof.Machine.execIndAddrWrite ctl w s
  | .snap => Sys2Proof.Machine.execSnap s
  | .latchUpdate => Sys2Proof.Machine.execLatchUpdate s
  | .registerWrite m a w me => Sys2Proof.Machine.execRegisterWrite m a w me s
  | .ring d me => Sys2Proof.Machine.execRing d me s
  | .eventDoorReturn => Sys2Proof.Machine.execEventDoorReturn s
  | .evtLost => Sys2Proof.Machine.execEvtLost s
  | .bulkBlockRing five => Sys2Proof.Machine.execBulkBlockRing five s
  | .streamIdleTimeout five => Sys2Proof.Machine.execStreamIdleTimeout five s
  | .bulkClose h bd => Sys2Proof.Machine.execBulkClose h bd s
  | .infoId h => Sys2Proof.Machine.execInfoId h s
  | .devStatus h => Sys2Proof.Machine.execDevStatus h s
  | .tsInfo h => Sys2Proof.Machine.execTsInfo h s
  | .paramRd h l => Sys2Proof.Machine.execParamRd h l s
  | .paramWr h l => Sys2Proof.Machine.execParamWr h l s
  | .paramDefault h l => Sys2Proof.Machine.execParamDefault h l s
  | .lastSave h n c => Sys2Proof.Machine.execLastSave h n c s
  | .lastApply h n c0 c1 => Sys2Proof.Machine.execLastApply h n c0 c1 s
  | .lastDelete h n => Sys2Proof.Machine.execLastDelete h n s
  | .lastList h bd => Sys2Proof.Machine.execLastList h bd s
  | .prefetchFill n => Sys2Proof.Machine.execPrefetchFill n s
  | .periphEntryDone inp => Sys2Proof.Machine.execPeriphEntryDone inp s
  | .testRun h unit kind pattern secs => Sys2Proof.Machine.execTestRun h unit kind pattern secs s
  | .testStop h unit ms => Sys2Proof.Machine.execTestStop h unit ms s
  | .testEye h c bd => Sys2Proof.Machine.execTestEye h c bd s
  | .eyeScanDone c l => Sys2Proof.Machine.execEyeScanDone c l s
  | .testDuration kind unit bits errs => Sys2Proof.Machine.execTestDuration kind unit bits errs s
  | .testNoSync kind unit => Sys2Proof.Machine.execTestNoSync kind unit s
  | .jtagInstructionUpdate t => Sys2Proof.Machine.execJtagInstructionUpdate t s
  | .cascadeFrameSend => Sys2Proof.Machine.execCascadeFrameSend s
  | .cascadeFrame valid f mark => Sys2Proof.Machine.execCascadeFrame valid f mark s
  | .cascadeLinkLost => Sys2Proof.Machine.execCascadeLinkLost s
  | .casTrainT => Sys2Proof.Machine.execCasTrainT s
  | .holdupOkHigh => Sys2Proof.Machine.execHoldupOkHigh s
  | .shortHeaderFrame edges ready => Sys2Proof.Machine.execShortHeaderFrame edges ready s
  | .checkerSync kind unit us => Sys2Proof.Machine.execCheckerSync kind unit us s
  | .checkerSyncLoss kind unit bits errs => Sys2Proof.Machine.execCheckerSyncLoss kind unit bits errs s
  | .sectorEraseDone ok => Sys2Proof.Machine.execSectorEraseDone ok s
  | .bandScanDone rs => Sys2Proof.Machine.execBandScanDone rs s
  | .otpRowProgrammed damaged => Sys2Proof.Machine.execOtpRowProgrammed damaged s
  | .testLogicReset => Sys2Proof.Machine.execTestLogicReset s
  | .firmwareHeartbeat => Sys2Proof.Machine.execFirmwareHeartbeat s

end Sys2Proof.Machine
end

