-- ==== Sys2Proof/Machine/Step.lean ====
section
/-!
DEFINITION. One step of the block: the command at the front of its queue, or one SCLK edge where none waits.
-/
namespace Sys2Proof.Machine

/-- The queue as exec sees it while command `i` runs: without the front. -/
def State.withRest (s : State) (q : List Instr) : State := { s with pending := q }

/-- The command at the front of the queue runs with the queue's rest. On an empty queue the block idles until its next SCLK edge, which
advances the DTS counter where the timescale runs, and in which output switches meet the edges they wait for (DESIGN CHOICE, log 1). -/
def step (s : State) : Host.Outcome State Fault Refusal :=
  match s.pending with
  | [] => .next s.idleStep
  | i :: q => exec i (s.withRest q)

/-- `s` with the command that the word spells at the front of its queue; the table gives no row any bits, so no word spells one. -/
def State.withFetchWord (s : State) (nbits w : Nat) : State :=
  match Sys2Proof.decodeTableWord nbits w with
  | some i => s.withRest (i :: s.pending)
  | none => s

end Sys2Proof.Machine
end

