-- ==== Sys2Proof/WellFormed.lean ====
section
/-!
DEFINITION. Which terms are commands: operands that the types alone do not bound lie in the range their format gives them (R52, R64, R66,
R77, R139, R610, R665, R671, R785, R788, R833, R842). A meaning is total all the same; a term that fails its check stands for nothing a sender
can give.
-/
namespace Sys2Proof

/-- `x` is a signed value of `w` bits. -/
def fits (w : Nat) (x : Int) : Bool := -(2 ^ (w - 1) : Nat) ≤ x && x < (2 ^ (w - 1) : Nat)
/-- Linear counts of a DTF (R52, R55): 2^48 seconds in 2^-18 ns. -/
def dtfCount : Nat := 2 ^ 48 * (1000000000 * 2 ^ 18)
/-- A TUNE value (R139). -/
def inTune (x : Int) : Bool := fits 16 x
/-- Phase-detector cycles of a master loop, their tuning words in 16 bits (R139); those of the MPLL have no stated width. -/
def cycsWf (l : List PdCyc) : Bool := l.all fun x => inTune x.tune
/-- Deviations of a frequency gate are RATE64 (R92). -/
def RefTrace.wf (t : RefTrace) : Bool := t.dev.all (fits 64)
/-- The most stored words that one record takes: no region is larger than the store. -/
def recWordsMax : Nat := 2 ^ 24

/-- An item list fills words 1 to 15 of a message (R788). -/
def itemsWf (l : List Item) : Bool := l.length ≤ 15

/-- The sizes of the parts of a correction set (R785). -/
def TdcPart.wf : TdcPart → Bool
  | .pos t => t.length = 64
  | .rest t v _ _ _ _ _ => t.length = 64 && v.length = 32

/-- The sizes of a histogram (R546, R555 to R557). -/
def Hist.wf (h : Hist) : Bool :=
  h.first.length = 2048 && h.second.length = 2048 && h.blocks.length = 16 && h.blocks.all (·.length = 64)
def PartMeas.wf (m : PartMeas) : Bool := m.hists.all Hist.wf && m.dtcs.all fun x => x.recs.length = 2 ^ 22 && x.recs.all (·.2 < dtfCount)

/-- A frame has at least one HSCK edge (R664) and at most 8,192 payload bits (R689). -/
def Frame.wf (f : Frame) : Bool := f.edges ≠ 0 && f.pay.length ≤ 256

/-- The check of each command. -/
def Instr.wf : Instr → Bool
  | .refinMissingEdge tr => tr.wf
  | .refinLoopWindow tr => tr.wf
  | .measurementLoopLost also => also.all RefTrace.wf
  | .refinFrequencyGate dev tr => fits 64 dev && tr.wf
  | .refinFreqWindow dev => fits 64 dev
  | .ppsinEdge t => t < dtfCount
  | .tsStart _ _ v => v.toNat / 2 ^ 18 % 2 ^ 30 < 1000000000
  | .tsStartExecute _ d => d < dtfCount
  | .tsSetOffset _ o => fits 64 o
  | .tsAdjust _ d => fits 64 d
  | .hoPredictorUpdate a d sa sd _ => fits 64 a && fits 64 d && sa < 2 ^ 64 && sd < 2 ^ 64
  | .extPeriod b => fits 64 b
  | .mlLock _ cyc => cycsWf cyc
  | .mlExcursion _ cyc => cycsWf cyc
  | .mlLoss _ tr => cycsWf tr.cyc
  | .margin _ tune => inTune tune
  | .relockPlan _ temp => fits 16 temp
  | .chPhaseAdj _ _ d => fits 64 d
  | .engArrayRebuild ue => ue.length ≤ 264
  | .wakeStepDone temps => temps.length ≤ 8
  | .cobRestart words => words ≤ recWordsMax
  | .brace words _ => words ≤ recWordsMax
  | .calPartDone _ m => m.wf
  | .bmRef _ _ _ stamps => stamps.length = 64 && stamps.all (· < dtfCount)
  | .dsRecordCommit bad => bad.all (·.1 < recWordsMax)
  | .mntDtcLoad _ _ l => l.length = 24
  | .mntTdcLoad _ _ part => part.wf
  | .regWr f => f.wf
  | .regRd f => f.wf
  | .bulkWr f => f.wf
  | .bulkRd f => f.wf
  | .nop f => f.wf
  | .indWr f => f.wf
  | .indRd f => f.wf
  | .loop f => f.wf
  | .badop op f => (op = 0 || 9 ≤ op.toNat) && f.wf
  | .paramRd _ l => itemsWf l
  | .paramWr _ l => itemsWf l
  | .paramDefault _ l => itemsWf l
  | .periphEntryDone inp => inp.length ≤ 8192
  | .eyeScanDone _ l => l.length = 64
  | .cascadeFrame valid f _ => !valid || (f.role = 1 || f.role = 2)
  | .bandScanDone rs => rs.length ≤ 512
  | .mpllLock .. | .refQual .. | .ppsLost | .tsStop .. | .tsHold ..
  | .tsRelease .. | .upLossT | .hoQual | .roleChange | .tsTick | .hoBound | .mlAcqT ..
  | .retuneRestoreRetry .. | .mlRetune .. | .gratScan .. | .gratEdit .. | .forcedSwitch .. | .switchNoEdge .. | .correctionRecord ..
  | .slotLoad .. | .hopSelWrite .. | .mrkHopTrigger .. | .chHop .. | .hopApply .. | .hopRampEnd .. | .dtcTableApply .. | .outPpsPulse ..
  | .chPhaseCancel .. | .chTraverse .. | .tdcEvent .. | .stampRecordWrite .. | .dllLock .. | .dllLoss .. | .dllFail .. | .lineFail ..
  | .ivRecordProcess .. | .ivTimeout .. | .ivSignedDecide .. | .stampRead .. | .ivRead .. | .ivStatus .. | .rgRecord .. | .rgGateClose ..
  | .rgResultWrite .. | .rgClaim .. | .rgRelease .. | .rgRead .. | .rgStatus .. | .dispatchRecord .. | .steeringJob ..
  | .timescaleSteeringJob .. | .wholeCycleRecordJob .. | .hopReportJob .. | .requestJob .. | .settleDone .. | .stealClaim ..
  | .csmFetchDone .. | .skew .. | .engEpoch .. | .epoch | .parity .. | .engineRetire .. | .engineArrayLost | .engStatus .. | .chStart ..
  | .chStop .. | .chStatus .. | .acqSlow .. | .channelSilence .. | .dividerRestartDone .. | .driver .. | .csmUe .. | .csmRebuild ..
  | .handoverSwitch .. | .handT .. | .returnRetry .. | .weltFault .. | .retirement .. | .weltTakeover .. | .mntClearRetire ..
  | .devWake .. | .wakeAutoStart | .wakeRefT | .bypassExit | .devService .. | .devSurvey .. | .devStow .. | .devReset .. | .coldReset ..
  | .railLost .. | .railRegained .. | .braceDone | .braceRel | .holdupWaitExpiry .. | .queueReadyFall .. | .peerAbsent ..
  | .queueHandshakeDone .. | .calRun .. | .calSurvey .. | .calStatus .. | .calAbort .. | .calRunT .. | .calSchedule .. | .calStale ..
  | .bmOpen .. | .bmLoop .. | .bmClose .. | .bmAbort .. | .bmExpired | .dsStore .. | .eraseAhead .. | .dsScrubPeriod .. | .dsScrub ..
  | .dsInfo .. | .dsBenchList .. | .dsBenchRead .. | .dsRetireList .. | .mntDsFormat .. | .mntOtpWrite .. | .fwInfo .. | .fwWrite ..
  | .fwConfirm .. | .fwSramRun .. | .fwRevoke .. | .gwLog .. | .g8Accumulate .. | .g6ClaimRetry | .gwHealth .. | .gwLogRead ..
  | .gwLogNow .. | .gwRestart .. | .gwReplanRun .. | .edgelessSelect | .keyWrite .. | .lockoutEnd | .guardedWrite .. | .rsClear ..
  | .rsRead .. | .rcWrite .. | .multiwordLowRead .. | .multiwordWrite .. | .wo1Write .. | .hpLanesWrite .. | .otpFieldWrite ..
  | .bitAliasWrite .. | .indDataRead | .indDataWrite .. | .indAddrWrite .. | .snap | .latchUpdate | .registerWrite .. | .ring ..
  | .eventDoorReturn | .evtLost | .bulkBlockRing .. | .streamIdleTimeout .. | .bulkClose .. | .infoId .. | .devStatus .. | .tsInfo ..
  | .lastSave .. | .lastApply .. | .lastDelete .. | .lastList .. | .prefetchFill .. | .testRun .. | .testStop .. | .testEye ..
  | .testDuration .. | .testNoSync .. | .jtagInstructionUpdate .. | .cascadeFrameSend | .cascadeLinkLost | .casTrainT | .holdupOkHigh
  | .shortHeaderFrame .. | .checkerSync .. | .checkerSyncLoss .. | .sectorEraseDone .. | .otpRowProgrammed .. | .testLogicReset
  | .firmwareHeartbeat => true

end Sys2Proof
end

