-- ==== Sys2Proof/Safety.lean ====
section
/-!
DEFINITION. What claims mean by a command that completes, a run that stands, a message taken and answered, a frame, and a flash array in
canonical form.
-/
namespace Sys2Proof.Machine

/-- A command completes in `s` and leads to a state with `P`. -/
def Completes (i : Instr) (s : State) (P : State → Prop) : Prop := ∃ t, exec i s = .next t ∧ P t

/-- `k` steps from `s` stop at nothing. -/
def SafeRun (k : Nat) (s : State) : Prop := ∃ t, Sys2Proof.core.run k s = .next t

/-! ## Frames -/

/-- The parts of the state that a frame names: its fields, the flash array apart from the rest of the Datum store. -/
inductive Part where
  | ref | pps | ext | ts | latch | chans | octs | dlls | engs | arr | cores | srcs | devq | iv | ring | rg | mbox | pwr | par
  | store | flash | grat | flt | tests | cas | cal | otp | img | mem | per | gw | hp | reg | tap | byp | pending
deriving DecidableEq, Repr

/-- The state with the parts of `l` blanked: what lies outside them. -/
def State.outside (l : List Part) (s : State) : State where
  ref := if Part.ref ∈ l then RefS.init else s.ref
  pps := if Part.pps ∈ l then PpsS.init else s.pps
  ext := if Part.ext ∈ l then ExtS.init else s.ext
  ts := if Part.ts ∈ l then TsS.init else s.ts
  latch := if Part.latch ∈ l then [] else s.latch
  chans := if Part.chans ∈ l then [] else s.chans
  octs := if Part.octs ∈ l then [] else s.octs
  dlls := if Part.dlls ∈ l then [] else s.dlls
  engs := if Part.engs ∈ l then [] else s.engs
  arr := if Part.arr ∈ l then EngArr.init else s.arr
  cores := if Part.cores ∈ l then [] else s.cores
  srcs := if Part.srcs ∈ l then [] else s.srcs
  devq := if Part.devq ∈ l then DevQ.init else s.devq
  iv := if Part.iv ∈ l then IvS.init else s.iv
  ring := if Part.ring ∈ l then RingS.init else s.ring
  rg := if Part.rg ∈ l then RgS.init else s.rg
  mbox := if Part.mbox ∈ l then MboxS.init else s.mbox
  pwr := if Part.pwr ∈ l then PwrS.init else s.pwr
  par := if Part.par ∈ l then ParS.init else s.par
  store := { if Part.store ∈ l then StoreS.init else s.store with flash := if Part.flash ∈ l then [] else s.store.flash }
  grat := if Part.grat ∈ l then GratS.init else s.grat
  flt := if Part.flt ∈ l then [] else s.flt
  tests := if Part.tests ∈ l then [] else s.tests
  cas := if Part.cas ∈ l then CasS.init else s.cas
  cal := if Part.cal ∈ l then CalS.init else s.cal
  otp := if Part.otp ∈ l then OtpS.init else s.otp
  img := if Part.img ∈ l then none else s.img
  mem := if Part.mem ∈ l then MemS.init else s.mem
  per := if Part.per ∈ l then PerS.init else s.per
  gw := if Part.gw ∈ l then GwS.init else s.gw
  hp := if Part.hp ∈ l then HpS.init else s.hp
  reg := if Part.reg ∈ l then RegS.init else s.reg
  tap := if Part.tap ∈ l then Tap.idcode else s.tap
  byp := if Part.byp ∈ l then ⟨0, []⟩ else s.byp
  pending := if Part.pending ∈ l then [] else s.pending

/-- `t` differs from `s` at most in the parts of `l`: every other register, queue, buffer and pin is as it was. -/
def Only (l : List Part) (s t : State) : Prop := t.outside l = s.outside l

/-- The parts that a command can change; every other part of the state is outside its reach. A command that comes over the host port or a
door can carry any message, and so reaches what any message does. -/
def partsOf : Instr → List Part
  | .refinMissingEdge .. | .refinLoopWindow .. | .refinFrequencyGate .. =>
    [.ref, .ts, .latch, .chans, .octs, .dlls, .cores, .srcs, .devq, .rg, .mbox, .pwr, .par, .store, .grat, .cal, .gw]
  | .refinFreqWindow .. =>
    [.ref]
  | .mpllLock .. | .refQual .. =>
    [.ref, .pps, .ts, .latch, .chans, .octs, .engs, .srcs, .devq, .rg, .mbox, .pwr, .par, .gw]
  | .measurementLoopLost .. =>
    [.ref, .pps, .ts, .latch, .chans, .octs, .dlls, .cores, .srcs, .devq, .rg, .mbox, .pwr, .par, .store, .grat, .tests, .cal,
    .gw]
  | .ppsinEdge .. | .ppsLost =>
    [.ref, .pps]
  | .tsStart .. | .tsStartExecute .. =>
    [.pps, .ts, .latch, .chans, .octs, .engs, .srcs, .devq, .rg, .mbox, .pwr, .par, .gw]
  | .tsStop .. =>
    [.ts, .cores, .srcs, .devq, .rg, .mbox, .pwr, .par, .gw]
  | .tsSetOffset .. | .tsAdjust .. | .tsRelease .. | .hoBound =>
    [.ts, .mbox]
  | .tsHold .. | .upLossT =>
    [.ts, .latch, .chans, .devq, .rg, .mbox, .pwr, .par, .gw]
  | .hoQual =>
    [.ts, .devq, .rg, .pwr, .par, .gw]
  | .roleChange =>
    [.ts, .latch, .chans, .devq, .rg, .mbox, .pwr, .par, .cas, .gw]
  | .tsTick =>
    [.ts, .latch, .chans, .octs, .engs, .devq, .mbox]
  | .hoPredictorUpdate .. =>
    [.ts]
  | .extPeriod .. =>
    [.ref, .ext, .mbox, .per]
  | .mlLock .. =>
    [.chans, .octs, .srcs, .mbox, .tests]
  | .mlLoss .. | .wakeRefT =>
    [.ts, .latch, .chans, .octs, .dlls, .cores, .srcs, .devq, .rg, .mbox, .pwr, .par, .store, .grat, .tests, .cal, .gw]
  | .mlExcursion .. =>
    [.octs, .mbox, .flt]
  | .mlAcqT .. =>
    [.octs, .mbox, .store]
  | .retuneRestoreRetry .. =>
    [.store]
  | .margin .. | .correctionRecord .. | .hopApply .. | .handoverSwitch .. | .calRun .. | .calSurvey .. | .calAbort ..
  | .calRunT .. | .calSchedule .. | .gwLog .. | .gwLogNow .. | .gwReplanRun .. =>
    [.chans, .octs, .dlls, .cores, .srcs, .devq, .rg, .mbox, .par, .store, .grat, .cal, .gw]
  | .relockPlan .. =>
    [.octs]
  | .mlRetune .. =>
    [.ts, .latch, .chans, .octs, .srcs, .devq, .rg, .mbox, .pwr, .par, .store, .gw]
  | .gratScan .. =>
    [.octs, .mbox, .grat]
  | .gratEdit .. | .engEpoch .. | .mntClearRetire .. | .bmClose .. | .mntDtcLoad .. | .fwConfirm .. | .gwRestart .. | .lastSave ..
  | .lastApply .. | .lastDelete .. =>
    [.mbox, .store]
  | .forcedSwitch .. | .switchNoEdge .. | .returnRetry .. =>
    [.chans, .octs, .srcs]
  | .slotLoad .. | .hopSelWrite .. | .hopRampEnd .. =>
    [.chans, .octs]
  | .mrkHopTrigger .. | .dtcTableApply .. | .outPpsPulse .. =>
    [.chans]
  | .chHop .. | .channelSilence .. =>
    [.chans, .octs, .mbox]
  | .chPhaseAdj .. | .chPhaseCancel .. =>
    [.chans, .octs, .engs, .mbox]
  | .chTraverse .. | .ivStatus .. | .rgStatus .. | .engStatus .. | .chStatus .. | .calStatus .. | .dsInfo .. | .dsRetireList ..
  | .fwInfo .. | .fwWrite .. | .fwSramRun .. | .gwHealth .. | .gwLogRead .. | .eventDoorReturn | .evtLost | .streamIdleTimeout ..
  | .bulkClose .. | .infoId .. | .devStatus .. | .tsInfo .. | .paramRd .. | .lastList .. =>
    [.mbox]
  | .tdcEvent .. =>
    [.chans, .cores, .srcs]
  | .stampRecordWrite .. =>
    [.octs, .cores, .srcs, .devq]
  | .dllLock .. | .dllLoss .. =>
    [.dlls]
  | .dllFail .. =>
    [.chans, .octs, .dlls, .cores, .srcs, .devq, .rg, .mbox, .par, .store, .grat, .flt, .cal, .gw]
  | .lineFail .. | .driver .. | .handT .. | .weltFault .. | .retirement .. | .calPartDone .. =>
    [.ts, .latch, .chans, .octs, .dlls, .cores, .srcs, .devq, .rg, .mbox, .pwr, .par, .store, .grat, .flt, .cal, .gw]
  | .ivRecordProcess .. | .ivTimeout .. | .ivSignedDecide .. =>
    [.devq, .iv]
  | .stampRead .. =>
    [.ring, .mbox]
  | .ivRead .. =>
    [.iv, .mbox]
  | .rgRecord .. | .rgGateClose .. =>
    [.rg]
  | .rgResultWrite .. | .g6ClaimRetry =>
    [.devq, .rg, .par, .gw]
  | .rgClaim .. | .rgRead .. =>
    [.rg, .mbox]
  | .rgRelease .. =>
    [.devq, .rg, .mbox, .par, .gw]
  | .dispatchRecord .. =>
    [.ts, .chans, .octs, .engs, .devq, .iv, .ring, .rg, .mbox, .par, .gw]
  | .steeringJob .. | .csmUe .. =>
    [.ts, .latch, .chans, .octs, .dlls, .engs, .cores, .srcs, .devq, .rg, .mbox, .pwr, .par, .store, .grat, .flt, .cal, .gw]
  | .timescaleSteeringJob .. =>
    [.ts, .latch, .chans, .engs, .srcs, .devq, .rg, .mbox, .par, .gw]
  | .wholeCycleRecordJob .. =>
    [.ts, .latch, .chans, .engs, .srcs, .devq, .mbox]
  | .hopReportJob .. =>
    [.ts, .chans, .octs, .engs, .srcs, .mbox]
  | .requestJob .. =>
    [.ts, .chans, .engs, .srcs, .mbox]
  | .settleDone .. | .stealClaim .. =>
    [.ts, .chans, .engs]
  | .csmFetchDone .. =>
    [.engs]
  | .skew .. =>
    [.octs, .mbox]
  | .epoch =>
    [.octs, .engs, .arr]
  | .parity .. =>
    [.ts, .chans, .octs, .engs, .mbox, .flt]
  | .engineRetire .. =>
    [.ts, .latch, .chans, .octs, .engs, .srcs, .devq, .rg, .mbox, .pwr, .par, .store, .flt, .gw]
  | .engineArrayLost =>
    [.ts, .latch, .chans, .octs, .dlls, .engs, .arr, .cores, .srcs, .devq, .iv, .rg, .mbox, .pwr, .par, .store, .grat, .tests,
    .cal, .gw, .reg]
  | .engArrayRebuild .. =>
    [.ts, .chans, .octs, .arr, .devq, .rg, .pwr, .par, .gw]
  | .chStart .. =>
    [.ts, .latch, .chans, .octs, .engs, .srcs, .devq, .rg, .mbox, .pwr, .par, .gw]
  | .chStop .. =>
    [.chans, .octs, .dlls, .cores, .srcs, .devq, .rg, .mbox, .par, .store, .grat, .tests, .cal, .gw]
  | .acqSlow .. =>
    [.chans, .mbox]
  | .dividerRestartDone .. =>
    [.chans, .srcs]
  | .csmRebuild .. =>
    [.chans, .srcs, .mbox]
  | .weltTakeover .. =>
    [.chans, .srcs, .store]
  | .devWake .. | .wakeAutoStart =>
    [.ref, .pps, .ts, .chans, .octs, .dlls, .engs, .arr, .cores, .srcs, .devq, .rg, .mbox, .pwr, .par, .store, .flash, .grat,
    .flt, .cas, .cal, .gw]
  | .wakeStepDone .. =>
    [.ref, .pps, .ts, .latch, .chans, .octs, .dlls, .engs, .arr, .cores, .srcs, .devq, .rg, .mbox, .pwr, .par, .store, .flash,
    .grat, .flt, .tests, .cas, .cal, .gw]
  | .bypassExit =>
    [.ref, .pps, .ts, .chans, .octs, .dlls, .engs, .arr, .cores, .srcs, .devq, .rg, .mbox, .pwr, .par, .store, .flash, .grat,
    .flt, .tests, .cas, .cal, .gw]
  | .devService .. =>
    [.chans, .octs, .dlls, .cores, .srcs, .devq, .rg, .mbox, .pwr, .par, .store, .grat, .tests, .cal, .gw]
  | .devSurvey .. =>
    [.ts, .latch, .chans, .octs, .dlls, .cores, .srcs, .devq, .rg, .mbox, .pwr, .par, .store, .grat, .cal, .gw]
  | .devStow .. =>
    [.ref, .pps, .ts, .chans, .octs, .dlls, .engs, .arr, .cores, .srcs, .devq, .iv, .rg, .mbox, .pwr, .par, .store, .grat, .tests,
    .cas, .cal, .gw, .reg]
  | .devReset .. | .coldReset .. | .railLost .. | .braceRel | .regWr .. | .bulkWr .. | .guardedWrite .. | .bitAliasWrite ..
  | .registerWrite .. | .ring .. =>
    [.ref, .pps, .ext, .ts, .latch, .chans, .octs, .dlls, .engs, .arr, .cores, .srcs, .devq, .iv, .ring, .rg, .mbox, .pwr, .par,
    .store, .flash, .grat, .flt, .tests, .cas, .cal, .otp, .img, .mem, .per, .gw, .hp, .reg]
  | .railRegained .. =>
    [.ref, .pps, .ts, .chans, .octs, .dlls, .engs, .arr, .cores, .srcs, .devq, .rg, .mbox, .pwr, .par, .store, .flash, .grat,
    .flt, .cas, .cal, .otp, .img, .gw, .reg]
  | .cobRestart .. =>
    [.ext, .chans, .octs, .dlls, .engs, .cores, .srcs, .devq, .rg, .mbox, .pwr, .par, .store, .flash, .grat, .tests, .cal, .otp,
    .img, .mem, .per, .gw, .reg]
  | .brace .. =>
    [.ref, .pps, .ts, .chans, .octs, .dlls, .engs, .arr, .cores, .srcs, .devq, .iv, .rg, .mbox, .pwr, .par, .store, .flash, .grat,
    .tests, .cas, .cal, .mem, .gw, .reg]
  | .braceDone =>
    [.mbox, .pwr, .store, .flt, .mem, .hp, .reg]
  | .holdupWaitExpiry .. =>
    [.chans, .octs, .dlls, .cores, .devq, .rg, .mbox, .par, .store, .grat, .cal, .gw]
  | .queueReadyFall .. | .queueHandshakeDone .. =>
    [.octs, .devq]
  | .peerAbsent .. =>
    [.octs, .devq, .pwr]
  | .calStale .. | .bmRef .. | .bmLoop .. =>
    [.mbox, .cal]
  | .bmOpen .. =>
    [.rg, .mbox, .par, .cal]
  | .bmAbort .. | .bmExpired =>
    [.devq, .rg, .mbox, .par, .cal, .gw]
  | .dsStore .. | .holdupOkHigh =>
    [.chans, .octs, .dlls, .cores, .devq, .rg, .mbox, .pwr, .par, .store, .flash, .grat, .cal, .mem, .gw]
  | .dsRecordCommit .. =>
    [.ref, .ts, .latch, .chans, .octs, .dlls, .engs, .arr, .cores, .srcs, .devq, .iv, .rg, .mbox, .pwr, .par, .store, .flash,
    .grat, .flt, .cas, .cal, .otp, .img, .mem, .gw, .hp, .reg]
  | .eraseAhead .. =>
    [.store, .flash, .mem]
  | .dsScrubPeriod .. | .dsScrub .. =>
    [.mbox, .store, .flash, .flt]
  | .dsBenchList .. | .dsBenchRead .. =>
    [.mbox, .store, .flt]
  | .mntDsFormat .. =>
    [.mbox, .store, .flash, .gw]
  | .mntTdcLoad .. =>
    [.mbox, .store, .cal]
  | .mntOtpWrite .. =>
    [.mbox, .otp, .reg]
  | .fwRevoke .. =>
    [.mbox, .otp]
  | .g8Accumulate .. =>
    [.gw]
  | .regRd .. | .bulkRd .. | .nop .. | .indRd .. | .badop .. | .shortHeaderFrame .. =>
    [.ref, .ts, .octs, .mbox, .pwr, .store, .flt, .mem, .hp, .reg]
  | .indWr .. =>
    [.mbox, .flt, .mem, .hp, .reg]
  | .loop .. =>
    [.mbox, .flt, .tests, .mem, .hp, .reg]
  | .edgelessSelect =>
    [.hp]
  | .keyWrite .. | .lockoutEnd | .multiwordLowRead .. | .indDataWrite .. | .indAddrWrite .. | .firmwareHeartbeat =>
    [.reg]
  | .rsClear .. | .rsRead .. =>
    [.ref, .ts, .octs, .pwr, .reg]
  | .rcWrite .. =>
    [.pps, .ext, .chans, .octs, .devq, .pwr, .store, .hp, .reg]
  | .multiwordWrite .. | .otpFieldWrite .. =>
    [.otp, .reg]
  | .wo1Write .. =>
    [.otp, .hp, .reg]
  | .hpLanesWrite .. =>
    [.hp, .reg]
  | .indDataRead =>
    [.mbox, .store, .flt, .mem, .reg]
  | .snap =>
    [.latch]
  | .latchUpdate =>
    [.latch, .devq]
  | .bulkBlockRing .. =>
    [.mbox, .pwr, .store, .otp, .img, .reg]
  | .paramWr .. | .paramDefault .. =>
    [.ref, .ts, .latch, .chans, .octs, .dlls, .engs, .cores, .srcs, .devq, .iv, .rg, .mbox, .pwr, .par, .store, .grat, .cas, .cal,
    .gw]
  | .prefetchFill .. =>
    [.mbox, .store, .flt, .mem, .hp, .reg]
  | .periphEntryDone .. =>
    [.tests, .per]
  | .testRun .. =>
    [.chans, .srcs, .mbox, .store, .flash, .tests, .per, .gw]
  | .testStop .. | .testDuration .. | .testNoSync .. =>
    [.chans, .octs, .dlls, .cores, .srcs, .devq, .rg, .mbox, .pwr, .par, .store, .flash, .grat, .flt, .tests, .cal, .mem, .gw,
    .hp, .reg]
  | .testEye .. | .eyeScanDone .. =>
    [.mbox, .tests]
  | .jtagInstructionUpdate .. | .testLogicReset =>
    [.ref, .pps, .ext, .ts, .latch, .chans, .octs, .dlls, .engs, .arr, .cores, .srcs, .devq, .iv, .ring, .rg, .mbox, .pwr, .par,
    .store, .flash, .grat, .flt, .tests, .cas, .cal, .otp, .img, .mem, .per, .gw, .hp, .reg, .tap]
  | .cascadeFrameSend =>
    [.cas]
  | .cascadeFrame .. | .cascadeLinkLost =>
    [.ts, .latch, .chans, .devq, .rg, .mbox, .pwr, .par, .flt, .cas, .gw]
  | .casTrainT =>
    [.pps, .ts, .latch, .chans, .octs, .engs, .srcs, .devq, .rg, .mbox, .pwr, .par, .flt, .tests, .cas, .gw]
  | .checkerSync .. =>
    [.tests]
  | .checkerSyncLoss .. =>
    [.chans, .tests]
  | .sectorEraseDone .. =>
    [.chans, .octs, .dlls, .cores, .devq, .rg, .mbox, .pwr, .par, .store, .flash, .grat, .flt, .cal, .mem, .gw, .hp, .reg]
  | .bandScanDone .. =>
    [.octs, .store, .grat]
  | .otpRowProgrammed .. =>
    [.mbox, .flash, .otp]

/-! ## Messages -/

/-- The message `h` of command `cmd` is taken: a command door that holds no other, no reset, and none of the refusals that precede a
command's own checks (R745, R765, R766, R769, R776). -/
def Taken (h : Hdr) (cmd : Nat) (s : State) : Prop :=
  s.pwr.held = false ∧ h.door ≠ 4 ∧ h.door ≠ 5 ∧ h.door ≠ 6 ∧ (s.door h.door).st ≠ .busy ∧ s.preErr h cmd = none

/-- The state in which a command's own checks run: its door is BUSY. -/
def State.taken (h : Hdr) (s : State) : State := s.modDoor h.door fun d => { d with st := .busy, tag := h.tag }

/-- The door of `h` holds the reply `r`: state REPLY, the error flag, TAG, word 0 of the message and the words after it (R744, R773). -/
def Answered (h : Hdr) (cmd : Nat) (r : Rep) (t : State) : Prop :=
  (t.door h.door).st = .reply ∧ (t.door h.door).err = (r.err ≠ .ok : Bool) ∧ (t.door h.door).tag = h.tag ∧
  (t.door h.door).words.get 0 0 = (r.msg cmd h.tag).get 0 0 ∧
  ∀ i, i < r.words.length → (t.door h.door).words.get 0 (i + 1) = BitVec.ofNat 128 (r.words.getD i 0)

/-- `t` differs from `s` at most in mailbox door `n`. -/
def OnlyDoor (n : Nat) (s t : State) : Prop := t = s.modDoor n fun _ => t.door n

/-- `t` is `s` with the message taken and one store added at the end of the journal's queue, which will answer it (R601). -/
def Queued (h : Hdr) (cmd : Nat) (c : Change) (s t : State) : Prop :=
  ∃ r : StoreReq, r.h = some h ∧ r.cmd = cmd ∧ r.ch = c ∧ t = (s.taken h).modStore fun d => { d with q := d.q ++ [r] }

/-- A stream of `data` stands open on door `bd`, and the command that opened it is answered: the door shows the first block, up to fifteen
words behind the header, zeros where the data ends (R778 to R780). -/
def StreamOpened (h : Hdr) (cmd bd : Nat) (data : List W128) (t : State) : Prop :=
  Answered h cmd .ok t ∧ (t.door bd).st = .reply ∧
  (t.door bd).stream = some ⟨cmd, h.tag, h, false, 0, data.drop 15, 0, 0, decide (data.length ≤ 15), 0⟩ ∧
  ∀ i, i < 15 → (t.door bd).words.get 0 (i + 1) = data.getD i 0

/-! ## Frames of the host port -/

/-- A frame of `n` edges that meets a port with one lane each way and no data to send: the block is out of reset, RING is 0. -/
def PlainFrame (n : Nat) (f : Frame) (s : State) : Prop :=
  s.pwr.held = false ∧ s.hp.il = 0 ∧ s.hp.ol = 0 ∧ s.hp.nOut = 0 ∧ s.hp.fx = .none ∧ f.edges.toNat = n ∧ f.ring = false

/-- The reply that the next frame will carry: status, TAG, the count of input bits, and `bits` bits of read data (R666). -/
def Replied (st : Nat) (f : Frame) (count bits : Nat) (out : List W32) (t : State) : Prop :=
  t.hp.reply = BitVec.ofNat 32 (fld 24 8 st + fld 16 8 f.tag.toNat + min 0xFFFF count) ∧ t.hp.nOut = bits ∧ t.hp.out = out

/-- Bits of a bulk payload (R672, R689). -/
def HpS.payload (h : HpS) : Nat := if h.len = 0 then 8192 else h.len

/-- `t` is `s` but for the host port's own state. -/
def OnlyPort (s t : State) : Prop := t = { s with hp := t.hp }

/-! ## The flash array -/

/-- A table in canonical form: numbers strictly rising. -/
def canonicalTab {α : Type} : Tab α → Bool
  | [] => true
  | [_] => true
  | a :: b :: t => a.1 < b.1 && canonicalTab (b :: t)

/-- The flash array lists stored words in rising order of their numbers; a word that no entry lists reads ERASED (R591, R798). -/
def FlashWf (s : State) : Prop := canonicalTab s.store.flash = true

end Sys2Proof.Machine
end

