-- ==== Sys2Proof/Certificates/Slice0/Obligations.lean ====
section
/-!
DEFINITION. What is claimed of the block: the statements for the provers, family by family of the table of operations and events.
-/
open Sys2Proof Sys2Proof.Machine

/-! ## The queue of commands, frames -/

/-- A step runs the command at the front of the queue with the queue's rest. -/
def Obligations.StepRunsFrontCommand : Prop :=
  ∀ (c : Instr) (q : List Instr) (s : State), s.pending = c :: q → step s = exec c (s.withRest q)

/-- On an empty queue the block idles until an SCLK edge: of a running timescale the counter advances by 2^64 + rate modulo 2^48 s, exactly
(R103), and counts one edge; of one that is STOPPED, or that no SCLK reaches, it stays. Output switches may meet the edges they wait for, and the
bypass inputs count theirs. That an idle step is an SCLK edge is the model's choice (log 1). -/
def Obligations.IdleStepIsAnSclkEdge : Prop :=
  (∀ s : State, s.pending = [] → ∃ t, step s = .next t ∧ Only [.ts, .devq, .chans, .srcs, .latch, .byp] s t ∧ t.byp.clk = s.byp.clk + 1 ∧
    (s.ts.st ≠ .stopped → s.ref.sclkOk = true → s.domOn pdRef = true →
      (t.ts.dts : Int) = ((s.ts.dts : Int) + 2 ^ 64 + s.ts.rate) % (dtsMod : Int) ∧ t.ts.edges = s.ts.edges + 1)) ∧
  (∀ s : State, s.pending = [] → (s.ts.st = .stopped ∨ s.ref.sclkOk = false ∨ s.domOn pdRef = false) →
    ∃ t, step s = .next t ∧ t.ts = s.ts)

/-- Every command changes only the parts of the state that `partsOf` lists for it; the queue is in no list. -/
def Obligations.CommandsKeepOtherParts : Prop :=
  ∀ (i : Instr) (s t : State), exec i s = .next t → Only (partsOf i) s t

/-- Every command has an effect: no state and no operand stops the block, and what waits in the queue stays there. -/
def Obligations.EveryCommandAnswersNext : Prop :=
  ∀ (i : Instr) (s : State), ∃ t, exec i s = .next t ∧ t.pending = s.pending

/-! ## Reference -/

/-- R92, R93, R897: a detector that fires while REFIN is qualified disqualifies it, unlocks and freezes the MPLL at the mean of the 4,096 cycles
that belong to the detector, records the detector in REF_STATUS.DET and raises REF_LOST: the missing edge always, the loop window of a locked MPLL
whose error has stayed outside MPLL_LKWIN for REF_LOSSCNT cycles, the frequency gate in grandmaster role with PPSIN qualified. Of two that fire
together the window that ends earlier applies. Where none fires the MPLL follows REFIN. That the disqualification clears the lock is the model's
reading (log 20). R896: a 1 ms measurement of a disqualified REFIN says whether it lies within ±100 ppm. R90: an MPLL that follows REFIN locks
after 1,024 cycles within MPLL_LKWIN, and only then. R94, R95: REF_QUAL passed with REFIN in the window, the MPLL leaves its frozen word with its
first error zero; REFIN is qualified again, and the event raised, once the MPLL has locked. -/
def Obligations.RefinLossAndReturn : Prop :=
  (let lost (d : RefDet) (tr : RefTrace) (s t : State) : Prop :=
     let u := s.pdFollow tr.cyc
     t.ref = { u.ref with qual := false, lock := false, frozen := true, word := u.frozenMean d tr, integ := u.frozenMean d tr,
                          qualT := false, det := d, winOk := true, ev := s.ref.ev.raise 8 }
   let window (tr : RefTrace) (s : State) : Prop := s.ref.lock = true ∧ s.pv P.refLosscnt ≤ s.pdOut tr.cyc
   let freq (dev : Option Int) (s : State) : Prop :=
     s.ts.role = .gm ∧ s.pps.qual = true ∧ ∃ d, dev = some d ∧ s.pi P.refFwin < (d.natAbs : Int)
   (∀ tr s, s.ref.qual = true → ¬ window tr s → ¬ freq tr.dev s →
     Completes (.refinMissingEdge tr) s (lost .missing { tr with missing := true } s)) ∧
   (∀ tr s, s.ref.qual = true → window tr s → ¬ freq tr.dev s → Completes (.refinLoopWindow tr) s (lost .window tr s)) ∧
   (∀ tr s, s.ref.qual = true → window tr s → ¬ freq tr.dev s →
     Completes (.refinMissingEdge tr) s (lost .window { tr with missing := true } s)) ∧
   (∀ dev tr s, s.ref.qual = true → freq (some dev) s →
     Completes (.refinFrequencyGate dev tr) s (lost .freq { tr with dev := some dev } s)) ∧
   (∀ tr s, s.ref.qual = true → ¬ window tr s → ¬ freq tr.dev s → tr.missing = false → exec (.refinLoopWindow tr) s = .next (s.pdFollow tr.cyc)) ∧
   (∀ dev tr s, s.ref.qual = true → ¬ window tr s → ¬ freq (some dev) s → tr.missing = false →
     exec (.refinFrequencyGate dev tr) s = .next (s.pdFollow tr.cyc)) ∧
   (∀ tr s, s.ref.qual = false → s.ref.qualT = false → exec (.refinMissingEdge tr) s = .next s ∧ exec (.refinLoopWindow tr) s = .next s)) ∧
  ((∀ dev s, s.ref.qual = false → s.ref.frozen = true →
     exec (.refinFreqWindow dev) s = .next { s with ref := { s.ref with winOk := decide (dev.natAbs ≤ 1844674407370955) } }) ∧
   (∀ cyc s, s.ref.lock = false → s.ref.frozen = false → s.domOn pdRef = true → s.pdLocks cyc = true → Completes (.mpllLock cyc) s fun t =>
     t.ref.lock = true ∧ t.ref.sclkOk = true ∧ t.ref.qual = true ∧ t.ref.qualT = false ∧ t.ref.frozen = false ∧
     t.ref.ev = if s.ref.qualT = true ∧ s.ref.qual = false then s.ref.ev.raise 9 else s.ref.ev) ∧
   (∀ cyc s, s.ref.lock = false → s.ref.frozen = false → s.domOn pdRef = true → s.pdLocks cyc = false →
     exec (.mpllLock cyc) s = .next (s.pdFollow cyc)) ∧
   (∀ cyc s, (s.ref.lock = true ∨ s.ref.frozen = true ∨ s.domOn pdRef = false) → exec (.mpllLock cyc) s = .next s) ∧
   (∀ cyc s, s.ref.qual = false → s.ref.frozen = true → s.ref.winOk = true → Completes (.refQual cyc) s fun t =>
     t.ref.frozen = false ∧ t.ref.word = s.ref.word ∧
     (s.pdLocks (cyc.map fun c => { c with diff := c.diff - (cyc.headD ⟨0, 0⟩).diff }) = true →
       t.ref.qual = true ∧ t.ref.lock = true ∧ t.ref.ev = s.ref.ev.raise 9) ∧
     (s.pdLocks (cyc.map fun c => { c with diff := c.diff - (cyc.headD ⟨0, 0⟩).diff }) = false →
       t.ref.qual = false ∧ t.ref.qualT = true ∧ t.ref.ev = s.ref.ev)) ∧
   (∀ cyc s, (s.ref.qual = true ∨ s.ref.frozen = false ∨ s.ref.winOk = false) → exec (.refQual cyc) s = .next s))

/-- R96, R97, R112, R489: with the measurement loop lost, REFIN and PPSIN are disqualified, the MPLL is unlocked and gives no SCLK, the timescale
is STOPPED, and the device is in BYPASS for cause 1; without PD_REF there is no loop to lose. R99, R100, R101: PPSIN is qualified by three edges
of two spacings within 1 s ± PPS_WIN; of a qualified PPSIN an edge off its window is discarded and counted and does not advance the expected
second; with no accepted edge within 1 s + PPS_WIN of the last it loses qualification, which raises PPS_LOST. A qualified PPSIN without an
expected second takes it from the next edge (the model's choice, log 81). Edges come only while the timescale runs. -/
def Obligations.MeasurementLoopAndPpsin : Prop :=
  ((∀ also s, s.domOn pdRef = true → Completes (.measurementLoopLost also) s fun t =>
     t.ref.qual = false ∧ t.ref.lock = false ∧ t.ref.sclkOk = false ∧ t.ts.st = .stopped ∧ t.pps.qual = false ∧
     t.pwr.mode = .bypass ∧ t.pwr.bypCause = 1) ∧
   (∀ also s, s.domOn pdRef = false → exec (.measurementLoopLost also) s = .next s)) ∧
  (let near (s : State) (t l : Nat) : Bool := decide (((stampDiff t l - secU).natAbs : Int) ≤ s.pi P.ppsWin)
   (∀ t s, s.ts.st ≠ .stopped → s.pps.qual = true → (∀ l, s.pps.last = some l → near s t l = true) →
     exec (.ppsinEdge t) s = .next { s with pps := { s.pps with last := some t } }) ∧
   (∀ t l s, s.ts.st ≠ .stopped → s.pps.qual = true → s.pps.last = some l → near s t l = false →
     exec (.ppsinEdge t) s = .next { s with pps := { s.pps with outlier := satAdd 32 1 s.pps.outlier } }) ∧
   (∀ t l s, s.ts.st ≠ .stopped → s.pps.qual = false → s.pps.run = 1 → s.pps.last = some l → near s t l = true →
     exec (.ppsinEdge t) s = .next { s with
       pps := { s.pps with last := some t, run := 0, qual := true, ever := true }, ref := { s.ref with ev := s.ref.ev.raise 11 } }) ∧
   (∀ t l s, s.ts.st ≠ .stopped → s.pps.qual = false → s.pps.run = 0 → s.pps.last = some l → near s t l = true →
     exec (.ppsinEdge t) s = .next { s with pps := { s.pps with last := some t, run := 1 } }) ∧
   (∀ t s, s.ts.st ≠ .stopped → s.pps.qual = false → (∀ l, s.pps.last = some l → near s t l = false) →
     exec (.ppsinEdge t) s = .next { s with pps := { s.pps with last := some t, run := 0 } }) ∧
   (∀ t s, s.ts.st = .stopped → exec (.ppsinEdge t) s = .next s) ∧
   (∀ l s, s.ts.st ≠ .stopped → s.pps.qual = true → s.pps.last = some l → (secU : Int) + s.pi P.ppsWin < stampDiff s.now l →
     exec .ppsLost s = .next { s with
       pps := { s.pps with qual := false, run := 0, last := none }, ref := { s.ref with ev := s.ref.ev.raise 10 } }) ∧
   (∀ l s, s.ts.st ≠ .stopped → s.pps.last = some l → stampDiff s.now l ≤ (secU : Int) + s.pi P.ppsWin → exec .ppsLost s = .next s))

/-! ## The timescale -/

/-- R109, R111, R113: an accepted TS_START in IMMEDIATE mode starts the timescale at the value given; in the other modes it arms the start. R109,
R110: an armed start executes with its value, PPS_DELAY or half the round trip of the link added, and the SCLK time since the edge or mark at the
rate in force. -/
def Obligations.TsStartArmsAndExecutes : Prop :=
  ((∀ h (v : BitVec 96) s, Taken h 0x0401 s → s.ts.st = .stopped → dtfOk v.toNat = true → s.domOn pdRef = true →
     Completes (.tsStart h 0 v) s fun t => Answered h 0x0401 .ok t ∧ t.ts.st ≠ .stopped ∧ t.ts.armed = none ∧
       t.ts.dts = linOf v.toNat * 2 ^ 46 % dtsMod) ∧
   (∀ h (v : BitVec 96) s, Taken h 0x0401 s → s.ts.st = .stopped → dtfOk v.toNat = true → s.domOn pdRef = true →
     exec (.tsStart h 1 v) s = .next (((s.taken h).modTs fun t => { t with armed := some (.pps (linOf v.toNat)) }).reply h 0x0401 .ok)) ∧
   (∀ h (v : BitVec 96) s, Taken h 0x0401 s → s.ts.st = .stopped → dtfOk v.toNat = true → s.domOn pdRef = true →
     exec (.tsStart h 2 v) s = .next (((s.taken h).modTs fun t => { t with armed := some .cascade }).reply h 0x0401 .ok)) ∧
   (∀ h mode (v : BitVec 96) s, Taken h 0x0401 s → s.ts.st ≠ .stopped →
     exec (.tsStart h mode v) s = .next ((s.taken h).reply h 0x0401 (.fail .tsRunning)))) ∧
  (let counter (s : State) (v : Int) (d : Nat) : Int :=
     (v * 2 ^ 46 + roundDiv ((d : Int) * (2 ^ 64 + s.pi P.tsRateFixed + s.ref.corr)) (2 ^ 18)) % (dtsMod : Int)
   ∀ lead d s, s.ts.st = .stopped → s.domOn pdRef = true →
     (∀ v : Nat, s.ts.armed = some (.pps v) → Completes (.tsStartExecute lead d) s fun t =>
       t.ts.st ≠ .stopped ∧ t.ts.armed = none ∧ (t.ts.dts : Int) = counter s ((v : Int) + s.pi P.ppsDelay) d) ∧
     (s.ts.armed = some .ppsAuto → Completes (.tsStartExecute lead d) s fun t =>
       t.ts.st ≠ .stopped ∧ t.ts.armed = none ∧ (t.ts.dts : Int) = counter s (linOf (s.pv P.tsStartVal) + s.pi P.ppsDelay) d) ∧
     (s.ts.armed = some .cascade → Completes (.tsStartExecute lead d) s fun t =>
       t.ts.st ≠ .stopped ∧ t.ts.armed = none ∧ (t.ts.dts : Int) = counter s (linOf lead.toNat + s.cas.half.getD 0) d) ∧
     (s.ts.armed = none → exec (.tsStartExecute lead d) s = .next s))

/-- R112, R124: TS_STOP stops the timescale in SURVEY, and only there; TS_HOLD coasts a LOCKED timescale, and TS_RELEASE ends the hold. -/
def Obligations.TsStopHoldRelease : Prop :=
  (∀ h s, Taken h 0x0402 s → s.pwr.mode = .survey → Completes (.tsStop h) s fun t => Answered h 0x0402 .ok t ∧
    t.ts.st = .stopped ∧ t.ts.armed = none ∧ (s.ts.st ≠ .stopped → t.ts.rate = 0 ∧ t.ts.o = 0 ∧ t.ts.trav = .init)) ∧
  (∀ h s, Taken h 0x0402 s → s.pwr.mode ≠ .survey → exec (.tsStop h) s = .next ((s.taken h).reply h 0x0402 (.fail .mode))) ∧
  (∀ h s, Taken h 0x0405 s → s.ts.st = .locked → Completes (.tsHold h) s fun t => Answered h 0x0405 .ok t ∧
    t.ts.st = .coasting ∧ t.ts.forced = true ∧ t.ts.trav.pHold = true ∧ t.ts.tEntry = readDts s.ts.dts) ∧
  (∀ h s, Taken h 0x0405 s → s.ts.st ≠ .locked → exec (.tsHold h) s = .next ((s.taken h).reply h 0x0405 (.fail .mode))) ∧
  (∀ h s, Taken h 0x0406 s → s.ts.st = .coasting →
    exec (.tsRelease h) s = .next (((s.taken h).modTs fun t => { t with forced := false }).reply h 0x0406 .ok)) ∧
  (∀ h s, Taken h 0x0406 s → s.ts.st ≠ .coasting → exec (.tsRelease h) s = .next ((s.taken h).reply h 0x0406 (.fail .mode)))

/-- R121, R122, R127, R258, R261, R264: an offset or an adjustment accepted moves P_CMD by the difference or the amount and counts one request; in
COASTING and while STOPPED an offset is stored without a slew. -/
def Obligations.TsRequestsMovePhaseCommand : Prop :=
  (∀ h o s, Taken h 0x0403 s → tivOk o = true → s.ts.role = .bnd → (h.force = true ∨ ((o - s.ts.o).natAbs : Int) ≤ s.pi P.tsOfsStepMax) →
    (s.ts.st = .coasting ∨ s.ts.st = .stopped) →
    exec (.tsSetOffset h o) s = .next (((s.taken h).modTs fun t => { t with o := o }).reply h 0x0403 .ok)) ∧
  (∀ h o s, Taken h 0x0403 s → tivOk o = true → s.ts.role = .bnd → (h.force = true ∨ ((o - s.ts.o).natAbs : Int) ≤ s.pi P.tsOfsStepMax) →
    s.ts.st ≠ .coasting → s.ts.st ≠ .stopped → s.tsRange (o - s.ts.o) = false →
    Completes (.tsSetOffset h o) s fun t => Answered h 0x0403 .ok t ∧ t.ts.o = o ∧
      t.ts.trav.pCmd = s.ts.trav.pCmd + (o - s.ts.o) ∧ t.ts.trav.reqN = (s.ts.trav.reqN + 1) % 2 ^ 32) ∧
  (∀ h o s, Taken h 0x0403 s → tivOk o = true → s.ts.role ≠ .bnd →
    exec (.tsSetOffset h o) s = .next ((s.taken h).reply h 0x0403 (.fail .mode))) ∧
  (∀ h d s, Taken h 0x0404 s → tivOk d = true → s.ts.st = .free → s.tsRange d = false →
    Completes (.tsAdjust h d) s fun t => Answered h 0x0404 (.res ((s.ts.trav.reqN + 1) % 2 ^ 32)) t ∧
      t.ts.trav.pCmd = s.ts.trav.pCmd + d ∧ t.ts.trav.reqN = (s.ts.trav.reqN + 1) % 2 ^ 32) ∧
  (∀ h d s, Taken h 0x0404 s → tivOk d = true → s.ts.st ≠ .free →
    exec (.tsAdjust h d) s = .next ((s.taken h).reply h 0x0404 (.fail .tsServo)))

/-- R41, R124, R125, R849, R898: silence of a servoed timescale's upstream coasts it, where BND_CH has been silent for UP_LOSS_T or the follower's
sets have stopped; a qualified upstream takes it out of COASTING unless the host holds it; a role that is written waits for the second mark at
which ROLE_CHANGE comes. -/
def Obligations.TsUpstreamAndRole : Prop :=
  (∀ s, (s.ts.role = .fol ∨ s.ts.role = .bnd ∧ s.bndSilent = true) → s.ts.upOnce = true → (s.ts.st = .acquiring ∨ s.ts.st = .locked) →
    Completes .upLossT s fun t => t.ts.st = .coasting ∧ t.ts.forced = false ∧ (s.ts.role = .bnd → t.ts.bndRun = 0 ∧ t.ts.bndLast = none)) ∧
  (∀ s, s.bndSilent = false → s.ts.role ≠ .fol → exec .upLossT s = .next s) ∧
  (∀ s, s.bndSilent = true → s.ts.role = .gm → exec .upLossT s = .next { s with ts := { s.ts with bndRun := 0, bndLast := none } }) ∧
  (∀ s, s.ts.st = .coasting → s.upQual = true → s.ts.forced = false →
    Completes .hoQual s fun t => t.ts.st = .acquiring ∧ t.ts.trav.pHold = false ∧ t.ts.drift = 0 ∧
      t.ts.srv.base = s.ts.srv.base + s.ts.driftWord ∧ t.ts.srv.i1 = t.ts.srv.base ∧ t.ts.srv.i2 = 0) ∧
  (∀ s, (s.ts.st ≠ .coasting ∨ s.upQual = false ∨ s.ts.forced = true) → exec .hoQual s = .next s) ∧
  (∀ r s, s.ts.rolePend = some r → Completes .roleChange s fun t => t.ts.role = r ∧ t.ts.rolePend = none) ∧
  (∀ r s, s.cas.rolePend = some r → Completes .roleChange s fun t => t.cas.role = r ∧ t.cas.rolePend = none) ∧
  (∀ s, s.ts.rolePend = none → s.cas.rolePend = none → exec .roleChange s = .next s)

/-- R267, R272, R276, R387, R754: on an edge of the tick grid, while RES is not zero and no pause acts, an engine whose lease allows it advances
the traverse to the present and shows the realised offset; a timescale job that waits carries the tick out, and off the grid none falls due. R128,
R129: the predictor is stored as fitted, with HO_MODEL = LONG the surer drift of the G6 fit. R132: in COASTING the bound U(t) = 2σ_a·t + σ_d·t² is
formed every 60 s, rounded to nearest (log 12), and not before. R134 to R137, R821: an EXT period writes the clamped code, or skips while the port
is busy. -/
def Obligations.TsTimerEvents : Prop :=
  (∀ e s, s.engReady = true → s.onTick = true → s.ts.st ≠ .stopped → s.ts.trav.res ≠ 0 → s.ts.trav.paused = false →
    (upTo 32).any (fun e => (s.eng e).q.any (·.chan = none)) = false → s.homeTs = some e → s.leaseOk e .tick = true →
    Completes .tsTick s fun t => t.ts.srv.adv = (if dtsDiff s.ts.dts s.ts.srv.adv ≤ 0 then s.ts.srv.adv else s.ts.dts) ∧ t.ts.dts = s.ts.dts ∧
      t.ts.lease = some e ∧ t.latchOf 7 = BitVec.ofNat 128 (toBits 64 t.ts.srv.oReal)) ∧
  (∀ s, s.engReady = true → s.onTick = true → s.ts.st ≠ .stopped → s.ts.trav.res ≠ 0 → s.ts.trav.paused = false →
    (upTo 32).any (fun e => (s.eng e).q.any (·.chan = none)) = true → exec .tsTick s = .next { s with ts := { s.ts with tickDue := true } }) ∧
  (∀ s, (s.engReady = false ∨ s.onTick = false ∨ s.ts.st = .stopped ∨ s.ts.trav.res = 0 ∨ s.ts.trav.paused = true) → exec .tsTick s = .next s) ∧
  (∀ a d sa sd cover s, s.ts.st ≠ .stopped → s.pv P.hoModel ≠ 1 → exec (.hoPredictorUpdate a d sa sd cover) s = .next { s with
    ts := { s.ts with hoA := a, hoD := d, sigA := sa, sigD := sd, dValid := decide (s.pv P.hoFitMin ≤ cover) } }) ∧
  (∀ a d sa sd d' sd' cover s, s.ts.st ≠ .stopped → s.pv P.hoModel = 1 → s.g6Slope = some (d', sd') →
    exec (.hoPredictorUpdate a d sa sd cover) s = .next { s with ts := { s.ts with
      hoA := a, hoD := if sd' < sd then d' else d, sigA := sa, sigD := min sd sd', dValid := decide (s.pv P.hoFitMin ≤ cover) } }) ∧
  (∀ s, s.ts.st = .coasting → 60 * secU * (s.ts.boundN + 1) ≤ (s.now + linMod - s.ts.tEntry) % linMod → Completes .hoBound s fun t =>
    t.ts = { s.ts with
      boundN := s.ts.boundN + 1
      u := roundDiv (((2 * s.ts.sigA * ((s.now + linMod - s.ts.tEntry) % linMod) * 2 ^ 16 * secU
        + s.ts.sigD * ((s.now + linMod - s.ts.tEntry) % linMod) * ((s.now + linMod - s.ts.tEntry) % linMod) : Nat) : Int)) (2 ^ 80 * secU) }) ∧
  (∀ s, (s.ts.st ≠ .coasting ∨ (s.now + linMod - s.ts.tEntry) % linMod < 60 * secU * (s.ts.boundN + 1)) → exec .hoBound s = .next s) ∧
  (∀ b s, s.extActive = true → s.pi P.extGain ≠ 0 → s.tests.any (·.kind = 5) = false → s.per.q = [] →
    (dacEntry (s.pv P.extBits) (s.extCode b).1).ok = true →
    Completes (.extPeriod b) s fun t => t.ext = { s.ext with code := (s.extCode b).1 } ∧ t.per.q = [dacEntry (s.pv P.extBits) (s.extCode b).1] ∧
      t.per.gpio = setBit 3 (s.pv P.extSel) false) ∧
  (∀ b s, s.extActive = true → s.pi P.extGain ≠ 0 → (s.tests.any (·.kind = 5) = true ∨ s.per.q ≠ []) →
    exec (.extPeriod b) s = .next { s with ext := { s.ext with skip := satAdd 32 1 s.ext.skip } })

/-! ## Master loops and the Graticule -/

/-- R161, R169, R180: a loop in an attempt or in SCAN locks at the tuning word of the newest cycle once the ML_LKCNT newest cycles lie within
ML_LKWIN; the outputs leave the bypass selection and the VCLK island its reset. With fewer such cycles, in any other state of the loop, with a
loop that a scan has opened or in a quadrant without power nothing follows. R162, R163, R164, R178: of the loss detectors that fire in the trace
the first in table order is the cause; the loss is counted, puts the octant's outputs on bypass and the VCLK island in reset, and starts relock.
Where none fires only TUNE moves on. A run of out-of-window cycles that ends within the window before it reaches ML_LOSSCNT only counts, as a
fault of the loop. A loop not locked, or opened by a scan, has nothing to lose. -/
def Obligations.MasterLoopLocksAndLosses : Prop :=
  ((∀ (k : OctIx) cyc s, ((s.oct k).loop.st = .acq ∨ (s.oct k).loop.st = .scan) → (s.oct k).loop.opened = none → s.domOn (pdQ (quadOf k)) = true →
     s.mlPar k P.mlLkcnt ≤ runOf (pdWithin (s.mlInt k P.mlLkwin)) cyc →
     Completes (.mlLock k cyc) s fun t => (t.oct k).loop.st = .locked ∧ (∀ c, cyc.getLast? = some c → (t.oct k).loop.tune = c.tune) ∧
       (t.oct k).loop.byp = false ∧ (t.oct k).loop.hold = false ∧ (t.oct k).vclkRst = false) ∧
   (∀ (k : OctIx) cyc s, (((s.oct k).loop.st ≠ .acq ∧ (s.oct k).loop.st ≠ .scan) ∨ (s.oct k).loop.opened ≠ none ∨
       s.domOn (pdQ (quadOf k)) = false ∨ runOf (pdWithin (s.mlInt k P.mlLkwin)) cyc < s.mlPar k P.mlLkcnt) →
     exec (.mlLock k cyc) s = .next s)) ∧
  ((∀ (k : OctIx) tr cause s, (s.oct k).loop.st = .locked → (s.oct k).loop.opened = none → (s.mlCauses k tr).head? = some cause →
     Completes (.mlLoss k tr) s fun t =>
       (t.oct k).loop.lossN = satAdd 16 1 (s.oct k).loop.lossN ∧ (t.oct k).loop.cause = cause ∧ (t.oct k).loop.byp = true ∧
       (t.oct k).vclkRst = true ∧ ((t.oct k).loop.st = .acq ∨ (t.oct k).loop.st = .scan ∨ (t.oct k).loop.st = .retired)) ∧
   (∀ (k : OctIx) tr s, (s.oct k).loop.st = .locked → (s.oct k).loop.opened = none → s.mlCauses k tr = [] →
     exec (.mlLoss k tr) s = .next (s.modLoop k fun l => { l with tune := (tr.cyc.getLast?.map (·.tune)).getD l.tune })) ∧
   (∀ (k : OctIx) tr s, ((s.oct k).loop.st ≠ .locked ∨ (s.oct k).loop.opened ≠ none) → exec (.mlLoss k tr) s = .next s) ∧
   (∀ (k : OctIx) (pre : List PdCyc) (last : PdCyc) s, (s.oct k).loop.st = .locked → (s.oct k).loop.opened = none →
     pdWithin (s.mlInt k P.mlLosswin) last = true →
     let n := runOf (fun c => !pdWithin (s.mlInt k P.mlLosswin) c) pre
     0 < n → n < s.mlPar k P.mlLosscnt → Completes (.mlExcursion k (pre ++ [last])) s fun t =>
       (t.oct k).loop.excurN = satAdd 8 1 (s.oct k).loop.excurN ∧ (t.oct k).loop.st = .locked ∧ (kindLoop, k.val, 2, s.now) ∈ t.flt) ∧
   (∀ (k : OctIx) (pre : List PdCyc) (last : PdCyc) s, ((s.oct k).loop.st ≠ .locked ∨ (s.oct k).loop.opened ≠ none ∨
       pdWithin (s.mlInt k P.mlLosswin) last = false ∨ runOf (fun c => !pdWithin (s.mlInt k P.mlLosswin) c) pre = 0 ∨
       s.mlPar k P.mlLosscnt ≤ runOf (fun c => !pdWithin (s.mlInt k P.mlLosswin) c) pre) →
     exec (.mlExcursion k (pre ++ [last])) s = .next s))

/-- R164, R166, R167: an attempt that runs out of time goes to the next band of the plan, then to SCAN, band by band; with none left and no retune
to fall back from the loop is retired and its retirement is stored. R168: a loop that waited in HOLD goes through its plan anew. R157, R760: a
sensor reading is the octant's temperature; one more than 1 °C from the reading of the plan replans a powered loop, whose plan holds at most three
bands, and a nearer one keeps the plan. R185: a restoring commit that failed is placed first in the store queue, behind a store in progress; with
none that failed, or with one queued already, nothing follows. R173: a switch whose present source has stopped is forced by the edges of Y and
counted in its octant, and one that Y shows no edges for goes on waiting. R901: after 256 ACLK cycles without an edge of X the ACLK side forces X
off, counted in the same way; the output is low until Y shows edges. -/
def Obligations.LoopPlansAndForcedSwitches : Prop :=
  (∀ (k : OctIx) s, s.domOn (pdQ (quadOf k)) = true →
     (∀ b u r, (s.oct k).loop.st = .acq → (s.oct k).loop.hold = false → (s.oct k).loop.plan.drop ((s.oct k).loop.attempt + 1) = (b, u) :: r →
       exec (.mlAcqT k) s = .next (s.modLoop k fun l => { l with attempt := l.attempt + 1, band := b, tune := u })) ∧
     (∀ b u r, (s.oct k).loop.st = .acq → (s.oct k).loop.hold = false → (s.oct k).loop.plan.drop ((s.oct k).loop.attempt + 1) = [] →
       s.scanList k = (b, u) :: r →
       exec (.mlAcqT k) s = .next (s.modLoop k fun l => { l with st := .scan, band := b, tune := u, scan := r, hold := false })) ∧
     (∀ b u r, (s.oct k).loop.st = .acq → (s.oct k).loop.hold = true → (s.oct k).loop.plan = (b, u) :: r →
       exec (.mlAcqT k) s = .next (s.modLoop k fun l => { l with attempt := 0, band := b, tune := u, hold := false })) ∧
     (∀ b u r, (s.oct k).loop.st = .scan → (s.oct k).loop.scan = (b, u) :: r →
       exec (.mlAcqT k) s = .next (s.modLoop k fun l => { l with band := b, tune := u, scan := r, hold := false })) ∧
     ((s.oct k).loop.st = .scan → (s.oct k).loop.scan = [] → (s.oct k).loop.retune = none → Completes (.mlAcqT k) s fun t =>
       (t.oct k).loop.st = .retired ∧ ∃ r, r.ch = .retire kindLoop k 0x20 ∧ t.store.q = s.store.q ++ [r]) ∧
     (∀ r, (s.oct k).loop.st = .scan → (s.oct k).loop.scan = [] → (s.oct k).loop.retune = some r →
       ((s.oct k).loop.ni ≠ r.ni ∨ (s.oct k).loop.nf ≠ r.nf) → Completes (.mlAcqT k) s fun t =>
         (t.oct k).loop.ni = r.ni ∧ (t.oct k).loop.nf = r.nf ∧ (t.oct k).loop.retune = none ∧
         ∃ x ∈ t.store.q, x.ch = .restore k r.ni r.nf ∧ x.h = some r.h)) ∧
  ((∀ (k : OctIx) temp s, s.domOn (pdQ (quadOf k)) = true → degC < (temp - (s.oct k).loop.planT).natAbs → (s.oct k).loop.st ≠ .off →
     Completes (.relockPlan k temp) s fun t =>
       (t.oct k).temp = temp ∧ (t.oct k).loop.planT = temp ∧ (t.oct k).loop.plan = t.planFor k (s.oct k).loop.ni (s.oct k).loop.nf ∧
       (t.oct k).loop.plan.length ≤ 3) ∧
   (∀ (k : OctIx) temp s, s.domOn (pdQ (quadOf k)) = true → ((temp - (s.oct k).loop.planT).natAbs ≤ degC ∨ (s.oct k).loop.st = .off) →
     exec (.relockPlan k temp) s = .next (s.modOct k fun o => { o with temp := temp })) ∧
   (∀ (k : OctIx) temp s, s.domOn (pdQ (quadOf k)) = false → exec (.relockPlan k temp) s = .next s) ∧
   (∀ (k : OctIx) (n : Nat) s, (s.oct k).loop.restore = true → s.restoring k = false →
     ((s.store.prog.isSome = true ∨ s.store.stage ≠ 0 ∨ s.store.att ≠ 0) ∧ n = 1 ∨
       s.store.prog.isSome = false ∧ s.store.stage = 0 ∧ s.store.att = 0 ∧ n = 0) →
     Completes (.retuneRestoreRetry k) s fun t =>
       Only [.store] s t ∧ ∃ r, r.ch = .restore k (s.oct k).loop.ni (s.oct k).loop.nf ∧ r.h = none ∧
         t.store.q = s.store.q.take n ++ r :: s.store.q.drop n) ∧
   (∀ (k : OctIx) s, ((s.oct k).loop.restore = false ∨ s.restoring k = true) → exec (.retuneRestoreRetry k) s = .next s)) ∧
  (let count (c : Ch) (s t : State) : Prop := (t.oct (octOf c)).loop.forcedN = satAdd 8 1 (s.oct (octOf c)).loop.forcedN
   (∀ (c : Ch) y s, (s.chan c).sw = some (y, false) → s.hasEdges c y = true → Completes (.forcedSwitch c) s fun t =>
     (t.chan c).out = y ∧ (t.chan c).sw = none ∧ count c s t) ∧
   (∀ (c : Ch) y s, (s.chan c).sw = some (y, false) → s.hasEdges c y = false → exec (.forcedSwitch c) s = .next s) ∧
   (∀ (c : Ch) y (e : Bool) s, (s.chan c).sw = some (y, false) → y ≠ .stop → y ≠ .none → (e = false ∨ s.hasEdges c y = false) →
     Completes (.switchNoEdge c e) s fun t => (t.chan c).out = .stop ∧ (t.chan c).sw = some (y, true) ∧ count c s t) ∧
   (∀ (c : Ch) y s, (s.chan c).sw = some (y, false) → s.hasEdges c y = true → Completes (.switchNoEdge c true) s fun t =>
     (t.chan c).out = y ∧ (t.chan c).sw = none ∧ count c s t) ∧
   (∀ (c : Ch) y s, (s.chan c).sw = some (y, false) → (y = .stop ∨ y = .none) → Completes (.switchNoEdge c false) s fun t =>
     (t.chan c).out = y ∧ (t.chan c).sw = none ∧ count c s t) ∧
   (∀ (c : Ch) e s, ((s.chan c).sw = none ∨ ∃ y, (s.chan c).sw = some (y, true)) →
     exec (.forcedSwitch c) s = .next s ∧ exec (.switchNoEdge c e) s = .next s))

/-- R183, R184, R187: ML_RETUNE outside SURVEY, SERVICE and HOLDOVER is refused with MODE, and a feedback outside 40 to 52 with RANGE; one that
its checks pass is stored before it takes place, or takes place at once where it names the feedback in force. -/
def Obligations.RetuneChecksThenStores : Prop :=
  (∀ h (k : OctIx) ni nf s, Taken h 0x0340 s → s.pwr.mode ≠ .survey → s.pwr.mode ≠ .service → s.pwr.mode ≠ .holdover →
    exec (.mlRetune h k ni nf) s = .next ((s.taken h).reply h 0x0340 (.fail .mode))) ∧
  (∀ h (k : OctIx) (ni : Fin 256) (nf : BitVec 24) s, Taken h 0x0340 s → (s.pwr.mode = .survey ∨ s.pwr.mode = .service ∨ s.pwr.mode = .holdover) →
    (ni.val * 2 ^ 24 + nf.toNat < 40 * 2 ^ 24 ∨ 52 * 2 ^ 24 < ni.val * 2 ^ 24 + nf.toNat) →
    exec (.mlRetune h k ni nf) s = .next ((s.taken h).reply h 0x0340 (.fail .range))) ∧
  (∀ h (k : OctIx) (ni : Fin 256) (nf : BitVec 24) s, Taken h 0x0340 s → s.retuneErr k ni nf.toNat = none →
    ((s.oct k).loop.ni ≠ ni.val ∨ (s.oct k).loop.nf ≠ nf.toNat) →
    Completes (.mlRetune h k ni nf) s (Queued h 0x0340 (.retune k ni nf.toNat) s)) ∧
  (∀ h (k : OctIx) (ni : Fin 256) (nf : BitVec 24) b u r s, Taken h 0x0340 s → s.retuneErr k ni nf.toNat = none →
    (s.oct k).loop.ni = ni.val → (s.oct k).loop.nf = nf.toNat → (s.oct k).loop.plan = (b, u) :: r →
    Completes (.mlRetune h k ni nf) s fun t => (t.oct k).loop.st = .acq ∧ (t.oct k).loop.band = b ∧ (t.oct k).loop.tune = u ∧
      (t.oct k).loop.byp = true ∧ (t.oct k).vclkRst = true ∧ (t.oct k).loop.retune = some ⟨h, ni, nf.toNat⟩)

/-- R153 to R155: GRAT_SCAN begins in SURVEY and answers when its result is stored; the scan ends once every band it covers has its counts, and
not before. R11, R74, R149: an edit is stored with source HOST (3) where its reserved bits are 0, its TEMP is no marker, and the points of its
band, those that stand and those that the waiting changes leave, stay in order; reserved bits are refused with BADARG, the rest with RANGE.
Nothing of the Graticule changes before the commit. That the order is checked on the waiting changes too is the model's choice (log 81). -/
def Obligations.GraticuleChangesAreStored : Prop :=
  let edit (w : W128) : Nat := gSet 92 4 3 w.toNat
  let fits (k : OctIx) (band : Fin 64) (point : Fin 4) (w : W128) (s : State) : Prop :=
    gTemp (edit w) ≠ -32768 ∧ gOrder ((s.gPts k band).set point (edit w)) = true ∧ gOrder ((s.gPtsNext k band).set point (edit w)) = true
  (∀ h mask s, Taken h 0x0505 s → s.pwr.mode = .survey → Completes (.gratScan h mask) s fun t =>
    t.grat.scans = s.grat.scans ++ [(some h, mask.toNat)] ∧ t.grat.ent = s.grat.ent) ∧
  (∀ h mask s, Taken h 0x0505 s → s.pwr.mode ≠ .survey →
    exec (.gratScan h mask) s = .next ((s.taken h).reply h 0x0505 (.fail .mode))) ∧
  (∀ rs o mask q s, s.grat.scans = (o, mask) :: q → (scanBands mask).all (fun e => (bandCount rs e.1 e.2).isSome) = true →
    Completes (.bandScanDone rs) s fun t =>
      t.grat.scans = q ∧ t.grat.ent = s.grat.ent ∧ ∃ r, r.h = o ∧ r.ch = .grat (s.scanResult mask rs).1 ∧ t.store.q = s.store.q ++ [r]) ∧
  (∀ rs o mask q s, s.grat.scans = (o, mask) :: q → (scanBands mask).all (fun e => (bandCount rs e.1 e.2).isSome) = false →
    exec (.bandScanDone rs) s = .next s) ∧
  (∀ h (k : OctIx) (band : Fin 64) (point : Fin 4) w s, Taken h 0x0A10 s → gReserved w.toNat = 0 → fits k band point w s →
    Completes (.gratEdit h k band point w) s
      (Queued h 0x0A10 (.grat [(gratIx k band point, BitVec.ofNat 128 (edit w))]) s)) ∧
  (∀ h (k : OctIx) (band : Fin 64) (point : Fin 4) w s, Taken h 0x0A10 s → gReserved w.toNat ≠ 0 →
    exec (.gratEdit h k band point w) s = .next ((s.taken h).reply h 0x0A10 (.fail .badarg))) ∧
  (∀ h (k : OctIx) (band : Fin 64) (point : Fin 4) w s, Taken h 0x0A10 s → gReserved w.toNat = 0 → ¬ fits k band point w s →
    exec (.gratEdit h k band point w) s = .next ((s.taken h).reply h 0x0A10 (.fail .range)))

/-! ## Synthesis -/

/-- R194 to R201, R400: a correction of the slot in force becomes DELTA at its boundary, limited so that the ratio stays from 2 to 4096 - 2^-64
and DELTA within 76 bits, and counts where it was limited; one of another slot is stale and changes nothing else. A record waits while one of the
same channel that another engine has written before it waits, and while the VCLK island is in reset. -/
def Obligations.CorrectionBecomesDelta : Prop :=
  (∀ (nom : Nat) (delta : Int), (nom : Int) ≤ ratioMax →
    ratioMin ≤ nom + limitDelta ratioMin nom delta ∧ nom + limitDelta ratioMin nom delta ≤ ratioMax ∧
    -(2 ^ 75) ≤ limitDelta ratioMin nom delta ∧ limitDelta ratioMin nom delta < 2 ^ 75) ∧
  (∀ (k : OctIx) (lane : EngIx) bnd same c slot delta q s, (s.oct k).vclkRst = false →
    takeLane lane (s.oct k).fcw = some (.corr c slot delta, q) → laneBehind lane c (s.oct k).fcw = false →
    (same = false ∨ (s.chan (s.divOf (s.userOf c))).div.trig = []) →
    (slot = (s.chan c).div.act → Completes (.correctionRecord k lane bnd same) s fun t => (t.oct k).fcw = q ∧
      (t.chan c).div = { (s.chan c).div.runTo bnd with
        delta := limitDelta ratioMin (s.chan c).div.nom delta
        clamp := (s.chan c).div.clamp || decide (limitDelta ratioMin (s.chan c).div.nom delta ≠ delta) } ∧
      (t.chan c).cnt.clamp = if limitDelta ratioMin (s.chan c).div.nom delta = delta then (s.chan c).cnt.clamp
        else satAdd 32 1 (s.chan c).cnt.clamp) ∧
    (slot ≠ (s.chan c).div.act → Completes (.correctionRecord k lane bnd same) s fun t => (t.oct k).fcw = q ∧
      (t.chan c).div = (s.chan c).div ∧ (t.chan c).cnt.stale = satAdd 32 1 (s.chan c).cnt.stale)) ∧
  (∀ (k : OctIx) (lane : EngIx) bnd same c slot delta q s, takeLane lane (s.oct k).fcw = some (.corr c slot delta, q) →
    (laneBehind lane c (s.oct k).fcw = true ∨ (s.oct k).vclkRst = true) → exec (.correctionRecord k lane bnd same) s = .next s)

/-- R197, R219, R228, R230: a slot load fills its slot, and the welt's copy of it while the channel is ON_WELT; of the slot in force of a divider
that counts, the new nominal ratio starts its ramp at the boundary from the ratio then in force. A ramp that ends leaves none, and is reported to
the channel's engine while the hop queue takes reports. R209, R236, R237: a table of calibration codes that waits takes effect whole; the marker
pulse of a second is scheduled for the first output edge at or after it in TRACK, beside the pulse in progress, and counted as missed outside,
where no pulse stands. -/
def Obligations.SlotsTablesAndPulses : Prop :=
  ((∀ (k : OctIx) bnd own c slot v q s, (s.oct k).vclkRst = false → takeLane cobLane (s.oct k).fcw = some (.load c slot v, q) →
     let x := s.chan (s.divOf c)
     Completes (.slotLoad k bnd own) s fun t => (t.oct k).fcw = q ∧
       (t.chan c).div.slots = (s.chan c).div.slots.put slot v ∧ (t.chan (s.divOf c)).div.slots = x.div.slots.put slot v ∧
       (slot = x.div.act → x.st.divides = true →
         (t.chan (s.divOf c)).div.ramp =
           rampOf ((x.div.runTo bnd).nomBefore (x.div.runTo bnd).bnd) v.nom (s.up c P.hopRamp) (x.div.runTo bnd).bnd) ∧
       (slot = x.div.act → x.st.divides = false → (t.chan (s.divOf c)).div.k = v.k) ∧
       (slot ≠ x.div.act → (t.chan (s.divOf c)).div.ramp = x.div.ramp ∧ (t.chan (s.divOf c)).div.k = x.div.k)) ∧
   (∀ (c : Ch) bnd r s, (s.chan c).div.ramp = some r → Completes (.hopRampEnd c bnd) s fun t =>
     (t.chan c).div = { (s.chan c).div.runTo bnd with ramp := none } ∧
     ((s.oct (octOf c)).xHop.present = true → (s.oct (octOf c)).xHop.full = false → (t.oct (octOf c)).hopQ =
       (s.oct (octOf c)).hopQ ++ [⟨s.userOf c, (s.chan c).div.act, ((s.chan c).div.runTo bnd).bnd, some r, true, c⟩])) ∧
   (∀ (c : Ch) bnd s, (s.chan c).div.ramp = none → exec (.hopRampEnd c bnd) s = .next s)) ∧
  ((∀ (c : Ch) d s, (s.chan c).div.dtcNew = some d →
     exec (.dtcTableApply c) s = .next (s.modDiv c fun x => { x with dtc := d, dtcNew := none })) ∧
   (∀ (c : Ch) s, (s.chan c).div.dtcNew = none → exec (.dtcTableApply c) s = .next s) ∧
   (∀ (c : Ch) (sec : BitVec 48) a s, (s.up c P.mrkMode = 3 ∨ s.up c P.mrkMode = 4) → (s.chan c).st = .track → (s.chan c).srv.anchor = some a →
     exec (.outPpsPulse c sec) s = .next (s.modChan c fun x => { x with pulse := s.pulseEdge c sec.toNat a :: x.pulse.take 1 })) ∧
   (∀ (c : Ch) (sec : BitVec 48) s, (s.up c P.mrkMode = 3 ∨ s.up c P.mrkMode = 4) → ((s.chan c).st ≠ .track ∨ (s.chan c).srv.anchor = none) →
     Completes (.outPpsPulse c sec) s fun t => (t.chan c).pulse = [] ∧ (t.chan c).cnt.miss = satAdd 32 1 (s.chan c).cnt.miss) ∧
   (∀ (c : Ch) (sec : BitVec 48) s, s.up c P.mrkMode ≠ 3 → s.up c P.mrkMode ≠ 4 → exec (.outPpsPulse c sec) s = .next s))

/-- R222 to R226, R529, R532: a write of HOP_SEL to another slot, CH_HOP and a marker latch one trigger in the divider that serves the channel,
while that divider runs and the way to it is open; in IDLE and BYPASS the trigger of a slot that can be hopped to is kept, and counts as lost. A
slot that is invalid or of another post-divider is refused with CONFLICT, a way that is absent or full with ABSENT. R223 to R233: the oldest
trigger selects its slot at a boundary, starts the ramp from the ratio then in force and counts in HOP_N; one whose slot is invalid or of another
post-divider, or that finds two reports of the channel waiting, is not executed, and counts in HOP_LOST. -/
def Obligations.HopsLatchAndApply : Prop :=
  (let runs (c : Nat) (s : State) : Prop :=
     (s.chan c).st ≠ .idle ∧ (s.chan c).st ≠ .bypass ∧ (s.chan c).st ≠ .retired ∧ (s.chan c).st ≠ .test
   let openWay (c : Nat) (s : State) : Prop := (s.oct (octOf c)).xSel.present = true ∧ (s.oct (octOf c)).xSel.full = false
   let can (c slot : Nat) (s : State) : Prop := ((s.chan (s.divOf c)).div.slot slot).valid = true ∧
     ((s.chan (s.divOf c)).div.slot slot).k = (s.chan (s.divOf c)).div.k
   (∀ (c : Fin 256) (slot : Fin 4) s, runs c s → openWay c s → slot.val ≠ (s.chan (s.divOf c)).div.act →
     Completes (.hopSelWrite c slot) s fun t => (t.chan c).div.sel = slot ∧
       (t.chan (s.divOf c)).div.trig = (s.chan (s.divOf c)).div.trig ++ [⟨false, slot⟩]) ∧
   (∀ (c : Fin 256) (slot : Fin 4) s, slot.val = (s.chan (s.divOf c)).div.act →
     exec (.hopSelWrite c slot) s = .next (s.modDiv c fun d => { d with sel := slot })) ∧
   (∀ (c : Fin 256) (slot : Fin 4) s, ((s.chan c).st = .idle ∨ (s.chan c).st = .bypass) → openWay c s →
     slot.val ≠ (s.chan c).div.act → can c slot s → Completes (.hopSelWrite c slot) s fun t => (t.chan c).div.sel = slot ∧
       (t.chan c).div.kept = some slot.val ∧ (t.chan c).div.trig = (s.chan c).div.trig ∧
       (t.chan c).div.hopLost = satAdd 4 1 (s.chan c).div.hopLost) ∧
   (∀ (c : Ch) s, runs c s → s.up c P.mrkMode = 2 → (s.oct (octOf c)).vclkRst = false → Completes (.mrkHopTrigger c false) s fun t =>
     (t.chan (s.divOf c)).div.trig = (s.chan (s.divOf c)).div.trig ++ [⟨true, 0⟩]) ∧
   (∀ (c : Ch) same s, s.up c P.mrkMode ≠ 2 → exec (.mrkHopTrigger c same) s = .next s) ∧
   (∀ h (c : Ch) (slot : Fin 4) s, Taken h 0x0303 s → runs c s → openWay c s → slot.val ≠ (s.chan (s.divOf c)).div.act → can c slot s →
     Completes (.chHop h c slot) s fun t => Answered h 0x0303 .ok t ∧
       (t.chan (s.divOf c)).div.trig = (s.chan (s.divOf c)).div.trig ++ [⟨false, slot⟩]) ∧
   (∀ h (c : Ch) (slot : Fin 4) s, Taken h 0x0303 s → slot.val ≠ (s.chan (s.divOf c)).div.act → openWay c s → ¬ can c slot s →
     Completes (.chHop h c slot) s fun t => Answered h 0x0303 ⟨.conflict, 0, slot, 0, []⟩ t ∧
       (t.chan c).div.hopLost = satAdd 4 1 (s.chan c).div.hopLost ∧ (t.chan (s.divOf c)).div.trig = (s.chan (s.divOf c)).div.trig) ∧
   (∀ h (c : Ch) (slot : Fin 4) s, Taken h 0x0303 s → slot.val ≠ (s.chan (s.divOf c)).div.act → ¬ openWay c s →
     exec (.chHop h c slot) s = .next (((s.taken h).selDrop (octOf c)).reply h 0x0303 (.fail .absent)))) ∧
  (∀ (c : Ch) bnd own n q s, (s.oct (octOf c)).vclkRst = false → (s.chan (s.divOf c)).div.trig = ⟨false, n⟩ :: q →
     let d := (s.chan (s.divOf c)).div
     let at_ := (s.chan (s.divOf c)).div.runTo bnd
     (d.canHop n = true → ((s.oct (octOf c)).hopQ.filter (·.ch = c.val)).length < 2 → (s.oct (octOf c)).hand = none →
       Completes (.hopApply c bnd own) s fun t => (t.chan (s.divOf c)).div.act = n ∧ (t.chan c).div.act = n ∧
         (t.chan (s.divOf c)).div.trig = q ∧ (t.chan c).div.hopN = satAdd 8 1 (s.chan c).div.hopN ∧
         (t.chan (s.divOf c)).div.bnd = at_.bnd ∧ (t.chan (s.divOf c)).div.acc = at_.acc ∧
         (t.chan (s.divOf c)).div.ramp = rampOf (at_.nomBefore at_.bnd) (d.slot n).nom (s.up c P.hopRamp) at_.bnd) ∧
     ((d.canHop n = false ∨ 2 ≤ ((s.oct (octOf c)).hopQ.filter (·.ch = c.val)).length) →
       Completes (.hopApply c bnd own) s fun t => (t.chan (s.divOf c)).div.act = d.act ∧
         (t.chan (s.divOf c)).div.trig = q ∧ (t.chan c).div.hopLost = satAdd 4 1 (s.chan c).div.hopLost))

/-! ## Phase -/

/-- R259, R263, R264, R396: a phase request that its checks pass joins its home engine's queue as a request job, refusals count in REQ_N_REFUSED;
applied, under the lease of its channel, it moves P_CMD by its amount, or to P_REAL, counts one request, and is answered with the residual it
leaves. A start request takes effect while the timescale runs in SERVICE or HOLDOVER (R43, R108, R444). That a full queue answers BUSY is the
model's choice (log 81). -/
def Obligations.PhaseRequests : Prop :=
  (∀ h (c : Ch) d e s, Taken h 0x0304 s → tivOk d = true → s.phaseMode c = false → (s.oct (octOf (s.actOf c))).xReq.present = true →
    s.homeOf (s.actOf c) = some e → (s.eng e).q.length < 16 →
    exec (.chPhaseAdj h c d) s = .next ((s.taken h).modEng e fun g => { g with q := g.q ++ [.req (s.actOf c) (.adj (some h) h.notify d)] })) ∧
  (∀ h (c : Ch) d e s, Taken h 0x0304 s → tivOk d = true → s.phaseMode c = false → (s.oct (octOf (s.actOf c))).xReq.present = true →
    s.homeOf (s.actOf c) = some e → 16 ≤ (s.eng e).q.length →
    Completes (.chPhaseAdj h c d) s fun t => Answered h 0x0304 (.fail .busy) t ∧
      (t.chan (s.actOf c)).cnt.qdrop = satAdd 16 1 (s.chan (s.actOf c)).cnt.qdrop) ∧
  (∀ h (c : Ch) d s, Taken h 0x0304 s → tivOk d = true → s.phaseMode c = true →
    exec (.chPhaseAdj h c d) s = .next (((s.taken h).count (s.actOf c) 10).reply h 0x0304 (.fail .mode))) ∧
  (∀ h (c : Ch) e s, Taken h 0x0305 s → s.phaseMode c = false → (s.oct (octOf (s.actOf c))).xReq.present = true →
    s.homeOf (s.actOf c) = some e → (s.eng e).q.length < 16 →
    exec (.chPhaseCancel h c) s = .next ((s.taken h).modEng e fun g => { g with q := g.q ++ [.req (s.actOf c) (.cancel (some h))] })) ∧
  (∀ (e : EngIx) c h n d l s, (s.eng e).retired = false → s.engReady = true → (s.eng e).q = .req c (.adj (some h) n d) :: l →
    s.leaseOk e (.req c (.adj (some h) n d)) = true → (s.chan c).st.phased = true → s.adjRange c d = false → h.door.val ≠ 6 →
    Completes (.requestJob e) s fun t => (t.eng e).q = l ∧ (t.chan c).lease = some e.val ∧ (t.chan c).trav.pCmd = (s.chan c).trav.pCmd + d ∧
      (t.chan c).trav.reqN = ((s.chan c).trav.reqN + 1) % 2 ^ 32 ∧
      Answered h 0x0304 ⟨.ok, 0, 0, ((s.chan c).trav.reqN + 1) % 2 ^ 32, [toBits 96 ((s.chan c).trav.res + d)]⟩ t) ∧
  (∀ (e : EngIx) c h l s, (s.eng e).retired = false → s.engReady = true → (s.eng e).q = .req c (.cancel (some h)) :: l →
    s.leaseOk e (.req c (.cancel (some h))) = true → (s.chan c).st.phased = true → h.door.val ≠ 6 →
    Completes (.requestJob e) s fun t => (t.eng e).q = l ∧ (t.chan c).trav.pCmd = (s.chan c).trav.pReal ∧
      (t.chan c).trav.reqN = ((s.chan c).trav.reqN + 1) % 2 ^ 32 ∧ Answered h 0x0305 (.res (((s.chan c).trav.reqN + 1) % 2 ^ 32)) t) ∧
  (∀ (e : EngIx) c l s, (s.eng e).retired = false → s.engReady = true → (s.eng e).q = .req c .start :: l →
    s.leaseOk e (.req c .start) = true → (s.chan c).st = .idle → s.ts.st ≠ .stopped → (s.pwr.mode = .service ∨ s.pwr.mode = .holdover) →
    Completes (.requestJob e) s fun t => (t.eng e).q = l ∧ (t.chan c).st = .acquire)

/-- R258, R272, R273: a traverse advanced towards P_CMD ends at P_CMD at the latest, and short of it takes the step exactly, in 2^-82 ns. -/
def Obligations.TraverseNeverPassesCommand : Prop :=
  ∀ (t : Trav) (d : Int), t.guard < 2 ^ 64 →
    let at_ (x : Trav) : Int := x.pReal * 2 ^ 64 + x.guard
    (t.advance d).guard < 2 ^ 64 ∧ (t.advance d).pCmd = t.pCmd ∧
    (0 ≤ d → at_ t ≤ t.pCmd * 2 ^ 64 → at_ (t.advance d) = min (at_ t + d) (t.pCmd * 2 ^ 64)) ∧
    (d ≤ 0 → t.pCmd * 2 ^ 64 ≤ at_ t → at_ (t.advance d) = max (at_ t + d) (t.pCmd * 2 ^ 64))

/-! ## Stamping -/

/-- R286 to R291, R297 to R305: a selected edge below the decimation only counts; at it, an edge at least 240 ns after the last one of its source
becomes a record in the core's holding register with the corrected stamp, its flags and no number yet. R304, R305: one too soon is dropped,
counted where the source has a count, and the next record carries GAP. Stamps are whole multiples of 2^-11 ns below 2^48 s. R545: while the
calibration strobe runs, the CAL_IN input makes no event. -/
def Obligations.EdgesBecomeRecords : Prop :=
  (∀ d (s : State), s.stampAt d % 128 = 0 ∧ s.stampAt d < linMod) ∧
  (∀ x fall tap vern core src welt s, s.srcOf x = some (core, src, welt) → s.ts.st ≠ .stopped → s.domOn (domOf x) = true → s.srcOn x = true →
    s.edgeSel fall x = true → (x = .dev 1 → s.strobe = false) →
    ((s.src src).dec + 1 < s.decOf x →
      exec (.tdcEvent x fall tap vern) s = .next (s.modSrc src fun y => { y with dec := y.dec + 1 })) ∧
    (let t := s.stampAt ((s.setFor core src (s.setOf core)).delay tap vern)
     s.decOf x ≤ (s.src src).dec + 1 →
     ((s.src src).last.all (fun l => decide ((ns240 : Int) ≤ stampDiff t l)) = true →
      (src % 4 = 1 → src < 0x800 → (s.core core).lastTxm = none) →
      (src % 4 = 2 → src < 0x800 → (s.core core).lastMrk.any (within3 t) = false) →
      (s.dll (dllOf x)).lock = true → (s.core core).fail = false → (0x800 ≤ src → s.refRetired = false) → (s.core core).held.length < 2 →
      Completes (.tdcEvent x fall tap vern) s fun u => (u.src src).dec = 0 ∧ (u.src src).gap = false ∧ (u.src src).last = some t ∧
        ∃ dl, (u.core core).held = (s.core core).held ++
          [⟨src, 0, ⟨fall, s.pwr.mode = .holdover, !(s.setOf core).valid, (s.src src).gap, welt⟩, t, dl⟩]) ∧
     ((s.src src).last.any (fun l => decide (stampDiff t l < ns240)) = true →
      Completes (.tdcEvent x fall tap vern) s fun u => (u.src src).dec = 0 ∧ (u.src src).gap = true ∧ u.cores = s.cores ∧
        (src < 0x800 → (u.chan (src / 4)).cnt.rate = satAdd 32 1 (s.chan (src / 4)).cnt.rate)))) ∧
  (∀ x fall tap vern s, (s.srcOf x = none ∨ s.ts.st = .stopped ∨ s.domOn (domOf x) = false ∨ s.srcOn x = false ∨ s.edgeSel fall x = false ∨
      x = .dev 1 ∧ s.strobe = true) →
    exec (.tdcEvent x fall tap vern) s = .next s)

/-- R60, R291, R306, R522, R529: the record that is served next, its conversion over and its source still on, enters its stamp queue with the
number of its source, which advances modulo 4,096; a full queue holds it back, and an absent one drops it with its number spent. A record whose
source has been switched off since goes without a number. R293 to R295, R461, R463: a DLL locks and loses lock; one not locked in time fails, and
its octant's stamping (or the reference stamping) is queued for retirement as a fault of code 11; a tapped line that fails stops its core, and
what the core holds is dropped (the model's choice, log 81). -/
def Obligations.StampNumbersAndCoreFaults : Prop :=
  (let good (r : Rec) (s : State) : Prop := s.converted r = true ∧ s.writes r.src = true
   (∀ i r s, s.nextCore 8 s.devq.rr = some (i, r) → good r s → s.devq.xStamp.present = true → s.devq.xStamp.full = false →
     s.devq.stampQ.length < stampDepth → Completes (.stampRecordWrite 8) s fun t =>
       t.devq.stampQ = s.devq.stampQ ++ [{ r with seq := (s.src r.src).seq }] ∧
       (t.src r.src).seq = ((s.src r.src).seq + 1) % 4096 ∧ (t.core i).held = (s.core i).held.drop 1 ∧ t.devq.rr = r.src) ∧
   ∀ (q : Fin 9) i r s, q.val < 8 → s.nextCore q (s.oct q).rr = some (i, r) →
     (good r s → (s.oct q).xStamp.present = true → (s.oct q).xStamp.full = false → (s.oct q).stampQ.length < stampDepth →
       Completes (.stampRecordWrite q) s fun t => (t.oct q).stampQ = (s.oct q).stampQ ++ [{ r with seq := (s.src r.src).seq }] ∧
         (t.src r.src).seq = ((s.src r.src).seq + 1) % 4096 ∧ (t.core i).held = (s.core i).held.drop 1 ∧ (t.oct q).rr = r.src) ∧
     (good r s → (s.oct q).xStamp.present = false →
       Completes (.stampRecordWrite q) s fun t => (t.oct q).stampQ = (s.oct q).stampQ ∧
         (t.src r.src).seq = ((s.src r.src).seq + 1) % 4096 ∧ (t.oct q).xStamp.drop = satAdd 32 1 (s.oct q).xStamp.drop) ∧
     (s.converted r = true → s.writes r.src = false → (s.oct q).xStamp.present = false →
       exec (.stampRecordWrite q) s = .next (s.modCore i fun k => { k with held := k.held.drop 1 })) ∧
     ((s.converted r = false ∨ ((s.oct q).xStamp.present = true ∧ (s.oct q).xStamp.full = true)) →
       exec (.stampRecordWrite q) s = .next s)) ∧
  ((∀ (k : Fin 9) (w : BitVec 10) s, s.domOn (dllDom k) = true →
     exec (.dllLock k w) s = .next (s.modDll k fun d => { d with lock := true, ctrl := w.toNat })) ∧
   (∀ (k : Fin 9) (w : BitVec 10) s, s.domOn (dllDom k) = false → exec (.dllLock k w) s = .next s) ∧
   (∀ (k : Fin 9) s, (s.dll k).lock = true → exec (.dllLoss k) s = .next (s.modDll k fun d => { d with lock := false })) ∧
   (∀ (k : Fin 9) s, s.domOn (dllDom k) = true → (s.dll k).lock = false → (s.dll k).fail = false → Completes (.dllFail k) s fun t =>
     (t.dll k).fail = true ∧
     (∃ r ∈ t.store.q, r.ch = .retire (if k.val < 8 then kindStamp else kindRefStamp) (if k.val < 8 then k.val else 0) 11) ∧
     ((if k.val < 8 then kindStamp else kindRefStamp), (if k.val < 8 then k.val else 0), 11, s.now) ∈ t.flt) ∧
   (∀ (k : Fin 9) s, ((s.dll k).lock = true ∨ (s.dll k).fail = true) → exec (.dllFail k) s = .next s) ∧
   (∀ (core : Fin 532) s, s.domOn (dllDom (if core.val < 528 then octOf (core.val / 2) else 8)) = true →
     (s.dll (if core.val < 528 then octOf (core.val / 2) else 8)).lock = true → (s.core core).fail = false →
     Completes (.lineFail core) s fun t => (t.core core).fail = true ∧ (t.core core).held = []))

/-! ## The interval unit and the rings -/

/-- R320, R322, R330, R331: the records of an ORDERED pair are processed in the order of their stamps, the start before the stop of an equal
stamp, each once the DTS has passed its stamp by 1 µs; a start waits, a stop in time makes one result of it, whose low 64 bits are the difference
of the two stamps. A start that has waited IV_TIMEOUT and 1 µs is a TIMEOUT. R325 to R327: in SIGNED mode the oldest undecided event, once
IV_TIMEOUT and 1 µs have passed since its stamp and no record waits, pairs with the first event of the other source within IV_TIMEOUT, either way
round; a start that finds none is a TIMEOUT, a stop a stray. -/
def Obligations.IntervalsPairRecords : Prop :=
  ((∀ st l b r, takeFirst (ivBefore st) l = some (b, r) → (∀ x ∈ l, 2 * x.1.t < linMod) → (b :: r).Perm l ∧ ∀ x ∈ r, b.1.t ≤ x.1.t) ∧
   (∀ p n sg cfg (a b : Rec × Bool), ivWord p n sg cfg a (some b) % 2 ^ 64 = toBits 64 (stampDiff b.1.t a.1.t)) ∧
   (∀ (p : Fin 16) r l s, takeFirst (ivBefore (s.ivStart p)) (s.pair p).inQ = some (r, l) → s.ivMode p = 1 →
     s.reached (linAdd r.1.t us1) = true →
     ((s.pair p).start = none → r.1.src = s.ivStart p → r.1.src ≠ s.ivStop p →
       exec (.ivRecordProcess p) s = .next (s.modPair p fun x => { x with inQ := l, start := some r })) ∧
     (∀ a, (s.pair p).start = some a → r.1.src ≠ s.ivStart p → r.1.src = s.ivStop p → stampDiff r.1.t a.1.t < s.ivTime p →
       s.devq.xRep.present = true → s.iv.ring.length < 2048 →
       Completes (.ivRecordProcess p) s fun t => (t.pair p).start = none ∧ (t.pair p).inQ = l ∧ (t.pair p).cfg = false ∧
         (t.pair p).resN = ((s.pair p).resN + 1) % 65536 ∧
         t.iv.ring = s.iv.ring ++ [(a.1.word, BitVec.ofNat 128 (ivWord p (((s.pair p).resN + 1) % 65536) false (s.pair p).cfg a (some r)))]) ∧
     ((s.pair p).start = none → r.1.src ≠ s.ivStart p → r.1.src = s.ivStop p →
       exec (.ivRecordProcess p) s = .next (s.modPair p fun x => { x with inQ := l, stray := satAdd 32 1 x.stray }))) ∧
   (∀ (p : Fin 16) r l s, takeFirst (ivBefore (s.ivStart p)) (s.pair p).inQ = some (r, l) → s.reached (linAdd r.1.t us1) = false →
     exec (.ivRecordProcess p) s = .next s) ∧
   (∀ (p : Fin 16) a s, (s.pair p).start = some a → s.ivMode p = 1 → s.reached (linAdd (linAdd a.1.t (s.ivTime p)) us1) = true →
     (s.pair p).inQ = [] → s.devq.xRep.present = true → s.iv.ring.length < 2048 →
     Completes (.ivTimeout p) s fun t => (t.pair p).start = none ∧ (t.pair p).timeout = satAdd 32 1 (s.pair p).timeout ∧
       t.iv.ring = s.iv.ring ++ [(a.1.word, BitVec.ofNat 128 (ivWord p (((s.pair p).resN + 1) % 65536) false (s.pair p).cfg a none))]) ∧
   (∀ (p : Fin 16) a s, (s.pair p).start = some a → s.reached (linAdd (linAdd a.1.t (s.ivTime p)) us1) = false →
     exec (.ivTimeout p) s = .next s)) ∧
  (let near (s : State) (p : Nat) (x y : Rec × Bool) : Bool :=
     y.1.src ≠ x.1.src && decide (0 ≤ stampDiff y.1.t x.1.t) && decide (stampDiff y.1.t x.1.t ≤ s.ivTime p)
   ∀ (p : Fin 16) x l s, (s.pair p).und = x :: l →
     (s.ivMode p = 2 → (s.pair p).inQ = [] → s.reached (linAdd (linAdd x.1.t (s.ivTime p)) us1) = true →
       (∀ y, l.find? (near s p x) = some y → s.devq.xRep.present = true → s.iv.ring.length < 2048 →
         Completes (.ivSignedDecide p) s fun t => (t.pair p).und = l.erase y ∧
           t.iv.ring = s.iv.ring ++ [if x.1.src = s.ivStart p
             then (x.1.word, BitVec.ofNat 128 (ivWord p (((s.pair p).resN + 1) % 65536) true (s.pair p).cfg x (some y)))
             else (y.1.word, BitVec.ofNat 128 (ivWord p (((s.pair p).resN + 1) % 65536) true (s.pair p).cfg y (some x)))]) ∧
       (l.find? (near s p x) = none → x.1.src ≠ s.ivStart p →
         exec (.ivSignedDecide p) s = .next (s.modPair p fun z => { z with und := l, stray := satAdd 32 1 z.stray })) ∧
       (l.find? (near s p x) = none → x.1.src = s.ivStart p → Completes (.ivSignedDecide p) s fun t =>
         (t.pair p).und = l ∧ (t.pair p).timeout = satAdd 32 1 (s.pair p).timeout)) ∧
     (s.reached (linAdd (linAdd x.1.t (s.ivTime p)) us1) = false → exec (.ivSignedDecide p) s = .next s))

/-- R313, R331, R379, R778: a read of a ring takes the records wanted from its front and opens a stream of them on the bulk door named, whose
first block carries the first fifteen words; a door that is no bulk door is refused, and one that has a stream is BUSY. -/
def Obligations.RingReadsOpenStreams : Prop :=
  (∀ h (bd : Fin 8) (n : BitVec 16) s, Taken h 0x0310 s → (bd.val = 4 ∨ bd.val = 5) → (s.door bd).stream = none →
    Completes (.stampRead h bd n) s fun t => t.ring = { s.ring with ring := s.ring.ring.drop (wanted n.toNat s.ring.ring) } ∧
      StreamOpened h 0x0310 bd ((s.ring.ring.take (wanted n.toNat s.ring.ring)).map Rec.word) t) ∧
  (∀ h (bd : Fin 8) (n : BitVec 16) s, Taken h 0x0311 s → (bd.val = 4 ∨ bd.val = 5) → (s.door bd).stream = none →
    Completes (.ivRead h bd n) s fun t => t.iv = { s.iv with ring := s.iv.ring.drop (wanted n.toNat s.iv.ring) } ∧
      StreamOpened h 0x0311 bd ((s.iv.ring.take (wanted n.toNat s.iv.ring)).flatMap fun w => [w.1, w.2]) t) ∧
  (∀ h (bd : Fin 8) (n : BitVec 16) s, Taken h 0x0322 s → (bd.val = 4 ∨ bd.val = 5) → (s.door bd).stream = none →
    Completes (.rgRead h bd n) s fun t => t.rg = { s.rg with ring := s.rg.ring.drop (wanted n.toNat s.rg.ring) } ∧
      StreamOpened h 0x0322 bd ((s.rg.ring.take (wanted n.toNat s.rg.ring)).flatMap id) t) ∧
  (∀ h (bd : Fin 8) (n : BitVec 16) s, Taken h 0x0310 s → bd.val ≠ 4 → bd.val ≠ 5 →
    exec (.stampRead h bd n) s = .next ((s.taken h).reply h 0x0310 (.fail .badarg))) ∧
  (∀ h (bd : Fin 8) (n : BitVec 16) s, Taken h 0x0310 s → (bd.val = 4 ∨ bd.val = 5) → (s.door bd).stream.isSome = true →
    exec (.stampRead h bd n) s = .next ((s.taken h).reply h 0x0310 (.fail .busy)))

/-! ## Frequency by regression -/

/-- R345, R352 to R357: a slot takes its oldest record that does not wait for the close of the gate in progress; one inside the gate is
accumulated, the first with edge index 0, one of the other polarity only counted, one inside a gate that has closed is late. R349, R351, R361,
R362: a gate whose end the DTS has passed by 1 µs, no record waiting, closes: it leaves one result, cleared sums and, in CONTINUOUS mode, the next
gate from its end; with fewer records than 3 or RG_NMIN the result states no frequency. R348, R363, R378, R379: a result written is the slot's
last and counts in RESULT_N; of a slot that the host holds it enters the result ring while that has room; a ONESHOT turns its slot OFF. -/
def Obligations.GatesAccumulateAndClose : Prop :=
  ((∀ (i : Fin 16) r l s, rgNext (s.rgSlot i).armed (s.rgEnd i) (s.rgSlot i).inQ = some (r, l) →
     ((s.rgSlot i).past.any (fun p => inGate p.1 p.2 r.t) = false →
       ((s.rgSlot i).armed = true → 0 ≤ stampDiff r.t (s.rgSlot i).start → (s.rgSlot i).n = 0 → Completes (.rgRecord i) s fun t =>
         (t.rgSlot i).inQ = l ∧ (t.rgSlot i).seq = some r.seq ∧ (t.rgSlot i).n = 1 ∧ (t.rgSlot i).t0 = r.t ∧ (t.rgSlot i).tLast = r.t ∧
         (t.rgSlot i).nLast = 0 ∧ (t.rgSlot i).sn = (s.rgSlot i).sn ∧ (t.rgSlot i).st = (s.rgSlot i).st) ∧
       ((s.rgSlot i).armed = true → 0 ≤ stampDiff r.t (s.rgSlot i).start → (s.rgSlot i).n ≠ 0 → 0 < stampDiff r.t (s.rgSlot i).tLast →
         r.fl.fall ≠ (s.rgSlot i).fall → Completes (.rgRecord i) s fun t =>
           (t.rgSlot i).n = (s.rgSlot i).n ∧ (t.rgSlot i).polN = satAdd 32 1 (s.rgSlot i).polN) ∧
       (((s.rgSlot i).armed = false ∨ stampDiff r.t (s.rgSlot i).start < 0) →
         exec (.rgRecord i) s = .next (s.modSlot i fun x => { x with inQ := l, seq := some r.seq }))) ∧
     ((s.rgSlot i).past.any (fun p => inGate p.1 p.2 r.t) = true → exec (.rgRecord i) s =
       .next (s.modSlot i fun x => { x with inQ := l, seq := some r.seq, lateN := satAdd 32 1 x.lateN, late := true })))) ∧
  ((∀ (i : Fin 16) s, (s.rgSlot i).armed = true → s.reached (linAdd (s.rgEnd i) us1) = true → (s.rgSlot i).inQ = [] →
     Completes (.rgGateClose i) s fun t =>
       (t.rgSlot i).out = (s.rgSlot i).out ++ [s.rgResult i] ∧ (t.rgSlot i).n = 0 ∧ (t.rgSlot i).sn = 0 ∧ (t.rgSlot i).flags = 0 ∧
       (t.rgSlot i).cfg = false ∧ (t.rgSlot i).armed = decide (s.rgMode i = 2) ∧
       (s.rgMode i = 2 → (t.rgSlot i).start = s.rgEnd i)) ∧
   (∀ (i : Fin 16) s, ((s.rgSlot i).armed = false ∨ s.reached (linAdd (s.rgEnd i) us1) = false) → exec (.rgGateClose i) s = .next s) ∧
   (∀ i (s : State), ((s.rgSlot i).n < 3 ∨ (s.rgSlot i).n < s.rgNmin i) → (s.rgResult i).freq = 2 ^ 64 - 1 ∧ (s.rgResult i).rate = 2 ^ 63 ∧
     (s.rgResult i).resvar = 2 ^ 64 - 1 ∧ (s.rgResult i).used = (s.rgSlot i).n ∧ (s.rgResult i).status.testBit rgInsufficient = true)) ∧
  (∀ (i : Fin 16) r l s, (s.rgSlot i).out = r :: l → Completes (.rgResultWrite i) s fun t =>
     (t.rgSlot i).res = r ∧ (t.rgSlot i).out = l ∧ (t.rgSlot i).resN = ((s.rgSlot i).resN + 1) % 65536 ∧
     (r.oneshot = true → t.rgMode i = 0) ∧
     ((s.rgSlot i).internal = false → s.devq.xRep.present = true → s.rg.ring.length < 1024 →
       t.rg.ring = s.rg.ring ++ [r.words i (((s.rgSlot i).resN + 1) % 65536)]))

/-- R369 to R373, R377: a free slot is claimed with the priority given, ANY takes the lowest free one; a slot that is held is refused with
CONFLICT and its holder; a release frees a slot that the host holds. RG_STATUS answers with the slot's state. -/
def Obligations.RegressionClaims : Prop :=
  (∀ h (slot : Fin 32) (prio : Fin 4) s, Taken h 0x0320 s → slot.val < 16 → (prio.val = 2 ∨ prio.val = 3) → (s.rgSlot slot).prio = 0 →
    s.rgHost.length < s.pv P.rgHostMax → Completes (.rgClaim h slot prio) s fun t => Answered h 0x0320 (.res slot) t ∧
      (t.rgSlot slot).prio = prio ∧ (t.rgSlot slot).internal = false ∧ (t.rgSlot slot).resN = 0) ∧
  (∀ h (slot : Fin 32) (prio : Fin 4) i s, Taken h 0x0320 s → slot.val = 31 → (prio.val = 2 ∨ prio.val = 3) →
    (upTo 16).find? (fun i => (s.rgSlot i).prio = 0) = some i → s.rgHost.length < s.pv P.rgHostMax →
    Completes (.rgClaim h slot prio) s fun t => Answered h 0x0320 (.res i) t ∧ (t.rgSlot i).prio = prio ∧ (t.rgSlot i).internal = false) ∧
  (∀ h (slot : Fin 32) (prio : Fin 4) s, Taken h 0x0320 s → slot.val < 16 → (prio.val = 2 ∨ prio.val = 3) → (s.rgSlot slot).prio ≠ 0 →
    exec (.rgClaim h slot prio) s = .next ((s.taken h).reply h 0x0320 (.conflict (s.rgHolder slot)))) ∧
  (∀ h (i : Fin 16) s, Taken h 0x0321 s → (s.rgSlot i).prio ≠ 0 → (s.rgSlot i).internal = false →
    Completes (.rgRelease h i) s fun t => Answered h 0x0321 .ok t ∧ (t.rgSlot i).prio = 0 ∧ (t.rgSlot i).armed = false) ∧
  (∀ h (i : Fin 16) s, Taken h 0x0321 s → ((s.rgSlot i).prio = 0 ∨ (s.rgSlot i).internal = true) →
    exec (.rgRelease h i) s = .next ((s.taken h).reply h 0x0321 (.conflict (s.rgHolder i)))) ∧
  (∀ h (i : Fin 16) s, Taken h 0x0323 s → Completes (.rgStatus h i) s fun t => OnlyDoor h.door s t ∧
    Answered h 0x0323 ⟨.ok, 0, 0, s.rg.drop, [(s.rgSlot i).w14 i, (s.rgSlot i).w15]⟩ t) ∧
  (∀ h (p : Fin 16) s, Taken h 0x0312 s → Completes (.ivStatus h p) s fun t => OnlyDoor h.door s t ∧
    Answered h 0x0312 ⟨.ok, 0, 0, s.iv.drop,
      [fld 0 32 (s.pair p).stray + fld 32 32 (s.pair p).restart + fld 64 32 (s.pair p).timeout + fld 96 32 (s.pair p).ovf]⟩ t)

/-! ## Engines -/

/-- R309, R312, R383 to R385, R388: the oldest record of a stamp queue leaves it; a TXM record of a channel that TXM steers becomes a steering job
of its home engine, behind the jobs that the hop reports of the octant become. R119, R386, R395, R396, R398, R408: an engine starts the job at the
front of its queue when the lease of its record is free or its own; it takes the lease, and leaves settle work behind, the newest last: a steering
job of a channel 13 cycles or, with the second integrator, 21, one of the timescale 21, a whole-cycle record, which fixes the marker of the next
update, 4. R202, R281, R385, R386, R395: the hop reports of an octant become jobs of the home engines; the oldest such job of the first engine
that can start one is taken, under its channel's lease, and kept as a segment of the channel. The oldest settle work of an engine completes, and
the channel's lease is free once the engine holds none for it. -/
def Obligations.RecordsBecomeJobs : Prop :=
  ((∀ (q : Fin 9) r l s, q.val < 8 → s.domOn pdEng = true → (s.oct q).stampQ = r :: l → Completes (.dispatchRecord q) s fun t =>
     (t.oct q).stampQ = l ∧ (t.oct q).hopQ = [] ∧
     ∀ c e, r.src = 4 * c + 2 → c < 264 → s.rxServo c = false → (s.oct q).hopQ = [] → s.homeOf c = some e → (s.eng e).q.length < 16 →
       (t.eng e).q = (s.eng e).q ++ [.steer c r]) ∧
   (∀ (q : Fin 9) s, s.domOn pdEng = false → exec (.dispatchRecord q) s = .next s)) ∧
  ((∀ (e : EngIx) c r l s, (s.eng e).retired = false → s.engReady = true → (s.eng e).ready = none → (s.eng e).q = .steer c r :: l →
     s.leaseOk e (.steer c r) = true → Completes (.steeringJob e) s fun t =>
       (∃ n u, (n = 13 ∨ n = 21) ∧ (t.eng e).settle = (s.eng e).settle ++ [.chan c n u]) ∧ (t.chan c).lease = some e.val ∧
       (t.eng e).q.length ≤ l.length) ∧
   (∀ (e : EngIx) r l s, (s.eng e).retired = false → s.engReady = true → (s.eng e).ready = none → (s.eng e).q = .ts r :: l →
     s.leaseOk e (.ts r) = true → Completes (.timescaleSteeringJob e) s fun t =>
       (∃ u, (t.eng e).settle = (s.eng e).settle ++ [.ts 21 u]) ∧ t.ts.lease = some e.val ∧ (t.eng e).q = l) ∧
   (∀ (e : EngIx) r l s, (s.eng e).retired = false → s.engReady = true → (s.eng e).q = .whole r :: l → s.leaseOk e (.whole r) = true →
     Completes (.wholeCycleRecordJob e) s fun t => (t.eng e).q = l ∧ t.ts.srv.mark = some r.t ∧ t.ts.lease = some e.val ∧
       ∃ u, (t.eng e).settle = (s.eng e).settle ++ [.ts 4 u]) ∧
   (∀ (e : EngIx) s, s.engReady = false → exec (.steeringJob e) s = .next s ∧ exec (.timescaleSteeringJob e) s = .next s ∧
     exec (.wholeCycleRecordJob e) s = .next s ∧ exec (.requestJob e) s = .next s)) ∧
  ((∀ (k : OctIx) e r s, s.engReady = true → (s.oct k).hopQ = [r] → s.homeOf r.div = some e → e / 4 = k.val → (s.eng e).retired = false →
     (∀ j, j < 4 → (s.eng (4 * k + j)).q = []) → s.leaseOk e (.hop r) = true → Completes (.hopReportJob k) s fun t =>
       (t.oct k).hopQ = [] ∧ (t.eng e).q = [] ∧ (t.chan r.div).lease = some e ∧
       (t.chan r.div).srv.segs = (s.chan r.div).srv.segs ++ [r] ∧
       ((s.chan r.div).srv.anchor = none → (t.chan r.div).srv.slot = r.slot)) ∧
   (∀ (k : OctIx) i r l s, s.engReady = true → (s.oct k).hopQ = [] → i < 4 → (s.eng (4 * k + i)).q = .hop r :: l →
     (s.eng (4 * k + i)).retired = false → (∀ j, j < i → (s.eng (4 * k + j)).q = []) → s.leaseOk (4 * k + i) (.hop r) = true →
     Completes (.hopReportJob k) s fun t => (t.eng (4 * k + i)).q = l ∧
       (∃ u, (t.eng (4 * k + i)).settle = (s.eng (4 * k + i)).settle ++ [.chan r.div 4 u]) ∧
       (t.chan r.div).srv.segs = (s.chan r.div).srv.segs ++ [r]) ∧
   (∀ (k : OctIx) s, s.engReady = false → exec (.hopReportJob k) s = .next s) ∧
   (∀ (e : EngIx) w l s, (s.eng e).settle = w :: l → Completes (.settleDone e) s fun t => (t.eng e).settle = l ∧
     (t.eng e).jobsN = satAdd 32 1 (s.eng e).jobsN ∧
     ∀ c v u, w = .chan c v u → l.any (·.isChan c) = false → (t.chan c).lease = none) ∧
   (∀ (e : EngIx) s, (s.eng e).settle = [] → exec (.settleDone e) s = .next s))

/-- R411 to R417: an idle engine claims the first job of another that is over its backlog in its octant, or of one in a neighbouring octant; the
job leaves the victim's queue, and runs where its fetch completes. -/
def Obligations.StealingMovesJobs : Prop :=
  (∀ (t v : EngIx) j l s, s.pv P.stealEn = 0 → s.engReady = true → s.idleEng t = true → (s.eng v).retired = false →
    ((t.val / 4 = v.val / 4 ∧ t ≠ v ∧ s.pv P.settleTh < s.backlog v) ∨ nextOct (t.val / 4) (v.val / 4) = true) →
    (s.eng v).q = j :: l → j.steers = true →
    (∀ c, j.chan = some c → (s.chan c).lease = none) → (j.chan = none → s.ts.lease = none) →
    Completes (.stealClaim t v) s fun u => (u.eng t).fetch = some j ∧ (u.eng v).q = l ∧ (u.eng v).fromN = satAdd 32 1 (s.eng v).fromN ∧
      (u.eng t).byN = satAdd 32 1 (s.eng t).byN) ∧
  (∀ (t v : EngIx) s, s.pv P.stealEn ≠ 0 → exec (.stealClaim t v) s = .next s) ∧
  (∀ (e : EngIx) j s, (s.eng e).fetch = some j →
    exec (.csmFetchDone e) s = .next (s.modEng e fun g => { g with fetch := none, ready := some j }))

/-- R423 to R427, R432: a SHED above SKEW_TH for SKEW_T, the share of an engine's home jobs run elsewhere in the last second, is raised; an epoch
at least 2 s ahead of a running timescale is stored, one before that is PAST; when the time comes the seed is in force, and the engines kept out
take homes again unless retired. -/
def Obligations.HashEpochs : Prop :=
  (∀ (e : EngIx) seed s, s.pv P.skewTh < s.shed e → Completes (.skew e true seed) s fun t =>
    (t.oct (e.val / 4)).engNo = e.val % 4 ∧ (t.oct (e.val / 4)).engEv = (s.oct (e.val / 4)).engEv.raise 8) ∧
  (∀ (e : EngIx) long seed s, (long = false ∨ s.shed e ≤ s.pv P.skewTh) → exec (.skew e long seed) s = .next s) ∧
  (∀ h (seed x : BitVec 32) s, Taken h 0x0330 s → s.ts.st ≠ .stopped → s.now + 2 * secU ≤ s.epochSec x.toNat * secU →
    Completes (.engEpoch h seed x) s (Queued h 0x0330 (.epoch seed.toNat (s.epochSec x.toNat)) s)) ∧
  (∀ h (seed x : BitVec 32) s, Taken h 0x0330 s → s.ts.st ≠ .stopped → s.epochSec x.toNat * secU < s.now + 2 * secU →
    exec (.engEpoch h seed x) s = .next ((s.taken h).reply h 0x0330 (.fail .past))) ∧
  (∀ h (seed x : BitVec 32) s, Taken h 0x0330 s → s.ts.st = .stopped →
    exec (.engEpoch h seed x) s = .next ((s.taken h).reply h 0x0330 (.fail .tsStopped))) ∧
  (∀ seed x s, s.arr.epoch = some (seed, x) → s.now < x * secU → exec .epoch s = .next s) ∧
  (∀ seed x s, s.arr.epoch = some (seed, x) → x * secU ≤ s.now → Completes .epoch s fun t => t.arr.seed = seed ∧ t.arr.epoch = none ∧
    (∀ e, e < 32 → (s.eng e).retired = false → (t.eng e).out = false) ∧
    ∀ k, k < 8 → (t.oct k).engEv = (s.oct k).engEv.raise 12)

/-- R27: under every seed the 32 user channels of an octant go one to one to the 32 home slots of its four engines, eight to each engine. -/
def Obligations.HashIsOneToOne : Prop :=
  ∀ seed k, (∀ p, p < 32 → hashEng seed (32 * k + p) / 4 = k ∧ hashSlot seed (32 * k + p) < 8) ∧
    (∀ p q, p < 32 → q < 32 → hashEng seed (32 * k + p) = hashEng seed (32 * k + q) → hashSlot seed (32 * k + p) = hashSlot seed (32 * k + q) →
      p = q) ∧
    (∀ e j, e < 4 → j < 8 → ∃ p, p < 32 ∧ hashEng seed (32 * k + p) = 4 * k + e ∧ hashSlot seed (32 * k + p) = j) ∧
    ∀ e, e < 4 → ((upTo 32).filter fun p => hashEng seed (32 * k + p) = 4 * k + e).length = 8

/-- R428 to R431: a parity event counts and is a fault of the engine; in the settle stage the settle work of its record is given up; an engine
that has had more than three in the window, or that makes no progress, is retired: its queue is empty, its leases are given up, and its retirement
is stored. R451, R490: with the engine array lost the device is in BYPASS for cause 2, every queue and settle work of it is gone; rebuilt, it is
out of its island reset again, and a timescale that ran goes on. ENG_STATUS answers with an engine's counters. -/
def Obligations.EngineFaultsAndArrayLoss : Prop :=
  ((∀ (e : EngIx) b s, (s.eng e).retired = false → Completes (.parity e b) s fun t =>
     (t.eng e).parN = satAdd 32 1 (s.eng e).parN ∧ (t.oct (e.val / 4)).engEv = (s.oct (e.val / 4)).engEv.raise 10 ∧
     (kindEng, e.val, 5, s.now) ∈ t.flt ∧ 
     ∀ w l, b = true → (s.eng e).settle = w :: l → (t.eng e).settle = l.filter (·.chan' ≠ w.chan')) ∧
   (∀ (e : EngIx) b s, (s.eng e).retired = true → exec (.parity e b) s = .next s) ∧
   (∀ (e : EngIx) stuck s, (s.eng e).retired = false → (stuck = true ∨ 3 < (s.eng e).parT.length) →
     Completes (.engineRetire e stuck) s fun t => (t.eng e).retired = true ∧ (t.eng e).out = true ∧ (t.eng e).q = [] ∧
       (t.eng e).settle = [] ∧ (t.eng e).fetch = none ∧ ∃ r ∈ t.store.q, r.ch = .retire kindEng e (if stuck then 0x21 else 5)) ∧
   (∀ (e : EngIx) s, (s.eng e).parT.length ≤ 3 → exec (.engineRetire e false) s = .next s)) ∧
  ((∀ s, s.domOn pdEng = true → s.arr.lost = false → Completes .engineArrayLost s fun t => t.arr.lost = true ∧ t.pwr.mode = .bypass ∧
     t.pwr.bypCause = 2 ∧ t.pwr.iso.testBit pdEng = true ∧ ∀ e, e < 32 → (t.eng e).q = [] ∧ (t.eng e).settle = []) ∧
   (∀ s, s.arr.lost = true → exec .engineArrayLost s = .next s) ∧
   (∀ ue s, s.arr.lost = true → Completes (.engArrayRebuild ue) s fun t => t.arr.lost = false ∧ t.pwr.iso.testBit pdEng = false ∧
     (s.ts.st ≠ .stopped → t.ts.st ≠ .stopped)) ∧
   (∀ ue s, s.arr.lost = false → exec (.engArrayRebuild ue) s = .next s) ∧
   (∀ h (e : EngIx) s, Taken h 0x0331 s → Completes (.engStatus h e) s fun t => OnlyDoor h.door s t ∧
     Answered h 0x0331 ⟨.ok, 0, 0, (s.eng e).parN, [fld 0 32 (s.eng e).jobsN + fld 32 32 (s.eng e).fromN + fld 64 32 (s.eng e).byN
       + fld 96 32 (s.eng e).xbyN]⟩ t))

/-! ## Channel states -/

/-- R441 to R443: CH_START of an idle channel is checked for the mode, its quadrant, the timescale, the slot, the loop and the stamping in that
order; accepted, it becomes a request job; a refusal with NOSTAMP sends the channel to BYPASS. -/
def Obligations.ChannelStartChecksInOrder : Prop :=
  let served (c : Nat) (s : State) : Prop := (s.pwr.mode = .service ∨ s.pwr.mode = .holdover) ∧ s.quadEn (quadOf (octOf c)) = true
  let slotOk (c : Nat) (s : State) : Prop := ((s.chan c).div.slot (s.chan c).div.act).valid = true
  (∀ h (c : Ch) e s, Taken h 0x0301 s → served c s → s.ts.st ≠ .stopped → (s.chan c).st = .idle → slotOk c s →
    (s.oct (octOf c)).loop.st = .locked → (s.oct (octOf c)).noStamp = false → (s.oct (octOf c)).xReq.present = true →
    s.homeOf c = some e → (s.eng e).q.length < 16 →
    exec (.chStart h c) s = .next (((s.taken h).modEng e fun g => { g with q := g.q ++ [.req c .start] }).reply h 0x0301 .ok)) ∧
  (∀ h (c : Ch) s, Taken h 0x0301 s → (s.chan c).st = .idle → s.pwr.mode ≠ .service → s.pwr.mode ≠ .holdover →
    exec (.chStart h c) s = .next ((s.taken h).reply h 0x0301 (.fail .mode))) ∧
  (∀ h (c : Ch) s, Taken h 0x0301 s → served c s → (s.chan c).st = .idle → s.ts.st = .stopped →
    exec (.chStart h c) s = .next ((s.taken h).reply h 0x0301 (.fail .tsStopped))) ∧
  (∀ h (c : Ch) s, Taken h 0x0301 s → served c s → (s.chan c).st = .idle → s.ts.st ≠ .stopped → ¬slotOk c s →
    exec (.chStart h c) s = .next ((s.taken h).reply h 0x0301 (.fail .fcw))) ∧
  (∀ h (c : Ch) s, Taken h 0x0301 s → served c s → (s.chan c).st = .idle → s.ts.st ≠ .stopped → slotOk c s →
    (s.oct (octOf c)).loop.st ≠ .locked → exec (.chStart h c) s = .next ((s.taken h).reply h 0x0301 (.fail .loop))) ∧
  (∀ h (c : Ch) s, Taken h 0x0301 s → served c s → (s.chan c).st = .idle → s.ts.st ≠ .stopped → slotOk c s →
    (s.oct (octOf c)).loop.st = .locked → (s.oct (octOf c)).noStamp = true → Completes (.chStart h c) s fun t =>
      Answered h 0x0301 (.fail .nostamp) t ∧ (t.chan c).st = .bypass ∧ (t.chan c).cause = .noStamp)

/-- R443: CH_STOP takes any channel that is not retired to IDLE, out of lock (a welt may at once take over a retired channel); a retired channel
without welt answers MODE. CH_STATUS shows the state and the lock. R279, R443, R450: the timers of a channel: a slow acquisition is marked once,
silence of LOSS_N update intervals takes ACQUIRE and TRACK to HOLDOVER with the slew paused, its term gone from DELTA where the engine's lane
takes the correction, a restarted divider acquires where the mode and the loop let it. -/
def Obligations.ChannelStopAndTimers : Prop :=
  ((∀ h (c : Ch) s, Taken h 0x0302 s → (s.chan c).st ≠ .retired → Completes (.chStop h c) s fun t => Answered h 0x0302 .ok t ∧
     (t.chan c).lock = false ∧ (c.val < 256 → (t.chan c).st = .idle) ∧ ((t.chan c).st = .idle ∨ (t.chan c).st = .acquire)) ∧
   (∀ h (c : Ch) s, Taken h 0x0302 s → (s.chan c).st = .retired → s.actOf c = c →
     exec (.chStop h c) s = .next ((s.taken h).reply h 0x0302 (.fail .mode))) ∧
   (∀ h (c : Ch) s, Taken h 0x0307 s → Completes (.chStatus h c) s fun t => OnlyDoor h.door s t ∧
     ∃ w, Answered h 0x0307 ⟨.ok, 0, 0, 0, [w, s.entryWord c 7, s.entryWord c 14, s.entryWord c 15] ++ (s.chan c).cnt.words⟩ t ∧
       w % 16 = (s.chan c).st.ctorIdx ∧ w.testBit 4 = (s.chan c).lock)) ∧
  ((∀ (c : Ch) s, (s.chan c).st = .acquire → (s.chan c).slow = false → Completes (.acqSlow c) s fun t =>
     t.chan c = { s.chan c with slow := true }) ∧
   (∀ (c : Ch) s, ((s.chan c).st ≠ .acquire ∨ (s.chan c).slow = true) → exec (.acqSlow c) s = .next s) ∧
   (∀ (c : Ch) s, ((s.chan c).st = .acquire ∨ (s.chan c).st = .track) → s.heard c = false → Completes (.channelSilence c) s fun t =>
     (t.chan c).st = .holdover ∧ (t.chan c).lock = false ∧ (t.chan c).trav.pHold = true ∧
     (s.laneOpen (octOf c) ((s.homeOf c).getD cobLane) = true → (t.chan c).trav.slew = 0)) ∧
   (∀ (c : Ch) s, ((s.chan c).st ≠ .acquire ∧ (s.chan c).st ≠ .track ∨ s.heard c = true) → exec (.channelSilence c) s = .next s) ∧
   (∀ (c : Ch) s, (s.chan c).st = .bypass → (s.chan c).cause = .restart → (s.oct (octOf c)).loop.st = .locked →
     (s.pwr.mode = .service ∨ s.pwr.mode = .holdover) → Completes (.dividerRestartDone c) s fun t =>
       (t.chan c).st = .acquire ∧ (t.chan c).cause = .none ∧ (t.chan c).srv.reentry = 1) ∧
   (∀ (c : Ch) s, (s.chan c).st = .bypass → (s.chan c).cause = .restart → (s.oct (octOf c)).loop.st ≠ .locked →
     exec (.dividerRestartDone c) s = .next (s.modChan c fun x => { x with cause := .loop })))

/-- R448, R451, R459, R462: a permanent fault of a channel or a welt is counted as a fault event of its unit and queued for retirement, a channel
that ran goes to BYPASS for FAULT; a DRIVER fault also puts the driver to high impedance; an uncorrectable entry gives up its lease. -/
def Obligations.ChannelFaultsRetire : Prop :=
  let queued (t : State) (unit fault : Nat) : Prop := ∃ r ∈ t.store.q, r.ch = .retire kindChan unit fault
  (∀ (c : Fin 256) (f : Fin 12) s, (s.chan c).st ≠ .retired → ¬((s.chan c).st = .bypass ∧ (s.chan c).cause = .fault) →
    Completes (.retirement c f) s fun t => queued t c f ∧ (kindChan, c.val, f.val, s.now) ∈ t.flt ∧
      ((s.chan c).st ≠ .idle → (s.chan c).st ≠ .onWelt → (t.chan c).st = .bypass ∧ (t.chan c).cause = .fault)) ∧
  (∀ (k : OctIx) (f : Fin 12) s, (s.chan (weltOf k)).st ≠ .retired → ¬((s.chan (weltOf k)).st = .bypass ∧ (s.chan (weltOf k)).cause = .fault) →
    (s.oct k).welt ≠ .retired → Completes (.weltFault k f) s fun t => queued t (weltOf k) f ∧ (t.oct k).welt = .retired ∧
      (kindChan, weltOf k, f.val, s.now) ∈ t.flt) ∧
  (∀ (c : Ch) s, (s.chan c).hiz = false → s.domOn (pdQ (quadOf (octOf c))) = true → Completes (.driver c) s fun t =>
    (t.chan c).hiz = true ∧ (kindChan, c.val, 9, s.now) ∈ t.flt ∧
    ((s.chan c).st ≠ .retired → ¬((s.chan c).st = .bypass ∧ (s.chan c).cause = .fault) → queued t c 9)) ∧
  (∀ (c : Ch) s, s.domOn pdEng = true → Completes (.csmUe c) s fun t => (t.chan c).lease = none ∧ (kindChan, c.val, 6, s.now) ∈ t.flt) ∧
  (∀ (c : Ch) (mask : BitVec 16) s, mask ≠ 0 → s.domOn pdEng = true →
    ((s.chan c).st = .acquire ∨ (s.chan c).st = .track ∨ (s.chan c).st = .holdover) → Completes (.csmRebuild c mask) s fun t =>
      (t.chan c).st = .acquire ∧ (t.chan c).srv.reentry = 1) ∧
  (∀ (c : Ch) s, exec (.csmRebuild c 0) s = .next s)

/-- R454 to R457: sixteen records that agree switch the output to the welt, with the channel ON_WELT and the welt in TRACK, and, on the return,
back to the channel's divider in TRACK; fewer do nothing. A return that times out fails and is tried again. R460, R464: the takeover of a retired
channel is stored once its welt tracks; a retirement is cleared only in SURVEY, of a unit that stands retired and has passed its check, and the
clearing is stored. -/
def Obligations.HandoversAndClearing : Prop :=
  ((∀ (k : OctIx) h s, (s.oct k).hand = some h → h.agree < 16 → exec (.handoverSwitch k) s = .next s) ∧
   (∀ (k : OctIx) h s, (s.oct k).hand = some h → 16 ≤ h.agree → h.step = 3 → h.ch < 256 → Completes (.handoverSwitch k) s fun t =>
     (t.chan h.ch).st = .onWelt ∧ (t.chan h.ch).out = .welt ∧ (t.chan h.ch).trav.pWelt = true ∧ (t.chan (weltOf k)).st = .track ∧
     (t.chan (weltOf k)).trav.pCmd = (s.chan h.ch).trav.pReal ∧ (t.chan (weltOf k)).trav.pReal = (s.chan h.ch).trav.pReal ∧
     ∃ g, (t.oct k).hand = some g ∧ g.step = 5 ∧ g.ch = h.ch) ∧
   (∀ (k : OctIx) h s, (s.oct k).hand = some h → 16 ≤ h.agree → h.step = 6 → h.ch < 256 →
     s.cal.runs.find? (fun r => r.kind = 0 ∧ r.unit = h.ch) = none → Completes (.handoverSwitch k) s fun t =>
       (t.chan h.ch).st = .track ∧ (t.chan h.ch).out = .own ∧ (t.chan h.ch).trav.pWelt = false) ∧
   (∀ (k : OctIx) h s, (s.oct k).hand = some h → h.step = 6 → h.fails < 2 → Completes (.handT k) s fun t =>
     (t.oct k).hand = some { h with step := 8, agree := 0, fails := h.fails + 1 }) ∧
   (∀ (k : OctIx) h s, (s.oct k).hand = some h → h.step ≤ 3 → Completes (.handT k) s fun t =>
     ∀ r ∈ t.cal.runs, ¬(r.kind = 0 ∧ r.unit = h.ch)) ∧
   (∀ (k : OctIx) h s, (s.oct k).hand = some h → h.step = 8 → Completes (.returnRetry k) s fun t =>
     (t.oct k).hand = some { h with step := 6, agree := 0, entered := false, trav := .init } ∧ (t.chan (weltOf k)).goal = .lent h.ch)) ∧
  ((∀ (k : OctIx) c s, (s.oct k).welt = .takeover c → (s.chan (weltOf k)).st = .track → (s.chan c).goal ≠ .welt →
     Completes (.weltTakeover k) s fun t => ∃ r, r.ch = .takeover c ∧ t.store.q = s.store.q ++ [r]) ∧
   (∀ (k : OctIx) c s, (s.oct k).welt = .takeover c → (s.chan (weltOf k)).st ≠ .track → exec (.weltTakeover k) s = .next s) ∧
   (∀ h (kind : Fin 16) (unit : Fin 4096) s, Taken h 0x0A11 s → s.pwr.mode = .survey → s.cal.checked.contains (retKey kind unit) = true →
     s.isRetired kind unit = true → Completes (.mntClearRetire h kind unit) s (Queued h 0x0A11 (.clear kind unit) s)) ∧
   (∀ h (kind : Fin 16) (unit : Fin 4096) s, Taken h 0x0A11 s → s.pwr.mode ≠ .survey →
     exec (.mntClearRetire h kind unit) s = .next ((s.taken h).reply h 0x0A11 (.fail .mode))) ∧
   (∀ h (kind : Fin 16) (unit : Fin 4096) s, Taken h 0x0A11 s → s.pwr.mode = .survey →
     (s.cal.checked.contains (retKey kind unit) = false ∨ s.isRetired kind unit = false) →
     exec (.mntClearRetire h kind unit) s = .next ((s.taken h).reply h 0x0A11 (.fail .check))))

/-! ## Device modes, supplies, resets -/

/-- R478 to R487: WAKE begins in STOWED at step 1, on command or by itself after a reset, and each step that is complete begins the next; without
the MPLL's lock in time the device waits in BYPASS for cause 3, and leaves BYPASS when what it waits for is back. -/
def Obligations.WakeRunsItsSteps : Prop :=
  (∀ h s, Taken h 0x0A01 s → s.pwr.mode = .stowed → s.pwr.brace = false → Completes (.devWake h) s fun t =>
    Answered h 0x0A01 .ok t ∧ t.pwr.mode = .wake ∧ t.pwr.step = 1) ∧
  (∀ h s, Taken h 0x0A01 s → (s.pwr.mode ≠ .stowed ∨ s.pwr.brace = true) →
    exec (.devWake h) s = .next ((s.taken h).reply h 0x0A01 (.fail .mode))) ∧
  (∀ s, s.pwr.mode = .stowed → s.pwr.auto = true → s.pwr.rom = false → s.pwr.brace = false → s.autoStored = true →
    Completes .wakeAutoStart s fun t => t.pwr.mode = .wake ∧ t.pwr.step = 1 ∧ t.pwr.auto = false) ∧
  (∀ temps s, s.waking = true → s.wakeDone = true → s.pwr.step < 5 → Completes (.wakeStepDone temps) s fun t =>
    t.pwr.step = s.pwr.step + 1 ∧ t.pwr.halt = false) ∧
  (∀ temps s, (s.waking = false ∨ s.wakeDone = false) → exec (.wakeStepDone temps) s = .next s) ∧
  (∀ s, s.pwr.mode = .wake → s.pwr.step = 2 → s.ref.lock = false → Completes .wakeRefT s fun t =>
    t.pwr.mode = .bypass ∧ t.pwr.bypCause = 3 ∧ t.pwr.bypFrom = .wake) ∧
  (∀ s, s.bypEnds = true → s.pwr.bypFrom ≠ .wake → Completes .bypassExit s fun t =>
    t.pwr.mode = (if s.pwr.bypFrom = .survey then .survey else s.serviceMode) ∧ t.pwr.bypCause = 0) ∧
  (∀ s, s.bypEnds = false → exec .bypassExit s = .next s)

/-- R477, R479 to R482: SERVICE and SURVEY follow each other on command, and STOWED follows any other mode, with the timescale stopped and every
domain from PD_REF to PD_CAS powered down; in other modes the commands answer MODE. -/
def Obligations.ModeCommands : Prop :=
  (∀ h s, Taken h 0x0A02 s → s.pwr.mode = .survey → Completes (.devService h) s fun t => Answered h 0x0A02 .ok t ∧
    t.pwr.mode = s.serviceMode ∧ t.cal.checked = []) ∧
  (∀ h s, Taken h 0x0A02 s → s.pwr.mode ≠ .survey → exec (.devService h) s = .next ((s.taken h).reply h 0x0A02 (.fail .mode))) ∧
  (∀ h s, Taken h 0x0A03 s → (s.pwr.mode = .service ∨ s.pwr.mode = .holdover) → Completes (.devSurvey h) s fun t =>
    Answered h 0x0A03 .ok t ∧ t.pwr.mode = .survey ∧ t.cal.checked = [] ∧ t.cal.runs = [] ∧ t.cal.bench = none) ∧
  (∀ h s, Taken h 0x0A03 s → s.pwr.mode ≠ .service → s.pwr.mode ≠ .holdover →
    exec (.devSurvey h) s = .next ((s.taken h).reply h 0x0A03 (.fail .mode))) ∧
  (∀ h s, Taken h 0x0A04 s → s.pwr.mode ≠ .stowed → Completes (.devStow h) s fun t => Answered h 0x0A04 .ok t ∧
    t.pwr.mode = .stowed ∧ t.pwr.step = 0 ∧ t.ts.st = .stopped ∧ ∀ d, 3 ≤ d → d ≤ 9 → t.pwr.pwr.testBit d = false) ∧
  (∀ h s, Taken h 0x0A04 s → s.pwr.mode = .stowed → exec (.devStow h) s = .next ((s.taken h).reply h 0x0A04 (.fail .mode)))

/-- R492, R493, R496, R499 to R502: a reset leaves the timescale, the channels and the parameters at their reset values and names its cause; the
OTP array keeps what it holds. A rail of PD_AON, PD_CTL or PD_IO holds the block in reset while it is lost; another rail's loss is shown, and a
quadrant's resets its logic. -/
def Obligations.ResetsAndRails : Prop :=
  let fresh (t : State) : Prop := t.ts = State.reset.ts ∧ t.chans = State.reset.chans ∧ t.par = State.reset.par ∧ t.engs = State.reset.engs
  (∀ h s, Taken h 0x0A05 s → Completes (.devReset h) s fun t => fresh t ∧ t.pwr.mode = .stowed ∧ t.pwr.cause = 3 ∧ t.otp.mirror = s.otp.mirror) ∧
  (∀ (cause : Fin 3) usable sectors pfail s, Completes (.coldReset cause usable sectors pfail) s fun t => fresh t ∧ t.pwr.mode = .stowed ∧
    t.pwr.cause = cause ∧ t.pwr.brace = pfail ∧ t.mem.usable = usable ∧ t.otp.mirror = s.otp.mirror) ∧
  (∀ (r : Fin 8) s, s.pwr.rail.testBit r = true → Completes (.railLost r) s fun t => t.pwr.rail.testBit r = false ∧
    ((r = 0 ∨ r = 1 ∨ r = 7) → t.pwr.held = true ∧ t.pwr.cause = 2) ∧
    (3 ≤ r.val → r.val ≤ 6 → s.pwr.held = false → s.pwr.pwr.testBit (pdQ (r.val - 3)) = true → t.pwr.iso.testBit (pdQ (r.val - 3)) = true)) ∧
  (∀ (r : Fin 8) s, s.pwr.rail.testBit r = false → exec (.railLost r) s = .next s ∧
    Completes (.railRegained r) s fun t => t.pwr.rail.testBit r = true) ∧
  (∀ (r : Fin 8) s, s.pwr.rail.testBit r = true → exec (.railRegained r) s = .next s)

/-- R501, R742: a restart of the cobbler is counted, empties the journal's queue and the command doors, and ends runs, scans and retunes. R502 to
R507: PFAIL_N low begins a brace, which ends an erase in progress; the brace is done when told, and memory requests that waited are served; its
release ends it: with a reset of cause 4 where the load was shed, else by letting waiting stores go on. -/
def Obligations.RestartsAndBraces : Prop :=
  ((∀ w s, s.pwr.held = false → Completes (.cobRestart w) s fun t => t.pwr.cobN = satAdd 8 1 s.pwr.cobN ∧ t.store.q = [] ∧ t.cal.runs = [] ∧
     t.grat.scans = [] ∧ (∀ n, n ≠ 6 → (t.door n).st = .idle) ∧ ∀ k, k < 8 → (t.oct k).loop.retune = none) ∧
   (∀ w s, s.pwr.held = true → exec (.cobRestart w) s = .next s)) ∧
  ((∀ w cls s, s.pwr.brace = false → s.pwr.held = false → Completes (.brace w cls) s fun t => t.pwr.brace = true ∧ t.pwr.braceDone = false ∧
     t.pwr.pfail = true ∧ t.pwr.shed = decide (s.pv P.braceShed = 1) ∧ t.store.erasing = none) ∧
   (∀ w cls s, (s.pwr.brace = true ∨ s.pwr.held = true) → exec (.brace w cls) s = .next s) ∧
   (∀ s, s.pwr.brace = true → Completes .braceDone s fun t => t.pwr.braceDone = true ∧ t.pwr.brace = true ∧
     (s.mem.waiting = [] → t = s.modPwr fun p => { p with braceDone := true })) ∧
   (∀ s, s.pwr.brace = false → exec .braceDone s = .next s) ∧
   (∀ s, s.pwr.brace = true → s.pwr.braceDone = true → s.pwr.shed = false → exec .braceRel s = .next { s with
     pwr := { s.pwr with brace := false, braceDone := false, pfail := false, shed := false }, store := { s.store with wait := false } }) ∧
   (∀ s, s.pwr.brace = true → s.pwr.braceDone = true → s.pwr.shed = true → Completes .braceRel s fun t =>
     t.pwr.brace = false ∧ t.pwr.cause = 4 ∧ t.pwr.mode = .stowed) ∧
   (∀ s, (s.pwr.brace = false ∨ s.pwr.braceDone = false) → exec .braceRel s = .next s))

/-! ## Queue resets -/

/-- R527 to R529: a queue with a side in reset is emptied and its words counted as dropped, its writer sees FULL and then an absent peer, which a
lost rail also raises; the handshake makes it present again once both sides are out of reset. -/
def Obligations.QueueResets : Prop :=
  (∀ q s, s.bothOn q = false → Completes (.queueReadyFall q) s fun t => t.xqWords q = 0 ∧
    t.xq q = { s.xq q with full := true, resync := false, drop := satAdd (xqWidth q) (s.xqWords q) (s.xq q).drop }) ∧
  (∀ q s, s.bothOn q = true → exec (.queueReadyFall q) s = .next s ∧ ∀ r, exec (.peerAbsent q r) s = .next s) ∧
  (∀ q (r : Bool) s, s.bothOn q = false → (s.xq q).present = true → Completes (.peerAbsent q r) s fun t =>
    t.xq q = { s.xq q with present := false } ∧ t.xqWords q = s.xqWords q ∧ t.pwr.ev = (if r then s.pwr.ev.raise 10 else s.pwr.ev)) ∧
  (∀ q s, s.bothOn q = true → (s.xq q).resync = true → Completes (.queueHandshakeDone q) s fun t =>
    t.xq q = { s.xq q with present := true, resync := false, full := false } ∧ t.xqWords q = s.xqWords q) ∧
  (∀ q s, (s.xq q).resync = false → exec (.queueHandshakeDone q) s = .next s)

/-! ## Calibration and Benchmarks -/

/-- R542, R548 to R550, R567 to R573: an accepted CAL_RUN or CAL_SURVEY answers with the number of its run, which joins the list and, of a WELT
run, begins a handover; a run whose conditions fail ends at once with their reason. A run that is aborted or lasts too long leaves the list and is
logged with its reason; a part that ends well is followed by the next one, a DTC part once all its records are taken, and the check of a STAT or
SURVEY run queues its commit. -/
def Obligations.CalibrationRuns : Prop :=
  (∀ h (c : Ch) s, Taken h 0x0501 s → s.runErr c 1 1 = none → s.rgClaimTop ≠ none → s.ref.qual = true → s.ref.lock = true →
    (s.dll (octOf c)).lock = true → Completes (.calRun h c true) s fun t => Answered h 0x0501 (.res s.cal.next) t ∧
      t.cal.next = (s.cal.next + 1) % 2 ^ 32 ∧ ∃ r, t.cal.runs = s.cal.runs ++ [r] ∧ r.num = s.cal.next ∧ r.kind = 1 ∧ r.unit = c.val ∧ r.part = 1) ∧
  (∀ h (c : Ch) s, Taken h 0x0501 s → s.runErr c 0 (s.pv P.calParts) = none → s.rgClaimTop ≠ none → s.ref.qual = true → s.ref.lock = true →
    (s.dll (octOf c)).lock = true → (s.oct (octOf c)).loop.st = .locked → (s.dll 8).lock = true → s.refRetired = false →
    Completes (.calRun h c false) s fun t => Answered h 0x0501 (.res s.cal.next) t ∧ (t.oct (octOf c)).welt = .loan c ∧
      (∃ g, (t.oct (octOf c)).hand = some g ∧ g.ch = c.val ∧ g.step = 1) ∧
      ∃ r, t.cal.runs = s.cal.runs ++ [r] ∧ r.num = s.cal.next ∧ r.kind = 0 ∧ r.unit = c.val ∧ r.part = 0) ∧
  (∀ h (c : Ch) (stat : Bool) e s, Taken h 0x0501 s → s.runErr c (bit stat) (s.partsFor (bit stat)) = some e →
    exec (.calRun h c stat) s = .next ((s.taken h).reply h 0x0501 e)) ∧
  (∀ h (c : Ch) s, Taken h 0x0501 s → s.runErr c 1 1 = none → s.rgClaimTop ≠ none → s.ref.qual = false →
    Completes (.calRun h c true) s fun t => Answered h 0x0501 (.res s.cal.next) t ∧
      ∃ r, r.num = s.cal.next ∧ t.cal.log = calDone r false 1 0 :: s.cal.log) ∧
  (∀ h (mask : BitVec 8) band s, Taken h 0x0502 s → s.pwr.mode = .survey → s.rgClaimTop ≠ none → s.cal.runs = [] → s.ref.qual = true →
    s.ref.lock = true → (∀ k, k < 8 → (s.dll k).lock = true ∧ (s.oct k).loop.st = .locked) → (s.dll 8).lock = true → s.refRetired = false →
    Completes (.calSurvey h mask band) s fun t => Answered h 0x0502 (.res s.cal.next) t ∧
      (∃ r, t.cal.runs = [r] ∧ r.num = s.cal.next ∧ r.kind = 2 ∧ r.unit = mask.toNat ∧ r.part = 1) ∧
      t.grat.scans = s.grat.scans ++ (if band then [(none, mask.toNat)] else [])) ∧
  (∀ h (mask : BitVec 8) band s, Taken h 0x0502 s → s.pwr.mode ≠ .survey →
    exec (.calSurvey h mask band) s = .next ((s.taken h).reply h 0x0502 (.fail .mode))) ∧
  (∀ h (n : BitVec 32) r s, Taken h 0x0504 s → s.cal.runs.find? (·.num = n.toNat) = some r → Completes (.calAbort h n) s fun t =>
    Answered h 0x0504 .ok t ∧ (∀ x ∈ t.cal.runs, x.num ≠ r.num) ∧ t.cal.log = calDone r false 0x12 0 :: s.cal.log) ∧
  (∀ h (n : BitVec 32) s, Taken h 0x0504 s → s.cal.runs.find? (·.num = n.toNat) = none →
    exec (.calAbort h n) s = .next ((s.taken h).reply h 0x0504 (.fail .range))) ∧
  (∀ (n : BitVec 32) r s, s.cal.runs.find? (·.num = n.toNat) = some r → r.runT ≤ s.now - r.t0 →
    Completes (.calRunT n) s fun t => (∀ x ∈ t.cal.runs, x.num ≠ r.num) ∧ t.cal.log = calDone r false 0x19 0 :: s.cal.log) ∧
  (∀ (n : BitVec 32) r s, s.cal.runs.find? (·.num = n.toNat) = some r → s.now - r.t0 < r.runT → exec (.calRunT n) s = .next s) ∧
  (∀ h (bd : Fin 8) (n : BitVec 16) s, Taken h 0x0503 s → (bd.val = 4 ∨ bd.val = 5) → (s.door bd).stream = none →
    Completes (.calStatus h bd n) s (StreamOpened h 0x0503 bd
      ((s.cal.log.take (wanted n.toNat s.cal.log)).flatMap fun w => [BitVec.ofNat 128 w.1, BitVec.ofNat 128 w.2]))) ∧
  (∀ (n : BitVec 32) (m : PartMeas) r r' s, s.cal.runs.find? (·.num = n.toNat) = some r → r.kind ≠ 2 → r.part ≠ 0 → r.part ≠ 5 →
    r.stored = false → m.fail = none → s.dtcShort m r = false → s.partResult m r = .ok r' →
    exec (.calPartDone n m) s = .next (s.toPart r' (r.partFrom (r.part + 1)))) ∧
  (∀ (n : BitVec 32) (m : PartMeas) r s, s.cal.runs.find? (·.num = n.toNat) = some r → r.kind ≠ 2 → m.fail = none →
    (r.part = 0 ∨ r.stored = true ∨ s.dtcShort m r = true) → exec (.calPartDone n m) s = .next s) ∧
  (∀ (n : BitVec 32) (m : PartMeas) r s, s.cal.runs.find? (·.num = n.toNat) = some r → r.kind = 1 → r.part = 5 → r.stored = false →
    m.fail = none → s.runPre r = none → Completes (.calPartDone n m) s fun t =>
      ∃ q, q.ch = .cal { r with stored := true } ∧ t.store.q = s.store.q ++ [q]) ∧
  (∀ (k : OctIx) (stat : Bool) c s, s.pv P.calSched = 1 → s.cal.bench = none → s.calNext (bit stat) k = some c →
    Completes (.calSchedule k stat) s fun t => t.cal.next = (s.cal.next + 1) % 2 ^ 32) ∧
  (∀ (k : OctIx) stat s, s.pv P.calSched ≠ 1 → exec (.calSchedule k stat) s = .next s) ∧
  (∀ (i : Fin 532) t₀ x s, look s.cal.meas i = some (t₀, x) → 31 * 86400 * secU ≤ s.ageOf (t₀ * secU) →
    Completes (.calStale i) s fun t => i.val ∈ t.cal.stale ∧ (i.val ∈ s.cal.stale → t = s))

/-- R65, R576 to R579: a Benchmark session opens with two regression slots and CAL_IN when no run uses them; BM_REF and BM_LOOP take no marker,
record what they measure and answer with it; BM_CLOSE queues the record of the session, and an abort or its expiry ends it with nothing committed.
-/
def Obligations.BenchmarkSessions : Prop :=
  (∀ h (u : BitVec 64) (id : BitVec 256) (op : BitVec 128) i j l s, Taken h 0x0510 s → (s.pwr.mode = .service ∨ s.pwr.mode = .holdover) →
    u.toNat ≠ 2 ^ 63 → s.refRetired = false → s.cal.bench = none → s.cal.runs = [] → (upTo 16).reverse.filter (fun i => (s.rgSlot i).prio = 0) = i :: j :: l →
    Completes (.bmOpen h u id op) s fun t => Answered h 0x0510 .ok t ∧ (t.rgSlot i).prio = 1 ∧ (t.rgSlot j).prio = 1 ∧
      t.pv P.calMode = 2 ∧ ∃ b, t.cal.bench = some b ∧ b.uRef = u.toNat ∧ b.refId = id.toNat ∧ b.oper = op.toNat ∧ b.slots = [i, j] ∧
        b.paths = [] ∧ b.refOfs = none) ∧
  (∀ h (u : BitVec 64) (id : BitVec 256) (op : BitVec 128) b s, Taken h 0x0510 s → (s.pwr.mode = .service ∨ s.pwr.mode = .holdover) →
    u.toNat ≠ 2 ^ 63 → s.refRetired = false → s.cal.bench = some b →
    exec (.bmOpen h u id op) s = .next ((s.taken h).reply h 0x0510 (.conflict (holderOf 3 b.h.door)))) ∧
  (∀ h (d u : BitVec 64) l b s, Taken h 0x0511 s → tivOk d.toInt = true → u.toNat ≠ 2 ^ 63 → s.cal.bench = some b → Completes (.bmRef h d u l) s fun t =>
    ∃ o, t.cal.bench = some { b with dCal := d.toInt, uCal := u.toNat, refOfs := some o } ∧ Answered h 0x0511 ⟨.ok, 0, 0, 0, [tivWord o]⟩ t) ∧
  (∀ h (d u : BitVec 64) l s, Taken h 0x0511 s → tivOk d.toInt = true → u.toNat ≠ 2 ^ 63 → s.cal.bench = none →
    exec (.bmRef h d u l) s = .next ((s.taken h).reply h 0x0511 (.conflict 0))) ∧
  (∀ h (d u : BitVec 64) l s, Taken h 0x0511 s → (tivOk d.toInt = false ∨ u.toNat = 2 ^ 63) →
    exec (.bmRef h d u l) s = .next ((s.taken h).reply h 0x0511 (.fail .badarg))) ∧
  (∀ h (c : Ch) (path : Fin 4) (d u : BitVec 64) (m : LoopMeas) b s, Taken h 0x0512 s → path ≠ 0 → tivOk d.toInt = true →
    u.toNat ≠ 2 ^ 63 → s.cal.bench = some b → m.hop = false → (path = 3 → s.tests.any (fun r => r.kind = 1 ∧ r.unit = c) = false) →
    4 * (beyond ((m.tIn : Int) - m.tSrc - d.toInt) (max 1 (s.freqOf c))).natAbs ≤ 2 ^ 24 * secU →
    Completes (.bmLoop h c path d u m) s fun t => ∃ p g, t.cal.bench = some g ∧ p ∈ g.paths ∧ p.ch = c ∧ p.path = path ∧ p.dLb = d.toInt ∧
      p.m = p.dLb + p.e ∧ Answered h 0x0512 ⟨.ok, 0, 0, 0, [tivWord p.m + 2 ^ 64 * tivWord p.e]⟩ t) ∧
  (∀ h (c : Ch) (path : Fin 4) (d u : BitVec 64) (m : LoopMeas) b s, Taken h 0x0512 s → path ≠ 0 → tivOk d.toInt = true →
    u.toNat ≠ 2 ^ 63 → s.cal.bench = some b → m.hop = true → (path = 3 → s.tests.any (fun r => r.kind = 1 ∧ r.unit = c) = false) →
    exec (.bmLoop h c path d u m) s = .next ((s.taken h).reply h 0x0512 (.fail .hop))) ∧
  (∀ h b s, Taken h 0x0513 s → s.cal.bench = some b → s.calPre b.octs true false = none → s.benchQueued = false →
    Completes (.bmClose h true) s
      (Queued h 0x0513 (.bench (s.benchPay b) (s.benchOfs b) (s.benchTrims b) (b.paths.map (·.ch)).eraseDups) s)) ∧
  (∀ h slope b e s, Taken h 0x0513 s → s.cal.bench = some b → s.calPre b.octs true false = some e →
    exec (.bmClose h slope) s = .next ((s.taken h).reply h 0x0513 (.named .mode e))) ∧
  (∀ h b s, Taken h 0x0513 s → s.cal.bench = some b → s.calPre b.octs true false = none →
    exec (.bmClose h false) s = .next ((s.taken h).reply h 0x0513 (.named .mode 3))) ∧
  (∀ h b s, Taken h 0x0514 s → s.cal.bench = some b → Completes (.bmAbort h) s fun t => Answered h 0x0514 .ok t ∧ t.cal.bench = none ∧
    t.store = s.store) ∧
  (∀ b s, s.cal.bench = some b → s.pv P.bmT * secU ≤ s.ageOf b.t0 → Completes .bmExpired s fun t => t.cal.bench = none ∧ t.store = s.store) ∧
  (∀ b s, s.cal.bench = some b → s.ageOf b.t0 < s.pv P.bmT * secU → exec .bmExpired s = .next s)

/-! ## The Datum store, OTP and firmware -/

/-- R506, R595, R600, R601: the first store of the queue begins as the record planned for it, or waits while the hold-up supply is low, which
raises the wait once, or asks for a port that a program or an erase holds (R810); a wait that expires answers HOLDUP and drops the store. A record
that commits puts its change in force and answers its command; one that fails for the third time answers STORE and changes nothing. -/
def Obligations.StoresBeginAndCommit : Prop :=
  let up (s : State) : State := s.modPwr fun p => { p with holdup := true }
  let free (s : State) : Prop := s.pwr.held = false ∧ s.portBusy = false ∧ s.mem.usable = true ∧ s.store.foreign = false ∧ s.pwr.brace = false
  (∀ r l p s, free s → s.store.q = r :: l → r.ch ≠ .refresh → r.worn (up s) = none → (up s).plan r = .go p → Completes (.dsStore true) s fun t =>
    t.store.prog = some p ∧ t.store.wait = false ∧ t.store.q = s.store.q ∧ (p.ty ≠ 1 → p.ty ≠ 0x40 → t.store.flash = s.store.flash)) ∧
  (∀ r l s, free s → s.store.q = r :: l → r.ch ≠ .refresh → s.store.wait = false → Completes (.dsStore false) s fun t =>
    t.store = { s.store with wait := true } ∧ t.pwr = { s.pwr with holdup := false, ev := s.pwr.ev.raise 11 }) ∧
  (∀ b s, s.pwr.held = true → exec (.dsStore b) s = .next s) ∧
  (∀ r l s, s.pwr.held = false → s.store.prog = none → s.portBusy = true → s.store.q = r :: l → r.ch ≠ .refresh →
    exec (.dsStore true) s = .next ((up s).ask .store)) ∧
  (∀ r l p s, free s → s.store.q = r :: l → s.store.wait = true → r.worn (up s) = none → (up s).plan r = .go p → Completes .holdupOkHigh s fun t =>
    t.store.prog = some p ∧ t.store.wait = false ∧ t.store.q = s.store.q) ∧
  (∀ s, s.store.wait = false → exec .holdupOkHigh s = .next (up s)) ∧
  (∀ i r h s, s.store.wait = true → s.store.q[i]? = some r → r.h = some h → (∀ p, r.ch ≠ .age p) → (∀ k a b, r.ch ≠ .restore k a b) →
    (∀ c, r.ch ≠ .cal c) → Completes (.holdupWaitExpiry i) s fun t => Answered h r.cmd (.fail .holdup) t ∧ t.store.q = s.store.q.eraseIdx i) ∧
  (∀ i s, s.store.wait = false → exec (.holdupWaitExpiry i) s = .next s) ∧
  (∀ p r l h seed e s, s.store.prog = some p → s.store.q = r :: l → s.pwr.held = false → s.pwr.brace = false → s.mem.waiting = [] →
    r.h = some h → r.ch = .epoch seed e → p.ty = 0x11 → Completes (.dsRecordCommit none) s fun t => Answered h r.cmd .ok t ∧ t.arr.epoch = some (seed, e) ∧
      t.store.gen = p.gen ∧ t.store.q = l ∧ t.store.prog = none) ∧
  (∀ p r l h seed e i c s, s.store.prog = some p → s.store.q = r :: l → s.pwr.held = false → s.pwr.brace = false → s.mem.waiting = [] →
    r.h = some h → h.door ≠ 6 → r.ch = .epoch seed e → 2 ≤ p.att → Completes (.dsRecordCommit (some (i, c))) s fun t => Answered h r.cmd (.fail .store) t ∧
      t.arr = s.arr ∧ t.store.gen = s.store.gen ∧ t.store.prog = none)

/-- R591 to R593, R608, R617, R622, R810: an erase ahead of need begins where the ring or the bank is short of erased words, or asks for a port
that is held, its end writes the sector word and counts, a failed verify repeats it; a scrub marks and counts the words that have come to read
CORRECTED or UNCORRECTABLE. -/
def Obligations.ErasesAndScrubs : Prop :=
  let able (s : State) : Prop := s.pwr.held = false ∧ s.pwr.brace = false ∧ s.pwr.rom = false ∧ s.mem.usable = true ∧ s.store.foreign = false
  (∀ ring l s, able s → s.portBusy = false → s.eraseTarget ring = some l → exec (.eraseAhead ring) s =
    .next ((s.modMem fun m => { m with cont := false }).modStore fun d =>
      { d with erasing := some (d.phys l, l, if ring then regAge else regBank d.otherBank, 0) })) ∧
  (∀ ring s, able s → s.portBusy = true → exec (.eraseAhead ring) s = .next (s.ask (.erase ring))) ∧
  (∀ ring s, ¬ able s → exec (.eraseAhead ring) s = .next s) ∧
  (∀ p l r n s, s.store.erasing = some (p, l, r, n) → s.pwr.held = false → s.store.q = [] → s.mem.waiting = [] →
    (s.modStore fun d => d.erase p l).worn l = false → exec (.sectorEraseDone true) s =
      .next ((s.modStore fun d => { (d.erase p l) with erasing := none }).modGw fun g => { g with g7 := g.g7 + 1 })) ∧
  (∀ p l r n s, s.store.erasing = some (p, l, r, n) → s.pwr.held = false → n < 2 →
    exec (.sectorEraseDone false) s = .next (s.modStore fun d => { d with erasing := some (p, l, r, n + 1) })) ∧
  (∀ ok s, s.store.erasing = none → exec (.sectorEraseDone ok) s = .next s) ∧
  (∀ ws s, s.pwr.held = false → s.pwr.rom = false → s.mem.usable = true → s.store.foreign = false →
    s.store.scrubT + s.pv P.dsScrubPeriod ≤ s.gw.secs →
    Completes (.dsScrubPeriod ws) s fun t => t.store.flash = s.store.flash.map (drift ws) ∧ t.store.scrubT = s.gw.secs) ∧
  (∀ ws s, s.gw.secs < s.store.scrubT + s.pv P.dsScrubPeriod → exec (.dsScrubPeriod ws) s = .next s) ∧
  (∀ h ws s, Taken h 0x0605 s → s.mem.usable = true → s.store.foreign = false → Completes (.dsScrub h ws) s fun t =>
    Answered h 0x0605 .ok t ∧ t.store.flash = s.store.flash.map (drift ws)) ∧
  (∀ h s, Taken h 0x0601 s → Completes (.dsInfo h) s fun t => OnlyDoor h.door s t ∧
    Answered h 0x0601 ⟨.ok, 0, 0, 0, [fld 0 48 s.store.gen + fld 48 48 (1 + max s.store.gen s.store.hi),
      fld 0 32 s.store.corr + fld 32 32 s.store.ue + fld 64 32 s.store.torn + fld 96 32 s.reserve]⟩ t) ∧
  (∀ h (bd : Fin 8) s, Taken h 0x0604 s → (bd.val = 4 ∨ bd.val = 5) → (s.door bd).stream = none →
    Completes (.dsRetireList h bd) s (StreamOpened h 0x0604 bd (s.store.ret.map fun e => BitVec.ofNat 128 e.2))) ∧
  (∀ h (bd : Fin 8) s, Taken h 0x0602 s → (bd.val = 4 ∨ bd.val = 5) → (s.door bd).stream = none → s.store.foreign = false →
    Completes (.dsBenchList h bd) s fun t => ∃ d, d.length = s.benchList.length ∧ StreamOpened h 0x0602 bd d t) ∧
  (∀ h (bd : Fin 8) (n : BitVec 32) b s, Taken h 0x0603 s → (bd.val = 4 ∨ bd.val = 5) → (s.door bd).stream = none →
    s.benchList.find? (·.1 = n.toNat) = some b →
    Completes (.dsBenchRead h bd n) s (StreamOpened h 0x0603 bd (b.2.1.map (BitVec.ofNat 128 ·)))) ∧
  (∀ h s, Taken h 0x0A12 s → s.pwr.mode = .stowed → s.mem.usable = true → s.pwr.brace = false → s.pwr.holdup = true → s.store.foreign = true →
    Completes (.mntDsFormat h) s fun t => Answered h 0x0A12 .ok t ∧ t.store.foreign = false) ∧
  (∀ h s, Taken h 0x0A12 s → s.pwr.mode ≠ .stowed → exec (.mntDsFormat h) s = .next ((s.taken h).reply h 0x0A12 (.fail .mode)))

/-- R208, R209, R299, R588, R615, R629, R785: a table of 24 calibration entries in order and, in two parts within 10 s, a correction set within
its ranges are stored, others refused by form; an OTP field is written once, its value reads back at once and its row follows; a second write is
WO. A firmware image comes as an inbound stream, a running TRIAL image is confirmed through a boot header, and a key other than the running
image's can be revoked. -/
def Obligations.MaintenanceAndFirmware : Prop :=
  (∀ h (c : Ch) (l : List (BitVec 32)) s, Taken h 0x0A13 s → dtcOk (l.map (·.toNat)) = true →
    Completes (.mntDtcLoad h c l) s (Queued h 0x0A13 (.dtc c (tabOf (l.map (·.toNat)))) s)) ∧
  (∀ h (c : Ch) (l : List (BitVec 32)) s, Taken h 0x0A13 s → dtcOk (l.map (·.toNat)) = false →
    exec (.mntDtcLoad h c l) s = .next ((s.taken h).reply h 0x0A13 (.fail .dtcForm))) ∧
  (∀ h (core : BitVec 10) l s, Taken h 0x0A14 s → core.toNat < 532 → exec (.mntTdcLoad h core (.pos l)) s =
    .next (((s.taken h).modCal fun c => { c with part0 := some (core.toNat, l.map (·.toNat), s.now) }).reply h 0x0A14 .ok)) ∧
  (∀ h (core : BitVec 10) pos t₀ wid vern ofs trim valid temp secs s, Taken h 0x0A14 s → core.toNat < 532 →
    s.cal.part0 = some (core.toNat, pos, t₀) → t₀ ≤ s.now → s.now - t₀ ≤ 10 * secU → temp.toInt ≠ -32768 →
    CorrSet.ok ⟨pos, wid.map (·.toNat), vern.map (·.toNat), ofs.toNat, valid⟩ = true →
    Completes (.mntTdcLoad h core (.rest wid vern ofs trim valid temp secs)) s fun t => t.cal = { s.cal with part0 := none } ∧
      ∃ r, r.h = some h ∧ r.ch = .tdc core.toNat ⟨pos, wid.map (·.toNat), vern.map (·.toNat), ofs.toNat, valid⟩ trim.toNat temp.toInt secs.toNat ∧
        t.store.q = s.store.q ++ [r]) ∧
  (∀ h (node : Bool) (v : W128) s, Taken h 0x0A15 s → s.otp.written node = false → s.pwr.brace = false → s.pwr.holdup = true →
    exec (.mntOtpWrite h node v) s =
      .next ((s.taken h).modOtp (·.write node (if node then v.toNat else v.toNat % 2 ^ 32) (some h)))) ∧
  (∀ h (node : Bool) (v : W128) s, Taken h 0x0A15 s → s.otp.written node = true → Completes (.mntOtpWrite h node v) s fun t =>
    Answered h 0x0A15 (.fail .wo) t ∧ t.otp = s.otp ∧ t.reg.ev = s.reg.ev.raise 8) ∧
  (∀ f x h l s, s.otp.rows = (f, x, some h) :: l → s.pwr.held = false → s.pwr.brace = false → s.pwr.holdup = true →
    Completes (.otpRowProgrammed false) s fun t => Answered h (otpCmd f) .ok t ∧ t.otp = { s.otp.program f x false with rows := l }) ∧
  (∀ b s, s.otp.rows = [] → exec (.otpRowProgrammed b) s = .next s) ∧
  (∀ h (k : Fin 4) s, Taken h 0x0805 s → s.img.any (·.key = k.val) = false →
    exec (.fwRevoke h k) s = .next ((s.taken h).modOtp fun o => { o with rows := o.rows ++ [(4, k.val, some h)] })) ∧
  (∀ h (k : Fin 4) s, Taken h 0x0805 s → s.img.any (·.key = k.val) = true →
    exec (.fwRevoke h k) s = .next ((s.taken h).reply h 0x0805 (.fail .mode))) ∧
  (∀ h s, Taken h 0x0801 s → Completes (.fwInfo h) s fun t => OnlyDoor h.door s t ∧ Answered h 0x0801 (.res s.fwStatus) t) ∧
  (∀ h (bd : Fin 8) (n : BitVec 32) s, Taken h 0x0802 s → (bd.val = 4 ∨ bd.val = 5) → (s.door bd).stream = none → s.imageQueued = false →
    Completes (.fwWrite h bd n) s fun t => (t.door bd).stream = some ⟨0x0802, h.tag, h, true, 0, [], 8 * n.toNat, 0, false, 0⟩ ∧
      (t.door bd).st = .reply ∧ (t.door h.door).st = .busy) ∧
  (∀ h (bd : Fin 8) (n : BitVec 32) s, Taken h 0x0804 s → s.pwr.rom = true → (bd.val = 4 ∨ bd.val = 5) → (s.door bd).stream = none →
    Completes (.fwSramRun h bd n) s fun t => (t.door bd).stream = some ⟨0x0804, h.tag, h, true, 0, [], 8 * n.toNat, 0, false, 0⟩ ∧
      (t.door bd).st = .reply ∧ (t.door h.door).st = .busy) ∧
  (∀ h (bd : Fin 8) (n : BitVec 32) s, Taken h 0x0804 s → s.pwr.rom = false →
    exec (.fwSramRun h bd n) s = .next ((s.taken h).reply h 0x0804 (.fail .mode))) ∧
  (∀ h i s, Taken h 0x0803 s → s.img = some i → i.trial = true → Completes (.fwConfirm h) s
    (Queued h 0x0803 (.boot i.slot (if i.slot = 0 then 2 else s.store.stA) (if i.slot = 1 then 2 else s.store.stB)) s)) ∧
  (∀ h s, Taken h 0x0803 s → s.img.any (·.trial) = false → exec (.fwConfirm h) s = .next ((s.taken h).reply h 0x0803 (.fail .mode)))

/-- What the state after reset holds, of which the spec gives: the device STOWED, the timescale STOPPED, every channel IDLE, every loop OFF, every
door IDLE, HP_LEN 0x0800, one lane each way, STRIDE 1, the key disarmed, no RS event, HASH_SEED 0x6A3C_91F5; the queue is empty, and the flash
array is in canonical form, with nothing listed (log 2). -/
def Obligations.ResetHoldsItsValues : Prop :=
  let r := State.reset
  FlashWf r ∧ r.store.flash = [] ∧ r.pending = [] ∧ r.pwr.mode = .stowed ∧ r.ts.st = .stopped ∧ (∀ c : Ch, (r.chan c).st = .idle) ∧
    (∀ k : OctIx, (r.oct k).loop.st = .off ∧ (r.oct k).loop.ev = RsReg.init ∧ (r.oct k).engEv = RsReg.init) ∧ (∀ n : Fin 8, (r.door n).st = .idle) ∧
    r.hp.len = 0x0800 ∧ r.hp.il = 0 ∧ r.hp.ol = 0 ∧ r.hp.reply = 0 ∧ r.reg.stride = 1 ∧ r.reg.armed = false ∧ r.reg.ev = RsReg.init ∧
    r.pwr.ev = RsReg.init ∧ r.ts.ev = RsReg.init ∧ r.ref.ev = RsReg.init ∧ r.pv P.hashSeed = 0x6A3C91F5

/-- R591, R592: every step keeps the flash array in canonical form. -/
def Obligations.StepKeepsFlashForm : Prop :=
  ∀ (s t : State), FlashWf s → step s = .next t → FlashWf t

/-! ## Gauges -/

/-- R169, R636 to R643, R649, R653: powered time and junction stress accumulate minute by minute, a log falls due each period and takes the hours
that have passed, G6 claims its slot again while the timescale is LOCKED; a tuning word beyond its warning raises MARGIN once; the commands read
the log, restart a series and run the action that waits. -/
def Obligations.GaugesAndWear : Prop :=
  (∀ (temp : BitVec 16) s, s.pwr.rom = false → s.pwr.held = false → Completes (.g8Accumulate temp) s fun t => t.gw.secs = s.gw.secs + 60 ∧
    t.gw.eq = s.gw.eq + ageStep temp.toInt ∧
    t.gw.tMax = (if (upTo 4).any (fun j => s.domOn (pdQ j)) then max s.gw.tMax temp.toInt else s.gw.tMax)) ∧
  (∀ m s, s.pwr.rom = false → s.pwr.held = false → s.gw.last + s.gw.per ≤ s.gw.secs → Completes (.gwLog m) s fun t =>
    t.gw.last = s.gw.secs ∧ t.gw.secs = s.gw.secs ∧ t.gw.per = s.pv P.gwLogPeriod) ∧
  (∀ m s, s.gw.secs < s.gw.last + s.gw.per → exec (.gwLog m) s = .next s) ∧
  (∀ h m s, Taken h 0x0703 s → Completes (.gwLogNow h m) s fun t => t.gw.last = s.gw.secs ∧ t.gw.secs = s.gw.secs ∧ t.gw.per = s.pv P.gwLogPeriod) ∧
  (∀ i s, s.ts.st = .locked → s.gw.slot = none → s.rgClaimTop = some i → Completes .g6ClaimRetry s fun t => t.gw.slot = some i ∧
    (t.rgSlot i).prio = 2 ∧ (t.rgSlot i).internal = true ∧ t.pv (P.rgSrc + 8 * i) = 0x802) ∧
  (∀ s, s.ts.st ≠ .locked → s.gw.slot = none → exec .g6ClaimRetry s = .next s) ∧
  (∀ (k : OctIx) tune s, (s.oct k).loop.st = .locked → (s.oct k).loop.warned = false → s.pv (P.mlTuneWarn + 16 * k) < tune.natAbs →
    Completes (.margin k tune) s fun t => (t.oct k).loop.tune = tune ∧ (t.oct k).loop.warned = true ∧
      (t.oct k).loop.ev = (s.oct k).loop.ev.raise 10) ∧
  (∀ (k : OctIx) tune s, ((s.oct k).loop.st ≠ .locked ∨ (s.oct k).loop.warned = true) → exec (.margin k tune) s = .next s) ∧
  (∀ h (bd : Fin 8) (first : BitVec 32) (n : BitVec 16) s, Taken h 0x0702 s → (bd.val = 4 ∨ bd.val = 5) → (s.door bd).stream = none →
    Completes (.gwLogRead h bd first n) s (StreamOpened h 0x0702 bd
      (((s.ages.filter fun r => first.toNat ≤ r.1).take n.toNat).flatMap fun r => (r.1 :: r.2).map (BitVec.ofNat 128 ·)))) ∧
  (∀ h (bd : Fin 8) s, Taken h 0x0701 s → (bd.val = 4 ∨ bd.val = 5) → (s.door bd).stream = none →
    Completes (.gwHealth h bd false) s fun t => ∃ w, StreamOpened h 0x0701 bd (w :: (upTo 556).flatMap s.healthWords) t) ∧
  (∀ h (g : Fin 16) (n : Fin 4096) i s, Taken h 0x0704 s → gwIx g n = some i →
    Completes (.gwRestart h g n) s (Queued h 0x0704 (s.gwStarts [i]) s)) ∧
  (∀ h (g : Fin 16) (n : Fin 4096) s, Taken h 0x0704 s → gwIx g n = none →
    exec (.gwRestart h g n) s = .next ((s.taken h).reply h 0x0704 (.fail .range))) ∧
  (∀ h (g : Fin 16) (n : Fin 4096) i s, Taken h 0x0705 s → gwIx g n = some i → (s.gwi i).want ≠ 0 →
    Completes (.gwReplanRun h g n) s fun t => Answered h 0x0705 .ok t ∧ (t.gwi i).want = 0) ∧
  (∀ h (g : Fin 16) (n : Fin 4096) i s, Taken h 0x0705 s → gwIx g n = some i → (s.gwi i).want = 0 →
    exec (.gwReplanRun h g n) s = .next ((s.taken h).reply h 0x0705 (.fail .range)))

/-! ## The host port -/

/-- R664, R681: a low period without an edge is no frame: it is counted in SHORT_N and otherwise ignored. A frame counts in HP_FRAMES. One whose
input ends before its header is discarded, answered TRUNC with TAG 0, and counted in SHORT_N. -/
def Obligations.FramesAndShortFrames : Prop :=
  (∀ s, s.pwr.held = false → exec .edgelessSelect s = .next { s with hp := { s.hp with shortN := satAdd 8 1 s.hp.shortN } }) ∧
  (∀ (f : Frame) i s, i ∈ [Instr.regWr f, .regRd f, .bulkWr f, .bulkRd f, .nop f, .indWr f, .indRd f, .loop f] → f.edges = 0 →
    exec i s = exec .edgelessSelect s) ∧
  (∀ (f : Frame) i s, i ∈ [Instr.regRd f, .bulkRd f, .nop f, .indWr f, .indRd f, .loop f] → f.edges ≠ 0 → s.pwr.held = false →
    Completes i s fun t => t.hp.frames = satAdd 32 1 s.hp.frames) ∧
  (∀ (n : Fin 32) ready s, s.pwr.held = false → n.val ≠ 0 → n.val * laneN s.hp.il < 32 → Completes (.shortHeaderFrame n ready) s fun t =>
    t.hp.shortN = satAdd 8 1 s.hp.shortN ∧ t.hp.reply = BitVec.ofNat 32 (2 ^ 24 + n.val * laneN s.hp.il) ∧
    t.hp.nOut = 0 ∧ t.hp.out = [] ∧ Only [.hp, .reg, .mbox, .flt, .mem] s t) ∧
  ∀ (f : Frame) i s, i ∈ [Instr.regWr f, .regRd f, .bulkWr f, .bulkRd f, .nop f, .indWr f, .indRd f, .loop f, .edgelessSelect] →
    s.pwr.held = true → exec i s = .next s

/-- R666, R669, R671, R674 to R676, R685: what reads return, that a read of IND_DATA or of a bulk stream moves on only when the next frame has
carried all of its data, and that an echo is the payload. -/
def Obligations.FrameReads : Prop :=
  (∀ (f : Frame) s, PlainFrame 32 f s → f.door = 0 → Completes (.nop f) s fun t => Replied 0 f 32 0 [] t ∧ OnlyPort s t) ∧
  (∀ (f : Frame) s, PlainFrame 32 f s → f.door = 0 → (f.addr.toNat < 0x8000 → canon f.addr.toNat ≠ 0x141) →
    Completes (.regRd f) s fun t => Replied 0 f 32 32 [BitVec.ofNat 32 (s.regRead .host f.addr.toNat).val] t ∧
      OnlyPort (s.regRead .host f.addr.toNat).st t) ∧
  (∀ (f : Frame) s, PlainFrame 32 f s → f.door = 0 → f.addr.toNat < 0x8000 → canon f.addr.toNat = 0x141 →
    Completes (.regRd f) s fun t => Replied (if s.indRead.2.1 then 6 else 0) f 32 32 [BitVec.ofNat 32 s.indRead.1] t ∧
      t.reg.addr = s.reg.addr ∧ (s.reg.nextAddr ≠ s.reg.addr → t.hp.fx = .ind s.reg.nextAddr)) ∧
  (∀ (f : Frame) s, PlainFrame 32 f s → f.door = 0 → s.hp.payload % 32 = 0 → Completes (.indRd f) s fun t =>
    let r := s.indBurst (s.hp.payload / 32)
    Replied (if r.2.1 then 6 else 0) f 32 s.hp.payload (r.1.map (BitVec.ofNat 32 ·)) t ∧ t.reg.addr = s.reg.addr ∧
      (r.2.2.reg.addr ≠ s.reg.addr → t.hp.fx = .ind r.2.2.reg.addr)) ∧
  (∀ (f : Frame) s, PlainFrame 32 f s → f.door ≠ 4 → f.door ≠ 5 → 32 * f.addr.toNat + s.hp.payload ≤ 2048 → Completes (.bulkRd f) s fun t =>
    Replied 0 f 32 s.hp.payload ((sliceWords (s.doorBits f.door) (32 * f.addr.toNat) s.hp.payload).map (BitVec.ofNat 32 ·)) t ∧
      OnlyPort s t) ∧
  (∀ (f : Frame) st s, PlainFrame 32 f s → (f.door = 4 ∨ f.door = 5) → (s.door f.door).stream = some st → Completes (.bulkRd f) s fun t =>
    Replied 0 f 32 s.hp.payload ((sliceWords (s.doorBits f.door) st.pos s.hp.payload).map (BitVec.ofNat 32 ·)) t ∧
      t.hp.fx = .bulk f.door (min 2048 (st.pos + s.hp.payload)) ∧ OnlyPort s t) ∧
  (∀ (f : Frame) s, PlainFrame (32 + s.hp.payload) f s → f.door = 0 → Completes (.loop f) s fun t =>
    Replied 0 f (32 + s.hp.payload) s.hp.payload ((groupsOf s.hp.payload f.pay).map (BitVec.ofNat 32 ·)) t ∧
      OnlyPort (s.modTest 3 0 (TestRun.payload f.us.toNat s.hp.payload (groupsOf s.hp.payload f.pay))) t) ∧
  (∀ (f : Frame) a s, s.pwr.held = false → s.pwr.brace = false → s.hp.il = 0 → s.hp.ol = 0 → s.hp.nOut = 32 → s.hp.wait = false → s.hp.fx = .ind a →
    f.ready = true → f.ring = false → f.door = 0 →
    (f.edges = 64 → Completes (.nop f) s fun t => t.reg.addr = a ∧ Replied 0 f 64 0 [] t ∧ t.hp.sent = cutGroups 64 64 (s.hp.reply :: s.hp.out)) ∧
    (f.edges = 63 → Completes (.nop f) s fun t => t.reg.addr = s.reg.addr ∧ Replied 1 f 63 0 [] t ∧
      t.hp.truncN = satAdd 8 1 s.hp.truncN))

/-- R669, R671, R673 to R675, R679, R687, R688: what writes leave, and what a frame discarded with BADOP, LOCKED or CONFLICT does not. -/
def Obligations.FrameWrites : Prop :=
  (∀ (f : Frame) w s, PlainFrame 64 f s → f.door = 0 → f.pay = [w] →
    let r := (s.modHp fun h => { h with low := true }).regWrite .host f.addr.toNat w.toNat f.me
    r.2.hp.low = true → r.1 ≠ .badop → Completes (.regWr f) s fun t => Replied r.1.code f 64 0 [] t ∧ OnlyPort r.2 t ∧
      t.hp.scratch = r.2.hp.scratch ∧ t.hp.len = r.2.hp.len ∧ t.hp.il = r.2.hp.il ∧ t.hp.ol = r.2.hp.ol ∧
      t.hp.idle = r.2.hp.idle ∧ t.hp.strict = r.2.hp.strict) ∧
  (∀ (f : Frame) w s, PlainFrame 64 f s → f.door = 0 → f.pay = [w] → f.addr.toNat < 0x8000 → canon f.addr.toNat = 0x046 →
    Completes (.regWr f) s fun t => Replied 0 f 64 0 [] t ∧ OnlyPort s t ∧ t.hp.scratch = w) ∧
  (∀ (f : Frame) w s, PlainFrame 64 f s → f.door = 0 → f.pay = [w] → f.addr.toNat < 0x8000 → isGuarded (canon f.addr.toNat) = true →
    s.reg.armed = false → Completes (.regWr f) s fun t => Replied 3 f 64 0 [] t ∧ OnlyPort s t) ∧
  (∀ (f : Frame) s, PlainFrame (32 + s.hp.payload) f s → f.door.val < 4 → (s.door f.door).st ≠ .busy →
    32 * f.addr.toNat + s.hp.payload ≤ 2048 → Completes (.bulkWr f) s fun t => Replied 0 f (32 + s.hp.payload) 0 [] t ∧
      OnlyPort (s.modDoor f.door (·.putWords f.addr.toNat (groupsOf s.hp.payload f.pay))) t) ∧
  (∀ (f : Frame) s, PlainFrame (32 + s.hp.payload) f s → f.door = 7 → s.reg.armed = true → (s.door 7).st ≠ .busy →
    32 * f.addr.toNat + s.hp.payload ≤ 2048 → Completes (.bulkWr f) s fun t => Replied 0 f (32 + s.hp.payload) 0 [] t ∧
      OnlyPort ((s.modReg fun r => { r with armed := false }).modDoor 7
        (·.putWords f.addr.toNat (groupsOf s.hp.payload f.pay))) t) ∧
  (∀ (f : Frame) s, PlainFrame (32 + s.hp.payload) f s → f.door = 7 → s.reg.armed = false →
    32 * f.addr.toNat + s.hp.payload ≤ 2048 → Completes (.bulkWr f) s fun t => Replied 3 f (32 + s.hp.payload) 0 [] t ∧ OnlyPort s t) ∧
  (∀ (f : Frame) s, PlainFrame (32 + s.hp.payload) f s → f.door.val < 4 → (s.door f.door).st = .busy →
    32 * f.addr.toNat + s.hp.payload ≤ 2048 → Completes (.bulkWr f) s fun t => Replied 8 f (32 + s.hp.payload) 0 [] t ∧ OnlyPort s t) ∧
  (∀ (f : Frame) st s, PlainFrame (32 + s.hp.payload) f s → (f.door = 4 ∨ f.door = 5) → (s.door f.door).st = .reply →
    (s.door f.door).stream = some st → st.inbound = true → Completes (.bulkWr f) s fun t => Replied 0 f (32 + s.hp.payload) 0 [] t ∧
      OnlyPort (s.modDoor f.door fun x => { (x.putStream st.pos s.hp.payload (groupsOf s.hp.payload f.pay)) with
        stream := some { st with pos := min 2048 (st.pos + s.hp.payload) } }) t) ∧
  (∀ (f : Frame) s, PlainFrame (32 + s.hp.payload) f s → f.door = 0 → s.hp.payload % 32 = 0 → Completes (.indWr f) s fun t =>
    Replied 0 f (32 + s.hp.payload) 0 [] t ∧ OnlyPort (forAll (groupsOf s.hp.payload f.pay) (fun w s => s.indWrite w) s) t) ∧
  (∀ (op : BitVec 4) (f : Frame) s, PlainFrame 32 f s → (op = 0 ∨ 9 ≤ op.toNat) → Completes (.badop op f) s fun t =>
    Replied 4 f 32 0 [] t ∧ t.hp.badopN = satAdd 8 1 s.hp.badopN ∧ (5, 0, 4, s.now) ∈ t.flt ∧ Only [.hp, .flt, .mbox] s t) ∧
  ∀ (f : Frame) s, PlainFrame 32 f s → f.door = 6 → Completes (.bulkWr f) s fun t =>
    Replied 4 f 32 0 [] t ∧ t.hp.badopN = satAdd 8 1 s.hp.badopN ∧ Only [.hp, .flt, .mbox] s t

/-! ## Registers -/

/-- R722 to R724, R730, R731: what a host write of KEY does in and outside a lock-out, which the fourth wrong value in a row begins; a guarded
write needs the armed key and disarms it; OEM_ID and NODE_SERIAL are written once, and not while HOLDUP_OK is low. -/
def Obligations.KeyWritesAndGuardedWrites : Prop :=
  (∀ s, s.pwr.held = false → s.reg.lockout = false → (s.keyWrite 0xC0B1).1 = .ok ∧
    exec (.keyWrite 0xC0B1) s = .next (s.modReg fun r => { r with armed := true, run := 0 })) ∧
  (∀ (w : W32) s, s.pwr.held = false → s.reg.lockout = false → w ≠ 0xC0B1 → (s.keyWrite w.toNat).1 = .ok ∧
    Completes (.keyWrite w) s fun t => t.reg.armed = false ∧ t.reg.keyErr = satAdd 16 1 s.reg.keyErr ∧ t.reg.run = s.reg.run + 1 ∧
      t.reg.lockout = decide (4 ≤ s.reg.run + 1) ∧ t.reg.ev = (if 4 ≤ s.reg.run + 1 then s.reg.ev.raise 9 else s.reg.ev) ∧ Only [.reg] s t) ∧
  (∀ (w : W32) s, s.pwr.held = false → s.reg.lockout = true → (s.keyWrite w.toNat).1 = .locked ∧ exec (.keyWrite w) s = .next s) ∧
  (∀ s, s.reg.lockout = true → exec .lockoutEnd s = .next (s.modReg fun r => { r with lockout := false, run := 0, armed := false })) ∧
  (∀ (a : BitVec 15) w me s, isGuarded (canon a.toNat) = true → s.reg.armed = false → exec (.guardedWrite a w me) s = .next s) ∧
  (∀ (a : BitVec 15) w me s, s.pwr.held = false → canon a.toNat = 0x103 → s.reg.armed = true → s.otp.oem = none → s.pwr.holdup = true →
    s.pwr.brace = false → exec (.guardedWrite a w me) s =
      .next ((s.modReg fun r => { r with armed := false }).modOtp (·.write false w.toNat none))) ∧
  (∀ (w : W32) s, s.pwr.held = false → s.reg.armed = true → s.otp.oem = none → s.pwr.holdup = true → s.pwr.brace = false →
    exec (.otpFieldWrite false w) s = .next ((s.modReg fun r => { r with armed := false }).modOtp (·.write false w.toNat none))) ∧
  (∀ (w : W32) s, s.pwr.held = false → s.reg.armed = true → s.otp.node = none → s.pwr.holdup = true → s.pwr.brace = false →
    Completes (.otpFieldWrite true w) s fun t =>
      let sh := s.reg.wrSh.get [] 0x104
      t.otp = s.otp.write true (packB 32 [Tab.get 0 sh 0, Tab.get 0 sh 1, Tab.get 0 sh 2, w.toNat]) none ∧ t.reg.armed = false ∧
        t.reg.wrSh.get [] 0x104 = [] ∧ Only [.otp, .reg] s t) ∧
  (∀ node (w : W32) s, s.pwr.held = false → s.reg.armed = true → s.otp.written node = true → Completes (.otpFieldWrite node w) s fun t =>
    t.otp = s.otp ∧ t.reg.armed = false ∧ t.reg.ev = s.reg.ev.raise 8 ∧ t.reg.woAddr = (if node then 0x107 else 0x103)) ∧
  ∀ node (w : W32) s, s.pwr.held = false → s.reg.armed = true → s.otp.written node = false → (s.pwr.holdup = false ∨ s.pwr.brace = true) →
    Completes (.otpFieldWrite node w) s fun t => t.otp = s.otp ∧ t.reg.armed = false ∧ t.reg.ev = s.reg.ev.raise 10

/-- R705, R706: a write of an RS register clears the bits written as 1 only where its SEQ is current and no event has come since the same master
read it; in every other case nothing changes, also after exactly 256 events, when SEQ reads the same again. -/
def Obligations.ClearsNeedCurrentRead : Prop :=
  (∀ m (a : BitVec 15) (w : W32) s, s.pwr.held = false → isRs (canon a.toNat) = true →
    (s.regWrite m a.toNat w.toNat measNone).1 = .ok ∧
    exec (.rsClear m a w) s = .next (s.modRs (canon a.toNat) (·.clear (m = .host) w))) ∧
  (∀ m (a : BitVec 15) (w : W32) me s, isRs (canon a.toNat) = true → exec (.registerWrite m a w me) s = exec (.rsClear m a w) s) ∧
  (∀ host (w : W32) (r : RsReg), w.setWidth 8 = r.seq → (if host then r.host else r.cob) = some r.n →
    r.clear host w = { r with ev := r.ev &&& ~~~((w >>> 8).setWidth 24) }) ∧
  (∀ host (w : W32) (r : RsReg), (w.setWidth 8 ≠ r.seq ∨ (if host then r.host else r.cob) ≠ some r.n) → r.clear host w = r) ∧
  (∀ m (a : BitVec 15) s, s.pwr.held = false → isRs (canon a.toNat) = true →
    exec (.rsRead m a) s = .next (s.modRs (canon a.toNat) (·.noteRead (m = .host)))) ∧
  (∀ host (w : W32) (r : RsReg) l, l ≠ [] →
    (l.foldl (fun (r : RsReg) b => r.raise b) (r.noteRead host)).clear host w = l.foldl (fun (r : RsReg) b => r.raise b) (r.noteRead host)) ∧
  (∀ (a : BitVec 15) s, s.pwr.held = false → canon a.toNat = 0x0C2 → Completes (.rsRead .host a) s fun t =>
    Completes (.rsClear .host a s.ts.ev.word) t fun u => u.ts.ev.ev = 0 ∧ u.ts.ev.seq = s.ts.ev.seq ∧ Only [.ts] s u) ∧
  ∀ host (w : W32), RsReg.init.clear host w = RsReg.init

/-- R690, R699, R701, R707 to R710, R727 to R729, R741, R749, R754 to R758: counts take the written value; the low word of a multi-word value
latches the upper ones, and its write waits for the last word; HP_LANES is written once; a bit write changes its bit alone; the key and the
snapshot have the effects of their fields; a copied record reaches the latches of its source. R713 to R720, R762: an access of IND_DATA moves
IND_ADDR on by STRIDE; a read of part 0 latches the word for its other parts; every location refuses writes; a write of IND_ADDR or IND_CTL drops
the latches. -/
def Obligations.RegistersAndIndirectAccess : Prop :=
  ((∀ (a : BitVec 15) (w : W32) s, s.pwr.held = false → canon a.toNat = 0x00C →
     exec (.rcWrite a w) s = .next (s.modStore fun d => { d with torn := w.toNat })) ∧
   (∀ (a : BitVec 15) (w : W32) (k : OctIx) (s : State), s.pwr.held = false → canon a.toNat = 0x203 + 32 * k.val →
     exec (.rcWrite a w) s = .next (s.modLoop k fun l => { l with lossN := bits w.toNat 0 16, forcedN := bits w.toNat 16 8
                                                                  excurN := bits w.toNat 24 8 })) ∧
   (∀ (a : BitVec 15) (l : Fin 32) (i : Fin 3) s, s.pwr.held = false → canon a.toNat = 0x180 + 4 * l.val →
     Completes (.multiwordLowRead .host a) s fun t =>
       (t.regRead .host (0x181 + 4 * l.val + i.val)).val = s.shown (0x181 + 4 * l.val + i.val) ∧ Only [.reg] s t) ∧
   (∀ (a : BitVec 15) (w : W32) (i : Fin 3) s, s.pwr.held = false → canon a.toNat = 0x104 + i.val →
     Completes (.multiwordWrite .host a w) s fun t => Tab.get 0 (t.reg.wrSh.get [] 0x104) i.val = w.toNat ∧ t.otp = s.otp ∧ Only [.reg] s t) ∧
   (∀ m (a : BitVec 15) (w : W32) s, s.pwr.held = false → canon a.toNat = 0x044 → s.hp.lanesW = false → bits w.toNat 0 2 ≠ 3 →
     bits w.toNat 2 2 ≠ 3 → exec (.wo1Write m a w) s =
       .next (s.modHp fun h => { h with il := bits w.toNat 0 2, ol := bits w.toNat 2 2, lanesW := true })) ∧
   (∀ m (a : BitVec 15) (w : W32) s, s.pwr.held = false → canon a.toNat = 0x044 → s.hp.lanesW = true → exec (.wo1Write m a w) s =
       .next (s.modReg fun r => { r with ev := r.ev.raise 8, woAddr := 0x044 })) ∧
   (∀ (w : W32) s, s.pwr.held = false → s.hp.lanesW = false → bits w.toNat 0 2 ≠ 3 → bits w.toNat 2 2 ≠ 3 → exec (.hpLanesWrite w) s =
       .next (s.modHp fun h => { h with il := bits w.toNat 0 2, ol := bits w.toNat 2 2, lanesW := true })) ∧
   (∀ (w : W32) s, s.pwr.held = false → s.hp.lanesW = false → (bits w.toNat 0 2 = 3 ∨ bits w.toNat 2 2 = 3) →
     exec (.hpLanesWrite w) s = .next s) ∧
   (∀ (w : W32) s, s.pwr.held = false → s.hp.lanesW = true → exec (.hpLanesWrite w) s =
       .next (s.modReg fun r => { r with ev := r.ev.raise 8, woAddr := 0x044 })) ∧
   (∀ m (a : BitVec 10) (b : Fin 32) d me s, s.pwr.held = false → canon a.toNat = 0x046 → Completes (.bitAliasWrite m a b d me) s fun t =>
     (∀ j, j < 32 → t.hp.scratch.getLsbD j = if j = b.val then d else s.hp.scratch.getLsbD j) ∧ Only [.hp] s t) ∧
   (∀ m (a : BitVec 15) (w : W32) me s, s.pwr.held = false → canon a.toNat = 0x0C1 → exec (.registerWrite m a w me) s =
       .next (s.modReg fun r => { r with mask := bits w.toNat 0 24, pin := w.getLsbD 31 })) ∧
   (∀ s, s.pwr.held = false → s.domOn pdRef = true → Completes .snap s fun t =>
     (t.latchOf 0).toNat / 2 ^ 32 = dtfOf s.now ∧ (t.latchOf 0).toNat % 4096 = ((s.latchOf 0).toNat + 1) % 4096 ∧ Only [.latch] s t) ∧
   (∀ r q s, s.devq.copies = r :: q → Completes .latchUpdate s fun t => t.devq.copies = q ∧ (r.src = 0x800 → t.latchOf 2 = r.word) ∧
     (∀ i, i < 24 → s.pv (P.latchSrc + i) = r.src → t.latchOf (8 + i) = r.word) ∧ Only [.devq, .latch] s t)) ∧
  ((∀ s, s.pwr.held = false → Completes .indDataRead s fun t => t.reg.addr = s.reg.nextAddr ∧ Only [.mbox, .store, .flt, .mem, .reg] s t) ∧
   (∀ s, s.pwr.held = false → s.reg.addr % 4 = 0 → indMapped s.reg.addr = true → (s.reg.addr < 0x200000 ∨ 0x300000 ≤ s.reg.addr) →
     (s.indWord s.reg.addr).absent = false → Completes .indDataRead s fun t =>
       t.reg.rdLatch = some (s.reg.addr, (s.indWord s.reg.addr).data % 2 ^ 128, (s.indWord s.reg.addr).ue)) ∧
   (∀ w ue i s, s.pwr.held = false → s.reg.rdLatch = some (s.reg.addr - i, w, ue) → i ≠ 0 → s.reg.addr % 4 = i → s.indRead.1 = partOf w i ∧
     exec .indDataRead s = .next (s.modReg fun r => { (r.indDone false ue false) with addr := r.nextAddr })) ∧
   (∀ s, s.pwr.held = false → s.reg.addr % 4 = 0 → (s.indWord s.reg.addr).absent = true → Completes .indDataRead s fun t =>
     t.reg.absent = true ∧ t.reg.absentN = satAdd 8 1 s.reg.absentN) ∧
   (∀ (w : W32) s, s.pwr.held = false → Completes (.indDataWrite w) s fun t => t.reg.addr = s.reg.nextAddr ∧
     t.reg.rowr = !(s.indWord s.reg.addr).absent ∧ t.reg.absent = (s.indWord s.reg.addr).absent ∧ t.reg.rdLatch = none ∧ Only [.reg] s t) ∧
   (∀ (w : W32) s, s.pwr.held = false → exec (.indAddrWrite false w) s =
     .next (s.modReg fun r => { r with addr := bits w.toNat 0 24, rdLatch := none, wrLatch := [] })) ∧
   ∀ (w : W32) s, s.pwr.held = false → exec (.indAddrWrite true w) s =
     .next (s.modReg fun r => { r with stride := bits w.toNat 0 16, rdLatch := none, wrLatch := [] }))

/-! ## The mailbox -/

/-- R744, R745, R748, R765 to R768, R779 to R784: a ring takes the message that the door holds, not on a BUSY door and on door 7 only with the
key; an undefined command is answered BADCMD; the host's return of door 6 brings the next event; blocks follow each other, and a stream ends at
its last block, at a wrong header, at BULK_CLOSE and at the timeout. -/
def Obligations.DoorsRingAndStream : Prop :=
  (∀ (d : Fin 8) me s, s.pwr.held = false → d.val < 4 → (s.door d).st ≠ .busy → exec (.ring d me) s = .next (s.takeMsg d me)) ∧
  (∀ (d : Fin 8) me s, s.pwr.held = false → d.val < 4 → (s.door d).st = .busy → exec (.ring d me) s = .next s) ∧
  (∀ me s, s.pwr.held = false → s.reg.armed = true → (s.door 7).st ≠ .busy →
    exec (.ring 7 me) s = .next ((s.modReg fun r => { r with armed := false }).takeMsg 7 me)) ∧
  (∀ me s, s.reg.armed = false → exec (.ring 7 me) s = .next s) ∧
  (∀ (d : Fin 8) me (tag : BitVec 16) s, s.pwr.held = false → d.val < 4 → (s.door d).st ≠ .busy → s.pwr.rom = false →
    (s.door d).words.get 0 0 = BitVec.ofNat 128 (fld 112 16 0x0101 + fld 96 16 tag.toNat + fld 80 16 16) →
    exec (.ring d me) s = exec (.infoId ⟨d, tag, false, false⟩) s) ∧
  (∀ (d : Fin 8) me (tag : BitVec 16) (cmd : BitVec 16) s, s.pwr.held = false → d.val < 4 → (s.door d).st ≠ .busy → s.pwr.rom = false →
    cmdForm cmd.toNat 0 = none →
    (s.door d).words.get 0 0 = BitVec.ofNat 128 (fld 112 16 cmd.toNat + fld 96 16 tag.toNat + fld 80 16 16) →
    Completes (.ring d me) s fun t => Answered ⟨d, tag, false, false⟩ cmd.toNat (.fail .badcmd) t ∧ OnlyDoor d s t) ∧
  (∀ e q s, (s.door 6).st = .reply → s.mbox.evLostNew = 0 → s.mbox.evq = e :: q → Completes .eventDoorReturn s fun t =>
    (t.door 6).st = .reply ∧ (t.door 6).tag = BitVec.ofNat 16 s.mbox.evSeq ∧ t.mbox.evq = q ∧ t.mbox.evSeq = (s.mbox.evSeq + 1) % 2 ^ 16 ∧
      ∀ i, i < 3 → (t.door 6).words.get 0 i = (e.msg s.mbox.evSeq s.now).get 0 i) ∧
  (∀ s, (s.door 6).st = .reply → s.mbox.evLostNew = 0 → s.mbox.evq = [] → Completes .eventDoorReturn s fun t =>
    (t.door 6).st = .busy ∧ OnlyDoor 6 s t) ∧
  (∀ s, 512 ≤ s.mbox.evq.length → exec .evtLost s =
    .next (s.modMbox fun m => { m with evLost := satAdd 32 1 m.evLost, evLostNew := satAdd 32 1 m.evLostNew })) ∧
  (∀ five st s, s.pwr.held = false → (s.door (4 + bit five)).st = .reply → (s.door (4 + bit five)).stream = some st → st.inbound = false →
    st.last = true → exec (.bulkBlockRing five) s = .next (s.modDoor (4 + bit five) fun x => { x with st := .idle, stream := none })) ∧
  (∀ five st s, s.pwr.held = false → (s.door (4 + bit five)).st = .reply → (s.door (4 + bit five)).stream = some st → st.inbound = false →
    st.last = false → Completes (.bulkBlockRing five) s fun t => (t.door (4 + bit five)).st = .reply ∧
      (t.door (4 + bit five)).stream =
        some { st with block := st.block + 1, data := st.data.drop 15, last := decide (st.data.length ≤ 15), pos := 0 } ∧
      (∀ i, i < 15 → (t.door (4 + bit five)).words.get 0 (i + 1) = st.data.getD i 0) ∧ OnlyDoor (4 + bit five) s t) ∧
  (∀ five st s, s.pwr.held = false → (s.door (4 + bit five)).st = .reply → (s.door (4 + bit five)).stream = some st → st.inbound = true →
    st.headOk ((s.door (4 + bit five)).words.get 0 0).toNat = true → ((s.door (4 + bit five)).words.get 0 0).toNat.testBit 16 = false →
    Completes (.bulkBlockRing five) s fun t => ((t.door (4 + bit five)).stream.map fun x => (x.got, x.block, x.pos)) =
      some (st.got + bits ((s.door (4 + bit five)).words.get 0 0).toNat 0 16, st.block + 1, 0) ∧ OnlyDoor (4 + bit five) s t) ∧
  (∀ five st s, s.pwr.held = false → (s.door (4 + bit five)).st = .reply → (s.door (4 + bit five)).stream = some st → st.inbound = true →
    st.opener.door.val ≠ 4 + bit five → st.headOk ((s.door (4 + bit five)).words.get 0 0).toNat = false →
    Completes (.bulkBlockRing five) s fun t => (t.door (4 + bit five)).st = .idle ∧ (t.door (4 + bit five)).stream = none ∧
      Answered st.opener st.cmd (.fail .badarg) t) ∧
  (∀ five st s, (s.door (4 + bit five)).st = .reply → (s.door (4 + bit five)).stream = some st → st.opener.door.val ≠ 4 + bit five →
    Completes (.streamIdleTimeout five) s fun t => (t.door (4 + bit five)).st = .idle ∧ (t.door (4 + bit five)).stream = none ∧
      (st.inbound = true → Answered st.opener st.cmd (.fail .badarg) t)) ∧
  (∀ h (bd : Fin 8) st s, Taken h 0x0104 s → (bd.val = 4 ∨ bd.val = 5) → (s.door bd).stream = some st → st.opener.door.val ≠ bd.val →
    st.opener.door ≠ h.door → Completes (.bulkClose h bd) s fun t => Answered h 0x0104 .ok t ∧ (t.door bd).st = .idle ∧
      (t.door bd).stream = none ∧ (st.inbound = true → Answered st.opener st.cmd (.fail .badarg) t)) ∧
  ∀ h (bd : Fin 8) s, Taken h 0x0104 s → bd.val ≠ 4 → bd.val ≠ 5 →
    exec (.bulkClose h bd) s = .next ((s.taken h).reply h 0x0104 (.fail .badarg))

/-- R113, R132, R262, R308, R739, R788: what the information commands answer, and that they change nothing but their door. -/
def Obligations.InformationCommands : Prop :=
  (∀ h s, Taken h 0x0101 s → Completes (.infoId h) s fun t => OnlyDoor h.door s t ∧ Answered h 0x0101 ⟨.ok, 0, 0, 0, [
    fld 0 64 Config.deviceId.toNat + fld 64 8 Config.silRev.toNat + fld 72 1 (bit Config.gradeE) + fld 96 32 ((s.img.map (·.rel)).getD 0),
    fld 0 32 (s.otp.oem.getD 0) + fld 32 8 ((s.img.map (·.sv)).getD 0), s.otp.node.getD 0 % 2 ^ 128]⟩ t) ∧
  (∀ h s, Taken h 0x0102 s → Completes (.devStatus h) s fun t => OnlyDoor h.door s t ∧
    ∀ d, d < 4 → (t.door h.door).words.get 0 (d + 1) =
      BitVec.ofNat 128 (fld 0 32 (s.src (0x800 + d)).rate + fld 32 32 (s.src (0x800 + d)).dll + fld 64 32 (s.src (0x800 + d)).hold)) ∧
  (∀ h s, Taken h 0x0103 s → Completes (.tsInfo h) s fun t => OnlyDoor h.door s t ∧ Answered h 0x0103 ⟨.ok, 0, 0, 0,
    [bits (s.latchOf 1).toNat 32 96, toBits 64 s.ts.rate + 2 ^ 64 * tivWord s.ts.o, tivWord s.ts.u]⟩ t) ∧
  (∀ h s, Taken h 0x0306 s → Completes (.chTraverse h none) s fun t => OnlyDoor h.door s t ∧
    Answered h 0x0306 ⟨.ok, 0, 0, 0, s.ts.trav.words⟩ t) ∧
  (∀ h (c : Ch) s, Taken h 0x0306 s → Completes (.chTraverse h (some c)) s fun t => OnlyDoor h.door s t ∧
    Answered h 0x0306 ⟨.ok, 0, 0, 0, (s.chan (s.actOf c)).trav.words⟩ t) ∧
  (∀ h l ws s, Taken h 0x0201 s → (s.taken h).readItems 0 l = .ok ws → ws.length ≤ 15 → Completes (.paramRd h l) s fun t =>
    OnlyDoor h.door s t ∧ Answered h 0x0201 ⟨.ok, 0, 0, 0, ws⟩ t) ∧
  (∀ h l r s, Taken h 0x0201 s → (s.taken h).readItems 0 l = .error r → exec (.paramRd h l) s = .next ((s.taken h).reply h 0x0201 r)) ∧
  (∀ (x : Item) d l (s : State), pFind x.id.toNat = some d → d.perCh = false → x.ch = 0xFFF → s.readItems 0 (x :: l) =
    match s.readItems 1 l with
    | .error r => .error r
    | .ok ws => .ok (itemWords x (s.pv x.id.toNat) ++ ws)) ∧
  ∀ h (bd : Fin 8) s, Taken h 0x0207 s → (bd.val = 4 ∨ bd.val = 5) → (s.door bd).stream = none → Completes (.lastList h bd) s
    (StreamOpened h 0x0207 bd ((sectionWord 2 (s.par.lasts.flatMap fun e => s.item 2 e.1).length ::
      s.par.lasts.flatMap fun e => s.item 2 e.1).map (BitVec.ofNat 128 ·)))

/-! ## Parameters and lasts -/

/-- R758, R786, R789 to R795: a set of writes is refused as a whole by its first failing check, stored as one change where a parameter of it
persists, and else takes effect at once; PARAM_DEFAULT does the same with the reset values; lasts are stored, applied and deleted as changes of
the journal. -/
def Obligations.ParametersAndLasts : Prop :=
  (∀ h l r s, Taken h 0x0202 s → (s.taken h).badparam 0 l = some r → exec (.paramWr h l) s = .next ((s.taken h).reply h 0x0202 r)) ∧
  (∀ h l r s, Taken h 0x0202 s → (s.taken h).badparam 0 l = none → (s.taken h).itemErr 0 l = none →
    (s.taken h).writeErr h.door (l.map (itemWrite false)) = some r → exec (.paramWr h l) s = .next ((s.taken h).reply h 0x0202 r)) ∧
  (∀ h l s, Taken h 0x0202 s → (s.taken h).badparam 0 l = none → (s.taken h).itemErr 0 l = none →
    (s.taken h).writeErr h.door (l.map (itemWrite false)) = none → (∃ w ∈ l.map (itemWrite false), (pFind w.id).any (·.persists) = true) →
    Completes (.paramWr h l) s (Queued h 0x0202 (changeOf (l.map (itemWrite false))) s)) ∧
  (∀ h l s, Taken h 0x0202 s → (s.taken h).badparam 0 l = none → (s.taken h).itemErr 0 l = none →
    (s.taken h).writeErr h.door (l.map (itemWrite false)) = none → (∀ w ∈ l.map (itemWrite false), (pFind w.id).any (·.persists) = false) →
    let c := changeOf (l.map (itemWrite false))
    exec (.paramWr h l) s = .next (((s.taken h).applyParams c).reply h 0x0202 (State.paramRep (s.taken h) c ((s.taken h).applyParams c)))) ∧
  (∀ h (i : Fin 24) (v : BitVec 96) s, Taken h 0x0202 s → ((pFind (P.latchSrc + i.val)).any fun d => d.ty.ok v.toNat) = true →
    Completes (.paramWr h [⟨BitVec.ofNat 16 (P.latchSrc + i.val), 0xFFF, v⟩]) s fun t => Answered h 0x0202 .ok t ∧
      t.pv (P.latchSrc + i.val) = v.toNat ∧ t.latchOf (8 + i.val) = BitVec.ofNat 128 (fld 20 12 v.toNat)) ∧
  (∀ h l r s, Taken h 0x0203 s → (s.taken h).badparam 0 l = none → (s.taken h).itemErr 0 l = none →
    (s.taken h).writeErr h.door (l.map (itemWrite true)) = some r → exec (.paramDefault h l) s = .next ((s.taken h).reply h 0x0203 r)) ∧
  (∀ h l s, Taken h 0x0203 s → (s.taken h).badparam 0 l = none → (s.taken h).itemErr 0 l = none →
    (s.taken h).writeErr h.door (l.map (itemWrite true)) = none → (∃ w ∈ l.map (itemWrite true), (pFind w.id).any (·.persists) = true) →
    Completes (.paramDefault h l) s (Queued h 0x0203 (changeOf (l.map (itemWrite true))) s)) ∧
  (∀ h l s, Taken h 0x0203 s → (s.taken h).badparam 0 l = none → (s.taken h).itemErr 0 l = none →
    (s.taken h).writeErr h.door (l.map (itemWrite true)) = none → (∀ w ∈ l.map (itemWrite true), (pFind w.id).any (·.persists) = false) →
    let c := changeOf (l.map (itemWrite true))
    exec (.paramDefault h l) s = .next (((s.taken h).applyParams c).reply h 0x0203 (State.paramRep (s.taken h) c ((s.taken h).applyParams c)))) ∧
  (∀ h n (c : Ch) s, Taken h 0x0204 s → s.lastUser n.val = none → (h.door = 7 ∨ look ((s.taken h).lastFor c) P.fmax = none) →
    Completes (.lastSave h n c) s (Queued h 0x0204 (.last n.val (some ((s.taken h).lastFor c))) s)) ∧
  (∀ h n (c : Ch) d s, Taken h 0x0204 s → s.lastUser n.val = some d →
    exec (.lastSave h n c) s = .next ((s.taken h).reply h 0x0204 (.named .busy d))) ∧
  (∀ h n s, Taken h 0x0206 s → s.lastUser n.val = none → Completes (.lastDelete h n) s (Queued h 0x0206 (.last n.val none) s)) ∧
  (∀ h n d s, Taken h 0x0206 s → s.lastUser n.val = some d → exec (.lastDelete h n) s = .next ((s.taken h).reply h 0x0206 (.named .busy d))) ∧
  (∀ h (n : BitVec 8) (c0 c1 : Ch) (s : State), Taken h 0x0205 s → (n.toNat < 64 ∨ n = 0xFF) → c0.val ≤ c1.val →
    (∀ c, c0.val ≤ c → c ≤ c1.val → s.lastOk c = true) →
    let l : Tab Nat := if n = 0xFF then [] else (look s.par.lasts n.toNat).getD []
    let t := (s.taken h).withChange (.lastApply n.toNat c0 c1)
    (h.door = 7 ∨ look l P.fmax = none) → (c1.val < 256 ∨ look l P.chAutostart = none) →
    (∀ c id, c0.val ≤ c → c ≤ c1.val → id ∈ lastable → t.cp c id ≠ s.cp c id →
      t.crossErr ⟨id, some c, some (t.cp c id)⟩ = none ∧ t.modeErr ⟨id, some c, some (t.cp c id)⟩ = none) →
    Completes (.lastApply h n c0 c1) s (Queued h 0x0205 (.lastApply n.toNat c0 c1) s)) ∧
  (∀ h (n : BitVec 8) (c0 c1 : Ch) s, Taken h 0x0205 s → n.toNat < 64 → c1.val < c0.val →
    exec (.lastApply h n c0 c1) s = .next ((s.taken h).reply h 0x0205 (.fail .range))) ∧
  ∀ h (n : BitVec 8) (c : Ch) s, Taken h 0x0205 s → n.toNat < 64 → s.lastOk c = false →
    exec (.lastApply h n c c) s = .next ((s.taken h).reply h 0x0205 (.named .mode c))

/-! ## Tests and ports -/

/-- R443, R823 to R828, R832 to R836: an accepted test stands among the tests with its generator at the start, and a channel test puts the channel
into TEST; TEST_STOP, the duration and a missing sync end tests, which TEST_DONE reports; the checker's sync, its loss and the eye scan. -/
def Obligations.PatternTestsRunAndEnd : Prop :=
  (∀ h (unit : BitVec 16) (kind : BitVec 4) (pat : BitVec 8) secs s, Taken h 0x0901 s →
    (s.taken h).testErr kind.toNat unit.toNat pat.toNat = none → kind ≠ 5 → Completes (.testRun h unit kind pat secs) s fun t =>
      Answered h 0x0901 .ok t ∧ t.tests = s.tests ++
        [⟨kind.toNat, unit.toNat, pat.toNat, secs.toNat, false, none, 0, 0, 0, patStart (pat.toNat % 128), ⟨0, 0, 0, 0⟩, none⟩] ∧
      ((kind = 0 ∨ kind = 2) → (t.chan unit.toNat).st = .test) ∧
      (kind = 4 → ∀ i, i < 227 → look t.store.flash (227 * (s.mem.sectors - 1) + i) =
        some ⟨Config.memTest (pat.toNat % 128) i, .clean⟩)) ∧
  (∀ h (unit : BitVec 16) (pat : BitVec 8) secs s, Taken h 0x0901 s → (s.taken h).testErr 5 unit.toNat pat.toNat = none →
    (∀ r ∈ s.tests, r.kind ≠ 5) → s.per.q.length < 4 → Completes (.testRun h unit 5 pat secs) s fun t => Answered h 0x0901 .ok t ∧
      t.per.q = s.per.q ++ [⟨periphCtl 4096 0 4 3 false false false,
        (patWords (pat.toNat % 128) 128 (patStart (pat.toNat % 128))).1, false⟩] ∧ t.tests.length = s.tests.length + 1) ∧
  (∀ h (unit : BitVec 16) (kind : BitVec 4) (pat : BitVec 8) secs r s, Taken h 0x0901 s →
    (s.taken h).testErr kind.toNat unit.toNat pat.toNat = some r →
    exec (.testRun h unit kind pat secs) s = .next ((s.taken h).reply h 0x0901 r)) ∧
  (∀ h (unit : BitVec 16) ms s, Taken h 0x0902 s → Completes (.testStop h unit ms) s fun t => Answered h 0x0902 .ok t ∧
    t.tests = s.tests.filter fun r => r.unit ≠ unit.toNat) ∧
  (∀ (kind : Fin 7) (unit : BitVec 16) b e r s, s.testOf kind unit.toNat = some r → r.secs ≠ 0 → Completes (.testDuration kind unit b e) s fun t =>
    t.tests = (s.tests.filter fun x => ¬(x.kind = kind.val ∧ x.unit = unit.toNat)) ∧
    (kind.val = 0 → unit.toNat < 256 → (s.chan unit.toNat).st = .test → (t.chan unit.toNat).st = .idle) ∧
    (s.mbox.evq.length < 512 → kind.val ≠ 4 → r.eye = none → (s.door 6).st = .reply →
      t.mbox.evq = s.mbox.evq ++ [⟨0x8901, fld 0 16 unit.toNat + fld 16 2 (r.count b.toNat e.toNat).verdict, 0,
        (r.count b.toNat e.toNat).word⟩])) ∧
  (∀ (kind : Fin 7) (unit : BitVec 16) r s, s.testOf kind unit.toNat = some r → r.syncT = none → Completes (.testNoSync kind unit) s fun t =>
    t.tests = (s.tests.filter fun x => ¬(x.kind = kind.val ∧ x.unit = unit.toNat)) ∧
    (s.mbox.evq.length < 512 → kind.val ≠ 4 → r.eye = none → (s.door 6).st = .reply →
      t.mbox.evq = s.mbox.evq ++ [⟨0x8901, fld 0 16 unit.toNat + fld 16 2 1, 0, r.word⟩])) ∧
  (∀ (kind : Fin 7) (unit : BitVec 16) us r s, s.testOf kind unit.toNat = some r → kind.val ≠ 3 → r.sync = false →
    Completes (.checkerSync kind unit us) s fun t =>
      t.testOf kind unit.toNat = some { r with sync := true, syncT := some (r.syncT.getD us.toNat) } ∧ Only [.tests] s t) ∧
  (∀ (kind : Fin 7) (unit : BitVec 16) b e r s, s.testOf kind unit.toNat = some r → kind.val ≠ 3 → r.sync = true → r.eye = none →
    Completes (.checkerSyncLoss kind unit b e) s fun t => t.testOf kind unit.toNat = some { r with
      bits := (r.bits + b.toNat) % 2 ^ 64, errs := satAdd 32 e.toNat r.errs, sync := false, resync := satAdd 16 1 r.resync } ∧
      Only [.tests] s t) ∧
  (∀ (kind : Fin 7) (unit : BitVec 16) b e r s, s.testOf kind unit.toNat = some r → kind.val ≠ 3 → r.sync = true → r.eye.isSome = true →
    Completes (.checkerSyncLoss kind unit b e) s fun t => t.testOf kind unit.toNat = some { r with sync := false } ∧ Only [.tests] s t) ∧
  (∀ h (c : Ch) (bd : Fin 8) r s, Taken h 0x0903 s → s.testOf 0 c = some r → r.sync = true → r.eye = none → (bd.val = 4 ∨ bd.val = 5) →
    (s.door bd).stream = none → exec (.testEye h c bd) s = .next ((s.taken h).modTest 0 c fun r => { r with eye := some (h, bd) })) ∧
  (∀ h (c : Ch) (bd : Fin 8) s, Taken h 0x0903 s → s.testOf 0 c = none →
    exec (.testEye h c bd) s = .next ((s.taken h).reply h 0x0903 (.fail .mode))) ∧
  (∀ (c : Ch) (l : List (BitVec 32)) h bd r s, s.testOf 0 c = some r → r.eye = some (h, bd) → (bd = 4 ∨ bd = 5) → h.door.val ≠ bd →
    (s.door bd).stream = none → l.length = 64 → Completes (.eyeScanDone c l) s fun t =>
      StreamOpened h 0x0903 bd (s.eyeWords c (l.map BitVec.toNat)) t ∧ t.testOf 0 c = some { r with eye := none })

/-- R134 to R137, R800 to R804, R810, R811, R813 to R818, R836: a fetch that misses fills its line and keeps the newest 64, not a line with an
uncorrectable word, which raises the bus error; it waits where the port serves no reads; a transfer that completes leaves its input words and its
idle level, a DAC transfer both selects high. -/
def Obligations.PortsFillAndTransfer : Prop :=
  let miss (n : BitVec 16) (k : Nat) (s : State) : Prop := (∃ i, s.img = some i ∧ i.sram = false ∧ i.slot = k) ∧ s.pwr.held = false ∧
    (s.mem.lines.any fun l => l.1 = n.toNat) = false
  (∀ (n : BitVec 16) k ws s, miss n k s → s.readsOpen = true → s.mem.waiting = [] → s.codeLine k n.toNat = some ws → (∀ w ∈ ws, w.cls ≠ .bad) →
    Completes (.prefetchFill n) s fun t => look t.mem.lines n.toNat = some (ws.map (·.data)) ∧ t.mem.cont = true ∧ t.mem.waiting = [] ∧
      Only [.mem, .store, .flt, .mbox] s t) ∧
  (∀ (n : BitVec 16) k ws s, miss n k s → s.readsOpen = true → s.mem.waiting = [] → s.codeLine k n.toNat = some ws → (∃ w ∈ ws, w.cls = .bad) →
    Completes (.prefetchFill n) s fun t => look t.mem.lines n.toNat = none ∧ t.mem.busErr = true) ∧
  (∀ (n : BitVec 16) k s, miss n k s → s.readsOpen = false → exec (.prefetchFill n) s = .next (s.ask (.fill k n.toNat))) ∧
  (∀ (n : BitVec 16) s, (∀ k, ¬ miss n k s) → exec (.prefetchFill n) s = .next s) ∧
  (∀ inp e q s, s.per.q = e :: q → s.pwr.held = false → e.dac = true → exec (.periphEntryDone inp) s = .next (s.modPer fun p =>
    { p with q := q, cpol := e.ctl.testBit 22, inp := (inp.take e.words).map (·.toNat), gpio := 3 })) ∧
  (∀ inp e q s, s.per.q = e :: q → s.pwr.held = false → e.dac = false → (∀ r ∈ s.tests, r.kind ≠ 5) →
    exec (.periphEntryDone inp) s = .next (s.modPer fun p =>
      { p with q := q, cpol := e.ctl.testBit 22, inp := (inp.take e.words).map (·.toNat) })) ∧
  (∀ inp e q r s, s.per.q = e :: q → s.pwr.held = false → e.dac = false → s.tests.find? (·.kind = 5) = some r → q.length < 4 →
    Completes (.periphEntryDone inp) s fun t => t.per.q =
      q ++ [⟨periphCtl 4096 0 4 3 false false false, (patWords (r.pattern % 128) 128 r.gen).1, false⟩] ∧ t.per.gpio = s.per.gpio) ∧
  ∀ inp s, s.per.q = [] → exec (.periphEntryDone inp) s = .next s

/-- R522, R742, R838 to R847: a frame sent carries the DTS and the next number; 64 good frames in a row bring the link up, an own-role frame,
eight frame periods without a good frame, or its silence takes it down with a fault; a complete set gives a follower its error; a TAP instruction
that holds the pins keeps every domain but PD_AON in reset until one that does not; the firmware's heartbeat counts. -/
def Obligations.CascadeScanAndHeartbeat : Prop :=
  (∀ s, s.casRuns = true → Completes .cascadeFrameSend s fun t => t.cas.tx = some s.casFrame ∧ t.cas.txSeq = (s.cas.txSeq + 1) % 2 ^ 16 ∧
    t.cas.txSec = s.now / secU ∧ Only [.cas] s t) ∧
  (∀ (f : CasFrame) mark s, s.casRuns = true → f.role.toNat ≠ s.cas.role → f.role.toNat = 3 - s.cas.role →
    (∀ q, s.cas.last = some q → f.seq.toNat = (q + 1) % 2 ^ 16) → Completes (.cascadeFrame true f mark) s fun t =>
      t.cas.run = min 64 (s.cas.run + 1) ∧ t.cas.last = some f.seq.toNat ∧ t.cas.up = (s.cas.up || decide (64 ≤ s.cas.run + 1)) ∧
      (s.ts.st ≠ .stopped → t.cas.rx = some (f.seq.toNat, linOf mark.toNat))) ∧
  (∀ (f : CasFrame) mark t1 t2 t3 s, s.casRuns = true → s.cas.role = 2 → s.cas.up = true → f.role.toNat = 1 →
    (∀ q, s.cas.last = some q → f.seq.toNat = (q + 1) % 2 ^ 16) → s.devq.xCas.present = true → s.devq.xCas.full = false →
    f.stampOk = true → look s.cas.sets f.peerSeq.toNat = some (t1, t2, t3) → Completes (.cascadeFrame true f mark) s fun t =>
      t.ts.folE = some (roundDiv (stampDiff t2 t1 - stampDiff (linOf f.peerStamp.toNat) t3) 2 - s.pi P.casAsym) ∧
      t.cas.half = some (roundDiv (stampDiff t2 t1 + stampDiff (linOf f.peerStamp.toNat) t3) 2) ∧ t.cas.rate = f.rate.toInt) ∧
  (∀ (f : CasFrame) mark s, s.casRuns = true → f.role.toNat = s.cas.role → s.cas.up = true → Completes (.cascadeFrame true f mark) s fun t =>
    t.cas.up = false ∧ t.cas.run = 0 ∧ (6, 0, 0x30, s.now) ∈ t.flt) ∧
  (∀ (f : CasFrame) mark s, s.casRuns = true → s.cas.up = false →
    exec (.cascadeFrame false f mark) s = .next (s.modCas fun c => { c with run := 0, miss := 0 })) ∧
  (∀ (f : CasFrame) mark s, s.casRuns = true → s.cas.up = true → s.cas.miss < 7 →
    exec (.cascadeFrame false f mark) s = .next (s.modCas fun c => { c with miss := c.miss + 1 })) ∧
  (∀ (f : CasFrame) mark s, s.casRuns = true → s.cas.up = true → 7 ≤ s.cas.miss → Completes (.cascadeFrame false f mark) s fun t =>
    t.cas.up = false ∧ t.cas.run = 0 ∧ (6, 0, 0x30, s.now) ∈ t.flt) ∧
  (∀ s, s.cas.up = true → Completes .cascadeLinkLost s fun t => t.cas.up = false ∧ t.cas.run = 0 ∧ t.cas.sets = [] ∧ (6, 0, 0x30, s.now) ∈ t.flt) ∧
  (∀ s, s.waking = true → s.pwr.step = 5 → s.casOn = true → s.cas.up = false → Completes .casTrainT s fun t => t = s.casLost.wakeEnd ∧
    t.cas.up = false ∧ (6, 0, 0x30, s.now) ∈ t.flt) ∧
  (∀ x s, tapHolds x = true → tapHolds s.tap = false → s.store.prog = none → s.store.erasing = none → Completes (.jtagInstructionUpdate x) s fun t => t.tap = x ∧ t.pwr.held = true ∧
    t.chans = State.reset.chans ∧ t.ref = State.reset.ref ∧ t.ts = State.reset.ts ∧ t.hp = State.reset.hp ∧ t.store.flash = s.store.flash ∧
    t.reg.lockout = s.reg.lockout ∧ t.pending = s.pending) ∧
  (∀ x s, tapHolds x = tapHolds s.tap → exec (.jtagInstructionUpdate x) s = .next { s with tap := x }) ∧
  (∀ x (s : State), tapHolds x = false → tapHolds s.tap = true → s.railsUp = true →
    exec (.jtagInstructionUpdate x) s = .next ({ s with tap := x, pwr := { s.pwr with cause := 1 } } : State).boot) ∧
  (∀ s, tapHolds s.tap = false → exec .testLogicReset s = .next { s with tap := .idcode }) ∧
  (∀ s, tapHolds s.tap = true → s.railsUp = true →
    exec .testLogicReset s = .next ({ s with tap := .idcode, pwr := { s.pwr with cause := 1 } } : State).boot) ∧
  ∀ s, s.pwr.held = false → s.pwr.rom = false → exec .firmwareHeartbeat s =
    .next (s.modReg fun r => { r with beat := (r.beat + 1) % 2 ^ 16 })
end

