-- ==== Sys2Proof/Laws/State.lean ====
section
/-!
SUPPORT. One lemma per field per update: reading a field of an updated state (no later proof unfolds a record update), and a table read after
it is written.
-/
namespace Sys2Proof

/-- A table reads back what is written at a number. -/
@[simp] theorem Tab.get_put_same {α : Type} (d : α) (t : Tab α) (i : Nat) (x : α) : (t.put i x).get d i = x := by
  induction t with
  | nil => simp [Tab.put, Tab.get]
  | cons a t ih =>
    obtain ⟨j, a⟩ := a
    simp only [Tab.put]
    split
    · simp [Tab.get]
    · split
      · simp [Tab.get]
      · have : j ≠ i := fun h => by simp_all
        simpa [Tab.get, this] using ih

/-- A write at one number leaves every other number alone. -/
theorem Tab.get_put_ne {α : Type} (d : α) (t : Tab α) {i j : Nat} (h : j ≠ i) (x : α) : (t.put i x).get d j = t.get d j := by
  have h' : i ≠ j := fun e => h e.symm
  induction t with
  | nil => simp [Tab.put, Tab.get, h']
  | cons a t ih =>
    obtain ⟨k, a⟩ := a
    simp only [Tab.put]
    split
    · subst_vars; simp [Tab.get, h']
    · split
      · simp [Tab.get, h']
      · simp only [Tab.get, ih]

namespace Machine


@[simp] theorem State.modByp_ref (f : BypS → BypS) (s : State) : (s.modByp f).ref = s.ref := rfl
@[simp] theorem State.modByp_pps (f : BypS → BypS) (s : State) : (s.modByp f).pps = s.pps := rfl
@[simp] theorem State.modByp_ext (f : BypS → BypS) (s : State) : (s.modByp f).ext = s.ext := rfl
@[simp] theorem State.modByp_ts (f : BypS → BypS) (s : State) : (s.modByp f).ts = s.ts := rfl
@[simp] theorem State.modByp_latch (f : BypS → BypS) (s : State) : (s.modByp f).latch = s.latch := rfl
@[simp] theorem State.modByp_chans (f : BypS → BypS) (s : State) : (s.modByp f).chans = s.chans := rfl
@[simp] theorem State.modByp_octs (f : BypS → BypS) (s : State) : (s.modByp f).octs = s.octs := rfl
@[simp] theorem State.modByp_dlls (f : BypS → BypS) (s : State) : (s.modByp f).dlls = s.dlls := rfl
@[simp] theorem State.modByp_engs (f : BypS → BypS) (s : State) : (s.modByp f).engs = s.engs := rfl
@[simp] theorem State.modByp_arr (f : BypS → BypS) (s : State) : (s.modByp f).arr = s.arr := rfl
@[simp] theorem State.modByp_cores (f : BypS → BypS) (s : State) : (s.modByp f).cores = s.cores := rfl
@[simp] theorem State.modByp_srcs (f : BypS → BypS) (s : State) : (s.modByp f).srcs = s.srcs := rfl
@[simp] theorem State.modByp_devq (f : BypS → BypS) (s : State) : (s.modByp f).devq = s.devq := rfl
@[simp] theorem State.modByp_iv (f : BypS → BypS) (s : State) : (s.modByp f).iv = s.iv := rfl
@[simp] theorem State.modByp_ring (f : BypS → BypS) (s : State) : (s.modByp f).ring = s.ring := rfl
@[simp] theorem State.modByp_rg (f : BypS → BypS) (s : State) : (s.modByp f).rg = s.rg := rfl
@[simp] theorem State.modByp_mbox (f : BypS → BypS) (s : State) : (s.modByp f).mbox = s.mbox := rfl
@[simp] theorem State.modByp_pwr (f : BypS → BypS) (s : State) : (s.modByp f).pwr = s.pwr := rfl
@[simp] theorem State.modByp_par (f : BypS → BypS) (s : State) : (s.modByp f).par = s.par := rfl
@[simp] theorem State.modByp_store (f : BypS → BypS) (s : State) : (s.modByp f).store = s.store := rfl
@[simp] theorem State.modByp_grat (f : BypS → BypS) (s : State) : (s.modByp f).grat = s.grat := rfl
@[simp] theorem State.modByp_flt (f : BypS → BypS) (s : State) : (s.modByp f).flt = s.flt := rfl
@[simp] theorem State.modByp_tests (f : BypS → BypS) (s : State) : (s.modByp f).tests = s.tests := rfl
@[simp] theorem State.modByp_cas (f : BypS → BypS) (s : State) : (s.modByp f).cas = s.cas := rfl
@[simp] theorem State.modByp_cal (f : BypS → BypS) (s : State) : (s.modByp f).cal = s.cal := rfl
@[simp] theorem State.modByp_otp (f : BypS → BypS) (s : State) : (s.modByp f).otp = s.otp := rfl
@[simp] theorem State.modByp_img (f : BypS → BypS) (s : State) : (s.modByp f).img = s.img := rfl
@[simp] theorem State.modByp_mem (f : BypS → BypS) (s : State) : (s.modByp f).mem = s.mem := rfl
@[simp] theorem State.modByp_per (f : BypS → BypS) (s : State) : (s.modByp f).per = s.per := rfl
@[simp] theorem State.modByp_gw (f : BypS → BypS) (s : State) : (s.modByp f).gw = s.gw := rfl
@[simp] theorem State.modByp_hp (f : BypS → BypS) (s : State) : (s.modByp f).hp = s.hp := rfl
@[simp] theorem State.modByp_reg (f : BypS → BypS) (s : State) : (s.modByp f).reg = s.reg := rfl
@[simp] theorem State.modByp_tap (f : BypS → BypS) (s : State) : (s.modByp f).tap = s.tap := rfl
@[simp] theorem State.modByp_byp (f : BypS → BypS) (s : State) : (s.modByp f).byp = f s.byp := rfl
@[simp] theorem State.modByp_pending (f : BypS → BypS) (s : State) : (s.modByp f).pending = s.pending := rfl
@[simp] theorem State.modRef_ref (f : RefS → RefS) (s : State) : (s.modRef f).ref = f s.ref := rfl
@[simp] theorem State.modRef_pps (f : RefS → RefS) (s : State) : (s.modRef f).pps = s.pps := rfl
@[simp] theorem State.modRef_ext (f : RefS → RefS) (s : State) : (s.modRef f).ext = s.ext := rfl
@[simp] theorem State.modRef_ts (f : RefS → RefS) (s : State) : (s.modRef f).ts = s.ts := rfl
@[simp] theorem State.modRef_latch (f : RefS → RefS) (s : State) : (s.modRef f).latch = s.latch := rfl
@[simp] theorem State.modRef_chans (f : RefS → RefS) (s : State) : (s.modRef f).chans = s.chans := rfl
@[simp] theorem State.modRef_octs (f : RefS → RefS) (s : State) : (s.modRef f).octs = s.octs := rfl
@[simp] theorem State.modRef_dlls (f : RefS → RefS) (s : State) : (s.modRef f).dlls = s.dlls := rfl
@[simp] theorem State.modRef_engs (f : RefS → RefS) (s : State) : (s.modRef f).engs = s.engs := rfl
@[simp] theorem State.modRef_arr (f : RefS → RefS) (s : State) : (s.modRef f).arr = s.arr := rfl
@[simp] theorem State.modRef_cores (f : RefS → RefS) (s : State) : (s.modRef f).cores = s.cores := rfl
@[simp] theorem State.modRef_srcs (f : RefS → RefS) (s : State) : (s.modRef f).srcs = s.srcs := rfl
@[simp] theorem State.modRef_devq (f : RefS → RefS) (s : State) : (s.modRef f).devq = s.devq := rfl
@[simp] theorem State.modRef_iv (f : RefS → RefS) (s : State) : (s.modRef f).iv = s.iv := rfl
@[simp] theorem State.modRef_ring (f : RefS → RefS) (s : State) : (s.modRef f).ring = s.ring := rfl
@[simp] theorem State.modRef_rg (f : RefS → RefS) (s : State) : (s.modRef f).rg = s.rg := rfl
@[simp] theorem State.modRef_mbox (f : RefS → RefS) (s : State) : (s.modRef f).mbox = s.mbox := rfl
@[simp] theorem State.modRef_pwr (f : RefS → RefS) (s : State) : (s.modRef f).pwr = s.pwr := rfl
@[simp] theorem State.modRef_par (f : RefS → RefS) (s : State) : (s.modRef f).par = s.par := rfl
@[simp] theorem State.modRef_store (f : RefS → RefS) (s : State) : (s.modRef f).store = s.store := rfl
@[simp] theorem State.modRef_grat (f : RefS → RefS) (s : State) : (s.modRef f).grat = s.grat := rfl
@[simp] theorem State.modRef_flt (f : RefS → RefS) (s : State) : (s.modRef f).flt = s.flt := rfl
@[simp] theorem State.modRef_tests (f : RefS → RefS) (s : State) : (s.modRef f).tests = s.tests := rfl
@[simp] theorem State.modRef_cas (f : RefS → RefS) (s : State) : (s.modRef f).cas = s.cas := rfl
@[simp] theorem State.modRef_cal (f : RefS → RefS) (s : State) : (s.modRef f).cal = s.cal := rfl
@[simp] theorem State.modRef_otp (f : RefS → RefS) (s : State) : (s.modRef f).otp = s.otp := rfl
@[simp] theorem State.modRef_img (f : RefS → RefS) (s : State) : (s.modRef f).img = s.img := rfl
@[simp] theorem State.modRef_mem (f : RefS → RefS) (s : State) : (s.modRef f).mem = s.mem := rfl
@[simp] theorem State.modRef_per (f : RefS → RefS) (s : State) : (s.modRef f).per = s.per := rfl
@[simp] theorem State.modRef_gw (f : RefS → RefS) (s : State) : (s.modRef f).gw = s.gw := rfl
@[simp] theorem State.modRef_hp (f : RefS → RefS) (s : State) : (s.modRef f).hp = s.hp := rfl
@[simp] theorem State.modRef_reg (f : RefS → RefS) (s : State) : (s.modRef f).reg = s.reg := rfl
@[simp] theorem State.modRef_tap (f : RefS → RefS) (s : State) : (s.modRef f).tap = s.tap := rfl
@[simp] theorem State.modRef_byp (f : RefS → RefS) (s : State) : (s.modRef f).byp = s.byp := rfl
@[simp] theorem State.modRef_pending (f : RefS → RefS) (s : State) : (s.modRef f).pending = s.pending := rfl

@[simp] theorem State.modPps_ref (f : PpsS → PpsS) (s : State) : (s.modPps f).ref = s.ref := rfl
@[simp] theorem State.modPps_pps (f : PpsS → PpsS) (s : State) : (s.modPps f).pps = f s.pps := rfl
@[simp] theorem State.modPps_ext (f : PpsS → PpsS) (s : State) : (s.modPps f).ext = s.ext := rfl
@[simp] theorem State.modPps_ts (f : PpsS → PpsS) (s : State) : (s.modPps f).ts = s.ts := rfl
@[simp] theorem State.modPps_latch (f : PpsS → PpsS) (s : State) : (s.modPps f).latch = s.latch := rfl
@[simp] theorem State.modPps_chans (f : PpsS → PpsS) (s : State) : (s.modPps f).chans = s.chans := rfl
@[simp] theorem State.modPps_octs (f : PpsS → PpsS) (s : State) : (s.modPps f).octs = s.octs := rfl
@[simp] theorem State.modPps_dlls (f : PpsS → PpsS) (s : State) : (s.modPps f).dlls = s.dlls := rfl
@[simp] theorem State.modPps_engs (f : PpsS → PpsS) (s : State) : (s.modPps f).engs = s.engs := rfl
@[simp] theorem State.modPps_arr (f : PpsS → PpsS) (s : State) : (s.modPps f).arr = s.arr := rfl
@[simp] theorem State.modPps_cores (f : PpsS → PpsS) (s : State) : (s.modPps f).cores = s.cores := rfl
@[simp] theorem State.modPps_srcs (f : PpsS → PpsS) (s : State) : (s.modPps f).srcs = s.srcs := rfl
@[simp] theorem State.modPps_devq (f : PpsS → PpsS) (s : State) : (s.modPps f).devq = s.devq := rfl
@[simp] theorem State.modPps_iv (f : PpsS → PpsS) (s : State) : (s.modPps f).iv = s.iv := rfl
@[simp] theorem State.modPps_ring (f : PpsS → PpsS) (s : State) : (s.modPps f).ring = s.ring := rfl
@[simp] theorem State.modPps_rg (f : PpsS → PpsS) (s : State) : (s.modPps f).rg = s.rg := rfl
@[simp] theorem State.modPps_mbox (f : PpsS → PpsS) (s : State) : (s.modPps f).mbox = s.mbox := rfl
@[simp] theorem State.modPps_pwr (f : PpsS → PpsS) (s : State) : (s.modPps f).pwr = s.pwr := rfl
@[simp] theorem State.modPps_par (f : PpsS → PpsS) (s : State) : (s.modPps f).par = s.par := rfl
@[simp] theorem State.modPps_store (f : PpsS → PpsS) (s : State) : (s.modPps f).store = s.store := rfl
@[simp] theorem State.modPps_grat (f : PpsS → PpsS) (s : State) : (s.modPps f).grat = s.grat := rfl
@[simp] theorem State.modPps_flt (f : PpsS → PpsS) (s : State) : (s.modPps f).flt = s.flt := rfl
@[simp] theorem State.modPps_tests (f : PpsS → PpsS) (s : State) : (s.modPps f).tests = s.tests := rfl
@[simp] theorem State.modPps_cas (f : PpsS → PpsS) (s : State) : (s.modPps f).cas = s.cas := rfl
@[simp] theorem State.modPps_cal (f : PpsS → PpsS) (s : State) : (s.modPps f).cal = s.cal := rfl
@[simp] theorem State.modPps_otp (f : PpsS → PpsS) (s : State) : (s.modPps f).otp = s.otp := rfl
@[simp] theorem State.modPps_img (f : PpsS → PpsS) (s : State) : (s.modPps f).img = s.img := rfl
@[simp] theorem State.modPps_mem (f : PpsS → PpsS) (s : State) : (s.modPps f).mem = s.mem := rfl
@[simp] theorem State.modPps_per (f : PpsS → PpsS) (s : State) : (s.modPps f).per = s.per := rfl
@[simp] theorem State.modPps_gw (f : PpsS → PpsS) (s : State) : (s.modPps f).gw = s.gw := rfl
@[simp] theorem State.modPps_hp (f : PpsS → PpsS) (s : State) : (s.modPps f).hp = s.hp := rfl
@[simp] theorem State.modPps_reg (f : PpsS → PpsS) (s : State) : (s.modPps f).reg = s.reg := rfl
@[simp] theorem State.modPps_tap (f : PpsS → PpsS) (s : State) : (s.modPps f).tap = s.tap := rfl
@[simp] theorem State.modPps_byp (f : PpsS → PpsS) (s : State) : (s.modPps f).byp = s.byp := rfl
@[simp] theorem State.modPps_pending (f : PpsS → PpsS) (s : State) : (s.modPps f).pending = s.pending := rfl

@[simp] theorem State.modExt_ref (f : ExtS → ExtS) (s : State) : (s.modExt f).ref = s.ref := rfl
@[simp] theorem State.modExt_pps (f : ExtS → ExtS) (s : State) : (s.modExt f).pps = s.pps := rfl
@[simp] theorem State.modExt_ext (f : ExtS → ExtS) (s : State) : (s.modExt f).ext = f s.ext := rfl
@[simp] theorem State.modExt_ts (f : ExtS → ExtS) (s : State) : (s.modExt f).ts = s.ts := rfl
@[simp] theorem State.modExt_latch (f : ExtS → ExtS) (s : State) : (s.modExt f).latch = s.latch := rfl
@[simp] theorem State.modExt_chans (f : ExtS → ExtS) (s : State) : (s.modExt f).chans = s.chans := rfl
@[simp] theorem State.modExt_octs (f : ExtS → ExtS) (s : State) : (s.modExt f).octs = s.octs := rfl
@[simp] theorem State.modExt_dlls (f : ExtS → ExtS) (s : State) : (s.modExt f).dlls = s.dlls := rfl
@[simp] theorem State.modExt_engs (f : ExtS → ExtS) (s : State) : (s.modExt f).engs = s.engs := rfl
@[simp] theorem State.modExt_arr (f : ExtS → ExtS) (s : State) : (s.modExt f).arr = s.arr := rfl
@[simp] theorem State.modExt_cores (f : ExtS → ExtS) (s : State) : (s.modExt f).cores = s.cores := rfl
@[simp] theorem State.modExt_srcs (f : ExtS → ExtS) (s : State) : (s.modExt f).srcs = s.srcs := rfl
@[simp] theorem State.modExt_devq (f : ExtS → ExtS) (s : State) : (s.modExt f).devq = s.devq := rfl
@[simp] theorem State.modExt_iv (f : ExtS → ExtS) (s : State) : (s.modExt f).iv = s.iv := rfl
@[simp] theorem State.modExt_ring (f : ExtS → ExtS) (s : State) : (s.modExt f).ring = s.ring := rfl
@[simp] theorem State.modExt_rg (f : ExtS → ExtS) (s : State) : (s.modExt f).rg = s.rg := rfl
@[simp] theorem State.modExt_mbox (f : ExtS → ExtS) (s : State) : (s.modExt f).mbox = s.mbox := rfl
@[simp] theorem State.modExt_pwr (f : ExtS → ExtS) (s : State) : (s.modExt f).pwr = s.pwr := rfl
@[simp] theorem State.modExt_par (f : ExtS → ExtS) (s : State) : (s.modExt f).par = s.par := rfl
@[simp] theorem State.modExt_store (f : ExtS → ExtS) (s : State) : (s.modExt f).store = s.store := rfl
@[simp] theorem State.modExt_grat (f : ExtS → ExtS) (s : State) : (s.modExt f).grat = s.grat := rfl
@[simp] theorem State.modExt_flt (f : ExtS → ExtS) (s : State) : (s.modExt f).flt = s.flt := rfl
@[simp] theorem State.modExt_tests (f : ExtS → ExtS) (s : State) : (s.modExt f).tests = s.tests := rfl
@[simp] theorem State.modExt_cas (f : ExtS → ExtS) (s : State) : (s.modExt f).cas = s.cas := rfl
@[simp] theorem State.modExt_cal (f : ExtS → ExtS) (s : State) : (s.modExt f).cal = s.cal := rfl
@[simp] theorem State.modExt_otp (f : ExtS → ExtS) (s : State) : (s.modExt f).otp = s.otp := rfl
@[simp] theorem State.modExt_img (f : ExtS → ExtS) (s : State) : (s.modExt f).img = s.img := rfl
@[simp] theorem State.modExt_mem (f : ExtS → ExtS) (s : State) : (s.modExt f).mem = s.mem := rfl
@[simp] theorem State.modExt_per (f : ExtS → ExtS) (s : State) : (s.modExt f).per = s.per := rfl
@[simp] theorem State.modExt_gw (f : ExtS → ExtS) (s : State) : (s.modExt f).gw = s.gw := rfl
@[simp] theorem State.modExt_hp (f : ExtS → ExtS) (s : State) : (s.modExt f).hp = s.hp := rfl
@[simp] theorem State.modExt_reg (f : ExtS → ExtS) (s : State) : (s.modExt f).reg = s.reg := rfl
@[simp] theorem State.modExt_tap (f : ExtS → ExtS) (s : State) : (s.modExt f).tap = s.tap := rfl
@[simp] theorem State.modExt_byp (f : ExtS → ExtS) (s : State) : (s.modExt f).byp = s.byp := rfl
@[simp] theorem State.modExt_pending (f : ExtS → ExtS) (s : State) : (s.modExt f).pending = s.pending := rfl

@[simp] theorem State.modTs_ref (f : TsS → TsS) (s : State) : (s.modTs f).ref = s.ref := rfl
@[simp] theorem State.modTs_pps (f : TsS → TsS) (s : State) : (s.modTs f).pps = s.pps := rfl
@[simp] theorem State.modTs_ext (f : TsS → TsS) (s : State) : (s.modTs f).ext = s.ext := rfl
@[simp] theorem State.modTs_ts (f : TsS → TsS) (s : State) : (s.modTs f).ts = f s.ts := rfl
@[simp] theorem State.modTs_latch (f : TsS → TsS) (s : State) : (s.modTs f).latch = s.latch := rfl
@[simp] theorem State.modTs_chans (f : TsS → TsS) (s : State) : (s.modTs f).chans = s.chans := rfl
@[simp] theorem State.modTs_octs (f : TsS → TsS) (s : State) : (s.modTs f).octs = s.octs := rfl
@[simp] theorem State.modTs_dlls (f : TsS → TsS) (s : State) : (s.modTs f).dlls = s.dlls := rfl
@[simp] theorem State.modTs_engs (f : TsS → TsS) (s : State) : (s.modTs f).engs = s.engs := rfl
@[simp] theorem State.modTs_arr (f : TsS → TsS) (s : State) : (s.modTs f).arr = s.arr := rfl
@[simp] theorem State.modTs_cores (f : TsS → TsS) (s : State) : (s.modTs f).cores = s.cores := rfl
@[simp] theorem State.modTs_srcs (f : TsS → TsS) (s : State) : (s.modTs f).srcs = s.srcs := rfl
@[simp] theorem State.modTs_devq (f : TsS → TsS) (s : State) : (s.modTs f).devq = s.devq := rfl
@[simp] theorem State.modTs_iv (f : TsS → TsS) (s : State) : (s.modTs f).iv = s.iv := rfl
@[simp] theorem State.modTs_ring (f : TsS → TsS) (s : State) : (s.modTs f).ring = s.ring := rfl
@[simp] theorem State.modTs_rg (f : TsS → TsS) (s : State) : (s.modTs f).rg = s.rg := rfl
@[simp] theorem State.modTs_mbox (f : TsS → TsS) (s : State) : (s.modTs f).mbox = s.mbox := rfl
@[simp] theorem State.modTs_pwr (f : TsS → TsS) (s : State) : (s.modTs f).pwr = s.pwr := rfl
@[simp] theorem State.modTs_par (f : TsS → TsS) (s : State) : (s.modTs f).par = s.par := rfl
@[simp] theorem State.modTs_store (f : TsS → TsS) (s : State) : (s.modTs f).store = s.store := rfl
@[simp] theorem State.modTs_grat (f : TsS → TsS) (s : State) : (s.modTs f).grat = s.grat := rfl
@[simp] theorem State.modTs_flt (f : TsS → TsS) (s : State) : (s.modTs f).flt = s.flt := rfl
@[simp] theorem State.modTs_tests (f : TsS → TsS) (s : State) : (s.modTs f).tests = s.tests := rfl
@[simp] theorem State.modTs_cas (f : TsS → TsS) (s : State) : (s.modTs f).cas = s.cas := rfl
@[simp] theorem State.modTs_cal (f : TsS → TsS) (s : State) : (s.modTs f).cal = s.cal := rfl
@[simp] theorem State.modTs_otp (f : TsS → TsS) (s : State) : (s.modTs f).otp = s.otp := rfl
@[simp] theorem State.modTs_img (f : TsS → TsS) (s : State) : (s.modTs f).img = s.img := rfl
@[simp] theorem State.modTs_mem (f : TsS → TsS) (s : State) : (s.modTs f).mem = s.mem := rfl
@[simp] theorem State.modTs_per (f : TsS → TsS) (s : State) : (s.modTs f).per = s.per := rfl
@[simp] theorem State.modTs_gw (f : TsS → TsS) (s : State) : (s.modTs f).gw = s.gw := rfl
@[simp] theorem State.modTs_hp (f : TsS → TsS) (s : State) : (s.modTs f).hp = s.hp := rfl
@[simp] theorem State.modTs_reg (f : TsS → TsS) (s : State) : (s.modTs f).reg = s.reg := rfl
@[simp] theorem State.modTs_tap (f : TsS → TsS) (s : State) : (s.modTs f).tap = s.tap := rfl
@[simp] theorem State.modTs_byp (f : TsS → TsS) (s : State) : (s.modTs f).byp = s.byp := rfl
@[simp] theorem State.modTs_pending (f : TsS → TsS) (s : State) : (s.modTs f).pending = s.pending := rfl

@[simp] theorem State.modArr_ref (f : EngArr → EngArr) (s : State) : (s.modArr f).ref = s.ref := rfl
@[simp] theorem State.modArr_pps (f : EngArr → EngArr) (s : State) : (s.modArr f).pps = s.pps := rfl
@[simp] theorem State.modArr_ext (f : EngArr → EngArr) (s : State) : (s.modArr f).ext = s.ext := rfl
@[simp] theorem State.modArr_ts (f : EngArr → EngArr) (s : State) : (s.modArr f).ts = s.ts := rfl
@[simp] theorem State.modArr_latch (f : EngArr → EngArr) (s : State) : (s.modArr f).latch = s.latch := rfl
@[simp] theorem State.modArr_chans (f : EngArr → EngArr) (s : State) : (s.modArr f).chans = s.chans := rfl
@[simp] theorem State.modArr_octs (f : EngArr → EngArr) (s : State) : (s.modArr f).octs = s.octs := rfl
@[simp] theorem State.modArr_dlls (f : EngArr → EngArr) (s : State) : (s.modArr f).dlls = s.dlls := rfl
@[simp] theorem State.modArr_engs (f : EngArr → EngArr) (s : State) : (s.modArr f).engs = s.engs := rfl
@[simp] theorem State.modArr_arr (f : EngArr → EngArr) (s : State) : (s.modArr f).arr = f s.arr := rfl
@[simp] theorem State.modArr_cores (f : EngArr → EngArr) (s : State) : (s.modArr f).cores = s.cores := rfl
@[simp] theorem State.modArr_srcs (f : EngArr → EngArr) (s : State) : (s.modArr f).srcs = s.srcs := rfl
@[simp] theorem State.modArr_devq (f : EngArr → EngArr) (s : State) : (s.modArr f).devq = s.devq := rfl
@[simp] theorem State.modArr_iv (f : EngArr → EngArr) (s : State) : (s.modArr f).iv = s.iv := rfl
@[simp] theorem State.modArr_ring (f : EngArr → EngArr) (s : State) : (s.modArr f).ring = s.ring := rfl
@[simp] theorem State.modArr_rg (f : EngArr → EngArr) (s : State) : (s.modArr f).rg = s.rg := rfl
@[simp] theorem State.modArr_mbox (f : EngArr → EngArr) (s : State) : (s.modArr f).mbox = s.mbox := rfl
@[simp] theorem State.modArr_pwr (f : EngArr → EngArr) (s : State) : (s.modArr f).pwr = s.pwr := rfl
@[simp] theorem State.modArr_par (f : EngArr → EngArr) (s : State) : (s.modArr f).par = s.par := rfl
@[simp] theorem State.modArr_store (f : EngArr → EngArr) (s : State) : (s.modArr f).store = s.store := rfl
@[simp] theorem State.modArr_grat (f : EngArr → EngArr) (s : State) : (s.modArr f).grat = s.grat := rfl
@[simp] theorem State.modArr_flt (f : EngArr → EngArr) (s : State) : (s.modArr f).flt = s.flt := rfl
@[simp] theorem State.modArr_tests (f : EngArr → EngArr) (s : State) : (s.modArr f).tests = s.tests := rfl
@[simp] theorem State.modArr_cas (f : EngArr → EngArr) (s : State) : (s.modArr f).cas = s.cas := rfl
@[simp] theorem State.modArr_cal (f : EngArr → EngArr) (s : State) : (s.modArr f).cal = s.cal := rfl
@[simp] theorem State.modArr_otp (f : EngArr → EngArr) (s : State) : (s.modArr f).otp = s.otp := rfl
@[simp] theorem State.modArr_img (f : EngArr → EngArr) (s : State) : (s.modArr f).img = s.img := rfl
@[simp] theorem State.modArr_mem (f : EngArr → EngArr) (s : State) : (s.modArr f).mem = s.mem := rfl
@[simp] theorem State.modArr_per (f : EngArr → EngArr) (s : State) : (s.modArr f).per = s.per := rfl
@[simp] theorem State.modArr_gw (f : EngArr → EngArr) (s : State) : (s.modArr f).gw = s.gw := rfl
@[simp] theorem State.modArr_hp (f : EngArr → EngArr) (s : State) : (s.modArr f).hp = s.hp := rfl
@[simp] theorem State.modArr_reg (f : EngArr → EngArr) (s : State) : (s.modArr f).reg = s.reg := rfl
@[simp] theorem State.modArr_tap (f : EngArr → EngArr) (s : State) : (s.modArr f).tap = s.tap := rfl
@[simp] theorem State.modArr_byp (f : EngArr → EngArr) (s : State) : (s.modArr f).byp = s.byp := rfl
@[simp] theorem State.modArr_pending (f : EngArr → EngArr) (s : State) : (s.modArr f).pending = s.pending := rfl

@[simp] theorem State.modDevq_ref (f : DevQ → DevQ) (s : State) : (s.modDevq f).ref = s.ref := rfl
@[simp] theorem State.modDevq_pps (f : DevQ → DevQ) (s : State) : (s.modDevq f).pps = s.pps := rfl
@[simp] theorem State.modDevq_ext (f : DevQ → DevQ) (s : State) : (s.modDevq f).ext = s.ext := rfl
@[simp] theorem State.modDevq_ts (f : DevQ → DevQ) (s : State) : (s.modDevq f).ts = s.ts := rfl
@[simp] theorem State.modDevq_latch (f : DevQ → DevQ) (s : State) : (s.modDevq f).latch = s.latch := rfl
@[simp] theorem State.modDevq_chans (f : DevQ → DevQ) (s : State) : (s.modDevq f).chans = s.chans := rfl
@[simp] theorem State.modDevq_octs (f : DevQ → DevQ) (s : State) : (s.modDevq f).octs = s.octs := rfl
@[simp] theorem State.modDevq_dlls (f : DevQ → DevQ) (s : State) : (s.modDevq f).dlls = s.dlls := rfl
@[simp] theorem State.modDevq_engs (f : DevQ → DevQ) (s : State) : (s.modDevq f).engs = s.engs := rfl
@[simp] theorem State.modDevq_arr (f : DevQ → DevQ) (s : State) : (s.modDevq f).arr = s.arr := rfl
@[simp] theorem State.modDevq_cores (f : DevQ → DevQ) (s : State) : (s.modDevq f).cores = s.cores := rfl
@[simp] theorem State.modDevq_srcs (f : DevQ → DevQ) (s : State) : (s.modDevq f).srcs = s.srcs := rfl
@[simp] theorem State.modDevq_devq (f : DevQ → DevQ) (s : State) : (s.modDevq f).devq = f s.devq := rfl
@[simp] theorem State.modDevq_iv (f : DevQ → DevQ) (s : State) : (s.modDevq f).iv = s.iv := rfl
@[simp] theorem State.modDevq_ring (f : DevQ → DevQ) (s : State) : (s.modDevq f).ring = s.ring := rfl
@[simp] theorem State.modDevq_rg (f : DevQ → DevQ) (s : State) : (s.modDevq f).rg = s.rg := rfl
@[simp] theorem State.modDevq_mbox (f : DevQ → DevQ) (s : State) : (s.modDevq f).mbox = s.mbox := rfl
@[simp] theorem State.modDevq_pwr (f : DevQ → DevQ) (s : State) : (s.modDevq f).pwr = s.pwr := rfl
@[simp] theorem State.modDevq_par (f : DevQ → DevQ) (s : State) : (s.modDevq f).par = s.par := rfl
@[simp] theorem State.modDevq_store (f : DevQ → DevQ) (s : State) : (s.modDevq f).store = s.store := rfl
@[simp] theorem State.modDevq_grat (f : DevQ → DevQ) (s : State) : (s.modDevq f).grat = s.grat := rfl
@[simp] theorem State.modDevq_flt (f : DevQ → DevQ) (s : State) : (s.modDevq f).flt = s.flt := rfl
@[simp] theorem State.modDevq_tests (f : DevQ → DevQ) (s : State) : (s.modDevq f).tests = s.tests := rfl
@[simp] theorem State.modDevq_cas (f : DevQ → DevQ) (s : State) : (s.modDevq f).cas = s.cas := rfl
@[simp] theorem State.modDevq_cal (f : DevQ → DevQ) (s : State) : (s.modDevq f).cal = s.cal := rfl
@[simp] theorem State.modDevq_otp (f : DevQ → DevQ) (s : State) : (s.modDevq f).otp = s.otp := rfl
@[simp] theorem State.modDevq_img (f : DevQ → DevQ) (s : State) : (s.modDevq f).img = s.img := rfl
@[simp] theorem State.modDevq_mem (f : DevQ → DevQ) (s : State) : (s.modDevq f).mem = s.mem := rfl
@[simp] theorem State.modDevq_per (f : DevQ → DevQ) (s : State) : (s.modDevq f).per = s.per := rfl
@[simp] theorem State.modDevq_gw (f : DevQ → DevQ) (s : State) : (s.modDevq f).gw = s.gw := rfl
@[simp] theorem State.modDevq_hp (f : DevQ → DevQ) (s : State) : (s.modDevq f).hp = s.hp := rfl
@[simp] theorem State.modDevq_reg (f : DevQ → DevQ) (s : State) : (s.modDevq f).reg = s.reg := rfl
@[simp] theorem State.modDevq_tap (f : DevQ → DevQ) (s : State) : (s.modDevq f).tap = s.tap := rfl
@[simp] theorem State.modDevq_byp (f : DevQ → DevQ) (s : State) : (s.modDevq f).byp = s.byp := rfl
@[simp] theorem State.modDevq_pending (f : DevQ → DevQ) (s : State) : (s.modDevq f).pending = s.pending := rfl

@[simp] theorem State.modIv_ref (f : IvS → IvS) (s : State) : (s.modIv f).ref = s.ref := rfl
@[simp] theorem State.modIv_pps (f : IvS → IvS) (s : State) : (s.modIv f).pps = s.pps := rfl
@[simp] theorem State.modIv_ext (f : IvS → IvS) (s : State) : (s.modIv f).ext = s.ext := rfl
@[simp] theorem State.modIv_ts (f : IvS → IvS) (s : State) : (s.modIv f).ts = s.ts := rfl
@[simp] theorem State.modIv_latch (f : IvS → IvS) (s : State) : (s.modIv f).latch = s.latch := rfl
@[simp] theorem State.modIv_chans (f : IvS → IvS) (s : State) : (s.modIv f).chans = s.chans := rfl
@[simp] theorem State.modIv_octs (f : IvS → IvS) (s : State) : (s.modIv f).octs = s.octs := rfl
@[simp] theorem State.modIv_dlls (f : IvS → IvS) (s : State) : (s.modIv f).dlls = s.dlls := rfl
@[simp] theorem State.modIv_engs (f : IvS → IvS) (s : State) : (s.modIv f).engs = s.engs := rfl
@[simp] theorem State.modIv_arr (f : IvS → IvS) (s : State) : (s.modIv f).arr = s.arr := rfl
@[simp] theorem State.modIv_cores (f : IvS → IvS) (s : State) : (s.modIv f).cores = s.cores := rfl
@[simp] theorem State.modIv_srcs (f : IvS → IvS) (s : State) : (s.modIv f).srcs = s.srcs := rfl
@[simp] theorem State.modIv_devq (f : IvS → IvS) (s : State) : (s.modIv f).devq = s.devq := rfl
@[simp] theorem State.modIv_iv (f : IvS → IvS) (s : State) : (s.modIv f).iv = f s.iv := rfl
@[simp] theorem State.modIv_ring (f : IvS → IvS) (s : State) : (s.modIv f).ring = s.ring := rfl
@[simp] theorem State.modIv_rg (f : IvS → IvS) (s : State) : (s.modIv f).rg = s.rg := rfl
@[simp] theorem State.modIv_mbox (f : IvS → IvS) (s : State) : (s.modIv f).mbox = s.mbox := rfl
@[simp] theorem State.modIv_pwr (f : IvS → IvS) (s : State) : (s.modIv f).pwr = s.pwr := rfl
@[simp] theorem State.modIv_par (f : IvS → IvS) (s : State) : (s.modIv f).par = s.par := rfl
@[simp] theorem State.modIv_store (f : IvS → IvS) (s : State) : (s.modIv f).store = s.store := rfl
@[simp] theorem State.modIv_grat (f : IvS → IvS) (s : State) : (s.modIv f).grat = s.grat := rfl
@[simp] theorem State.modIv_flt (f : IvS → IvS) (s : State) : (s.modIv f).flt = s.flt := rfl
@[simp] theorem State.modIv_tests (f : IvS → IvS) (s : State) : (s.modIv f).tests = s.tests := rfl
@[simp] theorem State.modIv_cas (f : IvS → IvS) (s : State) : (s.modIv f).cas = s.cas := rfl
@[simp] theorem State.modIv_cal (f : IvS → IvS) (s : State) : (s.modIv f).cal = s.cal := rfl
@[simp] theorem State.modIv_otp (f : IvS → IvS) (s : State) : (s.modIv f).otp = s.otp := rfl
@[simp] theorem State.modIv_img (f : IvS → IvS) (s : State) : (s.modIv f).img = s.img := rfl
@[simp] theorem State.modIv_mem (f : IvS → IvS) (s : State) : (s.modIv f).mem = s.mem := rfl
@[simp] theorem State.modIv_per (f : IvS → IvS) (s : State) : (s.modIv f).per = s.per := rfl
@[simp] theorem State.modIv_gw (f : IvS → IvS) (s : State) : (s.modIv f).gw = s.gw := rfl
@[simp] theorem State.modIv_hp (f : IvS → IvS) (s : State) : (s.modIv f).hp = s.hp := rfl
@[simp] theorem State.modIv_reg (f : IvS → IvS) (s : State) : (s.modIv f).reg = s.reg := rfl
@[simp] theorem State.modIv_tap (f : IvS → IvS) (s : State) : (s.modIv f).tap = s.tap := rfl
@[simp] theorem State.modIv_byp (f : IvS → IvS) (s : State) : (s.modIv f).byp = s.byp := rfl
@[simp] theorem State.modIv_pending (f : IvS → IvS) (s : State) : (s.modIv f).pending = s.pending := rfl

@[simp] theorem State.modRing_ref (f : RingS → RingS) (s : State) : (s.modRing f).ref = s.ref := rfl
@[simp] theorem State.modRing_pps (f : RingS → RingS) (s : State) : (s.modRing f).pps = s.pps := rfl
@[simp] theorem State.modRing_ext (f : RingS → RingS) (s : State) : (s.modRing f).ext = s.ext := rfl
@[simp] theorem State.modRing_ts (f : RingS → RingS) (s : State) : (s.modRing f).ts = s.ts := rfl
@[simp] theorem State.modRing_latch (f : RingS → RingS) (s : State) : (s.modRing f).latch = s.latch := rfl
@[simp] theorem State.modRing_chans (f : RingS → RingS) (s : State) : (s.modRing f).chans = s.chans := rfl
@[simp] theorem State.modRing_octs (f : RingS → RingS) (s : State) : (s.modRing f).octs = s.octs := rfl
@[simp] theorem State.modRing_dlls (f : RingS → RingS) (s : State) : (s.modRing f).dlls = s.dlls := rfl
@[simp] theorem State.modRing_engs (f : RingS → RingS) (s : State) : (s.modRing f).engs = s.engs := rfl
@[simp] theorem State.modRing_arr (f : RingS → RingS) (s : State) : (s.modRing f).arr = s.arr := rfl
@[simp] theorem State.modRing_cores (f : RingS → RingS) (s : State) : (s.modRing f).cores = s.cores := rfl
@[simp] theorem State.modRing_srcs (f : RingS → RingS) (s : State) : (s.modRing f).srcs = s.srcs := rfl
@[simp] theorem State.modRing_devq (f : RingS → RingS) (s : State) : (s.modRing f).devq = s.devq := rfl
@[simp] theorem State.modRing_iv (f : RingS → RingS) (s : State) : (s.modRing f).iv = s.iv := rfl
@[simp] theorem State.modRing_ring (f : RingS → RingS) (s : State) : (s.modRing f).ring = f s.ring := rfl
@[simp] theorem State.modRing_rg (f : RingS → RingS) (s : State) : (s.modRing f).rg = s.rg := rfl
@[simp] theorem State.modRing_mbox (f : RingS → RingS) (s : State) : (s.modRing f).mbox = s.mbox := rfl
@[simp] theorem State.modRing_pwr (f : RingS → RingS) (s : State) : (s.modRing f).pwr = s.pwr := rfl
@[simp] theorem State.modRing_par (f : RingS → RingS) (s : State) : (s.modRing f).par = s.par := rfl
@[simp] theorem State.modRing_store (f : RingS → RingS) (s : State) : (s.modRing f).store = s.store := rfl
@[simp] theorem State.modRing_grat (f : RingS → RingS) (s : State) : (s.modRing f).grat = s.grat := rfl
@[simp] theorem State.modRing_flt (f : RingS → RingS) (s : State) : (s.modRing f).flt = s.flt := rfl
@[simp] theorem State.modRing_tests (f : RingS → RingS) (s : State) : (s.modRing f).tests = s.tests := rfl
@[simp] theorem State.modRing_cas (f : RingS → RingS) (s : State) : (s.modRing f).cas = s.cas := rfl
@[simp] theorem State.modRing_cal (f : RingS → RingS) (s : State) : (s.modRing f).cal = s.cal := rfl
@[simp] theorem State.modRing_otp (f : RingS → RingS) (s : State) : (s.modRing f).otp = s.otp := rfl
@[simp] theorem State.modRing_img (f : RingS → RingS) (s : State) : (s.modRing f).img = s.img := rfl
@[simp] theorem State.modRing_mem (f : RingS → RingS) (s : State) : (s.modRing f).mem = s.mem := rfl
@[simp] theorem State.modRing_per (f : RingS → RingS) (s : State) : (s.modRing f).per = s.per := rfl
@[simp] theorem State.modRing_gw (f : RingS → RingS) (s : State) : (s.modRing f).gw = s.gw := rfl
@[simp] theorem State.modRing_hp (f : RingS → RingS) (s : State) : (s.modRing f).hp = s.hp := rfl
@[simp] theorem State.modRing_reg (f : RingS → RingS) (s : State) : (s.modRing f).reg = s.reg := rfl
@[simp] theorem State.modRing_tap (f : RingS → RingS) (s : State) : (s.modRing f).tap = s.tap := rfl
@[simp] theorem State.modRing_byp (f : RingS → RingS) (s : State) : (s.modRing f).byp = s.byp := rfl
@[simp] theorem State.modRing_pending (f : RingS → RingS) (s : State) : (s.modRing f).pending = s.pending := rfl

@[simp] theorem State.modRg_ref (f : RgS → RgS) (s : State) : (s.modRg f).ref = s.ref := rfl
@[simp] theorem State.modRg_pps (f : RgS → RgS) (s : State) : (s.modRg f).pps = s.pps := rfl
@[simp] theorem State.modRg_ext (f : RgS → RgS) (s : State) : (s.modRg f).ext = s.ext := rfl
@[simp] theorem State.modRg_ts (f : RgS → RgS) (s : State) : (s.modRg f).ts = s.ts := rfl
@[simp] theorem State.modRg_latch (f : RgS → RgS) (s : State) : (s.modRg f).latch = s.latch := rfl
@[simp] theorem State.modRg_chans (f : RgS → RgS) (s : State) : (s.modRg f).chans = s.chans := rfl
@[simp] theorem State.modRg_octs (f : RgS → RgS) (s : State) : (s.modRg f).octs = s.octs := rfl
@[simp] theorem State.modRg_dlls (f : RgS → RgS) (s : State) : (s.modRg f).dlls = s.dlls := rfl
@[simp] theorem State.modRg_engs (f : RgS → RgS) (s : State) : (s.modRg f).engs = s.engs := rfl
@[simp] theorem State.modRg_arr (f : RgS → RgS) (s : State) : (s.modRg f).arr = s.arr := rfl
@[simp] theorem State.modRg_cores (f : RgS → RgS) (s : State) : (s.modRg f).cores = s.cores := rfl
@[simp] theorem State.modRg_srcs (f : RgS → RgS) (s : State) : (s.modRg f).srcs = s.srcs := rfl
@[simp] theorem State.modRg_devq (f : RgS → RgS) (s : State) : (s.modRg f).devq = s.devq := rfl
@[simp] theorem State.modRg_iv (f : RgS → RgS) (s : State) : (s.modRg f).iv = s.iv := rfl
@[simp] theorem State.modRg_ring (f : RgS → RgS) (s : State) : (s.modRg f).ring = s.ring := rfl
@[simp] theorem State.modRg_rg (f : RgS → RgS) (s : State) : (s.modRg f).rg = f s.rg := rfl
@[simp] theorem State.modRg_mbox (f : RgS → RgS) (s : State) : (s.modRg f).mbox = s.mbox := rfl
@[simp] theorem State.modRg_pwr (f : RgS → RgS) (s : State) : (s.modRg f).pwr = s.pwr := rfl
@[simp] theorem State.modRg_par (f : RgS → RgS) (s : State) : (s.modRg f).par = s.par := rfl
@[simp] theorem State.modRg_store (f : RgS → RgS) (s : State) : (s.modRg f).store = s.store := rfl
@[simp] theorem State.modRg_grat (f : RgS → RgS) (s : State) : (s.modRg f).grat = s.grat := rfl
@[simp] theorem State.modRg_flt (f : RgS → RgS) (s : State) : (s.modRg f).flt = s.flt := rfl
@[simp] theorem State.modRg_tests (f : RgS → RgS) (s : State) : (s.modRg f).tests = s.tests := rfl
@[simp] theorem State.modRg_cas (f : RgS → RgS) (s : State) : (s.modRg f).cas = s.cas := rfl
@[simp] theorem State.modRg_cal (f : RgS → RgS) (s : State) : (s.modRg f).cal = s.cal := rfl
@[simp] theorem State.modRg_otp (f : RgS → RgS) (s : State) : (s.modRg f).otp = s.otp := rfl
@[simp] theorem State.modRg_img (f : RgS → RgS) (s : State) : (s.modRg f).img = s.img := rfl
@[simp] theorem State.modRg_mem (f : RgS → RgS) (s : State) : (s.modRg f).mem = s.mem := rfl
@[simp] theorem State.modRg_per (f : RgS → RgS) (s : State) : (s.modRg f).per = s.per := rfl
@[simp] theorem State.modRg_gw (f : RgS → RgS) (s : State) : (s.modRg f).gw = s.gw := rfl
@[simp] theorem State.modRg_hp (f : RgS → RgS) (s : State) : (s.modRg f).hp = s.hp := rfl
@[simp] theorem State.modRg_reg (f : RgS → RgS) (s : State) : (s.modRg f).reg = s.reg := rfl
@[simp] theorem State.modRg_tap (f : RgS → RgS) (s : State) : (s.modRg f).tap = s.tap := rfl
@[simp] theorem State.modRg_byp (f : RgS → RgS) (s : State) : (s.modRg f).byp = s.byp := rfl
@[simp] theorem State.modRg_pending (f : RgS → RgS) (s : State) : (s.modRg f).pending = s.pending := rfl

@[simp] theorem State.modMbox_ref (f : MboxS → MboxS) (s : State) : (s.modMbox f).ref = s.ref := rfl
@[simp] theorem State.modMbox_pps (f : MboxS → MboxS) (s : State) : (s.modMbox f).pps = s.pps := rfl
@[simp] theorem State.modMbox_ext (f : MboxS → MboxS) (s : State) : (s.modMbox f).ext = s.ext := rfl
@[simp] theorem State.modMbox_ts (f : MboxS → MboxS) (s : State) : (s.modMbox f).ts = s.ts := rfl
@[simp] theorem State.modMbox_latch (f : MboxS → MboxS) (s : State) : (s.modMbox f).latch = s.latch := rfl
@[simp] theorem State.modMbox_chans (f : MboxS → MboxS) (s : State) : (s.modMbox f).chans = s.chans := rfl
@[simp] theorem State.modMbox_octs (f : MboxS → MboxS) (s : State) : (s.modMbox f).octs = s.octs := rfl
@[simp] theorem State.modMbox_dlls (f : MboxS → MboxS) (s : State) : (s.modMbox f).dlls = s.dlls := rfl
@[simp] theorem State.modMbox_engs (f : MboxS → MboxS) (s : State) : (s.modMbox f).engs = s.engs := rfl
@[simp] theorem State.modMbox_arr (f : MboxS → MboxS) (s : State) : (s.modMbox f).arr = s.arr := rfl
@[simp] theorem State.modMbox_cores (f : MboxS → MboxS) (s : State) : (s.modMbox f).cores = s.cores := rfl
@[simp] theorem State.modMbox_srcs (f : MboxS → MboxS) (s : State) : (s.modMbox f).srcs = s.srcs := rfl
@[simp] theorem State.modMbox_devq (f : MboxS → MboxS) (s : State) : (s.modMbox f).devq = s.devq := rfl
@[simp] theorem State.modMbox_iv (f : MboxS → MboxS) (s : State) : (s.modMbox f).iv = s.iv := rfl
@[simp] theorem State.modMbox_ring (f : MboxS → MboxS) (s : State) : (s.modMbox f).ring = s.ring := rfl
@[simp] theorem State.modMbox_rg (f : MboxS → MboxS) (s : State) : (s.modMbox f).rg = s.rg := rfl
@[simp] theorem State.modMbox_mbox (f : MboxS → MboxS) (s : State) : (s.modMbox f).mbox = f s.mbox := rfl
@[simp] theorem State.modMbox_pwr (f : MboxS → MboxS) (s : State) : (s.modMbox f).pwr = s.pwr := rfl
@[simp] theorem State.modMbox_par (f : MboxS → MboxS) (s : State) : (s.modMbox f).par = s.par := rfl
@[simp] theorem State.modMbox_store (f : MboxS → MboxS) (s : State) : (s.modMbox f).store = s.store := rfl
@[simp] theorem State.modMbox_grat (f : MboxS → MboxS) (s : State) : (s.modMbox f).grat = s.grat := rfl
@[simp] theorem State.modMbox_flt (f : MboxS → MboxS) (s : State) : (s.modMbox f).flt = s.flt := rfl
@[simp] theorem State.modMbox_tests (f : MboxS → MboxS) (s : State) : (s.modMbox f).tests = s.tests := rfl
@[simp] theorem State.modMbox_cas (f : MboxS → MboxS) (s : State) : (s.modMbox f).cas = s.cas := rfl
@[simp] theorem State.modMbox_cal (f : MboxS → MboxS) (s : State) : (s.modMbox f).cal = s.cal := rfl
@[simp] theorem State.modMbox_otp (f : MboxS → MboxS) (s : State) : (s.modMbox f).otp = s.otp := rfl
@[simp] theorem State.modMbox_img (f : MboxS → MboxS) (s : State) : (s.modMbox f).img = s.img := rfl
@[simp] theorem State.modMbox_mem (f : MboxS → MboxS) (s : State) : (s.modMbox f).mem = s.mem := rfl
@[simp] theorem State.modMbox_per (f : MboxS → MboxS) (s : State) : (s.modMbox f).per = s.per := rfl
@[simp] theorem State.modMbox_gw (f : MboxS → MboxS) (s : State) : (s.modMbox f).gw = s.gw := rfl
@[simp] theorem State.modMbox_hp (f : MboxS → MboxS) (s : State) : (s.modMbox f).hp = s.hp := rfl
@[simp] theorem State.modMbox_reg (f : MboxS → MboxS) (s : State) : (s.modMbox f).reg = s.reg := rfl
@[simp] theorem State.modMbox_tap (f : MboxS → MboxS) (s : State) : (s.modMbox f).tap = s.tap := rfl
@[simp] theorem State.modMbox_byp (f : MboxS → MboxS) (s : State) : (s.modMbox f).byp = s.byp := rfl
@[simp] theorem State.modMbox_pending (f : MboxS → MboxS) (s : State) : (s.modMbox f).pending = s.pending := rfl

@[simp] theorem State.modPwr_ref (f : PwrS → PwrS) (s : State) : (s.modPwr f).ref = s.ref := rfl
@[simp] theorem State.modPwr_pps (f : PwrS → PwrS) (s : State) : (s.modPwr f).pps = s.pps := rfl
@[simp] theorem State.modPwr_ext (f : PwrS → PwrS) (s : State) : (s.modPwr f).ext = s.ext := rfl
@[simp] theorem State.modPwr_ts (f : PwrS → PwrS) (s : State) : (s.modPwr f).ts = s.ts := rfl
@[simp] theorem State.modPwr_latch (f : PwrS → PwrS) (s : State) : (s.modPwr f).latch = s.latch := rfl
@[simp] theorem State.modPwr_chans (f : PwrS → PwrS) (s : State) : (s.modPwr f).chans = s.chans := rfl
@[simp] theorem State.modPwr_octs (f : PwrS → PwrS) (s : State) : (s.modPwr f).octs = s.octs := rfl
@[simp] theorem State.modPwr_dlls (f : PwrS → PwrS) (s : State) : (s.modPwr f).dlls = s.dlls := rfl
@[simp] theorem State.modPwr_engs (f : PwrS → PwrS) (s : State) : (s.modPwr f).engs = s.engs := rfl
@[simp] theorem State.modPwr_arr (f : PwrS → PwrS) (s : State) : (s.modPwr f).arr = s.arr := rfl
@[simp] theorem State.modPwr_cores (f : PwrS → PwrS) (s : State) : (s.modPwr f).cores = s.cores := rfl
@[simp] theorem State.modPwr_srcs (f : PwrS → PwrS) (s : State) : (s.modPwr f).srcs = s.srcs := rfl
@[simp] theorem State.modPwr_devq (f : PwrS → PwrS) (s : State) : (s.modPwr f).devq = s.devq := rfl
@[simp] theorem State.modPwr_iv (f : PwrS → PwrS) (s : State) : (s.modPwr f).iv = s.iv := rfl
@[simp] theorem State.modPwr_ring (f : PwrS → PwrS) (s : State) : (s.modPwr f).ring = s.ring := rfl
@[simp] theorem State.modPwr_rg (f : PwrS → PwrS) (s : State) : (s.modPwr f).rg = s.rg := rfl
@[simp] theorem State.modPwr_mbox (f : PwrS → PwrS) (s : State) : (s.modPwr f).mbox = s.mbox := rfl
@[simp] theorem State.modPwr_pwr (f : PwrS → PwrS) (s : State) : (s.modPwr f).pwr = f s.pwr := rfl
@[simp] theorem State.modPwr_par (f : PwrS → PwrS) (s : State) : (s.modPwr f).par = s.par := rfl
@[simp] theorem State.modPwr_store (f : PwrS → PwrS) (s : State) : (s.modPwr f).store = s.store := rfl
@[simp] theorem State.modPwr_grat (f : PwrS → PwrS) (s : State) : (s.modPwr f).grat = s.grat := rfl
@[simp] theorem State.modPwr_flt (f : PwrS → PwrS) (s : State) : (s.modPwr f).flt = s.flt := rfl
@[simp] theorem State.modPwr_tests (f : PwrS → PwrS) (s : State) : (s.modPwr f).tests = s.tests := rfl
@[simp] theorem State.modPwr_cas (f : PwrS → PwrS) (s : State) : (s.modPwr f).cas = s.cas := rfl
@[simp] theorem State.modPwr_cal (f : PwrS → PwrS) (s : State) : (s.modPwr f).cal = s.cal := rfl
@[simp] theorem State.modPwr_otp (f : PwrS → PwrS) (s : State) : (s.modPwr f).otp = s.otp := rfl
@[simp] theorem State.modPwr_img (f : PwrS → PwrS) (s : State) : (s.modPwr f).img = s.img := rfl
@[simp] theorem State.modPwr_mem (f : PwrS → PwrS) (s : State) : (s.modPwr f).mem = s.mem := rfl
@[simp] theorem State.modPwr_per (f : PwrS → PwrS) (s : State) : (s.modPwr f).per = s.per := rfl
@[simp] theorem State.modPwr_gw (f : PwrS → PwrS) (s : State) : (s.modPwr f).gw = s.gw := rfl
@[simp] theorem State.modPwr_hp (f : PwrS → PwrS) (s : State) : (s.modPwr f).hp = s.hp := rfl
@[simp] theorem State.modPwr_reg (f : PwrS → PwrS) (s : State) : (s.modPwr f).reg = s.reg := rfl
@[simp] theorem State.modPwr_tap (f : PwrS → PwrS) (s : State) : (s.modPwr f).tap = s.tap := rfl
@[simp] theorem State.modPwr_byp (f : PwrS → PwrS) (s : State) : (s.modPwr f).byp = s.byp := rfl
@[simp] theorem State.modPwr_pending (f : PwrS → PwrS) (s : State) : (s.modPwr f).pending = s.pending := rfl

@[simp] theorem State.modPar_ref (f : ParS → ParS) (s : State) : (s.modPar f).ref = s.ref := rfl
@[simp] theorem State.modPar_pps (f : ParS → ParS) (s : State) : (s.modPar f).pps = s.pps := rfl
@[simp] theorem State.modPar_ext (f : ParS → ParS) (s : State) : (s.modPar f).ext = s.ext := rfl
@[simp] theorem State.modPar_ts (f : ParS → ParS) (s : State) : (s.modPar f).ts = s.ts := rfl
@[simp] theorem State.modPar_latch (f : ParS → ParS) (s : State) : (s.modPar f).latch = s.latch := rfl
@[simp] theorem State.modPar_chans (f : ParS → ParS) (s : State) : (s.modPar f).chans = s.chans := rfl
@[simp] theorem State.modPar_octs (f : ParS → ParS) (s : State) : (s.modPar f).octs = s.octs := rfl
@[simp] theorem State.modPar_dlls (f : ParS → ParS) (s : State) : (s.modPar f).dlls = s.dlls := rfl
@[simp] theorem State.modPar_engs (f : ParS → ParS) (s : State) : (s.modPar f).engs = s.engs := rfl
@[simp] theorem State.modPar_arr (f : ParS → ParS) (s : State) : (s.modPar f).arr = s.arr := rfl
@[simp] theorem State.modPar_cores (f : ParS → ParS) (s : State) : (s.modPar f).cores = s.cores := rfl
@[simp] theorem State.modPar_srcs (f : ParS → ParS) (s : State) : (s.modPar f).srcs = s.srcs := rfl
@[simp] theorem State.modPar_devq (f : ParS → ParS) (s : State) : (s.modPar f).devq = s.devq := rfl
@[simp] theorem State.modPar_iv (f : ParS → ParS) (s : State) : (s.modPar f).iv = s.iv := rfl
@[simp] theorem State.modPar_ring (f : ParS → ParS) (s : State) : (s.modPar f).ring = s.ring := rfl
@[simp] theorem State.modPar_rg (f : ParS → ParS) (s : State) : (s.modPar f).rg = s.rg := rfl
@[simp] theorem State.modPar_mbox (f : ParS → ParS) (s : State) : (s.modPar f).mbox = s.mbox := rfl
@[simp] theorem State.modPar_pwr (f : ParS → ParS) (s : State) : (s.modPar f).pwr = s.pwr := rfl
@[simp] theorem State.modPar_par (f : ParS → ParS) (s : State) : (s.modPar f).par = f s.par := rfl
@[simp] theorem State.modPar_store (f : ParS → ParS) (s : State) : (s.modPar f).store = s.store := rfl
@[simp] theorem State.modPar_grat (f : ParS → ParS) (s : State) : (s.modPar f).grat = s.grat := rfl
@[simp] theorem State.modPar_flt (f : ParS → ParS) (s : State) : (s.modPar f).flt = s.flt := rfl
@[simp] theorem State.modPar_tests (f : ParS → ParS) (s : State) : (s.modPar f).tests = s.tests := rfl
@[simp] theorem State.modPar_cas (f : ParS → ParS) (s : State) : (s.modPar f).cas = s.cas := rfl
@[simp] theorem State.modPar_cal (f : ParS → ParS) (s : State) : (s.modPar f).cal = s.cal := rfl
@[simp] theorem State.modPar_otp (f : ParS → ParS) (s : State) : (s.modPar f).otp = s.otp := rfl
@[simp] theorem State.modPar_img (f : ParS → ParS) (s : State) : (s.modPar f).img = s.img := rfl
@[simp] theorem State.modPar_mem (f : ParS → ParS) (s : State) : (s.modPar f).mem = s.mem := rfl
@[simp] theorem State.modPar_per (f : ParS → ParS) (s : State) : (s.modPar f).per = s.per := rfl
@[simp] theorem State.modPar_gw (f : ParS → ParS) (s : State) : (s.modPar f).gw = s.gw := rfl
@[simp] theorem State.modPar_hp (f : ParS → ParS) (s : State) : (s.modPar f).hp = s.hp := rfl
@[simp] theorem State.modPar_reg (f : ParS → ParS) (s : State) : (s.modPar f).reg = s.reg := rfl
@[simp] theorem State.modPar_tap (f : ParS → ParS) (s : State) : (s.modPar f).tap = s.tap := rfl
@[simp] theorem State.modPar_byp (f : ParS → ParS) (s : State) : (s.modPar f).byp = s.byp := rfl
@[simp] theorem State.modPar_pending (f : ParS → ParS) (s : State) : (s.modPar f).pending = s.pending := rfl

@[simp] theorem State.modStore_ref (f : StoreS → StoreS) (s : State) : (s.modStore f).ref = s.ref := rfl
@[simp] theorem State.modStore_pps (f : StoreS → StoreS) (s : State) : (s.modStore f).pps = s.pps := rfl
@[simp] theorem State.modStore_ext (f : StoreS → StoreS) (s : State) : (s.modStore f).ext = s.ext := rfl
@[simp] theorem State.modStore_ts (f : StoreS → StoreS) (s : State) : (s.modStore f).ts = s.ts := rfl
@[simp] theorem State.modStore_latch (f : StoreS → StoreS) (s : State) : (s.modStore f).latch = s.latch := rfl
@[simp] theorem State.modStore_chans (f : StoreS → StoreS) (s : State) : (s.modStore f).chans = s.chans := rfl
@[simp] theorem State.modStore_octs (f : StoreS → StoreS) (s : State) : (s.modStore f).octs = s.octs := rfl
@[simp] theorem State.modStore_dlls (f : StoreS → StoreS) (s : State) : (s.modStore f).dlls = s.dlls := rfl
@[simp] theorem State.modStore_engs (f : StoreS → StoreS) (s : State) : (s.modStore f).engs = s.engs := rfl
@[simp] theorem State.modStore_arr (f : StoreS → StoreS) (s : State) : (s.modStore f).arr = s.arr := rfl
@[simp] theorem State.modStore_cores (f : StoreS → StoreS) (s : State) : (s.modStore f).cores = s.cores := rfl
@[simp] theorem State.modStore_srcs (f : StoreS → StoreS) (s : State) : (s.modStore f).srcs = s.srcs := rfl
@[simp] theorem State.modStore_devq (f : StoreS → StoreS) (s : State) : (s.modStore f).devq = s.devq := rfl
@[simp] theorem State.modStore_iv (f : StoreS → StoreS) (s : State) : (s.modStore f).iv = s.iv := rfl
@[simp] theorem State.modStore_ring (f : StoreS → StoreS) (s : State) : (s.modStore f).ring = s.ring := rfl
@[simp] theorem State.modStore_rg (f : StoreS → StoreS) (s : State) : (s.modStore f).rg = s.rg := rfl
@[simp] theorem State.modStore_mbox (f : StoreS → StoreS) (s : State) : (s.modStore f).mbox = s.mbox := rfl
@[simp] theorem State.modStore_pwr (f : StoreS → StoreS) (s : State) : (s.modStore f).pwr = s.pwr := rfl
@[simp] theorem State.modStore_par (f : StoreS → StoreS) (s : State) : (s.modStore f).par = s.par := rfl
@[simp] theorem State.modStore_store (f : StoreS → StoreS) (s : State) : (s.modStore f).store = f s.store := rfl
@[simp] theorem State.modStore_grat (f : StoreS → StoreS) (s : State) : (s.modStore f).grat = s.grat := rfl
@[simp] theorem State.modStore_flt (f : StoreS → StoreS) (s : State) : (s.modStore f).flt = s.flt := rfl
@[simp] theorem State.modStore_tests (f : StoreS → StoreS) (s : State) : (s.modStore f).tests = s.tests := rfl
@[simp] theorem State.modStore_cas (f : StoreS → StoreS) (s : State) : (s.modStore f).cas = s.cas := rfl
@[simp] theorem State.modStore_cal (f : StoreS → StoreS) (s : State) : (s.modStore f).cal = s.cal := rfl
@[simp] theorem State.modStore_otp (f : StoreS → StoreS) (s : State) : (s.modStore f).otp = s.otp := rfl
@[simp] theorem State.modStore_img (f : StoreS → StoreS) (s : State) : (s.modStore f).img = s.img := rfl
@[simp] theorem State.modStore_mem (f : StoreS → StoreS) (s : State) : (s.modStore f).mem = s.mem := rfl
@[simp] theorem State.modStore_per (f : StoreS → StoreS) (s : State) : (s.modStore f).per = s.per := rfl
@[simp] theorem State.modStore_gw (f : StoreS → StoreS) (s : State) : (s.modStore f).gw = s.gw := rfl
@[simp] theorem State.modStore_hp (f : StoreS → StoreS) (s : State) : (s.modStore f).hp = s.hp := rfl
@[simp] theorem State.modStore_reg (f : StoreS → StoreS) (s : State) : (s.modStore f).reg = s.reg := rfl
@[simp] theorem State.modStore_tap (f : StoreS → StoreS) (s : State) : (s.modStore f).tap = s.tap := rfl
@[simp] theorem State.modStore_byp (f : StoreS → StoreS) (s : State) : (s.modStore f).byp = s.byp := rfl
@[simp] theorem State.modStore_pending (f : StoreS → StoreS) (s : State) : (s.modStore f).pending = s.pending := rfl

@[simp] theorem State.modGrat_ref (f : GratS → GratS) (s : State) : (s.modGrat f).ref = s.ref := rfl
@[simp] theorem State.modGrat_pps (f : GratS → GratS) (s : State) : (s.modGrat f).pps = s.pps := rfl
@[simp] theorem State.modGrat_ext (f : GratS → GratS) (s : State) : (s.modGrat f).ext = s.ext := rfl
@[simp] theorem State.modGrat_ts (f : GratS → GratS) (s : State) : (s.modGrat f).ts = s.ts := rfl
@[simp] theorem State.modGrat_latch (f : GratS → GratS) (s : State) : (s.modGrat f).latch = s.latch := rfl
@[simp] theorem State.modGrat_chans (f : GratS → GratS) (s : State) : (s.modGrat f).chans = s.chans := rfl
@[simp] theorem State.modGrat_octs (f : GratS → GratS) (s : State) : (s.modGrat f).octs = s.octs := rfl
@[simp] theorem State.modGrat_dlls (f : GratS → GratS) (s : State) : (s.modGrat f).dlls = s.dlls := rfl
@[simp] theorem State.modGrat_engs (f : GratS → GratS) (s : State) : (s.modGrat f).engs = s.engs := rfl
@[simp] theorem State.modGrat_arr (f : GratS → GratS) (s : State) : (s.modGrat f).arr = s.arr := rfl
@[simp] theorem State.modGrat_cores (f : GratS → GratS) (s : State) : (s.modGrat f).cores = s.cores := rfl
@[simp] theorem State.modGrat_srcs (f : GratS → GratS) (s : State) : (s.modGrat f).srcs = s.srcs := rfl
@[simp] theorem State.modGrat_devq (f : GratS → GratS) (s : State) : (s.modGrat f).devq = s.devq := rfl
@[simp] theorem State.modGrat_iv (f : GratS → GratS) (s : State) : (s.modGrat f).iv = s.iv := rfl
@[simp] theorem State.modGrat_ring (f : GratS → GratS) (s : State) : (s.modGrat f).ring = s.ring := rfl
@[simp] theorem State.modGrat_rg (f : GratS → GratS) (s : State) : (s.modGrat f).rg = s.rg := rfl
@[simp] theorem State.modGrat_mbox (f : GratS → GratS) (s : State) : (s.modGrat f).mbox = s.mbox := rfl
@[simp] theorem State.modGrat_pwr (f : GratS → GratS) (s : State) : (s.modGrat f).pwr = s.pwr := rfl
@[simp] theorem State.modGrat_par (f : GratS → GratS) (s : State) : (s.modGrat f).par = s.par := rfl
@[simp] theorem State.modGrat_store (f : GratS → GratS) (s : State) : (s.modGrat f).store = s.store := rfl
@[simp] theorem State.modGrat_grat (f : GratS → GratS) (s : State) : (s.modGrat f).grat = f s.grat := rfl
@[simp] theorem State.modGrat_flt (f : GratS → GratS) (s : State) : (s.modGrat f).flt = s.flt := rfl
@[simp] theorem State.modGrat_tests (f : GratS → GratS) (s : State) : (s.modGrat f).tests = s.tests := rfl
@[simp] theorem State.modGrat_cas (f : GratS → GratS) (s : State) : (s.modGrat f).cas = s.cas := rfl
@[simp] theorem State.modGrat_cal (f : GratS → GratS) (s : State) : (s.modGrat f).cal = s.cal := rfl
@[simp] theorem State.modGrat_otp (f : GratS → GratS) (s : State) : (s.modGrat f).otp = s.otp := rfl
@[simp] theorem State.modGrat_img (f : GratS → GratS) (s : State) : (s.modGrat f).img = s.img := rfl
@[simp] theorem State.modGrat_mem (f : GratS → GratS) (s : State) : (s.modGrat f).mem = s.mem := rfl
@[simp] theorem State.modGrat_per (f : GratS → GratS) (s : State) : (s.modGrat f).per = s.per := rfl
@[simp] theorem State.modGrat_gw (f : GratS → GratS) (s : State) : (s.modGrat f).gw = s.gw := rfl
@[simp] theorem State.modGrat_hp (f : GratS → GratS) (s : State) : (s.modGrat f).hp = s.hp := rfl
@[simp] theorem State.modGrat_reg (f : GratS → GratS) (s : State) : (s.modGrat f).reg = s.reg := rfl
@[simp] theorem State.modGrat_tap (f : GratS → GratS) (s : State) : (s.modGrat f).tap = s.tap := rfl
@[simp] theorem State.modGrat_byp (f : GratS → GratS) (s : State) : (s.modGrat f).byp = s.byp := rfl
@[simp] theorem State.modGrat_pending (f : GratS → GratS) (s : State) : (s.modGrat f).pending = s.pending := rfl

@[simp] theorem State.modOtp_ref (f : OtpS → OtpS) (s : State) : (s.modOtp f).ref = s.ref := rfl
@[simp] theorem State.modOtp_pps (f : OtpS → OtpS) (s : State) : (s.modOtp f).pps = s.pps := rfl
@[simp] theorem State.modOtp_ext (f : OtpS → OtpS) (s : State) : (s.modOtp f).ext = s.ext := rfl
@[simp] theorem State.modOtp_ts (f : OtpS → OtpS) (s : State) : (s.modOtp f).ts = s.ts := rfl
@[simp] theorem State.modOtp_latch (f : OtpS → OtpS) (s : State) : (s.modOtp f).latch = s.latch := rfl
@[simp] theorem State.modOtp_chans (f : OtpS → OtpS) (s : State) : (s.modOtp f).chans = s.chans := rfl
@[simp] theorem State.modOtp_octs (f : OtpS → OtpS) (s : State) : (s.modOtp f).octs = s.octs := rfl
@[simp] theorem State.modOtp_dlls (f : OtpS → OtpS) (s : State) : (s.modOtp f).dlls = s.dlls := rfl
@[simp] theorem State.modOtp_engs (f : OtpS → OtpS) (s : State) : (s.modOtp f).engs = s.engs := rfl
@[simp] theorem State.modOtp_arr (f : OtpS → OtpS) (s : State) : (s.modOtp f).arr = s.arr := rfl
@[simp] theorem State.modOtp_cores (f : OtpS → OtpS) (s : State) : (s.modOtp f).cores = s.cores := rfl
@[simp] theorem State.modOtp_srcs (f : OtpS → OtpS) (s : State) : (s.modOtp f).srcs = s.srcs := rfl
@[simp] theorem State.modOtp_devq (f : OtpS → OtpS) (s : State) : (s.modOtp f).devq = s.devq := rfl
@[simp] theorem State.modOtp_iv (f : OtpS → OtpS) (s : State) : (s.modOtp f).iv = s.iv := rfl
@[simp] theorem State.modOtp_ring (f : OtpS → OtpS) (s : State) : (s.modOtp f).ring = s.ring := rfl
@[simp] theorem State.modOtp_rg (f : OtpS → OtpS) (s : State) : (s.modOtp f).rg = s.rg := rfl
@[simp] theorem State.modOtp_mbox (f : OtpS → OtpS) (s : State) : (s.modOtp f).mbox = s.mbox := rfl
@[simp] theorem State.modOtp_pwr (f : OtpS → OtpS) (s : State) : (s.modOtp f).pwr = s.pwr := rfl
@[simp] theorem State.modOtp_par (f : OtpS → OtpS) (s : State) : (s.modOtp f).par = s.par := rfl
@[simp] theorem State.modOtp_store (f : OtpS → OtpS) (s : State) : (s.modOtp f).store = s.store := rfl
@[simp] theorem State.modOtp_grat (f : OtpS → OtpS) (s : State) : (s.modOtp f).grat = s.grat := rfl
@[simp] theorem State.modOtp_flt (f : OtpS → OtpS) (s : State) : (s.modOtp f).flt = s.flt := rfl
@[simp] theorem State.modOtp_tests (f : OtpS → OtpS) (s : State) : (s.modOtp f).tests = s.tests := rfl
@[simp] theorem State.modOtp_cas (f : OtpS → OtpS) (s : State) : (s.modOtp f).cas = s.cas := rfl
@[simp] theorem State.modOtp_cal (f : OtpS → OtpS) (s : State) : (s.modOtp f).cal = s.cal := rfl
@[simp] theorem State.modOtp_otp (f : OtpS → OtpS) (s : State) : (s.modOtp f).otp = f s.otp := rfl
@[simp] theorem State.modOtp_img (f : OtpS → OtpS) (s : State) : (s.modOtp f).img = s.img := rfl
@[simp] theorem State.modOtp_mem (f : OtpS → OtpS) (s : State) : (s.modOtp f).mem = s.mem := rfl
@[simp] theorem State.modOtp_per (f : OtpS → OtpS) (s : State) : (s.modOtp f).per = s.per := rfl
@[simp] theorem State.modOtp_gw (f : OtpS → OtpS) (s : State) : (s.modOtp f).gw = s.gw := rfl
@[simp] theorem State.modOtp_hp (f : OtpS → OtpS) (s : State) : (s.modOtp f).hp = s.hp := rfl
@[simp] theorem State.modOtp_reg (f : OtpS → OtpS) (s : State) : (s.modOtp f).reg = s.reg := rfl
@[simp] theorem State.modOtp_tap (f : OtpS → OtpS) (s : State) : (s.modOtp f).tap = s.tap := rfl
@[simp] theorem State.modOtp_byp (f : OtpS → OtpS) (s : State) : (s.modOtp f).byp = s.byp := rfl
@[simp] theorem State.modOtp_pending (f : OtpS → OtpS) (s : State) : (s.modOtp f).pending = s.pending := rfl

@[simp] theorem State.modMem_ref (f : MemS → MemS) (s : State) : (s.modMem f).ref = s.ref := rfl
@[simp] theorem State.modMem_pps (f : MemS → MemS) (s : State) : (s.modMem f).pps = s.pps := rfl
@[simp] theorem State.modMem_ext (f : MemS → MemS) (s : State) : (s.modMem f).ext = s.ext := rfl
@[simp] theorem State.modMem_ts (f : MemS → MemS) (s : State) : (s.modMem f).ts = s.ts := rfl
@[simp] theorem State.modMem_latch (f : MemS → MemS) (s : State) : (s.modMem f).latch = s.latch := rfl
@[simp] theorem State.modMem_chans (f : MemS → MemS) (s : State) : (s.modMem f).chans = s.chans := rfl
@[simp] theorem State.modMem_octs (f : MemS → MemS) (s : State) : (s.modMem f).octs = s.octs := rfl
@[simp] theorem State.modMem_dlls (f : MemS → MemS) (s : State) : (s.modMem f).dlls = s.dlls := rfl
@[simp] theorem State.modMem_engs (f : MemS → MemS) (s : State) : (s.modMem f).engs = s.engs := rfl
@[simp] theorem State.modMem_arr (f : MemS → MemS) (s : State) : (s.modMem f).arr = s.arr := rfl
@[simp] theorem State.modMem_cores (f : MemS → MemS) (s : State) : (s.modMem f).cores = s.cores := rfl
@[simp] theorem State.modMem_srcs (f : MemS → MemS) (s : State) : (s.modMem f).srcs = s.srcs := rfl
@[simp] theorem State.modMem_devq (f : MemS → MemS) (s : State) : (s.modMem f).devq = s.devq := rfl
@[simp] theorem State.modMem_iv (f : MemS → MemS) (s : State) : (s.modMem f).iv = s.iv := rfl
@[simp] theorem State.modMem_ring (f : MemS → MemS) (s : State) : (s.modMem f).ring = s.ring := rfl
@[simp] theorem State.modMem_rg (f : MemS → MemS) (s : State) : (s.modMem f).rg = s.rg := rfl
@[simp] theorem State.modMem_mbox (f : MemS → MemS) (s : State) : (s.modMem f).mbox = s.mbox := rfl
@[simp] theorem State.modMem_pwr (f : MemS → MemS) (s : State) : (s.modMem f).pwr = s.pwr := rfl
@[simp] theorem State.modMem_par (f : MemS → MemS) (s : State) : (s.modMem f).par = s.par := rfl
@[simp] theorem State.modMem_store (f : MemS → MemS) (s : State) : (s.modMem f).store = s.store := rfl
@[simp] theorem State.modMem_grat (f : MemS → MemS) (s : State) : (s.modMem f).grat = s.grat := rfl
@[simp] theorem State.modMem_flt (f : MemS → MemS) (s : State) : (s.modMem f).flt = s.flt := rfl
@[simp] theorem State.modMem_tests (f : MemS → MemS) (s : State) : (s.modMem f).tests = s.tests := rfl
@[simp] theorem State.modMem_cas (f : MemS → MemS) (s : State) : (s.modMem f).cas = s.cas := rfl
@[simp] theorem State.modMem_cal (f : MemS → MemS) (s : State) : (s.modMem f).cal = s.cal := rfl
@[simp] theorem State.modMem_otp (f : MemS → MemS) (s : State) : (s.modMem f).otp = s.otp := rfl
@[simp] theorem State.modMem_img (f : MemS → MemS) (s : State) : (s.modMem f).img = s.img := rfl
@[simp] theorem State.modMem_mem (f : MemS → MemS) (s : State) : (s.modMem f).mem = f s.mem := rfl
@[simp] theorem State.modMem_per (f : MemS → MemS) (s : State) : (s.modMem f).per = s.per := rfl
@[simp] theorem State.modMem_gw (f : MemS → MemS) (s : State) : (s.modMem f).gw = s.gw := rfl
@[simp] theorem State.modMem_hp (f : MemS → MemS) (s : State) : (s.modMem f).hp = s.hp := rfl
@[simp] theorem State.modMem_reg (f : MemS → MemS) (s : State) : (s.modMem f).reg = s.reg := rfl
@[simp] theorem State.modMem_tap (f : MemS → MemS) (s : State) : (s.modMem f).tap = s.tap := rfl
@[simp] theorem State.modMem_byp (f : MemS → MemS) (s : State) : (s.modMem f).byp = s.byp := rfl
@[simp] theorem State.modMem_pending (f : MemS → MemS) (s : State) : (s.modMem f).pending = s.pending := rfl

@[simp] theorem State.modPer_ref (f : PerS → PerS) (s : State) : (s.modPer f).ref = s.ref := rfl
@[simp] theorem State.modPer_pps (f : PerS → PerS) (s : State) : (s.modPer f).pps = s.pps := rfl
@[simp] theorem State.modPer_ext (f : PerS → PerS) (s : State) : (s.modPer f).ext = s.ext := rfl
@[simp] theorem State.modPer_ts (f : PerS → PerS) (s : State) : (s.modPer f).ts = s.ts := rfl
@[simp] theorem State.modPer_latch (f : PerS → PerS) (s : State) : (s.modPer f).latch = s.latch := rfl
@[simp] theorem State.modPer_chans (f : PerS → PerS) (s : State) : (s.modPer f).chans = s.chans := rfl
@[simp] theorem State.modPer_octs (f : PerS → PerS) (s : State) : (s.modPer f).octs = s.octs := rfl
@[simp] theorem State.modPer_dlls (f : PerS → PerS) (s : State) : (s.modPer f).dlls = s.dlls := rfl
@[simp] theorem State.modPer_engs (f : PerS → PerS) (s : State) : (s.modPer f).engs = s.engs := rfl
@[simp] theorem State.modPer_arr (f : PerS → PerS) (s : State) : (s.modPer f).arr = s.arr := rfl
@[simp] theorem State.modPer_cores (f : PerS → PerS) (s : State) : (s.modPer f).cores = s.cores := rfl
@[simp] theorem State.modPer_srcs (f : PerS → PerS) (s : State) : (s.modPer f).srcs = s.srcs := rfl
@[simp] theorem State.modPer_devq (f : PerS → PerS) (s : State) : (s.modPer f).devq = s.devq := rfl
@[simp] theorem State.modPer_iv (f : PerS → PerS) (s : State) : (s.modPer f).iv = s.iv := rfl
@[simp] theorem State.modPer_ring (f : PerS → PerS) (s : State) : (s.modPer f).ring = s.ring := rfl
@[simp] theorem State.modPer_rg (f : PerS → PerS) (s : State) : (s.modPer f).rg = s.rg := rfl
@[simp] theorem State.modPer_mbox (f : PerS → PerS) (s : State) : (s.modPer f).mbox = s.mbox := rfl
@[simp] theorem State.modPer_pwr (f : PerS → PerS) (s : State) : (s.modPer f).pwr = s.pwr := rfl
@[simp] theorem State.modPer_par (f : PerS → PerS) (s : State) : (s.modPer f).par = s.par := rfl
@[simp] theorem State.modPer_store (f : PerS → PerS) (s : State) : (s.modPer f).store = s.store := rfl
@[simp] theorem State.modPer_grat (f : PerS → PerS) (s : State) : (s.modPer f).grat = s.grat := rfl
@[simp] theorem State.modPer_flt (f : PerS → PerS) (s : State) : (s.modPer f).flt = s.flt := rfl
@[simp] theorem State.modPer_tests (f : PerS → PerS) (s : State) : (s.modPer f).tests = s.tests := rfl
@[simp] theorem State.modPer_cas (f : PerS → PerS) (s : State) : (s.modPer f).cas = s.cas := rfl
@[simp] theorem State.modPer_cal (f : PerS → PerS) (s : State) : (s.modPer f).cal = s.cal := rfl
@[simp] theorem State.modPer_otp (f : PerS → PerS) (s : State) : (s.modPer f).otp = s.otp := rfl
@[simp] theorem State.modPer_img (f : PerS → PerS) (s : State) : (s.modPer f).img = s.img := rfl
@[simp] theorem State.modPer_mem (f : PerS → PerS) (s : State) : (s.modPer f).mem = s.mem := rfl
@[simp] theorem State.modPer_per (f : PerS → PerS) (s : State) : (s.modPer f).per = f s.per := rfl
@[simp] theorem State.modPer_gw (f : PerS → PerS) (s : State) : (s.modPer f).gw = s.gw := rfl
@[simp] theorem State.modPer_hp (f : PerS → PerS) (s : State) : (s.modPer f).hp = s.hp := rfl
@[simp] theorem State.modPer_reg (f : PerS → PerS) (s : State) : (s.modPer f).reg = s.reg := rfl
@[simp] theorem State.modPer_tap (f : PerS → PerS) (s : State) : (s.modPer f).tap = s.tap := rfl
@[simp] theorem State.modPer_byp (f : PerS → PerS) (s : State) : (s.modPer f).byp = s.byp := rfl
@[simp] theorem State.modPer_pending (f : PerS → PerS) (s : State) : (s.modPer f).pending = s.pending := rfl

@[simp] theorem State.modGw_ref (f : GwS → GwS) (s : State) : (s.modGw f).ref = s.ref := rfl
@[simp] theorem State.modGw_pps (f : GwS → GwS) (s : State) : (s.modGw f).pps = s.pps := rfl
@[simp] theorem State.modGw_ext (f : GwS → GwS) (s : State) : (s.modGw f).ext = s.ext := rfl
@[simp] theorem State.modGw_ts (f : GwS → GwS) (s : State) : (s.modGw f).ts = s.ts := rfl
@[simp] theorem State.modGw_latch (f : GwS → GwS) (s : State) : (s.modGw f).latch = s.latch := rfl
@[simp] theorem State.modGw_chans (f : GwS → GwS) (s : State) : (s.modGw f).chans = s.chans := rfl
@[simp] theorem State.modGw_octs (f : GwS → GwS) (s : State) : (s.modGw f).octs = s.octs := rfl
@[simp] theorem State.modGw_dlls (f : GwS → GwS) (s : State) : (s.modGw f).dlls = s.dlls := rfl
@[simp] theorem State.modGw_engs (f : GwS → GwS) (s : State) : (s.modGw f).engs = s.engs := rfl
@[simp] theorem State.modGw_arr (f : GwS → GwS) (s : State) : (s.modGw f).arr = s.arr := rfl
@[simp] theorem State.modGw_cores (f : GwS → GwS) (s : State) : (s.modGw f).cores = s.cores := rfl
@[simp] theorem State.modGw_srcs (f : GwS → GwS) (s : State) : (s.modGw f).srcs = s.srcs := rfl
@[simp] theorem State.modGw_devq (f : GwS → GwS) (s : State) : (s.modGw f).devq = s.devq := rfl
@[simp] theorem State.modGw_iv (f : GwS → GwS) (s : State) : (s.modGw f).iv = s.iv := rfl
@[simp] theorem State.modGw_ring (f : GwS → GwS) (s : State) : (s.modGw f).ring = s.ring := rfl
@[simp] theorem State.modGw_rg (f : GwS → GwS) (s : State) : (s.modGw f).rg = s.rg := rfl
@[simp] theorem State.modGw_mbox (f : GwS → GwS) (s : State) : (s.modGw f).mbox = s.mbox := rfl
@[simp] theorem State.modGw_pwr (f : GwS → GwS) (s : State) : (s.modGw f).pwr = s.pwr := rfl
@[simp] theorem State.modGw_par (f : GwS → GwS) (s : State) : (s.modGw f).par = s.par := rfl
@[simp] theorem State.modGw_store (f : GwS → GwS) (s : State) : (s.modGw f).store = s.store := rfl
@[simp] theorem State.modGw_grat (f : GwS → GwS) (s : State) : (s.modGw f).grat = s.grat := rfl
@[simp] theorem State.modGw_flt (f : GwS → GwS) (s : State) : (s.modGw f).flt = s.flt := rfl
@[simp] theorem State.modGw_tests (f : GwS → GwS) (s : State) : (s.modGw f).tests = s.tests := rfl
@[simp] theorem State.modGw_cas (f : GwS → GwS) (s : State) : (s.modGw f).cas = s.cas := rfl
@[simp] theorem State.modGw_cal (f : GwS → GwS) (s : State) : (s.modGw f).cal = s.cal := rfl
@[simp] theorem State.modGw_otp (f : GwS → GwS) (s : State) : (s.modGw f).otp = s.otp := rfl
@[simp] theorem State.modGw_img (f : GwS → GwS) (s : State) : (s.modGw f).img = s.img := rfl
@[simp] theorem State.modGw_mem (f : GwS → GwS) (s : State) : (s.modGw f).mem = s.mem := rfl
@[simp] theorem State.modGw_per (f : GwS → GwS) (s : State) : (s.modGw f).per = s.per := rfl
@[simp] theorem State.modGw_gw (f : GwS → GwS) (s : State) : (s.modGw f).gw = f s.gw := rfl
@[simp] theorem State.modGw_hp (f : GwS → GwS) (s : State) : (s.modGw f).hp = s.hp := rfl
@[simp] theorem State.modGw_reg (f : GwS → GwS) (s : State) : (s.modGw f).reg = s.reg := rfl
@[simp] theorem State.modGw_tap (f : GwS → GwS) (s : State) : (s.modGw f).tap = s.tap := rfl
@[simp] theorem State.modGw_byp (f : GwS → GwS) (s : State) : (s.modGw f).byp = s.byp := rfl
@[simp] theorem State.modGw_pending (f : GwS → GwS) (s : State) : (s.modGw f).pending = s.pending := rfl

@[simp] theorem State.modHp_ref (f : HpS → HpS) (s : State) : (s.modHp f).ref = s.ref := rfl
@[simp] theorem State.modHp_pps (f : HpS → HpS) (s : State) : (s.modHp f).pps = s.pps := rfl
@[simp] theorem State.modHp_ext (f : HpS → HpS) (s : State) : (s.modHp f).ext = s.ext := rfl
@[simp] theorem State.modHp_ts (f : HpS → HpS) (s : State) : (s.modHp f).ts = s.ts := rfl
@[simp] theorem State.modHp_latch (f : HpS → HpS) (s : State) : (s.modHp f).latch = s.latch := rfl
@[simp] theorem State.modHp_chans (f : HpS → HpS) (s : State) : (s.modHp f).chans = s.chans := rfl
@[simp] theorem State.modHp_octs (f : HpS → HpS) (s : State) : (s.modHp f).octs = s.octs := rfl
@[simp] theorem State.modHp_dlls (f : HpS → HpS) (s : State) : (s.modHp f).dlls = s.dlls := rfl
@[simp] theorem State.modHp_engs (f : HpS → HpS) (s : State) : (s.modHp f).engs = s.engs := rfl
@[simp] theorem State.modHp_arr (f : HpS → HpS) (s : State) : (s.modHp f).arr = s.arr := rfl
@[simp] theorem State.modHp_cores (f : HpS → HpS) (s : State) : (s.modHp f).cores = s.cores := rfl
@[simp] theorem State.modHp_srcs (f : HpS → HpS) (s : State) : (s.modHp f).srcs = s.srcs := rfl
@[simp] theorem State.modHp_devq (f : HpS → HpS) (s : State) : (s.modHp f).devq = s.devq := rfl
@[simp] theorem State.modHp_iv (f : HpS → HpS) (s : State) : (s.modHp f).iv = s.iv := rfl
@[simp] theorem State.modHp_ring (f : HpS → HpS) (s : State) : (s.modHp f).ring = s.ring := rfl
@[simp] theorem State.modHp_rg (f : HpS → HpS) (s : State) : (s.modHp f).rg = s.rg := rfl
@[simp] theorem State.modHp_mbox (f : HpS → HpS) (s : State) : (s.modHp f).mbox = s.mbox := rfl
@[simp] theorem State.modHp_pwr (f : HpS → HpS) (s : State) : (s.modHp f).pwr = s.pwr := rfl
@[simp] theorem State.modHp_par (f : HpS → HpS) (s : State) : (s.modHp f).par = s.par := rfl
@[simp] theorem State.modHp_store (f : HpS → HpS) (s : State) : (s.modHp f).store = s.store := rfl
@[simp] theorem State.modHp_grat (f : HpS → HpS) (s : State) : (s.modHp f).grat = s.grat := rfl
@[simp] theorem State.modHp_flt (f : HpS → HpS) (s : State) : (s.modHp f).flt = s.flt := rfl
@[simp] theorem State.modHp_tests (f : HpS → HpS) (s : State) : (s.modHp f).tests = s.tests := rfl
@[simp] theorem State.modHp_cas (f : HpS → HpS) (s : State) : (s.modHp f).cas = s.cas := rfl
@[simp] theorem State.modHp_cal (f : HpS → HpS) (s : State) : (s.modHp f).cal = s.cal := rfl
@[simp] theorem State.modHp_otp (f : HpS → HpS) (s : State) : (s.modHp f).otp = s.otp := rfl
@[simp] theorem State.modHp_img (f : HpS → HpS) (s : State) : (s.modHp f).img = s.img := rfl
@[simp] theorem State.modHp_mem (f : HpS → HpS) (s : State) : (s.modHp f).mem = s.mem := rfl
@[simp] theorem State.modHp_per (f : HpS → HpS) (s : State) : (s.modHp f).per = s.per := rfl
@[simp] theorem State.modHp_gw (f : HpS → HpS) (s : State) : (s.modHp f).gw = s.gw := rfl
@[simp] theorem State.modHp_hp (f : HpS → HpS) (s : State) : (s.modHp f).hp = f s.hp := rfl
@[simp] theorem State.modHp_reg (f : HpS → HpS) (s : State) : (s.modHp f).reg = s.reg := rfl
@[simp] theorem State.modHp_tap (f : HpS → HpS) (s : State) : (s.modHp f).tap = s.tap := rfl
@[simp] theorem State.modHp_byp (f : HpS → HpS) (s : State) : (s.modHp f).byp = s.byp := rfl
@[simp] theorem State.modHp_pending (f : HpS → HpS) (s : State) : (s.modHp f).pending = s.pending := rfl

@[simp] theorem State.modReg_ref (f : RegS → RegS) (s : State) : (s.modReg f).ref = s.ref := rfl
@[simp] theorem State.modReg_pps (f : RegS → RegS) (s : State) : (s.modReg f).pps = s.pps := rfl
@[simp] theorem State.modReg_ext (f : RegS → RegS) (s : State) : (s.modReg f).ext = s.ext := rfl
@[simp] theorem State.modReg_ts (f : RegS → RegS) (s : State) : (s.modReg f).ts = s.ts := rfl
@[simp] theorem State.modReg_latch (f : RegS → RegS) (s : State) : (s.modReg f).latch = s.latch := rfl
@[simp] theorem State.modReg_chans (f : RegS → RegS) (s : State) : (s.modReg f).chans = s.chans := rfl
@[simp] theorem State.modReg_octs (f : RegS → RegS) (s : State) : (s.modReg f).octs = s.octs := rfl
@[simp] theorem State.modReg_dlls (f : RegS → RegS) (s : State) : (s.modReg f).dlls = s.dlls := rfl
@[simp] theorem State.modReg_engs (f : RegS → RegS) (s : State) : (s.modReg f).engs = s.engs := rfl
@[simp] theorem State.modReg_arr (f : RegS → RegS) (s : State) : (s.modReg f).arr = s.arr := rfl
@[simp] theorem State.modReg_cores (f : RegS → RegS) (s : State) : (s.modReg f).cores = s.cores := rfl
@[simp] theorem State.modReg_srcs (f : RegS → RegS) (s : State) : (s.modReg f).srcs = s.srcs := rfl
@[simp] theorem State.modReg_devq (f : RegS → RegS) (s : State) : (s.modReg f).devq = s.devq := rfl
@[simp] theorem State.modReg_iv (f : RegS → RegS) (s : State) : (s.modReg f).iv = s.iv := rfl
@[simp] theorem State.modReg_ring (f : RegS → RegS) (s : State) : (s.modReg f).ring = s.ring := rfl
@[simp] theorem State.modReg_rg (f : RegS → RegS) (s : State) : (s.modReg f).rg = s.rg := rfl
@[simp] theorem State.modReg_mbox (f : RegS → RegS) (s : State) : (s.modReg f).mbox = s.mbox := rfl
@[simp] theorem State.modReg_pwr (f : RegS → RegS) (s : State) : (s.modReg f).pwr = s.pwr := rfl
@[simp] theorem State.modReg_par (f : RegS → RegS) (s : State) : (s.modReg f).par = s.par := rfl
@[simp] theorem State.modReg_store (f : RegS → RegS) (s : State) : (s.modReg f).store = s.store := rfl
@[simp] theorem State.modReg_grat (f : RegS → RegS) (s : State) : (s.modReg f).grat = s.grat := rfl
@[simp] theorem State.modReg_flt (f : RegS → RegS) (s : State) : (s.modReg f).flt = s.flt := rfl
@[simp] theorem State.modReg_tests (f : RegS → RegS) (s : State) : (s.modReg f).tests = s.tests := rfl
@[simp] theorem State.modReg_cas (f : RegS → RegS) (s : State) : (s.modReg f).cas = s.cas := rfl
@[simp] theorem State.modReg_cal (f : RegS → RegS) (s : State) : (s.modReg f).cal = s.cal := rfl
@[simp] theorem State.modReg_otp (f : RegS → RegS) (s : State) : (s.modReg f).otp = s.otp := rfl
@[simp] theorem State.modReg_img (f : RegS → RegS) (s : State) : (s.modReg f).img = s.img := rfl
@[simp] theorem State.modReg_mem (f : RegS → RegS) (s : State) : (s.modReg f).mem = s.mem := rfl
@[simp] theorem State.modReg_per (f : RegS → RegS) (s : State) : (s.modReg f).per = s.per := rfl
@[simp] theorem State.modReg_gw (f : RegS → RegS) (s : State) : (s.modReg f).gw = s.gw := rfl
@[simp] theorem State.modReg_hp (f : RegS → RegS) (s : State) : (s.modReg f).hp = s.hp := rfl
@[simp] theorem State.modReg_reg (f : RegS → RegS) (s : State) : (s.modReg f).reg = f s.reg := rfl
@[simp] theorem State.modReg_tap (f : RegS → RegS) (s : State) : (s.modReg f).tap = s.tap := rfl
@[simp] theorem State.modReg_byp (f : RegS → RegS) (s : State) : (s.modReg f).byp = s.byp := rfl
@[simp] theorem State.modReg_pending (f : RegS → RegS) (s : State) : (s.modReg f).pending = s.pending := rfl

@[simp] theorem State.modCal_ref (f : CalS → CalS) (s : State) : (s.modCal f).ref = s.ref := rfl
@[simp] theorem State.modCal_pps (f : CalS → CalS) (s : State) : (s.modCal f).pps = s.pps := rfl
@[simp] theorem State.modCal_ext (f : CalS → CalS) (s : State) : (s.modCal f).ext = s.ext := rfl
@[simp] theorem State.modCal_ts (f : CalS → CalS) (s : State) : (s.modCal f).ts = s.ts := rfl
@[simp] theorem State.modCal_latch (f : CalS → CalS) (s : State) : (s.modCal f).latch = s.latch := rfl
@[simp] theorem State.modCal_chans (f : CalS → CalS) (s : State) : (s.modCal f).chans = s.chans := rfl
@[simp] theorem State.modCal_octs (f : CalS → CalS) (s : State) : (s.modCal f).octs = s.octs := rfl
@[simp] theorem State.modCal_dlls (f : CalS → CalS) (s : State) : (s.modCal f).dlls = s.dlls := rfl
@[simp] theorem State.modCal_engs (f : CalS → CalS) (s : State) : (s.modCal f).engs = s.engs := rfl
@[simp] theorem State.modCal_arr (f : CalS → CalS) (s : State) : (s.modCal f).arr = s.arr := rfl
@[simp] theorem State.modCal_cores (f : CalS → CalS) (s : State) : (s.modCal f).cores = s.cores := rfl
@[simp] theorem State.modCal_srcs (f : CalS → CalS) (s : State) : (s.modCal f).srcs = s.srcs := rfl
@[simp] theorem State.modCal_devq (f : CalS → CalS) (s : State) : (s.modCal f).devq = s.devq := rfl
@[simp] theorem State.modCal_iv (f : CalS → CalS) (s : State) : (s.modCal f).iv = s.iv := rfl
@[simp] theorem State.modCal_ring (f : CalS → CalS) (s : State) : (s.modCal f).ring = s.ring := rfl
@[simp] theorem State.modCal_rg (f : CalS → CalS) (s : State) : (s.modCal f).rg = s.rg := rfl
@[simp] theorem State.modCal_mbox (f : CalS → CalS) (s : State) : (s.modCal f).mbox = s.mbox := rfl
@[simp] theorem State.modCal_pwr (f : CalS → CalS) (s : State) : (s.modCal f).pwr = s.pwr := rfl
@[simp] theorem State.modCal_par (f : CalS → CalS) (s : State) : (s.modCal f).par = s.par := rfl
@[simp] theorem State.modCal_store (f : CalS → CalS) (s : State) : (s.modCal f).store = s.store := rfl
@[simp] theorem State.modCal_grat (f : CalS → CalS) (s : State) : (s.modCal f).grat = s.grat := rfl
@[simp] theorem State.modCal_flt (f : CalS → CalS) (s : State) : (s.modCal f).flt = s.flt := rfl
@[simp] theorem State.modCal_tests (f : CalS → CalS) (s : State) : (s.modCal f).tests = s.tests := rfl
@[simp] theorem State.modCal_cas (f : CalS → CalS) (s : State) : (s.modCal f).cas = s.cas := rfl
@[simp] theorem State.modCal_cal (f : CalS → CalS) (s : State) : (s.modCal f).cal = f s.cal := rfl
@[simp] theorem State.modCal_otp (f : CalS → CalS) (s : State) : (s.modCal f).otp = s.otp := rfl
@[simp] theorem State.modCal_img (f : CalS → CalS) (s : State) : (s.modCal f).img = s.img := rfl
@[simp] theorem State.modCal_mem (f : CalS → CalS) (s : State) : (s.modCal f).mem = s.mem := rfl
@[simp] theorem State.modCal_per (f : CalS → CalS) (s : State) : (s.modCal f).per = s.per := rfl
@[simp] theorem State.modCal_gw (f : CalS → CalS) (s : State) : (s.modCal f).gw = s.gw := rfl
@[simp] theorem State.modCal_hp (f : CalS → CalS) (s : State) : (s.modCal f).hp = s.hp := rfl
@[simp] theorem State.modCal_reg (f : CalS → CalS) (s : State) : (s.modCal f).reg = s.reg := rfl
@[simp] theorem State.modCal_tap (f : CalS → CalS) (s : State) : (s.modCal f).tap = s.tap := rfl
@[simp] theorem State.modCal_byp (f : CalS → CalS) (s : State) : (s.modCal f).byp = s.byp := rfl
@[simp] theorem State.modCal_pending (f : CalS → CalS) (s : State) : (s.modCal f).pending = s.pending := rfl

@[simp] theorem State.modCas_ref (f : CasS → CasS) (s : State) : (s.modCas f).ref = s.ref := rfl
@[simp] theorem State.modCas_pps (f : CasS → CasS) (s : State) : (s.modCas f).pps = s.pps := rfl
@[simp] theorem State.modCas_ext (f : CasS → CasS) (s : State) : (s.modCas f).ext = s.ext := rfl
@[simp] theorem State.modCas_ts (f : CasS → CasS) (s : State) : (s.modCas f).ts = s.ts := rfl
@[simp] theorem State.modCas_latch (f : CasS → CasS) (s : State) : (s.modCas f).latch = s.latch := rfl
@[simp] theorem State.modCas_chans (f : CasS → CasS) (s : State) : (s.modCas f).chans = s.chans := rfl
@[simp] theorem State.modCas_octs (f : CasS → CasS) (s : State) : (s.modCas f).octs = s.octs := rfl
@[simp] theorem State.modCas_dlls (f : CasS → CasS) (s : State) : (s.modCas f).dlls = s.dlls := rfl
@[simp] theorem State.modCas_engs (f : CasS → CasS) (s : State) : (s.modCas f).engs = s.engs := rfl
@[simp] theorem State.modCas_arr (f : CasS → CasS) (s : State) : (s.modCas f).arr = s.arr := rfl
@[simp] theorem State.modCas_cores (f : CasS → CasS) (s : State) : (s.modCas f).cores = s.cores := rfl
@[simp] theorem State.modCas_srcs (f : CasS → CasS) (s : State) : (s.modCas f).srcs = s.srcs := rfl
@[simp] theorem State.modCas_devq (f : CasS → CasS) (s : State) : (s.modCas f).devq = s.devq := rfl
@[simp] theorem State.modCas_iv (f : CasS → CasS) (s : State) : (s.modCas f).iv = s.iv := rfl
@[simp] theorem State.modCas_ring (f : CasS → CasS) (s : State) : (s.modCas f).ring = s.ring := rfl
@[simp] theorem State.modCas_rg (f : CasS → CasS) (s : State) : (s.modCas f).rg = s.rg := rfl
@[simp] theorem State.modCas_mbox (f : CasS → CasS) (s : State) : (s.modCas f).mbox = s.mbox := rfl
@[simp] theorem State.modCas_pwr (f : CasS → CasS) (s : State) : (s.modCas f).pwr = s.pwr := rfl
@[simp] theorem State.modCas_par (f : CasS → CasS) (s : State) : (s.modCas f).par = s.par := rfl
@[simp] theorem State.modCas_store (f : CasS → CasS) (s : State) : (s.modCas f).store = s.store := rfl
@[simp] theorem State.modCas_grat (f : CasS → CasS) (s : State) : (s.modCas f).grat = s.grat := rfl
@[simp] theorem State.modCas_flt (f : CasS → CasS) (s : State) : (s.modCas f).flt = s.flt := rfl
@[simp] theorem State.modCas_tests (f : CasS → CasS) (s : State) : (s.modCas f).tests = s.tests := rfl
@[simp] theorem State.modCas_cas (f : CasS → CasS) (s : State) : (s.modCas f).cas = f s.cas := rfl
@[simp] theorem State.modCas_cal (f : CasS → CasS) (s : State) : (s.modCas f).cal = s.cal := rfl
@[simp] theorem State.modCas_otp (f : CasS → CasS) (s : State) : (s.modCas f).otp = s.otp := rfl
@[simp] theorem State.modCas_img (f : CasS → CasS) (s : State) : (s.modCas f).img = s.img := rfl
@[simp] theorem State.modCas_mem (f : CasS → CasS) (s : State) : (s.modCas f).mem = s.mem := rfl
@[simp] theorem State.modCas_per (f : CasS → CasS) (s : State) : (s.modCas f).per = s.per := rfl
@[simp] theorem State.modCas_gw (f : CasS → CasS) (s : State) : (s.modCas f).gw = s.gw := rfl
@[simp] theorem State.modCas_hp (f : CasS → CasS) (s : State) : (s.modCas f).hp = s.hp := rfl
@[simp] theorem State.modCas_reg (f : CasS → CasS) (s : State) : (s.modCas f).reg = s.reg := rfl
@[simp] theorem State.modCas_tap (f : CasS → CasS) (s : State) : (s.modCas f).tap = s.tap := rfl
@[simp] theorem State.modCas_byp (f : CasS → CasS) (s : State) : (s.modCas f).byp = s.byp := rfl
@[simp] theorem State.modCas_pending (f : CasS → CasS) (s : State) : (s.modCas f).pending = s.pending := rfl

@[simp] theorem State.modChan_ref (c : Nat) (f : Chan → Chan) (s : State) : (s.modChan c f).ref = s.ref := rfl
@[simp] theorem State.modChan_pps (c : Nat) (f : Chan → Chan) (s : State) : (s.modChan c f).pps = s.pps := rfl
@[simp] theorem State.modChan_ext (c : Nat) (f : Chan → Chan) (s : State) : (s.modChan c f).ext = s.ext := rfl
@[simp] theorem State.modChan_ts (c : Nat) (f : Chan → Chan) (s : State) : (s.modChan c f).ts = s.ts := rfl
@[simp] theorem State.modChan_latch (c : Nat) (f : Chan → Chan) (s : State) : (s.modChan c f).latch = s.latch := rfl
@[simp] theorem State.modChan_chans (c : Nat) (f : Chan → Chan) (s : State) : (s.modChan c f).chans = s.chans.put c (f (s.chan c)) := rfl
@[simp] theorem State.modChan_chan (c : Nat) (f : Chan → Chan) (s : State) : (s.modChan c f).chan c = f (s.chan c) := by
  simp [State.chan, State.modChan]
theorem State.modChan_chan_ne (c : Nat) (f : Chan → Chan) (s : State) (n : Nat) (h : n ≠ c) : (s.modChan c f).chan n = s.chan n := by
  simp [State.chan, State.modChan, Tab.get_put_ne _ _ h]
@[simp] theorem State.modChan_octs (c : Nat) (f : Chan → Chan) (s : State) : (s.modChan c f).octs = s.octs := rfl
@[simp] theorem State.modChan_dlls (c : Nat) (f : Chan → Chan) (s : State) : (s.modChan c f).dlls = s.dlls := rfl
@[simp] theorem State.modChan_engs (c : Nat) (f : Chan → Chan) (s : State) : (s.modChan c f).engs = s.engs := rfl
@[simp] theorem State.modChan_arr (c : Nat) (f : Chan → Chan) (s : State) : (s.modChan c f).arr = s.arr := rfl
@[simp] theorem State.modChan_cores (c : Nat) (f : Chan → Chan) (s : State) : (s.modChan c f).cores = s.cores := rfl
@[simp] theorem State.modChan_srcs (c : Nat) (f : Chan → Chan) (s : State) : (s.modChan c f).srcs = s.srcs := rfl
@[simp] theorem State.modChan_devq (c : Nat) (f : Chan → Chan) (s : State) : (s.modChan c f).devq = s.devq := rfl
@[simp] theorem State.modChan_iv (c : Nat) (f : Chan → Chan) (s : State) : (s.modChan c f).iv = s.iv := rfl
@[simp] theorem State.modChan_ring (c : Nat) (f : Chan → Chan) (s : State) : (s.modChan c f).ring = s.ring := rfl
@[simp] theorem State.modChan_rg (c : Nat) (f : Chan → Chan) (s : State) : (s.modChan c f).rg = s.rg := rfl
@[simp] theorem State.modChan_mbox (c : Nat) (f : Chan → Chan) (s : State) : (s.modChan c f).mbox = s.mbox := rfl
@[simp] theorem State.modChan_pwr (c : Nat) (f : Chan → Chan) (s : State) : (s.modChan c f).pwr = s.pwr := rfl
@[simp] theorem State.modChan_par (c : Nat) (f : Chan → Chan) (s : State) : (s.modChan c f).par = s.par := rfl
@[simp] theorem State.modChan_store (c : Nat) (f : Chan → Chan) (s : State) : (s.modChan c f).store = s.store := rfl
@[simp] theorem State.modChan_grat (c : Nat) (f : Chan → Chan) (s : State) : (s.modChan c f).grat = s.grat := rfl
@[simp] theorem State.modChan_flt (c : Nat) (f : Chan → Chan) (s : State) : (s.modChan c f).flt = s.flt := rfl
@[simp] theorem State.modChan_tests (c : Nat) (f : Chan → Chan) (s : State) : (s.modChan c f).tests = s.tests := rfl
@[simp] theorem State.modChan_cas (c : Nat) (f : Chan → Chan) (s : State) : (s.modChan c f).cas = s.cas := rfl
@[simp] theorem State.modChan_cal (c : Nat) (f : Chan → Chan) (s : State) : (s.modChan c f).cal = s.cal := rfl
@[simp] theorem State.modChan_otp (c : Nat) (f : Chan → Chan) (s : State) : (s.modChan c f).otp = s.otp := rfl
@[simp] theorem State.modChan_img (c : Nat) (f : Chan → Chan) (s : State) : (s.modChan c f).img = s.img := rfl
@[simp] theorem State.modChan_mem (c : Nat) (f : Chan → Chan) (s : State) : (s.modChan c f).mem = s.mem := rfl
@[simp] theorem State.modChan_per (c : Nat) (f : Chan → Chan) (s : State) : (s.modChan c f).per = s.per := rfl
@[simp] theorem State.modChan_gw (c : Nat) (f : Chan → Chan) (s : State) : (s.modChan c f).gw = s.gw := rfl
@[simp] theorem State.modChan_hp (c : Nat) (f : Chan → Chan) (s : State) : (s.modChan c f).hp = s.hp := rfl
@[simp] theorem State.modChan_reg (c : Nat) (f : Chan → Chan) (s : State) : (s.modChan c f).reg = s.reg := rfl
@[simp] theorem State.modChan_tap (c : Nat) (f : Chan → Chan) (s : State) : (s.modChan c f).tap = s.tap := rfl
@[simp] theorem State.modChan_byp (c : Nat) (f : Chan → Chan) (s : State) : (s.modChan c f).byp = s.byp := rfl
@[simp] theorem State.modChan_pending (c : Nat) (f : Chan → Chan) (s : State) : (s.modChan c f).pending = s.pending := rfl

@[simp] theorem State.modOct_ref (k : Nat) (f : Oct → Oct) (s : State) : (s.modOct k f).ref = s.ref := rfl
@[simp] theorem State.modOct_pps (k : Nat) (f : Oct → Oct) (s : State) : (s.modOct k f).pps = s.pps := rfl
@[simp] theorem State.modOct_ext (k : Nat) (f : Oct → Oct) (s : State) : (s.modOct k f).ext = s.ext := rfl
@[simp] theorem State.modOct_ts (k : Nat) (f : Oct → Oct) (s : State) : (s.modOct k f).ts = s.ts := rfl
@[simp] theorem State.modOct_latch (k : Nat) (f : Oct → Oct) (s : State) : (s.modOct k f).latch = s.latch := rfl
@[simp] theorem State.modOct_chans (k : Nat) (f : Oct → Oct) (s : State) : (s.modOct k f).chans = s.chans := rfl
@[simp] theorem State.modOct_octs (k : Nat) (f : Oct → Oct) (s : State) : (s.modOct k f).octs = s.octs.put k (f (s.oct k)) := rfl
@[simp] theorem State.modOct_oct (k : Nat) (f : Oct → Oct) (s : State) : (s.modOct k f).oct k = f (s.oct k) := by
  simp [State.oct, State.modOct]
theorem State.modOct_oct_ne (k : Nat) (f : Oct → Oct) (s : State) (n : Nat) (h : n ≠ k) : (s.modOct k f).oct n = s.oct n := by
  simp [State.oct, State.modOct, Tab.get_put_ne _ _ h]
@[simp] theorem State.modOct_dlls (k : Nat) (f : Oct → Oct) (s : State) : (s.modOct k f).dlls = s.dlls := rfl
@[simp] theorem State.modOct_engs (k : Nat) (f : Oct → Oct) (s : State) : (s.modOct k f).engs = s.engs := rfl
@[simp] theorem State.modOct_arr (k : Nat) (f : Oct → Oct) (s : State) : (s.modOct k f).arr = s.arr := rfl
@[simp] theorem State.modOct_cores (k : Nat) (f : Oct → Oct) (s : State) : (s.modOct k f).cores = s.cores := rfl
@[simp] theorem State.modOct_srcs (k : Nat) (f : Oct → Oct) (s : State) : (s.modOct k f).srcs = s.srcs := rfl
@[simp] theorem State.modOct_devq (k : Nat) (f : Oct → Oct) (s : State) : (s.modOct k f).devq = s.devq := rfl
@[simp] theorem State.modOct_iv (k : Nat) (f : Oct → Oct) (s : State) : (s.modOct k f).iv = s.iv := rfl
@[simp] theorem State.modOct_ring (k : Nat) (f : Oct → Oct) (s : State) : (s.modOct k f).ring = s.ring := rfl
@[simp] theorem State.modOct_rg (k : Nat) (f : Oct → Oct) (s : State) : (s.modOct k f).rg = s.rg := rfl
@[simp] theorem State.modOct_mbox (k : Nat) (f : Oct → Oct) (s : State) : (s.modOct k f).mbox = s.mbox := rfl
@[simp] theorem State.modOct_pwr (k : Nat) (f : Oct → Oct) (s : State) : (s.modOct k f).pwr = s.pwr := rfl
@[simp] theorem State.modOct_par (k : Nat) (f : Oct → Oct) (s : State) : (s.modOct k f).par = s.par := rfl
@[simp] theorem State.modOct_store (k : Nat) (f : Oct → Oct) (s : State) : (s.modOct k f).store = s.store := rfl
@[simp] theorem State.modOct_grat (k : Nat) (f : Oct → Oct) (s : State) : (s.modOct k f).grat = s.grat := rfl
@[simp] theorem State.modOct_flt (k : Nat) (f : Oct → Oct) (s : State) : (s.modOct k f).flt = s.flt := rfl
@[simp] theorem State.modOct_tests (k : Nat) (f : Oct → Oct) (s : State) : (s.modOct k f).tests = s.tests := rfl
@[simp] theorem State.modOct_cas (k : Nat) (f : Oct → Oct) (s : State) : (s.modOct k f).cas = s.cas := rfl
@[simp] theorem State.modOct_cal (k : Nat) (f : Oct → Oct) (s : State) : (s.modOct k f).cal = s.cal := rfl
@[simp] theorem State.modOct_otp (k : Nat) (f : Oct → Oct) (s : State) : (s.modOct k f).otp = s.otp := rfl
@[simp] theorem State.modOct_img (k : Nat) (f : Oct → Oct) (s : State) : (s.modOct k f).img = s.img := rfl
@[simp] theorem State.modOct_mem (k : Nat) (f : Oct → Oct) (s : State) : (s.modOct k f).mem = s.mem := rfl
@[simp] theorem State.modOct_per (k : Nat) (f : Oct → Oct) (s : State) : (s.modOct k f).per = s.per := rfl
@[simp] theorem State.modOct_gw (k : Nat) (f : Oct → Oct) (s : State) : (s.modOct k f).gw = s.gw := rfl
@[simp] theorem State.modOct_hp (k : Nat) (f : Oct → Oct) (s : State) : (s.modOct k f).hp = s.hp := rfl
@[simp] theorem State.modOct_reg (k : Nat) (f : Oct → Oct) (s : State) : (s.modOct k f).reg = s.reg := rfl
@[simp] theorem State.modOct_tap (k : Nat) (f : Oct → Oct) (s : State) : (s.modOct k f).tap = s.tap := rfl
@[simp] theorem State.modOct_byp (k : Nat) (f : Oct → Oct) (s : State) : (s.modOct k f).byp = s.byp := rfl
@[simp] theorem State.modOct_pending (k : Nat) (f : Oct → Oct) (s : State) : (s.modOct k f).pending = s.pending := rfl

@[simp] theorem State.modEng_ref (e : Nat) (f : Eng → Eng) (s : State) : (s.modEng e f).ref = s.ref := rfl
@[simp] theorem State.modEng_pps (e : Nat) (f : Eng → Eng) (s : State) : (s.modEng e f).pps = s.pps := rfl
@[simp] theorem State.modEng_ext (e : Nat) (f : Eng → Eng) (s : State) : (s.modEng e f).ext = s.ext := rfl
@[simp] theorem State.modEng_ts (e : Nat) (f : Eng → Eng) (s : State) : (s.modEng e f).ts = s.ts := rfl
@[simp] theorem State.modEng_latch (e : Nat) (f : Eng → Eng) (s : State) : (s.modEng e f).latch = s.latch := rfl
@[simp] theorem State.modEng_chans (e : Nat) (f : Eng → Eng) (s : State) : (s.modEng e f).chans = s.chans := rfl
@[simp] theorem State.modEng_octs (e : Nat) (f : Eng → Eng) (s : State) : (s.modEng e f).octs = s.octs := rfl
@[simp] theorem State.modEng_dlls (e : Nat) (f : Eng → Eng) (s : State) : (s.modEng e f).dlls = s.dlls := rfl
@[simp] theorem State.modEng_engs (e : Nat) (f : Eng → Eng) (s : State) : (s.modEng e f).engs = s.engs.put e (f (s.eng e)) := rfl
@[simp] theorem State.modEng_eng (e : Nat) (f : Eng → Eng) (s : State) : (s.modEng e f).eng e = f (s.eng e) := by
  simp [State.eng, State.modEng]
theorem State.modEng_eng_ne (e : Nat) (f : Eng → Eng) (s : State) (n : Nat) (h : n ≠ e) : (s.modEng e f).eng n = s.eng n := by
  simp [State.eng, State.modEng, Tab.get_put_ne _ _ h]
@[simp] theorem State.modEng_arr (e : Nat) (f : Eng → Eng) (s : State) : (s.modEng e f).arr = s.arr := rfl
@[simp] theorem State.modEng_cores (e : Nat) (f : Eng → Eng) (s : State) : (s.modEng e f).cores = s.cores := rfl
@[simp] theorem State.modEng_srcs (e : Nat) (f : Eng → Eng) (s : State) : (s.modEng e f).srcs = s.srcs := rfl
@[simp] theorem State.modEng_devq (e : Nat) (f : Eng → Eng) (s : State) : (s.modEng e f).devq = s.devq := rfl
@[simp] theorem State.modEng_iv (e : Nat) (f : Eng → Eng) (s : State) : (s.modEng e f).iv = s.iv := rfl
@[simp] theorem State.modEng_ring (e : Nat) (f : Eng → Eng) (s : State) : (s.modEng e f).ring = s.ring := rfl
@[simp] theorem State.modEng_rg (e : Nat) (f : Eng → Eng) (s : State) : (s.modEng e f).rg = s.rg := rfl
@[simp] theorem State.modEng_mbox (e : Nat) (f : Eng → Eng) (s : State) : (s.modEng e f).mbox = s.mbox := rfl
@[simp] theorem State.modEng_pwr (e : Nat) (f : Eng → Eng) (s : State) : (s.modEng e f).pwr = s.pwr := rfl
@[simp] theorem State.modEng_par (e : Nat) (f : Eng → Eng) (s : State) : (s.modEng e f).par = s.par := rfl
@[simp] theorem State.modEng_store (e : Nat) (f : Eng → Eng) (s : State) : (s.modEng e f).store = s.store := rfl
@[simp] theorem State.modEng_grat (e : Nat) (f : Eng → Eng) (s : State) : (s.modEng e f).grat = s.grat := rfl
@[simp] theorem State.modEng_flt (e : Nat) (f : Eng → Eng) (s : State) : (s.modEng e f).flt = s.flt := rfl
@[simp] theorem State.modEng_tests (e : Nat) (f : Eng → Eng) (s : State) : (s.modEng e f).tests = s.tests := rfl
@[simp] theorem State.modEng_cas (e : Nat) (f : Eng → Eng) (s : State) : (s.modEng e f).cas = s.cas := rfl
@[simp] theorem State.modEng_cal (e : Nat) (f : Eng → Eng) (s : State) : (s.modEng e f).cal = s.cal := rfl
@[simp] theorem State.modEng_otp (e : Nat) (f : Eng → Eng) (s : State) : (s.modEng e f).otp = s.otp := rfl
@[simp] theorem State.modEng_img (e : Nat) (f : Eng → Eng) (s : State) : (s.modEng e f).img = s.img := rfl
@[simp] theorem State.modEng_mem (e : Nat) (f : Eng → Eng) (s : State) : (s.modEng e f).mem = s.mem := rfl
@[simp] theorem State.modEng_per (e : Nat) (f : Eng → Eng) (s : State) : (s.modEng e f).per = s.per := rfl
@[simp] theorem State.modEng_gw (e : Nat) (f : Eng → Eng) (s : State) : (s.modEng e f).gw = s.gw := rfl
@[simp] theorem State.modEng_hp (e : Nat) (f : Eng → Eng) (s : State) : (s.modEng e f).hp = s.hp := rfl
@[simp] theorem State.modEng_reg (e : Nat) (f : Eng → Eng) (s : State) : (s.modEng e f).reg = s.reg := rfl
@[simp] theorem State.modEng_tap (e : Nat) (f : Eng → Eng) (s : State) : (s.modEng e f).tap = s.tap := rfl
@[simp] theorem State.modEng_byp (e : Nat) (f : Eng → Eng) (s : State) : (s.modEng e f).byp = s.byp := rfl
@[simp] theorem State.modEng_pending (e : Nat) (f : Eng → Eng) (s : State) : (s.modEng e f).pending = s.pending := rfl

@[simp] theorem State.modCore_ref (i : Nat) (f : Core → Core) (s : State) : (s.modCore i f).ref = s.ref := rfl
@[simp] theorem State.modCore_pps (i : Nat) (f : Core → Core) (s : State) : (s.modCore i f).pps = s.pps := rfl
@[simp] theorem State.modCore_ext (i : Nat) (f : Core → Core) (s : State) : (s.modCore i f).ext = s.ext := rfl
@[simp] theorem State.modCore_ts (i : Nat) (f : Core → Core) (s : State) : (s.modCore i f).ts = s.ts := rfl
@[simp] theorem State.modCore_latch (i : Nat) (f : Core → Core) (s : State) : (s.modCore i f).latch = s.latch := rfl
@[simp] theorem State.modCore_chans (i : Nat) (f : Core → Core) (s : State) : (s.modCore i f).chans = s.chans := rfl
@[simp] theorem State.modCore_octs (i : Nat) (f : Core → Core) (s : State) : (s.modCore i f).octs = s.octs := rfl
@[simp] theorem State.modCore_dlls (i : Nat) (f : Core → Core) (s : State) : (s.modCore i f).dlls = s.dlls := rfl
@[simp] theorem State.modCore_engs (i : Nat) (f : Core → Core) (s : State) : (s.modCore i f).engs = s.engs := rfl
@[simp] theorem State.modCore_arr (i : Nat) (f : Core → Core) (s : State) : (s.modCore i f).arr = s.arr := rfl
@[simp] theorem State.modCore_cores (i : Nat) (f : Core → Core) (s : State) : (s.modCore i f).cores = s.cores.put i (f (s.core i)) := rfl
@[simp] theorem State.modCore_core (i : Nat) (f : Core → Core) (s : State) : (s.modCore i f).core i = f (s.core i) := by
  simp [State.core, State.modCore]
theorem State.modCore_core_ne (i : Nat) (f : Core → Core) (s : State) (n : Nat) (h : n ≠ i) : (s.modCore i f).core n = s.core n := by
  simp [State.core, State.modCore, Tab.get_put_ne _ _ h]
@[simp] theorem State.modCore_srcs (i : Nat) (f : Core → Core) (s : State) : (s.modCore i f).srcs = s.srcs := rfl
@[simp] theorem State.modCore_devq (i : Nat) (f : Core → Core) (s : State) : (s.modCore i f).devq = s.devq := rfl
@[simp] theorem State.modCore_iv (i : Nat) (f : Core → Core) (s : State) : (s.modCore i f).iv = s.iv := rfl
@[simp] theorem State.modCore_ring (i : Nat) (f : Core → Core) (s : State) : (s.modCore i f).ring = s.ring := rfl
@[simp] theorem State.modCore_rg (i : Nat) (f : Core → Core) (s : State) : (s.modCore i f).rg = s.rg := rfl
@[simp] theorem State.modCore_mbox (i : Nat) (f : Core → Core) (s : State) : (s.modCore i f).mbox = s.mbox := rfl
@[simp] theorem State.modCore_pwr (i : Nat) (f : Core → Core) (s : State) : (s.modCore i f).pwr = s.pwr := rfl
@[simp] theorem State.modCore_par (i : Nat) (f : Core → Core) (s : State) : (s.modCore i f).par = s.par := rfl
@[simp] theorem State.modCore_store (i : Nat) (f : Core → Core) (s : State) : (s.modCore i f).store = s.store := rfl
@[simp] theorem State.modCore_grat (i : Nat) (f : Core → Core) (s : State) : (s.modCore i f).grat = s.grat := rfl
@[simp] theorem State.modCore_flt (i : Nat) (f : Core → Core) (s : State) : (s.modCore i f).flt = s.flt := rfl
@[simp] theorem State.modCore_tests (i : Nat) (f : Core → Core) (s : State) : (s.modCore i f).tests = s.tests := rfl
@[simp] theorem State.modCore_cas (i : Nat) (f : Core → Core) (s : State) : (s.modCore i f).cas = s.cas := rfl
@[simp] theorem State.modCore_cal (i : Nat) (f : Core → Core) (s : State) : (s.modCore i f).cal = s.cal := rfl
@[simp] theorem State.modCore_otp (i : Nat) (f : Core → Core) (s : State) : (s.modCore i f).otp = s.otp := rfl
@[simp] theorem State.modCore_img (i : Nat) (f : Core → Core) (s : State) : (s.modCore i f).img = s.img := rfl
@[simp] theorem State.modCore_mem (i : Nat) (f : Core → Core) (s : State) : (s.modCore i f).mem = s.mem := rfl
@[simp] theorem State.modCore_per (i : Nat) (f : Core → Core) (s : State) : (s.modCore i f).per = s.per := rfl
@[simp] theorem State.modCore_gw (i : Nat) (f : Core → Core) (s : State) : (s.modCore i f).gw = s.gw := rfl
@[simp] theorem State.modCore_hp (i : Nat) (f : Core → Core) (s : State) : (s.modCore i f).hp = s.hp := rfl
@[simp] theorem State.modCore_reg (i : Nat) (f : Core → Core) (s : State) : (s.modCore i f).reg = s.reg := rfl
@[simp] theorem State.modCore_tap (i : Nat) (f : Core → Core) (s : State) : (s.modCore i f).tap = s.tap := rfl
@[simp] theorem State.modCore_byp (i : Nat) (f : Core → Core) (s : State) : (s.modCore i f).byp = s.byp := rfl
@[simp] theorem State.modCore_pending (i : Nat) (f : Core → Core) (s : State) : (s.modCore i f).pending = s.pending := rfl

@[simp] theorem State.modSrc_ref (i : Nat) (f : SrcS → SrcS) (s : State) : (s.modSrc i f).ref = s.ref := rfl
@[simp] theorem State.modSrc_pps (i : Nat) (f : SrcS → SrcS) (s : State) : (s.modSrc i f).pps = s.pps := rfl
@[simp] theorem State.modSrc_ext (i : Nat) (f : SrcS → SrcS) (s : State) : (s.modSrc i f).ext = s.ext := rfl
@[simp] theorem State.modSrc_ts (i : Nat) (f : SrcS → SrcS) (s : State) : (s.modSrc i f).ts = s.ts := rfl
@[simp] theorem State.modSrc_latch (i : Nat) (f : SrcS → SrcS) (s : State) : (s.modSrc i f).latch = s.latch := rfl
@[simp] theorem State.modSrc_chans (i : Nat) (f : SrcS → SrcS) (s : State) : (s.modSrc i f).chans = s.chans := rfl
@[simp] theorem State.modSrc_octs (i : Nat) (f : SrcS → SrcS) (s : State) : (s.modSrc i f).octs = s.octs := rfl
@[simp] theorem State.modSrc_dlls (i : Nat) (f : SrcS → SrcS) (s : State) : (s.modSrc i f).dlls = s.dlls := rfl
@[simp] theorem State.modSrc_engs (i : Nat) (f : SrcS → SrcS) (s : State) : (s.modSrc i f).engs = s.engs := rfl
@[simp] theorem State.modSrc_arr (i : Nat) (f : SrcS → SrcS) (s : State) : (s.modSrc i f).arr = s.arr := rfl
@[simp] theorem State.modSrc_cores (i : Nat) (f : SrcS → SrcS) (s : State) : (s.modSrc i f).cores = s.cores := rfl
@[simp] theorem State.modSrc_srcs (i : Nat) (f : SrcS → SrcS) (s : State) : (s.modSrc i f).srcs = s.srcs.put i (f (s.src i)) := rfl
@[simp] theorem State.modSrc_src (i : Nat) (f : SrcS → SrcS) (s : State) : (s.modSrc i f).src i = f (s.src i) := by
  simp [State.src, State.modSrc]
theorem State.modSrc_src_ne (i : Nat) (f : SrcS → SrcS) (s : State) (n : Nat) (h : n ≠ i) : (s.modSrc i f).src n = s.src n := by
  simp [State.src, State.modSrc, Tab.get_put_ne _ _ h]
@[simp] theorem State.modSrc_devq (i : Nat) (f : SrcS → SrcS) (s : State) : (s.modSrc i f).devq = s.devq := rfl
@[simp] theorem State.modSrc_iv (i : Nat) (f : SrcS → SrcS) (s : State) : (s.modSrc i f).iv = s.iv := rfl
@[simp] theorem State.modSrc_ring (i : Nat) (f : SrcS → SrcS) (s : State) : (s.modSrc i f).ring = s.ring := rfl
@[simp] theorem State.modSrc_rg (i : Nat) (f : SrcS → SrcS) (s : State) : (s.modSrc i f).rg = s.rg := rfl
@[simp] theorem State.modSrc_mbox (i : Nat) (f : SrcS → SrcS) (s : State) : (s.modSrc i f).mbox = s.mbox := rfl
@[simp] theorem State.modSrc_pwr (i : Nat) (f : SrcS → SrcS) (s : State) : (s.modSrc i f).pwr = s.pwr := rfl
@[simp] theorem State.modSrc_par (i : Nat) (f : SrcS → SrcS) (s : State) : (s.modSrc i f).par = s.par := rfl
@[simp] theorem State.modSrc_store (i : Nat) (f : SrcS → SrcS) (s : State) : (s.modSrc i f).store = s.store := rfl
@[simp] theorem State.modSrc_grat (i : Nat) (f : SrcS → SrcS) (s : State) : (s.modSrc i f).grat = s.grat := rfl
@[simp] theorem State.modSrc_flt (i : Nat) (f : SrcS → SrcS) (s : State) : (s.modSrc i f).flt = s.flt := rfl
@[simp] theorem State.modSrc_tests (i : Nat) (f : SrcS → SrcS) (s : State) : (s.modSrc i f).tests = s.tests := rfl
@[simp] theorem State.modSrc_cas (i : Nat) (f : SrcS → SrcS) (s : State) : (s.modSrc i f).cas = s.cas := rfl
@[simp] theorem State.modSrc_cal (i : Nat) (f : SrcS → SrcS) (s : State) : (s.modSrc i f).cal = s.cal := rfl
@[simp] theorem State.modSrc_otp (i : Nat) (f : SrcS → SrcS) (s : State) : (s.modSrc i f).otp = s.otp := rfl
@[simp] theorem State.modSrc_img (i : Nat) (f : SrcS → SrcS) (s : State) : (s.modSrc i f).img = s.img := rfl
@[simp] theorem State.modSrc_mem (i : Nat) (f : SrcS → SrcS) (s : State) : (s.modSrc i f).mem = s.mem := rfl
@[simp] theorem State.modSrc_per (i : Nat) (f : SrcS → SrcS) (s : State) : (s.modSrc i f).per = s.per := rfl
@[simp] theorem State.modSrc_gw (i : Nat) (f : SrcS → SrcS) (s : State) : (s.modSrc i f).gw = s.gw := rfl
@[simp] theorem State.modSrc_hp (i : Nat) (f : SrcS → SrcS) (s : State) : (s.modSrc i f).hp = s.hp := rfl
@[simp] theorem State.modSrc_reg (i : Nat) (f : SrcS → SrcS) (s : State) : (s.modSrc i f).reg = s.reg := rfl
@[simp] theorem State.modSrc_tap (i : Nat) (f : SrcS → SrcS) (s : State) : (s.modSrc i f).tap = s.tap := rfl
@[simp] theorem State.modSrc_byp (i : Nat) (f : SrcS → SrcS) (s : State) : (s.modSrc i f).byp = s.byp := rfl
@[simp] theorem State.modSrc_pending (i : Nat) (f : SrcS → SrcS) (s : State) : (s.modSrc i f).pending = s.pending := rfl

@[simp] theorem State.modDll_ref (i : Nat) (f : Dll → Dll) (s : State) : (s.modDll i f).ref = s.ref := rfl
@[simp] theorem State.modDll_pps (i : Nat) (f : Dll → Dll) (s : State) : (s.modDll i f).pps = s.pps := rfl
@[simp] theorem State.modDll_ext (i : Nat) (f : Dll → Dll) (s : State) : (s.modDll i f).ext = s.ext := rfl
@[simp] theorem State.modDll_ts (i : Nat) (f : Dll → Dll) (s : State) : (s.modDll i f).ts = s.ts := rfl
@[simp] theorem State.modDll_latch (i : Nat) (f : Dll → Dll) (s : State) : (s.modDll i f).latch = s.latch := rfl
@[simp] theorem State.modDll_chans (i : Nat) (f : Dll → Dll) (s : State) : (s.modDll i f).chans = s.chans := rfl
@[simp] theorem State.modDll_octs (i : Nat) (f : Dll → Dll) (s : State) : (s.modDll i f).octs = s.octs := rfl
@[simp] theorem State.modDll_dlls (i : Nat) (f : Dll → Dll) (s : State) : (s.modDll i f).dlls = s.dlls.put i (f (s.dll i)) := rfl
@[simp] theorem State.modDll_dll (i : Nat) (f : Dll → Dll) (s : State) : (s.modDll i f).dll i = f (s.dll i) := by
  simp [State.dll, State.modDll]
theorem State.modDll_dll_ne (i : Nat) (f : Dll → Dll) (s : State) (n : Nat) (h : n ≠ i) : (s.modDll i f).dll n = s.dll n := by
  simp [State.dll, State.modDll, Tab.get_put_ne _ _ h]
@[simp] theorem State.modDll_engs (i : Nat) (f : Dll → Dll) (s : State) : (s.modDll i f).engs = s.engs := rfl
@[simp] theorem State.modDll_arr (i : Nat) (f : Dll → Dll) (s : State) : (s.modDll i f).arr = s.arr := rfl
@[simp] theorem State.modDll_cores (i : Nat) (f : Dll → Dll) (s : State) : (s.modDll i f).cores = s.cores := rfl
@[simp] theorem State.modDll_srcs (i : Nat) (f : Dll → Dll) (s : State) : (s.modDll i f).srcs = s.srcs := rfl
@[simp] theorem State.modDll_devq (i : Nat) (f : Dll → Dll) (s : State) : (s.modDll i f).devq = s.devq := rfl
@[simp] theorem State.modDll_iv (i : Nat) (f : Dll → Dll) (s : State) : (s.modDll i f).iv = s.iv := rfl
@[simp] theorem State.modDll_ring (i : Nat) (f : Dll → Dll) (s : State) : (s.modDll i f).ring = s.ring := rfl
@[simp] theorem State.modDll_rg (i : Nat) (f : Dll → Dll) (s : State) : (s.modDll i f).rg = s.rg := rfl
@[simp] theorem State.modDll_mbox (i : Nat) (f : Dll → Dll) (s : State) : (s.modDll i f).mbox = s.mbox := rfl
@[simp] theorem State.modDll_pwr (i : Nat) (f : Dll → Dll) (s : State) : (s.modDll i f).pwr = s.pwr := rfl
@[simp] theorem State.modDll_par (i : Nat) (f : Dll → Dll) (s : State) : (s.modDll i f).par = s.par := rfl
@[simp] theorem State.modDll_store (i : Nat) (f : Dll → Dll) (s : State) : (s.modDll i f).store = s.store := rfl
@[simp] theorem State.modDll_grat (i : Nat) (f : Dll → Dll) (s : State) : (s.modDll i f).grat = s.grat := rfl
@[simp] theorem State.modDll_flt (i : Nat) (f : Dll → Dll) (s : State) : (s.modDll i f).flt = s.flt := rfl
@[simp] theorem State.modDll_tests (i : Nat) (f : Dll → Dll) (s : State) : (s.modDll i f).tests = s.tests := rfl
@[simp] theorem State.modDll_cas (i : Nat) (f : Dll → Dll) (s : State) : (s.modDll i f).cas = s.cas := rfl
@[simp] theorem State.modDll_cal (i : Nat) (f : Dll → Dll) (s : State) : (s.modDll i f).cal = s.cal := rfl
@[simp] theorem State.modDll_otp (i : Nat) (f : Dll → Dll) (s : State) : (s.modDll i f).otp = s.otp := rfl
@[simp] theorem State.modDll_img (i : Nat) (f : Dll → Dll) (s : State) : (s.modDll i f).img = s.img := rfl
@[simp] theorem State.modDll_mem (i : Nat) (f : Dll → Dll) (s : State) : (s.modDll i f).mem = s.mem := rfl
@[simp] theorem State.modDll_per (i : Nat) (f : Dll → Dll) (s : State) : (s.modDll i f).per = s.per := rfl
@[simp] theorem State.modDll_gw (i : Nat) (f : Dll → Dll) (s : State) : (s.modDll i f).gw = s.gw := rfl
@[simp] theorem State.modDll_hp (i : Nat) (f : Dll → Dll) (s : State) : (s.modDll i f).hp = s.hp := rfl
@[simp] theorem State.modDll_reg (i : Nat) (f : Dll → Dll) (s : State) : (s.modDll i f).reg = s.reg := rfl
@[simp] theorem State.modDll_tap (i : Nat) (f : Dll → Dll) (s : State) : (s.modDll i f).tap = s.tap := rfl
@[simp] theorem State.modDll_byp (i : Nat) (f : Dll → Dll) (s : State) : (s.modDll i f).byp = s.byp := rfl
@[simp] theorem State.modDll_pending (i : Nat) (f : Dll → Dll) (s : State) : (s.modDll i f).pending = s.pending := rfl

@[simp] theorem State.modDoor_ref (n : Nat) (f : Door → Door) (s : State) : (s.modDoor n f).ref = s.ref := rfl
@[simp] theorem State.modDoor_pps (n : Nat) (f : Door → Door) (s : State) : (s.modDoor n f).pps = s.pps := rfl
@[simp] theorem State.modDoor_ext (n : Nat) (f : Door → Door) (s : State) : (s.modDoor n f).ext = s.ext := rfl
@[simp] theorem State.modDoor_ts (n : Nat) (f : Door → Door) (s : State) : (s.modDoor n f).ts = s.ts := rfl
@[simp] theorem State.modDoor_latch (n : Nat) (f : Door → Door) (s : State) : (s.modDoor n f).latch = s.latch := rfl
@[simp] theorem State.modDoor_chans (n : Nat) (f : Door → Door) (s : State) : (s.modDoor n f).chans = s.chans := rfl
@[simp] theorem State.modDoor_octs (n : Nat) (f : Door → Door) (s : State) : (s.modDoor n f).octs = s.octs := rfl
@[simp] theorem State.modDoor_dlls (n : Nat) (f : Door → Door) (s : State) : (s.modDoor n f).dlls = s.dlls := rfl
@[simp] theorem State.modDoor_engs (n : Nat) (f : Door → Door) (s : State) : (s.modDoor n f).engs = s.engs := rfl
@[simp] theorem State.modDoor_arr (n : Nat) (f : Door → Door) (s : State) : (s.modDoor n f).arr = s.arr := rfl
@[simp] theorem State.modDoor_cores (n : Nat) (f : Door → Door) (s : State) : (s.modDoor n f).cores = s.cores := rfl
@[simp] theorem State.modDoor_srcs (n : Nat) (f : Door → Door) (s : State) : (s.modDoor n f).srcs = s.srcs := rfl
@[simp] theorem State.modDoor_devq (n : Nat) (f : Door → Door) (s : State) : (s.modDoor n f).devq = s.devq := rfl
@[simp] theorem State.modDoor_iv (n : Nat) (f : Door → Door) (s : State) : (s.modDoor n f).iv = s.iv := rfl
@[simp] theorem State.modDoor_ring (n : Nat) (f : Door → Door) (s : State) : (s.modDoor n f).ring = s.ring := rfl
@[simp] theorem State.modDoor_rg (n : Nat) (f : Door → Door) (s : State) : (s.modDoor n f).rg = s.rg := rfl
@[simp] theorem State.modDoor_pwr (n : Nat) (f : Door → Door) (s : State) : (s.modDoor n f).pwr = s.pwr := rfl
@[simp] theorem State.modDoor_par (n : Nat) (f : Door → Door) (s : State) : (s.modDoor n f).par = s.par := rfl
@[simp] theorem State.modDoor_store (n : Nat) (f : Door → Door) (s : State) : (s.modDoor n f).store = s.store := rfl
@[simp] theorem State.modDoor_grat (n : Nat) (f : Door → Door) (s : State) : (s.modDoor n f).grat = s.grat := rfl
@[simp] theorem State.modDoor_flt (n : Nat) (f : Door → Door) (s : State) : (s.modDoor n f).flt = s.flt := rfl
@[simp] theorem State.modDoor_tests (n : Nat) (f : Door → Door) (s : State) : (s.modDoor n f).tests = s.tests := rfl
@[simp] theorem State.modDoor_cas (n : Nat) (f : Door → Door) (s : State) : (s.modDoor n f).cas = s.cas := rfl
@[simp] theorem State.modDoor_cal (n : Nat) (f : Door → Door) (s : State) : (s.modDoor n f).cal = s.cal := rfl
@[simp] theorem State.modDoor_otp (n : Nat) (f : Door → Door) (s : State) : (s.modDoor n f).otp = s.otp := rfl
@[simp] theorem State.modDoor_img (n : Nat) (f : Door → Door) (s : State) : (s.modDoor n f).img = s.img := rfl
@[simp] theorem State.modDoor_mem (n : Nat) (f : Door → Door) (s : State) : (s.modDoor n f).mem = s.mem := rfl
@[simp] theorem State.modDoor_per (n : Nat) (f : Door → Door) (s : State) : (s.modDoor n f).per = s.per := rfl
@[simp] theorem State.modDoor_gw (n : Nat) (f : Door → Door) (s : State) : (s.modDoor n f).gw = s.gw := rfl
@[simp] theorem State.modDoor_hp (n : Nat) (f : Door → Door) (s : State) : (s.modDoor n f).hp = s.hp := rfl
@[simp] theorem State.modDoor_reg (n : Nat) (f : Door → Door) (s : State) : (s.modDoor n f).reg = s.reg := rfl
@[simp] theorem State.modDoor_tap (n : Nat) (f : Door → Door) (s : State) : (s.modDoor n f).tap = s.tap := rfl
@[simp] theorem State.modDoor_byp (n : Nat) (f : Door → Door) (s : State) : (s.modDoor n f).byp = s.byp := rfl
@[simp] theorem State.modDoor_pending (n : Nat) (f : Door → Door) (s : State) : (s.modDoor n f).pending = s.pending := rfl

@[simp] theorem State.modPair_ref (p : Nat) (f : Pair → Pair) (s : State) : (s.modPair p f).ref = s.ref := rfl
@[simp] theorem State.modPair_pps (p : Nat) (f : Pair → Pair) (s : State) : (s.modPair p f).pps = s.pps := rfl
@[simp] theorem State.modPair_ext (p : Nat) (f : Pair → Pair) (s : State) : (s.modPair p f).ext = s.ext := rfl
@[simp] theorem State.modPair_ts (p : Nat) (f : Pair → Pair) (s : State) : (s.modPair p f).ts = s.ts := rfl
@[simp] theorem State.modPair_latch (p : Nat) (f : Pair → Pair) (s : State) : (s.modPair p f).latch = s.latch := rfl
@[simp] theorem State.modPair_chans (p : Nat) (f : Pair → Pair) (s : State) : (s.modPair p f).chans = s.chans := rfl
@[simp] theorem State.modPair_octs (p : Nat) (f : Pair → Pair) (s : State) : (s.modPair p f).octs = s.octs := rfl
@[simp] theorem State.modPair_dlls (p : Nat) (f : Pair → Pair) (s : State) : (s.modPair p f).dlls = s.dlls := rfl
@[simp] theorem State.modPair_engs (p : Nat) (f : Pair → Pair) (s : State) : (s.modPair p f).engs = s.engs := rfl
@[simp] theorem State.modPair_arr (p : Nat) (f : Pair → Pair) (s : State) : (s.modPair p f).arr = s.arr := rfl
@[simp] theorem State.modPair_cores (p : Nat) (f : Pair → Pair) (s : State) : (s.modPair p f).cores = s.cores := rfl
@[simp] theorem State.modPair_srcs (p : Nat) (f : Pair → Pair) (s : State) : (s.modPair p f).srcs = s.srcs := rfl
@[simp] theorem State.modPair_devq (p : Nat) (f : Pair → Pair) (s : State) : (s.modPair p f).devq = s.devq := rfl
@[simp] theorem State.modPair_ring (p : Nat) (f : Pair → Pair) (s : State) : (s.modPair p f).ring = s.ring := rfl
@[simp] theorem State.modPair_rg (p : Nat) (f : Pair → Pair) (s : State) : (s.modPair p f).rg = s.rg := rfl
@[simp] theorem State.modPair_mbox (p : Nat) (f : Pair → Pair) (s : State) : (s.modPair p f).mbox = s.mbox := rfl
@[simp] theorem State.modPair_pwr (p : Nat) (f : Pair → Pair) (s : State) : (s.modPair p f).pwr = s.pwr := rfl
@[simp] theorem State.modPair_par (p : Nat) (f : Pair → Pair) (s : State) : (s.modPair p f).par = s.par := rfl
@[simp] theorem State.modPair_store (p : Nat) (f : Pair → Pair) (s : State) : (s.modPair p f).store = s.store := rfl
@[simp] theorem State.modPair_grat (p : Nat) (f : Pair → Pair) (s : State) : (s.modPair p f).grat = s.grat := rfl
@[simp] theorem State.modPair_flt (p : Nat) (f : Pair → Pair) (s : State) : (s.modPair p f).flt = s.flt := rfl
@[simp] theorem State.modPair_tests (p : Nat) (f : Pair → Pair) (s : State) : (s.modPair p f).tests = s.tests := rfl
@[simp] theorem State.modPair_cas (p : Nat) (f : Pair → Pair) (s : State) : (s.modPair p f).cas = s.cas := rfl
@[simp] theorem State.modPair_cal (p : Nat) (f : Pair → Pair) (s : State) : (s.modPair p f).cal = s.cal := rfl
@[simp] theorem State.modPair_otp (p : Nat) (f : Pair → Pair) (s : State) : (s.modPair p f).otp = s.otp := rfl
@[simp] theorem State.modPair_img (p : Nat) (f : Pair → Pair) (s : State) : (s.modPair p f).img = s.img := rfl
@[simp] theorem State.modPair_mem (p : Nat) (f : Pair → Pair) (s : State) : (s.modPair p f).mem = s.mem := rfl
@[simp] theorem State.modPair_per (p : Nat) (f : Pair → Pair) (s : State) : (s.modPair p f).per = s.per := rfl
@[simp] theorem State.modPair_gw (p : Nat) (f : Pair → Pair) (s : State) : (s.modPair p f).gw = s.gw := rfl
@[simp] theorem State.modPair_hp (p : Nat) (f : Pair → Pair) (s : State) : (s.modPair p f).hp = s.hp := rfl
@[simp] theorem State.modPair_reg (p : Nat) (f : Pair → Pair) (s : State) : (s.modPair p f).reg = s.reg := rfl
@[simp] theorem State.modPair_tap (p : Nat) (f : Pair → Pair) (s : State) : (s.modPair p f).tap = s.tap := rfl
@[simp] theorem State.modPair_byp (p : Nat) (f : Pair → Pair) (s : State) : (s.modPair p f).byp = s.byp := rfl
@[simp] theorem State.modPair_pending (p : Nat) (f : Pair → Pair) (s : State) : (s.modPair p f).pending = s.pending := rfl

@[simp] theorem State.modGwi_ref (i : Nat) (f : GwInst → GwInst) (s : State) : (s.modGwi i f).ref = s.ref := rfl
@[simp] theorem State.modGwi_pps (i : Nat) (f : GwInst → GwInst) (s : State) : (s.modGwi i f).pps = s.pps := rfl
@[simp] theorem State.modGwi_ext (i : Nat) (f : GwInst → GwInst) (s : State) : (s.modGwi i f).ext = s.ext := rfl
@[simp] theorem State.modGwi_ts (i : Nat) (f : GwInst → GwInst) (s : State) : (s.modGwi i f).ts = s.ts := rfl
@[simp] theorem State.modGwi_latch (i : Nat) (f : GwInst → GwInst) (s : State) : (s.modGwi i f).latch = s.latch := rfl
@[simp] theorem State.modGwi_chans (i : Nat) (f : GwInst → GwInst) (s : State) : (s.modGwi i f).chans = s.chans := rfl
@[simp] theorem State.modGwi_octs (i : Nat) (f : GwInst → GwInst) (s : State) : (s.modGwi i f).octs = s.octs := rfl
@[simp] theorem State.modGwi_dlls (i : Nat) (f : GwInst → GwInst) (s : State) : (s.modGwi i f).dlls = s.dlls := rfl
@[simp] theorem State.modGwi_engs (i : Nat) (f : GwInst → GwInst) (s : State) : (s.modGwi i f).engs = s.engs := rfl
@[simp] theorem State.modGwi_arr (i : Nat) (f : GwInst → GwInst) (s : State) : (s.modGwi i f).arr = s.arr := rfl
@[simp] theorem State.modGwi_cores (i : Nat) (f : GwInst → GwInst) (s : State) : (s.modGwi i f).cores = s.cores := rfl
@[simp] theorem State.modGwi_srcs (i : Nat) (f : GwInst → GwInst) (s : State) : (s.modGwi i f).srcs = s.srcs := rfl
@[simp] theorem State.modGwi_devq (i : Nat) (f : GwInst → GwInst) (s : State) : (s.modGwi i f).devq = s.devq := rfl
@[simp] theorem State.modGwi_iv (i : Nat) (f : GwInst → GwInst) (s : State) : (s.modGwi i f).iv = s.iv := rfl
@[simp] theorem State.modGwi_ring (i : Nat) (f : GwInst → GwInst) (s : State) : (s.modGwi i f).ring = s.ring := rfl
@[simp] theorem State.modGwi_rg (i : Nat) (f : GwInst → GwInst) (s : State) : (s.modGwi i f).rg = s.rg := rfl
@[simp] theorem State.modGwi_mbox (i : Nat) (f : GwInst → GwInst) (s : State) : (s.modGwi i f).mbox = s.mbox := rfl
@[simp] theorem State.modGwi_pwr (i : Nat) (f : GwInst → GwInst) (s : State) : (s.modGwi i f).pwr = s.pwr := rfl
@[simp] theorem State.modGwi_par (i : Nat) (f : GwInst → GwInst) (s : State) : (s.modGwi i f).par = s.par := rfl
@[simp] theorem State.modGwi_store (i : Nat) (f : GwInst → GwInst) (s : State) : (s.modGwi i f).store = s.store := rfl
@[simp] theorem State.modGwi_grat (i : Nat) (f : GwInst → GwInst) (s : State) : (s.modGwi i f).grat = s.grat := rfl
@[simp] theorem State.modGwi_flt (i : Nat) (f : GwInst → GwInst) (s : State) : (s.modGwi i f).flt = s.flt := rfl
@[simp] theorem State.modGwi_tests (i : Nat) (f : GwInst → GwInst) (s : State) : (s.modGwi i f).tests = s.tests := rfl
@[simp] theorem State.modGwi_cas (i : Nat) (f : GwInst → GwInst) (s : State) : (s.modGwi i f).cas = s.cas := rfl
@[simp] theorem State.modGwi_cal (i : Nat) (f : GwInst → GwInst) (s : State) : (s.modGwi i f).cal = s.cal := rfl
@[simp] theorem State.modGwi_otp (i : Nat) (f : GwInst → GwInst) (s : State) : (s.modGwi i f).otp = s.otp := rfl
@[simp] theorem State.modGwi_img (i : Nat) (f : GwInst → GwInst) (s : State) : (s.modGwi i f).img = s.img := rfl
@[simp] theorem State.modGwi_mem (i : Nat) (f : GwInst → GwInst) (s : State) : (s.modGwi i f).mem = s.mem := rfl
@[simp] theorem State.modGwi_per (i : Nat) (f : GwInst → GwInst) (s : State) : (s.modGwi i f).per = s.per := rfl
@[simp] theorem State.modGwi_hp (i : Nat) (f : GwInst → GwInst) (s : State) : (s.modGwi i f).hp = s.hp := rfl
@[simp] theorem State.modGwi_reg (i : Nat) (f : GwInst → GwInst) (s : State) : (s.modGwi i f).reg = s.reg := rfl
@[simp] theorem State.modGwi_tap (i : Nat) (f : GwInst → GwInst) (s : State) : (s.modGwi i f).tap = s.tap := rfl
@[simp] theorem State.modGwi_byp (i : Nat) (f : GwInst → GwInst) (s : State) : (s.modGwi i f).byp = s.byp := rfl
@[simp] theorem State.modGwi_pending (i : Nat) (f : GwInst → GwInst) (s : State) : (s.modGwi i f).pending = s.pending := rfl

@[simp] theorem State.modSlot_ref (i : Nat) (f : RgSlot → RgSlot) (s : State) : (s.modSlot i f).ref = s.ref := rfl
@[simp] theorem State.modSlot_pps (i : Nat) (f : RgSlot → RgSlot) (s : State) : (s.modSlot i f).pps = s.pps := rfl
@[simp] theorem State.modSlot_ext (i : Nat) (f : RgSlot → RgSlot) (s : State) : (s.modSlot i f).ext = s.ext := rfl
@[simp] theorem State.modSlot_ts (i : Nat) (f : RgSlot → RgSlot) (s : State) : (s.modSlot i f).ts = s.ts := rfl
@[simp] theorem State.modSlot_latch (i : Nat) (f : RgSlot → RgSlot) (s : State) : (s.modSlot i f).latch = s.latch := rfl
@[simp] theorem State.modSlot_chans (i : Nat) (f : RgSlot → RgSlot) (s : State) : (s.modSlot i f).chans = s.chans := rfl
@[simp] theorem State.modSlot_octs (i : Nat) (f : RgSlot → RgSlot) (s : State) : (s.modSlot i f).octs = s.octs := rfl
@[simp] theorem State.modSlot_dlls (i : Nat) (f : RgSlot → RgSlot) (s : State) : (s.modSlot i f).dlls = s.dlls := rfl
@[simp] theorem State.modSlot_engs (i : Nat) (f : RgSlot → RgSlot) (s : State) : (s.modSlot i f).engs = s.engs := rfl
@[simp] theorem State.modSlot_arr (i : Nat) (f : RgSlot → RgSlot) (s : State) : (s.modSlot i f).arr = s.arr := rfl
@[simp] theorem State.modSlot_cores (i : Nat) (f : RgSlot → RgSlot) (s : State) : (s.modSlot i f).cores = s.cores := rfl
@[simp] theorem State.modSlot_srcs (i : Nat) (f : RgSlot → RgSlot) (s : State) : (s.modSlot i f).srcs = s.srcs := rfl
@[simp] theorem State.modSlot_devq (i : Nat) (f : RgSlot → RgSlot) (s : State) : (s.modSlot i f).devq = s.devq := rfl
@[simp] theorem State.modSlot_iv (i : Nat) (f : RgSlot → RgSlot) (s : State) : (s.modSlot i f).iv = s.iv := rfl
@[simp] theorem State.modSlot_ring (i : Nat) (f : RgSlot → RgSlot) (s : State) : (s.modSlot i f).ring = s.ring := rfl
@[simp] theorem State.modSlot_mbox (i : Nat) (f : RgSlot → RgSlot) (s : State) : (s.modSlot i f).mbox = s.mbox := rfl
@[simp] theorem State.modSlot_pwr (i : Nat) (f : RgSlot → RgSlot) (s : State) : (s.modSlot i f).pwr = s.pwr := rfl
@[simp] theorem State.modSlot_par (i : Nat) (f : RgSlot → RgSlot) (s : State) : (s.modSlot i f).par = s.par := rfl
@[simp] theorem State.modSlot_store (i : Nat) (f : RgSlot → RgSlot) (s : State) : (s.modSlot i f).store = s.store := rfl
@[simp] theorem State.modSlot_grat (i : Nat) (f : RgSlot → RgSlot) (s : State) : (s.modSlot i f).grat = s.grat := rfl
@[simp] theorem State.modSlot_flt (i : Nat) (f : RgSlot → RgSlot) (s : State) : (s.modSlot i f).flt = s.flt := rfl
@[simp] theorem State.modSlot_tests (i : Nat) (f : RgSlot → RgSlot) (s : State) : (s.modSlot i f).tests = s.tests := rfl
@[simp] theorem State.modSlot_cas (i : Nat) (f : RgSlot → RgSlot) (s : State) : (s.modSlot i f).cas = s.cas := rfl
@[simp] theorem State.modSlot_cal (i : Nat) (f : RgSlot → RgSlot) (s : State) : (s.modSlot i f).cal = s.cal := rfl
@[simp] theorem State.modSlot_otp (i : Nat) (f : RgSlot → RgSlot) (s : State) : (s.modSlot i f).otp = s.otp := rfl
@[simp] theorem State.modSlot_img (i : Nat) (f : RgSlot → RgSlot) (s : State) : (s.modSlot i f).img = s.img := rfl
@[simp] theorem State.modSlot_mem (i : Nat) (f : RgSlot → RgSlot) (s : State) : (s.modSlot i f).mem = s.mem := rfl
@[simp] theorem State.modSlot_per (i : Nat) (f : RgSlot → RgSlot) (s : State) : (s.modSlot i f).per = s.per := rfl
@[simp] theorem State.modSlot_gw (i : Nat) (f : RgSlot → RgSlot) (s : State) : (s.modSlot i f).gw = s.gw := rfl
@[simp] theorem State.modSlot_hp (i : Nat) (f : RgSlot → RgSlot) (s : State) : (s.modSlot i f).hp = s.hp := rfl
@[simp] theorem State.modSlot_reg (i : Nat) (f : RgSlot → RgSlot) (s : State) : (s.modSlot i f).reg = s.reg := rfl
@[simp] theorem State.modSlot_tap (i : Nat) (f : RgSlot → RgSlot) (s : State) : (s.modSlot i f).tap = s.tap := rfl
@[simp] theorem State.modSlot_byp (i : Nat) (f : RgSlot → RgSlot) (s : State) : (s.modSlot i f).byp = s.byp := rfl
@[simp] theorem State.modSlot_pending (i : Nat) (f : RgSlot → RgSlot) (s : State) : (s.modSlot i f).pending = s.pending := rfl

@[simp] theorem State.modLoop_ref (k : Nat) (f : Loop → Loop) (s : State) : (s.modLoop k f).ref = s.ref := rfl
@[simp] theorem State.modLoop_pps (k : Nat) (f : Loop → Loop) (s : State) : (s.modLoop k f).pps = s.pps := rfl
@[simp] theorem State.modLoop_ext (k : Nat) (f : Loop → Loop) (s : State) : (s.modLoop k f).ext = s.ext := rfl
@[simp] theorem State.modLoop_ts (k : Nat) (f : Loop → Loop) (s : State) : (s.modLoop k f).ts = s.ts := rfl
@[simp] theorem State.modLoop_latch (k : Nat) (f : Loop → Loop) (s : State) : (s.modLoop k f).latch = s.latch := rfl
@[simp] theorem State.modLoop_chans (k : Nat) (f : Loop → Loop) (s : State) : (s.modLoop k f).chans = s.chans := rfl
@[simp] theorem State.modLoop_dlls (k : Nat) (f : Loop → Loop) (s : State) : (s.modLoop k f).dlls = s.dlls := rfl
@[simp] theorem State.modLoop_engs (k : Nat) (f : Loop → Loop) (s : State) : (s.modLoop k f).engs = s.engs := rfl
@[simp] theorem State.modLoop_arr (k : Nat) (f : Loop → Loop) (s : State) : (s.modLoop k f).arr = s.arr := rfl
@[simp] theorem State.modLoop_cores (k : Nat) (f : Loop → Loop) (s : State) : (s.modLoop k f).cores = s.cores := rfl
@[simp] theorem State.modLoop_srcs (k : Nat) (f : Loop → Loop) (s : State) : (s.modLoop k f).srcs = s.srcs := rfl
@[simp] theorem State.modLoop_devq (k : Nat) (f : Loop → Loop) (s : State) : (s.modLoop k f).devq = s.devq := rfl
@[simp] theorem State.modLoop_iv (k : Nat) (f : Loop → Loop) (s : State) : (s.modLoop k f).iv = s.iv := rfl
@[simp] theorem State.modLoop_ring (k : Nat) (f : Loop → Loop) (s : State) : (s.modLoop k f).ring = s.ring := rfl
@[simp] theorem State.modLoop_rg (k : Nat) (f : Loop → Loop) (s : State) : (s.modLoop k f).rg = s.rg := rfl
@[simp] theorem State.modLoop_mbox (k : Nat) (f : Loop → Loop) (s : State) : (s.modLoop k f).mbox = s.mbox := rfl
@[simp] theorem State.modLoop_pwr (k : Nat) (f : Loop → Loop) (s : State) : (s.modLoop k f).pwr = s.pwr := rfl
@[simp] theorem State.modLoop_par (k : Nat) (f : Loop → Loop) (s : State) : (s.modLoop k f).par = s.par := rfl
@[simp] theorem State.modLoop_store (k : Nat) (f : Loop → Loop) (s : State) : (s.modLoop k f).store = s.store := rfl
@[simp] theorem State.modLoop_grat (k : Nat) (f : Loop → Loop) (s : State) : (s.modLoop k f).grat = s.grat := rfl
@[simp] theorem State.modLoop_flt (k : Nat) (f : Loop → Loop) (s : State) : (s.modLoop k f).flt = s.flt := rfl
@[simp] theorem State.modLoop_tests (k : Nat) (f : Loop → Loop) (s : State) : (s.modLoop k f).tests = s.tests := rfl
@[simp] theorem State.modLoop_cas (k : Nat) (f : Loop → Loop) (s : State) : (s.modLoop k f).cas = s.cas := rfl
@[simp] theorem State.modLoop_cal (k : Nat) (f : Loop → Loop) (s : State) : (s.modLoop k f).cal = s.cal := rfl
@[simp] theorem State.modLoop_otp (k : Nat) (f : Loop → Loop) (s : State) : (s.modLoop k f).otp = s.otp := rfl
@[simp] theorem State.modLoop_img (k : Nat) (f : Loop → Loop) (s : State) : (s.modLoop k f).img = s.img := rfl
@[simp] theorem State.modLoop_mem (k : Nat) (f : Loop → Loop) (s : State) : (s.modLoop k f).mem = s.mem := rfl
@[simp] theorem State.modLoop_per (k : Nat) (f : Loop → Loop) (s : State) : (s.modLoop k f).per = s.per := rfl
@[simp] theorem State.modLoop_gw (k : Nat) (f : Loop → Loop) (s : State) : (s.modLoop k f).gw = s.gw := rfl
@[simp] theorem State.modLoop_hp (k : Nat) (f : Loop → Loop) (s : State) : (s.modLoop k f).hp = s.hp := rfl
@[simp] theorem State.modLoop_reg (k : Nat) (f : Loop → Loop) (s : State) : (s.modLoop k f).reg = s.reg := rfl
@[simp] theorem State.modLoop_tap (k : Nat) (f : Loop → Loop) (s : State) : (s.modLoop k f).tap = s.tap := rfl
@[simp] theorem State.modLoop_byp (k : Nat) (f : Loop → Loop) (s : State) : (s.modLoop k f).byp = s.byp := rfl
@[simp] theorem State.modLoop_pending (k : Nat) (f : Loop → Loop) (s : State) : (s.modLoop k f).pending = s.pending := rfl

@[simp] theorem State.modTsSrv_ref (f : TsSrv → TsSrv) (s : State) : (s.modTsSrv f).ref = s.ref := rfl
@[simp] theorem State.modTsSrv_pps (f : TsSrv → TsSrv) (s : State) : (s.modTsSrv f).pps = s.pps := rfl
@[simp] theorem State.modTsSrv_ext (f : TsSrv → TsSrv) (s : State) : (s.modTsSrv f).ext = s.ext := rfl
@[simp] theorem State.modTsSrv_latch (f : TsSrv → TsSrv) (s : State) : (s.modTsSrv f).latch = s.latch := rfl
@[simp] theorem State.modTsSrv_chans (f : TsSrv → TsSrv) (s : State) : (s.modTsSrv f).chans = s.chans := rfl
@[simp] theorem State.modTsSrv_octs (f : TsSrv → TsSrv) (s : State) : (s.modTsSrv f).octs = s.octs := rfl
@[simp] theorem State.modTsSrv_dlls (f : TsSrv → TsSrv) (s : State) : (s.modTsSrv f).dlls = s.dlls := rfl
@[simp] theorem State.modTsSrv_engs (f : TsSrv → TsSrv) (s : State) : (s.modTsSrv f).engs = s.engs := rfl
@[simp] theorem State.modTsSrv_arr (f : TsSrv → TsSrv) (s : State) : (s.modTsSrv f).arr = s.arr := rfl
@[simp] theorem State.modTsSrv_cores (f : TsSrv → TsSrv) (s : State) : (s.modTsSrv f).cores = s.cores := rfl
@[simp] theorem State.modTsSrv_srcs (f : TsSrv → TsSrv) (s : State) : (s.modTsSrv f).srcs = s.srcs := rfl
@[simp] theorem State.modTsSrv_devq (f : TsSrv → TsSrv) (s : State) : (s.modTsSrv f).devq = s.devq := rfl
@[simp] theorem State.modTsSrv_iv (f : TsSrv → TsSrv) (s : State) : (s.modTsSrv f).iv = s.iv := rfl
@[simp] theorem State.modTsSrv_ring (f : TsSrv → TsSrv) (s : State) : (s.modTsSrv f).ring = s.ring := rfl
@[simp] theorem State.modTsSrv_rg (f : TsSrv → TsSrv) (s : State) : (s.modTsSrv f).rg = s.rg := rfl
@[simp] theorem State.modTsSrv_mbox (f : TsSrv → TsSrv) (s : State) : (s.modTsSrv f).mbox = s.mbox := rfl
@[simp] theorem State.modTsSrv_pwr (f : TsSrv → TsSrv) (s : State) : (s.modTsSrv f).pwr = s.pwr := rfl
@[simp] theorem State.modTsSrv_par (f : TsSrv → TsSrv) (s : State) : (s.modTsSrv f).par = s.par := rfl
@[simp] theorem State.modTsSrv_store (f : TsSrv → TsSrv) (s : State) : (s.modTsSrv f).store = s.store := rfl
@[simp] theorem State.modTsSrv_grat (f : TsSrv → TsSrv) (s : State) : (s.modTsSrv f).grat = s.grat := rfl
@[simp] theorem State.modTsSrv_flt (f : TsSrv → TsSrv) (s : State) : (s.modTsSrv f).flt = s.flt := rfl
@[simp] theorem State.modTsSrv_tests (f : TsSrv → TsSrv) (s : State) : (s.modTsSrv f).tests = s.tests := rfl
@[simp] theorem State.modTsSrv_cas (f : TsSrv → TsSrv) (s : State) : (s.modTsSrv f).cas = s.cas := rfl
@[simp] theorem State.modTsSrv_cal (f : TsSrv → TsSrv) (s : State) : (s.modTsSrv f).cal = s.cal := rfl
@[simp] theorem State.modTsSrv_otp (f : TsSrv → TsSrv) (s : State) : (s.modTsSrv f).otp = s.otp := rfl
@[simp] theorem State.modTsSrv_img (f : TsSrv → TsSrv) (s : State) : (s.modTsSrv f).img = s.img := rfl
@[simp] theorem State.modTsSrv_mem (f : TsSrv → TsSrv) (s : State) : (s.modTsSrv f).mem = s.mem := rfl
@[simp] theorem State.modTsSrv_per (f : TsSrv → TsSrv) (s : State) : (s.modTsSrv f).per = s.per := rfl
@[simp] theorem State.modTsSrv_gw (f : TsSrv → TsSrv) (s : State) : (s.modTsSrv f).gw = s.gw := rfl
@[simp] theorem State.modTsSrv_hp (f : TsSrv → TsSrv) (s : State) : (s.modTsSrv f).hp = s.hp := rfl
@[simp] theorem State.modTsSrv_reg (f : TsSrv → TsSrv) (s : State) : (s.modTsSrv f).reg = s.reg := rfl
@[simp] theorem State.modTsSrv_tap (f : TsSrv → TsSrv) (s : State) : (s.modTsSrv f).tap = s.tap := rfl
@[simp] theorem State.modTsSrv_byp (f : TsSrv → TsSrv) (s : State) : (s.modTsSrv f).byp = s.byp := rfl
@[simp] theorem State.modTsSrv_pending (f : TsSrv → TsSrv) (s : State) : (s.modTsSrv f).pending = s.pending := rfl

@[simp] theorem State.modTsTrav_ref (f : Trav → Trav) (s : State) : (s.modTsTrav f).ref = s.ref := rfl
@[simp] theorem State.modTsTrav_pps (f : Trav → Trav) (s : State) : (s.modTsTrav f).pps = s.pps := rfl
@[simp] theorem State.modTsTrav_ext (f : Trav → Trav) (s : State) : (s.modTsTrav f).ext = s.ext := rfl
@[simp] theorem State.modTsTrav_latch (f : Trav → Trav) (s : State) : (s.modTsTrav f).latch = s.latch := rfl
@[simp] theorem State.modTsTrav_chans (f : Trav → Trav) (s : State) : (s.modTsTrav f).chans = s.chans := rfl
@[simp] theorem State.modTsTrav_octs (f : Trav → Trav) (s : State) : (s.modTsTrav f).octs = s.octs := rfl
@[simp] theorem State.modTsTrav_dlls (f : Trav → Trav) (s : State) : (s.modTsTrav f).dlls = s.dlls := rfl
@[simp] theorem State.modTsTrav_engs (f : Trav → Trav) (s : State) : (s.modTsTrav f).engs = s.engs := rfl
@[simp] theorem State.modTsTrav_arr (f : Trav → Trav) (s : State) : (s.modTsTrav f).arr = s.arr := rfl
@[simp] theorem State.modTsTrav_cores (f : Trav → Trav) (s : State) : (s.modTsTrav f).cores = s.cores := rfl
@[simp] theorem State.modTsTrav_srcs (f : Trav → Trav) (s : State) : (s.modTsTrav f).srcs = s.srcs := rfl
@[simp] theorem State.modTsTrav_devq (f : Trav → Trav) (s : State) : (s.modTsTrav f).devq = s.devq := rfl
@[simp] theorem State.modTsTrav_iv (f : Trav → Trav) (s : State) : (s.modTsTrav f).iv = s.iv := rfl
@[simp] theorem State.modTsTrav_ring (f : Trav → Trav) (s : State) : (s.modTsTrav f).ring = s.ring := rfl
@[simp] theorem State.modTsTrav_rg (f : Trav → Trav) (s : State) : (s.modTsTrav f).rg = s.rg := rfl
@[simp] theorem State.modTsTrav_mbox (f : Trav → Trav) (s : State) : (s.modTsTrav f).mbox = s.mbox := rfl
@[simp] theorem State.modTsTrav_pwr (f : Trav → Trav) (s : State) : (s.modTsTrav f).pwr = s.pwr := rfl
@[simp] theorem State.modTsTrav_par (f : Trav → Trav) (s : State) : (s.modTsTrav f).par = s.par := rfl
@[simp] theorem State.modTsTrav_store (f : Trav → Trav) (s : State) : (s.modTsTrav f).store = s.store := rfl
@[simp] theorem State.modTsTrav_grat (f : Trav → Trav) (s : State) : (s.modTsTrav f).grat = s.grat := rfl
@[simp] theorem State.modTsTrav_flt (f : Trav → Trav) (s : State) : (s.modTsTrav f).flt = s.flt := rfl
@[simp] theorem State.modTsTrav_tests (f : Trav → Trav) (s : State) : (s.modTsTrav f).tests = s.tests := rfl
@[simp] theorem State.modTsTrav_cas (f : Trav → Trav) (s : State) : (s.modTsTrav f).cas = s.cas := rfl
@[simp] theorem State.modTsTrav_cal (f : Trav → Trav) (s : State) : (s.modTsTrav f).cal = s.cal := rfl
@[simp] theorem State.modTsTrav_otp (f : Trav → Trav) (s : State) : (s.modTsTrav f).otp = s.otp := rfl
@[simp] theorem State.modTsTrav_img (f : Trav → Trav) (s : State) : (s.modTsTrav f).img = s.img := rfl
@[simp] theorem State.modTsTrav_mem (f : Trav → Trav) (s : State) : (s.modTsTrav f).mem = s.mem := rfl
@[simp] theorem State.modTsTrav_per (f : Trav → Trav) (s : State) : (s.modTsTrav f).per = s.per := rfl
@[simp] theorem State.modTsTrav_gw (f : Trav → Trav) (s : State) : (s.modTsTrav f).gw = s.gw := rfl
@[simp] theorem State.modTsTrav_hp (f : Trav → Trav) (s : State) : (s.modTsTrav f).hp = s.hp := rfl
@[simp] theorem State.modTsTrav_reg (f : Trav → Trav) (s : State) : (s.modTsTrav f).reg = s.reg := rfl
@[simp] theorem State.modTsTrav_tap (f : Trav → Trav) (s : State) : (s.modTsTrav f).tap = s.tap := rfl
@[simp] theorem State.modTsTrav_byp (f : Trav → Trav) (s : State) : (s.modTsTrav f).byp = s.byp := rfl
@[simp] theorem State.modTsTrav_pending (f : Trav → Trav) (s : State) : (s.modTsTrav f).pending = s.pending := rfl

@[simp] theorem State.modTrav_ref (c : Nat) (f : Trav → Trav) (s : State) : (s.modTrav c f).ref = s.ref := rfl
@[simp] theorem State.modTrav_pps (c : Nat) (f : Trav → Trav) (s : State) : (s.modTrav c f).pps = s.pps := rfl
@[simp] theorem State.modTrav_ext (c : Nat) (f : Trav → Trav) (s : State) : (s.modTrav c f).ext = s.ext := rfl
@[simp] theorem State.modTrav_ts (c : Nat) (f : Trav → Trav) (s : State) : (s.modTrav c f).ts = s.ts := rfl
@[simp] theorem State.modTrav_latch (c : Nat) (f : Trav → Trav) (s : State) : (s.modTrav c f).latch = s.latch := rfl
@[simp] theorem State.modTrav_octs (c : Nat) (f : Trav → Trav) (s : State) : (s.modTrav c f).octs = s.octs := rfl
@[simp] theorem State.modTrav_dlls (c : Nat) (f : Trav → Trav) (s : State) : (s.modTrav c f).dlls = s.dlls := rfl
@[simp] theorem State.modTrav_engs (c : Nat) (f : Trav → Trav) (s : State) : (s.modTrav c f).engs = s.engs := rfl
@[simp] theorem State.modTrav_arr (c : Nat) (f : Trav → Trav) (s : State) : (s.modTrav c f).arr = s.arr := rfl
@[simp] theorem State.modTrav_cores (c : Nat) (f : Trav → Trav) (s : State) : (s.modTrav c f).cores = s.cores := rfl
@[simp] theorem State.modTrav_srcs (c : Nat) (f : Trav → Trav) (s : State) : (s.modTrav c f).srcs = s.srcs := rfl
@[simp] theorem State.modTrav_devq (c : Nat) (f : Trav → Trav) (s : State) : (s.modTrav c f).devq = s.devq := rfl
@[simp] theorem State.modTrav_iv (c : Nat) (f : Trav → Trav) (s : State) : (s.modTrav c f).iv = s.iv := rfl
@[simp] theorem State.modTrav_ring (c : Nat) (f : Trav → Trav) (s : State) : (s.modTrav c f).ring = s.ring := rfl
@[simp] theorem State.modTrav_rg (c : Nat) (f : Trav → Trav) (s : State) : (s.modTrav c f).rg = s.rg := rfl
@[simp] theorem State.modTrav_mbox (c : Nat) (f : Trav → Trav) (s : State) : (s.modTrav c f).mbox = s.mbox := rfl
@[simp] theorem State.modTrav_pwr (c : Nat) (f : Trav → Trav) (s : State) : (s.modTrav c f).pwr = s.pwr := rfl
@[simp] theorem State.modTrav_par (c : Nat) (f : Trav → Trav) (s : State) : (s.modTrav c f).par = s.par := rfl
@[simp] theorem State.modTrav_store (c : Nat) (f : Trav → Trav) (s : State) : (s.modTrav c f).store = s.store := rfl
@[simp] theorem State.modTrav_grat (c : Nat) (f : Trav → Trav) (s : State) : (s.modTrav c f).grat = s.grat := rfl
@[simp] theorem State.modTrav_flt (c : Nat) (f : Trav → Trav) (s : State) : (s.modTrav c f).flt = s.flt := rfl
@[simp] theorem State.modTrav_tests (c : Nat) (f : Trav → Trav) (s : State) : (s.modTrav c f).tests = s.tests := rfl
@[simp] theorem State.modTrav_cas (c : Nat) (f : Trav → Trav) (s : State) : (s.modTrav c f).cas = s.cas := rfl
@[simp] theorem State.modTrav_cal (c : Nat) (f : Trav → Trav) (s : State) : (s.modTrav c f).cal = s.cal := rfl
@[simp] theorem State.modTrav_otp (c : Nat) (f : Trav → Trav) (s : State) : (s.modTrav c f).otp = s.otp := rfl
@[simp] theorem State.modTrav_img (c : Nat) (f : Trav → Trav) (s : State) : (s.modTrav c f).img = s.img := rfl
@[simp] theorem State.modTrav_mem (c : Nat) (f : Trav → Trav) (s : State) : (s.modTrav c f).mem = s.mem := rfl
@[simp] theorem State.modTrav_per (c : Nat) (f : Trav → Trav) (s : State) : (s.modTrav c f).per = s.per := rfl
@[simp] theorem State.modTrav_gw (c : Nat) (f : Trav → Trav) (s : State) : (s.modTrav c f).gw = s.gw := rfl
@[simp] theorem State.modTrav_hp (c : Nat) (f : Trav → Trav) (s : State) : (s.modTrav c f).hp = s.hp := rfl
@[simp] theorem State.modTrav_reg (c : Nat) (f : Trav → Trav) (s : State) : (s.modTrav c f).reg = s.reg := rfl
@[simp] theorem State.modTrav_tap (c : Nat) (f : Trav → Trav) (s : State) : (s.modTrav c f).tap = s.tap := rfl
@[simp] theorem State.modTrav_byp (c : Nat) (f : Trav → Trav) (s : State) : (s.modTrav c f).byp = s.byp := rfl
@[simp] theorem State.modTrav_pending (c : Nat) (f : Trav → Trav) (s : State) : (s.modTrav c f).pending = s.pending := rfl

@[simp] theorem State.modSrv_ref (c : Nat) (f : Srv → Srv) (s : State) : (s.modSrv c f).ref = s.ref := rfl
@[simp] theorem State.modSrv_pps (c : Nat) (f : Srv → Srv) (s : State) : (s.modSrv c f).pps = s.pps := rfl
@[simp] theorem State.modSrv_ext (c : Nat) (f : Srv → Srv) (s : State) : (s.modSrv c f).ext = s.ext := rfl
@[simp] theorem State.modSrv_ts (c : Nat) (f : Srv → Srv) (s : State) : (s.modSrv c f).ts = s.ts := rfl
@[simp] theorem State.modSrv_latch (c : Nat) (f : Srv → Srv) (s : State) : (s.modSrv c f).latch = s.latch := rfl
@[simp] theorem State.modSrv_octs (c : Nat) (f : Srv → Srv) (s : State) : (s.modSrv c f).octs = s.octs := rfl
@[simp] theorem State.modSrv_dlls (c : Nat) (f : Srv → Srv) (s : State) : (s.modSrv c f).dlls = s.dlls := rfl
@[simp] theorem State.modSrv_engs (c : Nat) (f : Srv → Srv) (s : State) : (s.modSrv c f).engs = s.engs := rfl
@[simp] theorem State.modSrv_arr (c : Nat) (f : Srv → Srv) (s : State) : (s.modSrv c f).arr = s.arr := rfl
@[simp] theorem State.modSrv_cores (c : Nat) (f : Srv → Srv) (s : State) : (s.modSrv c f).cores = s.cores := rfl
@[simp] theorem State.modSrv_srcs (c : Nat) (f : Srv → Srv) (s : State) : (s.modSrv c f).srcs = s.srcs := rfl
@[simp] theorem State.modSrv_devq (c : Nat) (f : Srv → Srv) (s : State) : (s.modSrv c f).devq = s.devq := rfl
@[simp] theorem State.modSrv_iv (c : Nat) (f : Srv → Srv) (s : State) : (s.modSrv c f).iv = s.iv := rfl
@[simp] theorem State.modSrv_ring (c : Nat) (f : Srv → Srv) (s : State) : (s.modSrv c f).ring = s.ring := rfl
@[simp] theorem State.modSrv_rg (c : Nat) (f : Srv → Srv) (s : State) : (s.modSrv c f).rg = s.rg := rfl
@[simp] theorem State.modSrv_mbox (c : Nat) (f : Srv → Srv) (s : State) : (s.modSrv c f).mbox = s.mbox := rfl
@[simp] theorem State.modSrv_pwr (c : Nat) (f : Srv → Srv) (s : State) : (s.modSrv c f).pwr = s.pwr := rfl
@[simp] theorem State.modSrv_par (c : Nat) (f : Srv → Srv) (s : State) : (s.modSrv c f).par = s.par := rfl
@[simp] theorem State.modSrv_store (c : Nat) (f : Srv → Srv) (s : State) : (s.modSrv c f).store = s.store := rfl
@[simp] theorem State.modSrv_grat (c : Nat) (f : Srv → Srv) (s : State) : (s.modSrv c f).grat = s.grat := rfl
@[simp] theorem State.modSrv_flt (c : Nat) (f : Srv → Srv) (s : State) : (s.modSrv c f).flt = s.flt := rfl
@[simp] theorem State.modSrv_tests (c : Nat) (f : Srv → Srv) (s : State) : (s.modSrv c f).tests = s.tests := rfl
@[simp] theorem State.modSrv_cas (c : Nat) (f : Srv → Srv) (s : State) : (s.modSrv c f).cas = s.cas := rfl
@[simp] theorem State.modSrv_cal (c : Nat) (f : Srv → Srv) (s : State) : (s.modSrv c f).cal = s.cal := rfl
@[simp] theorem State.modSrv_otp (c : Nat) (f : Srv → Srv) (s : State) : (s.modSrv c f).otp = s.otp := rfl
@[simp] theorem State.modSrv_img (c : Nat) (f : Srv → Srv) (s : State) : (s.modSrv c f).img = s.img := rfl
@[simp] theorem State.modSrv_mem (c : Nat) (f : Srv → Srv) (s : State) : (s.modSrv c f).mem = s.mem := rfl
@[simp] theorem State.modSrv_per (c : Nat) (f : Srv → Srv) (s : State) : (s.modSrv c f).per = s.per := rfl
@[simp] theorem State.modSrv_gw (c : Nat) (f : Srv → Srv) (s : State) : (s.modSrv c f).gw = s.gw := rfl
@[simp] theorem State.modSrv_hp (c : Nat) (f : Srv → Srv) (s : State) : (s.modSrv c f).hp = s.hp := rfl
@[simp] theorem State.modSrv_reg (c : Nat) (f : Srv → Srv) (s : State) : (s.modSrv c f).reg = s.reg := rfl
@[simp] theorem State.modSrv_tap (c : Nat) (f : Srv → Srv) (s : State) : (s.modSrv c f).tap = s.tap := rfl
@[simp] theorem State.modSrv_byp (c : Nat) (f : Srv → Srv) (s : State) : (s.modSrv c f).byp = s.byp := rfl
@[simp] theorem State.modSrv_pending (c : Nat) (f : Srv → Srv) (s : State) : (s.modSrv c f).pending = s.pending := rfl

@[simp] theorem State.modDiv_ref (c : Nat) (f : Div → Div) (s : State) : (s.modDiv c f).ref = s.ref := rfl
@[simp] theorem State.modDiv_pps (c : Nat) (f : Div → Div) (s : State) : (s.modDiv c f).pps = s.pps := rfl
@[simp] theorem State.modDiv_ext (c : Nat) (f : Div → Div) (s : State) : (s.modDiv c f).ext = s.ext := rfl
@[simp] theorem State.modDiv_ts (c : Nat) (f : Div → Div) (s : State) : (s.modDiv c f).ts = s.ts := rfl
@[simp] theorem State.modDiv_latch (c : Nat) (f : Div → Div) (s : State) : (s.modDiv c f).latch = s.latch := rfl
@[simp] theorem State.modDiv_octs (c : Nat) (f : Div → Div) (s : State) : (s.modDiv c f).octs = s.octs := rfl
@[simp] theorem State.modDiv_dlls (c : Nat) (f : Div → Div) (s : State) : (s.modDiv c f).dlls = s.dlls := rfl
@[simp] theorem State.modDiv_engs (c : Nat) (f : Div → Div) (s : State) : (s.modDiv c f).engs = s.engs := rfl
@[simp] theorem State.modDiv_arr (c : Nat) (f : Div → Div) (s : State) : (s.modDiv c f).arr = s.arr := rfl
@[simp] theorem State.modDiv_cores (c : Nat) (f : Div → Div) (s : State) : (s.modDiv c f).cores = s.cores := rfl
@[simp] theorem State.modDiv_srcs (c : Nat) (f : Div → Div) (s : State) : (s.modDiv c f).srcs = s.srcs := rfl
@[simp] theorem State.modDiv_devq (c : Nat) (f : Div → Div) (s : State) : (s.modDiv c f).devq = s.devq := rfl
@[simp] theorem State.modDiv_iv (c : Nat) (f : Div → Div) (s : State) : (s.modDiv c f).iv = s.iv := rfl
@[simp] theorem State.modDiv_ring (c : Nat) (f : Div → Div) (s : State) : (s.modDiv c f).ring = s.ring := rfl
@[simp] theorem State.modDiv_rg (c : Nat) (f : Div → Div) (s : State) : (s.modDiv c f).rg = s.rg := rfl
@[simp] theorem State.modDiv_mbox (c : Nat) (f : Div → Div) (s : State) : (s.modDiv c f).mbox = s.mbox := rfl
@[simp] theorem State.modDiv_pwr (c : Nat) (f : Div → Div) (s : State) : (s.modDiv c f).pwr = s.pwr := rfl
@[simp] theorem State.modDiv_par (c : Nat) (f : Div → Div) (s : State) : (s.modDiv c f).par = s.par := rfl
@[simp] theorem State.modDiv_store (c : Nat) (f : Div → Div) (s : State) : (s.modDiv c f).store = s.store := rfl
@[simp] theorem State.modDiv_grat (c : Nat) (f : Div → Div) (s : State) : (s.modDiv c f).grat = s.grat := rfl
@[simp] theorem State.modDiv_flt (c : Nat) (f : Div → Div) (s : State) : (s.modDiv c f).flt = s.flt := rfl
@[simp] theorem State.modDiv_tests (c : Nat) (f : Div → Div) (s : State) : (s.modDiv c f).tests = s.tests := rfl
@[simp] theorem State.modDiv_cas (c : Nat) (f : Div → Div) (s : State) : (s.modDiv c f).cas = s.cas := rfl
@[simp] theorem State.modDiv_cal (c : Nat) (f : Div → Div) (s : State) : (s.modDiv c f).cal = s.cal := rfl
@[simp] theorem State.modDiv_otp (c : Nat) (f : Div → Div) (s : State) : (s.modDiv c f).otp = s.otp := rfl
@[simp] theorem State.modDiv_img (c : Nat) (f : Div → Div) (s : State) : (s.modDiv c f).img = s.img := rfl
@[simp] theorem State.modDiv_mem (c : Nat) (f : Div → Div) (s : State) : (s.modDiv c f).mem = s.mem := rfl
@[simp] theorem State.modDiv_per (c : Nat) (f : Div → Div) (s : State) : (s.modDiv c f).per = s.per := rfl
@[simp] theorem State.modDiv_gw (c : Nat) (f : Div → Div) (s : State) : (s.modDiv c f).gw = s.gw := rfl
@[simp] theorem State.modDiv_hp (c : Nat) (f : Div → Div) (s : State) : (s.modDiv c f).hp = s.hp := rfl
@[simp] theorem State.modDiv_reg (c : Nat) (f : Div → Div) (s : State) : (s.modDiv c f).reg = s.reg := rfl
@[simp] theorem State.modDiv_tap (c : Nat) (f : Div → Div) (s : State) : (s.modDiv c f).tap = s.tap := rfl
@[simp] theorem State.modDiv_byp (c : Nat) (f : Div → Div) (s : State) : (s.modDiv c f).byp = s.byp := rfl
@[simp] theorem State.modDiv_pending (c : Nat) (f : Div → Div) (s : State) : (s.modDiv c f).pending = s.pending := rfl

@[simp] theorem State.modCnt_ref (c : Nat) (f : ChCnt → ChCnt) (s : State) : (s.modCnt c f).ref = s.ref := rfl
@[simp] theorem State.modCnt_pps (c : Nat) (f : ChCnt → ChCnt) (s : State) : (s.modCnt c f).pps = s.pps := rfl
@[simp] theorem State.modCnt_ext (c : Nat) (f : ChCnt → ChCnt) (s : State) : (s.modCnt c f).ext = s.ext := rfl
@[simp] theorem State.modCnt_ts (c : Nat) (f : ChCnt → ChCnt) (s : State) : (s.modCnt c f).ts = s.ts := rfl
@[simp] theorem State.modCnt_latch (c : Nat) (f : ChCnt → ChCnt) (s : State) : (s.modCnt c f).latch = s.latch := rfl
@[simp] theorem State.modCnt_octs (c : Nat) (f : ChCnt → ChCnt) (s : State) : (s.modCnt c f).octs = s.octs := rfl
@[simp] theorem State.modCnt_dlls (c : Nat) (f : ChCnt → ChCnt) (s : State) : (s.modCnt c f).dlls = s.dlls := rfl
@[simp] theorem State.modCnt_engs (c : Nat) (f : ChCnt → ChCnt) (s : State) : (s.modCnt c f).engs = s.engs := rfl
@[simp] theorem State.modCnt_arr (c : Nat) (f : ChCnt → ChCnt) (s : State) : (s.modCnt c f).arr = s.arr := rfl
@[simp] theorem State.modCnt_cores (c : Nat) (f : ChCnt → ChCnt) (s : State) : (s.modCnt c f).cores = s.cores := rfl
@[simp] theorem State.modCnt_srcs (c : Nat) (f : ChCnt → ChCnt) (s : State) : (s.modCnt c f).srcs = s.srcs := rfl
@[simp] theorem State.modCnt_devq (c : Nat) (f : ChCnt → ChCnt) (s : State) : (s.modCnt c f).devq = s.devq := rfl
@[simp] theorem State.modCnt_iv (c : Nat) (f : ChCnt → ChCnt) (s : State) : (s.modCnt c f).iv = s.iv := rfl
@[simp] theorem State.modCnt_ring (c : Nat) (f : ChCnt → ChCnt) (s : State) : (s.modCnt c f).ring = s.ring := rfl
@[simp] theorem State.modCnt_rg (c : Nat) (f : ChCnt → ChCnt) (s : State) : (s.modCnt c f).rg = s.rg := rfl
@[simp] theorem State.modCnt_mbox (c : Nat) (f : ChCnt → ChCnt) (s : State) : (s.modCnt c f).mbox = s.mbox := rfl
@[simp] theorem State.modCnt_pwr (c : Nat) (f : ChCnt → ChCnt) (s : State) : (s.modCnt c f).pwr = s.pwr := rfl
@[simp] theorem State.modCnt_par (c : Nat) (f : ChCnt → ChCnt) (s : State) : (s.modCnt c f).par = s.par := rfl
@[simp] theorem State.modCnt_store (c : Nat) (f : ChCnt → ChCnt) (s : State) : (s.modCnt c f).store = s.store := rfl
@[simp] theorem State.modCnt_grat (c : Nat) (f : ChCnt → ChCnt) (s : State) : (s.modCnt c f).grat = s.grat := rfl
@[simp] theorem State.modCnt_flt (c : Nat) (f : ChCnt → ChCnt) (s : State) : (s.modCnt c f).flt = s.flt := rfl
@[simp] theorem State.modCnt_tests (c : Nat) (f : ChCnt → ChCnt) (s : State) : (s.modCnt c f).tests = s.tests := rfl
@[simp] theorem State.modCnt_cas (c : Nat) (f : ChCnt → ChCnt) (s : State) : (s.modCnt c f).cas = s.cas := rfl
@[simp] theorem State.modCnt_cal (c : Nat) (f : ChCnt → ChCnt) (s : State) : (s.modCnt c f).cal = s.cal := rfl
@[simp] theorem State.modCnt_otp (c : Nat) (f : ChCnt → ChCnt) (s : State) : (s.modCnt c f).otp = s.otp := rfl
@[simp] theorem State.modCnt_img (c : Nat) (f : ChCnt → ChCnt) (s : State) : (s.modCnt c f).img = s.img := rfl
@[simp] theorem State.modCnt_mem (c : Nat) (f : ChCnt → ChCnt) (s : State) : (s.modCnt c f).mem = s.mem := rfl
@[simp] theorem State.modCnt_per (c : Nat) (f : ChCnt → ChCnt) (s : State) : (s.modCnt c f).per = s.per := rfl
@[simp] theorem State.modCnt_gw (c : Nat) (f : ChCnt → ChCnt) (s : State) : (s.modCnt c f).gw = s.gw := rfl
@[simp] theorem State.modCnt_hp (c : Nat) (f : ChCnt → ChCnt) (s : State) : (s.modCnt c f).hp = s.hp := rfl
@[simp] theorem State.modCnt_reg (c : Nat) (f : ChCnt → ChCnt) (s : State) : (s.modCnt c f).reg = s.reg := rfl
@[simp] theorem State.modCnt_tap (c : Nat) (f : ChCnt → ChCnt) (s : State) : (s.modCnt c f).tap = s.tap := rfl
@[simp] theorem State.modCnt_byp (c : Nat) (f : ChCnt → ChCnt) (s : State) : (s.modCnt c f).byp = s.byp := rfl
@[simp] theorem State.modCnt_pending (c : Nat) (f : ChCnt → ChCnt) (s : State) : (s.modCnt c f).pending = s.pending := rfl

@[simp] theorem State.modDoor_door (n : Nat) (f : Door → Door) (s : State) : (s.modDoor n f).door n = f (s.door n) := by
  simp [State.door, State.modDoor, State.modMbox]
theorem State.modDoor_door_ne (n : Nat) (f : Door → Door) (s : State) (m : Nat) (h : m ≠ n) : (s.modDoor n f).door m = s.door m := by
  simp [State.door, State.modDoor, State.modMbox, Tab.get_put_ne _ _ h]
@[simp] theorem State.modPair_pair (p : Nat) (f : Pair → Pair) (s : State) : (s.modPair p f).pair p = f (s.pair p) := by
  simp [State.pair, State.modPair, State.modIv]
@[simp] theorem State.modSlot_rgSlot (i : Nat) (f : RgSlot → RgSlot) (s : State) : (s.modSlot i f).rgSlot i = f (s.rgSlot i) := by
  simp [State.rgSlot, State.modSlot, State.modRg]
@[simp] theorem State.modGwi_gwi (i : Nat) (f : GwInst → GwInst) (s : State) : (s.modGwi i f).gwi i = f (s.gwi i) := by
  simp [State.gwi, State.modGwi, State.modGw]
@[simp] theorem State.modTsSrv_ts (f : TsSrv → TsSrv) (s : State) : (s.modTsSrv f).ts = { s.ts with srv := f s.ts.srv } := rfl
@[simp] theorem State.modTsTrav_ts (f : Trav → Trav) (s : State) : (s.modTsTrav f).ts = { s.ts with trav := f s.ts.trav } := rfl
@[simp] theorem State.modLoop_oct (k : Nat) (f : Loop → Loop) (s : State) : (s.modLoop k f).oct k = { s.oct k with loop := f (s.oct k).loop } :=
  State.modOct_oct k _ s
@[simp] theorem State.modTrav_chan (c : Nat) (f : Trav → Trav) (s : State) : (s.modTrav c f).chan c = { s.chan c with trav := f (s.chan c).trav } :=
  State.modChan_chan c _ s
@[simp] theorem State.modSrv_chan (c : Nat) (f : Srv → Srv) (s : State) : (s.modSrv c f).chan c = { s.chan c with srv := f (s.chan c).srv } :=
  State.modChan_chan c _ s
@[simp] theorem State.modDiv_chan (c : Nat) (f : Div → Div) (s : State) : (s.modDiv c f).chan c = { s.chan c with div := f (s.chan c).div } :=
  State.modChan_chan c _ s
@[simp] theorem State.modCnt_chan (c : Nat) (f : ChCnt → ChCnt) (s : State) : (s.modCnt c f).chan c = { s.chan c with cnt := f (s.chan c).cnt } :=
  State.modChan_chan c _ s

end Machine
end Sys2Proof
end

