-- ==== Sys2Proof/Laws/FrameBase.lean ====
section
/-!
SUPPORT. Frames: what each operation leaves unchanged, said once per operation, so that no later proof unfolds it.
-/
namespace Sys2Proof.Machine

theorem Only.refl (l : List Part) (s : State) : Only l s s := rfl
theorem Only.trans {l : List Part} {s t u : State} (h : Only l s t) (g : Only l t u) : Only l s u := Eq.trans g h

theorem Only.byp {l : List Part} {s t : State} (h : Only l s t) (hl : Part.byp ∉ l) : t.byp = s.byp := by
  have h := congrArg State.byp h
  simpa [State.outside, hl] using h
theorem Only.ref {l : List Part} {s t : State} (h : Only l s t) (hl : Part.ref ∉ l) : t.ref = s.ref := by
  have h := congrArg State.ref h
  simpa [State.outside, hl] using h
theorem Only.pps {l : List Part} {s t : State} (h : Only l s t) (hl : Part.pps ∉ l) : t.pps = s.pps := by
  have h := congrArg State.pps h
  simpa [State.outside, hl] using h
theorem Only.ext {l : List Part} {s t : State} (h : Only l s t) (hl : Part.ext ∉ l) : t.ext = s.ext := by
  have h := congrArg State.ext h
  simpa [State.outside, hl] using h
theorem Only.ts {l : List Part} {s t : State} (h : Only l s t) (hl : Part.ts ∉ l) : t.ts = s.ts := by
  have h := congrArg State.ts h
  simpa [State.outside, hl] using h
theorem Only.latch {l : List Part} {s t : State} (h : Only l s t) (hl : Part.latch ∉ l) : t.latch = s.latch := by
  have h := congrArg State.latch h
  simpa [State.outside, hl] using h
theorem Only.chans {l : List Part} {s t : State} (h : Only l s t) (hl : Part.chans ∉ l) : t.chans = s.chans := by
  have h := congrArg State.chans h
  simpa [State.outside, hl] using h
theorem Only.octs {l : List Part} {s t : State} (h : Only l s t) (hl : Part.octs ∉ l) : t.octs = s.octs := by
  have h := congrArg State.octs h
  simpa [State.outside, hl] using h
theorem Only.dlls {l : List Part} {s t : State} (h : Only l s t) (hl : Part.dlls ∉ l) : t.dlls = s.dlls := by
  have h := congrArg State.dlls h
  simpa [State.outside, hl] using h
theorem Only.engs {l : List Part} {s t : State} (h : Only l s t) (hl : Part.engs ∉ l) : t.engs = s.engs := by
  have h := congrArg State.engs h
  simpa [State.outside, hl] using h
theorem Only.arr {l : List Part} {s t : State} (h : Only l s t) (hl : Part.arr ∉ l) : t.arr = s.arr := by
  have h := congrArg State.arr h
  simpa [State.outside, hl] using h
theorem Only.cores {l : List Part} {s t : State} (h : Only l s t) (hl : Part.cores ∉ l) : t.cores = s.cores := by
  have h := congrArg State.cores h
  simpa [State.outside, hl] using h
theorem Only.srcs {l : List Part} {s t : State} (h : Only l s t) (hl : Part.srcs ∉ l) : t.srcs = s.srcs := by
  have h := congrArg State.srcs h
  simpa [State.outside, hl] using h
theorem Only.devq {l : List Part} {s t : State} (h : Only l s t) (hl : Part.devq ∉ l) : t.devq = s.devq := by
  have h := congrArg State.devq h
  simpa [State.outside, hl] using h
theorem Only.iv {l : List Part} {s t : State} (h : Only l s t) (hl : Part.iv ∉ l) : t.iv = s.iv := by
  have h := congrArg State.iv h
  simpa [State.outside, hl] using h
theorem Only.ring {l : List Part} {s t : State} (h : Only l s t) (hl : Part.ring ∉ l) : t.ring = s.ring := by
  have h := congrArg State.ring h
  simpa [State.outside, hl] using h
theorem Only.rg {l : List Part} {s t : State} (h : Only l s t) (hl : Part.rg ∉ l) : t.rg = s.rg := by
  have h := congrArg State.rg h
  simpa [State.outside, hl] using h
theorem Only.mbox {l : List Part} {s t : State} (h : Only l s t) (hl : Part.mbox ∉ l) : t.mbox = s.mbox := by
  have h := congrArg State.mbox h
  simpa [State.outside, hl] using h
theorem Only.pwr {l : List Part} {s t : State} (h : Only l s t) (hl : Part.pwr ∉ l) : t.pwr = s.pwr := by
  have h := congrArg State.pwr h
  simpa [State.outside, hl] using h
theorem Only.par {l : List Part} {s t : State} (h : Only l s t) (hl : Part.par ∉ l) : t.par = s.par := by
  have h := congrArg State.par h
  simpa [State.outside, hl] using h
theorem Only.grat {l : List Part} {s t : State} (h : Only l s t) (hl : Part.grat ∉ l) : t.grat = s.grat := by
  have h := congrArg State.grat h
  simpa [State.outside, hl] using h
theorem Only.flt {l : List Part} {s t : State} (h : Only l s t) (hl : Part.flt ∉ l) : t.flt = s.flt := by
  have h := congrArg State.flt h
  simpa [State.outside, hl] using h
theorem Only.tests {l : List Part} {s t : State} (h : Only l s t) (hl : Part.tests ∉ l) : t.tests = s.tests := by
  have h := congrArg State.tests h
  simpa [State.outside, hl] using h
theorem Only.cas {l : List Part} {s t : State} (h : Only l s t) (hl : Part.cas ∉ l) : t.cas = s.cas := by
  have h := congrArg State.cas h
  simpa [State.outside, hl] using h
theorem Only.cal {l : List Part} {s t : State} (h : Only l s t) (hl : Part.cal ∉ l) : t.cal = s.cal := by
  have h := congrArg State.cal h
  simpa [State.outside, hl] using h
theorem Only.otp {l : List Part} {s t : State} (h : Only l s t) (hl : Part.otp ∉ l) : t.otp = s.otp := by
  have h := congrArg State.otp h
  simpa [State.outside, hl] using h
theorem Only.img {l : List Part} {s t : State} (h : Only l s t) (hl : Part.img ∉ l) : t.img = s.img := by
  have h := congrArg State.img h
  simpa [State.outside, hl] using h
theorem Only.mem {l : List Part} {s t : State} (h : Only l s t) (hl : Part.mem ∉ l) : t.mem = s.mem := by
  have h := congrArg State.mem h
  simpa [State.outside, hl] using h
theorem Only.per {l : List Part} {s t : State} (h : Only l s t) (hl : Part.per ∉ l) : t.per = s.per := by
  have h := congrArg State.per h
  simpa [State.outside, hl] using h
theorem Only.gw {l : List Part} {s t : State} (h : Only l s t) (hl : Part.gw ∉ l) : t.gw = s.gw := by
  have h := congrArg State.gw h
  simpa [State.outside, hl] using h
theorem Only.hp {l : List Part} {s t : State} (h : Only l s t) (hl : Part.hp ∉ l) : t.hp = s.hp := by
  have h := congrArg State.hp h
  simpa [State.outside, hl] using h
theorem Only.reg {l : List Part} {s t : State} (h : Only l s t) (hl : Part.reg ∉ l) : t.reg = s.reg := by
  have h := congrArg State.reg h
  simpa [State.outside, hl] using h
theorem Only.tap {l : List Part} {s t : State} (h : Only l s t) (hl : Part.tap ∉ l) : t.tap = s.tap := by
  have h := congrArg State.tap h
  simpa [State.outside, hl] using h
theorem Only.pending {l : List Part} {s t : State} (h : Only l s t) (hl : Part.pending ∉ l) : t.pending = s.pending := by
  have h := congrArg State.pending h
  simpa [State.outside, hl] using h
theorem Only.store {l : List Part} {s t : State} (h : Only l s t) (hl : Part.store ∉ l) (hf : Part.flash ∉ l) : t.store = s.store := by
  have h := congrArg State.store h
  simp only [State.outside, hl, hf, if_false] at h
  calc t.store = { t.store with flash := t.store.flash } := rfl
    _ = { s.store with flash := s.store.flash } := h
    _ = s.store := rfl
theorem Only.flash {l : List Part} {s t : State} (h : Only l s t) (hf : Part.flash ∉ l) : t.store.flash = s.store.flash := by
  have h := congrArg (fun s : State => s.store.flash) h
  simpa [State.outside, hf] using h

@[simp] theorem State.modByp_outside {l : List Part} (f : BypS → BypS) (s : State) (h : Part.byp ∈ l) :
    (s.modByp f).outside l = s.outside l := by
  simp [State.modByp, State.outside, h]
@[simp] theorem State.modRef_outside {l : List Part} (f : RefS → RefS) (s : State) (h : Part.ref ∈ l) :
    (s.modRef f).outside l = s.outside l := by
  simp [State.modRef, State.outside, h]
@[simp] theorem State.modPps_outside {l : List Part} (f : PpsS → PpsS) (s : State) (h : Part.pps ∈ l) :
    (s.modPps f).outside l = s.outside l := by
  simp [State.modPps, State.outside, h]
@[simp] theorem State.modExt_outside {l : List Part} (f : ExtS → ExtS) (s : State) (h : Part.ext ∈ l) :
    (s.modExt f).outside l = s.outside l := by
  simp [State.modExt, State.outside, h]
@[simp] theorem State.modTs_outside {l : List Part} (f : TsS → TsS) (s : State) (h : Part.ts ∈ l) :
    (s.modTs f).outside l = s.outside l := by
  simp [State.modTs, State.outside, h]
@[simp] theorem State.modArr_outside {l : List Part} (f : EngArr → EngArr) (s : State) (h : Part.arr ∈ l) :
    (s.modArr f).outside l = s.outside l := by
  simp [State.modArr, State.outside, h]
@[simp] theorem State.modDevq_outside {l : List Part} (f : DevQ → DevQ) (s : State) (h : Part.devq ∈ l) :
    (s.modDevq f).outside l = s.outside l := by
  simp [State.modDevq, State.outside, h]
@[simp] theorem State.modIv_outside {l : List Part} (f : IvS → IvS) (s : State) (h : Part.iv ∈ l) :
    (s.modIv f).outside l = s.outside l := by
  simp [State.modIv, State.outside, h]
@[simp] theorem State.modRing_outside {l : List Part} (f : RingS → RingS) (s : State) (h : Part.ring ∈ l) :
    (s.modRing f).outside l = s.outside l := by
  simp [State.modRing, State.outside, h]
@[simp] theorem State.modRg_outside {l : List Part} (f : RgS → RgS) (s : State) (h : Part.rg ∈ l) :
    (s.modRg f).outside l = s.outside l := by
  simp [State.modRg, State.outside, h]
@[simp] theorem State.modMbox_outside {l : List Part} (f : MboxS → MboxS) (s : State) (h : Part.mbox ∈ l) :
    (s.modMbox f).outside l = s.outside l := by
  simp [State.modMbox, State.outside, h]
@[simp] theorem State.modPwr_outside {l : List Part} (f : PwrS → PwrS) (s : State) (h : Part.pwr ∈ l) :
    (s.modPwr f).outside l = s.outside l := by
  simp [State.modPwr, State.outside, h]
@[simp] theorem State.modPar_outside {l : List Part} (f : ParS → ParS) (s : State) (h : Part.par ∈ l) :
    (s.modPar f).outside l = s.outside l := by
  simp [State.modPar, State.outside, h]
@[simp] theorem State.modStore_outside {l : List Part} (f : StoreS → StoreS) (s : State) (h : Part.store ∈ l) (hf : ∀ d, (f d).flash = d.flash) :
    (s.modStore f).outside l = s.outside l := by
  simp [State.modStore, State.outside, h, hf]
@[simp] theorem State.modStore_outside_flash {l : List Part} (f : StoreS → StoreS) (s : State) (h : Part.store ∈ l) (hf : Part.flash ∈ l) :
    (s.modStore f).outside l = s.outside l := by
  simp [State.modStore, State.outside, h, hf]
@[simp] theorem State.modGrat_outside {l : List Part} (f : GratS → GratS) (s : State) (h : Part.grat ∈ l) :
    (s.modGrat f).outside l = s.outside l := by
  simp [State.modGrat, State.outside, h]
@[simp] theorem State.modOtp_outside {l : List Part} (f : OtpS → OtpS) (s : State) (h : Part.otp ∈ l) :
    (s.modOtp f).outside l = s.outside l := by
  simp [State.modOtp, State.outside, h]
@[simp] theorem State.modMem_outside {l : List Part} (f : MemS → MemS) (s : State) (h : Part.mem ∈ l) :
    (s.modMem f).outside l = s.outside l := by
  simp [State.modMem, State.outside, h]
@[simp] theorem State.modPer_outside {l : List Part} (f : PerS → PerS) (s : State) (h : Part.per ∈ l) :
    (s.modPer f).outside l = s.outside l := by
  simp [State.modPer, State.outside, h]
@[simp] theorem State.modGw_outside {l : List Part} (f : GwS → GwS) (s : State) (h : Part.gw ∈ l) :
    (s.modGw f).outside l = s.outside l := by
  simp [State.modGw, State.outside, h]
@[simp] theorem State.modHp_outside {l : List Part} (f : HpS → HpS) (s : State) (h : Part.hp ∈ l) :
    (s.modHp f).outside l = s.outside l := by
  simp [State.modHp, State.outside, h]
@[simp] theorem State.modReg_outside {l : List Part} (f : RegS → RegS) (s : State) (h : Part.reg ∈ l) :
    (s.modReg f).outside l = s.outside l := by
  simp [State.modReg, State.outside, h]
@[simp] theorem State.modCal_outside {l : List Part} (f : CalS → CalS) (s : State) (h : Part.cal ∈ l) :
    (s.modCal f).outside l = s.outside l := by
  simp [State.modCal, State.outside, h]
@[simp] theorem State.modCas_outside {l : List Part} (f : CasS → CasS) (s : State) (h : Part.cas ∈ l) :
    (s.modCas f).outside l = s.outside l := by
  simp [State.modCas, State.outside, h]
@[simp] theorem State.modChan_outside {l : List Part} (c : Nat) (f : Chan → Chan) (s : State) (h : Part.chans ∈ l) :
    (s.modChan c f).outside l = s.outside l := by
  simp [State.modChan, State.outside, h]
@[simp] theorem State.modOct_outside {l : List Part} (k : Nat) (f : Oct → Oct) (s : State) (h : Part.octs ∈ l) :
    (s.modOct k f).outside l = s.outside l := by
  simp [State.modOct, State.outside, h]
@[simp] theorem State.modEng_outside {l : List Part} (e : Nat) (f : Eng → Eng) (s : State) (h : Part.engs ∈ l) :
    (s.modEng e f).outside l = s.outside l := by
  simp [State.modEng, State.outside, h]
@[simp] theorem State.modCore_outside {l : List Part} (i : Nat) (f : Core → Core) (s : State) (h : Part.cores ∈ l) :
    (s.modCore i f).outside l = s.outside l := by
  simp [State.modCore, State.outside, h]
@[simp] theorem State.modSrc_outside {l : List Part} (i : Nat) (f : SrcS → SrcS) (s : State) (h : Part.srcs ∈ l) :
    (s.modSrc i f).outside l = s.outside l := by
  simp [State.modSrc, State.outside, h]
@[simp] theorem State.modDll_outside {l : List Part} (i : Nat) (f : Dll → Dll) (s : State) (h : Part.dlls ∈ l) :
    (s.modDll i f).outside l = s.outside l := by
  simp [State.modDll, State.outside, h]
@[simp] theorem State.modDoor_outside {l : List Part} (n : Nat) (f : Door → Door) (s : State) (h : Part.mbox ∈ l) :
    (s.modDoor n f).outside l = s.outside l := by
  simp [State.modDoor, h]
@[simp] theorem State.modPair_outside {l : List Part} (p : Nat) (f : Pair → Pair) (s : State) (h : Part.iv ∈ l) :
    (s.modPair p f).outside l = s.outside l := by
  simp [State.modPair, h]
@[simp] theorem State.modGwi_outside {l : List Part} (i : Nat) (f : GwInst → GwInst) (s : State) (h : Part.gw ∈ l) :
    (s.modGwi i f).outside l = s.outside l := by
  simp [State.modGwi, h]
@[simp] theorem State.modSlot_outside {l : List Part} (i : Nat) (f : RgSlot → RgSlot) (s : State) (h : Part.rg ∈ l) :
    (s.modSlot i f).outside l = s.outside l := by
  simp [State.modSlot, h]
@[simp] theorem State.modLoop_outside {l : List Part} (k : Nat) (f : Loop → Loop) (s : State) (h : Part.octs ∈ l) :
    (s.modLoop k f).outside l = s.outside l := by
  simp [State.modLoop, h]
@[simp] theorem State.modTsSrv_outside {l : List Part} (f : TsSrv → TsSrv) (s : State) (h : Part.ts ∈ l) :
    (s.modTsSrv f).outside l = s.outside l := by
  simp [State.modTsSrv, h]
@[simp] theorem State.modTsTrav_outside {l : List Part} (f : Trav → Trav) (s : State) (h : Part.ts ∈ l) :
    (s.modTsTrav f).outside l = s.outside l := by
  simp [State.modTsTrav, h]
@[simp] theorem State.modTrav_outside {l : List Part} (c : Nat) (f : Trav → Trav) (s : State) (h : Part.chans ∈ l) :
    (s.modTrav c f).outside l = s.outside l := by
  simp [State.modTrav, h]
@[simp] theorem State.modSrv_outside {l : List Part} (c : Nat) (f : Srv → Srv) (s : State) (h : Part.chans ∈ l) :
    (s.modSrv c f).outside l = s.outside l := by
  simp [State.modSrv, h]
@[simp] theorem State.modDiv_outside {l : List Part} (c : Nat) (f : Div → Div) (s : State) (h : Part.chans ∈ l) :
    (s.modDiv c f).outside l = s.outside l := by
  simp [State.modDiv, h]
@[simp] theorem State.modCnt_outside {l : List Part} (c : Nat) (f : ChCnt → ChCnt) (s : State) (h : Part.chans ∈ l) :
    (s.modCnt c f).outside l = s.outside l := by
  simp [State.modCnt, h]

@[simp ↓] theorem State.set_latch_outside {l : List Part} (x : Tab W128) (s : State) (h : Part.latch ∈ l) :
    State.outside l { s with latch := x } = s.outside l := by
  simp [State.outside, h]
@[simp ↓] theorem State.set_chans_outside {l : List Part} (x : Tab Chan) (s : State) (h : Part.chans ∈ l) :
    State.outside l { s with chans := x } = s.outside l := by
  simp [State.outside, h]
@[simp ↓] theorem State.set_octs_outside {l : List Part} (x : Tab Oct) (s : State) (h : Part.octs ∈ l) :
    State.outside l { s with octs := x } = s.outside l := by
  simp [State.outside, h]
@[simp ↓] theorem State.set_engs_outside {l : List Part} (x : Tab Eng) (s : State) (h : Part.engs ∈ l) :
    State.outside l { s with engs := x } = s.outside l := by
  simp [State.outside, h]
@[simp ↓] theorem State.set_cores_outside {l : List Part} (x : Tab Core) (s : State) (h : Part.cores ∈ l) :
    State.outside l { s with cores := x } = s.outside l := by
  simp [State.outside, h]
@[simp ↓] theorem State.set_dlls_outside {l : List Part} (x : Tab Dll) (s : State) (h : Part.dlls ∈ l) :
    State.outside l { s with dlls := x } = s.outside l := by
  simp [State.outside, h]
@[simp ↓] theorem State.set_srcs_outside {l : List Part} (x : Tab SrcS) (s : State) (h : Part.srcs ∈ l) :
    State.outside l { s with srcs := x } = s.outside l := by
  simp [State.outside, h]
@[simp ↓] theorem State.set_flt_outside {l : List Part} (x : List (Nat × Nat × Nat × Nat)) (s : State) (h : Part.flt ∈ l) :
    State.outside l { s with flt := x } = s.outside l := by
  simp [State.outside, h]
@[simp ↓] theorem State.set_tests_outside {l : List Part} (x : List TestRun) (s : State) (h : Part.tests ∈ l) :
    State.outside l { s with tests := x } = s.outside l := by
  simp [State.outside, h]
@[simp ↓] theorem State.set_img_outside {l : List Part} (x : Option Img) (s : State) (h : Part.img ∈ l) :
    State.outside l { s with img := x } = s.outside l := by
  simp [State.outside, h]
@[simp ↓] theorem State.set_tap_outside {l : List Part} (x : Tap) (s : State) (h : Part.tap ∈ l) :
    State.outside l { s with tap := x } = s.outside l := by
  simp [State.outside, h]

/-- A fold over a list leaves what each of its steps leaves. -/
@[simp] theorem forAll_outside {α : Type} {l : List Part} (xs : List α) (f : α → State → State) (s : State)
    (h : ∀ a s, (f a s).outside l = s.outside l) : (forAll xs f s).outside l = s.outside l := by
  induction xs generalizing s with
  | nil => rfl
  | cons a xs ih => exact (ih (f a s)).trans (h a s)
@[simp] theorem foldl_outside {α : Type} {l : List Part} (xs : List α) (f : State → α → State) (s : State)
    (h : ∀ s a, (f s a).outside l = s.outside l) : (xs.foldl f s).outside l = s.outside l := by
  induction xs generalizing s with
  | nil => rfl
  | cons a xs ih => exact (ih (f s a)).trans (h s a)
/-- A conditional leaves what both of its branches leave. -/
@[simp] theorem ite_outside {l : List Part} (c : Prop) [Decidable c] (a b : State) :
    (if c then a else b).outside l = if c then a.outside l else b.outside l := by
  split <;> rfl

end Sys2Proof.Machine
end

