-- ==== Sys2Proof/Laws/FrameOps.lean ====
section
/-!
SUPPORT. Frames of the operations of Machine/Ops.lean: `X_outside` says which parts an operation can change, `X_only` the same of a
command's meaning.
-/
namespace Sys2Proof.Machine
@[simp] theorem State.setPwr_outside {ps : List Part} (d : Nat) (b : Bool) (s : State) (hPwr : Part.pwr ∈ ps) : (State.setPwr d b s).outside ps = s.outside ps := by
  simp [State.setPwr, *]
@[simp] theorem State.setIso_outside {ps : List Part} (d : Nat) (b : Bool) (s : State) (hPwr : Part.pwr ∈ ps) : (State.setIso d b s).outside ps = s.outside ps := by
  simp [State.setIso, *]
@[simp] theorem State.devEv_outside {ps : List Part} (b : Nat) (s : State) (hPwr : Part.pwr ∈ ps) : (State.devEv b s).outside ps = s.outside ps := by
  simp [State.devEv, *]
@[simp] theorem State.tsEv_outside {ps : List Part} (b : Nat) (s : State) (hTs : Part.ts ∈ ps) : (State.tsEv b s).outside ps = s.outside ps := by
  simp [State.tsEv, *]
@[simp] theorem State.refEv_outside {ps : List Part} (b : Nat) (s : State) (hRef : Part.ref ∈ ps) : (State.refEv b s).outside ps = s.outside ps := by
  simp [State.refEv, *]
@[simp] theorem State.mlEv_outside {ps : List Part} (k b : Nat) (s : State) (hOcts : Part.octs ∈ ps) : (State.mlEv k b s).outside ps = s.outside ps := by
  simp [State.mlEv, *]
@[simp] theorem State.engEv_outside {ps : List Part} (e b : Nat) (s : State) (hOcts : Part.octs ∈ ps) : (State.engEv e b s).outside ps = s.outside ps := by
  simp [State.engEv, *]
@[simp] theorem State.count_outside {ps : List Part} (c i : Nat) (s : State) (hChans : Part.chans ∈ ps) : (State.count c i s).outside ps = s.outside ps := by
  simp [State.count, *]
@[simp] theorem State.pump6_outside {ps : List Part} (s : State) (hMbox : Part.mbox ∈ ps) : (State.pump6 s).outside ps = s.outside ps := by
  unfold State.pump6
  dsimp only
  repeat' (first | with_reducible rfl | (simp [*]; done) | (simp [State.outside, *]; done) | (with_reducible refine (forAll_outside _ _ _ ?_).trans ?_) | (with_reducible refine (foldl_outside _ _ _ ?_).trans ?_) | split | (intro _))
@[simp] theorem State.post_outside {ps : List Part} (e : Event) (s : State) (hMbox : Part.mbox ∈ ps) : (State.post e s).outside ps = s.outside ps := by
  simp [State.post, *]
@[simp] theorem State.chEvent_outside {ps : List Part} (c kind reason : Nat) (s : State) (hMbox : Part.mbox ∈ ps) : (State.chEvent c kind reason s).outside ps = s.outside ps := by
  simp [State.chEvent, *]
@[simp] theorem State.faultEvent_outside {ps : List Part} (kind unit fault n : Nat) (s : State) (hMbox : Part.mbox ∈ ps) : (State.faultEvent kind unit fault n s).outside ps = s.outside ps := by
  simp [State.faultEvent, *]
@[simp] theorem State.fault_outside {ps : List Part} (kind unit fault : Nat) (s : State) (hMbox : Part.mbox ∈ ps) (hFlt : Part.flt ∈ ps) :
    (s.fault kind unit fault).outside ps = s.outside ps := by
  simp only [State.fault]
  rw [State.faultEvent_outside _ _ _ _ _ hMbox]
  simp [State.outside, hFlt]
@[simp] theorem State.eccCorr_outside {ps : List Part} (ws : List Nat) (s : State) (hMbox : Part.mbox ∈ ps) (hStore : Part.store ∈ ps) (hFlt : Part.flt ∈ ps) : (State.eccCorr ws s).outside ps = s.outside ps := by
  simp [State.eccCorr, *]
@[simp] theorem State.setLatch_outside {ps : List Part} (l : Nat) (w : W128) (s : State) (hLatch : Part.latch ∈ ps) : (State.setLatch l w s).outside ps = s.outside ps := by
  simp [State.setLatch, State.outside, *]
@[simp] theorem State.latchTime_outside {ps : List Part} (l t : Nat) (s : State) (hLatch : Part.latch ∈ ps) : (State.latchTime l t s).outside ps = s.outside ps := by
  simp [State.latchTime, *]
@[simp] theorem State.setMode_outside {ps : List Part} (m : Mode) (s : State) (hPwr : Part.pwr ∈ ps) : (State.setMode m s).outside ps = s.outside ps := by
  simp [State.setMode, *]
@[simp] theorem State.reply_outside {ps : List Part} (h : Hdr) (cmd : Nat) (r : Rep) (s : State) (hMbox : Part.mbox ∈ ps) : (State.reply h cmd r s).outside ps = s.outside ps := by
  simp [State.reply, *]
@[simp] theorem State.replyTo_outside {ps : List Part} (h : Option Hdr) (cmd : Nat) (r : Rep) (s : State) (hMbox : Part.mbox ∈ ps) : (State.replyTo h cmd r s).outside ps = s.outside ps := by
  unfold State.replyTo
  split <;> simp [*]
@[simp] theorem State.viaDoor_outside {ps : List Part} (h : Hdr) (cmd : Nat) (op : State → State) (s : State) (hMbox : Part.mbox ∈ ps) (h_op : ∀ s, (op s).outside ps = s.outside ps) : (State.viaDoor h cmd op s).outside ps = s.outside ps := by
  unfold State.viaDoor
  dsimp only
  repeat' (first | with_reducible rfl | (simp [*]; done) | split)
@[simp] theorem State.commit_outside {ps : List Part} (h : Option Hdr) (cmd : Nat) (c : Change) (s : State) (hStore : Part.store ∈ ps) : (State.commit h cmd c s).outside ps = s.outside ps := by
  simp [State.commit, *]
end Sys2Proof.Machine
end

