-- ==== Sys2Proof/Laws/FrameStreams.lean ====
section
/-!
SUPPORT. Frames of the operations of Machine/Streams.lean: `X_outside` says which parts an operation can change, `X_only` the same of a
command's meaning.
-/
namespace Sys2Proof.Machine
@[simp] theorem State.putBlock_outside {ps : List Part} (n : Nat) (s : State) (hMbox : Part.mbox ∈ ps) : (State.putBlock n s).outside ps = s.outside ps := by
  unfold State.putBlock
  split <;> simp [*]
@[simp] theorem State.openOut_outside {ps : List Part} (h : Hdr) (cmd bd : Nat) (data : List W128) (s : State) (hMbox : Part.mbox ∈ ps) : (State.openOut h cmd bd data s).outside ps = s.outside ps := by
  simp [State.openOut, *]
@[simp] theorem State.openIn_outside {ps : List Part} (h : Hdr) (cmd bd len : Nat) (s : State) (hMbox : Part.mbox ∈ ps) : (State.openIn h cmd bd len s).outside ps = s.outside ps := by
  simp [State.openIn, *]
@[simp] theorem State.closeStream_outside {ps : List Part} (e : Err) (bd : Nat) (s : State) (hMbox : Part.mbox ∈ ps) : (State.closeStream e bd s).outside ps = s.outside ps := by
  unfold State.closeStream
  split <;> simp [*]
end Sys2Proof.Machine
end

