-- ==== Sys2Proof/Laws/FrameInterval.lean ====
section
/-!
SUPPORT. Frames of the operations of Machine/Interval.lean: `X_outside` says which parts an operation can change, `X_only` the same of a
command's meaning.
-/
namespace Sys2Proof.Machine
@[simp] theorem State.ivConfig_outside {ps : List Part} (p : Nat) (s : State) (hIv : Part.iv ∈ ps) : (State.ivConfig p s).outside ps = s.outside ps := by
  simp [State.ivConfig, *]
@[simp] theorem State.ivPush_outside {ps : List Part} (w : W128 × W128) (s : State) (hDevq : Part.devq ∈ ps) (hIv : Part.iv ∈ ps) : (State.ivPush w s).outside ps = s.outside ps := by
  simp [State.ivPush, *]
@[simp] theorem State.ivEmit_outside {ps : List Part} (p : Nat) (a : Rec × Bool) (b : Option (Rec × Bool)) (s : State) (hDevq : Part.devq ∈ ps) (hIv : Part.iv ∈ ps) : (State.ivEmit p a b s).outside ps = s.outside ps := by
  simp [State.ivEmit, *]
@[simp] theorem State.ivLate_outside {ps : List Part} (p : Nat) (a : Rec × Bool) (s : State) (hDevq : Part.devq ∈ ps) (hIv : Part.iv ∈ ps) : (State.ivLate p a s).outside ps = s.outside ps := by
  simp [State.ivLate, *]
@[simp] theorem State.ivOrdered_outside {ps : List Part} (p : Nat) (r : Rec × Bool) (s : State) (hDevq : Part.devq ∈ ps) (hIv : Part.iv ∈ ps) : (State.ivOrdered p r s).outside ps = s.outside ps := by
  unfold State.ivOrdered
  dsimp only
  repeat' (first | with_reducible rfl | (simp [*]; done) | split)
@[simp] theorem State.ivSigned_outside {ps : List Part} (p : Nat) (r : Rec × Bool) (s : State) (hIv : Part.iv ∈ ps) : (State.ivSigned p r s).outside ps = s.outside ps := by
  simp [State.ivSigned, *]
@[simp] theorem State.ivTake_outside {ps : List Part} (p : Nat) (r : Rec × Bool) (s : State) (hDevq : Part.devq ∈ ps) (hIv : Part.iv ∈ ps) : (State.ivTake p r s).outside ps = s.outside ps := by
  unfold State.ivTake
  split <;> simp [*]
@[simp] theorem State.ivNext_outside {ps : List Part} (p : Nat) (due : Nat → Bool) (s : State) (hDevq : Part.devq ∈ ps) (hIv : Part.iv ∈ ps) : (State.ivNext p due s).outside ps = s.outside ps := by
  unfold State.ivNext
  split <;> simp [*]
theorem execIvRecordProcess_only (p : Fin 16) (s : State) (s' : State) (hs : execIvRecordProcess p s = .next s') : Only [.devq, .iv] s s' := by
  unfold execIvRecordProcess at hs
  repeat' split at hs
  all_goals (cases hs; simp [Only])
@[simp] theorem State.ivDrain_outside {ps : List Part} (p t : Nat) (incl : Bool) (s : State) (hDevq : Part.devq ∈ ps) (hIv : Part.iv ∈ ps) : (State.ivDrain p t incl s).outside ps = s.outside ps := by
  simp [State.ivDrain, *]
theorem execIvTimeout_only (p : Fin 16) (s : State) (s' : State) (hs : execIvTimeout p s = .next s') : Only [.devq, .iv] s s' := by
  unfold execIvTimeout at hs
  try dsimp only at hs
  repeat' split at hs
  all_goals (cases hs; simp [Only])
@[simp] theorem State.ivDecide_outside {ps : List Part} (p : Nat) (s : State) (hDevq : Part.devq ∈ ps) (hIv : Part.iv ∈ ps) : (State.ivDecide p s).outside ps = s.outside ps := by
  unfold State.ivDecide
  try dsimp only
  repeat' (first | with_reducible rfl | (simp [*]; done) | split)
theorem execIvSignedDecide_only (p : Fin 16) (s : State) (s' : State) (hs : execIvSignedDecide p s = .next s') : Only [.devq, .iv] s s' := by
  unfold execIvSignedDecide at hs
  dsimp only at hs
  repeat' split at hs
  all_goals (cases hs; simp [Only])
@[simp] theorem State.toRing_outside {ps : List Part} (r : Rec) (s : State) (hRing : Part.ring ∈ ps) : (State.toRing r s).outside ps = s.outside ps := by
  simp [State.toRing, *]
@[simp] theorem State.copies_outside {ps : List Part} (r : Rec) (s : State) (hDevq : Part.devq ∈ ps) (hIv : Part.iv ∈ ps) (hRing : Part.ring ∈ ps) (hRg : Part.rg ∈ ps) : (State.copies r s).outside ps = s.outside ps := by
  simp [State.copies, *]
@[simp] theorem State.opStampRead_outside {ps : List Part} (h : Hdr) (bd n : Nat) (s : State) (hRing : Part.ring ∈ ps) (hMbox : Part.mbox ∈ ps) : (State.opStampRead h bd n s).outside ps = s.outside ps := by
  unfold State.opStampRead
  split <;> simp [*]
theorem execStampRead_only (h : Hdr) (bd : Fin 8) (n : BitVec 16) (s : State) (s' : State) (hs : execStampRead h bd n s = .next s') : Only [.ring, .mbox] s s' := by
  simp only [execStampRead, Host.Outcome.next.injEq] at hs
  subst hs
  simp [Only]
@[simp] theorem State.opIvRead_outside {ps : List Part} (h : Hdr) (bd n : Nat) (s : State) (hIv : Part.iv ∈ ps) (hMbox : Part.mbox ∈ ps) : (State.opIvRead h bd n s).outside ps = s.outside ps := by
  unfold State.opIvRead
  split <;> simp [*]
theorem execIvRead_only (h : Hdr) (bd : Fin 8) (n : BitVec 16) (s : State) (s' : State) (hs : execIvRead h bd n s = .next s') : Only [.iv, .mbox] s s' := by
  simp only [execIvRead, Host.Outcome.next.injEq] at hs
  subst hs
  simp [Only]
@[simp] theorem State.opIvStatus_outside {ps : List Part} (h : Hdr) (p : Nat) (s : State) (hMbox : Part.mbox ∈ ps) : (State.opIvStatus h p s).outside ps = s.outside ps := by
  simp [State.opIvStatus, *]
theorem execIvStatus_only (h : Hdr) (p : Fin 16) (s : State) (s' : State) (hs : execIvStatus h p s = .next s') : Only [.mbox] s s' := by
  simp only [execIvStatus, Host.Outcome.next.injEq] at hs
  subst hs
  simp [Only]
end Sys2Proof.Machine
end

