-- ==== Sys2Proof/Laws/FrameRegression.lean ====
section
/-!
SUPPORT. Frames of the operations of Machine/Regression.lean: `X_outside` says which parts an operation can change, `X_only` the same of a
command's meaning.
-/
namespace Sys2Proof.Machine
@[simp] theorem State.rgRecord_outside {ps : List Part} (i : Nat) (s : State) (hRg : Part.rg ∈ ps) : (State.rgRecord i s).outside ps = s.outside ps := by
  unfold State.rgRecord
  try dsimp only
  split <;> simp [*]
@[simp] theorem State.rgDrain_outside {ps : List Part} (i : Nat) (s : State) (hRg : Part.rg ∈ ps) : (State.rgDrain i s).outside ps = s.outside ps := by
  simp [State.rgDrain, *]
theorem execRgRecord_only (i : Fin 16) (s : State) (s' : State) (hs : execRgRecord i s = .next s') : Only [.rg] s s' := by
  unfold execRgRecord at hs
  repeat' split at hs
  all_goals (cases hs; simp [Only])
@[simp] theorem State.rgClose_outside {ps : List Part} (i : Nat) (s : State) (hRg : Part.rg ∈ ps) : (State.rgClose i s).outside ps = s.outside ps := by
  simp [State.rgClose, *]
theorem execRgGateClose_only (i : Fin 16) (s : State) (s' : State) (hs : execRgGateClose i s = .next s') : Only [.rg] s s' := by
  unfold execRgGateClose at hs
  repeat' split at hs
  all_goals (cases hs; simp [Only])
@[simp] theorem State.rgWrite_outside {ps : List Part} (i : Nat) (s : State) (hDevq : Part.devq ∈ ps) (hRg : Part.rg ∈ ps) (hPar : Part.par ∈ ps) (hGw : Part.gw ∈ ps) : (State.rgWrite i s).outside ps = s.outside ps := by
  unfold State.rgWrite
  split <;> simp [*]
theorem execRgResultWrite_only (i : Fin 16) (s : State) (s' : State) (hs : execRgResultWrite i s = .next s') : Only [.devq, .rg, .par, .gw] s s' := by
  simp only [execRgResultWrite, Host.Outcome.next.injEq] at hs
  subst hs
  simp [Only]
@[simp] theorem State.rgFlush_outside {ps : List Part} (i : Nat) (s : State) (hDevq : Part.devq ∈ ps) (hRg : Part.rg ∈ ps) (hPar : Part.par ∈ ps) (hGw : Part.gw ∈ ps) : (State.rgFlush i s).outside ps = s.outside ps := by
  simp [State.rgFlush, *]
@[simp] theorem State.rgConfig_outside {ps : List Part} (i : Nat) (mode src : Bool) (s : State) (hRg : Part.rg ∈ ps) : (State.rgConfig i mode src s).outside ps = s.outside ps := by
  unfold State.rgConfig
  dsimp only
  split <;> simp [*]
@[simp] theorem State.rgGrant_outside {ps : List Part} (i p : Nat) (internal : Bool) (s : State) (hRg : Part.rg ∈ ps) : (State.rgGrant i p internal s).outside ps = s.outside ps := by
  simp [State.rgGrant, *]
@[simp] theorem State.rgFree_outside {ps : List Part} (i : Nat) (s : State) (hDevq : Part.devq ∈ ps) (hRg : Part.rg ∈ ps) (hPar : Part.par ∈ ps) (hGw : Part.gw ∈ ps) : (State.rgFree i s).outside ps = s.outside ps := by
  simp [State.rgFree, *]
@[simp] theorem State.g6Sync_outside {ps : List Part} (s : State) (hDevq : Part.devq ∈ ps) (hRg : Part.rg ∈ ps) (hPar : Part.par ∈ ps) (hGw : Part.gw ∈ ps) : (State.g6Sync s).outside ps = s.outside ps := by
  unfold State.g6Sync
  dsimp only
  repeat' (first | with_reducible rfl | (simp [*]; done) | split)
@[simp] theorem State.opRgClaim_outside {ps : List Part} (h : Hdr) (slot prio : Nat) (s : State) (hRg : Part.rg ∈ ps) (hMbox : Part.mbox ∈ ps) : (State.opRgClaim h slot prio s).outside ps = s.outside ps := by
  unfold State.opRgClaim
  dsimp only
  repeat' (first | with_reducible rfl | (simp [*]; done) | split)
theorem execRgClaim_only (h : Hdr) (slot : Fin 32) (prio : Fin 4) (s : State) (s' : State) (hs : execRgClaim h slot prio s = .next s') : Only [.rg, .mbox] s s' := by
  simp only [execRgClaim, Host.Outcome.next.injEq] at hs
  subst hs
  simp [Only]
@[simp] theorem State.opRgRelease_outside {ps : List Part} (h : Hdr) (i : Nat) (s : State) (hDevq : Part.devq ∈ ps) (hRg : Part.rg ∈ ps) (hMbox : Part.mbox ∈ ps) (hPar : Part.par ∈ ps) (hGw : Part.gw ∈ ps) : (State.opRgRelease h i s).outside ps = s.outside ps := by
  simp [State.opRgRelease, *]
theorem execRgRelease_only (h : Hdr) (i : Fin 16) (s : State) (s' : State) (hs : execRgRelease h i s = .next s') : Only [.devq, .rg, .mbox, .par, .gw] s s' := by
  simp only [execRgRelease, Host.Outcome.next.injEq] at hs
  subst hs
  simp [Only]
@[simp] theorem State.opRgRead_outside {ps : List Part} (h : Hdr) (bd n : Nat) (s : State) (hRg : Part.rg ∈ ps) (hMbox : Part.mbox ∈ ps) : (State.opRgRead h bd n s).outside ps = s.outside ps := by
  unfold State.opRgRead
  split <;> simp [*]
theorem execRgRead_only (h : Hdr) (bd : Fin 8) (n : BitVec 16) (s : State) (s' : State) (hs : execRgRead h bd n s = .next s') : Only [.rg, .mbox] s s' := by
  simp only [execRgRead, Host.Outcome.next.injEq] at hs
  subst hs
  simp [Only]
@[simp] theorem State.opRgStatus_outside {ps : List Part} (h : Hdr) (i : Nat) (s : State) (hMbox : Part.mbox ∈ ps) : (State.opRgStatus h i s).outside ps = s.outside ps := by
  simp [State.opRgStatus, *]
theorem execRgStatus_only (h : Hdr) (i : Fin 16) (s : State) (s' : State) (hs : execRgStatus h i s = .next s') : Only [.mbox] s s' := by
  simp only [execRgStatus, Host.Outcome.next.injEq] at hs
  subst hs
  simp [Only]
end Sys2Proof.Machine
end

