-- ==== Sys2Proof/Laws/FrameTraverse.lean ====
section
/-!
SUPPORT. Frames of the operations of Machine/Traverse.lean: `X_outside` says which parts an operation can change, `X_only` the same of a
command's meaning.
-/
namespace Sys2Proof.Machine
@[simp] theorem slewDone_outside {ps : List Part} (name : Nat) (t : Trav) (s : State) (hMbox : Part.mbox ∈ ps) : (slewDone name t s).outside ps = s.outside ps := by
  simp [slewDone, *]
end Sys2Proof.Machine
end

