-- ==== Sys2Proof/Laws/FrameTimescale.lean ====
section
/-!
SUPPORT. Frames of the operations of Machine/Timescale.lean: `X_outside` says which parts an operation can change, `X_only` the same of a
command's meaning.
-/
namespace Sys2Proof.Machine
@[simp] theorem State.tsCoefs_outside {ps : List Part} (s : State) (hTs : Part.ts ∈ ps) : (State.tsCoefs s).outside ps = s.outside ps := by
  simp [State.tsCoefs, *]
@[simp] theorem State.setRate_outside {ps : List Part} (r : Int) (s : State) (hTs : Part.ts ∈ ps) (hLatch : Part.latch ∈ ps) (hChans : Part.chans ∈ ps) (hDevq : Part.devq ∈ ps) : (State.setRate r s).outside ps = s.outside ps := by
  unfold State.setRate
  dsimp only
  repeat' (first | with_reducible rfl | (simp [*]; done) | (simp [State.outside, *]; done) | (with_reducible refine (forAll_outside _ _ _ ?_).trans ?_) | (with_reducible refine (foldl_outside _ _ _ ?_).trans ?_) | split | (intro _) | (simp [*]))
@[simp] theorem State.tsCompose_outside {ps : List Part} (s : State) (hTs : Part.ts ∈ ps) (hLatch : Part.latch ∈ ps) (hChans : Part.chans ∈ ps) (hDevq : Part.devq ∈ ps) : (State.tsCompose s).outside ps = s.outside ps := by
  simp [State.tsCompose, *]
@[simp] theorem State.tsAdvance_outside {ps : List Part} (x : Nat) (s : State) (hTs : Part.ts ∈ ps) (hMbox : Part.mbox ∈ ps) : (State.tsAdvance x s).outside ps = s.outside ps := by
  simp [State.tsAdvance, *]
@[simp] theorem State.latchOfs_outside {ps : List Part} (s : State) (hLatch : Part.latch ∈ ps) : (State.latchOfs s).outside ps = s.outside ps := by
  simp [State.latchOfs, *]
@[simp] theorem State.tsCoast_outside {ps : List Part} (byRef forced : Bool) (s : State) (hTs : Part.ts ∈ ps) (hLatch : Part.latch ∈ ps) (hChans : Part.chans ∈ ps) (hDevq : Part.devq ∈ ps) (hRg : Part.rg ∈ ps) (hMbox : Part.mbox ∈ ps) (hPwr : Part.pwr ∈ ps) (hPar : Part.par ∈ ps) (hGw : Part.gw ∈ ps) : (State.tsCoast byRef forced s).outside ps = s.outside ps := by
  unfold State.tsCoast
  dsimp only
  split <;> simp [*]
@[simp] theorem State.tsUpLost_outside {ps : List Part} (byRef : Bool) (s : State) (hTs : Part.ts ∈ ps) (hLatch : Part.latch ∈ ps) (hChans : Part.chans ∈ ps) (hDevq : Part.devq ∈ ps) (hRg : Part.rg ∈ ps) (hMbox : Part.mbox ∈ ps) (hPwr : Part.pwr ∈ ps) (hPar : Part.par ∈ ps) (hGw : Part.gw ∈ ps) : (State.tsUpLost byRef s).outside ps = s.outside ps := by
  simp [State.tsUpLost, *]
@[simp] theorem State.tsAcquire_outside {ps : List Part} (s : State) (hTs : Part.ts ∈ ps) (hDevq : Part.devq ∈ ps) (hRg : Part.rg ∈ ps) (hPar : Part.par ∈ ps) (hGw : Part.gw ∈ ps) : (State.tsAcquire s).outside ps = s.outside ps := by
  simp [State.tsAcquire, *]
@[simp] theorem State.bndGone_outside {ps : List Part} (c : Nat) (s : State) (hTs : Part.ts ∈ ps) (hLatch : Part.latch ∈ ps) (hChans : Part.chans ∈ ps) (hDevq : Part.devq ∈ ps) (hRg : Part.rg ∈ ps) (hMbox : Part.mbox ∈ ps) (hPwr : Part.pwr ∈ ps) (hPar : Part.par ∈ ps) (hGw : Part.gw ∈ ps) : (State.bndGone c s).outside ps = s.outside ps := by
  unfold State.bndGone
  try dsimp only
  repeat' (first | with_reducible rfl | (simp [*]; done) | split)
@[simp] theorem State.tsQualified_outside {ps : List Part} (s : State) (hTs : Part.ts ∈ ps) (hDevq : Part.devq ∈ ps) (hRg : Part.rg ∈ ps) (hPar : Part.par ∈ ps) (hGw : Part.gw ∈ ps) : (State.tsQualified s).outside ps = s.outside ps := by
  unfold State.tsQualified
  try dsimp only
  repeat' (first | with_reducible rfl | (simp [*]; done) | split)
@[simp] theorem State.tsResume_outside {ps : List Part} (s : State) (hTs : Part.ts ∈ ps) (hDevq : Part.devq ∈ ps) (hRg : Part.rg ∈ ps) (hPwr : Part.pwr ∈ ps) (hPar : Part.par ∈ ps) (hGw : Part.gw ∈ ps) : (State.tsResume s).outside ps = s.outside ps := by
  unfold State.tsResume
  dsimp only
  split <;> simp [*]
@[simp] theorem State.tsStop_outside {ps : List Part} (s : State) (hTs : Part.ts ∈ ps) (hCores : Part.cores ∈ ps) (hSrcs : Part.srcs ∈ ps) (hDevq : Part.devq ∈ ps) (hRg : Part.rg ∈ ps) (hPwr : Part.pwr ∈ ps) (hPar : Part.par ∈ ps) (hGw : Part.gw ∈ ps) : (State.tsStop s).outside ps = s.outside ps := by
  unfold State.tsStop
  try dsimp only
  repeat' (first | with_reducible rfl | (simp [*]; done) | (simp [State.outside, *]; done) | (with_reducible refine (forAll_outside _ _ _ ?_).trans ?_) | (with_reducible refine (foldl_outside _ _ _ ?_).trans ?_) | split | (intro _) | (simp [*]))
@[simp] theorem State.tsBegin_outside {ps : List Part} (x v : Nat) (s : State) (hPps : Part.pps ∈ ps) (hTs : Part.ts ∈ ps) (hLatch : Part.latch ∈ ps) (hChans : Part.chans ∈ ps) (hDevq : Part.devq ∈ ps) (hRg : Part.rg ∈ ps) (hPar : Part.par ∈ ps) (hGw : Part.gw ∈ ps) : (State.tsBegin x v s).outside ps = s.outside ps := by
  simp [State.tsBegin, *]
@[simp] theorem State.tsLockCount_outside {ps : List Part} (e : Int) (s : State) (hTs : Part.ts ∈ ps) (hDevq : Part.devq ∈ ps) (hRg : Part.rg ∈ ps) (hPar : Part.par ∈ ps) (hGw : Part.gw ∈ ps) : (State.tsLockCount e s).outside ps = s.outside ps := by
  simp [State.tsLockCount, *]
@[simp] theorem State.tsUpdate_outside {ps : List Part} (r : Rec) (e : Int) (s : State) (hTs : Part.ts ∈ ps) (hLatch : Part.latch ∈ ps) (hChans : Part.chans ∈ ps) (hDevq : Part.devq ∈ ps) (hRg : Part.rg ∈ ps) (hMbox : Part.mbox ∈ ps) (hPar : Part.par ∈ ps) (hGw : Part.gw ∈ ps) : (State.tsUpdate r e s).outside ps = s.outside ps := by
  unfold State.tsUpdate
  dsimp only
  repeat' (first | with_reducible rfl | (simp [*]; done) | split)
@[simp] theorem State.tsSteer_outside {ps : List Part} (r : Rec) (s : State) (hTs : Part.ts ∈ ps) (hLatch : Part.latch ∈ ps) (hChans : Part.chans ∈ ps) (hDevq : Part.devq ∈ ps) (hRg : Part.rg ∈ ps) (hMbox : Part.mbox ∈ ps) (hPar : Part.par ∈ ps) (hGw : Part.gw ∈ ps) : (State.tsSteer r s).outside ps = s.outside ps := by
  unfold State.tsSteer
  dsimp only
  repeat' (first | with_reducible rfl | (simp [*]; done) | split)
@[simp] theorem State.tsTick_outside {ps : List Part} (s : State) (hTs : Part.ts ∈ ps) (hLatch : Part.latch ∈ ps) (hChans : Part.chans ∈ ps) (hDevq : Part.devq ∈ ps) (hMbox : Part.mbox ∈ ps) : (State.tsTick s).outside ps = s.outside ps := by
  simp [State.tsTick, *]
end Sys2Proof.Machine
end

