-- ==== Sys2Proof/Laws/FrameChanOps.lean ====
section
/-!
SUPPORT. Frames of the operations of Machine/ChanOps.lean: `X_outside` says which parts an operation can change, `X_only` the same of a
command's meaning.
-/
namespace Sys2Proof.Machine
@[simp] theorem StoreS.unqueueCal_flash (n : Nat) (d : StoreS) : (StoreS.unqueueCal n d).flash = d.flash := by
  unfold StoreS.unqueueCal
  repeat' (first | rfl | split)
@[simp] theorem State.composeSlots_outside {ps : List Part} (c : Nat) (s : State) (hChans : Part.chans ∈ ps) : (State.composeSlots c s).outside ps = s.outside ps := by
  simp [State.composeSlots, *]
@[simp] theorem State.loadConfig_outside {ps : List Part} (c : Nat) (s : State) (hChans : Part.chans ∈ ps) : (State.loadConfig c s).outside ps = s.outside ps := by
  simp [State.loadConfig, *]
@[simp] theorem State.bypSelect_outside {ps : List Part} (c : Nat) (s : State) (hChans : Part.chans ∈ ps) : (State.bypSelect c s).outside ps = s.outside ps := by
  simp [State.bypSelect, *]
@[simp] theorem State.restartTxm_outside {ps : List Part} (c : Nat) (s : State) (hSrcs : Part.srcs ∈ ps) : (State.restartTxm c s).outside ps = s.outside ps := by
  simp [State.restartTxm, *]
@[simp] theorem State.restartIn_outside {ps : List Part} (c : Nat) (s : State) (hSrcs : Part.srcs ∈ ps) : (State.restartIn c s).outside ps = s.outside ps := by
  simp [State.restartIn, *]
@[simp] theorem State.gateOn_outside {ps : List Part} (c : Nat) (y : OutSrc) (s : State) (hChans : Part.chans ∈ ps) (hSrcs : Part.srcs ∈ ps) : (State.gateOn c y s).outside ps = s.outside ps := by
  simp [State.gateOn, *]
@[simp] theorem State.gateOff_outside {ps : List Part} (c : Nat) (y : OutSrc) (s : State) (hChans : Part.chans ∈ ps) (hSrcs : Part.srcs ∈ ps) : (State.gateOff c y s).outside ps = s.outside ps := by
  simp [State.gateOff, *]
@[simp] theorem State.switchTo_outside {ps : List Part} (c : Nat) (y : OutSrc) (s : State) (hChans : Part.chans ∈ ps) (hSrcs : Part.srcs ∈ ps) : (State.switchTo c y s).outside ps = s.outside ps := by
  simp [State.switchTo, *]
@[simp] theorem State.switchEdge_outside {ps : List Part} (c : Nat) (s : State) (hChans : Part.chans ∈ ps) (hSrcs : Part.srcs ∈ ps) : (State.switchEdge c s).outside ps = s.outside ps := by
  unfold State.switchEdge
  split <;> simp [*]
@[simp] theorem State.syncStanding_outside {ps : List Part} (k : Nat) (s : State) (hChans : Part.chans ∈ ps) (hSrcs : Part.srcs ∈ ps) : (State.syncStanding k s).outside ps = s.outside ps := by
  unfold State.syncStanding
  try dsimp only
  repeat' (first | with_reducible rfl | (simp [*]; done) | split)
@[simp] theorem State.weltRelease_outside {ps : List Part} (k : Nat) (s : State) (hChans : Part.chans ∈ ps) (hOcts : Part.octs ∈ ps) (hSrcs : Part.srcs ∈ ps) : (State.weltRelease k s).outside ps = s.outside ps := by
  unfold State.weltRelease
  split <;> simp [*]
@[simp] theorem CalRun.restore_outside {ps : List Part} (r : CalRun) (s : State) (hChans : Part.chans ∈ ps) (hDlls : Part.dlls ∈ ps) (hCores : Part.cores ∈ ps) : (CalRun.restore r s).outside ps = s.outside ps := by
  unfold CalRun.restore
  split <;> simp [*]
@[simp] theorem State.scanClose_outside {ps : List Part} (k : Nat) (s : State) (hOcts : Part.octs ∈ ps) : (State.scanClose k s).outside ps = s.outside ps := by
  simp [State.scanClose, *]
@[simp] theorem State.scanOpen_outside {ps : List Part} (h : Option Hdr) (mask : Nat) (s : State) (hOcts : Part.octs ∈ ps) (hGrat : Part.grat ∈ ps) : (State.scanOpen h mask s).outside ps = s.outside ps := by
  simp [State.scanOpen, *]
@[simp] theorem State.scanDrop_outside {ps : List Part} (p : Option Hdr × Nat → Bool) (s : State) (hOcts : Part.octs ∈ ps) (hGrat : Part.grat ∈ ps) : (State.scanDrop p s).outside ps = s.outside ps := by
  simp [State.scanDrop, *]
@[simp] theorem State.dtcFree_outside {ps : List Part} (r : CalRun) (s : State) (hChans : Part.chans ∈ ps) : (State.dtcFree r s).outside ps = s.outside ps := by
  simp [State.dtcFree, *]
@[simp] theorem State.calDrop_outside {ps : List Part} (r : CalRun) (s : State) (hChans : Part.chans ∈ ps) (hOcts : Part.octs ∈ ps) (hDevq : Part.devq ∈ ps) (hRg : Part.rg ∈ ps) (hPar : Part.par ∈ ps) (hStore : Part.store ∈ ps) (hGrat : Part.grat ∈ ps) (hCal : Part.cal ∈ ps) (hGw : Part.gw ∈ ps) : (State.calDrop r s).outside ps = s.outside ps := by
  unfold State.calDrop
  try dsimp only
  repeat' (first | with_reducible rfl | (simp [*]; done) | (simp [State.outside, *]; done) | (with_reducible refine (forAll_outside _ _ _ ?_).trans ?_) | (with_reducible refine (foldl_outside _ _ _ ?_).trans ?_) | split | (intro _) | (simp [*]))
@[simp] theorem State.calEnd_outside {ps : List Part} (r : CalRun) (stale : Bool) (reason gen : Nat) (s : State) (hChans : Part.chans ∈ ps) (hOcts : Part.octs ∈ ps) (hDlls : Part.dlls ∈ ps) (hCores : Part.cores ∈ ps) (hDevq : Part.devq ∈ ps) (hRg : Part.rg ∈ ps) (hMbox : Part.mbox ∈ ps) (hPar : Part.par ∈ ps) (hStore : Part.store ∈ ps) (hGrat : Part.grat ∈ ps) (hCal : Part.cal ∈ ps) (hGw : Part.gw ∈ ps) : (State.calEnd r stale reason gen s).outside ps = s.outside ps := by
  simp [State.calEnd, *]
@[simp] theorem State.handLoad_outside {ps : List Part} (c : Nat) (s : State) (hChans : Part.chans ∈ ps) : (State.handLoad c s).outside ps = s.outside ps := by
  simp [State.handLoad, *]
@[simp] theorem State.beginReturn_outside {ps : List Part} (k : Nat) (s : State) (hChans : Part.chans ∈ ps) (hOcts : Part.octs ∈ ps) (hSrcs : Part.srcs ∈ ps) : (State.beginReturn k s).outside ps = s.outside ps := by
  unfold State.beginReturn
  split <;> simp [*]
@[simp] theorem State.handAbort_outside {ps : List Part} (k : Nat) (s : State) (hChans : Part.chans ∈ ps) (hOcts : Part.octs ∈ ps) (hSrcs : Part.srcs ∈ ps) : (State.handAbort k s).outside ps = s.outside ps := by
  unfold State.handAbort
  split <;> simp [*]
@[simp] theorem State.calAbort_outside {ps : List Part} (reason : Nat) (r : CalRun) (s : State) (hChans : Part.chans ∈ ps) (hOcts : Part.octs ∈ ps) (hDlls : Part.dlls ∈ ps) (hCores : Part.cores ∈ ps) (hSrcs : Part.srcs ∈ ps) (hDevq : Part.devq ∈ ps) (hRg : Part.rg ∈ ps) (hMbox : Part.mbox ∈ ps) (hPar : Part.par ∈ ps) (hStore : Part.store ∈ ps) (hGrat : Part.grat ∈ ps) (hCal : Part.cal ∈ ps) (hGw : Part.gw ∈ ps) : (State.calAbort reason r s).outside ps = s.outside ps := by
  simp [State.calAbort, *]
@[simp] theorem State.calAbortIf_outside {ps : List Part} (reason : Nat) (p : CalRun → Bool) (s : State) (hChans : Part.chans ∈ ps) (hOcts : Part.octs ∈ ps) (hDlls : Part.dlls ∈ ps) (hCores : Part.cores ∈ ps) (hSrcs : Part.srcs ∈ ps) (hDevq : Part.devq ∈ ps) (hRg : Part.rg ∈ ps) (hMbox : Part.mbox ∈ ps) (hPar : Part.par ∈ ps) (hStore : Part.store ∈ ps) (hGrat : Part.grat ∈ ps) (hCal : Part.cal ∈ ps) (hGw : Part.gw ∈ ps) : (State.calAbortIf reason p s).outside ps = s.outside ps := by
  simp [State.calAbortIf, *]
@[simp] theorem State.benchEnd_outside {ps : List Part} (reason gen : Nat) (s : State) (hDevq : Part.devq ∈ ps) (hRg : Part.rg ∈ ps) (hMbox : Part.mbox ∈ ps) (hPar : Part.par ∈ ps) (hCal : Part.cal ∈ ps) (hGw : Part.gw ∈ ps) : (State.benchEnd reason gen s).outside ps = s.outside ps := by
  unfold State.benchEnd
  split <;> simp [*]
@[simp] theorem State.setSt_outside {ps : List Part} (c : Nat) (st : ChState) (s : State) (hChans : Part.chans ∈ ps) : (State.setSt c st s).outside ps = s.outside ps := by
  simp [State.setSt, *]
@[simp] theorem State.preempted_outside {ps : List Part} (holder c : Nat) (s : State) (hMbox : Part.mbox ∈ ps) : (State.preempted holder c s).outside ps = s.outside ps := by
  simp [State.preempted, *]
@[simp] theorem State.enterBypass_outside {ps : List Part} (cause : BypCause) (c : Nat) (s : State) (hTs : Part.ts ∈ ps) (hLatch : Part.latch ∈ ps) (hChans : Part.chans ∈ ps) (hOcts : Part.octs ∈ ps) (hSrcs : Part.srcs ∈ ps) (hDevq : Part.devq ∈ ps) (hRg : Part.rg ∈ ps) (hMbox : Part.mbox ∈ ps) (hPwr : Part.pwr ∈ ps) (hPar : Part.par ∈ ps) (hGw : Part.gw ∈ ps) : (State.enterBypass cause c s).outside ps = s.outside ps := by
  unfold State.enterBypass
  try dsimp only
  repeat' (first | with_reducible rfl | (simp [*]; done) | split)
@[simp] theorem State.takeKept_outside {ps : List Part} (c : Nat) (s : State) (hChans : Part.chans ∈ ps) : (State.takeKept c s).outside ps = s.outside ps := by
  simp [State.takeKept, *]
@[simp] theorem State.enterAcquire_outside {ps : List Part} (out : Bool) (c : Nat) (s : State) (hChans : Part.chans ∈ ps) (hSrcs : Part.srcs ∈ ps) : (State.enterAcquire out c s).outside ps = s.outside ps := by
  simp [State.enterAcquire, *]
@[simp] theorem State.leaveIdle_outside {ps : List Part} (c : Nat) (s : State) (hChans : Part.chans ∈ ps) (hSrcs : Part.srcs ∈ ps) : (State.leaveIdle c s).outside ps = s.outside ps := by
  simp [State.leaveIdle, *]
@[simp] theorem State.enterIdle_outside {ps : List Part} (c : Nat) (s : State) (hChans : Part.chans ∈ ps) (hSrcs : Part.srcs ∈ ps) : (State.enterIdle c s).outside ps = s.outside ps := by
  simp [State.enterIdle, *]
@[simp] theorem State.testEnd_outside {ps : List Part} (verdict : Nat) (r : TestRun) (s : State) (hChans : Part.chans ∈ ps) (hSrcs : Part.srcs ∈ ps) (hMbox : Part.mbox ∈ ps) (hTests : Part.tests ∈ ps) : (State.testEnd verdict r s).outside ps = s.outside ps := by
  unfold State.testEnd
  try dsimp only
  repeat' (first | with_reducible rfl | (simp [*]; done) | (simp [State.outside, *]; done) | (with_reducible refine (forAll_outside _ _ _ ?_).trans ?_) | (with_reducible refine (foldl_outside _ _ _ ?_).trans ?_) | split | (intro _) | (simp [*]))
@[simp] theorem State.testAbortIf_outside {ps : List Part} (p : TestRun → Bool) (s : State) (hChans : Part.chans ∈ ps) (hSrcs : Part.srcs ∈ ps) (hMbox : Part.mbox ∈ ps) (hTests : Part.tests ∈ ps) : (State.testAbortIf p s).outside ps = s.outside ps := by
  simp [State.testAbortIf, *]
@[simp] theorem State.writeFcw_outside {ps : List Part} (k lane : Nat) (r : FcwRec) (s : State) (hOcts : Part.octs ∈ ps) : (State.writeFcw k lane r s).outside ps = s.outside ps := by
  simp [State.writeFcw, *]
@[simp] theorem State.enterHoldover_outside {ps : List Part} (lane : Nat) (delta : Int) (reason c : Nat) (s : State) (hChans : Part.chans ∈ ps) (hOcts : Part.octs ∈ ps) (hMbox : Part.mbox ∈ ps) : (State.enterHoldover lane delta reason c s).outside ps = s.outside ps := by
  simp [State.enterHoldover, *]
@[simp] theorem State.weltLost_outside {ps : List Part} (k : Nat) (s : State) (hTs : Part.ts ∈ ps) (hLatch : Part.latch ∈ ps) (hChans : Part.chans ∈ ps) (hOcts : Part.octs ∈ ps) (hDlls : Part.dlls ∈ ps) (hCores : Part.cores ∈ ps) (hSrcs : Part.srcs ∈ ps) (hDevq : Part.devq ∈ ps) (hRg : Part.rg ∈ ps) (hMbox : Part.mbox ∈ ps) (hPwr : Part.pwr ∈ ps) (hPar : Part.par ∈ ps) (hStore : Part.store ∈ ps) (hGrat : Part.grat ∈ ps) (hCal : Part.cal ∈ ps) (hGw : Part.gw ∈ ps) : (State.weltLost k s).outside ps = s.outside ps := by
  unfold State.weltLost
  try dsimp only
  split <;> simp [*]
@[simp] theorem State.retireChan_outside {ps : List Part} (fault c : Nat) (s : State) (hTs : Part.ts ∈ ps) (hLatch : Part.latch ∈ ps) (hChans : Part.chans ∈ ps) (hOcts : Part.octs ∈ ps) (hDlls : Part.dlls ∈ ps) (hCores : Part.cores ∈ ps) (hSrcs : Part.srcs ∈ ps) (hDevq : Part.devq ∈ ps) (hRg : Part.rg ∈ ps) (hMbox : Part.mbox ∈ ps) (hPwr : Part.pwr ∈ ps) (hPar : Part.par ∈ ps) (hStore : Part.store ∈ ps) (hGrat : Part.grat ∈ ps) (hCal : Part.cal ∈ ps) (hGw : Part.gw ∈ ps) : (State.retireChan fault c s).outside ps = s.outside ps := by
  simp [State.retireChan, *]
@[simp] theorem State.takeoverBegin_outside {ps : List Part} (c : Nat) (s : State) (hChans : Part.chans ∈ ps) (hOcts : Part.octs ∈ ps) (hSrcs : Part.srcs ∈ ps) : (State.takeoverBegin c s).outside ps = s.outside ps := by
  simp [State.takeoverBegin, *]
@[simp] theorem State.takeoverClaim_outside {ps : List Part} (c : Nat) (s : State) (hChans : Part.chans ∈ ps) (hOcts : Part.octs ∈ ps) (hSrcs : Part.srcs ∈ ps) : (State.takeoverClaim c s).outside ps = s.outside ps := by
  simp [State.takeoverClaim, *]
@[simp] theorem State.takeoverRetry_outside {ps : List Part} (k : Nat) (s : State) (hChans : Part.chans ∈ ps) (hOcts : Part.octs ∈ ps) (hSrcs : Part.srcs ∈ ps) : (State.takeoverRetry k s).outside ps = s.outside ps := by
  unfold State.takeoverRetry
  try dsimp only
  repeat' (first | with_reducible rfl | (simp [*]; done) | split)
end Sys2Proof.Machine
end

