-- ==== Sys2Proof/Laws/FrameLoops.lean ====
section
/-!
SUPPORT. Frames of the operations of Machine/Loops.lean: `X_outside` says which parts an operation can change, `X_only` the same of a
command's meaning.
-/
namespace Sys2Proof.Machine
@[simp] theorem State.replan_outside {ps : List Part} (k : Nat) (s : State) (hOcts : Part.octs ∈ ps) : (State.replan k s).outside ps = s.outside ps := by
  simp [State.replan, *]
@[simp] theorem State.restoreFirst_outside {ps : List Part} (k : Nat) (s : State) (hStore : Part.store ∈ ps) : (State.restoreFirst k s).outside ps = s.outside ps := by
  simp [State.restoreFirst, *]
@[simp] theorem State.loopRetire_outside {ps : List Part} (k : Nat) (s : State) (hOcts : Part.octs ∈ ps) (hStore : Part.store ∈ ps) : (State.loopRetire k s).outside ps = s.outside ps := by
  simp [State.loopRetire, *]
@[simp] theorem State.scanTake_outside {ps : List Part} (k : Nat) (l : List (Nat × Int)) (fail : State → State) (s : State) (hOcts : Part.octs ∈ ps) (h_fail : ∀ s, (fail s).outside ps = s.outside ps) : (State.scanTake k l fail s).outside ps = s.outside ps := by
  unfold State.scanTake
  split <;> simp [*]
@[simp] theorem State.attempts_outside {ps : List Part} (k : Nat) (fail : State → State) (s : State) (hOcts : Part.octs ∈ ps) (h_fail : ∀ s, (fail s).outside ps = s.outside ps) : (State.attempts k fail s).outside ps = s.outside ps := by
  unfold State.attempts
  split <;> simp [*]
@[simp] theorem State.noBand_outside {ps : List Part} (k : Nat) (s : State) (hOcts : Part.octs ∈ ps) (hMbox : Part.mbox ∈ ps) (hStore : Part.store ∈ ps) : (State.noBand k s).outside ps = s.outside ps := by
  unfold State.noBand
  try dsimp only
  split <;> simp [*]
@[simp] theorem State.relock_outside {ps : List Part} (k : Nat) (s : State) (hOcts : Part.octs ∈ ps) (hMbox : Part.mbox ∈ ps) (hStore : Part.store ∈ ps) : (State.relock k s).outside ps = s.outside ps := by
  simp [State.relock, *]
@[simp] theorem State.octBypass_outside {ps : List Part} (cause : BypCause) (k : Nat) (s : State) (hTs : Part.ts ∈ ps) (hLatch : Part.latch ∈ ps) (hChans : Part.chans ∈ ps) (hOcts : Part.octs ∈ ps) (hSrcs : Part.srcs ∈ ps) (hDevq : Part.devq ∈ ps) (hRg : Part.rg ∈ ps) (hMbox : Part.mbox ∈ ps) (hPwr : Part.pwr ∈ ps) (hPar : Part.par ∈ ps) (hGw : Part.gw ∈ ps) : (State.octBypass cause k s).outside ps = s.outside ps := by
  simp [State.octBypass, *]
@[simp] theorem State.loopDown_outside {ps : List Part} (k : Nat) (s : State) (hTs : Part.ts ∈ ps) (hLatch : Part.latch ∈ ps) (hChans : Part.chans ∈ ps) (hOcts : Part.octs ∈ ps) (hSrcs : Part.srcs ∈ ps) (hDevq : Part.devq ∈ ps) (hRg : Part.rg ∈ ps) (hMbox : Part.mbox ∈ ps) (hPwr : Part.pwr ∈ ps) (hPar : Part.par ∈ ps) (hGw : Part.gw ∈ ps) : (State.loopDown k s).outside ps = s.outside ps := by
  simp [State.loopDown, *]
@[simp] theorem State.leaveBypass_outside {ps : List Part} (out : Bool) (c : Nat) (s : State) (hChans : Part.chans ∈ ps) (hSrcs : Part.srcs ∈ ps) (hMbox : Part.mbox ∈ ps) (hTests : Part.tests ∈ ps) : (State.leaveBypass out c s).outside ps = s.outside ps := by
  simp [State.leaveBypass, *]
@[simp] theorem State.lockChan_outside {ps : List Part} (out : Bool) (c : Nat) (s : State) (hChans : Part.chans ∈ ps) (hSrcs : Part.srcs ∈ ps) (hMbox : Part.mbox ∈ ps) (hTests : Part.tests ∈ ps) : (State.lockChan out c s).outside ps = s.outside ps := by
  simp [State.lockChan, *]
@[simp] theorem State.recompose_outside {ps : List Part} (k : Nat) (s : State) (hChans : Part.chans ∈ ps) (hOcts : Part.octs ∈ ps) : (State.recompose k s).outside ps = s.outside ps := by
  simp [State.recompose, *]
@[simp] theorem State.retuneBegin_outside {ps : List Part} (h : Hdr) (k ni nf : Nat) (s : State) (hTs : Part.ts ∈ ps) (hLatch : Part.latch ∈ ps) (hChans : Part.chans ∈ ps) (hOcts : Part.octs ∈ ps) (hSrcs : Part.srcs ∈ ps) (hDevq : Part.devq ∈ ps) (hRg : Part.rg ∈ ps) (hMbox : Part.mbox ∈ ps) (hPwr : Part.pwr ∈ ps) (hPar : Part.par ∈ ps) (hStore : Part.store ∈ ps) (hGw : Part.gw ∈ ps) : (State.retuneBegin h k ni nf s).outside ps = s.outside ps := by
  simp [State.retuneBegin, *]
@[simp] theorem State.retuneNow_outside {ps : List Part} (h : Hdr) (k ni nf : Nat) (s : State) (hTs : Part.ts ∈ ps) (hLatch : Part.latch ∈ ps) (hChans : Part.chans ∈ ps) (hOcts : Part.octs ∈ ps) (hSrcs : Part.srcs ∈ ps) (hDevq : Part.devq ∈ ps) (hRg : Part.rg ∈ ps) (hMbox : Part.mbox ∈ ps) (hPwr : Part.pwr ∈ ps) (hPar : Part.par ∈ ps) (hStore : Part.store ∈ ps) (hGw : Part.gw ∈ ps) : (State.retuneNow h k ni nf s).outside ps = s.outside ps := by
  unfold State.retuneNow
  try dsimp only
  split <;> simp [*]
@[simp] theorem State.loopStart_outside {ps : List Part} (k : Nat) (s : State) (hOcts : Part.octs ∈ ps) (hMbox : Part.mbox ∈ ps) (hStore : Part.store ∈ ps) : (State.loopStart k s).outside ps = s.outside ps := by
  simp [State.loopStart, *]
@[simp] theorem State.loopOff_outside {ps : List Part} (k : Nat) (s : State) (hOcts : Part.octs ∈ ps) : (State.loopOff k s).outside ps = s.outside ps := by
  simp [State.loopOff, *]
@[simp] theorem State.loopHold_outside {ps : List Part} (k : Nat) (s : State) (hOcts : Part.octs ∈ ps) : (State.loopHold k s).outside ps = s.outside ps := by
  unfold State.loopHold
  split <;> simp [*]
@[simp] theorem State.loopUnhold_outside {ps : List Part} (k : Nat) (s : State) (hOcts : Part.octs ∈ ps) : (State.loopUnhold k s).outside ps = s.outside ps := by
  simp [State.loopUnhold, *]
theorem execMlLock_only (k : OctIx) (cyc : List PdCyc) (s : State) (s' : State) (hs : execMlLock k cyc s = .next s') : Only [.chans, .octs, .srcs, .mbox, .tests] s s' := by
  unfold execMlLock at hs
  try dsimp only at hs
  repeat' split at hs
  all_goals (simp only [Host.Outcome.next.injEq] at hs; subst hs; unfold Only; repeat' (first | (simp; done) | split))
theorem execMlLoss_only (k : OctIx) (tr : MlTrace) (s : State) (s' : State) (hs : execMlLoss k tr s = .next s') : Only [.ts, .latch, .chans, .octs, .dlls, .cores, .srcs, .devq, .rg, .mbox, .pwr, .par, .store, .grat, .tests, .cal, .gw] s s' := by
  unfold execMlLoss at hs
  try dsimp only at hs
  repeat' split at hs
  all_goals (simp only [Host.Outcome.next.injEq] at hs; subst hs; unfold Only; repeat' (first | (simp; done) | split))
theorem execMlExcursion_only (k : OctIx) (cyc : List PdCyc) (s : State) (s' : State) (hs : execMlExcursion k s cyc = .next s') : Only [.octs, .mbox, .flt] s s' := by
  unfold execMlExcursion at hs
  try dsimp only at hs
  repeat' split at hs
  all_goals (cases hs; simp [Only])
theorem execMlAcqT_only (k : OctIx) (s : State) (s' : State) (hs : execMlAcqT k s = .next s') : Only [.octs, .mbox, .store] s s' := by
  unfold execMlAcqT at hs
  try dsimp only at hs
  repeat' split at hs
  all_goals (cases hs; simp [Only])
theorem execRetuneRestoreRetry_only (k : OctIx) (s : State) (s' : State) (hs : execRetuneRestoreRetry k s = .next s') : Only [.store] s s' := by
  unfold execRetuneRestoreRetry at hs
  repeat' split at hs
  all_goals (cases hs; simp [Only])
@[simp] theorem State.setTemp_outside {ps : List Part} (k : Nat) (t : Int) (s : State) (hOcts : Part.octs ∈ ps) : (State.setTemp k t s).outside ps = s.outside ps := by
  simp [State.setTemp, *]
theorem execRelockPlan_only (k : OctIx) (temp : Int) (s : State) (s' : State) (hs : execRelockPlan k temp s = .next s') : Only [.octs] s s' := by
  unfold execRelockPlan at hs
  repeat' split at hs
  all_goals (cases hs; simp [Only])
@[simp] theorem State.opMlRetune_outside {ps : List Part} (h : Hdr) (k : OctIx) (ni : Fin 256) (nf : BitVec 24) (s : State) (hTs : Part.ts ∈ ps) (hLatch : Part.latch ∈ ps) (hChans : Part.chans ∈ ps) (hOcts : Part.octs ∈ ps) (hSrcs : Part.srcs ∈ ps) (hDevq : Part.devq ∈ ps) (hRg : Part.rg ∈ ps) (hMbox : Part.mbox ∈ ps) (hPwr : Part.pwr ∈ ps) (hPar : Part.par ∈ ps) (hStore : Part.store ∈ ps) (hGw : Part.gw ∈ ps) : (State.opMlRetune h k ni nf s).outside ps = s.outside ps := by
  unfold State.opMlRetune
  split <;> simp [*]
theorem execMlRetune_only (h : Hdr) (k : OctIx) (ni : Fin 256) (nf : BitVec 24) (s : State) (s' : State) (hs : execMlRetune h k ni nf s = .next s') : Only [.ts, .latch, .chans, .octs, .srcs, .devq, .rg, .mbox, .pwr, .par, .store, .gw] s s' := by
  simp only [execMlRetune, Host.Outcome.next.injEq] at hs
  subst hs
  simp [Only]
@[simp] theorem State.opGratScan_outside {ps : List Part} (h : Hdr) (mask : BitVec 8) (s : State) (hOcts : Part.octs ∈ ps) (hMbox : Part.mbox ∈ ps) (hGrat : Part.grat ∈ ps) : (State.opGratScan h mask s).outside ps = s.outside ps := by
  simp [State.opGratScan, *]
theorem execGratScan_only (h : Hdr) (mask : BitVec 8) (s : State) (s' : State) (hs : execGratScan h mask s = .next s') : Only [.octs, .mbox, .grat] s s' := by
  simp only [execGratScan, Host.Outcome.next.injEq] at hs
  subst hs
  simp [Only]
theorem execBandScanDone_only (rs : List BandCount) (s : State) (s' : State) (hs : execBandScanDone rs s = .next s') : Only [.octs, .store, .grat] s s' := by
  unfold execBandScanDone at hs
  repeat' split at hs
  all_goals (cases hs; simp [Only])
@[simp] theorem State.opGratEdit_outside {ps : List Part} (h : Hdr) (k : OctIx) (band : Fin 64) (point : Fin 4) (w : W128) (s : State) (hMbox : Part.mbox ∈ ps) (hStore : Part.store ∈ ps) : (State.opGratEdit h k band point w s).outside ps = s.outside ps := by
  simp [State.opGratEdit, *]
theorem execGratEdit_only (h : Hdr) (k : OctIx) (band : Fin 64) (point : Fin 4) (w : W128) (s : State) (s' : State) (hs : execGratEdit h k band point w s = .next s') : Only [.mbox, .store] s s' := by
  simp only [execGratEdit, Host.Outcome.next.injEq] at hs
  subst hs
  simp [Only]
@[simp] theorem State.forced_outside {ps : List Part} (k : Nat) (s : State) (hOcts : Part.octs ∈ ps) : (State.forced k s).outside ps = s.outside ps := by
  simp [State.forced, *]
theorem execForcedSwitch_only (c : Ch) (s : State) (s' : State) (hs : execForcedSwitch c s = .next s') : Only [.chans, .octs, .srcs] s s' := by
  unfold execForcedSwitch at hs
  repeat' split at hs
  all_goals (cases hs; simp [Only])
theorem execSwitchNoEdge_only (c : Ch) (yEdges : Bool) (s : State) (s' : State) (hs : execSwitchNoEdge c yEdges s = .next s') : Only [.chans, .octs, .srcs] s s' := by
  unfold execSwitchNoEdge at hs
  repeat' split at hs
  all_goals (cases hs; simp [Only])
end Sys2Proof.Machine
end

