-- ==== Sys2Proof/Laws/FrameEngOps.lean ====
section
/-!
SUPPORT. Frames of the operations of Machine/EngOps.lean: `X_outside` says which parts an operation can change, `X_only` the same of a
command's meaning.
-/
namespace Sys2Proof.Machine
@[simp] theorem State.reqRefused_outside {ps : List Part} (i : Nat) (h : Option Hdr) (cmd : Nat) (e : Err) (s : State) (hChans : Part.chans ∈ ps) (hMbox : Part.mbox ∈ ps) : (State.reqRefused i h cmd e s).outside ps = s.outside ps := by
  simp [State.reqRefused, *]
@[simp] theorem State.reqLost_outside {ps : List Part} (e : Err) (j : Job) (s : State) (hChans : Part.chans ∈ ps) (hMbox : Part.mbox ∈ ps) : (State.reqLost e j s).outside ps = s.outside ps := by
  unfold State.reqLost
  split <;> simp [*]
@[simp] theorem State.discard_outside {ps : List Part} (j : Job) (s : State) (hChans : Part.chans ∈ ps) (hMbox : Part.mbox ∈ ps) : (State.discard j s).outside ps = s.outside ps := by
  unfold State.discard
  split <;> simp [*]
@[simp] theorem State.enqueue_outside {ps : List Part} (e : Nat) (j : Job) (s : State) (hChans : Part.chans ∈ ps) (hOcts : Part.octs ∈ ps) (hEngs : Part.engs ∈ ps) (hMbox : Part.mbox ∈ ps) : (State.enqueue e j s).outside ps = s.outside ps := by
  unfold State.enqueue
  try dsimp only
  repeat' (first | with_reducible rfl | (simp [*]; done) | split)
@[simp] theorem State.dispatch_outside {ps : List Part} (c : Nat) (j : Job) (s : State) (hChans : Part.chans ∈ ps) (hOcts : Part.octs ∈ ps) (hEngs : Part.engs ∈ ps) (hMbox : Part.mbox ∈ ps) : (State.dispatch c j s).outside ps = s.outside ps := by
  unfold State.dispatch
  split <;> simp [*]
@[simp] theorem State.dispatchTs_outside {ps : List Part} (j : Job) (s : State) (hChans : Part.chans ∈ ps) (hOcts : Part.octs ∈ ps) (hEngs : Part.engs ∈ ps) (hMbox : Part.mbox ∈ ps) : (State.dispatchTs j s).outside ps = s.outside ps := by
  unfold State.dispatchTs
  split <;> simp [*]
@[simp] theorem State.request_outside {ps : List Part} (c : Nat) (q : Req) (s : State) (hChans : Part.chans ∈ ps) (hOcts : Part.octs ∈ ps) (hEngs : Part.engs ∈ ps) (hMbox : Part.mbox ∈ ps) : (State.request c q s).outside ps = s.outside ps := by
  simp [State.request, *]
@[simp] theorem State.dispatchHops_outside {ps : List Part} (k : Nat) (s : State) (hChans : Part.chans ∈ ps) (hOcts : Part.octs ∈ ps) (hEngs : Part.engs ∈ ps) (hMbox : Part.mbox ∈ ps) : (State.dispatchHops k s).outside ps = s.outside ps := by
  simp [State.dispatchHops, *]
@[simp] theorem State.takeLease_outside {ps : List Part} (e c : Nat) (s : State) (hChans : Part.chans ∈ ps) (hEngs : Part.engs ∈ ps) : (State.takeLease e c s).outside ps = s.outside ps := by
  simp [State.takeLease, State.outside, *]
@[simp] theorem State.takeTsLease_outside {ps : List Part} (e : Nat) (s : State) (hTs : Part.ts ∈ ps) (hEngs : Part.engs ∈ ps) : (State.takeTsLease e s).outside ps = s.outside ps := by
  simp [State.takeTsLease, State.outside, *]
@[simp] theorem State.chStart_outside {ps : List Part} (c : Nat) (s : State) (hTs : Part.ts ∈ ps) (hLatch : Part.latch ∈ ps) (hChans : Part.chans ∈ ps) (hOcts : Part.octs ∈ ps) (hEngs : Part.engs ∈ ps) (hSrcs : Part.srcs ∈ ps) (hDevq : Part.devq ∈ ps) (hRg : Part.rg ∈ ps) (hMbox : Part.mbox ∈ ps) (hPwr : Part.pwr ∈ ps) (hPar : Part.par ∈ ps) (hGw : Part.gw ∈ ps) : (State.chStart c s).2.outside ps = s.outside ps := by
  unfold State.chStart
  try dsimp only
  repeat' (first | with_reducible rfl | (simp [*]; done) | split)
@[simp] theorem State.autostart_outside {ps : List Part} (s : State) (hTs : Part.ts ∈ ps) (hLatch : Part.latch ∈ ps) (hChans : Part.chans ∈ ps) (hOcts : Part.octs ∈ ps) (hEngs : Part.engs ∈ ps) (hSrcs : Part.srcs ∈ ps) (hDevq : Part.devq ∈ ps) (hRg : Part.rg ∈ ps) (hMbox : Part.mbox ∈ ps) (hPwr : Part.pwr ∈ ps) (hPar : Part.par ∈ ps) (hGw : Part.gw ∈ ps) : (State.autostart s).outside ps = s.outside ps := by
  refine forAll_outside _ _ _ fun c s => ?_
  have h : (s.chStart c).2.outside ps = s.outside ps := by simp [*]
  revert h
  rcases s.chStart c with ⟨_ | e, t⟩ <;> intro h <;> simp_all
@[simp] theorem State.tsExecute_outside {ps : List Part} (x v : Nat) (s : State) (hPps : Part.pps ∈ ps) (hTs : Part.ts ∈ ps) (hLatch : Part.latch ∈ ps) (hChans : Part.chans ∈ ps) (hOcts : Part.octs ∈ ps) (hEngs : Part.engs ∈ ps) (hSrcs : Part.srcs ∈ ps) (hDevq : Part.devq ∈ ps) (hRg : Part.rg ∈ ps) (hMbox : Part.mbox ∈ ps) (hPwr : Part.pwr ∈ ps) (hPar : Part.par ∈ ps) (hGw : Part.gw ∈ ps) : (State.tsExecute x v s).outside ps = s.outside ps := by
  simp [State.tsExecute, *]
@[simp] theorem State.applyReq_outside {ps : List Part} (c : Nat) (q : Req) (s : State) (hChans : Part.chans ∈ ps) (hSrcs : Part.srcs ∈ ps) (hMbox : Part.mbox ∈ ps) : (State.applyReq c q s).outside ps = s.outside ps := by
  unfold State.applyReq
  split <;> simp [*]
end Sys2Proof.Machine
end

