-- ==== Sys2Proof/Laws/FrameSynthesis.lean ====
section
/-!
SUPPORT. Frames of the operations of Machine/Synthesis.lean: `X_outside` says which parts an operation can change, `X_only` the same of a
command's meaning.
-/
namespace Sys2Proof.Machine
@[simp] theorem State.hopReport_outside {ps : List Part} (k : Nat) (r : HopRep) (s : State) (hOcts : Part.octs ∈ ps) : (State.hopReport k r s).outside ps = s.outside ps := by
  simp [State.hopReport, *]
@[simp] theorem State.keepDelta_outside {ps : List Part} (w : Nat) (s : State) (hChans : Part.chans ∈ ps) : (State.keepDelta w s).outside ps = s.outside ps := by
  simp [State.keepDelta, *]
@[simp] theorem State.hopLost_outside {ps : List Part} (c : Nat) (s : State) (hChans : Part.chans ∈ ps) : (State.hopLost c s).outside ps = s.outside ps := by
  simp [State.hopLost, *]
@[simp] theorem State.latchTrig_outside {ps : List Part} (c : Nat) (t : Trig) (s : State) (hChans : Part.chans ∈ ps) : (State.latchTrig c t s).outside ps = s.outside ps := by
  unfold State.latchTrig
  split <;> simp [*]
@[simp] theorem State.handHop_outside {ps : List Part} (c : Nat) (s : State) (hChans : Part.chans ∈ ps) (hOcts : Part.octs ∈ ps) (hDlls : Part.dlls ∈ ps) (hCores : Part.cores ∈ ps) (hSrcs : Part.srcs ∈ ps) (hDevq : Part.devq ∈ ps) (hRg : Part.rg ∈ ps) (hMbox : Part.mbox ∈ ps) (hPar : Part.par ∈ ps) (hStore : Part.store ∈ ps) (hGrat : Part.grat ∈ ps) (hCal : Part.cal ∈ ps) (hGw : Part.gw ∈ ps) : (State.handHop c s).outside ps = s.outside ps := by
  unfold State.handHop
  split <;> simp [*]
@[simp] theorem State.changeNom_outside {ps : List Part} (w c n b : Nat) (f : Div → Div) (s : State) (hChans : Part.chans ∈ ps) (hOcts : Part.octs ∈ ps) : (State.changeNom w c n b f s).outside ps = s.outside ps := by
  unfold State.changeNom
  try dsimp only
  split <;> simp [*]
@[simp] theorem State.modOwn_outside {ps : List Part} (c w own : Nat) (f : Div → Div) (s : State) (hChans : Part.chans ∈ ps) : (State.modOwn c w own f s).outside ps = s.outside ps := by
  simp [State.modOwn, *]
@[simp] theorem State.hopApply_outside {ps : List Part} (c bnd own : Nat) (s : State) (hChans : Part.chans ∈ ps) (hOcts : Part.octs ∈ ps) (hDlls : Part.dlls ∈ ps) (hCores : Part.cores ∈ ps) (hSrcs : Part.srcs ∈ ps) (hDevq : Part.devq ∈ ps) (hRg : Part.rg ∈ ps) (hMbox : Part.mbox ∈ ps) (hPar : Part.par ∈ ps) (hStore : Part.store ∈ ps) (hGrat : Part.grat ∈ ps) (hCal : Part.cal ∈ ps) (hGw : Part.gw ∈ ps) : (State.hopApply c bnd own s).outside ps = s.outside ps := by
  unfold State.hopApply
  try dsimp only
  repeat' (first | with_reducible rfl | (simp [*]; done) | split)
@[simp] theorem State.hopsApply_outside {ps : List Part} (c bnd : Nat) (s : State) (hChans : Part.chans ∈ ps) (hOcts : Part.octs ∈ ps) (hDlls : Part.dlls ∈ ps) (hCores : Part.cores ∈ ps) (hSrcs : Part.srcs ∈ ps) (hDevq : Part.devq ∈ ps) (hRg : Part.rg ∈ ps) (hMbox : Part.mbox ∈ ps) (hPar : Part.par ∈ ps) (hStore : Part.store ∈ ps) (hGrat : Part.grat ∈ ps) (hCal : Part.cal ∈ ps) (hGw : Part.gw ∈ ps) : (State.hopsApply c bnd s).outside ps = s.outside ps := by
  simp [State.hopsApply, *]
theorem execCorrectionRecord_only (k : OctIx) (lane : EngIx) (bnd : Nat) (same : Bool) (s : State) (s' : State) (hs : execCorrectionRecord k lane s bnd same = .next s') : Only [.chans, .octs, .dlls, .cores, .srcs, .devq, .rg, .mbox, .par, .store, .grat, .cal, .gw] s s' := by
  unfold execCorrectionRecord at hs
  try dsimp only at hs
  repeat' split at hs
  all_goals (cases hs; simp [Only])
theorem execSlotLoad_only (k : OctIx) (bnd own : Nat) (s : State) (s' : State) (hs : execSlotLoad k bnd own s = .next s') : Only [.chans, .octs] s s' := by
  unfold execSlotLoad at hs
  try dsimp only at hs
  repeat' split at hs
  all_goals (cases hs; simp [Only])
@[simp] theorem State.selDrop_outside {ps : List Part} (k : Nat) (s : State) (hOcts : Part.octs ∈ ps) : (State.selDrop k s).outside ps = s.outside ps := by
  simp [State.selDrop, *]
@[simp] theorem State.hopSelWrite_outside {ps : List Part} (c slot : Nat) (s : State) (hChans : Part.chans ∈ ps) (hOcts : Part.octs ∈ ps) : (State.hopSelWrite c slot s).outside ps = s.outside ps := by
  simp [State.hopSelWrite, *]
theorem execHopSelWrite_only (c : Fin 256) (slot : Fin 4) (s : State) (s' : State) (hs : execHopSelWrite c slot s = .next s') : Only [.chans, .octs] s s' := by
  simp only [execHopSelWrite, Host.Outcome.next.injEq] at hs
  subst hs
  simp [Only]
theorem execMrkHopTrigger_only (c : Ch) (same : Bool) (s : State) (s' : State) (hs : execMrkHopTrigger c same s = .next s') : Only [.chans] s s' := by
  unfold execMrkHopTrigger at hs
  repeat' split at hs
  all_goals (cases hs; simp [Only])
@[simp] theorem State.opChHop_outside {ps : List Part} (h : Hdr) (c : Ch) (slot : Fin 4) (s : State) (hChans : Part.chans ∈ ps) (hOcts : Part.octs ∈ ps) (hMbox : Part.mbox ∈ ps) : (State.opChHop h c slot s).outside ps = s.outside ps := by
  simp [State.opChHop, *]
theorem execChHop_only (h : Hdr) (c : Ch) (slot : Fin 4) (s : State) (s' : State) (hs : execChHop h c slot s = .next s') : Only [.chans, .octs, .mbox] s s' := by
  simp only [execChHop, Host.Outcome.next.injEq] at hs
  subst hs
  simp [Only]
theorem execHopApply_only (c : Ch) (bnd own : Nat) (s : State) (s' : State) (hs : execHopApply c bnd own s = .next s') : Only [.chans, .octs, .dlls, .cores, .srcs, .devq, .rg, .mbox, .par, .store, .grat, .cal, .gw] s s' := by
  unfold execHopApply at hs
  try dsimp only at hs
  repeat' split at hs
  all_goals (cases hs; simp [Only])
theorem execHopRampEnd_only (c : Ch) (bnd : Nat) (s : State) (s' : State) (hs : execHopRampEnd c bnd s = .next s') : Only [.chans, .octs] s s' := by
  unfold execHopRampEnd at hs
  repeat' split at hs
  all_goals (cases hs; simp [Only])
theorem execDtcTableApply_only (c : Ch) (s : State) (s' : State) (hs : execDtcTableApply c s = .next s') : Only [.chans] s s' := by
  unfold execDtcTableApply at hs
  repeat' split at hs
  all_goals (cases hs; simp [Only])
theorem execOutPpsPulse_only (c : Ch) (sec : BitVec 48) (s : State) (s' : State) (hs : execOutPpsPulse c sec s = .next s') : Only [.chans] s s' := by
  unfold execOutPpsPulse at hs
  try dsimp only at hs
  repeat' split at hs
  all_goals (cases hs; simp [Only])
end Sys2Proof.Machine
end

