-- ==== Sys2Proof/Laws/FrameModeOps.lean ====
section
/-!
SUPPORT. Frames of the operations of Machine/ModeOps.lean: `X_outside` says which parts an operation can change, `X_only` the same of a
command's meaning.
-/
namespace Sys2Proof.Machine
@[simp] theorem State.loadRef_outside {ps : List Part} (s : State) (hRef : Part.ref ∈ ps) : (State.loadRef s).outside ps = s.outside ps := by
  simp [State.loadRef, *]
@[simp] theorem State.pdFollow_outside {ps : List Part} (l : List PdCyc) (s : State) (hRef : Part.ref ∈ ps) : (State.pdFollow l s).outside ps = s.outside ps := by
  unfold State.pdFollow
  split <;> simp [*]
@[simp] theorem State.refDisq_outside {ps : List Part} (det : RefDet) (mean : Int) (s : State) (hRef : Part.ref ∈ ps) (hTs : Part.ts ∈ ps) (hLatch : Part.latch ∈ ps) (hChans : Part.chans ∈ ps) (hOcts : Part.octs ∈ ps) (hDlls : Part.dlls ∈ ps) (hCores : Part.cores ∈ ps) (hSrcs : Part.srcs ∈ ps) (hDevq : Part.devq ∈ ps) (hRg : Part.rg ∈ ps) (hMbox : Part.mbox ∈ ps) (hPwr : Part.pwr ∈ ps) (hPar : Part.par ∈ ps) (hStore : Part.store ∈ ps) (hGrat : Part.grat ∈ ps) (hCal : Part.cal ∈ ps) (hGw : Part.gw ∈ ps) : (State.refDisq det mean s).outside ps = s.outside ps := by
  simp [State.refDisq, *]
@[simp] theorem State.refWatch_outside {ps : List Part} (tr : RefTrace) (s : State) (hRef : Part.ref ∈ ps) (hTs : Part.ts ∈ ps) (hLatch : Part.latch ∈ ps) (hChans : Part.chans ∈ ps) (hOcts : Part.octs ∈ ps) (hDlls : Part.dlls ∈ ps) (hCores : Part.cores ∈ ps) (hSrcs : Part.srcs ∈ ps) (hDevq : Part.devq ∈ ps) (hRg : Part.rg ∈ ps) (hMbox : Part.mbox ∈ ps) (hPwr : Part.pwr ∈ ps) (hPar : Part.par ∈ ps) (hStore : Part.store ∈ ps) (hGrat : Part.grat ∈ ps) (hCal : Part.cal ∈ ps) (hGw : Part.gw ∈ ps) : (State.refWatch tr s).outside ps = s.outside ps := by
  unfold State.refWatch
  try dsimp only
  repeat' (first | with_reducible rfl | (simp [*]; done) | split)
@[simp] theorem State.refPlanned_outside {ps : List Part} (s : State) (hRef : Part.ref ∈ ps) (hTs : Part.ts ∈ ps) (hLatch : Part.latch ∈ ps) (hChans : Part.chans ∈ ps) (hOcts : Part.octs ∈ ps) (hDlls : Part.dlls ∈ ps) (hCores : Part.cores ∈ ps) (hSrcs : Part.srcs ∈ ps) (hDevq : Part.devq ∈ ps) (hRg : Part.rg ∈ ps) (hMbox : Part.mbox ∈ ps) (hPwr : Part.pwr ∈ ps) (hPar : Part.par ∈ ps) (hStore : Part.store ∈ ps) (hGrat : Part.grat ∈ ps) (hCal : Part.cal ∈ ps) (hGw : Part.gw ∈ ps) : (State.refPlanned s).outside ps = s.outside ps := by
  unfold State.refPlanned
  try dsimp only
  split <;> simp [*]
@[simp] theorem State.tsAuto_outside {ps : List Part} (s : State) (hPps : Part.pps ∈ ps) (hTs : Part.ts ∈ ps) (hLatch : Part.latch ∈ ps) (hChans : Part.chans ∈ ps) (hOcts : Part.octs ∈ ps) (hEngs : Part.engs ∈ ps) (hSrcs : Part.srcs ∈ ps) (hDevq : Part.devq ∈ ps) (hRg : Part.rg ∈ ps) (hMbox : Part.mbox ∈ ps) (hPwr : Part.pwr ∈ ps) (hPar : Part.par ∈ ps) (hGw : Part.gw ∈ ps) : (State.tsAuto s).outside ps = s.outside ps := by
  unfold State.tsAuto
  try dsimp only
  repeat' (first | with_reducible rfl | (simp [*]; done) | split)
@[simp] theorem State.bypIdle_outside {ps : List Part} (c : Nat) (s : State) (hChans : Part.chans ∈ ps) (hSrcs : Part.srcs ∈ ps) : (State.bypIdle c s).outside ps = s.outside ps := by
  simp [State.bypIdle, *]
@[simp] theorem State.devBypass_outside {ps : List Part} (cause : Nat) (s : State) (hTs : Part.ts ∈ ps) (hLatch : Part.latch ∈ ps) (hChans : Part.chans ∈ ps) (hOcts : Part.octs ∈ ps) (hDlls : Part.dlls ∈ ps) (hCores : Part.cores ∈ ps) (hSrcs : Part.srcs ∈ ps) (hDevq : Part.devq ∈ ps) (hRg : Part.rg ∈ ps) (hMbox : Part.mbox ∈ ps) (hPwr : Part.pwr ∈ ps) (hPar : Part.par ∈ ps) (hStore : Part.store ∈ ps) (hGrat : Part.grat ∈ ps) (hTests : Part.tests ∈ ps) (hCal : Part.cal ∈ ps) (hGw : Part.gw ∈ ps) : (State.devBypass cause s).outside ps = s.outside ps := by
  unfold State.devBypass
  try dsimp only
  split <;> simp [*]
@[simp] theorem State.leaveDevice_outside {ps : List Part} (c : Nat) (s : State) (hChans : Part.chans ∈ ps) (hSrcs : Part.srcs ∈ ps) (hMbox : Part.mbox ∈ ps) (hTests : Part.tests ∈ ps) : (State.leaveDevice c s).outside ps = s.outside ps := by
  simp [State.leaveDevice, *]
@[simp] theorem State.leaveDevBypass_outside {ps : List Part} (m : Mode) (s : State) (hChans : Part.chans ∈ ps) (hOcts : Part.octs ∈ ps) (hSrcs : Part.srcs ∈ ps) (hMbox : Part.mbox ∈ ps) (hPwr : Part.pwr ∈ ps) (hTests : Part.tests ∈ ps) : (State.leaveDevBypass m s).outside ps = s.outside ps := by
  simp [State.leaveDevBypass, *]
@[simp] theorem State.refReset_outside {ps : List Part} (s : State) (hRef : Part.ref ∈ ps) (hPps : Part.pps ∈ ps) (hTs : Part.ts ∈ ps) (hDlls : Part.dlls ∈ ps) (hCores : Part.cores ∈ ps) (hSrcs : Part.srcs ∈ ps) (hDevq : Part.devq ∈ ps) (hRg : Part.rg ∈ ps) (hPwr : Part.pwr ∈ ps) (hPar : Part.par ∈ ps) (hGw : Part.gw ∈ ps) : (State.refReset s).outside ps = s.outside ps := by
  simp [State.refReset, *]
@[simp] theorem State.measLost_outside {ps : List Part} (also : Option RefTrace) (s : State) (hRef : Part.ref ∈ ps) (hPps : Part.pps ∈ ps) (hTs : Part.ts ∈ ps) (hLatch : Part.latch ∈ ps) (hChans : Part.chans ∈ ps) (hOcts : Part.octs ∈ ps) (hDlls : Part.dlls ∈ ps) (hCores : Part.cores ∈ ps) (hSrcs : Part.srcs ∈ ps) (hDevq : Part.devq ∈ ps) (hRg : Part.rg ∈ ps) (hMbox : Part.mbox ∈ ps) (hPwr : Part.pwr ∈ ps) (hPar : Part.par ∈ ps) (hStore : Part.store ∈ ps) (hGrat : Part.grat ∈ ps) (hTests : Part.tests ∈ ps) (hCal : Part.cal ∈ ps) (hGw : Part.gw ∈ ps) : (State.measLost also s).outside ps = s.outside ps := by
  unfold State.measLost
  split <;> simp [*]
end Sys2Proof.Machine
end

