-- ==== Sys2Proof/Laws/FrameReference.lean ====
section
/-!
SUPPORT. Frames of the operations of Machine/Reference.lean: `X_outside` says which parts an operation can change, `X_only` the same of a
command's meaning.
-/
namespace Sys2Proof.Machine
theorem execRefinMissingEdge_only (tr : RefTrace) (s : State) (s' : State) (hs : execRefinMissingEdge tr s = .next s') : Only [.ref, .ts, .latch, .chans, .octs, .dlls, .cores, .srcs, .devq, .rg, .mbox, .pwr, .par, .store, .grat, .cal, .gw] s s' := by
  simp only [execRefinMissingEdge, Host.Outcome.next.injEq] at hs
  subst hs
  simp [Only]
theorem execRefinLoopWindow_only (tr : RefTrace) (s : State) (s' : State) (hs : execRefinLoopWindow tr s = .next s') : Only [.ref, .ts, .latch, .chans, .octs, .dlls, .cores, .srcs, .devq, .rg, .mbox, .pwr, .par, .store, .grat, .cal, .gw] s s' := by
  unfold execRefinLoopWindow at hs
  repeat' split at hs
  all_goals (cases hs; simp [Only])
theorem execRefinFrequencyGate_only (dev : Int) (tr : RefTrace) (s : State) (s' : State) (hs : execRefinFrequencyGate dev tr s = .next s') : Only [.ref, .ts, .latch, .chans, .octs, .dlls, .cores, .srcs, .devq, .rg, .mbox, .pwr, .par, .store, .grat, .cal, .gw] s s' := by
  unfold execRefinFrequencyGate at hs
  repeat' split at hs
  all_goals (cases hs; simp [Only])
theorem execRefinFreqWindow_only (dev : Int) (s : State) (s' : State) (hs : execRefinFreqWindow dev s = .next s') : Only [.ref] s s' := by
  unfold execRefinFreqWindow at hs
  repeat' split at hs
  all_goals (cases hs; simp [Only])
@[simp] theorem State.mpllLocked_outside {ps : List Part} (s : State) (hRef : Part.ref ∈ ps) (hPps : Part.pps ∈ ps) (hTs : Part.ts ∈ ps) (hLatch : Part.latch ∈ ps) (hChans : Part.chans ∈ ps) (hOcts : Part.octs ∈ ps) (hEngs : Part.engs ∈ ps) (hSrcs : Part.srcs ∈ ps) (hDevq : Part.devq ∈ ps) (hRg : Part.rg ∈ ps) (hMbox : Part.mbox ∈ ps) (hPwr : Part.pwr ∈ ps) (hPar : Part.par ∈ ps) (hGw : Part.gw ∈ ps) : (State.mpllLocked s).outside ps = s.outside ps := by
  simp [State.mpllLocked, *]
theorem execMpllLock_only (cyc : List PdCyc) (s : State) (s' : State) (hs : execMpllLock s cyc = .next s') : Only [.ref, .pps, .ts, .latch, .chans, .octs, .engs, .srcs, .devq, .rg, .mbox, .pwr, .par, .gw] s s' := by
  unfold execMpllLock at hs
  try dsimp only at hs
  repeat' split at hs
  all_goals (simp only [Host.Outcome.next.injEq] at hs; subst hs; unfold Only; repeat' (first | (simp; done) | split))
theorem execRefQual_only (cyc : List PdCyc) (s : State) (s' : State) (hs : execRefQual s cyc = .next s') : Only [.ref, .pps, .ts, .latch, .chans, .octs, .engs, .srcs, .devq, .rg, .mbox, .pwr, .par, .gw] s s' := by
  unfold execRefQual at hs
  repeat' split at hs
  all_goals (cases hs; simp [Only])
theorem execMeasurementLoopLost_only (also : Option RefTrace) (s : State) (s' : State) (hs : execMeasurementLoopLost also s = .next s') : Only [.ref, .pps, .ts, .latch, .chans, .octs, .dlls, .cores, .srcs, .devq, .rg, .mbox, .pwr, .par, .store, .grat, .tests, .cal, .gw] s s' := by
  unfold execMeasurementLoopLost at hs
  try dsimp only at hs
  repeat' split at hs
  all_goals (simp only [Host.Outcome.next.injEq] at hs; subst hs; unfold Only; repeat' (first | (simp; done) | split))
theorem execPpsinEdge_only (t : Nat) (s : State) (s' : State) (hs : execPpsinEdge t s = .next s') : Only [.ref, .pps] s s' := by
  unfold execPpsinEdge at hs
  try dsimp only at hs
  repeat' split at hs
  all_goals (cases hs; simp [Only])
theorem execPpsLost_only (s : State) (s' : State) (hs : execPpsLost s = .next s') : Only [.ref, .pps] s s' := by
  unfold execPpsLost at hs
  repeat' split at hs
  all_goals (cases hs; simp [Only])
end Sys2Proof.Machine
end

