-- ==== Sys2Proof/Laws/FrameSteering.lean ====
section
/-!
SUPPORT. Frames of the operations of Machine/Steering.lean: `X_outside` says which parts an operation can change, `X_only` the same of a
command's meaning.
-/
namespace Sys2Proof.Machine
@[simp] theorem State.writeUpdate_outside {ps : List Part} (lane c : Nat) (v : Srv) (u slew : Int) (s : State) (hChans : Part.chans ∈ ps) (hOcts : Part.octs ∈ ps) : (State.writeUpdate lane c v u slew s).outside ps = s.outside ps := by
  simp [State.writeUpdate, *]
@[simp] theorem State.divChk_outside {ps : List Part} (c : Nat) (s : State) (hTs : Part.ts ∈ ps) (hLatch : Part.latch ∈ ps) (hChans : Part.chans ∈ ps) (hOcts : Part.octs ∈ ps) (hDlls : Part.dlls ∈ ps) (hCores : Part.cores ∈ ps) (hSrcs : Part.srcs ∈ ps) (hDevq : Part.devq ∈ ps) (hRg : Part.rg ∈ ps) (hMbox : Part.mbox ∈ ps) (hPwr : Part.pwr ∈ ps) (hPar : Part.par ∈ ps) (hStore : Part.store ∈ ps) (hGrat : Part.grat ∈ ps) (hFlt : Part.flt ∈ ps) (hCal : Part.cal ∈ ps) (hGw : Part.gw ∈ ps) : (State.divChk c s).outside ps = s.outside ps := by
  simp [State.divChk, *]
@[simp] theorem State.lockCount_outside {ps : List Part} (c : Nat) (e : Int) (s : State) (hChans : Part.chans ∈ ps) (hSrcs : Part.srcs ∈ ps) (hMbox : Part.mbox ∈ ps) : (State.lockCount c e s).outside ps = s.outside ps := by
  simp [State.lockCount, *]
@[simp] theorem State.steerIdle_outside {ps : List Part} (c : Nat) (rx : Bool) (r : Rec) (jump : Bool) (s : State) (hChans : Part.chans ∈ ps) : (State.steerIdle c rx r jump s).outside ps = s.outside ps := by
  simp [State.steerIdle, *]
@[simp] theorem State.steerHold_outside {ps : List Part} (c : Nat) (rx : Bool) (r : Rec) (jump next : Bool) (s : State) (hChans : Part.chans ∈ ps) (hMbox : Part.mbox ∈ ps) : (State.steerHold c rx r jump next s).outside ps = s.outside ps := by
  simp [State.steerHold, *]
@[simp] theorem State.gridTxm_outside {ps : List Part} (c t : Nat) (jump : Bool) (s : State) (hChans : Part.chans ∈ ps) : (State.gridTxm c t jump s).outside ps = s.outside ps := by
  unfold State.gridTxm
  try dsimp only
  split <;> simp [*]
@[simp] theorem State.gridRx_outside {ps : List Part} (c : Nat) (g : Int) (s : State) (hChans : Part.chans ∈ ps) : (State.gridRx c g s).outside ps = s.outside ps := by
  unfold State.gridRx
  try dsimp only
  split <;> simp [*]
@[simp] theorem State.steerUpdate_outside {ps : List Part} (lane c : Nat) (rx : Bool) (r : Rec) (e : Int) (s : State) (hChans : Part.chans ∈ ps) (hOcts : Part.octs ∈ ps) (hSrcs : Part.srcs ∈ ps) (hMbox : Part.mbox ∈ ps) : (State.steerUpdate lane c rx r e s).outside ps = s.outside ps := by
  simp [State.steerUpdate, *]
@[simp] theorem State.chDone_outside {ps : List Part} (c : Nat) (s : State) (hChans : Part.chans ∈ ps) (hMbox : Part.mbox ∈ ps) : (State.chDone c s).outside ps = s.outside ps := by
  simp [State.chDone, *]
@[simp] theorem State.outlierRec_outside {ps : List Part} (lane c : Nat) (s : State) (hChans : Part.chans ∈ ps) (hOcts : Part.octs ∈ ps) (hMbox : Part.mbox ∈ ps) (hFlt : Part.flt ∈ ps) : (State.outlierRec lane c s).outside ps = s.outside ps := by
  simp [State.outlierRec, *]
@[simp] theorem State.steerAlign_outside {ps : List Part} (lane c : Nat) (r : Rec) (h : Hand) (d : Int) (s : State) (hChans : Part.chans ∈ ps) (hOcts : Part.octs ∈ ps) (hSrcs : Part.srcs ∈ ps) (hMbox : Part.mbox ∈ ps) : (State.steerAlign lane c r h d s).outside ps = s.outside ps := by
  simp [State.steerAlign, *]
@[simp] theorem State.shiftReal_outside {ps : List Part} (c : Nat) (rx : Bool) (d : Int) (s : State) (hChans : Part.chans ∈ ps) : (State.shiftReal c rx d s).outside ps = s.outside ps := by
  simp [State.shiftReal, *]
@[simp] theorem State.steerRun_outside {ps : List Part} (lane c : Nat) (rx : Bool) (r : Rec) (g : Int) (jump : Bool) (s : State) (hTs : Part.ts ∈ ps) (hLatch : Part.latch ∈ ps) (hChans : Part.chans ∈ ps) (hOcts : Part.octs ∈ ps) (hDlls : Part.dlls ∈ ps) (hCores : Part.cores ∈ ps) (hSrcs : Part.srcs ∈ ps) (hDevq : Part.devq ∈ ps) (hRg : Part.rg ∈ ps) (hMbox : Part.mbox ∈ ps) (hPwr : Part.pwr ∈ ps) (hPar : Part.par ∈ ps) (hStore : Part.store ∈ ps) (hGrat : Part.grat ∈ ps) (hFlt : Part.flt ∈ ps) (hCal : Part.cal ∈ ps) (hGw : Part.gw ∈ ps) : (State.steerRun lane c rx r g jump s).outside ps = s.outside ps := by
  simp [State.steerRun, *]
@[simp] theorem State.steer_outside {ps : List Part} (lane c : Nat) (r : Rec) (s : State) (hTs : Part.ts ∈ ps) (hLatch : Part.latch ∈ ps) (hChans : Part.chans ∈ ps) (hOcts : Part.octs ∈ ps) (hDlls : Part.dlls ∈ ps) (hCores : Part.cores ∈ ps) (hSrcs : Part.srcs ∈ ps) (hDevq : Part.devq ∈ ps) (hRg : Part.rg ∈ ps) (hMbox : Part.mbox ∈ ps) (hPwr : Part.pwr ∈ ps) (hPar : Part.par ∈ ps) (hStore : Part.store ∈ ps) (hGrat : Part.grat ∈ ps) (hFlt : Part.flt ∈ ps) (hCal : Part.cal ∈ ps) (hGw : Part.gw ∈ ps) : (State.steer lane c r s).outside ps = s.outside ps := by
  unfold State.steer
  try dsimp only
  repeat' (first | with_reducible rfl | (simp [*]; done) | split)
@[simp] theorem State.moveGrid_outside {ps : List Part} (r : HopRep) (s : State) (hChans : Part.chans ∈ ps) : (State.moveGrid r s).outside ps = s.outside ps := by
  unfold State.moveGrid
  try dsimp only
  repeat' (first | with_reducible rfl | (simp [*]; done) | split)
@[simp] theorem State.takeReport_outside {ps : List Part} (r : HopRep) (s : State) (hChans : Part.chans ∈ ps) : (State.takeReport r s).outside ps = s.outside ps := by
  unfold State.takeReport
  try dsimp only
  repeat' (first | with_reducible rfl | (simp [*]; done) | split)
end Sys2Proof.Machine
end

