-- ==== Sys2Proof/Laws/FramePhaseCmds.lean ====
section
/-!
SUPPORT. Frames of the operations of Machine/PhaseCmds.lean: `X_outside` says which parts an operation can change, `X_only` the same of a
command's meaning.
-/
namespace Sys2Proof.Machine
@[simp] theorem State.opPhaseAdj_outside {ps : List Part} (h : Hdr) (c : Nat) (d : Int) (s : State) (hChans : Part.chans ∈ ps) (hOcts : Part.octs ∈ ps) (hEngs : Part.engs ∈ ps) (hMbox : Part.mbox ∈ ps) : (State.opPhaseAdj h c d s).outside ps = s.outside ps := by
  unfold State.opPhaseAdj
  try dsimp only
  repeat' (first | with_reducible rfl | (simp [*]; done) | split)
theorem execChPhaseAdj_only (h : Hdr) (c : Ch) (d : Int) (s : State) (s' : State) (hs : execChPhaseAdj h c d s = .next s') : Only [.chans, .octs, .engs, .mbox] s s' := by
  simp only [execChPhaseAdj, Host.Outcome.next.injEq] at hs
  subst hs
  simp [Only]
@[simp] theorem State.opPhaseCancel_outside {ps : List Part} (h : Hdr) (c : Nat) (s : State) (hChans : Part.chans ∈ ps) (hOcts : Part.octs ∈ ps) (hEngs : Part.engs ∈ ps) (hMbox : Part.mbox ∈ ps) : (State.opPhaseCancel h c s).outside ps = s.outside ps := by
  unfold State.opPhaseCancel
  try dsimp only
  repeat' (first | with_reducible rfl | (simp [*]; done) | split)
theorem execChPhaseCancel_only (h : Hdr) (c : Ch) (s : State) (s' : State) (hs : execChPhaseCancel h c s = .next s') : Only [.chans, .octs, .engs, .mbox] s s' := by
  simp only [execChPhaseCancel, Host.Outcome.next.injEq] at hs
  subst hs
  simp [Only]
@[simp] theorem State.opTraverse_outside {ps : List Part} (h : Hdr) (c : Option Nat) (s : State) (hMbox : Part.mbox ∈ ps) : (State.opTraverse h c s).outside ps = s.outside ps := by
  simp [State.opTraverse, *]
theorem execChTraverse_only (h : Hdr) (c : Option Ch) (s : State) (s' : State) (hs : execChTraverse h c s = .next s') : Only [.mbox] s s' := by
  simp only [execChTraverse, Host.Outcome.next.injEq] at hs
  subst hs
  simp [Only]
end Sys2Proof.Machine
end

