-- ==== Sys2Proof/Laws/FrameStamping.lean ====
section
/-!
SUPPORT. Frames of the operations of Machine/Stamping.lean: `X_outside` says which parts an operation can change, `X_only` the same of a
command's meaning.
-/
namespace Sys2Proof.Machine
@[simp] theorem State.dropEv_outside {ps : List Part} (src : Nat) (ch : ChCnt → ChCnt) (dv : SrcS → SrcS) (s : State) (hChans : Part.chans ∈ ps) (hSrcs : Part.srcs ∈ ps) : (State.dropEv src ch dv s).outside ps = s.outside ps := by
  simp [State.dropEv, *]
@[simp] theorem State.dropRate_outside {ps : List Part} (src : Nat) (s : State) (hChans : Part.chans ∈ ps) (hSrcs : Part.srcs ∈ ps) : (State.dropRate src s).outside ps = s.outside ps := by
  simp [State.dropRate, *]
@[simp] theorem State.dropTxm_outside {ps : List Part} (src : Nat) (s : State) (hChans : Part.chans ∈ ps) (hSrcs : Part.srcs ∈ ps) : (State.dropTxm src s).outside ps = s.outside ps := by
  simp [State.dropTxm, *]
@[simp] theorem State.dropDll_outside {ps : List Part} (src : Nat) (s : State) (hChans : Part.chans ∈ ps) (hSrcs : Part.srcs ∈ ps) : (State.dropDll src s).outside ps = s.outside ps := by
  simp [State.dropDll, *]
@[simp] theorem State.dropHold_outside {ps : List Part} (src : Nat) (s : State) (hChans : Part.chans ∈ ps) (hSrcs : Part.srcs ∈ ps) : (State.dropHold src s).outside ps = s.outside ps := by
  simp [State.dropHold, *]
@[simp] theorem State.abandonTxm_outside {ps : List Part} (core t : Nat) (s : State) (hChans : Part.chans ∈ ps) (hCores : Part.cores ∈ ps) (hSrcs : Part.srcs ∈ ps) : (State.abandonTxm core t s).outside ps = s.outside ps := by
  unfold State.abandonTxm
  try dsimp only
  split <;> simp [*]
@[simp] theorem State.hold_outside {ps : List Part} (core src : Nat) (fall welt : Bool) (t : Nat) (dl : Int) (s : State) (hChans : Part.chans ∈ ps) (hCores : Part.cores ∈ ps) (hSrcs : Part.srcs ∈ ps) : (State.hold core src fall welt t dl s).outside ps = s.outside ps := by
  simp [State.hold, *]
@[simp] theorem State.event_outside {ps : List Part} (x : Source) (core src : Nat) (welt fall : Bool) (tap vern : Nat) (s : State) (hChans : Part.chans ∈ ps) (hCores : Part.cores ∈ ps) (hSrcs : Part.srcs ∈ ps) : (State.event x core src welt fall tap vern s).outside ps = s.outside ps := by
  simp [State.event, *]
theorem execTdcEvent_only (x : Source) (fall : Bool) (tap : Fin 64) (vern : Fin 32) (s : State) (s' : State) (hs : execTdcEvent x fall tap vern s = .next s') : Only [.chans, .cores, .srcs] s s' := by
  unfold execTdcEvent at hs
  try dsimp only at hs
  repeat' split at hs
  all_goals (cases hs; simp [Only])
theorem execStampRecordWrite_only (q : Fin 9) (s : State) (s' : State) (hs : execStampRecordWrite q s = .next s') : Only [.octs, .cores, .srcs, .devq] s s' := by
  unfold execStampRecordWrite at hs
  try dsimp only at hs
  repeat' split at hs
  all_goals (cases hs; simp [Only])
theorem execDllLock_only (k : Fin 9) (ctrl : BitVec 10) (s : State) (s' : State) (hs : execDllLock k ctrl s = .next s') : Only [.dlls] s s' := by
  unfold execDllLock at hs
  repeat' split at hs
  all_goals (cases hs; simp [Only])
theorem execDllLoss_only (k : Fin 9) (s : State) (s' : State) (hs : execDllLoss k s = .next s') : Only [.dlls] s s' := by
  unfold execDllLoss at hs
  repeat' split at hs
  all_goals (cases hs; simp [Only])
@[simp] theorem State.retireStamping_outside {ps : List Part} (k : Nat) (s : State) (hChans : Part.chans ∈ ps) (hOcts : Part.octs ∈ ps) (hDlls : Part.dlls ∈ ps) (hCores : Part.cores ∈ ps) (hSrcs : Part.srcs ∈ ps) (hDevq : Part.devq ∈ ps) (hRg : Part.rg ∈ ps) (hMbox : Part.mbox ∈ ps) (hPar : Part.par ∈ ps) (hStore : Part.store ∈ ps) (hGrat : Part.grat ∈ ps) (hCal : Part.cal ∈ ps) (hGw : Part.gw ∈ ps) : (State.retireStamping k s).outside ps = s.outside ps := by
  simp [State.retireStamping, *]
theorem execDllFail_only (k : Fin 9) (s : State) (s' : State) (hs : execDllFail k s = .next s') : Only [.chans, .octs, .dlls, .cores, .srcs, .devq, .rg, .mbox, .par, .store, .grat, .flt, .cal, .gw] s s' := by
  unfold execDllFail at hs
  try dsimp only at hs
  repeat' split at hs
  all_goals (simp only [Host.Outcome.next.injEq] at hs; subst hs; unfold Only; repeat' (first | (simp; done) | split))
theorem execLineFail_only (core : Fin 532) (s : State) (s' : State) (hs : execLineFail core s = .next s') : Only [.ts, .latch, .chans, .octs, .dlls, .cores, .srcs, .devq, .rg, .mbox, .pwr, .par, .store, .grat, .flt, .cal, .gw] s s' := by
  unfold execLineFail at hs
  try dsimp only at hs
  repeat' split at hs
  all_goals (cases hs; simp [Only])
end Sys2Proof.Machine
end

