-- ==== Sys2Proof/Laws/FrameEngines.lean ====
section
/-!
SUPPORT. Frames of the operations of Machine/Engines.lean: `X_outside` says which parts an operation can change, `X_only` the same of a
command's meaning.
-/
namespace Sys2Proof.Machine
@[simp] theorem State.bndCount_outside {ps : List Part} (r : Rec) (s : State) (hTs : Part.ts ∈ ps) (hDevq : Part.devq ∈ ps) (hRg : Part.rg ∈ ps) (hPar : Part.par ∈ ps) (hGw : Part.gw ∈ ps) : (State.bndCount r s).outside ps = s.outside ps := by
  unfold State.bndCount
  split <;> simp [*]
@[simp] theorem State.dispatchChan_outside {ps : List Part} (r : Rec) (s : State) (hTs : Part.ts ∈ ps) (hChans : Part.chans ∈ ps) (hOcts : Part.octs ∈ ps) (hEngs : Part.engs ∈ ps) (hDevq : Part.devq ∈ ps) (hRg : Part.rg ∈ ps) (hMbox : Part.mbox ∈ ps) (hPar : Part.par ∈ ps) (hGw : Part.gw ∈ ps) : (State.dispatchChan r s).outside ps = s.outside ps := by
  simp [State.dispatchChan, *]
theorem execDispatchRecord_only (q : Fin 9) (s : State) (s' : State) (hs : execDispatchRecord q s = .next s') : Only [.ts, .chans, .octs, .engs, .devq, .iv, .ring, .rg, .mbox, .par, .gw] s s' := by
  unfold execDispatchRecord at hs
  try dsimp only at hs
  repeat' split at hs
  all_goals (cases hs; simp [Only])
theorem State.startJob_outside {ps : List Part} {e : Nat} {p : Job → Bool} {s : State} {x : Job × List Job × State}
    (h : s.startJob e p = some x) (hEngs : Part.engs ∈ ps) : x.2.2.outside ps = s.outside ps := by
  unfold State.startJob at h
  dsimp only at h
  repeat' split at h
  all_goals first | contradiction | (injection h with h; subst h; simp [*])
theorem State.startSide_outside {ps : List Part} {e : Nat} {p : Job → Bool} {s : State} {x : Job × State}
    (h : s.startSide e p = some x) (hEngs : Part.engs ∈ ps) : x.2.outside ps = s.outside ps := by
  unfold State.startSide at h
  repeat' split at h
  all_goals first | contradiction | (injection h with h; subst h; simp [*])
@[simp] theorem State.jobDone_outside {ps : List Part} (e : Nat) (s : State) (hEngs : Part.engs ∈ ps) : (State.jobDone e s).outside ps = s.outside ps := by
  simp [State.jobDone, *]
@[simp] theorem State.settle_outside {ps : List Part} (e : Nat) (w : Settle) (s : State) (hEngs : Part.engs ∈ ps) : (State.settle e w s).outside ps = s.outside ps := by
  simp [State.settle, *]
@[simp] theorem State.side_outside {ps : List Part} (j : Job) (s : State) (hTs : Part.ts ∈ ps) (hChans : Part.chans ∈ ps) (hSrcs : Part.srcs ∈ ps)
    (hMbox : Part.mbox ∈ ps) : (State.side j s).outside ps = s.outside ps := by
  cases j <;> simp [State.side, *]
@[simp] theorem State.sides_outside {ps : List Part} (e : Nat) (l : List Job) (s : State) (hTs : Part.ts ∈ ps) (hChans : Part.chans ∈ ps) (hEngs : Part.engs ∈ ps) (hSrcs : Part.srcs ∈ ps) (hMbox : Part.mbox ∈ ps) : (State.sides e l s).outside ps = s.outside ps := by
  simp [State.sides, *]
@[simp] theorem State.sidesOf_outside {ps : List Part} (e c : Nat) (s : State) (hTs : Part.ts ∈ ps) (hChans : Part.chans ∈ ps) (hEngs : Part.engs ∈ ps) (hSrcs : Part.srcs ∈ ps) (hMbox : Part.mbox ∈ ps) : (State.sidesOf e c s).outside ps = s.outside ps := by
  simp [State.sidesOf, *]
@[simp] theorem State.steerStage_outside {ps : List Part} (e c : Nat) (r : Rec) (pre : List Job) (s : State) (hTs : Part.ts ∈ ps) (hLatch : Part.latch ∈ ps) (hChans : Part.chans ∈ ps) (hOcts : Part.octs ∈ ps) (hDlls : Part.dlls ∈ ps) (hEngs : Part.engs ∈ ps) (hCores : Part.cores ∈ ps) (hSrcs : Part.srcs ∈ ps) (hDevq : Part.devq ∈ ps) (hRg : Part.rg ∈ ps) (hMbox : Part.mbox ∈ ps) (hPwr : Part.pwr ∈ ps) (hPar : Part.par ∈ ps) (hStore : Part.store ∈ ps) (hGrat : Part.grat ∈ ps) (hFlt : Part.flt ∈ ps) (hCal : Part.cal ∈ ps) (hGw : Part.gw ∈ ps) : (State.steerStage e c r pre s).outside ps = s.outside ps := by
  simp [State.steerStage, *]
theorem execSteeringJob_only (e : EngIx) (s : State) (s' : State) (hs : execSteeringJob e s = .next s') : Only [.ts, .latch, .chans, .octs, .dlls, .engs, .cores, .srcs, .devq, .rg, .mbox, .pwr, .par, .store, .grat, .flt, .cal, .gw] s s' := by
  unfold execSteeringJob at hs
  split at hs
  · rename_i he
    have hs := Host.Outcome.next.inj hs
    subst hs
    unfold Only
    exact (State.steerStage_outside (ps := ([.ts, .latch, .chans, .octs, .dlls, .engs, .cores, .srcs, .devq, .rg, .mbox, .pwr, .par, .store, .grat, .flt, .cal, .gw] : List Part)) _ _ _ _ _ (hTs := by simp) (hLatch := by simp) (hChans := by simp) (hOcts := by simp) (hDlls := by simp) (hEngs := by simp) (hCores := by simp) (hSrcs := by simp) (hDevq := by simp) (hRg := by simp) (hMbox := by simp) (hPwr := by simp) (hPar := by simp) (hStore := by simp) (hGrat := by simp) (hFlt := by simp) (hCal := by simp) (hGw := by simp)).trans (State.startJob_outside (ps := ([.ts, .latch, .chans, .octs, .dlls, .engs, .cores, .srcs, .devq, .rg, .mbox, .pwr, .par, .store, .grat, .flt, .cal, .gw] : List Part)) he (by simp))
  · cases hs; rfl
@[simp] theorem State.tickFor_outside {ps : List Part} (composed : Bool) (s : State) (hTs : Part.ts ∈ ps) (hLatch : Part.latch ∈ ps) (hChans : Part.chans ∈ ps) (hDevq : Part.devq ∈ ps) (hMbox : Part.mbox ∈ ps) : (State.tickFor composed s).outside ps = s.outside ps := by
  simp [State.tickFor, *]
@[simp] theorem State.tsStage_outside {ps : List Part} (e : Nat) (j : Job) (pre : List Job) (s : State) (hTs : Part.ts ∈ ps) (hLatch : Part.latch ∈ ps) (hChans : Part.chans ∈ ps) (hEngs : Part.engs ∈ ps) (hSrcs : Part.srcs ∈ ps) (hDevq : Part.devq ∈ ps) (hRg : Part.rg ∈ ps) (hMbox : Part.mbox ∈ ps) (hPar : Part.par ∈ ps) (hGw : Part.gw ∈ ps) : (State.tsStage e j pre s).outside ps = s.outside ps := by
  unfold State.tsStage
  split <;> simp [*]
theorem execTimescaleSteeringJob_only (e : EngIx) (s : State) (s' : State) (hs : execTimescaleSteeringJob e s = .next s') : Only [.ts, .latch, .chans, .engs, .srcs, .devq, .rg, .mbox, .par, .gw] s s' := by
  unfold execTimescaleSteeringJob at hs
  split at hs
  · rename_i he
    injection hs with hs
    rw [← hs]
    have h := State.startJob_outside (ps := ([.ts, .latch, .chans, .engs, .srcs, .devq, .rg, .mbox, .par, .gw] : List Part)) he (by simp)
    simp only at h
    unfold Only
    rw [← h]
    simp
  · cases hs; rfl
theorem execWholeCycleRecordJob_only (e : EngIx) (s : State) (s' : State) (hs : execWholeCycleRecordJob e s = .next s') : Only [.ts, .latch, .chans, .engs, .srcs, .devq, .mbox] s s' := by
  unfold execWholeCycleRecordJob at hs
  split at hs
  · rename_i he
    injection hs with hs
    rw [← hs]
    have h := State.startSide_outside (ps := ([.ts, .latch, .chans, .engs, .srcs, .devq, .mbox] : List Part)) he (by simp)
    simp only at h
    unfold Only
    rw [← h]
    simp
  · cases hs; rfl
@[simp] theorem State.sideJob_outside {ps : List Part} (e c : Nat) (j : Job) (s : State) (hTs : Part.ts ∈ ps) (hChans : Part.chans ∈ ps) (hEngs : Part.engs ∈ ps) (hSrcs : Part.srcs ∈ ps) (hMbox : Part.mbox ∈ ps) : (State.sideJob e c j s).outside ps = s.outside ps := by
  simp [State.sideJob, *]
theorem execHopReportJob_only (k : OctIx) (s : State) (s' : State) (hs : execHopReportJob k s = .next s') : Only [.ts, .chans, .octs, .engs, .srcs, .mbox] s s' := by
  unfold execHopReportJob at hs
  split at hs
  · cases hs; rfl
  · dsimp only at hs
    split at hs
    · rename_i he
      injection hs with hs
      rw [← hs]
      obtain ⟨i, -, hi⟩ := List.exists_of_findSome?_eq_some he
      rw [Option.map_eq_some_iff] at hi
      obtain ⟨w, hw, hp⟩ := hi
      injection hp with h1 h2
      have h := State.startSide_outside (ps := ([.ts, .chans, .octs, .engs, .srcs, .mbox] : List Part)) hw (by simp)
      rw [h2] at h
      simp only at h
      unfold Only
      rw [State.sideJob_outside (hTs := by simp) (hChans := by simp) (hEngs := by simp) (hSrcs := by simp) (hMbox := by simp), h]
      simp
    · cases hs; unfold Only; simp
theorem execRequestJob_only (e : EngIx) (s : State) (s' : State) (hs : execRequestJob e s = .next s') : Only [.ts, .chans, .engs, .srcs, .mbox] s s' := by
  unfold execRequestJob at hs
  split at hs
  · rename_i he
    injection hs with hs
    rw [← hs]
    have h := State.startSide_outside (ps := ([.ts, .chans, .engs, .srcs, .mbox] : List Part)) he (by simp)
    simp only at h
    unfold Only
    rw [← h]
    simp
  · cases hs; rfl
theorem execTsTick_only (s : State) (s' : State) (hs : execTsTick s = .next s') : Only [.ts, .latch, .chans, .octs, .engs, .devq, .mbox] s s' := by
  unfold execTsTick at hs
  repeat' split at hs
  all_goals (cases hs; simp [Only])
@[simp] theorem State.release_outside {ps : List Part} (e : Nat) (c : Option Nat) (s : State) (hTs : Part.ts ∈ ps) (hChans : Part.chans ∈ ps) :
    (State.release e c s).outside ps = s.outside ps := by
  cases c <;> simp only [State.release] <;> split <;> simp [*]
@[simp] theorem State.homeJob_outside {ps : List Part} (e c : Nat) (s : State) (hChans : Part.chans ∈ ps) (hEngs : Part.engs ∈ ps) : (State.homeJob e c s).outside ps = s.outside ps := by
  unfold State.homeJob
  try dsimp only
  repeat' (first | with_reducible rfl | (simp [*]; done) | split)
theorem execSettleDone_only (e : EngIx) (s : State) (s' : State) (hs : execSettleDone e s = .next s') : Only [.ts, .chans, .engs] s s' := by
  unfold execSettleDone at hs
  repeat' split at hs
  all_goals (cases hs; simp [Only])
theorem execStealClaim_only (t v : EngIx) (s : State) (s' : State) (hs : execStealClaim t v s = .next s') : Only [.ts, .chans, .engs] s s' := by
  unfold execStealClaim at hs
  try dsimp only at hs
  repeat' split at hs
  all_goals (cases hs; simp [Only])
theorem execCsmFetchDone_only (e : EngIx) (s : State) (s' : State) (hs : execCsmFetchDone e s = .next s') : Only [.engs] s s' := by
  unfold execCsmFetchDone at hs
  repeat' split at hs
  all_goals (cases hs; simp [Only])
theorem execSkew_only (e : EngIx) (long : Bool) (seed : Option (BitVec 32)) (s : State) (s' : State) (hs : execSkew e long seed s = .next s') : Only [.octs, .mbox] s s' := by
  unfold execSkew at hs
  try dsimp only at hs
  repeat' split at hs
  all_goals (cases hs; simp [Only])
@[simp] theorem State.opEngEpoch_outside {ps : List Part} (h : Hdr) (seed e : Nat) (s : State) (hMbox : Part.mbox ∈ ps) (hStore : Part.store ∈ ps) : (State.opEngEpoch h seed e s).outside ps = s.outside ps := by
  simp [State.opEngEpoch, *]
theorem execEngEpoch_only (h : Hdr) (seed e : BitVec 32) (s : State) (s' : State) (hs : execEngEpoch h seed e s = .next s') : Only [.mbox, .store] s s' := by
  simp only [execEngEpoch, Host.Outcome.next.injEq] at hs
  subst hs
  simp [Only]
theorem execEpoch_only (s : State) (s' : State) (hs : execEpoch s = .next s') : Only [.octs, .engs, .arr] s s' := by
  unfold execEpoch at hs
  try dsimp only at hs
  repeat' split at hs
  all_goals (simp only [Host.Outcome.next.injEq] at hs; subst hs; unfold Only; repeat' (first | (simp; done) | split))
@[simp] theorem State.dropSettle_outside {ps : List Part} (w : Settle) (s : State) (hTs : Part.ts ∈ ps) (hChans : Part.chans ∈ ps) :
    (State.dropSettle w s).outside ps = s.outside ps := by
  cases w <;> simp only [State.dropSettle]
  · split <;> simp [*]
  · simp [*]
@[simp] theorem State.dropSettles_outside {ps : List Part} (e : Nat) (p : Settle → Bool) (s : State) (hTs : Part.ts ∈ ps) (hChans : Part.chans ∈ ps) (hEngs : Part.engs ∈ ps) : (State.dropSettles e p s).outside ps = s.outside ps := by
  simp [State.dropSettles, *]
theorem execParity_only (e : EngIx) (inSettle : Bool) (s : State) (s' : State) (hs : execParity e inSettle s = .next s') : Only [.ts, .chans, .octs, .engs, .mbox, .flt] s s' := by
  unfold execParity at hs
  split at hs
  · cases hs; rfl
  · injection hs with hs
    rw [← hs]
    unfold Only
    simp only [State.engEv_outside, State.fault_outside, State.modEng_outside, List.mem_cons, true_or, or_true]
    split
    · split <;> simp
    · split
      · rename_i he
        have h := State.startJob_outside (ps := ([.ts, .chans, .octs, .engs, .mbox, .flt] : List Part)) he (by simp)
        simp [h]
      · simp
@[simp] theorem State.qdrop_outside {ps : List Part} (c : Option Nat) (s : State) (hChans : Part.chans ∈ ps) :
    (State.qdrop c s).outside ps = s.outside ps := by
  cases c <;> simp [State.qdrop, *]
theorem execEngineRetire_only (e : EngIx) (stuck : Bool) (s : State) (s' : State) (hs : execEngineRetire e stuck s = .next s') : Only [.ts, .latch, .chans, .octs, .engs, .srcs, .devq, .rg, .mbox, .pwr, .par, .store, .flt, .gw] s s' := by
  unfold execEngineRetire at hs
  dsimp only at hs
  split at hs
  · cases hs; rfl
  · injection hs with hs
    rw [← hs]
    unfold Only
    rw [ite_outside]
    simp
    repeat' (first | (simp; done) | (with_reducible refine (forAll_outside _ _ _ ?_).trans ?_) | split | intro _ | simp)
@[simp] theorem State.engClear_outside {ps : List Part} (s : State) (hTs : Part.ts ∈ ps) (hChans : Part.chans ∈ ps) (hOcts : Part.octs ∈ ps) (hEngs : Part.engs ∈ ps) (hDevq : Part.devq ∈ ps) (hIv : Part.iv ∈ ps) (hRg : Part.rg ∈ ps) (hMbox : Part.mbox ∈ ps) (hGw : Part.gw ∈ ps) : (State.engClear s).outside ps = s.outside ps := by
  unfold State.engClear
  dsimp only
  simp [*, ↓State.set_chans_outside]
  exact forAll_outside _ _ _ fun e s => forAll_outside _ _ _ fun j s => by simp [*]
@[simp] theorem State.rebuildEntry_outside {ps : List Part} (c mask : Nat) (s : State) (hChans : Part.chans ∈ ps) : (State.rebuildEntry c mask s).outside ps = s.outside ps := by
  simp [State.rebuildEntry, *]
@[simp] theorem State.engResync_outside {ps : List Part} (s : State) (hOcts : Part.octs ∈ ps) (hDevq : Part.devq ∈ ps) : (State.engResync s).outside ps = s.outside ps := by
  simp [State.engResync, *]
theorem execEngArrayRebuild_only (ue : List (Ch × BitVec 16)) (s : State) (s' : State) (hs : execEngArrayRebuild ue s = .next s') : Only [.ts, .chans, .octs, .arr, .devq, .rg, .pwr, .par, .gw] s s' := by
  unfold execEngArrayRebuild at hs
  try dsimp only at hs
  repeat' split at hs
  all_goals (cases hs; simp [Only])
@[simp] theorem State.opEngStatus_outside {ps : List Part} (h : Hdr) (e : Nat) (s : State) (hMbox : Part.mbox ∈ ps) : (State.opEngStatus h e s).outside ps = s.outside ps := by
  simp [State.opEngStatus, *]
theorem execEngStatus_only (h : Hdr) (e : EngIx) (s : State) (s' : State) (hs : execEngStatus h e s = .next s') : Only [.mbox] s s' := by
  simp only [execEngStatus, Host.Outcome.next.injEq] at hs
  subst hs
  simp [Only]
end Sys2Proof.Machine
end

