-- ==== Sys2Proof/Laws/FrameJournal.lean ====
section
/-!
SUPPORT. Frames of the operations of Machine/Journal.lean: `X_outside` says which parts an operation can change, `X_only` the same of a
command's meaning.
-/
namespace Sys2Proof.Machine
@[simp] theorem State.loadItem_outside {ps : List Part} (isSet : Bool) (sec key : Nat) (ws : List Nat) (s : State) (hChans : Part.chans ∈ ps) (hDlls : Part.dlls ∈ ps) (hCores : Part.cores ∈ ps) (hPar : Part.par ∈ ps) (hStore : Part.store ∈ ps) (hGrat : Part.grat ∈ ps) (hCal : Part.cal ∈ ps) : (State.loadItem isSet sec key ws s).outside ps = s.outside ps := by
  unfold State.loadItem
  split <;> simp [*]
@[simp] theorem State.loadPay_outside {ps : List Part} (isSet : Bool) (pay : List Nat) (s : State) (hChans : Part.chans ∈ ps) (hDlls : Part.dlls ∈ ps) (hCores : Part.cores ∈ ps) (hPar : Part.par ∈ ps) (hStore : Part.store ∈ ps) (hGrat : Part.grat ∈ ps) (hCal : Part.cal ∈ ps) : (State.loadPay isSet pay s).outside ps = s.outside ps := by
  simp [State.loadPay, *]
@[simp] theorem State.withOfs_outside {ps : List Part} (i o : Nat) (s : State) (hCores : Part.cores ∈ ps) : (State.withOfs i o s).outside ps = s.outside ps := by
  simp [State.withOfs, *]
@[simp] theorem CalRun.load_outside {ps : List Part} (r : CalRun) (s : State) (hChans : Part.chans ∈ ps) (hDlls : Part.dlls ∈ ps) (hCores : Part.cores ∈ ps) (hCal : Part.cal ∈ ps) : (CalRun.load r s).outside ps = s.outside ps := by
  unfold CalRun.load
  split <;> simp [*]
@[simp] theorem StoreReq.load_outside {ps : List Part} (r : StoreReq) (s : State) (hChans : Part.chans ∈ ps) (hDlls : Part.dlls ∈ ps) (hCores : Part.cores ∈ ps) (hPar : Part.par ∈ ps) (hStore : Part.store ∈ ps) (hGrat : Part.grat ∈ ps) (hCal : Part.cal ∈ ps) : (StoreReq.load r s).outside ps = s.outside ps := by
  unfold StoreReq.load
  try dsimp only
  repeat' (first | with_reducible rfl | (simp [*]; done) | (simp [State.outside, *]; done) | (with_reducible refine (forAll_outside _ _ _ ?_).trans ?_) | (with_reducible refine (foldl_outside _ _ _ ?_).trans ?_) | split | (intro _))
end Sys2Proof.Machine
end

