-- ==== Sys2Proof/Laws/FrameStoreOps.lean ====
section
/-!
SUPPORT. Frames of the operations of Machine/StoreOps.lean: `X_outside` says which parts an operation can change, `X_only` the same of a
command's meaning.
-/
namespace Sys2Proof.Machine
@[simp] theorem State.eraseRegion_outside {ps : List Part} (r : Nat) (s : State) (hStore : Part.store ∈ ps) (hFlash : Part.flash ∈ ps) (hGw : Part.gw ∈ ps) : (State.eraseRegion r s).outside ps = s.outside ps := by
  simp [State.eraseRegion, *]
@[simp] theorem State.replaceSector_outside {ps : List Part} (l : Nat) (s : State) (hMbox : Part.mbox ∈ ps) (hStore : Part.store ∈ ps) (hFlash : Part.flash ∈ ps) (hGw : Part.gw ∈ ps) : (State.replaceSector l s).outside ps = s.outside ps := by
  simp [State.replaceSector, *]
@[simp] theorem State.beginRec_outside {ps : List Part} (p : Prog) (s : State) (hStore : Part.store ∈ ps) (hFlash : Part.flash ∈ ps) (hMem : Part.mem ∈ ps) (hGw : Part.gw ∈ ps) : (State.beginRec p s).outside ps = s.outside ps := by
  simp [State.beginRec, *]
@[simp] theorem State.readSpan_outside {ps : List Part} (r i n : Nat) (s : State) (hMbox : Part.mbox ∈ ps) (hStore : Part.store ∈ ps) (hFlt : Part.flt ∈ ps) : (State.readSpan r i n s).outside ps = s.outside ps := by
  simp [State.readSpan, *]
@[simp] theorem State.readRegion_outside {ps : List Part} (r : Nat) (s : State) (hMbox : Part.mbox ∈ ps) (hStore : Part.store ∈ ps) (hFlt : Part.flt ∈ ps) : (State.readRegion r s).outside ps = s.outside ps := by
  simp [State.readRegion, *]
@[simp] theorem State.storeStart_outside {ps : List Part} (s : State) (hMbox : Part.mbox ∈ ps) (hPwr : Part.pwr ∈ ps) (hStore : Part.store ∈ ps) (hFlash : Part.flash ∈ ps) (hMem : Part.mem ∈ ps) (hGw : Part.gw ∈ ps) : (State.storeStart s).1.outside ps = s.outside ps := by
  unfold State.storeStart
  try dsimp only
  repeat' (first | with_reducible rfl | (simp [*]; done) | split)
@[simp] theorem State.programRec_outside {ps : List Part} (n : Nat) (c : WCls) (s : State) (hStore : Part.store ∈ ps) (hFlash : Part.flash ∈ ps) : (State.programRec n c s).outside ps = s.outside ps := by
  unfold State.programRec
  split <;> simp [*]
@[simp] theorem State.cutRec_outside {ps : List Part} (n : Nat) (c : WCls) (s : State) (hStore : Part.store ∈ ps) (hFlash : Part.flash ∈ ps) : (State.cutRec n c s).outside ps = s.outside ps := by
  unfold State.cutRec
  split <;> simp [*]
@[simp] theorem State.cutErase_outside {ps : List Part} (s : State) (hStore : Part.store ∈ ps) (hFlash : Part.flash ∈ ps) : (State.cutErase s).outside ps = s.outside ps := by
  unfold State.cutErase
  split <;> simp [*]
@[simp] theorem State.cutReset_outside {ps : List Part} (s : State) (hStore : Part.store ∈ ps) (hFlash : Part.flash ∈ ps) : (State.cutReset s).outside ps = s.outside ps := by
  simp [State.cutReset, *]
@[simp] theorem State.factory_outside {ps : List Part} (s : State) (hChans : Part.chans ∈ ps) (hDlls : Part.dlls ∈ ps) (hCores : Part.cores ∈ ps) (hPar : Part.par ∈ ps) (hStore : Part.store ∈ ps) (hGrat : Part.grat ∈ ps) (hCal : Part.cal ∈ ps) : (State.factory s).outside ps = s.outside ps := by
  simp [State.factory, *]
@[simp] theorem State.loadBoot_outside {ps : List Part} (s : State) (hStore : Part.store ∈ ps) : (State.loadBoot s).outside ps = s.outside ps := by
  unfold State.loadBoot
  split <;> simp [*]
@[simp] theorem State.loadJournal_outside {ps : List Part} (s : State) (hChans : Part.chans ∈ ps) (hDlls : Part.dlls ∈ ps) (hCores : Part.cores ∈ ps) (hMbox : Part.mbox ∈ ps) (hPar : Part.par ∈ ps) (hStore : Part.store ∈ ps) (hGrat : Part.grat ∈ ps) (hFlt : Part.flt ∈ ps) (hCal : Part.cal ∈ ps) : (State.loadJournal s).outside ps = s.outside ps := by
  unfold State.loadJournal
  try dsimp only
  split <;> simp [*]
@[simp] theorem State.formatBoot_outside {ps : List Part} (s : State) (hStore : Part.store ∈ ps) (hFlash : Part.flash ∈ ps) : (State.formatBoot s).outside ps = s.outside ps := by
  simp [State.formatBoot, *]
@[simp] theorem State.dsLoad_outside {ps : List Part} (s : State) (hChans : Part.chans ∈ ps) (hDlls : Part.dlls ∈ ps) (hCores : Part.cores ∈ ps) (hMbox : Part.mbox ∈ ps) (hPar : Part.par ∈ ps) (hStore : Part.store ∈ ps) (hFlash : Part.flash ∈ ps) (hGrat : Part.grat ∈ ps) (hFlt : Part.flt ∈ ps) (hCal : Part.cal ∈ ps) : (State.dsLoad s).outside ps = s.outside ps := by
  unfold State.dsLoad
  try dsimp only
  repeat' (first | with_reducible rfl | (simp [*]; done) | split)
end Sys2Proof.Machine
end

