-- ==== Sys2Proof/Laws/FrameEntries.lean ====
section
/-!
SUPPORT. Frames of the operations of Machine/Entries.lean: `X_outside` says which parts an operation can change, `X_only` the same of a
command's meaning.
-/
namespace Sys2Proof.Machine
end Sys2Proof.Machine
end

