-- ==== Sys2Proof/Laws/FrameRegWords.lean ====
section
/-!
SUPPORT. Frames of the operations of Machine/RegWords.lean: `X_outside` says which parts an operation can change, `X_only` the same of a
command's meaning.
-/
namespace Sys2Proof.Machine
@[simp] theorem State.keepWords_outside {ps : List Part} (d : Nat) (s : State) (hReg : Part.reg ∈ ps) : (State.keepWords d s).outside ps = s.outside ps := by
  simp [State.keepWords, *]
end Sys2Proof.Machine
end

