-- ==== Sys2Proof/Laws/FrameMemPort.lean ====
section
/-!
SUPPORT. Frames of the operations of Machine/MemPort.lean: `X_outside` says which parts an operation can change, `X_only` the same of a
command's meaning.
-/
namespace Sys2Proof.Machine
@[simp] theorem State.ask_outside {ps : List Part} (r : MemReq) (s : State) (hMem : Part.mem ∈ ps) : (State.ask r s).outside ps = s.outside ps := by
  simp [State.ask, *]
@[simp] theorem State.fillLine_outside {ps : List Part} (k n : Nat) (s : State) (hMbox : Part.mbox ∈ ps) (hStore : Part.store ∈ ps) (hFlt : Part.flt ∈ ps) (hMem : Part.mem ∈ ps) : (State.fillLine k n s).outside ps = s.outside ps := by
  unfold State.fillLine
  split <;> simp [*]
@[simp] theorem State.winRead_outside {ps : List Part} (a : Nat) (s : State) (hMbox : Part.mbox ∈ ps) (hStore : Part.store ∈ ps) (hFlt : Part.flt ∈ ps) (hMem : Part.mem ∈ ps) : (State.winRead a s).outside ps = s.outside ps := by
  unfold State.winRead
  try dsimp only
  repeat' (first | with_reducible rfl | (simp [*]; done) | split)
@[simp] theorem State.readWindow_outside {ps : List Part} (s : State) (hMbox : Part.mbox ∈ ps) (hStore : Part.store ∈ ps) (hFlt : Part.flt ∈ ps) (hMem : Part.mem ∈ ps) (hHp : Part.hp ∈ ps) (hReg : Part.reg ∈ ps) : (State.readWindow s).outside ps = s.outside ps := by
  simp [State.readWindow, *]
@[simp] theorem State.serveReq_outside {ps : List Part} (r : MemReq) (s : State) (hMbox : Part.mbox ∈ ps) (hStore : Part.store ∈ ps) (hFlt : Part.flt ∈ ps) (hMem : Part.mem ∈ ps) (hHp : Part.hp ∈ ps) (hReg : Part.reg ∈ ps) : (State.serveReq r s).outside ps = s.outside ps := by
  unfold State.serveReq
  split <;> simp [*]
@[simp] theorem State.servePort_outside {ps : List Part} (s : State) (hMbox : Part.mbox ∈ ps) (hStore : Part.store ∈ ps) (hFlt : Part.flt ∈ ps) (hMem : Part.mem ∈ ps) (hHp : Part.hp ∈ ps) (hReg : Part.reg ∈ ps) : (State.servePort s).outside ps = s.outside ps := by
  simp [State.servePort, *]
end Sys2Proof.Machine
end

