-- ==== Sys2Proof/Laws/FrameChannelCmds.lean ====
section
/-!
SUPPORT. Frames of the operations of Machine/ChannelCmds.lean: `X_outside` says which parts an operation can change, `X_only` the same of a
command's meaning.
-/
namespace Sys2Proof.Machine
@[simp] theorem State.opChStart_outside {ps : List Part} (h : Hdr) (c : Nat) (s : State) (hTs : Part.ts ∈ ps) (hLatch : Part.latch ∈ ps) (hChans : Part.chans ∈ ps) (hOcts : Part.octs ∈ ps) (hEngs : Part.engs ∈ ps) (hSrcs : Part.srcs ∈ ps) (hDevq : Part.devq ∈ ps) (hRg : Part.rg ∈ ps) (hMbox : Part.mbox ∈ ps) (hPwr : Part.pwr ∈ ps) (hPar : Part.par ∈ ps) (hGw : Part.gw ∈ ps) : (State.opChStart h c s).outside ps = s.outside ps := by
  have h : (s.chStart c).2.outside ps = s.outside ps := by simp [*]
  unfold State.opChStart
  repeat' split
  all_goals simp_all
theorem execChStart_only (h : Hdr) (c : Ch) (s : State) (s' : State) (hs : execChStart h c s = .next s') : Only [.ts, .latch, .chans, .octs, .engs, .srcs, .devq, .rg, .mbox, .pwr, .par, .gw] s s' := by
  simp only [execChStart, Host.Outcome.next.injEq] at hs
  subst hs
  simp [Only]
@[simp] theorem State.chStop_outside {ps : List Part} (c : Nat) (s : State) (hChans : Part.chans ∈ ps) (hOcts : Part.octs ∈ ps) (hDlls : Part.dlls ∈ ps) (hCores : Part.cores ∈ ps) (hSrcs : Part.srcs ∈ ps) (hDevq : Part.devq ∈ ps) (hRg : Part.rg ∈ ps) (hMbox : Part.mbox ∈ ps) (hPar : Part.par ∈ ps) (hStore : Part.store ∈ ps) (hGrat : Part.grat ∈ ps) (hTests : Part.tests ∈ ps) (hCal : Part.cal ∈ ps) (hGw : Part.gw ∈ ps) : (State.chStop c s).outside ps = s.outside ps := by
  unfold State.chStop
  try dsimp only
  split <;> simp [*]
@[simp] theorem State.opChStop_outside {ps : List Part} (h : Hdr) (c : Nat) (s : State) (hChans : Part.chans ∈ ps) (hOcts : Part.octs ∈ ps) (hDlls : Part.dlls ∈ ps) (hCores : Part.cores ∈ ps) (hSrcs : Part.srcs ∈ ps) (hDevq : Part.devq ∈ ps) (hRg : Part.rg ∈ ps) (hMbox : Part.mbox ∈ ps) (hPar : Part.par ∈ ps) (hStore : Part.store ∈ ps) (hGrat : Part.grat ∈ ps) (hTests : Part.tests ∈ ps) (hCal : Part.cal ∈ ps) (hGw : Part.gw ∈ ps) : (State.opChStop h c s).outside ps = s.outside ps := by
  simp [State.opChStop, *]
theorem execChStop_only (h : Hdr) (c : Ch) (s : State) (s' : State) (hs : execChStop h c s = .next s') : Only [.chans, .octs, .dlls, .cores, .srcs, .devq, .rg, .mbox, .par, .store, .grat, .tests, .cal, .gw] s s' := by
  simp only [execChStop, Host.Outcome.next.injEq] at hs
  subst hs
  simp [Only]
@[simp] theorem State.opChStatus_outside {ps : List Part} (h : Hdr) (c : Nat) (s : State) (hMbox : Part.mbox ∈ ps) : (State.opChStatus h c s).outside ps = s.outside ps := by
  simp [State.opChStatus, *]
theorem execChStatus_only (h : Hdr) (c : Ch) (s : State) (s' : State) (hs : execChStatus h c s = .next s') : Only [.mbox] s s' := by
  simp only [execChStatus, Host.Outcome.next.injEq] at hs
  subst hs
  simp [Only]
theorem execAcqSlow_only (c : Ch) (s : State) (s' : State) (hs : execAcqSlow c s = .next s') : Only [.chans, .mbox] s s' := by
  unfold execAcqSlow at hs
  try dsimp only at hs
  repeat' split at hs
  all_goals (cases hs; simp [Only])
theorem execChannelSilence_only (c : Ch) (s : State) (s' : State) (hs : execChannelSilence c s = .next s') : Only [.chans, .octs, .mbox] s s' := by
  unfold execChannelSilence at hs
  try dsimp only at hs
  repeat' split at hs
  all_goals (cases hs; simp [Only])
theorem execDividerRestartDone_only (c : Ch) (s : State) (s' : State) (hs : execDividerRestartDone c s = .next s') : Only [.chans, .srcs] s s' := by
  unfold execDividerRestartDone at hs
  try dsimp only at hs
  repeat' split at hs
  all_goals (cases hs; simp [Only])
theorem execDriver_only (c : Ch) (s : State) (s' : State) (hs : execDriver c s = .next s') : Only [.ts, .latch, .chans, .octs, .dlls, .cores, .srcs, .devq, .rg, .mbox, .pwr, .par, .store, .grat, .flt, .cal, .gw] s s' := by
  unfold execDriver at hs
  try dsimp only at hs
  repeat' split at hs
  all_goals (cases hs; simp [Only])
@[simp] theorem State.discardJob_outside {ps : List Part} (c : Nat) (s : State) (hChans : Part.chans ∈ ps) (hEngs : Part.engs ∈ ps) : (State.discardJob c s).outside ps = s.outside ps := by
  unfold State.discardJob
  split <;> simp [*]
theorem execCsmUe_only (c : Ch) (s : State) (s' : State) (hs : execCsmUe c s = .next s') : Only [.ts, .latch, .chans, .octs, .dlls, .engs, .cores, .srcs, .devq, .rg, .mbox, .pwr, .par, .store, .grat, .flt, .cal, .gw] s s' := by
  unfold execCsmUe at hs
  repeat' split at hs
  all_goals (cases hs; simp [Only])
theorem execCsmRebuild_only (c : Ch) (mask : BitVec 16) (s : State) (s' : State) (hs : execCsmRebuild c mask s = .next s') : Only [.chans, .srcs, .mbox] s s' := by
  unfold execCsmRebuild at hs
  try dsimp only at hs
  repeat' split at hs
  all_goals (cases hs; simp [Only])
@[simp] theorem State.regrid_outside {ps : List Part} (c : Nat) (s : State) (hChans : Part.chans ∈ ps) : (State.regrid c s).outside ps = s.outside ps := by
  simp [State.regrid, *]
@[simp] theorem State.handEnd_outside {ps : List Part} (k : Nat) (s : State) (hChans : Part.chans ∈ ps) (hOcts : Part.octs ∈ ps) (hSrcs : Part.srcs ∈ ps) : (State.handEnd k s).outside ps = s.outside ps := by
  unfold State.handEnd
  split <;> simp [*]
@[simp] theorem State.handSwitch_outside {ps : List Part} (k : Nat) (h : Hand) (s : State) (hChans : Part.chans ∈ ps) (hOcts : Part.octs ∈ ps) (hSrcs : Part.srcs ∈ ps) : (State.handSwitch k h s).outside ps = s.outside ps := by
  simp [State.handSwitch, *]
@[simp] theorem State.setRun_outside {ps : List Part} (r : CalRun) (s : State) (hCal : Part.cal ∈ ps) : (State.setRun r s).outside ps = s.outside ps := by
  simp [State.setRun, *]
@[simp] theorem State.dtcHold_outside {ps : List Part} (c : Nat) (s : State) (hChans : Part.chans ∈ ps) : (State.dtcHold c s).outside ps = s.outside ps := by
  simp [State.dtcHold, *]
@[simp] theorem State.toPart_outside {ps : List Part} (r : CalRun) (p : Nat) (s : State) (hChans : Part.chans ∈ ps) (hCal : Part.cal ∈ ps) : (State.toPart r p s).outside ps = s.outside ps := by
  simp [State.toPart, *]
theorem execHandoverSwitch_only (k : OctIx) (s : State) (s' : State) (hs : execHandoverSwitch k s = .next s') : Only [.chans, .octs, .dlls, .cores, .srcs, .devq, .rg, .mbox, .par, .store, .grat, .cal, .gw] s s' := by
  unfold execHandoverSwitch at hs
  try dsimp only at hs
  repeat' split at hs
  all_goals (cases hs; simp [Only])
theorem execHandT_only (k : OctIx) (s : State) (s' : State) (hs : execHandT k s = .next s') : Only [.ts, .latch, .chans, .octs, .dlls, .cores, .srcs, .devq, .rg, .mbox, .pwr, .par, .store, .grat, .flt, .cal, .gw] s s' := by
  unfold execHandT at hs
  repeat' split at hs
  all_goals (cases hs; simp [Only])
theorem execReturnRetry_only (k : OctIx) (s : State) (s' : State) (hs : execReturnRetry k s = .next s') : Only [.chans, .octs, .srcs] s s' := by
  unfold execReturnRetry at hs
  repeat' split at hs
  all_goals (cases hs; simp [Only])
theorem execWeltFault_only (k : OctIx) (fault : Fin 12) (s : State) (s' : State) (hs : execWeltFault k fault s = .next s') : Only [.ts, .latch, .chans, .octs, .dlls, .cores, .srcs, .devq, .rg, .mbox, .pwr, .par, .store, .grat, .flt, .cal, .gw] s s' := by
  unfold execWeltFault at hs
  repeat' split at hs
  all_goals (cases hs; simp [Only])
theorem execRetirement_only (c : Fin 256) (fault : Fin 12) (s : State) (s' : State) (hs : execRetirement c fault s = .next s') : Only [.ts, .latch, .chans, .octs, .dlls, .cores, .srcs, .devq, .rg, .mbox, .pwr, .par, .store, .grat, .flt, .cal, .gw] s s' := by
  unfold execRetirement at hs
  repeat' split at hs
  all_goals (cases hs; simp [Only])
theorem execWeltTakeover_only (k : OctIx) (s : State) (s' : State) (hs : execWeltTakeover k s = .next s') : Only [.chans, .srcs, .store] s s' := by
  unfold execWeltTakeover at hs
  repeat' split at hs
  all_goals (cases hs; simp [Only])
@[simp] theorem State.retired_outside {ps : List Part} (kind unit fault : Nat) (s : State) (hTs : Part.ts ∈ ps) (hLatch : Part.latch ∈ ps) (hChans : Part.chans ∈ ps) (hOcts : Part.octs ∈ ps) (hSrcs : Part.srcs ∈ ps) (hDevq : Part.devq ∈ ps) (hRg : Part.rg ∈ ps) (hMbox : Part.mbox ∈ ps) (hPwr : Part.pwr ∈ ps) (hPar : Part.par ∈ ps) (hStore : Part.store ∈ ps) (hGw : Part.gw ∈ ps) : (State.retired kind unit fault s).outside ps = s.outside ps := by
  simp [State.retired, *]
@[simp] theorem State.cleared_outside {ps : List Part} (kind unit : Nat) (s : State) (hChans : Part.chans ∈ ps) (hOcts : Part.octs ∈ ps) (hDlls : Part.dlls ∈ ps) (hEngs : Part.engs ∈ ps) (hSrcs : Part.srcs ∈ ps) : (State.cleared kind unit s).outside ps = s.outside ps := by
  unfold State.cleared
  try dsimp only
  repeat' (first | with_reducible rfl | (simp [*]; done) | split)
@[simp] theorem State.opMntClearRetire_outside {ps : List Part} (h : Hdr) (kind unit : Nat) (s : State) (hMbox : Part.mbox ∈ ps) (hStore : Part.store ∈ ps) : (State.opMntClearRetire h kind unit s).outside ps = s.outside ps := by
  simp [State.opMntClearRetire, *]
theorem execMntClearRetire_only (h : Hdr) (kind : Fin 16) (unit : Fin 4096) (s : State) (s' : State) (hs : execMntClearRetire h kind unit s = .next s') : Only [.mbox, .store] s s' := by
  simp only [execMntClearRetire, Host.Outcome.next.injEq] at hs
  subst hs
  simp [Only]
end Sys2Proof.Machine
end

