-- ==== Sys2Proof/Laws/FrameGaugeOps.lean ====
section
/-!
SUPPORT. Frames of the operations of Machine/GaugeOps.lean: `X_outside` says which parts an operation can change, `X_only` the same of a
command's meaning.
-/
namespace Sys2Proof.Machine
@[simp] theorem State.loadTlock_outside {ps : List Part} (p : List Nat) (s : State) (hGrat : Part.grat ∈ ps) : (State.loadTlock p s).outside ps = s.outside ps := by
  simp [State.loadTlock, *]
@[simp] theorem State.gwRejoin_outside {ps : List Part} (p : List Nat) (i : Nat) (s : State) (hGw : Part.gw ∈ ps) : (State.gwRejoin p i s).outside ps = s.outside ps := by
  unfold State.gwRejoin
  try dsimp only
  split <;> simp [*]
@[simp] theorem State.gwLoad_outside {ps : List Part} (s : State) (hMbox : Part.mbox ∈ ps) (hStore : Part.store ∈ ps) (hGrat : Part.grat ∈ ps) (hFlt : Part.flt ∈ ps) (hGw : Part.gw ∈ ps) : (State.gwLoad s).outside ps = s.outside ps := by
  unfold State.gwLoad
  try dsimp only
  repeat' (first | with_reducible rfl | (simp [*]; done) | (simp [State.outside, *]; done) | (with_reducible refine (forAll_outside _ _ _ ?_).trans ?_) | (with_reducible refine (foldl_outside _ _ _ ?_).trans ?_) | split | (intro _) | (simp [*]))
end Sys2Proof.Machine
end

