-- ==== Sys2Proof/Laws/FrameTimescaleCmds.lean ====
section
/-!
SUPPORT. Frames of the operations of Machine/TimescaleCmds.lean: `X_outside` says which parts an operation can change, `X_only` the same of a
command's meaning.
-/
namespace Sys2Proof.Machine
@[simp] theorem State.opTsStart_outside {ps : List Part} (h : Hdr) (mode : Fin 3) (v : BitVec 96) (s : State) (hPps : Part.pps ∈ ps) (hTs : Part.ts ∈ ps) (hLatch : Part.latch ∈ ps) (hChans : Part.chans ∈ ps) (hOcts : Part.octs ∈ ps) (hEngs : Part.engs ∈ ps) (hSrcs : Part.srcs ∈ ps) (hDevq : Part.devq ∈ ps) (hRg : Part.rg ∈ ps) (hMbox : Part.mbox ∈ ps) (hPwr : Part.pwr ∈ ps) (hPar : Part.par ∈ ps) (hGw : Part.gw ∈ ps) : (State.opTsStart h mode v s).outside ps = s.outside ps := by
  unfold State.opTsStart
  try dsimp only
  repeat' (first | with_reducible rfl | (simp [*]; done) | split)
theorem execTsStart_only (h : Hdr) (mode : Fin 3) (v : BitVec 96) (s : State) (s' : State) (hs : execTsStart h mode v s = .next s') : Only [.pps, .ts, .latch, .chans, .octs, .engs, .srcs, .devq, .rg, .mbox, .pwr, .par, .gw] s s' := by
  simp only [execTsStart, Host.Outcome.next.injEq] at hs
  subst hs
  simp [Only]
theorem execTsStartExecute_only (lead : BitVec 96) (d : Nat) (s : State) (s' : State) (hs : execTsStartExecute lead d s = .next s') : Only [.pps, .ts, .latch, .chans, .octs, .engs, .srcs, .devq, .rg, .mbox, .pwr, .par, .gw] s s' := by
  unfold execTsStartExecute at hs
  repeat' split at hs
  all_goals (cases hs; simp [Only])
@[simp] theorem State.opTsStop_outside {ps : List Part} (h : Hdr) (s : State) (hTs : Part.ts ∈ ps) (hCores : Part.cores ∈ ps) (hSrcs : Part.srcs ∈ ps) (hDevq : Part.devq ∈ ps) (hRg : Part.rg ∈ ps) (hMbox : Part.mbox ∈ ps) (hPwr : Part.pwr ∈ ps) (hPar : Part.par ∈ ps) (hGw : Part.gw ∈ ps) : (State.opTsStop h s).outside ps = s.outside ps := by
  simp [State.opTsStop, *]
theorem execTsStop_only (h : Hdr) (s : State) (s' : State) (hs : execTsStop h s = .next s') : Only [.ts, .cores, .srcs, .devq, .rg, .mbox, .pwr, .par, .gw] s s' := by
  simp only [execTsStop, Host.Outcome.next.injEq] at hs
  subst hs
  simp [Only]
@[simp] theorem State.tsDone_outside {ps : List Part} (s : State) (hTs : Part.ts ∈ ps) (hMbox : Part.mbox ∈ ps) : (State.tsDone s).outside ps = s.outside ps := by
  simp [State.tsDone, *]
@[simp] theorem State.opTsSetOffset_outside {ps : List Part} (h : Hdr) (o : Int) (s : State) (hTs : Part.ts ∈ ps) (hMbox : Part.mbox ∈ ps) : (State.opTsSetOffset h o s).outside ps = s.outside ps := by
  simp [State.opTsSetOffset, *]
theorem execTsSetOffset_only (h : Hdr) (o : Int) (s : State) (s' : State) (hs : execTsSetOffset h o s = .next s') : Only [.ts, .mbox] s s' := by
  simp only [execTsSetOffset, Host.Outcome.next.injEq] at hs
  subst hs
  simp [Only]
@[simp] theorem State.opTsAdjust_outside {ps : List Part} (h : Hdr) (d : Int) (s : State) (hTs : Part.ts ∈ ps) (hMbox : Part.mbox ∈ ps) : (State.opTsAdjust h d s).outside ps = s.outside ps := by
  simp [State.opTsAdjust, *]
theorem execTsAdjust_only (h : Hdr) (d : Int) (s : State) (s' : State) (hs : execTsAdjust h d s = .next s') : Only [.ts, .mbox] s s' := by
  simp only [execTsAdjust, Host.Outcome.next.injEq] at hs
  subst hs
  simp [Only]
@[simp] theorem State.opTsHold_outside {ps : List Part} (h : Hdr) (s : State) (hTs : Part.ts ∈ ps) (hLatch : Part.latch ∈ ps) (hChans : Part.chans ∈ ps) (hDevq : Part.devq ∈ ps) (hRg : Part.rg ∈ ps) (hMbox : Part.mbox ∈ ps) (hPwr : Part.pwr ∈ ps) (hPar : Part.par ∈ ps) (hGw : Part.gw ∈ ps) : (State.opTsHold h s).outside ps = s.outside ps := by
  simp [State.opTsHold, *]
theorem execTsHold_only (h : Hdr) (s : State) (s' : State) (hs : execTsHold h s = .next s') : Only [.ts, .latch, .chans, .devq, .rg, .mbox, .pwr, .par, .gw] s s' := by
  simp only [execTsHold, Host.Outcome.next.injEq] at hs
  subst hs
  simp [Only]
@[simp] theorem State.opTsRelease_outside {ps : List Part} (h : Hdr) (s : State) (hTs : Part.ts ∈ ps) (hMbox : Part.mbox ∈ ps) : (State.opTsRelease h s).outside ps = s.outside ps := by
  simp [State.opTsRelease, *]
theorem execTsRelease_only (h : Hdr) (s : State) (s' : State) (hs : execTsRelease h s = .next s') : Only [.ts, .mbox] s s' := by
  simp only [execTsRelease, Host.Outcome.next.injEq] at hs
  subst hs
  simp [Only]
theorem execUpLossT_only (s : State) (s' : State) (hs : execUpLossT s = .next s') : Only [.ts, .latch, .chans, .devq, .rg, .mbox, .pwr, .par, .gw] s s' := by
  unfold execUpLossT at hs
  repeat' split at hs
  all_goals (cases hs; simp [Only])
theorem execHoQual_only (s : State) (s' : State) (hs : execHoQual s = .next s') : Only [.ts, .devq, .rg, .pwr, .par, .gw] s s' := by
  unfold execHoQual at hs
  repeat' split at hs
  all_goals (cases hs; simp [Only])
@[simp] theorem State.tsRoleNow_outside {ps : List Part} (r : Role) (s : State) (hTs : Part.ts ∈ ps) (hLatch : Part.latch ∈ ps) (hChans : Part.chans ∈ ps) (hDevq : Part.devq ∈ ps) (hRg : Part.rg ∈ ps) (hMbox : Part.mbox ∈ ps) (hPar : Part.par ∈ ps) (hGw : Part.gw ∈ ps) : (State.tsRoleNow r s).outside ps = s.outside ps := by
  unfold State.tsRoleNow
  try dsimp only
  split <;> simp [*]
@[simp] theorem State.casRoleNow_outside {ps : List Part} (r : Nat) (s : State) (hDevq : Part.devq ∈ ps) (hPwr : Part.pwr ∈ ps) (hCas : Part.cas ∈ ps) : (State.casRoleNow r s).outside ps = s.outside ps := by
  simp [State.casRoleNow, *]
theorem execRoleChange_only (s : State) (s' : State) (hs : execRoleChange s = .next s') : Only [.ts, .latch, .chans, .devq, .rg, .mbox, .pwr, .par, .cas, .gw] s s' := by
  unfold execRoleChange at hs
  try dsimp only at hs
  repeat' split at hs
  all_goals (cases hs; simp [Only])
theorem execHoPredictorUpdate_only (a d : Int) (sa sd cover : Nat) (s : State) (s' : State) (hs : execHoPredictorUpdate a d sa sd cover s = .next s') : Only [.ts] s s' := by
  unfold execHoPredictorUpdate at hs
  repeat' split at hs
  all_goals (cases hs; simp [Only])
theorem execHoBound_only (s : State) (s' : State) (hs : execHoBound s = .next s') : Only [.ts, .mbox] s s' := by
  unfold execHoBound at hs
  try dsimp only at hs
  repeat' split at hs
  all_goals (cases hs; simp [Only])
end Sys2Proof.Machine
end

