-- ==== Sys2Proof/Laws/FramePowerOps.lean ====
section
/-!
SUPPORT. Frames of the operations of Machine/PowerOps.lean: `X_outside` says which parts an operation can change, `X_only` the same of a
command's meaning.
-/
namespace Sys2Proof.Machine
@[simp] theorem State.offQuad_outside {ps : List Part} (j : Nat) (s : State) (hChans : Part.chans ∈ ps) (hOcts : Part.octs ∈ ps) (hDlls : Part.dlls ∈ ps) (hCores : Part.cores ∈ ps) (hSrcs : Part.srcs ∈ ps) (hPwr : Part.pwr ∈ ps) (hReg : Part.reg ∈ ps) : (State.offQuad j s).outside ps = s.outside ps := by
  unfold State.offQuad
  try dsimp only
  repeat' (first | with_reducible rfl | (simp [*]; done) | (simp [State.outside, *]; done) | (with_reducible refine (forAll_outside _ _ _ ?_).trans ?_) | (with_reducible refine (foldl_outside _ _ _ ?_).trans ?_) | split | (intro _) | (simp [*]))
@[simp] theorem State.offEng_outside {ps : List Part} (s : State) (hTs : Part.ts ∈ ps) (hChans : Part.chans ∈ ps) (hOcts : Part.octs ∈ ps) (hEngs : Part.engs ∈ ps) (hArr : Part.arr ∈ ps) (hDevq : Part.devq ∈ ps) (hIv : Part.iv ∈ ps) (hRg : Part.rg ∈ ps) (hMbox : Part.mbox ∈ ps) (hPwr : Part.pwr ∈ ps) (hGw : Part.gw ∈ ps) (hReg : Part.reg ∈ ps) : (State.offEng s).outside ps = s.outside ps := by
  have h (c : Tab Chan) (e : Tab Eng) (a : EngArr) (t : TsS) (s : State) :
      State.outside ps { s with chans := c, engs := e, arr := a, ts := t } = s.outside ps := by
    simp [State.outside, *]
  simp [State.offEng, *, ↓h]
@[simp] theorem State.offRef_outside {ps : List Part} (s : State) (hRef : Part.ref ∈ ps) (hPps : Part.pps ∈ ps) (hTs : Part.ts ∈ ps) (hDlls : Part.dlls ∈ ps) (hCores : Part.cores ∈ ps) (hSrcs : Part.srcs ∈ ps) (hDevq : Part.devq ∈ ps) (hRg : Part.rg ∈ ps) (hPwr : Part.pwr ∈ ps) (hPar : Part.par ∈ ps) (hGw : Part.gw ∈ ps) (hReg : Part.reg ∈ ps) : (State.offRef s).outside ps = s.outside ps := by
  simp [State.offRef, *]
@[simp] theorem State.offCas_outside {ps : List Part} (s : State) (hPwr : Part.pwr ∈ ps) (hCas : Part.cas ∈ ps) : (State.offCas s).outside ps = s.outside ps := by
  simp [State.offCas, *]
@[simp] theorem State.offAll_outside {ps : List Part} (s : State) (hRef : Part.ref ∈ ps) (hPps : Part.pps ∈ ps) (hTs : Part.ts ∈ ps) (hChans : Part.chans ∈ ps) (hOcts : Part.octs ∈ ps) (hDlls : Part.dlls ∈ ps) (hEngs : Part.engs ∈ ps) (hArr : Part.arr ∈ ps) (hCores : Part.cores ∈ ps) (hSrcs : Part.srcs ∈ ps) (hDevq : Part.devq ∈ ps) (hIv : Part.iv ∈ ps) (hRg : Part.rg ∈ ps) (hMbox : Part.mbox ∈ ps) (hPwr : Part.pwr ∈ ps) (hPar : Part.par ∈ ps) (hCas : Part.cas ∈ ps) (hGw : Part.gw ∈ ps) (hReg : Part.reg ∈ ps) : (State.offAll s).outside ps = s.outside ps := by
  simp [State.offAll, *]
@[simp] theorem State.abortOps_outside {ps : List Part} (s : State) (hChans : Part.chans ∈ ps) (hOcts : Part.octs ∈ ps) (hDlls : Part.dlls ∈ ps) (hCores : Part.cores ∈ ps) (hSrcs : Part.srcs ∈ ps) (hDevq : Part.devq ∈ ps) (hRg : Part.rg ∈ ps) (hMbox : Part.mbox ∈ ps) (hPar : Part.par ∈ ps) (hStore : Part.store ∈ ps) (hGrat : Part.grat ∈ ps) (hTests : Part.tests ∈ ps) (hCal : Part.cal ∈ ps) (hGw : Part.gw ∈ ps) : (State.abortOps s).outside ps = s.outside ps := by
  unfold State.abortOps
  try dsimp only
  repeat' (first | with_reducible rfl | (simp [*]; done) | (simp [State.outside, *]; done) | (with_reducible refine (forAll_outside _ _ _ ?_).trans ?_) | (with_reducible refine (foldl_outside _ _ _ ?_).trans ?_) | split | (intro _) | (simp [*]))
@[simp] theorem State.warm_outside {ps : List Part} (s : State) (hRef : Part.ref ∈ ps) (hPps : Part.pps ∈ ps) (hExt : Part.ext ∈ ps) (hTs : Part.ts ∈ ps) (hLatch : Part.latch ∈ ps) (hChans : Part.chans ∈ ps) (hOcts : Part.octs ∈ ps) (hDlls : Part.dlls ∈ ps) (hEngs : Part.engs ∈ ps) (hArr : Part.arr ∈ ps) (hCores : Part.cores ∈ ps) (hSrcs : Part.srcs ∈ ps) (hDevq : Part.devq ∈ ps) (hIv : Part.iv ∈ ps) (hRing : Part.ring ∈ ps) (hRg : Part.rg ∈ ps) (hMbox : Part.mbox ∈ ps) (hPwr : Part.pwr ∈ ps) (hPar : Part.par ∈ ps) (hStore : Part.store ∈ ps) (hFlash : Part.flash ∈ ps) (hGrat : Part.grat ∈ ps) (hFlt : Part.flt ∈ ps) (hTests : Part.tests ∈ ps) (hCas : Part.cas ∈ ps) (hCal : Part.cal ∈ ps) (hOtp : Part.otp ∈ ps) (hImg : Part.img ∈ ps) (hMem : Part.mem ∈ ps) (hPer : Part.per ∈ ps) (hGw : Part.gw ∈ ps) (hHp : Part.hp ∈ ps) (hReg : Part.reg ∈ ps) : (State.warm s).outside ps = s.outside ps := by
  have h : s.cutReset.outside ps = s.outside ps := by simp [*]
  rw [← h]
  unfold State.warm
  generalize s.cutReset = x
  simp [State.outside, *]
@[simp] theorem State.cold_outside {ps : List Part} (cause : Nat) (pfail : Bool) (s : State) (hRef : Part.ref ∈ ps) (hPps : Part.pps ∈ ps) (hExt : Part.ext ∈ ps) (hTs : Part.ts ∈ ps) (hLatch : Part.latch ∈ ps) (hChans : Part.chans ∈ ps) (hOcts : Part.octs ∈ ps) (hDlls : Part.dlls ∈ ps) (hEngs : Part.engs ∈ ps) (hArr : Part.arr ∈ ps) (hCores : Part.cores ∈ ps) (hSrcs : Part.srcs ∈ ps) (hDevq : Part.devq ∈ ps) (hIv : Part.iv ∈ ps) (hRing : Part.ring ∈ ps) (hRg : Part.rg ∈ ps) (hMbox : Part.mbox ∈ ps) (hPwr : Part.pwr ∈ ps) (hPar : Part.par ∈ ps) (hStore : Part.store ∈ ps) (hFlash : Part.flash ∈ ps) (hGrat : Part.grat ∈ ps) (hFlt : Part.flt ∈ ps) (hTests : Part.tests ∈ ps) (hCas : Part.cas ∈ ps) (hCal : Part.cal ∈ ps) (hOtp : Part.otp ∈ ps) (hImg : Part.img ∈ ps) (hMem : Part.mem ∈ ps) (hPer : Part.per ∈ ps) (hGw : Part.gw ∈ ps) (hHp : Part.hp ∈ ps) (hReg : Part.reg ∈ ps) : (State.cold cause pfail s).outside ps = s.outside ps := by
  simp [State.cold, *]
@[simp] theorem State.writeBoot_outside {ps : List Part} (pref a b : Nat) (s : State) (hStore : Part.store ∈ ps) (hFlash : Part.flash ∈ ps) (hGw : Part.gw ∈ ps) : (State.writeBoot pref a b s).outside ps = s.outside ps := by
  simp [State.writeBoot, *]
@[simp] theorem State.raiseAr_outside {ps : List Part} (sv : Nat) (s : State) (hOtp : Part.otp ∈ ps) : (State.raiseAr sv s).outside ps = s.outside ps := by
  simp [State.raiseAr, *]
@[simp] theorem State.startImage_outside {ps : List Part} (slot : Nat) (sram trial : Bool) (p : List Nat) (s : State) (hPwr : Part.pwr ∈ ps) (hOtp : Part.otp ∈ ps) (hImg : Part.img ∈ ps) (hReg : Part.reg ∈ ps) : (State.startImage slot sram trial p s).outside ps = s.outside ps := by
  unfold State.startImage
  try dsimp only
  repeat' (first | with_reducible rfl | (simp [*]; done) | (simp [State.outside, *]; done) | (with_reducible refine (forAll_outside _ _ _ ?_).trans ?_) | (with_reducible refine (foldl_outside _ _ _ ?_).trans ?_) | split | (intro _) | (simp [*]))
@[simp] theorem State.bootImage_outside {ps : List Part} (s : State) (hPwr : Part.pwr ∈ ps) (hStore : Part.store ∈ ps) (hFlash : Part.flash ∈ ps) (hOtp : Part.otp ∈ ps) (hImg : Part.img ∈ ps) (hGw : Part.gw ∈ ps) (hReg : Part.reg ∈ ps) : (State.bootImage s).outside ps = s.outside ps := by
  unfold State.bootImage
  try dsimp only
  repeat' (first | with_reducible rfl | (simp [*]; done) | (simp [State.outside, *]; done) | (with_reducible refine (forAll_outside _ _ _ ?_).trans ?_) | (with_reducible refine (foldl_outside _ _ _ ?_).trans ?_) | split | (intro _) | (simp [*]))
@[simp] theorem State.boot_outside {ps : List Part} (s : State) (hPwr : Part.pwr ∈ ps) (hStore : Part.store ∈ ps) (hFlash : Part.flash ∈ ps) (hOtp : Part.otp ∈ ps) (hImg : Part.img ∈ ps) (hGw : Part.gw ∈ ps) (hReg : Part.reg ∈ ps) : (State.boot s).outside ps = s.outside ps := by
  simp [State.boot, *]
@[simp] theorem State.applyRetired_outside {ps : List Part} (s : State) (hChans : Part.chans ∈ ps) (hOcts : Part.octs ∈ ps) (hEngs : Part.engs ∈ ps) : (State.applyRetired s).outside ps = s.outside ps := by
  simp [State.applyRetired, *]
@[simp] theorem State.onQuad_outside {ps : List Part} (j : Nat) (s : State) (hChans : Part.chans ∈ ps) (hOcts : Part.octs ∈ ps) (hPwr : Part.pwr ∈ ps) : (State.onQuad j s).outside ps = s.outside ps := by
  unfold State.onQuad
  try dsimp only
  repeat' (first | with_reducible rfl | (simp [*]; done) | (simp [State.outside, *]; done) | (with_reducible refine (forAll_outside _ _ _ ?_).trans ?_) | (with_reducible refine (foldl_outside _ _ _ ?_).trans ?_) | split | (intro _))
@[simp] theorem State.wakeStep_outside {ps : List Part} (n : Nat) (temps : List (OctIx × BitVec 16)) (s : State) (hRef : Part.ref ∈ ps) (hPps : Part.pps ∈ ps) (hTs : Part.ts ∈ ps) (hChans : Part.chans ∈ ps) (hOcts : Part.octs ∈ ps) (hDlls : Part.dlls ∈ ps) (hEngs : Part.engs ∈ ps) (hArr : Part.arr ∈ ps) (hCores : Part.cores ∈ ps) (hSrcs : Part.srcs ∈ ps) (hDevq : Part.devq ∈ ps) (hRg : Part.rg ∈ ps) (hMbox : Part.mbox ∈ ps) (hPwr : Part.pwr ∈ ps) (hPar : Part.par ∈ ps) (hStore : Part.store ∈ ps) (hFlash : Part.flash ∈ ps) (hGrat : Part.grat ∈ ps) (hFlt : Part.flt ∈ ps) (hCas : Part.cas ∈ ps) (hCal : Part.cal ∈ ps) (hGw : Part.gw ∈ ps) : (State.wakeStep n temps s).outside ps = s.outside ps := by
  unfold State.wakeStep
  split
  · dsimp only
    split <;> simp [*]
  · simp [*]
  · simp only []
    rw [State.engResync_outside]
    · simp [*, ↓State.set_chans_outside]
    all_goals assumption
  · simp [*]
  · simp [*]
@[simp] theorem State.wakeOut_outside {ps : List Part} (c : Nat) (s : State) (hChans : Part.chans ∈ ps) (hSrcs : Part.srcs ∈ ps) : (State.wakeOut c s).outside ps = s.outside ps := by
  simp [State.wakeOut, *]
@[simp] theorem State.wakeEnd_outside {ps : List Part} (s : State) (hPps : Part.pps ∈ ps) (hTs : Part.ts ∈ ps) (hLatch : Part.latch ∈ ps) (hChans : Part.chans ∈ ps) (hOcts : Part.octs ∈ ps) (hEngs : Part.engs ∈ ps) (hSrcs : Part.srcs ∈ ps) (hDevq : Part.devq ∈ ps) (hRg : Part.rg ∈ ps) (hMbox : Part.mbox ∈ ps) (hPwr : Part.pwr ∈ ps) (hPar : Part.par ∈ ps) (hTests : Part.tests ∈ ps) (hGw : Part.gw ∈ ps) : (State.wakeEnd s).outside ps = s.outside ps := by
  simp [State.wakeEnd, *]
@[simp] theorem State.wakeNext_outside {ps : List Part} (temps : List (OctIx × BitVec 16)) (s : State) (hRef : Part.ref ∈ ps) (hPps : Part.pps ∈ ps) (hTs : Part.ts ∈ ps) (hLatch : Part.latch ∈ ps) (hChans : Part.chans ∈ ps) (hOcts : Part.octs ∈ ps) (hDlls : Part.dlls ∈ ps) (hEngs : Part.engs ∈ ps) (hArr : Part.arr ∈ ps) (hCores : Part.cores ∈ ps) (hSrcs : Part.srcs ∈ ps) (hDevq : Part.devq ∈ ps) (hRg : Part.rg ∈ ps) (hMbox : Part.mbox ∈ ps) (hPwr : Part.pwr ∈ ps) (hPar : Part.par ∈ ps) (hStore : Part.store ∈ ps) (hFlash : Part.flash ∈ ps) (hGrat : Part.grat ∈ ps) (hFlt : Part.flt ∈ ps) (hTests : Part.tests ∈ ps) (hCas : Part.cas ∈ ps) (hCal : Part.cal ∈ ps) (hGw : Part.gw ∈ ps) : (State.wakeNext temps s).outside ps = s.outside ps := by
  simp [State.wakeNext, *]
end Sys2Proof.Machine
end

