-- ==== Sys2Proof/Laws/FrameModes.lean ====
section
/-!
SUPPORT. Frames of the operations of Machine/Modes.lean: `X_outside` says which parts an operation can change, `X_only` the same of a
command's meaning.
-/
namespace Sys2Proof.Machine
@[simp] theorem State.wakeBegin_outside {ps : List Part} (s : State) (hRef : Part.ref ∈ ps) (hPps : Part.pps ∈ ps) (hTs : Part.ts ∈ ps) (hChans : Part.chans ∈ ps) (hOcts : Part.octs ∈ ps) (hDlls : Part.dlls ∈ ps) (hEngs : Part.engs ∈ ps) (hArr : Part.arr ∈ ps) (hCores : Part.cores ∈ ps) (hSrcs : Part.srcs ∈ ps) (hDevq : Part.devq ∈ ps) (hRg : Part.rg ∈ ps) (hMbox : Part.mbox ∈ ps) (hPwr : Part.pwr ∈ ps) (hPar : Part.par ∈ ps) (hStore : Part.store ∈ ps) (hFlash : Part.flash ∈ ps) (hGrat : Part.grat ∈ ps) (hFlt : Part.flt ∈ ps) (hCas : Part.cas ∈ ps) (hCal : Part.cal ∈ ps) (hGw : Part.gw ∈ ps) : (State.wakeBegin s).outside ps = s.outside ps := by
  simp [State.wakeBegin, *]
@[simp] theorem State.opDevWake_outside {ps : List Part} (h : Hdr) (s : State) (hRef : Part.ref ∈ ps) (hPps : Part.pps ∈ ps) (hTs : Part.ts ∈ ps) (hChans : Part.chans ∈ ps) (hOcts : Part.octs ∈ ps) (hDlls : Part.dlls ∈ ps) (hEngs : Part.engs ∈ ps) (hArr : Part.arr ∈ ps) (hCores : Part.cores ∈ ps) (hSrcs : Part.srcs ∈ ps) (hDevq : Part.devq ∈ ps) (hRg : Part.rg ∈ ps) (hMbox : Part.mbox ∈ ps) (hPwr : Part.pwr ∈ ps) (hPar : Part.par ∈ ps) (hStore : Part.store ∈ ps) (hFlash : Part.flash ∈ ps) (hGrat : Part.grat ∈ ps) (hFlt : Part.flt ∈ ps) (hCas : Part.cas ∈ ps) (hCal : Part.cal ∈ ps) (hGw : Part.gw ∈ ps) : (State.opDevWake h s).outside ps = s.outside ps := by
  simp [State.opDevWake, *]
theorem execDevWake_only (h : Hdr) (s : State) (s' : State) (hs : execDevWake h s = .next s') : Only [.ref, .pps, .ts, .chans, .octs, .dlls, .engs, .arr, .cores, .srcs, .devq, .rg, .mbox, .pwr, .par, .store, .flash, .grat, .flt, .cas, .cal, .gw] s s' := by
  simp only [execDevWake, Host.Outcome.next.injEq] at hs
  subst hs
  simp [Only]
theorem execWakeAutoStart_only (s : State) (s' : State) (hs : execWakeAutoStart s = .next s') : Only [.ref, .pps, .ts, .chans, .octs, .dlls, .engs, .arr, .cores, .srcs, .devq, .rg, .mbox, .pwr, .par, .store, .flash, .grat, .flt, .cas, .cal, .gw] s s' := by
  unfold execWakeAutoStart at hs
  try dsimp only at hs
  repeat' split at hs
  all_goals (simp only [Host.Outcome.next.injEq] at hs; subst hs; unfold Only; repeat' (first | (simp; done) | split))
theorem execWakeStepDone_only (temps : List (OctIx × BitVec 16)) (s : State) (s' : State) (hs : execWakeStepDone temps s = .next s') : Only [.ref, .pps, .ts, .latch, .chans, .octs, .dlls, .engs, .arr, .cores, .srcs, .devq, .rg, .mbox, .pwr, .par, .store, .flash, .grat, .flt, .tests, .cas, .cal, .gw] s s' := by
  unfold execWakeStepDone at hs
  repeat' split at hs
  all_goals (cases hs; simp [Only])
theorem execWakeRefT_only (s : State) (s' : State) (hs : execWakeRefT s = .next s') : Only [.ts, .latch, .chans, .octs, .dlls, .cores, .srcs, .devq, .rg, .mbox, .pwr, .par, .store, .grat, .tests, .cal, .gw] s s' := by
  unfold execWakeRefT at hs
  try dsimp only at hs
  repeat' split at hs
  all_goals (simp only [Host.Outcome.next.injEq] at hs; subst hs; unfold Only; repeat' (first | (simp; done) | split))
theorem execBypassExit_only (s : State) (s' : State) (hs : execBypassExit s = .next s') : Only [.ref, .pps, .ts, .chans, .octs, .dlls, .engs, .arr, .cores, .srcs, .devq, .rg, .mbox, .pwr, .par, .store, .flash, .grat, .flt, .tests, .cas, .cal, .gw] s s' := by
  unfold execBypassExit at hs
  try dsimp only at hs
  repeat' split at hs
  all_goals (simp only [Host.Outcome.next.injEq] at hs; subst hs; unfold Only; repeat' (first | (simp; done) | split))
@[simp] theorem State.leaveSurvey_outside {ps : List Part} (c : Nat) (s : State) (hChans : Part.chans ∈ ps) (hSrcs : Part.srcs ∈ ps) (hMbox : Part.mbox ∈ ps) (hTests : Part.tests ∈ ps) : (State.leaveSurvey c s).outside ps = s.outside ps := by
  simp [State.leaveSurvey, *]
@[simp] theorem State.opDevService_outside {ps : List Part} (h : Hdr) (s : State) (hChans : Part.chans ∈ ps) (hOcts : Part.octs ∈ ps) (hDlls : Part.dlls ∈ ps) (hCores : Part.cores ∈ ps) (hSrcs : Part.srcs ∈ ps) (hDevq : Part.devq ∈ ps) (hRg : Part.rg ∈ ps) (hMbox : Part.mbox ∈ ps) (hPwr : Part.pwr ∈ ps) (hPar : Part.par ∈ ps) (hStore : Part.store ∈ ps) (hGrat : Part.grat ∈ ps) (hTests : Part.tests ∈ ps) (hCal : Part.cal ∈ ps) (hGw : Part.gw ∈ ps) : (State.opDevService h s).outside ps = s.outside ps := by
  simp [State.opDevService, *]
theorem execDevService_only (h : Hdr) (s : State) (s' : State) (hs : execDevService h s = .next s') : Only [.chans, .octs, .dlls, .cores, .srcs, .devq, .rg, .mbox, .pwr, .par, .store, .grat, .tests, .cal, .gw] s s' := by
  simp only [execDevService, Host.Outcome.next.injEq] at hs
  subst hs
  simp [Only]
@[simp] theorem State.opDevSurvey_outside {ps : List Part} (h : Hdr) (s : State) (hTs : Part.ts ∈ ps) (hLatch : Part.latch ∈ ps) (hChans : Part.chans ∈ ps) (hOcts : Part.octs ∈ ps) (hDlls : Part.dlls ∈ ps) (hCores : Part.cores ∈ ps) (hSrcs : Part.srcs ∈ ps) (hDevq : Part.devq ∈ ps) (hRg : Part.rg ∈ ps) (hMbox : Part.mbox ∈ ps) (hPwr : Part.pwr ∈ ps) (hPar : Part.par ∈ ps) (hStore : Part.store ∈ ps) (hGrat : Part.grat ∈ ps) (hCal : Part.cal ∈ ps) (hGw : Part.gw ∈ ps) : (State.opDevSurvey h s).outside ps = s.outside ps := by
  simp [State.opDevSurvey, *]
theorem execDevSurvey_only (h : Hdr) (s : State) (s' : State) (hs : execDevSurvey h s = .next s') : Only [.ts, .latch, .chans, .octs, .dlls, .cores, .srcs, .devq, .rg, .mbox, .pwr, .par, .store, .grat, .cal, .gw] s s' := by
  simp only [execDevSurvey, Host.Outcome.next.injEq] at hs
  subst hs
  simp [Only]
@[simp] theorem State.stopOutputs_outside {ps : List Part} (s : State) (hChans : Part.chans ∈ ps) (hSrcs : Part.srcs ∈ ps) : (State.stopOutputs s).outside ps = s.outside ps := by
  simp [State.stopOutputs, *]
@[simp] theorem State.opDevStow_outside {ps : List Part} (h : Hdr) (s : State) (hRef : Part.ref ∈ ps) (hPps : Part.pps ∈ ps) (hTs : Part.ts ∈ ps) (hChans : Part.chans ∈ ps) (hOcts : Part.octs ∈ ps) (hDlls : Part.dlls ∈ ps) (hEngs : Part.engs ∈ ps) (hArr : Part.arr ∈ ps) (hCores : Part.cores ∈ ps) (hSrcs : Part.srcs ∈ ps) (hDevq : Part.devq ∈ ps) (hIv : Part.iv ∈ ps) (hRg : Part.rg ∈ ps) (hMbox : Part.mbox ∈ ps) (hPwr : Part.pwr ∈ ps) (hPar : Part.par ∈ ps) (hStore : Part.store ∈ ps) (hGrat : Part.grat ∈ ps) (hTests : Part.tests ∈ ps) (hCas : Part.cas ∈ ps) (hCal : Part.cal ∈ ps) (hGw : Part.gw ∈ ps) (hReg : Part.reg ∈ ps) : (State.opDevStow h s).outside ps = s.outside ps := by
  simp [State.opDevStow, *]
theorem execDevStow_only (h : Hdr) (s : State) (s' : State) (hs : execDevStow h s = .next s') : Only [.ref, .pps, .ts, .chans, .octs, .dlls, .engs, .arr, .cores, .srcs, .devq, .iv, .rg, .mbox, .pwr, .par, .store, .grat, .tests, .cas, .cal, .gw, .reg] s s' := by
  simp only [execDevStow, Host.Outcome.next.injEq] at hs
  subst hs
  simp [Only]
@[simp] theorem State.warmReset_outside {ps : List Part} (cause : Nat) (s : State) (hRef : Part.ref ∈ ps) (hPps : Part.pps ∈ ps) (hExt : Part.ext ∈ ps) (hTs : Part.ts ∈ ps) (hLatch : Part.latch ∈ ps) (hChans : Part.chans ∈ ps) (hOcts : Part.octs ∈ ps) (hDlls : Part.dlls ∈ ps) (hEngs : Part.engs ∈ ps) (hArr : Part.arr ∈ ps) (hCores : Part.cores ∈ ps) (hSrcs : Part.srcs ∈ ps) (hDevq : Part.devq ∈ ps) (hIv : Part.iv ∈ ps) (hRing : Part.ring ∈ ps) (hRg : Part.rg ∈ ps) (hMbox : Part.mbox ∈ ps) (hPwr : Part.pwr ∈ ps) (hPar : Part.par ∈ ps) (hStore : Part.store ∈ ps) (hFlash : Part.flash ∈ ps) (hGrat : Part.grat ∈ ps) (hFlt : Part.flt ∈ ps) (hTests : Part.tests ∈ ps) (hCas : Part.cas ∈ ps) (hCal : Part.cal ∈ ps) (hOtp : Part.otp ∈ ps) (hImg : Part.img ∈ ps) (hMem : Part.mem ∈ ps) (hPer : Part.per ∈ ps) (hGw : Part.gw ∈ ps) (hHp : Part.hp ∈ ps) (hReg : Part.reg ∈ ps) : (State.warmReset cause s).outside ps = s.outside ps := by
  simp [State.warmReset, *]
theorem execDevReset_only (h : Hdr) (s : State) (s' : State) (hs : execDevReset h s = .next s') : Only [.ref, .pps, .ext, .ts, .latch, .chans, .octs, .dlls, .engs, .arr, .cores, .srcs, .devq, .iv, .ring, .rg, .mbox, .pwr, .par, .store, .flash, .grat, .flt, .tests, .cas, .cal, .otp, .img, .mem, .per, .gw, .hp, .reg] s s' := by
  simp only [execDevReset, Host.Outcome.next.injEq] at hs
  subst hs
  simp [Only]
@[simp] theorem State.endReset_outside {ps : List Part} (s : State) (hPwr : Part.pwr ∈ ps) (hStore : Part.store ∈ ps) (hFlash : Part.flash ∈ ps) (hOtp : Part.otp ∈ ps) (hImg : Part.img ∈ ps) (hGw : Part.gw ∈ ps) (hReg : Part.reg ∈ ps) : (State.endReset s).outside ps = s.outside ps := by
  simp [State.endReset, *]
theorem execColdReset_only (cause : Fin 3) (usable : Bool) (sectors : Fin 65537) (pfail : Bool) (s : State) (s' : State) (hs : execColdReset cause usable sectors pfail s = .next s') : Only [.ref, .pps, .ext, .ts, .latch, .chans, .octs, .dlls, .engs, .arr, .cores, .srcs, .devq, .iv, .ring, .rg, .mbox, .pwr, .par, .store, .flash, .grat, .flt, .tests, .cas, .cal, .otp, .img, .mem, .per, .gw, .hp, .reg] s s' := by
  simp only [execColdReset, Host.Outcome.next.injEq] at hs
  subst hs
  simp [Only]
@[simp] theorem State.isoQuad_outside {ps : List Part} (j : Nat) (s : State) (hOcts : Part.octs ∈ ps) (hDlls : Part.dlls ∈ ps) (hCores : Part.cores ∈ ps) (hSrcs : Part.srcs ∈ ps) (hPwr : Part.pwr ∈ ps) (hReg : Part.reg ∈ ps) : (State.isoQuad j s).outside ps = s.outside ps := by
  unfold State.isoQuad
  try dsimp only
  repeat' (first | with_reducible rfl | (simp [*]; done) | (simp [State.outside, *]; done) | (with_reducible refine (forAll_outside _ _ _ ?_).trans ?_) | (with_reducible refine (foldl_outside _ _ _ ?_).trans ?_) | split | (intro _))
@[simp] theorem State.railLoss_outside {ps : List Part} (k : Nat) (s : State) (hTs : Part.ts ∈ ps) (hLatch : Part.latch ∈ ps) (hChans : Part.chans ∈ ps) (hOcts : Part.octs ∈ ps) (hDlls : Part.dlls ∈ ps) (hCores : Part.cores ∈ ps) (hSrcs : Part.srcs ∈ ps) (hDevq : Part.devq ∈ ps) (hRg : Part.rg ∈ ps) (hMbox : Part.mbox ∈ ps) (hPwr : Part.pwr ∈ ps) (hPar : Part.par ∈ ps) (hStore : Part.store ∈ ps) (hGrat : Part.grat ∈ ps) (hTests : Part.tests ∈ ps) (hCal : Part.cal ∈ ps) (hGw : Part.gw ∈ ps) : (State.railLoss k s).outside ps = s.outside ps := by
  simp [State.railLoss, *]
theorem execRailLost_only (r : Fin 8) (s : State) (s' : State) (hs : execRailLost r s = .next s') : Only [.ref, .pps, .ext, .ts, .latch, .chans, .octs, .dlls, .engs, .arr, .cores, .srcs, .devq, .iv, .ring, .rg, .mbox, .pwr, .par, .store, .flash, .grat, .flt, .tests, .cas, .cal, .otp, .img, .mem, .per, .gw, .hp, .reg] s s' := by
  unfold execRailLost at hs
  try dsimp only at hs
  repeat' split at hs
  all_goals (cases hs; simp [Only])
@[simp] theorem State.releaseQuad_outside {ps : List Part} (j : Nat) (s : State) (hChans : Part.chans ∈ ps) (hOcts : Part.octs ∈ ps) (hMbox : Part.mbox ∈ ps) (hPwr : Part.pwr ∈ ps) (hStore : Part.store ∈ ps) : (State.releaseQuad j s).outside ps = s.outside ps := by
  simp [State.releaseQuad, *]
theorem execRailRegained_only (r : Fin 8) (s : State) (s' : State) (hs : execRailRegained r s = .next s') : Only [.ref, .pps, .ts, .chans, .octs, .dlls, .engs, .arr, .cores, .srcs, .devq, .rg, .mbox, .pwr, .par, .store, .flash, .grat, .flt, .cas, .cal, .otp, .img, .gw, .reg] s s' := by
  unfold execRailRegained at hs
  try dsimp only at hs
  repeat' split at hs
  all_goals (cases hs; simp [Only])
@[simp] theorem State.orphans_outside {ps : List Part} (s : State) (hEngs : Part.engs ∈ ps) (hTests : Part.tests ∈ ps) : (State.orphans s).outside ps = s.outside ps := by
  simp [State.orphans, State.outside, *]
@[simp] theorem State.cobDrop_outside {ps : List Part} (words : Nat) (s : State) (hChans : Part.chans ∈ ps) (hOcts : Part.octs ∈ ps) (hDlls : Part.dlls ∈ ps) (hEngs : Part.engs ∈ ps) (hCores : Part.cores ∈ ps) (hSrcs : Part.srcs ∈ ps) (hDevq : Part.devq ∈ ps) (hRg : Part.rg ∈ ps) (hMbox : Part.mbox ∈ ps) (hPar : Part.par ∈ ps) (hStore : Part.store ∈ ps) (hFlash : Part.flash ∈ ps) (hGrat : Part.grat ∈ ps) (hTests : Part.tests ∈ ps) (hCal : Part.cal ∈ ps) (hGw : Part.gw ∈ ps) : (State.cobDrop words s).outside ps = s.outside ps := by
  simp [State.cobDrop, *]
@[simp] theorem State.cobPorts_outside {ps : List Part} (s : State) (hExt : Part.ext ∈ ps) (hOtp : Part.otp ∈ ps) (hMem : Part.mem ∈ ps) (hPer : Part.per ∈ ps) : (State.cobPorts s).outside ps = s.outside ps := by
  simp [State.cobPorts, *]
theorem execCobRestart_only (words : Nat) (s : State) (s' : State) (hs : execCobRestart words s = .next s') : Only [.ext, .chans, .octs, .dlls, .engs, .cores, .srcs, .devq, .rg, .mbox, .pwr, .par, .store, .flash, .grat, .tests, .cal, .otp, .img, .mem, .per, .gw, .reg] s s' := by
  unfold execCobRestart at hs
  repeat' split at hs
  all_goals (cases hs; simp [Only])
theorem execBrace_only (words : Nat) (cls : WCls) (s : State) (s' : State) (hs : execBrace words cls s = .next s') : Only [.ref, .pps, .ts, .chans, .octs, .dlls, .engs, .arr, .cores, .srcs, .devq, .iv, .rg, .mbox, .pwr, .par, .store, .flash, .grat, .tests, .cas, .cal, .mem, .gw, .reg] s s' := by
  unfold execBrace at hs
  try dsimp only at hs
  repeat' split at hs
  all_goals (cases hs; simp [Only])
theorem execBraceDone_only (s : State) (s' : State) (hs : execBraceDone s = .next s') : Only [.mbox, .pwr, .store, .flt, .mem, .hp, .reg] s s' := by
  unfold execBraceDone at hs
  repeat' split at hs
  all_goals (cases hs; simp [Only])
theorem execBraceRel_only (s : State) (s' : State) (hs : execBraceRel s = .next s') : Only [.ref, .pps, .ext, .ts, .latch, .chans, .octs, .dlls, .engs, .arr, .cores, .srcs, .devq, .iv, .ring, .rg, .mbox, .pwr, .par, .store, .flash, .grat, .flt, .tests, .cas, .cal, .otp, .img, .mem, .per, .gw, .hp, .reg] s s' := by
  unfold execBraceRel at hs
  try dsimp only at hs
  repeat' split at hs
  all_goals (cases hs; simp [Only])
theorem execEngineArrayLost_only (s : State) (s' : State) (hs : execEngineArrayLost s = .next s') : Only [.ts, .latch, .chans, .octs, .dlls, .engs, .arr, .cores, .srcs, .devq, .iv, .rg, .mbox, .pwr, .par, .store, .grat, .tests, .cal, .gw, .reg] s s' := by
  unfold execEngineArrayLost at hs
  try dsimp only at hs
  repeat' split at hs
  all_goals (simp only [Host.Outcome.next.injEq] at hs; subst hs; unfold Only; repeat' (first | (simp; done) | split))
end Sys2Proof.Machine
end

