-- ==== Sys2Proof/Laws/FrameQueues.lean ====
section
/-!
SUPPORT. Frames of the operations of Machine/Queues.lean: `X_outside` says which parts an operation can change, `X_only` the same of a
command's meaning.
-/
namespace Sys2Proof.Machine
@[simp] theorem State.modXq_outside {ps : List Part} (f : Xq → Xq) (q : Queue) (s : State) (hOcts : Part.octs ∈ ps) (hDevq : Part.devq ∈ ps) : (State.modXq f q s).outside ps = s.outside ps := by
  unfold State.modXq
  split <;> simp [*]
@[simp] theorem State.xqEmpty_outside {ps : List Part} (q : Queue) (s : State) (hOcts : Part.octs ∈ ps) (hDevq : Part.devq ∈ ps) :
    (State.xqEmpty s q).outside ps = s.outside ps := by
  cases q <;> simp [State.xqEmpty, *]
theorem execQueueReadyFall_only (q : Queue) (s : State) (s' : State) (hs : execQueueReadyFall q s = .next s') : Only [.octs, .devq] s s' := by
  unfold execQueueReadyFall at hs
  repeat' split at hs
  all_goals (cases hs; simp [Only])
theorem execPeerAbsent_only (q : Queue) (rail : Bool) (s : State) (s' : State) (hs : execPeerAbsent q rail s = .next s') : Only [.octs, .devq, .pwr] s s' := by
  unfold execPeerAbsent at hs
  repeat' split at hs
  all_goals (cases hs; simp [Only])
theorem execQueueHandshakeDone_only (q : Queue) (s : State) (s' : State) (hs : execQueueHandshakeDone q s = .next s') : Only [.octs, .devq] s s' := by
  unfold execQueueHandshakeDone at hs
  repeat' split at hs
  all_goals (cases hs; simp [Only])
end Sys2Proof.Machine
end

