-- ==== Sys2Proof/Laws/FrameCalibration.lean ====
section
/-!
SUPPORT. Frames of the operations of Machine/Calibration.lean: `X_outside` says which parts an operation can change, `X_only` the same of a
command's meaning.
-/
namespace Sys2Proof.Machine
@[simp] theorem State.handBegin_outside {ps : List Part} (c : Nat) (s : State) (hChans : Part.chans ∈ ps) (hOcts : Part.octs ∈ ps) (hSrcs : Part.srcs ∈ ps) : (State.handBegin c s).outside ps = s.outside ps := by
  simp [State.handBegin, *]
@[simp] theorem State.calStart_outside {ps : List Part} (kind unit parts : Nat) (band : Bool) (s : State) (hChans : Part.chans ∈ ps) (hOcts : Part.octs ∈ ps) (hDlls : Part.dlls ∈ ps) (hCores : Part.cores ∈ ps) (hSrcs : Part.srcs ∈ ps) (hDevq : Part.devq ∈ ps) (hRg : Part.rg ∈ ps) (hMbox : Part.mbox ∈ ps) (hPar : Part.par ∈ ps) (hStore : Part.store ∈ ps) (hGrat : Part.grat ∈ ps) (hCal : Part.cal ∈ ps) (hGw : Part.gw ∈ ps) : (State.calStart kind unit parts band s).outside ps = s.outside ps := by
  unfold State.calStart
  try dsimp only
  repeat' (first | with_reducible rfl | (simp [*]; done) | split)
@[simp] theorem State.opCalRun_outside {ps : List Part} (h : Hdr) (c kind : Nat) (s : State) (hChans : Part.chans ∈ ps) (hOcts : Part.octs ∈ ps) (hDlls : Part.dlls ∈ ps) (hCores : Part.cores ∈ ps) (hSrcs : Part.srcs ∈ ps) (hDevq : Part.devq ∈ ps) (hRg : Part.rg ∈ ps) (hMbox : Part.mbox ∈ ps) (hPar : Part.par ∈ ps) (hStore : Part.store ∈ ps) (hGrat : Part.grat ∈ ps) (hCal : Part.cal ∈ ps) (hGw : Part.gw ∈ ps) : (State.opCalRun h c kind s).outside ps = s.outside ps := by
  unfold State.opCalRun
  split <;> simp [*]
theorem execCalRun_only (h : Hdr) (c : Ch) (stat : Bool) (s : State) (s' : State) (hs : execCalRun h c stat s = .next s') : Only [.chans, .octs, .dlls, .cores, .srcs, .devq, .rg, .mbox, .par, .store, .grat, .cal, .gw] s s' := by
  simp only [execCalRun, Host.Outcome.next.injEq] at hs
  subst hs
  simp [Only]
@[simp] theorem State.opCalSurvey_outside {ps : List Part} (h : Hdr) (mask : Nat) (band : Bool) (s : State) (hChans : Part.chans ∈ ps) (hOcts : Part.octs ∈ ps) (hDlls : Part.dlls ∈ ps) (hCores : Part.cores ∈ ps) (hSrcs : Part.srcs ∈ ps) (hDevq : Part.devq ∈ ps) (hRg : Part.rg ∈ ps) (hMbox : Part.mbox ∈ ps) (hPar : Part.par ∈ ps) (hStore : Part.store ∈ ps) (hGrat : Part.grat ∈ ps) (hCal : Part.cal ∈ ps) (hGw : Part.gw ∈ ps) : (State.opCalSurvey h mask band s).outside ps = s.outside ps := by
  unfold State.opCalSurvey
  try dsimp only
  repeat' (first | with_reducible rfl | (simp [*]; done) | split)
theorem execCalSurvey_only (h : Hdr) (mask : BitVec 8) (band : Bool) (s : State) (s' : State) (hs : execCalSurvey h mask band s = .next s') : Only [.chans, .octs, .dlls, .cores, .srcs, .devq, .rg, .mbox, .par, .store, .grat, .cal, .gw] s s' := by
  simp only [execCalSurvey, Host.Outcome.next.injEq] at hs
  subst hs
  simp [Only]
@[simp] theorem State.opCalStatus_outside {ps : List Part} (h : Hdr) (bd n : Nat) (s : State) (hMbox : Part.mbox ∈ ps) : (State.opCalStatus h bd n s).outside ps = s.outside ps := by
  unfold State.opCalStatus
  split <;> simp [*]
theorem execCalStatus_only (h : Hdr) (bd : Fin 8) (n : BitVec 16) (s : State) (s' : State) (hs : execCalStatus h bd n s = .next s') : Only [.mbox] s s' := by
  simp only [execCalStatus, Host.Outcome.next.injEq] at hs
  subst hs
  simp [Only]
@[simp] theorem State.opCalAbort_outside {ps : List Part} (h : Hdr) (n : Nat) (s : State) (hChans : Part.chans ∈ ps) (hOcts : Part.octs ∈ ps) (hDlls : Part.dlls ∈ ps) (hCores : Part.cores ∈ ps) (hSrcs : Part.srcs ∈ ps) (hDevq : Part.devq ∈ ps) (hRg : Part.rg ∈ ps) (hMbox : Part.mbox ∈ ps) (hPar : Part.par ∈ ps) (hStore : Part.store ∈ ps) (hGrat : Part.grat ∈ ps) (hCal : Part.cal ∈ ps) (hGw : Part.gw ∈ ps) : (State.opCalAbort h n s).outside ps = s.outside ps := by
  unfold State.opCalAbort
  split <;> simp [*]
theorem execCalAbort_only (h : Hdr) (n : BitVec 32) (s : State) (s' : State) (hs : execCalAbort h n s = .next s') : Only [.chans, .octs, .dlls, .cores, .srcs, .devq, .rg, .mbox, .par, .store, .grat, .cal, .gw] s s' := by
  simp only [execCalAbort, Host.Outcome.next.injEq] at hs
  subst hs
  simp [Only]
@[simp] theorem State.dllPart_outside {ps : List Part} (m : PartMeas) (num : Nat) (s : State) (hChans : Part.chans ∈ ps) (hOcts : Part.octs ∈ ps) (hDlls : Part.dlls ∈ ps) (hCores : Part.cores ∈ ps) (hSrcs : Part.srcs ∈ ps) (hDevq : Part.devq ∈ ps) (hRg : Part.rg ∈ ps) (hMbox : Part.mbox ∈ ps) (hPar : Part.par ∈ ps) (hStore : Part.store ∈ ps) (hGrat : Part.grat ∈ ps) (hFlt : Part.flt ∈ ps) (hCal : Part.cal ∈ ps) (hGw : Part.gw ∈ ps) : (State.dllPart m num s).outside ps = s.outside ps := by
  unfold State.dllPart
  try dsimp only
  repeat' (first | with_reducible rfl | (simp [*]; done) | (simp [State.outside, *]; done) | (with_reducible refine (forAll_outside _ _ _ ?_).trans ?_) | (with_reducible refine (foldl_outside _ _ _ ?_).trans ?_) | split | (intro _))
@[simp] theorem State.calFinish_outside {ps : List Part} (r : CalRun) (s : State) (hChans : Part.chans ∈ ps) (hOcts : Part.octs ∈ ps) (hDlls : Part.dlls ∈ ps) (hCores : Part.cores ∈ ps) (hSrcs : Part.srcs ∈ ps) (hDevq : Part.devq ∈ ps) (hRg : Part.rg ∈ ps) (hMbox : Part.mbox ∈ ps) (hPar : Part.par ∈ ps) (hStore : Part.store ∈ ps) (hGrat : Part.grat ∈ ps) (hCal : Part.cal ∈ ps) (hGw : Part.gw ∈ ps) : (State.calFinish r s).outside ps = s.outside ps := by
  unfold State.calFinish
  split <;> simp [*]
@[simp] theorem State.partFails_outside {ps : List Part} (e : Nat) (m : PartMeas) (r : CalRun) (s : State) (hTs : Part.ts ∈ ps) (hLatch : Part.latch ∈ ps) (hChans : Part.chans ∈ ps) (hOcts : Part.octs ∈ ps) (hDlls : Part.dlls ∈ ps) (hCores : Part.cores ∈ ps) (hSrcs : Part.srcs ∈ ps) (hDevq : Part.devq ∈ ps) (hRg : Part.rg ∈ ps) (hMbox : Part.mbox ∈ ps) (hPwr : Part.pwr ∈ ps) (hPar : Part.par ∈ ps) (hStore : Part.store ∈ ps) (hGrat : Part.grat ∈ ps) (hFlt : Part.flt ∈ ps) (hCal : Part.cal ∈ ps) (hGw : Part.gw ∈ ps) : (State.partFails e m r s).outside ps = s.outside ps := by
  simp [State.partFails, *]
theorem execCalPartDone_only (n : BitVec 32) (m : PartMeas) (s : State) (s' : State) (hs : execCalPartDone n m s = .next s') : Only [.ts, .latch, .chans, .octs, .dlls, .cores, .srcs, .devq, .rg, .mbox, .pwr, .par, .store, .grat, .flt, .cal, .gw] s s' := by
  unfold execCalPartDone at hs
  try dsimp only at hs
  repeat' split at hs
  all_goals (cases hs; simp [Only])
theorem execCalRunT_only (n : BitVec 32) (s : State) (s' : State) (hs : execCalRunT n s = .next s') : Only [.chans, .octs, .dlls, .cores, .srcs, .devq, .rg, .mbox, .par, .store, .grat, .cal, .gw] s s' := by
  unfold execCalRunT at hs
  repeat' split at hs
  all_goals (cases hs; simp [Only])
theorem execCalSchedule_only (k : OctIx) (stat : Bool) (s : State) (s' : State) (hs : execCalSchedule k stat s = .next s') : Only [.chans, .octs, .dlls, .cores, .srcs, .devq, .rg, .mbox, .par, .store, .grat, .cal, .gw] s s' := by
  unfold execCalSchedule at hs
  repeat' split at hs
  all_goals (cases hs; simp [Only])
theorem execCalStale_only (i : Fin 532) (s : State) (s' : State) (hs : execCalStale i s = .next s') : Only [.mbox, .cal] s s' := by
  unfold execCalStale at hs
  repeat' split at hs
  all_goals (cases hs; simp [Only])
@[simp] theorem State.opBmOpen_outside {ps : List Part} (h : Hdr) (uRef refId oper : Nat) (s : State) (hRg : Part.rg ∈ ps) (hMbox : Part.mbox ∈ ps) (hPar : Part.par ∈ ps) (hCal : Part.cal ∈ ps) : (State.opBmOpen h uRef refId oper s).outside ps = s.outside ps := by
  unfold State.opBmOpen
  try dsimp only
  repeat' (first | with_reducible rfl | (simp [*]; done) | split)
theorem execBmOpen_only (h : Hdr) (uRef : BitVec 64) (refId : BitVec 256) (oper : BitVec 128) (s : State) (s' : State) (hs : execBmOpen h uRef refId oper s = .next s') : Only [.rg, .mbox, .par, .cal] s s' := by
  simp only [execBmOpen, Host.Outcome.next.injEq] at hs
  subst hs
  simp [Only]
@[simp] theorem State.opBmRef_outside {ps : List Part} (h : Hdr) (dCal : BitVec 64) (uCal : Nat) (stamps : List Nat) (s : State) (hMbox : Part.mbox ∈ ps) (hCal : Part.cal ∈ ps) : (State.opBmRef h dCal uCal stamps s).outside ps = s.outside ps := by
  unfold State.opBmRef
  try dsimp only
  repeat' (first | with_reducible rfl | (simp [*]; done) | split)
theorem execBmRef_only (h : Hdr) (dCal uCal : BitVec 64) (stamps : List Nat) (s : State) (s' : State) (hs : execBmRef h dCal uCal stamps s = .next s') : Only [.mbox, .cal] s s' := by
  simp only [execBmRef, Host.Outcome.next.injEq] at hs
  subst hs
  simp [Only]
@[simp] theorem State.opBmLoop_outside {ps : List Part} (h : Hdr) (c path : Nat) (dLb : BitVec 64) (uLb : Nat) (m : LoopMeas) (s : State) (hMbox : Part.mbox ∈ ps) (hCal : Part.cal ∈ ps) : (State.opBmLoop h c path dLb uLb m s).outside ps = s.outside ps := by
  unfold State.opBmLoop
  try dsimp only
  repeat' (first | with_reducible rfl | (simp [*]; done) | split)
theorem execBmLoop_only (h : Hdr) (c : Ch) (path : Fin 4) (dLb uLb : BitVec 64) (m : LoopMeas) (s : State) (s' : State) (hs : execBmLoop h c path dLb uLb m s = .next s') : Only [.mbox, .cal] s s' := by
  simp only [execBmLoop, Host.Outcome.next.injEq] at hs
  subst hs
  simp [Only]
@[simp] theorem State.opBmClose_outside {ps : List Part} (h : Hdr) (slope : Bool) (s : State) (hMbox : Part.mbox ∈ ps) (hStore : Part.store ∈ ps) : (State.opBmClose h slope s).outside ps = s.outside ps := by
  unfold State.opBmClose
  try dsimp only
  repeat' (first | with_reducible rfl | (simp [*]; done) | split)
theorem execBmClose_only (h : Hdr) (slope : Bool) (s : State) (s' : State) (hs : execBmClose h slope s = .next s') : Only [.mbox, .store] s s' := by
  simp only [execBmClose, Host.Outcome.next.injEq] at hs
  subst hs
  simp [Only]
@[simp] theorem State.opBmAbort_outside {ps : List Part} (h : Hdr) (s : State) (hDevq : Part.devq ∈ ps) (hRg : Part.rg ∈ ps) (hMbox : Part.mbox ∈ ps) (hPar : Part.par ∈ ps) (hCal : Part.cal ∈ ps) (hGw : Part.gw ∈ ps) : (State.opBmAbort h s).outside ps = s.outside ps := by
  simp [State.opBmAbort, *]
theorem execBmAbort_only (h : Hdr) (s : State) (s' : State) (hs : execBmAbort h s = .next s') : Only [.devq, .rg, .mbox, .par, .cal, .gw] s s' := by
  simp only [execBmAbort, Host.Outcome.next.injEq] at hs
  subst hs
  simp [Only]
theorem execBmExpired_only (s : State) (s' : State) (hs : execBmExpired s = .next s') : Only [.devq, .rg, .mbox, .par, .cal, .gw] s s' := by
  unfold execBmExpired at hs
  repeat' split at hs
  all_goals (cases hs; simp [Only])
end Sys2Proof.Machine
end

