-- ==== Sys2Proof/Laws/FrameGauges.lean ====
section
/-!
SUPPORT. Frames of the operations of Machine/Gauges.lean: `X_outside` says which parts an operation can change, `X_only` the same of a
command's meaning.
-/
namespace Sys2Proof.Machine
@[simp] theorem State.replanReq_outside {ps : List Part} (i action : Nat) (v : Int) (s : State) (hMbox : Part.mbox ∈ ps) : (State.replanReq i action v s).outside ps = s.outside ps := by
  simp [State.replanReq, *]
@[simp] theorem State.gwAgain_outside {ps : List Part} (i : Nat) (s : State) (hGw : Part.gw ∈ ps) : (State.gwAgain i s).outside ps = s.outside ps := by
  simp [State.gwAgain, *]
@[simp] theorem State.gwRan_outside {ps : List Part} (i : Nat) (s : State) (hGw : Part.gw ∈ ps) : (State.gwRan i s).outside ps = s.outside ps := by
  simp [State.gwRan, *]
@[simp] theorem State.dtcReassign_outside {ps : List Part} (i : Nat) (v : Int) (s : State) (hChans : Part.chans ∈ ps) (hOcts : Part.octs ∈ ps) (hDlls : Part.dlls ∈ ps) (hCores : Part.cores ∈ ps) (hSrcs : Part.srcs ∈ ps) (hDevq : Part.devq ∈ ps) (hRg : Part.rg ∈ ps) (hMbox : Part.mbox ∈ ps) (hPar : Part.par ∈ ps) (hStore : Part.store ∈ ps) (hGrat : Part.grat ∈ ps) (hCal : Part.cal ∈ ps) (hGw : Part.gw ∈ ps) : (State.dtcReassign i v s).outside ps = s.outside ps := by
  unfold State.dtcReassign
  try dsimp only
  split <;> simp [*]
@[simp] theorem State.gwRun_outside {ps : List Part} (i code : Nat) (v : Int) (s : State) (hChans : Part.chans ∈ ps) (hOcts : Part.octs ∈ ps) (hDlls : Part.dlls ∈ ps) (hCores : Part.cores ∈ ps) (hSrcs : Part.srcs ∈ ps) (hDevq : Part.devq ∈ ps) (hRg : Part.rg ∈ ps) (hMbox : Part.mbox ∈ ps) (hPar : Part.par ∈ ps) (hStore : Part.store ∈ ps) (hGrat : Part.grat ∈ ps) (hCal : Part.cal ∈ ps) (hGw : Part.gw ∈ ps) : (State.gwRun i code v s).outside ps = s.outside ps := by
  unfold State.gwRun
  try dsimp only
  repeat' (first | with_reducible rfl | (simp [*]; done) | split)
@[simp] theorem State.gwAct_outside {ps : List Part} (i : Nat) (v : Int) (s : State) (hChans : Part.chans ∈ ps) (hOcts : Part.octs ∈ ps) (hDlls : Part.dlls ∈ ps) (hCores : Part.cores ∈ ps) (hSrcs : Part.srcs ∈ ps) (hDevq : Part.devq ∈ ps) (hRg : Part.rg ∈ ps) (hMbox : Part.mbox ∈ ps) (hPar : Part.par ∈ ps) (hStore : Part.store ∈ ps) (hGrat : Part.grat ∈ ps) (hCal : Part.cal ∈ ps) (hGw : Part.gw ∈ ps) : (State.gwAct i v s).outside ps = s.outside ps := by
  simp [State.gwAct, *]
theorem execMargin_only (k : OctIx) (tune : Int) (s : State) (s' : State) (hs : execMargin k tune s = .next s') : Only [.chans, .octs, .dlls, .cores, .srcs, .devq, .rg, .mbox, .par, .store, .grat, .cal, .gw] s s' := by
  unfold execMargin at hs
  try dsimp only at hs
  repeat' split at hs
  all_goals (cases hs; simp [Only])
@[simp] theorem State.gwMeasure_outside {ps : List Part} (m : GwMeas) (s : State) (hOcts : Part.octs ∈ ps) (hDlls : Part.dlls ∈ ps) : (State.gwMeasure m s).outside ps = s.outside ps := by
  simp [State.gwMeasure, *]
@[simp] theorem State.gwSample_outside {ps : List Part} (m : GwMeas) (p : List Nat) (i : Nat) (s : State) (hGw : Part.gw ∈ ps) : (State.gwSample m p i s).outside ps = s.outside ps := by
  unfold State.gwSample
  try dsimp only
  split <;> simp [*]
@[simp] theorem State.gwSoon_outside {ps : List Part} (i th : Nat) (s : State) (hMbox : Part.mbox ∈ ps) (hGw : Part.gw ∈ ps) : (State.gwSoon i th s).outside ps = s.outside ps := by
  simp [State.gwSoon, *]
@[simp] theorem State.gwCheck_outside {ps : List Part} (i : Nat) (s : State) (hChans : Part.chans ∈ ps) (hOcts : Part.octs ∈ ps) (hDlls : Part.dlls ∈ ps) (hCores : Part.cores ∈ ps) (hSrcs : Part.srcs ∈ ps) (hDevq : Part.devq ∈ ps) (hRg : Part.rg ∈ ps) (hMbox : Part.mbox ∈ ps) (hPar : Part.par ∈ ps) (hStore : Part.store ∈ ps) (hGrat : Part.grat ∈ ps) (hCal : Part.cal ∈ ps) (hGw : Part.gw ∈ ps) : (State.gwCheck i s).outside ps = s.outside ps := by
  simp [State.gwCheck, *]
@[simp] theorem State.gwStore_outside {ps : List Part} (h : Option Hdr) (pay : List Nat) (s : State) (hMbox : Part.mbox ∈ ps) (hStore : Part.store ∈ ps) (hGw : Part.gw ∈ ps) : (State.gwStore h pay s).outside ps = s.outside ps := by
  unfold State.gwStore
  try dsimp only
  split <;> simp [*]
@[simp] theorem State.gwLog_outside {ps : List Part} (h : Option Hdr) (m : GwMeas) (s : State) (hChans : Part.chans ∈ ps) (hOcts : Part.octs ∈ ps) (hDlls : Part.dlls ∈ ps) (hCores : Part.cores ∈ ps) (hSrcs : Part.srcs ∈ ps) (hDevq : Part.devq ∈ ps) (hRg : Part.rg ∈ ps) (hMbox : Part.mbox ∈ ps) (hPar : Part.par ∈ ps) (hStore : Part.store ∈ ps) (hGrat : Part.grat ∈ ps) (hCal : Part.cal ∈ ps) (hGw : Part.gw ∈ ps) : (State.gwLog h m s).outside ps = s.outside ps := by
  unfold State.gwLog
  try dsimp only
  repeat' (first | with_reducible rfl | (simp [*]; done) | split)
theorem execGwLog_only (m : GwMeas) (s : State) (s' : State) (hs : execGwLog m s = .next s') : Only [.chans, .octs, .dlls, .cores, .srcs, .devq, .rg, .mbox, .par, .store, .grat, .cal, .gw] s s' := by
  unfold execGwLog at hs
  try dsimp only at hs
  repeat' split at hs
  all_goals (simp only [Host.Outcome.next.injEq] at hs; subst hs; unfold Only; repeat' (first | (simp; done) | split))
theorem execGwLogNow_only (h : Hdr) (m : GwMeas) (s : State) (s' : State) (hs : execGwLogNow h m s = .next s') : Only [.chans, .octs, .dlls, .cores, .srcs, .devq, .rg, .mbox, .par, .store, .grat, .cal, .gw] s s' := by
  simp only [execGwLogNow, Host.Outcome.next.injEq] at hs
  subst hs
  simp [Only]
theorem execG8Accumulate_only (temp : BitVec 16) (s : State) (s' : State) (hs : execG8Accumulate temp s = .next s') : Only [.gw] s s' := by
  unfold execG8Accumulate at hs
  repeat' split at hs
  all_goals (cases hs; simp [Only])
theorem execG6ClaimRetry_only (s : State) (s' : State) (hs : execG6ClaimRetry s = .next s') : Only [.devq, .rg, .par, .gw] s s' := by
  simp only [execG6ClaimRetry, Host.Outcome.next.injEq] at hs
  subst hs
  simp [Only]
@[simp] theorem State.opGwHealth_outside {ps : List Part} (h : Hdr) (bd : Nat) (attention : Bool) (s : State) (hMbox : Part.mbox ∈ ps) : (State.opGwHealth h bd attention s).outside ps = s.outside ps := by
  unfold State.opGwHealth
  split <;> simp [*]
theorem execGwHealth_only (h : Hdr) (bd : Fin 8) (attention : Bool) (s : State) (s' : State) (hs : execGwHealth h bd attention s = .next s') : Only [.mbox] s s' := by
  simp only [execGwHealth, Host.Outcome.next.injEq] at hs
  subst hs
  simp [Only]
@[simp] theorem State.opGwLogRead_outside {ps : List Part} (h : Hdr) (bd first n : Nat) (s : State) (hMbox : Part.mbox ∈ ps) : (State.opGwLogRead h bd first n s).outside ps = s.outside ps := by
  unfold State.opGwLogRead
  split <;> simp [*]
theorem execGwLogRead_only (h : Hdr) (bd : Fin 8) (first : BitVec 32) (n : BitVec 16) (s : State) (s' : State) (hs : execGwLogRead h bd first n s = .next s') : Only [.mbox] s s' := by
  simp only [execGwLogRead, Host.Outcome.next.injEq] at hs
  subst hs
  simp [Only]
@[simp] theorem State.opGwRestart_outside {ps : List Part} (h : Hdr) (g n : Nat) (s : State) (hMbox : Part.mbox ∈ ps) (hStore : Part.store ∈ ps) : (State.opGwRestart h g n s).outside ps = s.outside ps := by
  unfold State.opGwRestart
  split <;> simp [*]
theorem execGwRestart_only (h : Hdr) (g : Fin 16) (n : Fin 4096) (s : State) (s' : State) (hs : execGwRestart h g n s = .next s') : Only [.mbox, .store] s s' := by
  simp only [execGwRestart, Host.Outcome.next.injEq] at hs
  subst hs
  simp [Only]
@[simp] theorem State.opGwReplanRun_outside {ps : List Part} (h : Hdr) (g n : Nat) (s : State) (hChans : Part.chans ∈ ps) (hOcts : Part.octs ∈ ps) (hDlls : Part.dlls ∈ ps) (hCores : Part.cores ∈ ps) (hSrcs : Part.srcs ∈ ps) (hDevq : Part.devq ∈ ps) (hRg : Part.rg ∈ ps) (hMbox : Part.mbox ∈ ps) (hPar : Part.par ∈ ps) (hStore : Part.store ∈ ps) (hGrat : Part.grat ∈ ps) (hCal : Part.cal ∈ ps) (hGw : Part.gw ∈ ps) : (State.opGwReplanRun h g n s).outside ps = s.outside ps := by
  unfold State.opGwReplanRun
  split <;> simp [*]
theorem execGwReplanRun_only (h : Hdr) (g : Fin 16) (n : Fin 4096) (s : State) (s' : State) (hs : execGwReplanRun h g n s = .next s') : Only [.chans, .octs, .dlls, .cores, .srcs, .devq, .rg, .mbox, .par, .store, .grat, .cal, .gw] s s' := by
  simp only [execGwReplanRun, Host.Outcome.next.injEq] at hs
  subst hs
  simp [Only]
end Sys2Proof.Machine
end

