-- ==== Sys2Proof/Laws/FrameParamCmds.lean ====
section
/-!
SUPPORT. Frames of the operations of Machine/ParamCmds.lean: `X_outside` says which parts an operation can change, `X_only` the same of a
command's meaning.
-/
namespace Sys2Proof.Machine
@[simp] theorem State.opParamRd_outside {ps : List Part} (h : Hdr) (l : List Item) (s : State) (hMbox : Part.mbox ∈ ps) : (State.opParamRd h l s).outside ps = s.outside ps := by
  unfold State.opParamRd
  split <;> simp [*]
theorem execParamRd_only (h : Hdr) (l : List Item) (s : State) (s' : State) (hs : execParamRd h l s = .next s') : Only [.mbox] s s' := by
  simp only [execParamRd, Host.Outcome.next.injEq] at hs
  subst hs
  simp [Only]
@[simp] theorem State.withChange_outside {ps : List Part} (c : Change) (s : State) (hChans : Part.chans ∈ ps) (hDlls : Part.dlls ∈ ps) (hCores : Part.cores ∈ ps) (hPar : Part.par ∈ ps) (hStore : Part.store ∈ ps) (hGrat : Part.grat ∈ ps) (hCal : Part.cal ∈ ps) : (State.withChange c s).outside ps = s.outside ps := by
  simp [State.withChange, *]
@[simp] theorem State.loadSlot_outside {ps : List Part} (c i : Nat) (s : State) (hOcts : Part.octs ∈ ps) : (State.loadSlot c i s).outside ps = s.outside ps := by
  unfold State.loadSlot
  try dsimp only
  repeat' (first | with_reducible rfl | (simp [*]; done) | (simp [State.outside, *]; done) | (with_reducible refine (forAll_outside _ _ _ ?_).trans ?_) | (with_reducible refine (foldl_outside _ _ _ ?_).trans ?_) | split | (intro _))
@[simp] theorem State.sendCoefs_outside {ps : List Part} (c : Nat) (s : State) (hChans : Part.chans ∈ ps) (hOcts : Part.octs ∈ ps) (hEngs : Part.engs ∈ ps) (hMbox : Part.mbox ∈ ps) : (State.sendCoefs c s).outside ps = s.outside ps := by
  unfold State.sendCoefs
  try dsimp only
  repeat' (first | with_reducible rfl | (simp [*]; done) | (simp [State.outside, *]; done) | (with_reducible refine (forAll_outside _ _ _ ?_).trans ?_) | (with_reducible refine (foldl_outside _ _ _ ?_).trans ?_) | split | (intro _))
@[simp] theorem State.sendConfig_outside {ps : List Part} (c : Nat) (s : State) (hChans : Part.chans ∈ ps) : (State.sendConfig c s).outside ps = s.outside ps := by
  simp [State.sendConfig, *]
@[simp] theorem State.restartDec_outside {ps : List Part} (c i : Nat) (s : State) (hSrcs : Part.srcs ∈ ps) : (State.restartDec c i s).outside ps = s.outside ps := by
  simp [State.restartDec, *]
@[simp] theorem State.chEffect_outside {ps : List Part} (c id : Nat) (s : State) (hTs : Part.ts ∈ ps) (hChans : Part.chans ∈ ps) (hOcts : Part.octs ∈ ps) (hEngs : Part.engs ∈ ps) (hSrcs : Part.srcs ∈ ps) (hMbox : Part.mbox ∈ ps) : (State.chEffect c id s).outside ps = s.outside ps := by
  unfold State.chEffect
  try dsimp only
  repeat' (first | with_reducible rfl | (simp [*]; done) | split)
@[simp] theorem State.bndAnew_outside {ps : List Part} (ch : Bool) (s : State) (hTs : Part.ts ∈ ps) : (State.bndAnew ch s).outside ps = s.outside ps := by
  simp [State.bndAnew, *]
@[simp] theorem State.latchSrc_outside {ps : List Part} (i : Nat) (s : State) (hLatch : Part.latch ∈ ps) : (State.latchSrc i s).outside ps = s.outside ps := by
  simp [State.latchSrc, *]
@[simp] theorem State.devEffect_outside {ps : List Part} (id : Nat) (s : State) (hRef : Part.ref ∈ ps) (hTs : Part.ts ∈ ps) (hLatch : Part.latch ∈ ps) (hChans : Part.chans ∈ ps) (hOcts : Part.octs ∈ ps) (hDlls : Part.dlls ∈ ps) (hCores : Part.cores ∈ ps) (hSrcs : Part.srcs ∈ ps) (hDevq : Part.devq ∈ ps) (hRg : Part.rg ∈ ps) (hMbox : Part.mbox ∈ ps) (hPwr : Part.pwr ∈ ps) (hPar : Part.par ∈ ps) (hStore : Part.store ∈ ps) (hGrat : Part.grat ∈ ps) (hCas : Part.cas ∈ ps) (hCal : Part.cal ∈ ps) (hGw : Part.gw ∈ ps) : (State.devEffect id s).outside ps = s.outside ps := by
  simp [State.devEffect, *]
@[simp] theorem State.paramEffects_outside {ps : List Part} (dev : List Nat) (own : List (Nat × Nat)) (s : State) (hRef : Part.ref ∈ ps) (hTs : Part.ts ∈ ps) (hLatch : Part.latch ∈ ps) (hChans : Part.chans ∈ ps) (hOcts : Part.octs ∈ ps) (hDlls : Part.dlls ∈ ps) (hEngs : Part.engs ∈ ps) (hCores : Part.cores ∈ ps) (hSrcs : Part.srcs ∈ ps) (hDevq : Part.devq ∈ ps) (hIv : Part.iv ∈ ps) (hRg : Part.rg ∈ ps) (hMbox : Part.mbox ∈ ps) (hPwr : Part.pwr ∈ ps) (hPar : Part.par ∈ ps) (hStore : Part.store ∈ ps) (hGrat : Part.grat ∈ ps) (hCas : Part.cas ∈ ps) (hCal : Part.cal ∈ ps) (hGw : Part.gw ∈ ps) : (State.paramEffects dev own s).outside ps = s.outside ps := by
  simp [State.paramEffects, *]
@[simp] theorem State.applyParams_outside {ps : List Part} (c : Change) (s : State) (hRef : Part.ref ∈ ps) (hTs : Part.ts ∈ ps) (hLatch : Part.latch ∈ ps) (hChans : Part.chans ∈ ps) (hOcts : Part.octs ∈ ps) (hDlls : Part.dlls ∈ ps) (hEngs : Part.engs ∈ ps) (hCores : Part.cores ∈ ps) (hSrcs : Part.srcs ∈ ps) (hDevq : Part.devq ∈ ps) (hIv : Part.iv ∈ ps) (hRg : Part.rg ∈ ps) (hMbox : Part.mbox ∈ ps) (hPwr : Part.pwr ∈ ps) (hPar : Part.par ∈ ps) (hStore : Part.store ∈ ps) (hGrat : Part.grat ∈ ps) (hCas : Part.cas ∈ ps) (hCal : Part.cal ∈ ps) (hGw : Part.gw ∈ ps) : (State.applyParams c s).outside ps = s.outside ps := by
  unfold State.applyParams
  split <;> simp [*]
@[simp] theorem State.doWrite_outside {ps : List Part} (h : Hdr) (cmd : Nat) (l : List PWrite) (s : State) (hRef : Part.ref ∈ ps) (hTs : Part.ts ∈ ps) (hLatch : Part.latch ∈ ps) (hChans : Part.chans ∈ ps) (hOcts : Part.octs ∈ ps) (hDlls : Part.dlls ∈ ps) (hEngs : Part.engs ∈ ps) (hCores : Part.cores ∈ ps) (hSrcs : Part.srcs ∈ ps) (hDevq : Part.devq ∈ ps) (hIv : Part.iv ∈ ps) (hRg : Part.rg ∈ ps) (hMbox : Part.mbox ∈ ps) (hPwr : Part.pwr ∈ ps) (hPar : Part.par ∈ ps) (hStore : Part.store ∈ ps) (hGrat : Part.grat ∈ ps) (hCas : Part.cas ∈ ps) (hCal : Part.cal ∈ ps) (hGw : Part.gw ∈ ps) : (State.doWrite h cmd l s).outside ps = s.outside ps := by
  unfold State.doWrite
  split <;> simp [*]
@[simp] theorem State.opParamWr_outside {ps : List Part} (h : Hdr) (cmd : Nat) (dflt : Bool) (l : List Item) (s : State) (hRef : Part.ref ∈ ps) (hTs : Part.ts ∈ ps) (hLatch : Part.latch ∈ ps) (hChans : Part.chans ∈ ps) (hOcts : Part.octs ∈ ps) (hDlls : Part.dlls ∈ ps) (hEngs : Part.engs ∈ ps) (hCores : Part.cores ∈ ps) (hSrcs : Part.srcs ∈ ps) (hDevq : Part.devq ∈ ps) (hIv : Part.iv ∈ ps) (hRg : Part.rg ∈ ps) (hMbox : Part.mbox ∈ ps) (hPwr : Part.pwr ∈ ps) (hPar : Part.par ∈ ps) (hStore : Part.store ∈ ps) (hGrat : Part.grat ∈ ps) (hCas : Part.cas ∈ ps) (hCal : Part.cal ∈ ps) (hGw : Part.gw ∈ ps) : (State.opParamWr h cmd dflt l s).outside ps = s.outside ps := by
  unfold State.opParamWr
  split <;> simp [*]
theorem execParamWr_only (h : Hdr) (l : List Item) (s : State) (s' : State) (hs : execParamWr h l s = .next s') : Only [.ref, .ts, .latch, .chans, .octs, .dlls, .engs, .cores, .srcs, .devq, .iv, .rg, .mbox, .pwr, .par, .store, .grat, .cas, .cal, .gw] s s' := by
  simp only [execParamWr, Host.Outcome.next.injEq] at hs
  subst hs
  simp [Only]
theorem execParamDefault_only (h : Hdr) (l : List Item) (s : State) (s' : State) (hs : execParamDefault h l s = .next s') : Only [.ref, .ts, .latch, .chans, .octs, .dlls, .engs, .cores, .srcs, .devq, .iv, .rg, .mbox, .pwr, .par, .store, .grat, .cas, .cal, .gw] s s' := by
  simp only [execParamDefault, Host.Outcome.next.injEq] at hs
  subst hs
  simp [Only]
@[simp] theorem State.opLastSave_outside {ps : List Part} (h : Hdr) (n c : Nat) (s : State) (hMbox : Part.mbox ∈ ps) (hStore : Part.store ∈ ps) : (State.opLastSave h n c s).outside ps = s.outside ps := by
  unfold State.opLastSave
  split <;> simp [*]
theorem execLastSave_only (h : Hdr) (n : Fin 64) (c : Ch) (s : State) (s' : State) (hs : execLastSave h n c s = .next s') : Only [.mbox, .store] s s' := by
  simp only [execLastSave, Host.Outcome.next.injEq] at hs
  subst hs
  simp [Only]
@[simp] theorem State.opLastDelete_outside {ps : List Part} (h : Hdr) (n : Nat) (s : State) (hMbox : Part.mbox ∈ ps) (hStore : Part.store ∈ ps) : (State.opLastDelete h n s).outside ps = s.outside ps := by
  unfold State.opLastDelete
  split <;> simp [*]
theorem execLastDelete_only (h : Hdr) (n : Fin 64) (s : State) (s' : State) (hs : execLastDelete h n s = .next s') : Only [.mbox, .store] s s' := by
  simp only [execLastDelete, Host.Outcome.next.injEq] at hs
  subst hs
  simp [Only]
@[simp] theorem State.opLastApply_outside {ps : List Part} (h : Hdr) (n c0 c1 : Nat) (s : State) (hMbox : Part.mbox ∈ ps) (hStore : Part.store ∈ ps) : (State.opLastApply h n c0 c1 s).outside ps = s.outside ps := by
  unfold State.opLastApply
  try dsimp only
  repeat' (first | with_reducible rfl | (simp [*]; done) | split)
theorem execLastApply_only (h : Hdr) (n : BitVec 8) (c0 c1 : Ch) (s : State) (s' : State) (hs : execLastApply h n c0 c1 s = .next s') : Only [.mbox, .store] s s' := by
  simp only [execLastApply, Host.Outcome.next.injEq] at hs
  subst hs
  simp [Only]
@[simp] theorem State.lastEffects_outside {ps : List Part} (old : State) (c0 c1 : Nat) (s : State) (hTs : Part.ts ∈ ps) (hChans : Part.chans ∈ ps) (hOcts : Part.octs ∈ ps) (hEngs : Part.engs ∈ ps) (hSrcs : Part.srcs ∈ ps) (hMbox : Part.mbox ∈ ps) : (State.lastEffects old c0 c1 s).outside ps = s.outside ps := by
  unfold State.lastEffects
  try dsimp only
  repeat' (first | with_reducible rfl | (simp [*]; done) | (simp [State.outside, *]; done) | (with_reducible refine (forAll_outside _ _ _ ?_).trans ?_) | (with_reducible refine (foldl_outside _ _ _ ?_).trans ?_) | split | (intro _))
@[simp] theorem State.opLastList_outside {ps : List Part} (h : Hdr) (bd : Nat) (s : State) (hMbox : Part.mbox ∈ ps) : (State.opLastList h bd s).outside ps = s.outside ps := by
  unfold State.opLastList
  split <;> simp [*]
theorem execLastList_only (h : Hdr) (bd : Fin 8) (s : State) (s' : State) (hs : execLastList h bd s = .next s') : Only [.mbox] s s' := by
  simp only [execLastList, Host.Outcome.next.injEq] at hs
  subst hs
  simp [Only]
end Sys2Proof.Machine
end

