-- ==== Sys2Proof/Laws/FrameStoreCmds.lean ====
section
/-!
SUPPORT. Frames of the operations of Machine/StoreCmds.lean: `X_outside` says which parts an operation can change, `X_only` the same of a
command's meaning.
-/
namespace Sys2Proof.Machine
@[simp] theorem StoreS.stands_flash (p : Prog) (r : StoreReq) (d : StoreS) : (StoreS.stands p r d).flash = d.flash := by
  unfold StoreS.stands
  repeat' (first | rfl | split)
@[simp] theorem State.keepPrev_outside {ps : List Part} (old : State) (is : List Nat) (s : State) (hCores : Part.cores ∈ ps) : (State.keepPrev old is s).outside ps = s.outside ps := by
  simp [State.keepPrev, *]
@[simp] theorem State.mirrorRow_outside {ps : List Part} (kind unit : Nat) (clear : Bool) (s : State) (hOtp : Part.otp ∈ ps) : (State.mirrorRow kind unit clear s).outside ps = s.outside ps := by
  simp [State.mirrorRow, *]
@[simp] theorem State.gratChanged_outside {ps : List Part} (own : Bool) (k : Nat) (s : State) (hOcts : Part.octs ∈ ps) (hMbox : Part.mbox ∈ ps) (hGw : Part.gw ∈ ps) : (State.gratChanged own k s).outside ps = s.outside ps := by
  simp [State.gratChanged, *]
@[simp] theorem State.calStored_outside {ps : List Part} (old : State) (r : CalRun) (s : State) (hChans : Part.chans ∈ ps) (hOcts : Part.octs ∈ ps) (hDlls : Part.dlls ∈ ps) (hCores : Part.cores ∈ ps) (hDevq : Part.devq ∈ ps) (hRg : Part.rg ∈ ps) (hMbox : Part.mbox ∈ ps) (hPar : Part.par ∈ ps) (hStore : Part.store ∈ ps) (hGrat : Part.grat ∈ ps) (hCal : Part.cal ∈ ps) (hGw : Part.gw ∈ ps) : (State.calStored old r s).outside ps = s.outside ps := by
  unfold State.calStored
  split <;> simp [*]
@[simp] theorem StoreReq.effect_outside {ps : List Part} (r : StoreReq) (old s : State) (hTs : Part.ts ∈ ps) (hLatch : Part.latch ∈ ps) (hChans : Part.chans ∈ ps) (hOcts : Part.octs ∈ ps) (hDlls : Part.dlls ∈ ps) (hEngs : Part.engs ∈ ps) (hArr : Part.arr ∈ ps) (hCores : Part.cores ∈ ps) (hSrcs : Part.srcs ∈ ps) (hDevq : Part.devq ∈ ps) (hRg : Part.rg ∈ ps) (hMbox : Part.mbox ∈ ps) (hPwr : Part.pwr ∈ ps) (hPar : Part.par ∈ ps) (hStore : Part.store ∈ ps) (hGrat : Part.grat ∈ ps) (hCal : Part.cal ∈ ps) (hOtp : Part.otp ∈ ps) (hImg : Part.img ∈ ps) (hGw : Part.gw ∈ ps) : (StoreReq.effect r old s).outside ps = s.outside ps := by
  unfold StoreReq.effect
  try dsimp only
  repeat' (first | with_reducible rfl | (simp [*]; done) | split)
@[simp] theorem State.dropStore_outside {ps : List Part} (i : Nat) (s : State) (hStore : Part.store ∈ ps) : (State.dropStore i s).outside ps = s.outside ps := by
  unfold State.dropStore
  split <;> simp [*]
@[simp] theorem State.storeDone_outside {ps : List Part} (p : Prog) (r : StoreReq) (s : State) (hRef : Part.ref ∈ ps) (hTs : Part.ts ∈ ps) (hLatch : Part.latch ∈ ps) (hChans : Part.chans ∈ ps) (hOcts : Part.octs ∈ ps) (hDlls : Part.dlls ∈ ps) (hEngs : Part.engs ∈ ps) (hArr : Part.arr ∈ ps) (hCores : Part.cores ∈ ps) (hSrcs : Part.srcs ∈ ps) (hDevq : Part.devq ∈ ps) (hIv : Part.iv ∈ ps) (hRg : Part.rg ∈ ps) (hMbox : Part.mbox ∈ ps) (hPwr : Part.pwr ∈ ps) (hPar : Part.par ∈ ps) (hStore : Part.store ∈ ps) (hGrat : Part.grat ∈ ps) (hCas : Part.cas ∈ ps) (hCal : Part.cal ∈ ps) (hOtp : Part.otp ∈ ps) (hImg : Part.img ∈ ps) (hGw : Part.gw ∈ ps) : (State.storeDone p r s).outside ps = s.outside ps := by
  unfold State.storeDone
  try dsimp only
  repeat' (first | with_reducible rfl | (simp [*]; done) | split)
@[simp] theorem StoreReq.failed_outside {ps : List Part} (r : StoreReq) (e : Err) (s : State) (hChans : Part.chans ∈ ps) (hOcts : Part.octs ∈ ps) (hDlls : Part.dlls ∈ ps) (hCores : Part.cores ∈ ps) (hDevq : Part.devq ∈ ps) (hRg : Part.rg ∈ ps) (hMbox : Part.mbox ∈ ps) (hPar : Part.par ∈ ps) (hStore : Part.store ∈ ps) (hGrat : Part.grat ∈ ps) (hCal : Part.cal ∈ ps) (hGw : Part.gw ∈ ps) : (StoreReq.failed r e s).outside ps = s.outside ps := by
  unfold StoreReq.failed
  try dsimp only
  repeat' (first | with_reducible rfl | (simp [*]; done) | split)
@[simp] theorem State.storeFail_outside {ps : List Part} (i : Nat) (e : Err) (s : State) (hChans : Part.chans ∈ ps) (hOcts : Part.octs ∈ ps) (hDlls : Part.dlls ∈ ps) (hCores : Part.cores ∈ ps) (hDevq : Part.devq ∈ ps) (hRg : Part.rg ∈ ps) (hMbox : Part.mbox ∈ ps) (hPar : Part.par ∈ ps) (hStore : Part.store ∈ ps) (hGrat : Part.grat ∈ ps) (hCal : Part.cal ∈ ps) (hGw : Part.gw ∈ ps) : (State.storeFail i e s).outside ps = s.outside ps := by
  unfold State.storeFail
  split <;> simp [*]
@[simp] theorem State.runStart_outside {ps : List Part} (s : State) (hChans : Part.chans ∈ ps) (hOcts : Part.octs ∈ ps) (hDlls : Part.dlls ∈ ps) (hCores : Part.cores ∈ ps) (hDevq : Part.devq ∈ ps) (hRg : Part.rg ∈ ps) (hMbox : Part.mbox ∈ ps) (hPwr : Part.pwr ∈ ps) (hPar : Part.par ∈ ps) (hStore : Part.store ∈ ps) (hFlash : Part.flash ∈ ps) (hGrat : Part.grat ∈ ps) (hCal : Part.cal ∈ ps) (hMem : Part.mem ∈ ps) (hGw : Part.gw ∈ ps) : (State.runStart s).outside ps = s.outside ps := by
  have h : s.storeStart.1.outside ps = s.outside ps := by simp [*]
  unfold State.runStart
  revert h
  rcases s.storeStart with ⟨t, _ | e⟩ <;> intro h <;> simp_all
@[simp] theorem State.eraseBegin_outside {ps : List Part} (ring : Bool) (s : State) (hStore : Part.store ∈ ps) (hMem : Part.mem ∈ ps) : (State.eraseBegin ring s).outside ps = s.outside ps := by
  unfold State.eraseBegin
  split <;> simp [*]
@[simp] theorem State.takePort_outside {ps : List Part} (r : MemReq) (s : State) (hChans : Part.chans ∈ ps) (hOcts : Part.octs ∈ ps) (hDlls : Part.dlls ∈ ps) (hCores : Part.cores ∈ ps) (hDevq : Part.devq ∈ ps) (hRg : Part.rg ∈ ps) (hMbox : Part.mbox ∈ ps) (hPwr : Part.pwr ∈ ps) (hPar : Part.par ∈ ps) (hStore : Part.store ∈ ps) (hFlash : Part.flash ∈ ps) (hGrat : Part.grat ∈ ps) (hCal : Part.cal ∈ ps) (hMem : Part.mem ∈ ps) (hGw : Part.gw ∈ ps) : (State.takePort r s).outside ps = s.outside ps := by
  unfold State.takePort
  split
  · rfl
  · cases r <;> simp [*]
@[simp] theorem State.portNext_outside {ps : List Part} (s : State) (hChans : Part.chans ∈ ps) (hOcts : Part.octs ∈ ps) (hDlls : Part.dlls ∈ ps) (hCores : Part.cores ∈ ps) (hDevq : Part.devq ∈ ps) (hRg : Part.rg ∈ ps) (hMbox : Part.mbox ∈ ps) (hPwr : Part.pwr ∈ ps) (hPar : Part.par ∈ ps) (hStore : Part.store ∈ ps) (hFlash : Part.flash ∈ ps) (hGrat : Part.grat ∈ ps) (hFlt : Part.flt ∈ ps) (hCal : Part.cal ∈ ps) (hMem : Part.mem ∈ ps) (hGw : Part.gw ∈ ps) (hHp : Part.hp ∈ ps) (hReg : Part.reg ∈ ps) : (State.portNext s).outside ps = s.outside ps := by
  simp [State.portNext, *]
theorem execDsStore_only (holdup : Bool) (s : State) (s' : State) (hs : execDsStore holdup s = .next s') : Only [.chans, .octs, .dlls, .cores, .devq, .rg, .mbox, .pwr, .par, .store, .flash, .grat, .cal, .mem, .gw] s s' := by
  unfold execDsStore at hs
  try dsimp only at hs
  repeat' split at hs
  all_goals (cases hs; simp [Only])
theorem execHoldupOkHigh_only (s : State) (s' : State) (hs : execHoldupOkHigh s = .next s') : Only [.chans, .octs, .dlls, .cores, .devq, .rg, .mbox, .pwr, .par, .store, .flash, .grat, .cal, .mem, .gw] s s' := by
  simp only [execHoldupOkHigh, Host.Outcome.next.injEq] at hs
  subst hs
  simp [Only]
theorem execHoldupWaitExpiry_only (i : Nat) (s : State) (s' : State) (hs : execHoldupWaitExpiry i s = .next s') : Only [.chans, .octs, .dlls, .cores, .devq, .rg, .mbox, .par, .store, .grat, .cal, .gw] s s' := by
  unfold execHoldupWaitExpiry at hs
  repeat' split at hs
  all_goals (cases hs; simp [Only])
@[simp] theorem State.recStands_outside {ps : List Part} (p : Prog) (r : StoreReq) (s : State) (hRef : Part.ref ∈ ps) (hTs : Part.ts ∈ ps) (hLatch : Part.latch ∈ ps) (hChans : Part.chans ∈ ps) (hOcts : Part.octs ∈ ps) (hDlls : Part.dlls ∈ ps) (hEngs : Part.engs ∈ ps) (hArr : Part.arr ∈ ps) (hCores : Part.cores ∈ ps) (hSrcs : Part.srcs ∈ ps) (hDevq : Part.devq ∈ ps) (hIv : Part.iv ∈ ps) (hRg : Part.rg ∈ ps) (hMbox : Part.mbox ∈ ps) (hPwr : Part.pwr ∈ ps) (hPar : Part.par ∈ ps) (hStore : Part.store ∈ ps) (hFlash : Part.flash ∈ ps) (hGrat : Part.grat ∈ ps) (hCas : Part.cas ∈ ps) (hCal : Part.cal ∈ ps) (hOtp : Part.otp ∈ ps) (hImg : Part.img ∈ ps) (hMem : Part.mem ∈ ps) (hGw : Part.gw ∈ ps) : (State.recStands p r s).outside ps = s.outside ps := by
  unfold State.recStands
  split <;> simp [*]
theorem execDsRecordCommit_only (bad : Option (Nat × Bool)) (s : State) (s' : State) (hs : execDsRecordCommit bad s = .next s') : Only [.ref, .ts, .latch, .chans, .octs, .dlls, .engs, .arr, .cores, .srcs, .devq, .iv, .rg, .mbox, .pwr, .par, .store, .flash, .grat, .flt, .cas, .cal, .otp, .img, .mem, .gw, .hp, .reg] s s' := by
  unfold execDsRecordCommit at hs
  repeat' split at hs
  all_goals (cases hs; simp [Only])
theorem execEraseAhead_only (ring : Bool) (s : State) (s' : State) (hs : execEraseAhead ring s = .next s') : Only [.store, .flash, .mem] s s' := by
  unfold execEraseAhead at hs
  repeat' split at hs
  all_goals (cases hs; simp [Only])
theorem execSectorEraseDone_only (ok : Bool) (s : State) (s' : State) (hs : execSectorEraseDone ok s = .next s') : Only [.chans, .octs, .dlls, .cores, .devq, .rg, .mbox, .pwr, .par, .store, .flash, .grat, .flt, .cal, .mem, .gw, .hp, .reg] s s' := by
  unfold execSectorEraseDone at hs
  repeat' split at hs
  all_goals (cases hs; simp [Only])
@[simp] theorem State.scrubNow_outside {ps : List Part} (ws : List (BitVec 32 × Bool)) (s : State) (hMbox : Part.mbox ∈ ps) (hStore : Part.store ∈ ps) (hFlash : Part.flash ∈ ps) (hFlt : Part.flt ∈ ps) : (State.scrubNow ws s).outside ps = s.outside ps := by
  simp [State.scrubNow, *]
theorem execDsScrubPeriod_only (ws : List (BitVec 32 × Bool)) (s : State) (s' : State) (hs : execDsScrubPeriod ws s = .next s') : Only [.mbox, .store, .flash, .flt] s s' := by
  unfold execDsScrubPeriod at hs
  repeat' split at hs
  all_goals (cases hs; simp [Only])
@[simp] theorem State.opDsScrub_outside {ps : List Part} (h : Hdr) (ws : List (BitVec 32 × Bool)) (s : State) (hMbox : Part.mbox ∈ ps) (hStore : Part.store ∈ ps) (hFlash : Part.flash ∈ ps) (hFlt : Part.flt ∈ ps) : (State.opDsScrub h ws s).outside ps = s.outside ps := by
  simp [State.opDsScrub, *]
theorem execDsScrub_only (h : Hdr) (ws : List (BitVec 32 × Bool)) (s : State) (s' : State) (hs : execDsScrub h ws s = .next s') : Only [.mbox, .store, .flash, .flt] s s' := by
  simp only [execDsScrub, Host.Outcome.next.injEq] at hs
  subst hs
  simp [Only]
@[simp] theorem State.opDsInfo_outside {ps : List Part} (h : Hdr) (s : State) (hMbox : Part.mbox ∈ ps) : (State.opDsInfo h s).outside ps = s.outside ps := by
  simp [State.opDsInfo, *]
theorem execDsInfo_only (h : Hdr) (s : State) (s' : State) (hs : execDsInfo h s = .next s') : Only [.mbox] s s' := by
  simp only [execDsInfo, Host.Outcome.next.injEq] at hs
  subst hs
  simp [Only]
@[simp] theorem State.opDsBenchList_outside {ps : List Part} (h : Hdr) (bd : Nat) (s : State) (hMbox : Part.mbox ∈ ps) (hStore : Part.store ∈ ps) (hFlt : Part.flt ∈ ps) : (State.opDsBenchList h bd s).outside ps = s.outside ps := by
  unfold State.opDsBenchList
  split <;> simp [*]
theorem execDsBenchList_only (h : Hdr) (bd : Fin 8) (s : State) (s' : State) (hs : execDsBenchList h bd s = .next s') : Only [.mbox, .store, .flt] s s' := by
  simp only [execDsBenchList, Host.Outcome.next.injEq] at hs
  subst hs
  simp [Only]
@[simp] theorem State.opDsBenchRead_outside {ps : List Part} (h : Hdr) (bd n : Nat) (s : State) (hMbox : Part.mbox ∈ ps) (hStore : Part.store ∈ ps) (hFlt : Part.flt ∈ ps) : (State.opDsBenchRead h bd n s).outside ps = s.outside ps := by
  unfold State.opDsBenchRead
  try dsimp only
  repeat' (first | with_reducible rfl | (simp [*]; done) | split)
theorem execDsBenchRead_only (h : Hdr) (bd : Fin 8) (n : BitVec 32) (s : State) (s' : State) (hs : execDsBenchRead h bd n s = .next s') : Only [.mbox, .store, .flt] s s' := by
  simp only [execDsBenchRead, Host.Outcome.next.injEq] at hs
  subst hs
  simp [Only]
@[simp] theorem State.opDsRetireList_outside {ps : List Part} (h : Hdr) (bd : Nat) (s : State) (hMbox : Part.mbox ∈ ps) : (State.opDsRetireList h bd s).outside ps = s.outside ps := by
  unfold State.opDsRetireList
  split <;> simp [*]
theorem execDsRetireList_only (h : Hdr) (bd : Fin 8) (s : State) (s' : State) (hs : execDsRetireList h bd s = .next s') : Only [.mbox] s s' := by
  simp only [execDsRetireList, Host.Outcome.next.injEq] at hs
  subst hs
  simp [Only]
@[simp] theorem State.opMntDsFormat_outside {ps : List Part} (h : Hdr) (s : State) (hMbox : Part.mbox ∈ ps) (hStore : Part.store ∈ ps) (hFlash : Part.flash ∈ ps) (hGw : Part.gw ∈ ps) : (State.opMntDsFormat h s).outside ps = s.outside ps := by
  unfold State.opMntDsFormat
  split
  · exact State.reply_outside _ _ _ _ hMbox
  · split
    · exact State.reply_outside _ _ _ _ hMbox
    · split
      · exact State.reply_outside _ _ _ _ hMbox
      · split
        · exact State.reply_outside _ _ _ _ hMbox
        · dsimp only
          rw [State.reply_outside _ _ _ _ hMbox, State.writeBoot_outside _ _ _ _ hStore hFlash hGw,
            State.modStore_outside_flash _ _ hStore hFlash, forAll_outside _ _ _ fun r s => State.eraseRegion_outside r s hStore hFlash hGw]
theorem execMntDsFormat_only (h : Hdr) (s : State) (s' : State) (hs : execMntDsFormat h s = .next s') : Only [.mbox, .store, .flash, .gw] s s' := by
  simp only [execMntDsFormat, Host.Outcome.next.injEq] at hs
  subst hs
  simp [Only]
@[simp] theorem State.opMntDtcLoad_outside {ps : List Part} (h : Hdr) (c : Nat) (l : List (BitVec 32)) (s : State) (hMbox : Part.mbox ∈ ps) (hStore : Part.store ∈ ps) : (State.opMntDtcLoad h c l s).outside ps = s.outside ps := by
  simp [State.opMntDtcLoad, *]
theorem execMntDtcLoad_only (h : Hdr) (c : Ch) (l : List (BitVec 32)) (s : State) (s' : State) (hs : execMntDtcLoad h c l s = .next s') : Only [.mbox, .store] s s' := by
  simp only [execMntDtcLoad, Host.Outcome.next.injEq] at hs
  subst hs
  simp [Only]
@[simp] theorem State.opMntTdcLoad_outside {ps : List Part} (h : Hdr) (core : Nat) (part : TdcPart) (s : State) (hMbox : Part.mbox ∈ ps) (hStore : Part.store ∈ ps) (hCal : Part.cal ∈ ps) : (State.opMntTdcLoad h core part s).outside ps = s.outside ps := by
  unfold State.opMntTdcLoad
  try dsimp only
  repeat' (first | with_reducible rfl | (simp [*]; done) | split)
theorem execMntTdcLoad_only (h : Hdr) (core : BitVec 10) (part : TdcPart) (s : State) (s' : State) (hs : execMntTdcLoad h core part s = .next s') : Only [.mbox, .store, .cal] s s' := by
  simp only [execMntTdcLoad, Host.Outcome.next.injEq] at hs
  subst hs
  simp [Only]
@[simp] theorem State.opMntOtpWrite_outside {ps : List Part} (h : Hdr) (node : Bool) (v : Nat) (s : State) (hMbox : Part.mbox ∈ ps) (hOtp : Part.otp ∈ ps) (hReg : Part.reg ∈ ps) : (State.opMntOtpWrite h node v s).outside ps = s.outside ps := by
  simp [State.opMntOtpWrite, *]
theorem execMntOtpWrite_only (h : Hdr) (node : Bool) (v : W128) (s : State) (s' : State) (hs : execMntOtpWrite h node v s = .next s') : Only [.mbox, .otp, .reg] s s' := by
  simp only [execMntOtpWrite, Host.Outcome.next.injEq] at hs
  subst hs
  simp [Only]
theorem execOtpRowProgrammed_only (damaged : Bool) (s : State) (s' : State) (hs : execOtpRowProgrammed damaged s = .next s') : Only [.mbox, .flash, .otp] s s' := by
  unfold execOtpRowProgrammed at hs
  repeat' split at hs
  all_goals (cases hs; simp [Only])
end Sys2Proof.Machine
end

