-- ==== Sys2Proof/Laws/FrameFirmware.lean ====
section
/-!
SUPPORT. Frames of the operations of Machine/Firmware.lean: `X_outside` says which parts an operation can change, `X_only` the same of a
command's meaning.
-/
namespace Sys2Proof.Machine
@[simp] theorem State.opInfoId_outside {ps : List Part} (h : Hdr) (s : State) (hMbox : Part.mbox ∈ ps) : (State.opInfoId h s).outside ps = s.outside ps := by
  simp [State.opInfoId, *]
theorem execInfoId_only (h : Hdr) (s : State) (s' : State) (hs : execInfoId h s = .next s') : Only [.mbox] s s' := by
  simp only [execInfoId, Host.Outcome.next.injEq] at hs
  subst hs
  simp [Only]
@[simp] theorem State.opDevStatus_outside {ps : List Part} (h : Hdr) (s : State) (hMbox : Part.mbox ∈ ps) : (State.opDevStatus h s).outside ps = s.outside ps := by
  simp [State.opDevStatus, *]
theorem execDevStatus_only (h : Hdr) (s : State) (s' : State) (hs : execDevStatus h s = .next s') : Only [.mbox] s s' := by
  simp only [execDevStatus, Host.Outcome.next.injEq] at hs
  subst hs
  simp [Only]
@[simp] theorem State.opTsInfo_outside {ps : List Part} (h : Hdr) (s : State) (hMbox : Part.mbox ∈ ps) : (State.opTsInfo h s).outside ps = s.outside ps := by
  simp [State.opTsInfo, *]
theorem execTsInfo_only (h : Hdr) (s : State) (s' : State) (hs : execTsInfo h s = .next s') : Only [.mbox] s s' := by
  simp only [execTsInfo, Host.Outcome.next.injEq] at hs
  subst hs
  simp [Only]
@[simp] theorem State.opFwInfo_outside {ps : List Part} (h : Hdr) (s : State) (hMbox : Part.mbox ∈ ps) : (State.opFwInfo h s).outside ps = s.outside ps := by
  simp [State.opFwInfo, *]
theorem execFwInfo_only (h : Hdr) (s : State) (s' : State) (hs : execFwInfo h s = .next s') : Only [.mbox] s s' := by
  simp only [execFwInfo, Host.Outcome.next.injEq] at hs
  subst hs
  simp [Only]
@[simp] theorem State.opFwWrite_outside {ps : List Part} (h : Hdr) (bd bytes : Nat) (s : State) (hMbox : Part.mbox ∈ ps) : (State.opFwWrite h bd bytes s).outside ps = s.outside ps := by
  unfold State.opFwWrite
  split <;> simp [*]
theorem execFwWrite_only (h : Hdr) (bd : Fin 8) (bytes : BitVec 32) (s : State) (s' : State) (hs : execFwWrite h bd bytes s = .next s') : Only [.mbox] s s' := by
  simp only [execFwWrite, Host.Outcome.next.injEq] at hs
  subst hs
  simp [Only]
@[simp] theorem State.opFwConfirm_outside {ps : List Part} (h : Hdr) (s : State) (hMbox : Part.mbox ∈ ps) (hStore : Part.store ∈ ps) : (State.opFwConfirm h s).outside ps = s.outside ps := by
  unfold State.opFwConfirm
  split <;> simp [*]
theorem execFwConfirm_only (h : Hdr) (s : State) (s' : State) (hs : execFwConfirm h s = .next s') : Only [.mbox, .store] s s' := by
  simp only [execFwConfirm, Host.Outcome.next.injEq] at hs
  subst hs
  simp [Only]
@[simp] theorem State.opFwSramRun_outside {ps : List Part} (h : Hdr) (bd bytes : Nat) (s : State) (hMbox : Part.mbox ∈ ps) : (State.opFwSramRun h bd bytes s).outside ps = s.outside ps := by
  unfold State.opFwSramRun
  try dsimp only
  repeat' (first | with_reducible rfl | (simp [*]; done) | split)
theorem execFwSramRun_only (h : Hdr) (bd : Fin 8) (bytes : BitVec 32) (s : State) (s' : State) (hs : execFwSramRun h bd bytes s = .next s') : Only [.mbox] s s' := by
  simp only [execFwSramRun, Host.Outcome.next.injEq] at hs
  subst hs
  simp [Only]
@[simp] theorem State.opFwRevoke_outside {ps : List Part} (h : Hdr) (k : Nat) (s : State) (hMbox : Part.mbox ∈ ps) (hOtp : Part.otp ∈ ps) : (State.opFwRevoke h k s).outside ps = s.outside ps := by
  simp [State.opFwRevoke, *]
theorem execFwRevoke_only (h : Hdr) (k : Fin 4) (s : State) (s' : State) (hs : execFwRevoke h k s = .next s') : Only [.mbox, .otp] s s' := by
  simp only [execFwRevoke, Host.Outcome.next.injEq] at hs
  subst hs
  simp [Only]
@[simp] theorem State.streamDone_outside {ps : List Part} (st : Stream) (s : State) (hMbox : Part.mbox ∈ ps) (hPwr : Part.pwr ∈ ps) (hStore : Part.store ∈ ps) (hOtp : Part.otp ∈ ps) (hImg : Part.img ∈ ps) (hReg : Part.reg ∈ ps) : (State.streamDone st s).outside ps = s.outside ps := by
  simp [State.streamDone, *]
end Sys2Proof.Machine
end

