-- ==== Sys2Proof/Laws/FramePorts.lean ====
section
/-!
SUPPORT. Frames of the operations of Machine/Ports.lean: `X_outside` says which parts an operation can change, `X_only` the same of a
command's meaning.
-/
namespace Sys2Proof.Machine
theorem execPrefetchFill_only (n : BitVec 16) (s : State) (s' : State) (hs : execPrefetchFill n s = .next s') : Only [.mbox, .store, .flt, .mem, .hp, .reg] s s' := by
  unfold execPrefetchFill at hs
  repeat' split at hs
  all_goals (cases hs; simp [Only])
@[simp] theorem State.postPeriph_outside {ps : List Part} (s : State) (hTests : Part.tests ∈ ps) (hPer : Part.per ∈ ps) : (State.postPeriph s).outside ps = s.outside ps := by
  unfold State.postPeriph
  split <;> simp [*]
theorem execPeriphEntryDone_only (inp : List (BitVec 32)) (s : State) (s' : State) (hs : execPeriphEntryDone inp s = .next s') : Only [.tests, .per] s s' := by
  unfold execPeriphEntryDone at hs
  repeat' split at hs
  all_goals (cases hs; simp [Only])
/-- The last arm of EXT_PERIOD, its answer of the port apart. -/
theorem execExtPeriod_post (s t : State) (o : Option PerS) (x : Nat × Bool) (c : Nat)
  (hs : (match o with
    | none => (.next (s.modExt fun e => { e with skip := satAdd 32 1 e.skip }) : Host.Outcome State Fault Refusal)
    | some p =>
      let s := s.modPer fun _ => { p with gpio := setBit 3 (s.pv P.extSel) false }
      let s := s.modExt fun e => { e with code := c }
      .next (if x.2 then s.refEv 12 else s)) = .next t) : Only [.ref, .ext, .per] s t := by
  rcases o with _ | p
  · rw [← Host.Outcome.next.inj hs]; exact State.modExt_outside _ _ (by simp)
  · rw [← Host.Outcome.next.inj hs]
    unfold Only
    split <;> simp
theorem execExtPeriod_only (b : Int) (s s' : State) (hs : execExtPeriod b s = .next s') : Only [.ref, .ext, .per] s s' := by
  unfold execExtPeriod at hs
  by_cases h : !s.extActive ∨ s.pi P.extGain = 0
  · rw [if_pos h] at hs
    rw [← Host.Outcome.next.inj hs]; rfl
  · by_cases h2 : s.tests.any (·.kind = 5) ∨ s.per.q ≠ []
    · rw [if_neg h, if_pos h2] at hs
      rw [← Host.Outcome.next.inj hs]; exact State.modExt_outside _ _ (by simp)
    · rw [if_neg h, if_neg h2] at hs
      exact execExtPeriod_post s s' _ (s.extCode b) _ hs
end Sys2Proof.Machine
end

