-- ==== Sys2Proof/Laws/FramePatternTests.lean ====
section
/-!
SUPPORT. Frames of the operations of Machine/PatternTests.lean: `X_outside` says which parts an operation can change, `X_only` the same of a
command's meaning.
-/
namespace Sys2Proof.Machine
@[simp] theorem State.memTestFill_outside {ps : List Part} (pattern : Nat) (s : State) (hStore : Part.store ∈ ps) (hFlash : Part.flash ∈ ps) (hGw : Part.gw ∈ ps) : (State.memTestFill pattern s).outside ps = s.outside ps := by
  simp [State.memTestFill, *]
@[simp] theorem State.testBegin_outside {ps : List Part} (kind unit pattern secs : Nat) (s : State) (hChans : Part.chans ∈ ps) (hSrcs : Part.srcs ∈ ps) (hStore : Part.store ∈ ps) (hFlash : Part.flash ∈ ps) (hTests : Part.tests ∈ ps) (hPer : Part.per ∈ ps) (hGw : Part.gw ∈ ps) : (State.testBegin kind unit pattern secs s).outside ps = s.outside ps := by
  unfold State.testBegin
  split <;> simp [*]
@[simp] theorem State.opTestRun_outside {ps : List Part} (h : Hdr) (unit kind pattern secs : Nat) (s : State) (hChans : Part.chans ∈ ps) (hSrcs : Part.srcs ∈ ps) (hMbox : Part.mbox ∈ ps) (hStore : Part.store ∈ ps) (hFlash : Part.flash ∈ ps) (hTests : Part.tests ∈ ps) (hPer : Part.per ∈ ps) (hGw : Part.gw ∈ ps) : (State.opTestRun h unit kind pattern secs s).outside ps = s.outside ps := by
  unfold State.opTestRun
  split <;> simp [*]
theorem execTestRun_only (h : Hdr) (unit : BitVec 16) (kind : BitVec 4) (pattern : BitVec 8) (secs : BitVec 32) (s : State) (s' : State) (hs : execTestRun h unit kind pattern secs s = .next s') : Only [.chans, .srcs, .mbox, .store, .flash, .tests, .per, .gw] s s' := by
  simp only [execTestRun, Host.Outcome.next.injEq] at hs
  subst hs
  simp [Only]
@[simp] theorem State.testOver_outside {ps : List Part} (verdict : TestRun → Nat) (r : TestRun) (s : State) (hChans : Part.chans ∈ ps) (hOcts : Part.octs ∈ ps) (hDlls : Part.dlls ∈ ps) (hCores : Part.cores ∈ ps) (hSrcs : Part.srcs ∈ ps) (hDevq : Part.devq ∈ ps) (hRg : Part.rg ∈ ps) (hMbox : Part.mbox ∈ ps) (hPwr : Part.pwr ∈ ps) (hPar : Part.par ∈ ps) (hStore : Part.store ∈ ps) (hFlash : Part.flash ∈ ps) (hGrat : Part.grat ∈ ps) (hFlt : Part.flt ∈ ps) (hTests : Part.tests ∈ ps) (hCal : Part.cal ∈ ps) (hMem : Part.mem ∈ ps) (hGw : Part.gw ∈ ps) (hHp : Part.hp ∈ ps) (hReg : Part.reg ∈ ps) : (State.testOver verdict r s).outside ps = s.outside ps := by
  simp [State.testOver, *]
@[simp] theorem State.opTestStop_outside {ps : List Part} (h : Hdr) (unit : Nat) (ms : List (Fin 7 × BitVec 64 × BitVec 32)) (s : State) (hChans : Part.chans ∈ ps) (hOcts : Part.octs ∈ ps) (hDlls : Part.dlls ∈ ps) (hCores : Part.cores ∈ ps) (hSrcs : Part.srcs ∈ ps) (hDevq : Part.devq ∈ ps) (hRg : Part.rg ∈ ps) (hMbox : Part.mbox ∈ ps) (hPwr : Part.pwr ∈ ps) (hPar : Part.par ∈ ps) (hStore : Part.store ∈ ps) (hFlash : Part.flash ∈ ps) (hGrat : Part.grat ∈ ps) (hFlt : Part.flt ∈ ps) (hTests : Part.tests ∈ ps) (hCal : Part.cal ∈ ps) (hMem : Part.mem ∈ ps) (hGw : Part.gw ∈ ps) (hHp : Part.hp ∈ ps) (hReg : Part.reg ∈ ps) : (State.opTestStop h unit ms s).outside ps = s.outside ps := by
  simp [State.opTestStop, *]
theorem execTestStop_only (h : Hdr) (unit : BitVec 16) (ms : List (Fin 7 × BitVec 64 × BitVec 32)) (s : State) (s' : State) (hs : execTestStop h unit ms s = .next s') : Only [.chans, .octs, .dlls, .cores, .srcs, .devq, .rg, .mbox, .pwr, .par, .store, .flash, .grat, .flt, .tests, .cal, .mem, .gw, .hp, .reg] s s' := by
  simp only [execTestStop, Host.Outcome.next.injEq] at hs
  subst hs
  simp [Only]
@[simp] theorem State.modTest_outside {ps : List Part} (kind unit : Nat) (f : TestRun → TestRun) (s : State) (hTests : Part.tests ∈ ps) : (State.modTest kind unit f s).outside ps = s.outside ps := by
  simp [State.modTest, *]
theorem execTestDuration_only (kind : Fin 7) (unit : BitVec 16) (bits : BitVec 64) (errs : BitVec 32) (s : State) (s' : State) (hs : execTestDuration kind unit bits errs s = .next s') : Only [.chans, .octs, .dlls, .cores, .srcs, .devq, .rg, .mbox, .pwr, .par, .store, .flash, .grat, .flt, .tests, .cal, .mem, .gw, .hp, .reg] s s' := by
  unfold execTestDuration at hs
  repeat' split at hs
  all_goals (cases hs; simp [Only])
theorem execTestNoSync_only (kind : Fin 7) (unit : BitVec 16) (s : State) (s' : State) (hs : execTestNoSync kind unit s = .next s') : Only [.chans, .octs, .dlls, .cores, .srcs, .devq, .rg, .mbox, .pwr, .par, .store, .flash, .grat, .flt, .tests, .cal, .mem, .gw, .hp, .reg] s s' := by
  unfold execTestNoSync at hs
  repeat' split at hs
  all_goals (cases hs; simp [Only])
theorem execCheckerSync_only (kind : Fin 7) (unit : BitVec 16) (us : BitVec 16) (s : State) (s' : State) (hs : execCheckerSync kind unit us s = .next s') : Only [.tests] s s' := by
  simp only [execCheckerSync, Host.Outcome.next.injEq] at hs
  subst hs
  simp [Only]
theorem execCheckerSyncLoss_only (kind : Fin 7) (unit : BitVec 16) (bits : BitVec 64) (errs : BitVec 32) (s : State) (s' : State) (hs : execCheckerSyncLoss kind unit bits errs s = .next s') : Only [.chans, .tests] s s' := by
  simp only [execCheckerSyncLoss, Host.Outcome.next.injEq] at hs
  subst hs
  simp [Only]
@[simp] theorem State.opTestEye_outside {ps : List Part} (h : Hdr) (c bd : Nat) (s : State) (hMbox : Part.mbox ∈ ps) (hTests : Part.tests ∈ ps) : (State.opTestEye h c bd s).outside ps = s.outside ps := by
  unfold State.opTestEye
  try dsimp only
  repeat' (first | with_reducible rfl | (simp [*]; done) | split)
theorem execTestEye_only (h : Hdr) (c : Ch) (bd : Fin 8) (s : State) (s' : State) (hs : execTestEye h c bd s = .next s') : Only [.mbox, .tests] s s' := by
  simp only [execTestEye, Host.Outcome.next.injEq] at hs
  subst hs
  simp [Only]
theorem execEyeScanDone_only (c : Ch) (l : List (BitVec 32)) (s : State) (s' : State) (hs : execEyeScanDone c l s = .next s') : Only [.mbox, .tests] s s' := by
  unfold execEyeScanDone at hs
  try dsimp only at hs
  repeat' split at hs
  all_goals (cases hs; simp [Only])
end Sys2Proof.Machine
end

