-- ==== Sys2Proof/Laws/FrameCascade.lean ====
section
/-!
SUPPORT. Frames of the operations of Machine/Cascade.lean: `X_outside` says which parts an operation can change, `X_only` the same of a
command's meaning.
-/
namespace Sys2Proof.Machine
theorem execCascadeFrameSend_only (s : State) (s' : State) (hs : execCascadeFrameSend s = .next s') : Only [.cas] s s' := by
  unfold execCascadeFrameSend at hs
  repeat' split at hs
  all_goals (cases hs; simp [Only])
@[simp] theorem State.casLost_outside {ps : List Part} (s : State) (hTs : Part.ts ∈ ps) (hLatch : Part.latch ∈ ps) (hChans : Part.chans ∈ ps) (hDevq : Part.devq ∈ ps) (hRg : Part.rg ∈ ps) (hMbox : Part.mbox ∈ ps) (hPwr : Part.pwr ∈ ps) (hPar : Part.par ∈ ps) (hFlt : Part.flt ∈ ps) (hCas : Part.cas ∈ ps) (hGw : Part.gw ∈ ps) : (State.casLost s).outside ps = s.outside ps := by
  simp [State.casLost, *]
@[simp] theorem State.casGood_outside {ps : List Part} (f : CasFrame) (mark : Option Nat) (s : State) (hTs : Part.ts ∈ ps) (hDevq : Part.devq ∈ ps) (hRg : Part.rg ∈ ps) (hPar : Part.par ∈ ps) (hCas : Part.cas ∈ ps) (hGw : Part.gw ∈ ps) : (State.casGood f mark s).outside ps = s.outside ps := by
  unfold State.casGood
  try dsimp only
  repeat' (first | with_reducible rfl | (simp [*]; done) | split)
@[simp] theorem State.casFollow_outside {ps : List Part} (f : CasFrame) (s : State) (hTs : Part.ts ∈ ps) (hCas : Part.cas ∈ ps) : (State.casFollow f s).outside ps = s.outside ps := by
  unfold State.casFollow
  try dsimp only
  repeat' (first | with_reducible rfl | (simp [*]; done) | split)
@[simp] theorem State.casBad_outside {ps : List Part} (seq : Option Nat) (s : State) (hTs : Part.ts ∈ ps) (hLatch : Part.latch ∈ ps) (hChans : Part.chans ∈ ps) (hDevq : Part.devq ∈ ps) (hRg : Part.rg ∈ ps) (hMbox : Part.mbox ∈ ps) (hPwr : Part.pwr ∈ ps) (hPar : Part.par ∈ ps) (hFlt : Part.flt ∈ ps) (hCas : Part.cas ∈ ps) (hGw : Part.gw ∈ ps) : (State.casBad seq s).outside ps = s.outside ps := by
  unfold State.casBad
  try dsimp only
  split <;> simp [*]
theorem execCascadeFrame_only (valid : Bool) (f : CasFrame) (mark : BitVec 96) (s : State) (s' : State) (hs : execCascadeFrame valid f mark s = .next s') : Only [.ts, .latch, .chans, .devq, .rg, .mbox, .pwr, .par, .flt, .cas, .gw] s s' := by
  unfold execCascadeFrame at hs
  try dsimp only at hs
  repeat' split at hs
  all_goals (cases hs; simp [Only])
theorem execCascadeLinkLost_only (s : State) (s' : State) (hs : execCascadeLinkLost s = .next s') : Only [.ts, .latch, .chans, .devq, .rg, .mbox, .pwr, .par, .flt, .cas, .gw] s s' := by
  simp only [execCascadeLinkLost, Host.Outcome.next.injEq] at hs
  subst hs
  simp [Only]
theorem execCasTrainT_only (s : State) (s' : State) (hs : execCasTrainT s = .next s') : Only [.pps, .ts, .latch, .chans, .octs, .engs, .srcs, .devq, .rg, .mbox, .pwr, .par, .flt, .tests, .cas, .gw] s s' := by
  unfold execCasTrainT at hs
  repeat' split at hs
  all_goals (cases hs; simp [Only])
@[simp] theorem State.tapUpdate_outside {ps : List Part} (t : Tap) (s : State) (hRef : Part.ref ∈ ps) (hPps : Part.pps ∈ ps) (hExt : Part.ext ∈ ps) (hTs : Part.ts ∈ ps) (hLatch : Part.latch ∈ ps) (hChans : Part.chans ∈ ps) (hOcts : Part.octs ∈ ps) (hDlls : Part.dlls ∈ ps) (hEngs : Part.engs ∈ ps) (hArr : Part.arr ∈ ps) (hCores : Part.cores ∈ ps) (hSrcs : Part.srcs ∈ ps) (hDevq : Part.devq ∈ ps) (hIv : Part.iv ∈ ps) (hRing : Part.ring ∈ ps) (hRg : Part.rg ∈ ps) (hMbox : Part.mbox ∈ ps) (hPwr : Part.pwr ∈ ps) (hPar : Part.par ∈ ps) (hStore : Part.store ∈ ps) (hFlash : Part.flash ∈ ps) (hGrat : Part.grat ∈ ps) (hFlt : Part.flt ∈ ps) (hTests : Part.tests ∈ ps) (hCas : Part.cas ∈ ps) (hCal : Part.cal ∈ ps) (hOtp : Part.otp ∈ ps) (hImg : Part.img ∈ ps) (hMem : Part.mem ∈ ps) (hPer : Part.per ∈ ps) (hGw : Part.gw ∈ ps) (hHp : Part.hp ∈ ps) (hReg : Part.reg ∈ ps) (hTap : Part.tap ∈ ps) : (State.tapUpdate t s).outside ps = s.outside ps := by
  simp [State.tapUpdate, *]
theorem execJtagInstructionUpdate_only (t : Tap) (s : State) (s' : State) (hs : execJtagInstructionUpdate t s = .next s') : Only [.ref, .pps, .ext, .ts, .latch, .chans, .octs, .dlls, .engs, .arr, .cores, .srcs, .devq, .iv, .ring, .rg, .mbox, .pwr, .par, .store, .flash, .grat, .flt, .tests, .cas, .cal, .otp, .img, .mem, .per, .gw, .hp, .reg, .tap] s s' := by
  simp only [execJtagInstructionUpdate, Host.Outcome.next.injEq] at hs
  subst hs
  simp [Only]
theorem execTestLogicReset_only (s : State) (s' : State) (hs : execTestLogicReset s = .next s') : Only [.ref, .pps, .ext, .ts, .latch, .chans, .octs, .dlls, .engs, .arr, .cores, .srcs, .devq, .iv, .ring, .rg, .mbox, .pwr, .par, .store, .flash, .grat, .flt, .tests, .cas, .cal, .otp, .img, .mem, .per, .gw, .hp, .reg, .tap] s s' := by
  simp only [execTestLogicReset, Host.Outcome.next.injEq] at hs
  subst hs
  simp [Only]
theorem execFirmwareHeartbeat_only (s : State) (s' : State) (hs : execFirmwareHeartbeat s = .next s') : Only [.reg] s s' := by
  unfold execFirmwareHeartbeat at hs
  repeat' split at hs
  all_goals (cases hs; simp [Only])
end Sys2Proof.Machine
end

