-- ==== Sys2Proof/Laws/FrameDoors.lean ====
section
/-!
SUPPORT. Frames of the operations of Machine/Doors.lean: `X_outside` says which parts an operation can change, `X_only` the same of a
command's meaning.
-/
namespace Sys2Proof.Machine
@[simp] theorem State.opBulkClose_outside {ps : List Part} (h : Hdr) (bd : Nat) (s : State) (hMbox : Part.mbox ∈ ps) : (State.opBulkClose h bd s).outside ps = s.outside ps := by
  simp [State.opBulkClose, *]
theorem execBulkClose_only (h : Hdr) (bd : Fin 8) (s : State) (s' : State) (hs : execBulkClose h bd s = .next s') : Only [.mbox] s s' := by
  simp only [execBulkClose, Host.Outcome.next.injEq] at hs
  subst hs
  simp [Only]
theorem chArg_some {p : Nat} {f : Ch → State → State} {g : State → State} (h : chArg p f = some g) : ∃ c, g = f c := by
  unfold chArg at h
  split at h
  · injection h with h; exact ⟨_, h.symm⟩
  · contradiction
theorem cmdOp_outside {ps : List Part} {h : Hdr} {cmd p : Nat} {w : Nat → Nat} {m : Meas} {f : State → State} (hf : cmdOp h cmd p w m = some f)
    (hRef : Part.ref ∈ ps) (hPps : Part.pps ∈ ps) (hExt : Part.ext ∈ ps) (hTs : Part.ts ∈ ps) (hLatch : Part.latch ∈ ps) (hChans : Part.chans ∈ ps) (hOcts : Part.octs ∈ ps) (hDlls : Part.dlls ∈ ps) (hEngs : Part.engs ∈ ps) (hArr : Part.arr ∈ ps) (hCores : Part.cores ∈ ps) (hSrcs : Part.srcs ∈ ps) (hDevq : Part.devq ∈ ps) (hIv : Part.iv ∈ ps) (hRing : Part.ring ∈ ps) (hRg : Part.rg ∈ ps) (hMbox : Part.mbox ∈ ps) (hPwr : Part.pwr ∈ ps) (hPar : Part.par ∈ ps) (hStore : Part.store ∈ ps) (hFlash : Part.flash ∈ ps) (hGrat : Part.grat ∈ ps) (hFlt : Part.flt ∈ ps) (hTests : Part.tests ∈ ps) (hCas : Part.cas ∈ ps) (hCal : Part.cal ∈ ps) (hOtp : Part.otp ∈ ps) (hImg : Part.img ∈ ps) (hMem : Part.mem ∈ ps) (hPer : Part.per ∈ ps) (hGw : Part.gw ∈ ps) (hHp : Part.hp ∈ ps) (hReg : Part.reg ∈ ps) (s : State) :
    (f s).outside ps = s.outside ps := by
  unfold cmdOp at hf
  dsimp only at hf
  repeat' split at hf
  all_goals first
    | contradiction
    | (injection hf with hf; subst hf; simp [*]; done)
    | (obtain ⟨c, rfl⟩ := chArg_some hf; simp [*]; done)
    | (obtain ⟨x, hx, rfl⟩ := Option.map_eq_some_iff.mp hf; simp [*]; done)
theorem State.msgOp_outside {ps : List Part} {s : State} {h : Hdr} {cmd len flags p : Nat} {w : Nat → Nat} {m : Meas} {f : State → State}
    (hf : s.msgOp h cmd len flags p w m = .ok f) (hRef : Part.ref ∈ ps) (hPps : Part.pps ∈ ps) (hExt : Part.ext ∈ ps) (hTs : Part.ts ∈ ps) (hLatch : Part.latch ∈ ps) (hChans : Part.chans ∈ ps) (hOcts : Part.octs ∈ ps) (hDlls : Part.dlls ∈ ps) (hEngs : Part.engs ∈ ps) (hArr : Part.arr ∈ ps) (hCores : Part.cores ∈ ps) (hSrcs : Part.srcs ∈ ps) (hDevq : Part.devq ∈ ps) (hIv : Part.iv ∈ ps) (hRing : Part.ring ∈ ps) (hRg : Part.rg ∈ ps) (hMbox : Part.mbox ∈ ps) (hPwr : Part.pwr ∈ ps) (hPar : Part.par ∈ ps) (hStore : Part.store ∈ ps) (hFlash : Part.flash ∈ ps) (hGrat : Part.grat ∈ ps) (hFlt : Part.flt ∈ ps) (hTests : Part.tests ∈ ps) (hCas : Part.cas ∈ ps) (hCal : Part.cal ∈ ps) (hOtp : Part.otp ∈ ps) (hImg : Part.img ∈ ps) (hMem : Part.mem ∈ ps) (hPer : Part.per ∈ ps) (hGw : Part.gw ∈ ps) (hHp : Part.hp ∈ ps) (hReg : Part.reg ∈ ps)
    (t : State) : (f t).outside ps = t.outside ps := by
  unfold State.msgOp at hf
  repeat' split at hf
  all_goals first
    | contradiction
    | (rename_i hc; injection hf with hf; subst hf; exact cmdOp_outside hc hRef hPps hExt hTs hLatch hChans hOcts hDlls hEngs hArr hCores hSrcs hDevq hIv hRing hRg hMbox hPwr hPar hStore hFlash hGrat hFlt hTests hCas hCal hOtp hImg hMem hPer hGw hHp hReg t)
@[simp] theorem State.takeMsg_outside {ps : List Part} (d : Fin 8) (m : Meas) (s : State) (hRef : Part.ref ∈ ps) (hPps : Part.pps ∈ ps) (hExt : Part.ext ∈ ps) (hTs : Part.ts ∈ ps) (hLatch : Part.latch ∈ ps) (hChans : Part.chans ∈ ps) (hOcts : Part.octs ∈ ps) (hDlls : Part.dlls ∈ ps) (hEngs : Part.engs ∈ ps) (hArr : Part.arr ∈ ps) (hCores : Part.cores ∈ ps) (hSrcs : Part.srcs ∈ ps) (hDevq : Part.devq ∈ ps) (hIv : Part.iv ∈ ps) (hRing : Part.ring ∈ ps) (hRg : Part.rg ∈ ps) (hMbox : Part.mbox ∈ ps) (hPwr : Part.pwr ∈ ps) (hPar : Part.par ∈ ps) (hStore : Part.store ∈ ps) (hFlash : Part.flash ∈ ps) (hGrat : Part.grat ∈ ps) (hFlt : Part.flt ∈ ps) (hTests : Part.tests ∈ ps) (hCas : Part.cas ∈ ps) (hCal : Part.cal ∈ ps) (hOtp : Part.otp ∈ ps) (hImg : Part.img ∈ ps) (hMem : Part.mem ∈ ps) (hPer : Part.per ∈ ps) (hGw : Part.gw ∈ ps) (hHp : Part.hp ∈ ps) (hReg : Part.reg ∈ ps) : (State.takeMsg d m s).outside ps = s.outside ps := by
  unfold State.takeMsg
  dsimp only
  split
  · rename_i hf
    rw [State.msgOp_outside hf hRef hPps hExt hTs hLatch hChans hOcts hDlls hEngs hArr hCores hSrcs hDevq hIv hRing hRg hMbox hPwr hPar hStore hFlash hGrat hFlt hTests hCas hCal hOtp hImg hMem hPer hGw hHp hReg]
    simp [*]
  · simp [*]
@[simp] theorem State.ringBulk_outside {ps : List Part} (d : Nat) (s : State) (hMbox : Part.mbox ∈ ps) (hPwr : Part.pwr ∈ ps) (hStore : Part.store ∈ ps) (hOtp : Part.otp ∈ ps) (hImg : Part.img ∈ ps) (hReg : Part.reg ∈ ps) : (State.ringBulk d s).outside ps = s.outside ps := by
  unfold State.ringBulk
  split <;> simp [*]
@[simp] theorem State.ringEvent_outside {ps : List Part} (s : State) (hMbox : Part.mbox ∈ ps) : (State.ringEvent s).outside ps = s.outside ps := by
  simp [State.ringEvent, *]
@[simp] theorem State.ringDoor_outside {ps : List Part} (d : Fin 8) (m : Meas) (s : State) (hRef : Part.ref ∈ ps) (hPps : Part.pps ∈ ps) (hExt : Part.ext ∈ ps) (hTs : Part.ts ∈ ps) (hLatch : Part.latch ∈ ps) (hChans : Part.chans ∈ ps) (hOcts : Part.octs ∈ ps) (hDlls : Part.dlls ∈ ps) (hEngs : Part.engs ∈ ps) (hArr : Part.arr ∈ ps) (hCores : Part.cores ∈ ps) (hSrcs : Part.srcs ∈ ps) (hDevq : Part.devq ∈ ps) (hIv : Part.iv ∈ ps) (hRing : Part.ring ∈ ps) (hRg : Part.rg ∈ ps) (hMbox : Part.mbox ∈ ps) (hPwr : Part.pwr ∈ ps) (hPar : Part.par ∈ ps) (hStore : Part.store ∈ ps) (hFlash : Part.flash ∈ ps) (hGrat : Part.grat ∈ ps) (hFlt : Part.flt ∈ ps) (hTests : Part.tests ∈ ps) (hCas : Part.cas ∈ ps) (hCal : Part.cal ∈ ps) (hOtp : Part.otp ∈ ps) (hImg : Part.img ∈ ps) (hMem : Part.mem ∈ ps) (hPer : Part.per ∈ ps) (hGw : Part.gw ∈ ps) (hHp : Part.hp ∈ ps) (hReg : Part.reg ∈ ps) : (State.ringDoor d m s).outside ps = s.outside ps := by
  simp [State.ringDoor, *]
theorem execEventDoorReturn_only (s : State) (s' : State) (hs : execEventDoorReturn s = .next s') : Only [.mbox] s s' := by
  simp only [execEventDoorReturn, Host.Outcome.next.injEq] at hs
  subst hs
  simp [Only]
theorem execEvtLost_only (s : State) (s' : State) (hs : execEvtLost s = .next s') : Only [.mbox] s s' := by
  unfold execEvtLost at hs
  repeat' split at hs
  all_goals (cases hs; simp [Only])
theorem execBulkBlockRing_only (five : Bool) (s : State) (s' : State) (hs : execBulkBlockRing five s = .next s') : Only [.mbox, .pwr, .store, .otp, .img, .reg] s s' := by
  unfold execBulkBlockRing at hs
  try dsimp only at hs
  repeat' split at hs
  all_goals (cases hs; simp [Only])
theorem execStreamIdleTimeout_only (five : Bool) (s : State) (s' : State) (hs : execStreamIdleTimeout five s = .next s') : Only [.mbox] s s' := by
  unfold execStreamIdleTimeout at hs
  try dsimp only at hs
  repeat' split at hs
  all_goals (cases hs; simp [Only])
end Sys2Proof.Machine
end

