-- ==== Sys2Proof/Laws/FrameRegisters.lean ====
section
/-!
SUPPORT. Frames of the operations of Machine/Registers.lean: `X_outside` says which parts an operation can change, `X_only` the same of a
command's meaning.
-/
namespace Sys2Proof.Machine
@[simp] theorem State.indRead_outside {ps : List Part} (s : State) (hMbox : Part.mbox ∈ ps) (hStore : Part.store ∈ ps) (hFlt : Part.flt ∈ ps) (hMem : Part.mem ∈ ps) (hReg : Part.reg ∈ ps) : (State.indRead s).2.2.outside ps = s.outside ps := by
  have hf (a i : Nat) : (State.indRead.fresh s a i).2.2.outside ps = s.outside ps := by
    simp [State.indRead.fresh, *]
  unfold State.indRead
  dsimp only
  split
  · split
    · simp [*]
    · exact hf _ _
  · exact hf _ _
@[simp] theorem State.indWrite_outside {ps : List Part} (w : Nat) (s : State) (hReg : Part.reg ∈ ps) : (State.indWrite w s).outside ps = s.outside ps := by
  simp [State.indWrite, *]
@[simp] theorem State.modRs_outside {ps : List Part} (c : Nat) (f : RsReg → RsReg) (s : State) (hRef : Part.ref ∈ ps) (hTs : Part.ts ∈ ps) (hOcts : Part.octs ∈ ps) (hPwr : Part.pwr ∈ ps) (hReg : Part.reg ∈ ps) : (State.modRs c f s).outside ps = s.outside ps := by
  simp [State.modRs, *]
@[simp] theorem State.regRead_outside {ps : List Part} (m : Master) (a : Nat) (s : State) (hRef : Part.ref ∈ ps) (hTs : Part.ts ∈ ps) (hOcts : Part.octs ∈ ps) (hMbox : Part.mbox ∈ ps) (hPwr : Part.pwr ∈ ps) (hStore : Part.store ∈ ps) (hFlt : Part.flt ∈ ps) (hMem : Part.mem ∈ ps) (hReg : Part.reg ∈ ps) : (State.regRead m a s).st.outside ps = s.outside ps := by
  unfold State.regRead
  dsimp only
  repeat' split
  all_goals simp [*]
@[simp] theorem State.keyWrite_outside {ps : List Part} (w : Nat) (s : State) (hReg : Part.reg ∈ ps) : (State.keyWrite w s).2.outside ps = s.outside ps := by
  unfold State.keyWrite
  try dsimp only
  repeat' (first | with_reducible rfl | (simp [*]; done) | split)
@[simp] theorem State.guarded_outside {ps : List Part} (m : Master) (f : State → WrSt × State) (s : State) (hReg : Part.reg ∈ ps) (h_f : ∀ s, (f s).2.outside ps = s.outside ps) : (State.guarded m f s).2.outside ps = s.outside ps := by
  unfold State.guarded
  try dsimp only
  repeat' (first | with_reducible rfl | (simp [*]; done) | split)
@[simp] theorem State.woViol_outside {ps : List Part} (c : Nat) (s : State) (hReg : Part.reg ∈ ps) : (State.woViol c s).2.outside ps = s.outside ps := by
  simp [State.woViol, *]
@[simp] theorem State.otpWrite_outside {ps : List Part} (node : Bool) (v : Nat) (s : State) (hOtp : Part.otp ∈ ps) (hReg : Part.reg ∈ ps) : (State.otpWrite node v s).2.outside ps = s.outside ps := by
  unfold State.otpWrite
  try dsimp only
  repeat' (first | with_reducible rfl | (simp [*]; done) | split)
@[simp] theorem State.lanesWrite_outside {ps : List Part} (w : Nat) (s : State) (hHp : Part.hp ∈ ps) (hReg : Part.reg ∈ ps) : (State.lanesWrite w s).2.outside ps = s.outside ps := by
  unfold State.lanesWrite
  try dsimp only
  repeat' (first | with_reducible rfl | (simp [*]; done) | split)
@[simp] theorem State.setRc_outside {ps : List Part} (c w : Nat) (s : State) (hPps : Part.pps ∈ ps) (hExt : Part.ext ∈ ps) (hChans : Part.chans ∈ ps) (hOcts : Part.octs ∈ ps) (hDevq : Part.devq ∈ ps) (hPwr : Part.pwr ∈ ps) (hStore : Part.store ∈ ps) (hHp : Part.hp ∈ ps) (hReg : Part.reg ∈ ps) : (State.setRc c w s).outside ps = s.outside ps := by
  unfold State.setRc
  try dsimp only
  repeat' (first | with_reducible rfl | (simp [*]; done) | split)
@[simp] theorem State.snap_outside {ps : List Part} (s : State) (hLatch : Part.latch ∈ ps) : (State.snap s).outside ps = s.outside ps := by
  simp [State.snap, *]
@[simp] theorem State.doorWrite_outside {ps : List Part} (n w : Nat) (me : Meas) (s : State) (hRef : Part.ref ∈ ps) (hPps : Part.pps ∈ ps) (hExt : Part.ext ∈ ps) (hTs : Part.ts ∈ ps) (hLatch : Part.latch ∈ ps) (hChans : Part.chans ∈ ps) (hOcts : Part.octs ∈ ps) (hDlls : Part.dlls ∈ ps) (hEngs : Part.engs ∈ ps) (hArr : Part.arr ∈ ps) (hCores : Part.cores ∈ ps) (hSrcs : Part.srcs ∈ ps) (hDevq : Part.devq ∈ ps) (hIv : Part.iv ∈ ps) (hRing : Part.ring ∈ ps) (hRg : Part.rg ∈ ps) (hMbox : Part.mbox ∈ ps) (hPwr : Part.pwr ∈ ps) (hPar : Part.par ∈ ps) (hStore : Part.store ∈ ps) (hFlash : Part.flash ∈ ps) (hGrat : Part.grat ∈ ps) (hFlt : Part.flt ∈ ps) (hTests : Part.tests ∈ ps) (hCas : Part.cas ∈ ps) (hCal : Part.cal ∈ ps) (hOtp : Part.otp ∈ ps) (hImg : Part.img ∈ ps) (hMem : Part.mem ∈ ps) (hPer : Part.per ∈ ps) (hGw : Part.gw ∈ ps) (hHp : Part.hp ∈ ps) (hReg : Part.reg ∈ ps) : (State.doorWrite n w me s).outside ps = s.outside ps := by
  simp [State.doorWrite, *]
@[simp] theorem State.putReg_outside {ps : List Part} (m : Master) (c w : Nat) (me : Meas) (s : State) (hRef : Part.ref ∈ ps) (hPps : Part.pps ∈ ps) (hExt : Part.ext ∈ ps) (hTs : Part.ts ∈ ps) (hLatch : Part.latch ∈ ps) (hChans : Part.chans ∈ ps) (hOcts : Part.octs ∈ ps) (hDlls : Part.dlls ∈ ps) (hEngs : Part.engs ∈ ps) (hArr : Part.arr ∈ ps) (hCores : Part.cores ∈ ps) (hSrcs : Part.srcs ∈ ps) (hDevq : Part.devq ∈ ps) (hIv : Part.iv ∈ ps) (hRing : Part.ring ∈ ps) (hRg : Part.rg ∈ ps) (hMbox : Part.mbox ∈ ps) (hPwr : Part.pwr ∈ ps) (hPar : Part.par ∈ ps) (hStore : Part.store ∈ ps) (hFlash : Part.flash ∈ ps) (hGrat : Part.grat ∈ ps) (hFlt : Part.flt ∈ ps) (hTests : Part.tests ∈ ps) (hCas : Part.cas ∈ ps) (hCal : Part.cal ∈ ps) (hOtp : Part.otp ∈ ps) (hImg : Part.img ∈ ps) (hMem : Part.mem ∈ ps) (hPer : Part.per ∈ ps) (hGw : Part.gw ∈ ps) (hHp : Part.hp ∈ ps) (hReg : Part.reg ∈ ps) : (State.putReg m c w me s).2.outside ps = s.outside ps := by
  unfold State.putReg
  try dsimp only
  repeat' (first | with_reducible rfl | (simp [*]; done) | split)
set_option maxRecDepth 8000 in
@[simp] theorem State.bitWrite_outside {ps : List Part} (m : Master) (c b : Nat) (d : Bool) (me : Meas) (s : State) (hRef : Part.ref ∈ ps) (hPps : Part.pps ∈ ps) (hExt : Part.ext ∈ ps) (hTs : Part.ts ∈ ps) (hLatch : Part.latch ∈ ps) (hChans : Part.chans ∈ ps) (hOcts : Part.octs ∈ ps) (hDlls : Part.dlls ∈ ps) (hEngs : Part.engs ∈ ps) (hArr : Part.arr ∈ ps) (hCores : Part.cores ∈ ps) (hSrcs : Part.srcs ∈ ps) (hDevq : Part.devq ∈ ps) (hIv : Part.iv ∈ ps) (hRing : Part.ring ∈ ps) (hRg : Part.rg ∈ ps) (hMbox : Part.mbox ∈ ps) (hPwr : Part.pwr ∈ ps) (hPar : Part.par ∈ ps) (hStore : Part.store ∈ ps) (hFlash : Part.flash ∈ ps) (hGrat : Part.grat ∈ ps) (hFlt : Part.flt ∈ ps) (hTests : Part.tests ∈ ps) (hCas : Part.cas ∈ ps) (hCal : Part.cal ∈ ps) (hOtp : Part.otp ∈ ps) (hImg : Part.img ∈ ps) (hMem : Part.mem ∈ ps) (hPer : Part.per ∈ ps) (hGw : Part.gw ∈ ps) (hHp : Part.hp ∈ ps) (hReg : Part.reg ∈ ps) : (State.bitWrite m c b d me s).2.outside ps = s.outside ps := by
  unfold State.bitWrite
  try dsimp only
  repeat' (first | with_reducible rfl | (simp [*]; done) | split)
@[simp] theorem State.regWrite_outside {ps : List Part} (m : Master) (a w : Nat) (me : Meas) (s : State) (hRef : Part.ref ∈ ps) (hPps : Part.pps ∈ ps) (hExt : Part.ext ∈ ps) (hTs : Part.ts ∈ ps) (hLatch : Part.latch ∈ ps) (hChans : Part.chans ∈ ps) (hOcts : Part.octs ∈ ps) (hDlls : Part.dlls ∈ ps) (hEngs : Part.engs ∈ ps) (hArr : Part.arr ∈ ps) (hCores : Part.cores ∈ ps) (hSrcs : Part.srcs ∈ ps) (hDevq : Part.devq ∈ ps) (hIv : Part.iv ∈ ps) (hRing : Part.ring ∈ ps) (hRg : Part.rg ∈ ps) (hMbox : Part.mbox ∈ ps) (hPwr : Part.pwr ∈ ps) (hPar : Part.par ∈ ps) (hStore : Part.store ∈ ps) (hFlash : Part.flash ∈ ps) (hGrat : Part.grat ∈ ps) (hFlt : Part.flt ∈ ps) (hTests : Part.tests ∈ ps) (hCas : Part.cas ∈ ps) (hCal : Part.cal ∈ ps) (hOtp : Part.otp ∈ ps) (hImg : Part.img ∈ ps) (hMem : Part.mem ∈ ps) (hPer : Part.per ∈ ps) (hGw : Part.gw ∈ ps) (hHp : Part.hp ∈ ps) (hReg : Part.reg ∈ ps) : (State.regWrite m a w me s).2.outside ps = s.outside ps := by
  unfold State.regWrite
  try dsimp only
  repeat' (first | with_reducible rfl | (simp [*]; done) | split)
@[simp] theorem State.accessIf_outside {ps : List Part} (p : Bool) (f : State → State) (s : State) (h_f : ∀ s, (f s).outside ps = s.outside ps) : (State.accessIf p f s).outside ps = s.outside ps := by
  simp [State.accessIf, *]
theorem execKeyWrite_only (w : W32) (s : State) (s' : State) (hs : execKeyWrite w s = .next s') : Only [.reg] s s' := by
  simp only [execKeyWrite, Host.Outcome.next.injEq] at hs
  subst hs
  simp [Only]
theorem execLockoutEnd_only (s : State) (s' : State) (hs : execLockoutEnd s = .next s') : Only [.reg] s s' := by
  unfold execLockoutEnd at hs
  repeat' split at hs
  all_goals (cases hs; simp [Only])
theorem execGuardedWrite_only (a : BitVec 15) (w : W32) (me : Meas) (s : State) (s' : State) (hs : execGuardedWrite a w me s = .next s') : Only [.ref, .pps, .ext, .ts, .latch, .chans, .octs, .dlls, .engs, .arr, .cores, .srcs, .devq, .iv, .ring, .rg, .mbox, .pwr, .par, .store, .flash, .grat, .flt, .tests, .cas, .cal, .otp, .img, .mem, .per, .gw, .hp, .reg] s s' := by
  simp only [execGuardedWrite, Host.Outcome.next.injEq] at hs
  subst hs
  simp [Only]
theorem execRsClear_only (m : Master) (a : BitVec 15) (w : W32) (s : State) (s' : State) (hs : execRsClear m a w s = .next s') : Only [.ref, .ts, .octs, .pwr, .reg] s s' := by
  simp only [execRsClear, Host.Outcome.next.injEq] at hs
  subst hs
  simp [Only]
theorem execRsRead_only (m : Master) (a : BitVec 15) (s s' : State) (hs : execRsRead m a s = .next s') : Only [.ref, .ts, .octs, .pwr, .reg] s s' := by
  simp only [execRsRead, Host.Outcome.next.injEq] at hs
  subst hs
  have ha : ¬ (0x8000 ≤ a.toNat) := by omega
  unfold Only State.accessIf
  split
  · rename_i hc
    obtain ⟨hc, -⟩ := hc
    have : canon a.toNat ≠ 0x141 := by intro h; rw [h] at hc; simp [isRs] at hc
    simp [State.regRead, ha, this, hc]
  · rfl
theorem execRcWrite_only (a : BitVec 15) (w : W32) (s : State) (s' : State) (hs : execRcWrite a w s = .next s') : Only [.pps, .ext, .chans, .octs, .devq, .pwr, .store, .hp, .reg] s s' := by
  simp only [execRcWrite, Host.Outcome.next.injEq] at hs
  subst hs
  simp [Only]
/-- An address of a multi-word value is none of the other kinds. -/
theorem multiOf_plain {c : Nat} (h : (multiOf c).isSome) :
    isRs c = false ∧ isRc c = false ∧ ¬ 0x300 ≤ c ∧ ¬ (0x080 ≤ c ∧ c < 0x088) ∧ c ≠ 0x141 := by
  have h1 : c ∈ [0x003, 0x004, 0x008, 0x009, 0x00E, 0x00F, 0x104, 0x105, 0x106, 0x107] ∨ (0x180 ≤ c ∧ c < 0x200) := by
    simp only [multiOf] at h
    repeat' split at h
    all_goals (simp at h; try simp; try omega)
  rcases h1 with h1 | h1
  · simp at h1
    rcases h1 with rfl | rfl | rfl | rfl | rfl | rfl | rfl | rfl | rfl | rfl <;> decide
  · refine ⟨?_, ?_, by omega, by omega, by omega⟩
    · simp [isRs]; omega
    · simp [isRc]; omega
theorem execMultiwordLowRead_only (m : Master) (a : BitVec 15) (s s' : State) (hs : execMultiwordLowRead m a s = .next s') : Only [.reg] s s' := by
  simp only [execMultiwordLowRead, Host.Outcome.next.injEq] at hs
  subst hs
  have ha : ¬ (0x8000 ≤ a.toNat) := by omega
  unfold Only State.accessIf
  split
  · rename_i hc
    obtain ⟨hc, -⟩ := hc
    generalize hq : canon a.toNat = c at *
    have hm : (multiOf c).isSome := by cases h : multiOf c <;> simp_all
    obtain ⟨h1, -, -, -, h2⟩ := multiOf_plain hm
    simp only [State.regRead, ha, if_false, hq, h1, h2]
    obtain ⟨x, hx⟩ := Option.isSome_iff_exists.mp hm
    simp [hx]
    split <;> simp
  · rfl
theorem execMultiwordWrite_only (m : Master) (a : BitVec 15) (w : W32) (s s' : State) (hs : execMultiwordWrite m a w s = .next s') : Only [.otp, .reg] s s' := by
  simp only [execMultiwordWrite, Host.Outcome.next.injEq] at hs
  subst hs
  have ha : ¬ (0x8000 ≤ a.toNat) := by omega
  unfold Only State.accessIf
  split
  · rename_i hc
    obtain ⟨hm, -⟩ := hc
    simp only [State.regWrite, ha, if_false]
    generalize canon a.toNat = c at *
    obtain ⟨h1, h2, h3, h4, -⟩ := multiOf_plain hm
    obtain ⟨⟨b, n⟩, hx⟩ := Option.isSome_iff_exists.mp hm
    have hp (s : State) : (s.putReg m c w.toNat measNone).2.outside [.otp, .reg] = s.outside [.otp, .reg] := by
      simp only [State.putReg, h1, h2, h3, h4, hx]
      simp
      split
      · simp
      · split <;> simp
    split
    · exact State.guarded_outside m _ s (by simp) hp
    · exact hp s
  · rfl
theorem execWo1Write_only (m : Master) (a : BitVec 15) (w : W32) (s s' : State) (hs : execWo1Write m a w s = .next s') : Only [.otp, .hp, .reg] s s' := by
  simp only [execWo1Write, Host.Outcome.next.injEq] at hs
  subst hs
  have ha : ¬ (0x8000 ≤ a.toNat) := by omega
  unfold Only State.accessIf
  split
  · rename_i hc
    obtain ⟨hc, -⟩ := hc
    simp only [State.regWrite, ha, if_false]
    simp at hc
    obtain (h | h) | h := hc <;> simp [h, isGuarded, State.putReg, isRs, isRc, multiOf]
  · rfl
theorem execHpLanesWrite_only (w : W32) (s : State) (s' : State) (hs : execHpLanesWrite w s = .next s') : Only [.hp, .reg] s s' := by
  simp only [execHpLanesWrite, Host.Outcome.next.injEq] at hs
  subst hs
  simp [Only]
theorem execOtpFieldWrite_only (node : Bool) (w : W32) (s s' : State) (hs : execOtpFieldWrite node w s = .next s') : Only [.otp, .reg] s s' := by
  simp only [execOtpFieldWrite, Host.Outcome.next.injEq] at hs
  subst hs
  unfold Only State.accessIf
  cases node <;> simp [State.regWrite, canon, isGuarded, State.putReg, isRs, isRc, multiOf]
theorem execBitAliasWrite_only (m : Master) (a : BitVec 10) (b : Fin 32) (d : Bool) (me : Meas) (s : State) (s' : State) (hs : execBitAliasWrite m a b d me s = .next s') : Only [.ref, .pps, .ext, .ts, .latch, .chans, .octs, .dlls, .engs, .arr, .cores, .srcs, .devq, .iv, .ring, .rg, .mbox, .pwr, .par, .store, .flash, .grat, .flt, .tests, .cas, .cal, .otp, .img, .mem, .per, .gw, .hp, .reg] s s' := by
  simp only [execBitAliasWrite, Host.Outcome.next.injEq] at hs
  subst hs
  simp [Only]
theorem execIndDataRead_only (s : State) (s' : State) (hs : execIndDataRead s = .next s') : Only [.mbox, .store, .flt, .mem, .reg] s s' := by
  simp only [execIndDataRead, Host.Outcome.next.injEq] at hs
  subst hs
  simp [Only]
theorem execIndDataWrite_only (w : W32) (s : State) (s' : State) (hs : execIndDataWrite w s = .next s') : Only [.reg] s s' := by
  simp only [execIndDataWrite, Host.Outcome.next.injEq] at hs
  subst hs
  simp [Only]
theorem execIndAddrWrite_only (ctl : Bool) (w : W32) (s s' : State) (hs : execIndAddrWrite ctl w s = .next s') : Only [.reg] s s' := by
  simp only [execIndAddrWrite, Host.Outcome.next.injEq] at hs
  subst hs
  unfold Only State.accessIf
  cases ctl <;> simp [State.putReg, isRs, isRc, multiOf]
theorem execSnap_only (s : State) (s' : State) (hs : execSnap s = .next s') : Only [.latch] s s' := by
  simp only [execSnap, Host.Outcome.next.injEq] at hs
  subst hs
  simp [Only]
theorem execLatchUpdate_only (s : State) (s' : State) (hs : execLatchUpdate s = .next s') : Only [.latch, .devq] s s' := by
  unfold execLatchUpdate at hs
  repeat' split at hs
  all_goals (cases hs; simp [Only])
theorem execRegisterWrite_only (m : Master) (a : BitVec 15) (w : W32) (me : Meas) (s : State) (s' : State) (hs : execRegisterWrite m a w me s = .next s') : Only [.ref, .pps, .ext, .ts, .latch, .chans, .octs, .dlls, .engs, .arr, .cores, .srcs, .devq, .iv, .ring, .rg, .mbox, .pwr, .par, .store, .flash, .grat, .flt, .tests, .cas, .cal, .otp, .img, .mem, .per, .gw, .hp, .reg] s s' := by
  simp only [execRegisterWrite, Host.Outcome.next.injEq] at hs
  subst hs
  simp [Only]
theorem execRing_only (d : Fin 8) (me : Meas) (s : State) (s' : State) (hs : execRing d me s = .next s') : Only [.ref, .pps, .ext, .ts, .latch, .chans, .octs, .dlls, .engs, .arr, .cores, .srcs, .devq, .iv, .ring, .rg, .mbox, .pwr, .par, .store, .flash, .grat, .flt, .tests, .cas, .cal, .otp, .img, .mem, .per, .gw, .hp, .reg] s s' := by
  simp only [execRing, Host.Outcome.next.injEq] at hs
  subst hs
  simp [Only]
end Sys2Proof.Machine
end

