-- ==== Sys2Proof/Laws/FrameHostPort.lean ====
section
/-!
SUPPORT. Frames of the operations of Machine/HostPort.lean: `X_outside` says which parts an operation can change, `X_only` the same of a
command's meaning.
-/
namespace Sys2Proof.Machine
@[simp] theorem HpRead.hold_outside {ps : List Part} (a : Nat) (r : HpRead) (hReg : Part.reg ∈ ps) : (r.hold a).st.outside ps = r.st.outside ps := by
  unfold HpRead.hold
  split
  · rfl
  · simp [*]
@[simp] theorem State.indBurst_outside {ps : List Part} (n : Nat) (s : State) (hMbox : Part.mbox ∈ ps) (hStore : Part.store ∈ ps)
    (hFlt : Part.flt ∈ ps) (hMem : Part.mem ∈ ps) (hReg : Part.reg ∈ ps) : (State.indBurst n s).2.2.outside ps = s.outside ps := by
  induction n generalizing s with
  | zero => simp [State.indBurst]
  | succ n ih => simp [State.indBurst, *]
@[simp] theorem State.frameRead_outside {ps : List Part} (op : Nat) (f : Frame) (len : Nat) (s : State) (hRef : Part.ref ∈ ps) (hTs : Part.ts ∈ ps) (hOcts : Part.octs ∈ ps) (hMbox : Part.mbox ∈ ps) (hPwr : Part.pwr ∈ ps) (hStore : Part.store ∈ ps) (hFlt : Part.flt ∈ ps) (hMem : Part.mem ∈ ps) (hReg : Part.reg ∈ ps) : (State.frameRead op f len s).st.outside ps = s.outside ps := by
  unfold State.frameRead
  dsimp only
  repeat' split
  all_goals simp [*]
@[simp] theorem State.commitRead_outside {ps : List Part} (s : State) (hMbox : Part.mbox ∈ ps) (hReg : Part.reg ∈ ps) : (State.commitRead s).outside ps = s.outside ps := by
  unfold State.commitRead
  split <;> simp [*]
@[simp] theorem State.bulkWrite_outside {ps : List Part} (d addr n : Nat) (ws : List Nat) (s : State) (hMbox : Part.mbox ∈ ps) : (State.bulkWrite d addr n ws s).outside ps = s.outside ps := by
  unfold State.bulkWrite
  try dsimp only
  repeat' (first | with_reducible rfl | (simp [*]; done) | split)
@[simp] theorem State.disarm_outside {ps : List Part} (s : State) (hReg : Part.reg ∈ ps) : (State.disarm s).outside ps = s.outside ps := by
  simp [State.disarm, *]
@[simp] theorem State.frameWrite_outside {ps : List Part} (op : Nat) (f : Frame) (n : Nat) (cut : Bool) (s : State) (hRef : Part.ref ∈ ps) (hPps : Part.pps ∈ ps) (hExt : Part.ext ∈ ps) (hTs : Part.ts ∈ ps) (hLatch : Part.latch ∈ ps) (hChans : Part.chans ∈ ps) (hOcts : Part.octs ∈ ps) (hDlls : Part.dlls ∈ ps) (hEngs : Part.engs ∈ ps) (hArr : Part.arr ∈ ps) (hCores : Part.cores ∈ ps) (hSrcs : Part.srcs ∈ ps) (hDevq : Part.devq ∈ ps) (hIv : Part.iv ∈ ps) (hRing : Part.ring ∈ ps) (hRg : Part.rg ∈ ps) (hMbox : Part.mbox ∈ ps) (hPwr : Part.pwr ∈ ps) (hPar : Part.par ∈ ps) (hStore : Part.store ∈ ps) (hFlash : Part.flash ∈ ps) (hGrat : Part.grat ∈ ps) (hFlt : Part.flt ∈ ps) (hTests : Part.tests ∈ ps) (hCas : Part.cas ∈ ps) (hCal : Part.cal ∈ ps) (hOtp : Part.otp ∈ ps) (hImg : Part.img ∈ ps) (hMem : Part.mem ∈ ps) (hPer : Part.per ∈ ps) (hGw : Part.gw ∈ ps) (hHp : Part.hp ∈ ps) (hReg : Part.reg ∈ ps) : (State.frameWrite op f n cut s).2.outside ps = s.outside ps := by
  unfold State.frameWrite
  try dsimp only
  repeat' (first | with_reducible rfl | (simp [*]; done) | split)
@[simp] theorem State.readReady_outside {ps : List Part} (ready : Bool) (s : State) (hMem : Part.mem ∈ ps) (hHp : Part.hp ∈ ps) : (State.readReady ready s).outside ps = s.outside ps := by
  simp [State.readReady, *]
@[simp] theorem State.edgeless_outside {ps : List Part} (s : State) (hHp : Part.hp ∈ ps) : (State.edgeless s).outside ps = s.outside ps := by
  simp [State.edgeless, *]
/-- A frame leaves what its read, its write and the port itself leave. -/
theorem State.frame_outside_of {ps : List Part} (op : Nat) (f : Frame) (s : State)
    (hr : ∀ len t, (State.frameRead op f len t).st.outside ps = t.outside ps)
    (hw : ∀ n cut t, (State.frameWrite op f n cut t).2.outside ps = t.outside ps)
    (hMem : Part.mem ∈ ps) (hMbox : Part.mbox ∈ ps) (hFlt : Part.flt ∈ ps) (hHp : Part.hp ∈ ps) (hReg : Part.reg ∈ ps) : (State.frame op f s).outside ps = s.outside ps := by
  unfold State.frame
  extract_lets e s1 h li lo olen count short whole len bad run pin n cut rd s2 s3 w s4 isBad trunc flen past st tag opn loop sentBits s5 s6
  have h1 : s1.outside ps = s.outside ps := by simp [s1, *]
  have hrd : rd.st.outside ps = s.outside ps := by
    rw [← h1]; simp only [rd]; split
    · exact hr _ _
    · rfl
  have h2 : s2.outside ps = s.outside ps := by
    rw [← hrd]; simp only [s2]; split
    · simp [*]
    · rfl
  have h3 : s3.outside ps = s.outside ps := by rw [← h2]; simp [s3, *]
  have h4 : s4.outside ps = s.outside ps := by
    rw [← h3]; simp only [s4, w]; split
    · exact hw _ _ _
    · rfl
  have h5 : s5.outside ps = s.outside ps := by rw [← h4]; simp [s5, *]
  have h6 : s6.outside ps = s.outside ps := by
    rw [← h5]; simp only [s6]; split
    · simp [*]
    · rfl
  repeat' split
  · rfl
  · simp [*]
  · exact h4
  · simp [*]
  · exact h6
@[simp] theorem State.frame_outside {ps : List Part} (op : Nat) (f : Frame) (s : State) (hRef : Part.ref ∈ ps) (hPps : Part.pps ∈ ps) (hExt : Part.ext ∈ ps) (hTs : Part.ts ∈ ps) (hLatch : Part.latch ∈ ps) (hChans : Part.chans ∈ ps) (hOcts : Part.octs ∈ ps) (hDlls : Part.dlls ∈ ps) (hEngs : Part.engs ∈ ps) (hArr : Part.arr ∈ ps) (hCores : Part.cores ∈ ps) (hSrcs : Part.srcs ∈ ps) (hDevq : Part.devq ∈ ps) (hIv : Part.iv ∈ ps) (hRing : Part.ring ∈ ps) (hRg : Part.rg ∈ ps) (hMbox : Part.mbox ∈ ps) (hPwr : Part.pwr ∈ ps) (hPar : Part.par ∈ ps) (hStore : Part.store ∈ ps) (hFlash : Part.flash ∈ ps) (hGrat : Part.grat ∈ ps) (hFlt : Part.flt ∈ ps) (hTests : Part.tests ∈ ps) (hCas : Part.cas ∈ ps) (hCal : Part.cal ∈ ps) (hOtp : Part.otp ∈ ps) (hImg : Part.img ∈ ps) (hMem : Part.mem ∈ ps) (hPer : Part.per ∈ ps) (hGw : Part.gw ∈ ps) (hHp : Part.hp ∈ ps) (hReg : Part.reg ∈ ps) : (State.frame op f s).outside ps = s.outside ps :=
  State.frame_outside_of op f s (fun _ _ => by simp [*]) (fun _ _ _ => by simp [*]) hMem hMbox hFlt hHp hReg
/-- A frame of an operation that writes nothing. -/
theorem State.frame_outside_read {ps : List Part} (op : Nat) (f : Frame) (s : State) (hop : op ≠ 1 ∧ op ≠ 3 ∧ op ≠ 6 ∧ op ≠ 8)
    (hRef : Part.ref ∈ ps) (hTs : Part.ts ∈ ps) (hOcts : Part.octs ∈ ps) (hMbox : Part.mbox ∈ ps) (hPwr : Part.pwr ∈ ps) (hStore : Part.store ∈ ps) (hFlt : Part.flt ∈ ps) (hMem : Part.mem ∈ ps) (hReg : Part.reg ∈ ps)
    (hHp : Part.hp ∈ ps) : (State.frame op f s).outside ps = s.outside ps :=
  State.frame_outside_of op f s (fun _ _ => by simp [*]) (by
    intro n cut t
    unfold State.frameWrite
    dsimp only
    split <;> simp_all) hMem hMbox hFlt hHp hReg
theorem execRegWr_only (f : Frame) (s : State) (s' : State) (hs : execRegWr f s = .next s') : Only [.ref, .pps, .ext, .ts, .latch, .chans, .octs, .dlls, .engs, .arr, .cores, .srcs, .devq, .iv, .ring, .rg, .mbox, .pwr, .par, .store, .flash, .grat, .flt, .tests, .cas, .cal, .otp, .img, .mem, .per, .gw, .hp, .reg] s s' := by
  simp only [execRegWr, Host.Outcome.next.injEq] at hs
  subst hs
  simp [Only]
theorem execRegRd_only (f : Frame) (s : State) (s' : State) (hs : execRegRd f s = .next s') : Only [.ref, .ts, .octs, .mbox, .pwr, .store, .flt, .mem, .hp, .reg] s s' := by
  simp only [execRegRd, Host.Outcome.next.injEq] at hs
  subst hs
  exact State.frame_outside_read _ f s (by simp) (by simp) (by simp) (by simp) (by simp) (by simp) (by simp) (by simp) (by simp) (by simp) (by simp)
theorem execBulkWr_only (f : Frame) (s : State) (s' : State) (hs : execBulkWr f s = .next s') : Only [.ref, .pps, .ext, .ts, .latch, .chans, .octs, .dlls, .engs, .arr, .cores, .srcs, .devq, .iv, .ring, .rg, .mbox, .pwr, .par, .store, .flash, .grat, .flt, .tests, .cas, .cal, .otp, .img, .mem, .per, .gw, .hp, .reg] s s' := by
  simp only [execBulkWr, Host.Outcome.next.injEq] at hs
  subst hs
  simp [Only]
theorem execBulkRd_only (f : Frame) (s : State) (s' : State) (hs : execBulkRd f s = .next s') : Only [.ref, .ts, .octs, .mbox, .pwr, .store, .flt, .mem, .hp, .reg] s s' := by
  simp only [execBulkRd, Host.Outcome.next.injEq] at hs
  subst hs
  exact State.frame_outside_read _ f s (by simp) (by simp) (by simp) (by simp) (by simp) (by simp) (by simp) (by simp) (by simp) (by simp) (by simp)
theorem execNop_only (f : Frame) (s : State) (s' : State) (hs : execNop f s = .next s') : Only [.ref, .ts, .octs, .mbox, .pwr, .store, .flt, .mem, .hp, .reg] s s' := by
  simp only [execNop, Host.Outcome.next.injEq] at hs
  subst hs
  exact State.frame_outside_read _ f s (by simp) (by simp) (by simp) (by simp) (by simp) (by simp) (by simp) (by simp) (by simp) (by simp) (by simp)
theorem execIndWr_only (f : Frame) (s : State) (s' : State) (hs : execIndWr f s = .next s') : Only [.mbox, .flt, .mem, .hp, .reg] s s' := by
  simp only [execIndWr, Host.Outcome.next.injEq] at hs
  subst hs
  exact State.frame_outside_of 6 f s (fun len t => by simp [State.frameRead]) (fun n cut t => by simp [State.frameWrite, apply_ite (Prod.snd : Nat × State → State)]) (by simp) (by simp) (by simp) (by simp) (by simp)
theorem execIndRd_only (f : Frame) (s : State) (s' : State) (hs : execIndRd f s = .next s') : Only [.ref, .ts, .octs, .mbox, .pwr, .store, .flt, .mem, .hp, .reg] s s' := by
  simp only [execIndRd, Host.Outcome.next.injEq] at hs
  subst hs
  exact State.frame_outside_read _ f s (by simp) (by simp) (by simp) (by simp) (by simp) (by simp) (by simp) (by simp) (by simp) (by simp) (by simp)
theorem execLoop_only (f : Frame) (s : State) (s' : State) (hs : execLoop f s = .next s') : Only [.mbox, .flt, .tests, .mem, .hp, .reg] s s' := by
  simp only [execLoop, Host.Outcome.next.injEq] at hs
  subst hs
  exact State.frame_outside_of 8 f s (fun len t => by simp [State.frameRead]) (fun n cut t => by simp [State.frameWrite]) (by simp) (by simp) (by simp) (by simp) (by simp)
theorem execBadop_only (op : BitVec 4) (f : Frame) (s : State) (s' : State) (hs : execBadop op f s = .next s') : Only [.ref, .ts, .octs, .mbox, .pwr, .store, .flt, .mem, .hp, .reg] s s' := by
  unfold execBadop at hs
  split at hs
  · injection hs with hs; subst hs; rfl
  · injection hs with hs; subst hs
    exact State.frame_outside_read _ f s (by omega) (by simp) (by simp) (by simp) (by simp) (by simp) (by simp) (by simp) (by simp) (by simp) (by simp)
theorem execShortHeaderFrame_only (edges : Fin 32) (ready : Bool) (s : State) (s' : State) (hs : execShortHeaderFrame edges ready s = .next s') : Only [.ref, .ts, .octs, .mbox, .pwr, .store, .flt, .mem, .hp, .reg] s s' := by
  unfold execShortHeaderFrame at hs
  split at hs
  · injection hs with hs; subst hs; rfl
  · injection hs with hs; subst hs
    exact State.frame_outside_read _ _ s (by simp) (by simp) (by simp) (by simp) (by simp) (by simp) (by simp) (by simp) (by simp) (by simp) (by simp)
theorem execEdgelessSelect_only (s : State) (s' : State) (hs : execEdgelessSelect s = .next s') : Only [.hp] s s' := by
  simp only [execEdgelessSelect, Host.Outcome.next.injEq] at hs
  subst hs
  simp [Only]
end Sys2Proof.Machine
end

