-- ==== Sys2Proof/Laws/FrameIdle.lean ====
section
/-!
SUPPORT. Frames of the operations of Machine/Idle.lean: `X_outside` says which parts an operation can change, `X_only` the same of a
command's meaning.
-/
namespace Sys2Proof.Machine
@[simp] theorem State.coastEdge_outside {ps : List Part} (s : State) (hTs : Part.ts ∈ ps) (hLatch : Part.latch ∈ ps) (hChans : Part.chans ∈ ps) (hDevq : Part.devq ∈ ps) : (State.coastEdge s).outside ps = s.outside ps := by
  unfold State.coastEdge
  try dsimp only
  repeat' (first | with_reducible rfl | (simp [*]; done) | split)
@[simp] theorem State.sclkEdge_outside {ps : List Part} (s : State) (hTs : Part.ts ∈ ps) (hLatch : Part.latch ∈ ps) (hChans : Part.chans ∈ ps) (hDevq : Part.devq ∈ ps) : (State.sclkEdge s).outside ps = s.outside ps := by
  simp [State.sclkEdge, *]
@[simp] theorem State.bypEdges_outside {ps : List Part} (s : State) (hByp : Part.byp ∈ ps) : (State.bypEdges s).outside ps = s.outside ps := by
  simp [State.bypEdges, *]
@[simp] theorem State.idleStep_outside {ps : List Part} (s : State) (hTs : Part.ts ∈ ps) (hLatch : Part.latch ∈ ps) (hChans : Part.chans ∈ ps) (hSrcs : Part.srcs ∈ ps) (hDevq : Part.devq ∈ ps) (hByp : Part.byp ∈ ps) : (State.idleStep s).outside ps = s.outside ps := by
  simp [State.idleStep, *]
end Sys2Proof.Machine
end

