-- ==== Sys2Proof/Laws/Memory.lean ====
section
/-!
SUPPORT. The flash array: a word read after it is written, and that every operation on the array keeps its canonical form (R591, R798).
-/
namespace Sys2Proof.Machine

/-! ## Reading after writing -/

/-- A word written reads back. -/
@[simp] theorem look_put_same {α : Type} (t : Tab α) (i : Nat) (x : α) : look (t.put i x) i = some x := by
  induction t with
  | nil => simp [Tab.put, look]
  | cons a t ih =>
    obtain ⟨j, a⟩ := a
    simp only [Tab.put]
    split
    · simp [look]
    · split
      · simp [look]
      · have : j ≠ i := fun h => by simp_all
        simpa [look, this] using ih

/-- Writing one word leaves every other word alone. -/
theorem look_put_ne {α : Type} (t : Tab α) {i j : Nat} (h : j ≠ i) (x : α) : look (t.put i x) j = look t j := by
  have h' : i ≠ j := fun e => h e.symm
  induction t with
  | nil => simp [Tab.put, look, h']
  | cons a t ih =>
    obtain ⟨k, a⟩ := a
    simp only [Tab.put]
    split
    · subst_vars; simp [look, h']
    · split
      · simp [look, h']
      · simp only [look, ih]

/-! ## Canonical form -/

/-- Every number in `t` lies above `n`. -/
theorem canonicalTab_cons {α : Type} (a : Nat × α) (t : Tab α) :
    canonicalTab (a :: t) = true ↔ canonicalTab t = true ∧ ∀ b ∈ t, a.1 < b.1 := by
  induction t generalizing a with
  | nil => simp [canonicalTab]
  | cons b t ih =>
    simp only [canonicalTab, Bool.and_eq_true, decide_eq_true_eq, List.mem_cons, forall_eq_or_imp]
    constructor
    · rintro ⟨h, g⟩
      exact ⟨g, h, fun c hc => Nat.lt_trans h (((ih b).mp g).2 c hc)⟩
    · rintro ⟨g, h, -⟩
      exact ⟨h, g⟩

/-- Numbers in a table after a write. -/
theorem mem_put {α : Type} (t : Tab α) (i : Nat) (x : α) (b : Nat × α) (h : b ∈ t.put i x) : b.1 = i ∨ b ∈ t := by
  induction t with
  | nil => simp [Tab.put] at h; exact .inl (by rw [h])
  | cons a t ih =>
    obtain ⟨j, a⟩ := a
    simp only [Tab.put] at h
    split at h
    · rcases List.mem_cons.mp h with rfl | h
      · exact .inl rfl
      · exact .inr (List.mem_cons_of_mem _ h)
    · split at h
      · rcases List.mem_cons.mp h with rfl | h
        · exact .inl rfl
        · exact .inr h
      · rcases List.mem_cons.mp h with rfl | h
        · exact .inr (List.mem_cons_self ..)
        · exact (ih h).imp id (List.mem_cons_of_mem _)

/-- A write keeps the form. -/
theorem canonicalTab_put {α : Type} (t : Tab α) (i : Nat) (x : α) (h : canonicalTab t = true) : canonicalTab (t.put i x) = true := by
  induction t with
  | nil => rfl
  | cons a t ih =>
    obtain ⟨j, a⟩ := a
    have g := (canonicalTab_cons _ _).mp h
    simp only [Tab.put]
    split
    · subst_vars; exact (canonicalTab_cons _ _).mpr g
    · split
      · refine (canonicalTab_cons _ _).mpr ⟨h, fun b hb => ?_⟩
        rcases List.mem_cons.mp hb with rfl | hb
        · assumption
        · have := g.2 b hb; simp_all; omega
      · refine (canonicalTab_cons _ _).mpr ⟨ih g.1, fun b hb => ?_⟩
        rcases mem_put t i x b hb with hb | hb
        · simp_all; omega
        · exact g.2 b hb

/-- Erasing words keeps the form. -/
theorem canonicalTab_filter {α : Type} (p : Nat × α → Bool) (t : Tab α) (h : canonicalTab t = true) : canonicalTab (t.filter p) = true := by
  induction t with
  | nil => rfl
  | cons a t ih =>
    have g := (canonicalTab_cons _ _).mp h
    rw [List.filter_cons]
    split
    · exact (canonicalTab_cons _ _).mpr ⟨ih g.1, fun b hb => g.2 b (List.mem_filter.mp hb).1⟩
    · exact ih g.1

/-- What changes words where they stand keeps the form. -/
theorem canonicalTab_map {α : Type} (f : Nat × α → Nat × α) (hf : ∀ e, (f e).1 = e.1) (t : Tab α) (h : canonicalTab t = true) :
    canonicalTab (t.map f) = true := by
  induction t with
  | nil => rfl
  | cons a t ih =>
    have g := (canonicalTab_cons _ _).mp h
    rw [List.map_cons]
    refine (canonicalTab_cons _ _).mpr ⟨ih g.1, fun b hb => ?_⟩
    obtain ⟨c, hc, rfl⟩ := List.mem_map.mp hb
    rw [hf, hf]
    exact g.2 c hc

/-! ## Operations of the Datum store -/

/-- Programming a run of words keeps the form. -/
theorem StoreS.program_canonical (r i : Nat) (ws : List FWord) (d : StoreS) (h : canonicalTab d.flash = true) :
    canonicalTab (StoreS.program r i ws d).flash = true := by
  induction ws generalizing i d with
  | nil => exact h
  | cons w ws ih => exact ih _ _ (canonicalTab_put _ _ _ h)

/-- An erase with its sector word keeps the form. -/
theorem StoreS.erase_canonical (p l : Nat) (d : StoreS) (h : canonicalTab d.flash = true) : canonicalTab (d.erase p l).flash = true :=
  canonicalTab_put _ _ _ (canonicalTab_filter _ _ h)

/-- An erase keeps the form. -/
theorem StoreS.blank_canonical (p : Nat) (d : StoreS) (h : canonicalTab d.flash = true) : canonicalTab (d.blank p).flash = true :=
  canonicalTab_filter _ _ h

/-- Erasing a region keeps the form. -/
theorem State.eraseRegion_flashWf (r : Nat) (s : State) (h : FlashWf s) : FlashWf (s.eraseRegion r) := by
  have : ∀ (l : List Nat) (d : StoreS), canonicalTab d.flash = true →
      canonicalTab (l.foldl (fun d i => d.erase (d.phys (r + i)) (r + i)) d).flash = true := by
    intro l
    induction l with
    | nil => exact fun _ h => h
    | cons i l ih => exact fun d h => ih _ (StoreS.erase_canonical _ _ d h)
  exact this _ _ h

/-- Programming a record keeps the form. -/
theorem State.programRec_flashWf (n : Nat) (c : WCls) (s : State) (h : FlashWf s) : FlashWf (s.programRec n c) := by
  unfold State.programRec
  split
  · exact h
  · exact StoreS.program_canonical _ _ _ _ h

/-- The array after reset lists nothing, in canonical form. -/
theorem State.reset_flashWf : FlashWf State.reset := rfl

end Sys2Proof.Machine
end

