-- ==== Sys2Proof/Laws/Ops.lean ====
section
/-!
SUPPORT. What each shared operation does, said once: taking a message, answering it, posting events and faults, queueing a store, delivering and
clearing an event of an RS register.
-/
namespace Sys2Proof.Machine

/-! ## Doors -/

@[simp] theorem State.door_modDoor_same (n : Nat) (f : Door → Door) (s : State) : (s.modDoor n f).door n = f (s.door n) :=
  Tab.get_put_same _ _ _ _

theorem State.door_modDoor_ne {n m : Nat} (h : m ≠ n) (f : Door → Door) (s : State) : (s.modDoor n f).door m = s.door m :=
  Tab.get_put_ne _ _ h _

/-- A message taken turns its door BUSY. -/
@[simp] theorem State.taken_st (h : Hdr) (s : State) : ((s.taken h).door h.door).st = .busy := by simp [State.taken]

/-- A message that nothing refuses is taken, and its command runs. -/
theorem State.viaDoor_taken {h : Hdr} {cmd : Nat} {s : State} (g : Taken h cmd s) (op : State → State) : s.viaDoor h cmd op = op (s.taken h) := by
  obtain ⟨g1, g2, g3, g4, g5, g6⟩ := g
  have e : (s.taken h).preErr h cmd = s.preErr h cmd := rfl
  have n4 : h.door.val ≠ 4 := fun x => g2 (Fin.ext x)
  have n5 : h.door.val ≠ 5 := fun x => g3 (Fin.ext x)
  have n6 : h.door.val ≠ 6 := fun x => g4 (Fin.ext x)
  simp only [State.viaDoor, g1, n4, n5, n6, g5, Bool.false_eq_true, or_self, if_false]
  simp only [State.taken] at e
  rw [e, g6]
  rfl

/-! ## Replies -/

@[simp] theorem State.reply_st (h : Hdr) (cmd : Nat) (r : Rep) (s : State) : ((s.reply h cmd r).door h.door).st = .reply := by
  simp [State.reply]
@[simp] theorem State.reply_err (h : Hdr) (cmd : Nat) (r : Rep) (s : State) :
    ((s.reply h cmd r).door h.door).err = (r.err ≠ .ok : Bool) := by simp [State.reply]
@[simp] theorem State.reply_tag (h : Hdr) (cmd : Nat) (r : Rep) (s : State) : ((s.reply h cmd r).door h.door).tag = h.tag := by
  simp [State.reply]
@[simp] theorem State.reply_doneN (h : Hdr) (cmd : Nat) (r : Rep) (s : State) :
    ((s.reply h cmd r).door h.door).doneN = satAdd 8 1 (s.door h.door).doneN := by simp [State.reply]

/-- A reply leaves every other door alone. -/
theorem State.reply_door_ne {h : Hdr} {n : Nat} (g : n ≠ h.door.val) (cmd : Nat) (r : Rep) (s : State) : (s.reply h cmd r).door n = s.door n :=
  State.door_modDoor_ne g _ _

/-- Words numbered from `i` on do not reach below `i`. -/
theorem foldl_numWords_below (ws : List Nat) (i j : Nat) (t : Tab W128) (h : j < i) :
    ((numWords i ws).foldl (fun t w => t.put w.1 w.2) t).get 0 j = t.get 0 j := by
  induction ws generalizing i t with
  | nil => rfl
  | cons w ws ih =>
    simp only [numWords, List.foldl_cons]
    rw [ih _ _ (Nat.lt_succ_of_lt h), Tab.get_put_ne _ _ (Nat.ne_of_lt h)]

/-- Words numbered from `i` on read back at their numbers. -/
theorem foldl_numWords (ws : List Nat) (i j : Nat) (t : Tab W128) (h : j < ws.length) :
    ((numWords i ws).foldl (fun t w => t.put w.1 w.2) t).get 0 (i + j) = BitVec.ofNat 128 (ws.getD j 0) := by
  induction ws generalizing i j t with
  | nil => simp at h
  | cons w ws ih =>
    simp only [numWords, List.foldl_cons]
    match j with
    | 0 => simpa using foldl_numWords_below ws (i + 1) i (t.put i (BitVec.ofNat 128 w)) (Nat.lt_succ_self i)
    | j + 1 =>
      have := ih (i + 1) j (t.put i (BitVec.ofNat 128 w)) (by simpa using h)
      rw [show i + (j + 1) = i + 1 + j by omega, this]
      simp

/-- A reply message is its header and the reply's words, numbered from 0. -/
theorem Rep.msg_words (r : Rep) (cmd : Nat) (tag : BitVec 16) : ∃ w, r.msg cmd tag = numWords 0 (w :: r.words) := ⟨_, rfl⟩

/-- The door of `h` holds the reply that is written into it. -/
theorem State.reply_answered (h : Hdr) (cmd : Nat) (r : Rep) (s : State) : Answered h cmd r (s.reply h cmd r) := by
  obtain ⟨w, e⟩ := r.msg_words cmd h.tag
  have g (i : Nat) (hi : i < (w :: r.words).length) : ((s.reply h cmd r).door h.door).words.get 0 i = BitVec.ofNat 128 ((w :: r.words).getD i 0) := by
    have := foldl_numWords (w :: r.words) 0 i (s.door h.door).words hi
    rw [Nat.zero_add] at this
    simp only [State.reply, State.door_modDoor_same, e, this]
  refine ⟨State.reply_st .., State.reply_err .., State.reply_tag .., ?_, fun i hi => ?_⟩
  · rw [g 0 (by simp), e]; simp [numWords, Tab.get]
  · rw [g (i + 1) (by simpa using hi)]; simp

/-- A reply changes its door alone. -/
theorem State.reply_onlyDoor (h : Hdr) (cmd : Nat) (r : Rep) (s : State) : s.reply h cmd r = s.modDoor h.door fun _ => (s.reply h cmd r).door h.door := by
  simp only [State.reply, State.door_modDoor_same]; rfl

/-! ## Events, faults and stores -/

/-- A posted event reaches no door but door 6. -/
theorem State.pump6_door_ne {n : Nat} (h : n ≠ 6) (s : State) : s.pump6.door n = s.door n := by
  unfold State.pump6
  split
  · rfl
  · split
    · rfl
    · rename_i e m g
      have : m.doors = s.mbox.doors := by
        simp only [MboxS.nextEvent] at g
        split at g
        · simp only [Option.some.injEq, Prod.mk.injEq] at g; rw [← g.2]
        · split at g
          · cases g
          · simp only [Option.some.injEq, Prod.mk.injEq] at g; rw [← g.2]
      simp only [State.door, this]
      exact Tab.get_put_ne _ _ h _

theorem State.post_door_ne {n : Nat} (h : n ≠ 6) (e : Event) (s : State) : (s.post e).door n = s.door n := by
  unfold State.post
  split
  · rw [State.pump6_door_ne h]; rfl
  · rfl

theorem State.pump6_flt (s : State) : s.pump6.flt = s.flt := by
  unfold State.pump6
  split
  · rfl
  · split <;> rfl

theorem State.post_flt (e : Event) (s : State) : (s.post e).flt = s.flt := by
  unfold State.post
  split
  · rw [State.pump6_flt]; rfl
  · rfl

/-- A fault joins the list of faults under its time. -/
theorem State.fault_mem (kind unit fault : Nat) (s : State) : (kind, unit, fault, s.now) ∈ (s.fault kind unit fault).flt := by
  simp only [State.fault, State.faultEvent, State.post_flt]
  simp

/-- A change that a command commits is the journal's last store, and answers it. -/
theorem State.commit_queued (h : Hdr) (cmd : Nat) (c : Change) (s : State) : Queued h cmd c s ((s.taken h).commit (some h) cmd c) :=
  ⟨_, rfl, rfl, rfl, rfl⟩

/-! ## RS registers (R704 to R706) -/

@[simp] theorem RsReg.raise_seq (b : Nat) (r : RsReg) : (r.raise b).seq = r.seq + 1 := rfl
@[simp] theorem RsReg.raise_n (b : Nat) (r : RsReg) : (r.raise b).n = r.n + 1 := rfl
@[simp] theorem RsReg.raise_host (b : Nat) (r : RsReg) : (r.raise b).host = r.host := rfl
@[simp] theorem RsReg.raise_cob (b : Nat) (r : RsReg) : (r.raise b).cob = r.cob := rfl
/-- A clear leaves SEQ, the event count and both masters' reads alone. -/
@[simp] theorem RsReg.clear_seq (m : Bool) (w : W32) (r : RsReg) : (r.clear m w).seq = r.seq := by
  simp only [RsReg.clear]
  repeat' split
  all_goals rfl
@[simp] theorem RsReg.clear_n (m : Bool) (w : W32) (r : RsReg) : (r.clear m w).n = r.n := by
  simp only [RsReg.clear]
  repeat' split
  all_goals rfl

/-! ## Counters (R701) -/

/-- A saturating count never passes its width. -/
theorem satAdd_lt (w n x : Nat) : satAdd w n x < 2 ^ w := by
  have := Nat.two_pow_pos w
  simp only [satAdd]
  omega

end Sys2Proof.Machine
end

