-- ==== Sys2Proof/Machine/Package.lean ====
section
/-!
DEFINITION. The package as pure tables: the ball grid (R850 to R855), the boundary cells and IDCODE (R838, R839). No command reads them.
-/
namespace Sys2Proof.Machine

/-- A signal of the device (R851 to R853). Port, GPIO and bypass pins carry their index; `bypIn j b` is BYP_INjA or, with `b`, BYP_INjB. -/
inductive Signal where
  | cko (n : Nat) | cki (n : Nat) | mrk (n : Nat) | wcko (k : Nat) | bypIn (j : Nat) (b : Bool)
  | refin | ppsin | calIn | casTx | casRx
  | hsck | hcs | hsdi (i : Nat) | hsdo (i : Nat) | hstb | hint
  | msck | mcs (i : Nat) | mio (i : Nat) | psck | psdo | psdi | pcs (i : Nat) | gpio (i : Nat)
  | resetN | pfailN | holdupOk | testEn | tck | tms | tdi | tdo | trstN | rext
deriving DecidableEq, Repr

/-- A supply or ground name. -/
inductive Supply where
  | vss | vdd | vdda | vaon | vddio | vddo (j : Nat)
deriving DecidableEq, Repr

/-- What a ball carries: a supply, or a signal; a leg of a pair is `neg` or not. -/
inductive Ball where
  | supply (x : Supply)
  | signal (x : Signal) (neg : Bool)
deriving DecidableEq, Repr

/-- The 19 letters of the row names, in order (R850). -/
def rowLetters : List Char := ['A', 'B', 'C', 'D', 'E', 'F', 'G', 'H', 'J', 'K', 'L', 'M', 'N', 'P', 'T', 'U', 'V', 'W', 'Y']
/-- Name of row index 1 to 51 (R850). -/
def rowName (r : Nat) : List Char :=
  let x := rowLetters.getD ((r - 1) % 19) 'A'
  match (r - 1) / 19 with
  | 0 => [x]
  | 1 => ['A', x]
  | _ => ['B', x]

/-- First row index and first column of each octant block (R851). -/
def octOrigin : List (Nat × Nat) := [(1, 1), (1, 18), (1, 36), (18, 36), (36, 36), (36, 18), (36, 1), (18, 1)]

/-- Ball `(dr, dc)` of the block of octant `k`, in tiles of two rows and four columns (R851). -/
def tileBall (k dr dc : Nat) : Ball :=
  let n := 32 * k + 4 * (dr / 2) + dc / 4
  match dr % 2, dc % 4 with
  | 0, 0 => .signal (.cko n) false
  | 0, 1 => .signal (.cko n) true
  | 0, 3 => .signal (.mrk n) false
  | 1, 0 => .signal (.cki n) false
  | 1, 1 => .signal (.cki n) true
  | 1, 3 => .supply (.vddo (quadOf k))
  | _, _ => .supply .vss

/-- Ball `q`, 1 to 16, of the gap segment of octant `k` (R852). -/
def segBall (k q : Nat) : Ball :=
  if q ≤ 4 ∨ (11 ≤ q ∧ q ≤ 14) then .supply .vdda
  else if q = 6 ∨ q = 7 then .signal (.wcko k) (q = 7)
  else if q = 9 then .supply (.vddo (quadOf k))
  else .supply .vss

def sigs (l : List Signal) : List Ball := l.map (.signal · false)
def pair (x : Signal) : List Ball := [.signal x false, .signal x true]
def io : Ball := .supply .vddio
def gnd : Ball := .supply .vss

/-- The runs of device-level balls (R853): column 17 and column 35, each over rows A to U and rows AV to BN, and row AT over columns 25 to 51. -/
def runHost : List Ball := sigs [.hsck] ++ [io] ++ sigs [.hcs, .hsdi 0, .hsdi 1, .hsdi 2, .hsdi 3] ++ [io] ++
  sigs [.hsdo 0, .hsdo 1, .hsdo 2, .hsdo 3] ++ [io] ++ sigs [.hstb, .hint] ++ [io]
def runPorts : List Ball := sigs [.msck, .mcs 0, .mcs 1, .mio 0, .mio 1, .mio 2, .mio 3] ++ [io] ++
  sigs [.psck, .psdo, .psdi, .pcs 0, .pcs 1, .pcs 2, .pcs 3] ++ [io]
def runGpio : List Ball := sigs ((upTo 8).map .gpio) ++ [io] ++ sigs [.resetN, .pfailN, .holdupOk] ++ [io] ++ sigs [.testEn] ++ [io, io]
def runJtag : List Ball := sigs [.tck, .tms, .tdi, .tdo, .trstN] ++ [gnd] ++ List.replicate 4 (.supply .vaon) ++ [gnd] ++ sigs [.rext] ++
  [gnd, io, io, gnd]
def runClock : List Ball := [gnd] ++ pair .refin ++ [gnd] ++ sigs [.ppsin, .calIn] ++ pair .casTx ++ pair .casRx ++ [gnd] ++
  (upTo 8).flatMap fun i => pair (.bypIn (i / 2) (i % 2 = 1))

/-- `x` lies in the 16 places from `a` on. -/
def in16 (a x : Nat) : Bool := a ≤ x && x < a + 16

/-- The octant whose segment a gap ball belongs to, and the ball's number in it (R852). -/
def segOf (r c : Nat) : Option (Nat × Nat) :=
  if r = 17 ∨ r = 35 then
    (if r = 17 then [0, 1, 2] else [6, 5, 4]).findSome? fun k =>
      let c0 := (octOrigin.getD k (0, 0)).2
      if in16 c0 c then some (k, c - c0 + 1) else none
  else if in16 18 r then (if c = 17 then some (7, r - 17) else if c = 35 then some (3, r - 17) else none)
  else none

/-- The ball at row index `r` and column `c`, both 1 to 51 (R851 to R854). -/
def ballAt (r c : Nat) : Ball :=
  let block := (upTo 8).find? fun k => in16 (octOrigin.getD k (0, 0)).1 r && in16 (octOrigin.getD k (0, 0)).2 c
  match block, segOf r c with
  | some k, _ => tileBall k (r - (octOrigin.getD k (0, 0)).1) (c - (octOrigin.getD k (0, 0)).2)
  | none, some (k, q) => segBall k q
  | none, none =>
    if in16 18 r && in16 18 c then .supply (if (r + c) % 2 = 0 then .vdd else .vss)
    else if r = 34 then (if c ≤ 24 then .supply .vdd else runClock.getD (c - 25) gnd)
    else if r = 17 ∨ r = 35 then gnd
    else if c = 34 then .supply .vdd
    else if c = 17 then (if r ≤ 16 then runHost.getD (r - 1) gnd else runPorts.getD (r - 36) gnd)
    else (if r ≤ 16 then runGpio.getD (r - 1) gnd else runJtag.getD (r - 36) gnd)

/-! ## Boundary scan -/

/-- IDCODE (R838): version 0x1 for A1, part 0x8256, manufacturer code 0x1D7. -/
def idcode : BitVec 32 := 0x182563AF

/-- The boundary cell of a ball (R839). -/
inductive Cell where
  | none | single | acCoupled
deriving DecidableEq, Repr

def Ball.cell : Ball → Cell
  | .supply _ => .none
  | .signal x _ => match x with
    | .tck | .tms | .tdi | .tdo | .trstN | .rext => .none
    | .cko _ | .cki _ | .refin | .bypIn _ _ | .casTx | .casRx => .acCoupled
    | _ => .single

end Sys2Proof.Machine
end

