-- ==== Sys2Proof/Machine/Pins.lean ====
section
/-!
DEFINITION. What the pins show, read off the state: the output driver, the marker pin, HINT_N, the ports, the DTC code of an edge, and the node's
traceable SERVICE (R19 to R22, R171, R203 to R205, R212, R234, R239, R240, R494, R661 to R663, R797, R813, R816, R822, R873, R880, R888). No command reads these; levels in
volts and waves in time are not state.
-/
namespace Sys2Proof.Machine
open Sys2Proof

/-! ## Drivers and levels (R880) -/

/-- What a single-ended pin of the device drives. -/
inductive PinLevel where
  | hiZ | low | high
deriving DecidableEq, Repr

/-- What the two legs of an output driver do (R239, R240, R494). -/
inductive DriverState where
  /-- both legs at high impedance -/
  | hiZ
  /-- a static differential low -/
  | low
  /-- the source drives, with the swing of DRV_SWING in mV peak to peak and the legs exchanged or not -/
  | driven (src : OutSrc) (swing : Nat) (inv : Bool)
deriving DecidableEq, Repr

/-- A cold reset is held, by a rail, by RESET_N or by the TAP (R492, R840). -/
def State.coldHeld (s : State) : Bool := s.pwr.held || tapHolds s.tap

/-- The quadrant of channel index `c` is powered. -/
def State.quadPowered (s : State) (c : Nat) : Bool := s.pwr.pwr.testBit (pdQ (quadOf (octOf c)))

/-- The driver of CKOn or WCKOk (R239, R240, R494, R880). STOP, and a switch that has taken its old source off, is low. -/
def State.driver (s : State) (c : Nat) : DriverState :=
  let x := s.chan c
  let idle : DriverState := if s.up c P.drvIdle = 0 then .hiZ else .low
  if s.coldHeld || !s.quadPowered c || x.hiz then .hiZ
  else match x.out with
    | .none => idle
    | .stop => .low
    | y => .driven y (300 + 100 * s.up c P.drvSwing) (s.up c P.drvInv = 1)

/-- MRKn is an output (R234, R494, R880): OUT_PPS or OUT_MARK within a powered quadrant. -/
def State.mrkOut (s : State) (c : Nat) : Bool :=
  !s.coldHeld && s.quadPowered c && (s.up c P.mrkMode = 3 || s.up c P.mrkMode = 4)

/-- Level of MRKn in the output period that begins with rising output edge `n` of the grid (R234 to R238): the channel does not drive it as an input. -/
def State.mrkLevel (s : State) (c n : Nat) : PinLevel := if !s.mrkOut c then .hiZ else if s.mrkHigh c n then .high else .low

/-- HINT_N (R750, R873): high impedance with PIN = 0 and throughout a cold reset, else low while it is asserted. `asserted` is R750's
condition on INT_SUM and MASK. -/
def hintPin (held pin asserted : Bool) : PinLevel := if held || !pin then .hiZ else if asserted then .low else .high

/-- The level to which the pins of R872 follow VDDIO, true for 3.3 V (R860): the level sensed at the end of each cold reset, which the board
gives and lets settle before that. -/
def State.vddio33 (s : State) : Option Bool := if s.coldHeld then none else some Config.vddio33

/-- HINT_N in state `s`. -/
def State.hintLevel (s : State) : PinLevel := hintPin s.coldHeld s.reg.pin s.hint

/-- GPIO[i], i below 2 (R813, R818): high impedance during a cold reset. -/
def State.gpioLevel (s : State) (i : Nat) : PinLevel :=
  if s.coldHeld then .hiZ else if s.per.gpio.testBit i then .high else .low

/-! ## The host port's outputs (R661 to R663) -/

/-- Bit of the stream that lane `l` of `n` carries in group `g`: the earliest of a group is on the highest lane. -/
def laneBit (n g l : Nat) : Nat := n * g + (n - 1 - l)

/-- Bit `i` of the device's stream in the next frame: the reply word, then the read data, the last group of them right-aligned (R666, R673). -/
def HpS.streamBit (h : HpS) (i : Nat) : Bool :=
  let k := min 32 (32 + h.nOut - 32 * (i / 32))
  ((h.reply :: h.out).getD (i / 32) 0).getLsbD (k - 1 - i % 32)

/-- HSDO[l] while output group `g` of a frame is out: low on an unused lane and after the last group. -/
def State.hsdoLevel (s : State) (g l : Nat) : PinLevel :=
  let n := laneN s.hp.ol
  if s.coldHeld then .hiZ
  else if n ≤ l ∨ 32 + s.hp.nOut ≤ laneBit n g l then .low
  else if s.hp.streamBit (laneBit n g l) then .high else .low

/-- HSTB while output group `g` is out: it toggles with every group from 1 to the last. -/
def State.hstbLevel (s : State) (g : Nat) : PinLevel :=
  let last := divUp (32 + s.hp.nOut) (laneN s.hp.ol) - 1
  if s.coldHeld then .hiZ else if min g last % 2 = 1 then .high else .low

/-- HSDO and HSTB while HCS_N is high. -/
def State.hsdoIdle (s : State) : PinLevel := if s.coldHeld || !s.hp.idle then .hiZ else .low

/-- MSCK, MCS_N[0] and MIO between commands to the flash (R880). -/
def State.msckIdle (s : State) : PinLevel := if s.coldHeld then .hiZ else .low
def State.mcs0Idle (s : State) : PinLevel := if s.coldHeld then .hiZ else .high
def State.mioIdle (_ : State) : PinLevel := .hiZ

/-- MCS_N[1] (R797): held high; at high impedance during a cold reset (R880). -/
def State.mcs1Level (s : State) : PinLevel := if s.coldHeld then .hiZ else .high

/-- Where a transfer of the peripheral port stands: from half a PSCK period before the first edge of word `i` to half a period after its last, or in the
pause after it (R816). -/
inductive XferPhase where
  | word (i : Nat)
  | pause (i : Nat)
deriving DecidableEq, Repr

/-- The entry holds its select low in a phase of its transfer (R816): in each word with CONT = 0, from the first word to the last with CONT = 1. -/
def PEntry.selects (e : PEntry) : XferPhase → Bool
  | .word i => i < e.words
  | .pause i => e.ctl.testBit 21 && i + 1 < e.words

/-- PCS_N[i], i below 4 (R813, R816, R822): low only while the entry in progress names it in SEL and holds it; `ph` is where its transfer stands, none
between entries. -/
def State.pcsLevel (s : State) (i : Nat) (ph : Option XferPhase) : PinLevel :=
  if s.coldHeld then .hiZ else match s.per.q, ph with
  | e :: _, some x => if bits e.ctl 18 3 = i ∧ e.selects x then .low else .high
  | _, _ => .high

/-- PSCK at rest (R813, R822): the CPOL of the last entry, low after a cold reset. -/
def State.psckIdle (s : State) : PinLevel := if s.coldHeld then .hiZ else if s.per.cpol then .high else .low

/-! ## The DTC (R204) -/

/-- Cells and fine code of channel index `c` for r16, from the entries in force. -/
def State.dtcLaunch (s : State) (c r16 : Nat) : Nat × Nat := Machine.dtcLaunch (s.dtcEnt c (dtcSeg r16)) r16
/-- r16 of edge `n` after an edge at a whole comb period, for a ratio of fraction `f` in 2^-64: the accumulator keeps all 64 bits. -/
def r16Of (f n : Nat) : Nat := f * n % 2 ^ 64 / 2 ^ 48
/-- r16 of the edge on divider boundary `b` of channel index `c`: the top 16 bits of the accumulator, the edge's ratio added (R204). -/
def State.edgeR16 (s : State) (c b : Nat) : Nat := ((s.chan c).div.runTo b).acc / 2 ^ 48
/-- r16 of the point `j`/64 into the output period that begins on boundary `b`: the same accumulator at R·j/64. -/
def State.phaseR16 (s : State) (c b j : Nat) : Nat :=
  let d := (s.chan c).div
  ((64 * ((d.runTo b).acc : Int) + j * d.ratio b) % 2 ^ 70).toNat / 2 ^ 54
/-- r16 of the half-period point of the period that begins on boundary `b`: the same accumulator at R/2 (R212). -/
def State.halfR16 (s : State) (c b : Nat) : Nat := s.phaseR16 c b 32
/-- Code of the falling edge that the divider itself places, with k = 0 (R212); with k from 1 on the post-divider makes it (R211). -/
def State.halfLaunch (s : State) (c b : Nat) : Option (Nat × Nat) :=
  if (s.chan c).div.k = 0 then some (s.dtcLaunch c (s.halfR16 c b)) else none

/-! ## Pattern tests (R828, R829, R832) -/

/-- Bit `n` of a pattern, bit 0 first. -/
def patSeq (p n : Nat) : Nat := (patBit p ((upTo n).foldl (fun g _ => (patBit p g).2) (patStart p))).1
/-- What the generator of channel index `c` sends in the output period `n` of its test, one bit a period, NRZ (R828). -/
def State.genBit (s : State) (c n : Nat) : Option Nat := (s.tests.find? (·.ofChan c)).map fun r => patSeq (r.pattern % 128) n
/-- Code of the checker strobe of the period that begins on boundary `b`: half a period behind the generator's edge, and in an eye scan step `j` of 64,
launched by the same table (R829, R832). -/
def State.strobeLaunch (s : State) (c b j : Nat) : Nat × Nat :=
  s.dtcLaunch c (s.phaseR16 c b (if s.tests.any (fun r => r.ofChan c && r.eye.isSome) then j else 32))

/-! ## The cascade output (R837, R841, R842, R880) -/

/-- A character of the link: a comma K28.5, a fill K28.0 or a data byte. -/
inductive CasChar where
  | comma | fill
  | data (b : Nat)
deriving DecidableEq, Repr

/-- Bytes 1 to 39 of a frame, multi-byte fields least significant byte first (R842). -/
def casBytes (f : CasFrame) : List Nat :=
  let le (n x : Nat) : List Nat := (upTo n).map fun i => bits x (8 * i) 8
  [f.role.toNat + 4 * bit f.sec + 8 * bit f.stampOk] ++ le 2 f.seq.toNat ++ le 12 f.dts.toNat ++ le 8 f.rate.toNat ++ le 2 f.peerSeq.toNat ++
    le 12 f.peerStamp.toNat ++ [f.tsState.toNat, 0]
/-- The 250 characters of a frame (R841, R842). -/
def casChars (f : CasFrame) : List CasChar :=
  let b := casBytes f
  .comma :: (b ++ (upTo 4).map fun i => bits (crcBytes b) (8 * i) 8).map .data ++ List.replicate 206 .fill

/-- What CAS_TX carries. -/
inductive CasOut where
  | hiZ | idle
  | frame (l : List CasChar)
  /-- the raw pattern of a CASCADE test (R837) -/
  | pattern (p : Nat)
deriving DecidableEq, Repr

/-- CAS_TX from the launch of the last frame on (R837, R842, R880). -/
def State.casTx (s : State) : CasOut :=
  if s.coldHeld || !s.pwr.pwr.testBit pdCas then .hiZ
  else match s.tests.find? (·.kind = 6), s.cas.tx with
    | some r, _ => .pattern (r.pattern % 128)
    | none, some f => .frame (casChars f)
    | none, none => .idle

/-! ## Traceable SERVICE (R888) -/

/-- The channels that a Benchmark record gives a path of (R620). -/
def benchChans (pay : List Nat) : List Nat :=
  ((upTo (bits (pay.headD 0) 112 16)).map fun i => bits (pay.getD (11 + 3 * i) 0) 64 12).eraseDups

/-- The node is in traceable SERVICE (R888); `year` is the length of twelve months in 2^-18 ns, which the manual does not give. -/
def State.traceable (s : State) (year : Nat) : Bool :=
  s.pwr.mode = .service && s.ts.st = .locked &&
  match s.benchList.find? fun b => b.1 = s.store.anchor with
  | none => false
  | some b =>
    let t := linOf (b.2.1.getD 3 0)
    !s.unadopted b.1 (bits (b.2.1.headD 0) 64 48) && decide (s.now - t ≤ year) &&
    (benchChans b.2.1).all fun c => (s.chan c).st = .track && (look s.cal.lastWelt c).any fun d =>
      decide (t ≤ d) && decide (s.now - d ≤ s.pv P.calPeriod * secU)

end Sys2Proof.Machine
end

