-- ==== Sys2Proof/Tests/Slice0.lean ====
section
/-!
SUPPORT. Tests: terms that WellFormed refuses, the spec's worked examples (each test names the file of the example), and for every statement of
Certificates/Slice0/Obligations.lean that has hypotheses the states and operands that meet them, clause by clause (`hyps_<Name>`, its clauses in
the statement's order; a clause without hypotheses is left out).
-/
set_option Elab.async false
set_option linter.unusedVariables false
set_option maxRecDepth 20000
namespace Sys2Proof.Tests
open Sys2Proof Sys2Proof.Machine

/-! ## States -/

/-- powered, in SERVICE, nothing runs -/
def sUp : State := { State.reset with
  pwr := { PwrS.init with rom := false, pwr := 0x3FF, iso := 0, holdup := true, mode := .service, held := false }
  mem := { MemS.init with usable := true, sectors := 8192 }
  ref := { RefS.init with qual := true, lock := true, sclkOk := true, frozen := false } }
def sTs (st : TsState) : State := sUp.modTs fun t => { t with st := st }
def hd : Hdr := ⟨0, 7, false, false⟩
def h7 : Hdr := ⟨7, 7, false, false⟩
/-- A Graticule entry (R148): centre, gain, temperature, VALID. -/
def gWd (ctr kv : Nat) (t : Int) : W128 := BitVec.ofNat 128 (ctr + kv * 2 ^ 40 + toBits 16 t * 2 ^ 76 + 2 ^ 96)
/-- Loop 3, band `b` filled. -/
def gBd (b : Nat) (s : State) : State := s.modGrat fun g => { g with
  ent := [(768 + 4 * b, gWd (48 * 4000000000) 5000 0), (769 + 4 * b, gWd (48 * 4000000000) 5000 3840),
          (770 + 4 * b, gWd (48 * 4000000000) 5000 7680), (771 + 4 * b, gWd (48 * 4000000000) 5000 12160)] }
def sLoop (st : LoopSt) : State := gBd 5 ((sTs .locked).modLoop 3 fun l => { l with st := st, ni := 48, nf := 5, comb := some (48, 5) })
def req0 (c : Change) : StoreReq := ⟨none, 0, c, 0, [], 0, 0⟩
def lastQ (s : State) : StoreReq := s.store.q.getLast?.getD (req0 .refresh)
def xq : Xq := ⟨true, false, false, 0⟩
def sl (n : Nat) : Slot := ⟨n * 2 ^ 67, 1, true⟩
/-- channel 96 of octant 3 in TRACK -/
def sCh : State := ((sLoop .locked).modChan 96 fun x => { x with st := .track, out := .own, div := { x.div with k := 1, slots := [(0, sl 10), (1, sl 11), (2, ⟨sl 10 |>.nom, 2, true⟩)] } }).modOct 3 fun o => { o with xSel := xq, xReq := xq, xFcw := xq, xHop := xq, xStamp := xq, vclkRst := false }

/-- What a command measures that measures nothing. -/
def me0 : Meas := ⟨⟨[], [], [], [], [], 0⟩, ⟨0, 0, 0, false⟩, [], false, [], []⟩
/-- The next state of an outcome. -/
def nextOf (o : Host.Outcome State Fault Refusal) : State := match o with
  | .next t => t
  | _ => .reset

/-- A frame of ten edges. -/
def cutFrame : Frame := ⟨false, 0, 0x12, 0x041, 10, [0], true, 0, me0⟩

/-! ## WellFormed refuses, and accepts -/

def badFrame : Frame := ⟨false, 0, 0, 0, 0, [], true, 0, me0⟩
def longFrame : Frame := ⟨false, 0, 0, 0, 64, List.replicate 257 0, true, 0, me0⟩
def badItem : List Item := List.replicate 16 ⟨0, 0, 0⟩
def badCas : CasFrame := ⟨3, false, false, 0, 0, 0, 0, 0, 0⟩

/-- Detectors that see a deviation beyond RATE64, and a cycle whose tuning word has 17 bits. -/
def badTrace : RefTrace := ⟨[], [], some (2 ^ 63), false⟩
def badCyc : List PdCyc := [⟨0, 32768⟩]

/-- An ill-formed term for each check. -/
def illFormed : List Instr := [
  .refinMissingEdge badTrace, .refinLoopWindow badTrace, .measurementLoopLost (some badTrace), .refinFrequencyGate (2 ^ 63) ⟨[], [], none, false⟩,
  .refinFreqWindow (-(2 ^ 63) - 1), .ppsinEdge dtfCount, .tsStart hd 0 (BitVec.ofNat 96 (1000000000 * 2 ^ 18)),
  .tsStartExecute 0 dtfCount, .tsSetOffset hd (2 ^ 63), .tsAdjust hd (2 ^ 63), .hoPredictorUpdate (2 ^ 63) 0 0 0 0,
  .hoPredictorUpdate 0 0 (2 ^ 64) 0 0, .extPeriod (2 ^ 63), .mlLock 0 badCyc, .mlExcursion 0 badCyc, .mlLoss 0 ⟨badCyc, false, none, false⟩,
  .margin 0 (-32769), .relockPlan 0 32768, .chPhaseAdj hd 0 (2 ^ 63),
  .engArrayRebuild (List.replicate 265 (0, 0)), .wakeStepDone (List.replicate 9 (0, 0)), .cobRestart (2 ^ 24 + 1), .brace (2 ^ 24 + 1) .clean,
  .calPartDone 0 ⟨[⟨0, [], [], []⟩], [], [], none, [], [], [], none⟩, .bmRef hd 0 0 [dtfCount], .dsRecordCommit (some (2 ^ 24, true)),
  .mntDtcLoad hd 0 [], .mntTdcLoad hd 0 (.pos []), .mntTdcLoad hd 0 (.rest [] [] 0 0 false 0 0), .regWr badFrame, .regRd badFrame, .bulkWr longFrame,
  .bulkRd badFrame, .nop badFrame, .indWr badFrame, .indRd badFrame, .loop badFrame, .badop 1 cutFrame, .paramRd hd badItem, .paramWr hd badItem,
  .paramDefault hd badItem, .periphEntryDone (List.replicate 8193 0), .eyeScanDone 0 [], .cascadeFrame true badCas 0,
  .bandScanDone (List.replicate 513 ⟨0, 0, 0, none⟩)]
theorem test_ill_formed_refused : illFormed.all (fun i => !i.wf) = true := by decide +kernel
theorem test_well_formed_accepted :
    [Instr.ppsinEdge 5, .mlLock 0 [⟨0, -32768⟩], .regWr cutFrame, .badop 9 cutFrame, .paramRd hd [], .cascadeFrame false badCas 0].all Instr.wf = true := by
  decide +kernel

/-- No word of the table spells a command. -/
theorem test_no_table_word : decodeTableWord 0 0 = none ∧ decodeTableWord 32 0xC0B1 = none := ⟨rfl, rfl⟩

/-! ## The spec's worked examples -/

/-- The homes of SE7 (spec 09): CH37 in slot 6, and the eight channels of its table. -/
theorem test_homes_of_se7 : [51, 52, 41, 42, 47, 32, 37, 38].map (fun c => (hashEng 0x6A3C91F5 c, hashSlot 0x6A3C91F5 c)) =
    [(7, 0), (7, 1), (7, 2), (7, 3), (7, 4), (7, 5), (7, 6), (7, 7)] := by decide +kernel

/-- 322.265625 MHz from a 2.5 GHz comb (spec 02): FCW = 0x007_C1F0_7C1F_07C1_F07C. -/
theorem test_fcw_322 : ratioAt (combOf 40 0) (322265625 * 2 ^ 24) 0 = 0x007C1F07C1F07C1F07C := by decide +kernel

/-- The record of CH200's stamp (spec 02). -/
theorem test_stamp_record : Rec.word ⟨800, 0x5A3, Flags.init, 1000000 * secU + 122500000 * 2 ^ 18 + 10880, 0⟩ =
    0x0000000F42401D34CE802A80320005A3 := by decide +kernel

/-- The RX stamp of CH200 (spec 07): tap 37, Vernier step 19, a slew of +1e-7. -/
theorem test_rx_stamp_of_ch200 :
    let c : CorrSet := ⟨(upTo 64).map fun i => if i = 37 then 151604 else 0, List.replicate 64 4124, List.replicate 32 19470, 458752, true⟩
    c.delay 37 19 = 612806 ∧
    (State.stampAt (State.reset.modTs fun t => { t with
      hist := (upTo 8).map fun j => (((1000000 * secU + 122500000 * 2 ^ 18) * 2 ^ 46 + (3 - j) * (2 ^ 64 + 1844674407371)), 1844674407371) }) 612806)
      = 1000000 * secU + 122500000 * 2 ^ 18 + 173568 := by decide +kernel

/-- The plan of ML6 for a 2.578125 GHz comb (spec 04): band 6 at +6,468, band 7 at −14,273; band 5 lies at +27,261. -/
def sPlan : State := State.reset.modGrat fun g => { g with ent := [
    (256 * 6 + 22, gWd (16 * 10251900000) 35840 7680), (256 * 6 + 23, gWd (16 * 10243800000) 35680 13440),
    (256 * 6 + 26, gWd (16 * 10298400000) 36000 7680), (256 * 6 + 27, gWd (16 * 10290300000) 35840 13440),
    (256 * 6 + 30, gWd (16 * 10345200000) 36160 7680), (256 * 6 + 31, gWd (16 * 10337100000) 36000 13440)] }
theorem test_plan_of_ml6 : [5, 6, 7].map (fun b => sPlan.predict 6 b (vcoOf 41 0x400000) 8000) = [some 27261, some 6468, some (-14273)] := by
  decide +kernel

/-- Servo coefficients (spec 09): KP = 47,700 with S = 49, KI = 33,912 with S = 45. -/
theorem test_servo_coefficients :
    let k := coefsOf (10000 * 2 ^ 24) 724 (2 ^ 24) (1000000 * 2 ^ 24)
    k.1 = 47700 + 65536 * 49 ∧ k.2.1 = 33912 + 65536 * 45 := by decide +kernel

/-- The first slot of the first journal sector is word 468,529 (spec 14). -/
theorem test_first_journal_word : StoreS.wordNo StoreS.init (regBank 0) 0 = 468529 := by decide +kernel

/-- Code byte 0x1234 of slot A lies in slot 68 of sector 17 (spec 20). -/
theorem test_code_byte_0x1234 : StoreS.wordNo StoreS.init (regSlot 0) (2 + 0x123) = 227 * 17 + 68 := by decide +kernel

/-- Clearing ML_EVENT of OCT6 while a LOSS is delivered (spec 17). -/
theorem test_clear_during_a_loss :
    let r1 : RsReg := { RsReg.init with seq := 0x17, ev := 1, n := 23 }
    let r2 := ((r1.noteRead true).raise 9).clear true 0x117
    let r4 := (r2.noteRead true).clear true 0x318
    r1.word = 0x117 ∧ r2.word = 0x318 ∧ r4.word = 0x18 ∧ ((r2.noteRead true).clear true 0x218).word = 0x118 := by decide +kernel

/-- The Graticule entry of ML6, band 6, point 2 as an IND_RD of four words returns it (spec 17). -/
def sEntry : State := (sUp.modGrat fun g => { g with ent := [(1562, gWd (16 * 10298400000) 36000 7680 + 0x187B * 2 ^ 60)] }).modReg fun r =>
  { r with addr := 0x101868 }
theorem test_graticule_entry_read : ((sEntry.indBurst 4).1, (sEntry.indBurst 4).2.2.reg.addr) =
    ([0x5D51D000, 0xB08CA026, 0x01E00187, 0x00000001], 0x10186C) := by decide +kernel

/-- HP_LEN := 0x100 cut after ten edges on four lanes writes 0, and answers TRUNC with COUNT 40 (spec 16). -/
def sLanes : State := sUp.modHp fun h => { h with il := 2, ol := 2 }
theorem test_truncated_hp_len : (nextOf (exec (.regWr cutFrame) sLanes)).hp.len = 0 ∧
    (nextOf (exec (.regWr cutFrame) sLanes)).hp.reply = 0x01120028 := by decide +kernel
/-- With STRICT it is discarded. -/
theorem test_strict_discards : (nextOf (exec (.regWr cutFrame) (sLanes.modHp fun h => { h with strict := true }))).hp.len = 0x800 := by
  decide +kernel

/-- CH_PHASE_ADJ of +1 ns to CH37 with NOTIFY through door 0 (spec 19): BUSY after the ring, then the reply of step 4. -/
def sPost : State := (((sLoop .locked).modOct 1 fun o => { o with xReq := xq }).modChan 37 fun x => { x with st := .track }).modDoor 0 fun d =>
  { d with words := [(0, 0x03040025002000010000000000000025), (1, 0x40000)] }
theorem test_phase_request_reply :
    let t := nextOf (exec (.ring 0 me0) sPost)
    let u := nextOf (exec (.requestJob 7) t)
    (t.door 0).st = .busy ∧ (u.door 0).st = .reply ∧ (u.door 0).words.get 0 0 = 0x03040025002080000000000100000000 ∧
      (u.door 0).words.get 0 1 = 0x40000 := by decide +kernel

/-- The marker interval of IV0 (spec 07): 32,113,597,312 units, NEAR clear. -/
theorem test_marker_interval :
    let s := sUp.modPar fun p => { p with dev := ((p.dev.put P.ivStart 0x800).put P.ivStop 0x321).put P.ivTimeoutT (secU / 2) }
    let s := s.modDevq fun d => { d with xRep := xq }
    let a : Rec := ⟨0x800, 0, Flags.init, 1000000 * secU + 21 * 128, 0⟩
    let b : Rec := ⟨0x321, 0, Flags.init, 1000000 * secU + 122503 * 2 ^ 18 + 1356 * 128, 0⟩
    ((s.ivOrdered 0 (a, false)).ivOrdered 0 (b, false)).iv.ring.map (fun w => w.2.toNat % 2 ^ 64) = [0x000000077A1E9B80] := by decide +kernel

/-- The PPSIN latch (spec 18): four words of the first record, though the next one arrives in between. -/
theorem test_pps_latch :
    let rec0 : Rec := ⟨0x800, 0x3E8, Flags.init, 1000000 * secU + 2688, 0⟩
    let s := sUp.setLatch 2 rec0.word
    let r0 := s.regRead .host 0x188
    let s1 := r0.st.setLatch 2 (Rec.word ⟨0x800, 0x3E9, Flags.init, 1000001 * secU, 0⟩)
    (r0.val, (s1.regRead .host 0x189).val, (s1.regRead .host 0x18A).val, (s1.regRead .host 0x18B).val, (s1.regRead .host 0x188).val) =
      (0x800003E8, 0x00000A80, 0x42400000, 0x0000000F, 0x800003E9) := by decide +kernel

/-- The first three edges of CH200 at 322.265625 MHz with the nominal table (spec 05): r16, coarse cells and fine code. -/
theorem test_dtc_edges :
    (upTo 3).map (fun i => let r := r16Of 0xC1F07C1F07C1F07C (i + 1); (r, State.reset.dtcLaunch 200 r)) =
      [(0xC1F0, 18, 589), (0x83E0, 12, 837), (0x45D1, 6, 1085)] := by decide +kernel

/-! ## The package (spec 22) -/

def allBalls : List Ball := (upTo 51).flatMap fun r => (upTo 51).map fun c => ballAt (r + 1) (c + 1)
/-- R855: balls of VDD, VDDA, VAON, VDDIO, two of the four VDDO, VSS. -/
theorem test_supply_counts : [Supply.vdd, .vdda, .vaon, .vddio, .vddo 0, .vddo 3, .vss].map (fun x => allBalls.countP fun b => b = .supply x) =
    [200, 64, 4, 12, 66, 66, 693] := by decide +kernel
/-- The tile of CH37 and row BB (spec 22's example): C22, C25, D23, D25. -/
theorem test_tile_of_ch37 : [ballAt 3 22, ballAt 3 25, ballAt 4 23, ballAt 4 25] =
    [.signal (.cko 37) false, .signal (.mrk 37) false, .signal (.cki 37) true, .supply (.vddo 0)] ∧ rowName 40 = ['B', 'B'] := by decide +kernel

/-! ## States and operands that meet the statements' hypotheses -/

def sPps : State := (sTs .locked).modPps fun p => { p with qual := true, last := some 0 }
def sBnd (st : TsState) : State := (sTs st).modTs fun t => { t with role := .bnd }
def sF (st : TsState) : State := (sTs st).modTs fun t => { t with role := .bnd, upOnce := true }
def sQ (st : TsState) : State := (sTs st).modPps fun p => { p with qual := true }
def sExt : State := (sTs .locked).modPar fun p => (p.setDev P.extMode (some 1)).setDev P.extGain (some 1000)
def sAcq (f : Loop → Loop) (st : LoopSt) : State := (sLoop st).modLoop 3 f
def sFc (f : FcwRec) (l : Nat) : State := sCh.modOct 3 fun o => { o with fcw := [(l, f)] }
def sMk : State := sCh.modPar fun p => { p with own := p.own.put (ownKey 96 P.mrkMode) 2 }
def sPu (m : Nat) : State := (sCh.modPar fun p => { p with own := p.own.put (ownKey 96 P.mrkMode) m }).modSrv 96 fun v => { v with anchor := some 5 }
def sJob (q : Req) : State := sCh.modEng 12 fun g => { g with q := [.req 96 q] }
def tv : Trav := { Trav.init with pCmd := 100, pReal := 50, guard := 77 }
def sE : State := ((sTs .locked).modTs fun t => { t with dts := 5 * secU * 2^46 }).modDll 8 fun d => { d with lock := true }
def sE0 : State := (sE.modPar fun p => { p with own := (p.own.put (ownKey 96 P.rxMode) 1).put (ownKey 96 P.rxDecim) 2 }).modDll 3 fun d => { d with lock := true }
def r0 (src t : Nat) : Rec := ⟨src, 0, Flags.init, t, 0⟩
def sR : State := (sE.modCore (devCore 0) fun c => { c with held := [r0 0x800 (5*secU)] }).modDevq fun q => { q with xStamp := xq }
def sRo (x : Xq) : State := (sE0.modCore (rxCore 96) fun c => { c with held := [r0 384 (5*secU)] }).modOct 3 fun o => { o with xStamp := x }
def sIv (m : Nat) (f : Pair → Pair) : State := ((sUp.modPar fun p => (((p.setDev (P.ivMode + 8) (some m)).setDev (P.ivStart + 8) (some 384)).setDev (P.ivStop + 8) (some 388)).setDev (P.ivTimeoutT + 8) (some 1000)).modPair 2 f).modDevq fun q => { q with xRep := xq }
def sRing : State := { sUp with ring := { sUp.ring with ring := (upTo 20).map (r0 384) } }
def sG (f : RgSlot → RgSlot) : State := ((sUp.modPar fun p => ((p.setDev (P.rgMode + 8) (some 2)).setDev (P.rgGate + 8) (some secU)).setDev (P.rgFnom + 8) (some (10^6 * 2^24))).modSlot 1 f).modDevq fun q => { q with xRep := xq }
def rr : RgRes := ⟨1,2,3,4,5,6,7,true⟩
def sRun : State := (((sCh.modTs fun t => { t with dts := 5 * secU * 2^46 }).modPar fun p => { p with own := (p.own.put (ownKey 96 P.hopFreq0) (10^8 * 2^24)).put (ownKey 96 P.fmax) (10^9 * 2^24) }).modSrv 96 fun v => { v with anchor := some (5 * secU), tCmd := 10 * 2^18 }).modTs fun t => t
def hm (c : Nat) : EngIx := Fin.ofNat 32 ((sRun.homeOf c).getD 0)
def sQ6 : State := sRun.modOct 3 fun o => { o with stampQ := [r0 386 (5 * secU), r0 384 5] }
def sSt (l : List Job) : State := sRun.modEng (hm 96) fun g => { g with q := l }
def bk : Back := ⟨.init, .init, .idle, 0, 0⟩
def sJ : State := sSt [.steer 96 (r0 386 (5 * secU + 10 * 2^18))]
def sJt : State := sRun.modEng 1 fun g => { g with q := [.ts (r0 0x800 (5 * secU))] }
def hr : HopRep := ⟨96, 1, 5, none, false, 96⟩
def js : Job := .steer 96 (r0 386 5)
def sSteal : State := sRun.modEng 12 fun g => { g with q := [js], settle := List.replicate 40 (.chan 97 3 bk) }
def sLost : State := { sSteal with arr := { sSteal.arr with lost := true } }
def sId (f : Chan → Chan) : State := sRun.modChan 96 fun x => f { x with st := .idle }
def sBy (m : Mode) : State := (sRun.modChan 96 fun x => { x with st := .bypass, cause := .restart }).modPwr fun p => { p with mode := m }
def hn (st ag : Nat) : Hand := ⟨96, st, ag, 0, 0, true, .init, 0⟩
def sH (st ag : Nat) : State := sRun.modOct 3 fun o => { o with hand := some (hn st ag), welt := .loan 96 }
def sTk (st : ChState) : State := (sRun.modOct 3 fun o => { o with welt := .takeover 96 }).modChan 259 fun x => { x with st := st }
def sClr (m : Mode) (b : Bool) : State := ((((nextOf (exec (.dsRecordCommit none) (sRun.modStore fun d => d))).modStore fun d => { d with ret := d.ret.put (retKey 0 96) (retireWord 0 96 5 0 0) }).modCal fun k => { k with checked := if b then [retKey 0 96] else [] }).modPwr fun p => { p with mode := m }).modChan 96 fun x => { x with st := .retired }
def sStow : State := sUp.modPwr fun p => { p with mode := .stowed }
def inM (m : Mode) (s : State) : State := s.modPwr fun p => { p with mode := m }
def sW (n : Nat) : State := (inM .wake sUp).modPwr fun p => { p with step := n }
def sB (f : Mode) : State := (inM .bypass (sTs .locked)).modPwr fun p => { p with bypFrom := f, bypCause := 1 }
def sR2x : State := sCh.modPwr fun p => { p with rail := 0xFF }
def sBr (shed : Bool) : State := sCh.modPwr fun p => { p with brace := true, braceDone := true, pfail := true, shed := shed }
def noEng : State := sCh.setPwr pdEng false
def dl (k : Nat) (s : State) : State := s.modDll k fun d => { d with lock := true }
def sC : State := dl 8 (dl 3 sCh)
def lastRun (o : Host.Outcome State Fault Refusal) : CalRun := (nextOf o).cal.runs.getLast?.getD ⟨0,0,0,false,0,0,[],[],[],[],none,[],[],0,0,false,none,[],[],[],none,[],0,0,0,0,false,false⟩
def sNq : State := { sC with ref := { sC.ref with qual := false } }
def sSv : State := (inM .survey ((upTo 9).foldl (fun s k => dl k s) ((upTo 8).foldl (fun s k => (s.modLoop k fun l => { l with st := .locked })) sC)))
def sRn : State := nextOf (exec (.calRun hd 96 true) sC)
def rn : CalRun := lastRun (.next sRn)
def hs : Hist := ⟨Fin.ofNat 532 (rxCore 96), List.replicate 2048 2048, List.replicate 2048 2048, List.replicate 16 (List.replicate 64 (2048*32/8))⟩
def m0 : PartMeas := ⟨[hs], [], [], none, [], [], [], none⟩
def rn5 : CalRun := { rn with part := 5 }
def sRn5 : State := sRn.modCal fun c => { c with runs := [rn5] }
def sSc : State := (sC.modPar (·.setDev P.calSched (some 1))).modCal fun c => { c with due := [96] }
def sMe : State := ((sC.modCal fun c => { c with meas := [(rxCore 96, (5, 100))] }).modTs fun t => { t with dts := 100 * 86400 * secU * 2^46 })
def bmS : State := nextOf (exec (.bmOpen hd 7 8 9) sC)
def bm0 : Bench := bmS.cal.bench.getD ⟨hd,0,0,0,0,0,0,0,none,[],[]⟩
def lm (h : Bool) : LoopMeas := ⟨1000000, 900000, 50, h⟩
def bmL : State := nextOf (exec (.bmLoop hd 96 1 100 8 (lm false)) bmS)
def up (s : State) : State := s.modPwr fun p => { p with holdup := true }
def gp (r : StoreReq) (s : State) : Prog := match (up s).plan r with | .go p => p | _ => ⟨0,0,0,0,[],0,0,9⟩
def rE : StoreReq := ⟨some hd, 0x0C01, .epoch 7 9, 0, [], 5, 0⟩
def sQ2x (l : List StoreReq) : State := sC.modStore fun d => { d with q := l }
def rBt : StoreReq := ⟨none, 0, .boot 1 2 2, 0, [], 5, 0⟩
def wt (s : State) : State := (s.modStore fun d => { d with wait := true }).modPwr fun p => { p with holdup := false }
def sPr : State := (sQ2x [rE]).modStore fun d => { d with prog := some ⟨0x10, 1, regBank 0, 0, [1, 2, 3], 5, 0, 0⟩ }
def pP : Prog := ⟨0x10, 1, regBank 0, 0, [1, 2, 3], 5, 0, 0⟩
def sPr1 : State := sPr.modStore fun d => { d with prog := some { pP with ty := 0x11 } }
def m4 : PartMeas := ⟨[], [], [], some (5, 5, 5), [], [], [], none⟩
def rn4 : CalRun := { rn with part := 4 }
def sRn4 : State := sRn.modCal fun c => { c with runs := [rn4] }
def pr4 : CalRun := { rn4 with skew := some (5, (sRn4.oct 3).temp) }
def mem (f : StoreS → StoreS) (s : State) : State := s.modStore f
def er : StoreS → StoreS := fun d => { d with erasing := some (3088, 3088, 3088, 1) }
def sFl : State := mem (fun d => { d with flash := [(227 * 2064, ⟨0, .clean⟩), (227 * 2064 + 1, ⟨5, .clean⟩), (227 * 2064 + 2, ⟨5, .clean⟩)] }) sUp
def dl2x : List (BitVec 32) := (List.range 24).map fun i => BitVec.ofNat 32 (40 * i + i * 2^23)
def tp : List (BitVec 18) := (List.range 64).map fun i => BitVec.ofNat 18 (10 * i)
def sRow (f x : Nat) : State := sUp.modOtp fun o => { o with rows := [(f, x, some hd), (1, 5, none)] }
def im (t : Bool) : Img := ⟨1, false, t, 3, 4, 2⟩
def sIm (t : Bool) : State := { sUp with img := some (im t) }
def gm : GwMeas := ⟨[], [], [], [], [], 0⟩
def lh (n : Nat) (s : State) : State := s.modGw fun g => { g with secs := n }
def recAt (r i ty gen : Nat) (pay : List Nat) : StoreS → StoreS := fun d => StoreS.program r i ((recWords ty gen 5 pay).map fun w => ⟨BitVec.ofNat 128 w, .clean⟩) d
def sBe : State := mem (recAt regBench 0 0x30 7 [5,6]) sUp
def vn : List (BitVec 16) := ((List.range 32).map (BitVec.ofNat 16 ·))
def sP02x : State := ((sTs .locked).modTs fun t => { t with dts := 50 * secU * 2^46 }).modCal fun c => { c with part0 := some (100, tp.map (·.toNat), 45 * secU) }
def sAg : State := mem (recAt regAge 5 0x20 2 [8]) (mem (recAt regAge 0 0x20 1 [5,6]) sUp)
def ix : Nat := (gwIx 3 96).getD 0
def sWant (w : Nat) : State := sCh.modGw fun g => { g with inst := g.inst.put ix { GwInst.init with want := w } }
def fr (door : Nat) (addr edges : Nat) (pay : List (BitVec 32)) : Frame := ⟨false, Fin.ofNat 8 door, 0x5A, BitVec.ofNat 16 addr, BitVec.ofNat 32 edges, pay, true, 0, me0⟩
def hpl (n : Nat) (s : State) : State := s.modHp fun h => { h with len := n }
def dr (n : Nat) (f : Door → Door) (s : State) : State := s.modDoor n f
def stm : Stream := ⟨0x0601, 7, hd, false, 0, [5,6], 0, 0, false, 96⟩
def sStm : State := dr 4 (fun d => { d with words := [(0, 99), (1, 2^127+5)], st := .reply, stream := some stm }) sUp
def sDel : State := sUp.modHp fun h => { h with nOut := 32, out := [77], fx := .ind 9, reply := 5 }
def sArm : State := sUp.modReg fun r => { r with armed := true }
def stm2x : Stream := ⟨0x0802, 7, hd, true, 0, [5,6], 100, 0, false, 96⟩
def sStm2x : State := dr 4 (fun d => { d with words := [(0, 99), (1, 2^127+5)], st := .reply, stream := some stm2x }) sUp
def rs0 : RsReg := RsReg.init.raise 3
def rr2x (src t : Nat) : Rec := ⟨src, 0, Flags.init, t, 0⟩
def atA (a : Nat) : State := (sCh).modReg fun r => { r with addr := a }
def msgHead (cmd tag : Nat) (s : State) : State := dr 1 (fun d => { d with words := [(0, BitVec.ofNat 128 (fld 112 16 cmd + fld 96 16 tag + fld 80 16 16))] }) s
def ev0 : Event := ⟨0x8101, 5, 6, 7⟩
def sEv : State := (dr 6 (fun d => { d with st := .reply }) sUp).modMbox fun m => { m with evq := [ev0, ev0] }
def so (n : Nat) (l : Bool) : Stream := ⟨0x0601, 7, hd, false, 2, List.replicate n 5, 0, 0, l, 96⟩
def sSo (st : Stream) : State := dr 4 (fun d => { d with words := [(0, 99), (1, 2^127+5)], st := .reply, stream := some st }) sUp
def si : Stream := ⟨0x0802, 7, hd, true, 3, [], 1000000, 0, false, 96⟩
def hOk : Nat := fld 80 16 0x0802 + fld 64 16 7 + fld 32 32 3 + 2^17 + 64
def sIn (w : Nat) (st : Stream) : State := dr 4 (fun d => { d with words := [(0, BitVec.ofNat 128 w), (1, 2^127+5)], st := .reply, stream := some st }) sUp
def h1 : Hdr := ⟨1, 9, false, false⟩
def it (id ch v : Nat) : Item := ⟨BitVec.ofNat 16 id, BitVec.ofNat 12 ch, BitVec.ofNat 96 v⟩
def ri (l : List Item) (s : State) : List Nat := match (s.taken hd).readItems 0 l with | .ok w => w | .error _ => []
def re (l : List Item) (s : State) : Rep := match (s.taken hd).readItems 0 l with | .ok _ => .ok | .error e => e
def bad (l : List Item) (s : State) : Rep := ((s.taken hd).badparam 0 l).getD .ok
def we (d : Bool) (l : List Item) (s : State) : Rep := ((s.taken hd).writeErr 0 (l.map (itemWrite d))).getD .ok
def lu : State := sUp.modPar fun p => { p with own := p.own.put (ownKey 96 P.chLast) 5 }
def ls : State := sUp.modPar fun p => { p with lasts := [(3, [])] }
def tr (k u p : Nat) : TestRun := ⟨k, u, p, 10, false, none, 0, 0, 0, patStart p, ⟨0,0,0,0⟩, none⟩
def wT (l : List TestRun) (s : State) : State := { s with tests := l }
def sT : State := (wT [tr 0 97 3, tr 1 97 1, tr 3 0 1] sCh).modChan 97 fun x => { x with st := .test }
def d6 (s : State) : State := s.modDoor 6 fun d => { d with st := .reply }
def te : TestRun := { tr 0 97 3 with sync := true, eye := some (hd, 4) }
def im2x (s : Bool) : State := { sUp with img := some ⟨1, s, false, 3, 4, 2⟩ }
def fw (c : WCls) : FWord := ⟨77, c⟩
def sPf (c : WCls) : State := (im2x false).modStore fun d => StoreS.program (regSlot 1) 10 [fw .clean, fw c, fw .corrected, fw .clean] d
def cl (s : State) (n : Nat) : List FWord := (s.codeLine 1 n).getD []
def pe (d : Bool) : PEntry := ⟨periphCtl 4096 0 4 3 false false false, [1,2], d⟩
def sPe (d : Bool) : State := sCh.modPer fun p => { p with q := [pe d, pe false] }
def sCas (r : Nat) : State := { sTs .locked with cas := { CasS.init with role := r, up := true, run := 64, last := some 9 }, devq := { sUp.devq with xCas := xq } }
def cf (role : Nat) (seq : Nat) (ok : Bool) : CasFrame := ⟨BitVec.ofNat 2 role, false, ok, BitVec.ofNat 16 seq, 0, 5, 3, BitVec.ofNat 96 (dtfOf (7 * secU)), 0⟩
def sTr : State := ({ sCas 2 with cas := { (sCas 2).cas with up := false } }.modPwr fun p => { p with mode := .wake, step := 5 }).modPar (·.setDev P.casRole (some 2))
def cyc (n : Nat) (d : Int) : List PdCyc := List.replicate n ⟨d, 0⟩
def rt (l : List PdCyc) : RefTrace := ⟨l, [], none, false⟩
def sOff : State := sUp.setPwr pdRef false
def sFr : State := sUp.modRef fun r => { r with qual := false, lock := false, frozen := true }
def sTick : State := sUp.modTs fun t => { t with st := .free, dts := 10 ^ 9 * 2 ^ 64, edges := 1000, rate := 2 ^ 30, trav := { t.trav with pCmd := 10 ^ 9, pReal := 0 } }
def ageP (h v : Nat) : List Nat := [0, 0, 2 ^ 64 * v, 0, 0, 0, 0, 0, 2 ^ 40 * h]
def sG6 : State := ((sTs .free).modPar fun p => ((p.setDev P.hoModel (some 1)).setDev P.gwFitMin (some 4)).setDev P.gwTau (some 3600)).modStore fun d => { d with q := (upTo 6).map fun i => ⟨none, 0, .age (ageP (160 * i) (1000 + 77 * i)), 0, [], 0, 0⟩ }
def g6s : Int × Nat := sG6.g6Slope.getD (0, 0)
def mtr (l : List PdCyc) (e : Option Nat) (m a : Bool) : MlTrace := ⟨l, m, e, a⟩
def sRb : State := (sAcq (fun l => { l with restore := true }) .locked).modStore fun d => { d with att := 1, q := [⟨none, 0, .refresh, 0, [], 0, 0⟩, ⟨none, 0, .refresh, 0, [], 0, 0⟩] }
def sSw (y : OutSrc) : State := (sLoop .locked).modChan 96 fun x => { x with out := .own, sw := some (y, false) }
def sChI : State := sCh.modChan 96 fun x => { x with st := .idle }
def scan1 : List BandCount := (upTo 64).map fun b => ⟨0, Fin.ofNat 64 b, 0, some (1, 2, 3)⟩
def sScan : State := sUp.modGrat fun g => { g with scans := [(none, 1)] }
def sFullQ : State := sCh.modEng (hm 96) fun g => { g with q := List.replicate 16 (.req 97 .start) }
def sHop : State := sRun.modOct 3 fun o => { o with hopQ := [hr] }
def sHopJ : State := sRun.modEng 13 fun g => { g with q := [.hop hr] }
def sShed : State := sRun.modEng 13 fun g => { g with ran := [(5 * secU, true), (5 * secU, false)] }
def sWh : State := sRun.modEng 1 fun g => { g with q := [.whole (r0 0x800 (5 * secU))] }
def t9 (s : State) : State := s.modTs fun t => { t with st := .free, dts := 9 * secU * 2 ^ 46 }
def later (n : Nat) (s : State) : State := s.modTs fun t => { t with dts := n * secU * 2 ^ 46 }
def sAh : State := mem (recAt regAge 200 0x20 1 [5,6]) sUp
def sNoRead : State := (sPf .clean).modPwr fun p => { p with brace := true }

theorem hyps_StepRunsFrontCommand :
    ∃ (c : Instr) (q : List Instr) (s : State), s.pending = c :: q :=
   ⟨.ppsLost, [.hoQual], { sUp with pending := [.ppsLost, .hoQual] }, by decide +kernel⟩

theorem hyps_IdleStepIsAnSclkEdge :
    (∃ (s : State), s.pending = []) ∧
    (∃ (s : State), s.pending = [] ∧ (s.ts.st = .stopped ∨ s.ref.sclkOk = false ∨ s.domOn pdRef = false)) :=
   ⟨⟨sTs .locked, by decide +kernel⟩,
    ⟨sUp, by decide +kernel⟩⟩

theorem hyps_RefinLossAndReturn :
    (∃ (tr : RefTrace) (s : State), s.ref.qual = true ∧ ¬ (s.ref.lock = true ∧ s.pv P.refLosscnt ≤ s.pdOut tr.cyc) ∧ ¬ (s.ts.role = .gm ∧
      s.pps.qual = true ∧ ∃ d, tr.dev = some d ∧ s.pi P.refFwin < (d.natAbs : Int))) ∧
    (∃ (tr : RefTrace) (s : State), s.ref.qual = true ∧ (s.ref.lock = true ∧ s.pv P.refLosscnt ≤ s.pdOut tr.cyc) ∧ ¬ (s.ts.role = .gm ∧
      s.pps.qual = true ∧ ∃ d, tr.dev = some d ∧ s.pi P.refFwin < (d.natAbs : Int))) ∧
    (∃ (tr : RefTrace) (s : State), s.ref.qual = true ∧ (s.ref.lock = true ∧ s.pv P.refLosscnt ≤ s.pdOut tr.cyc) ∧ ¬ (s.ts.role = .gm ∧
      s.pps.qual = true ∧ ∃ d, tr.dev = some d ∧ s.pi P.refFwin < (d.natAbs : Int))) ∧
    (∃ (dev : Int) (tr : RefTrace) (s : State), s.ref.qual = true ∧ (s.ts.role = .gm ∧ s.pps.qual = true ∧ ∃ d, (some dev) = some d ∧
      s.pi P.refFwin < (d.natAbs : Int))) ∧
    (∃ (tr : RefTrace) (s : State), s.ref.qual = true ∧ ¬ (s.ref.lock = true ∧ s.pv P.refLosscnt ≤ s.pdOut tr.cyc) ∧ ¬ (s.ts.role = .gm ∧
      s.pps.qual = true ∧ ∃ d, tr.dev = some d ∧ s.pi P.refFwin < (d.natAbs : Int)) ∧ tr.missing = false) ∧
    (∃ (dev : Int) (tr : RefTrace) (s : State), s.ref.qual = true ∧ ¬ (s.ref.lock = true ∧ s.pv P.refLosscnt ≤ s.pdOut tr.cyc) ∧ ¬ (s.ts.role = .gm ∧
      s.pps.qual = true ∧ ∃ d, (some dev) = some d ∧ s.pi P.refFwin < (d.natAbs : Int)) ∧ tr.missing = false) ∧
    (∃ (tr : RefTrace) (s : State), s.ref.qual = false ∧ s.ref.qualT = false) ∧
    (∃ (dev : Int) (s : State), s.ref.qual = false ∧ s.ref.frozen = true) ∧
    (∃ (cyc : List PdCyc) (s : State), s.ref.lock = false ∧ s.ref.frozen = false ∧ s.domOn pdRef = true ∧ s.pdLocks cyc = true) ∧
    (∃ (cyc : List PdCyc) (s : State), s.ref.lock = false ∧ s.ref.frozen = false ∧ s.domOn pdRef = true ∧ s.pdLocks cyc = false) ∧
    (∃ (cyc : List PdCyc) (s : State), (s.ref.lock = true ∨ s.ref.frozen = true ∨ s.domOn pdRef = false)) ∧
    (∃ (cyc : List PdCyc) (s : State), s.ref.qual = false ∧ s.ref.frozen = true ∧ s.ref.winOk = true) ∧
    (∃ (cyc : List PdCyc) (s : State), (s.ref.qual = true ∨ s.ref.frozen = false ∨ s.ref.winOk = false)) :=
   ⟨⟨rt [], sUp, by refine ⟨by decide +kernel, by decide +kernel, fun h => absurd h.2.1 (by decide +kernel)⟩⟩,
    ⟨rt (cyc 64 (2 ^ 40)), sUp, by refine ⟨by decide +kernel, by decide +kernel, fun h => absurd h.2.1 (by decide +kernel)⟩⟩,
    ⟨rt (cyc 64 (2 ^ 40)), sUp, by refine ⟨by decide +kernel, by decide +kernel, fun h => absurd h.2.1 (by decide +kernel)⟩⟩,
    ⟨2 ^ 62, rt [], sUp.modPps fun p => { p with qual := true }, by exact ⟨by decide +kernel, by decide +kernel, by decide +kernel, _, rfl, by decide +kernel⟩⟩,
    ⟨rt [], sUp, by refine ⟨by decide +kernel, by decide +kernel, fun h => absurd h.2.1 (by decide +kernel), rfl⟩⟩,
    ⟨5, rt (cyc 3 7), sUp, by refine ⟨by decide +kernel, by decide +kernel, fun h => absurd h.2.1 (by decide +kernel), rfl⟩⟩,
    ⟨rt [], sFr, by decide +kernel⟩,
    ⟨2^62, sUp.modRef fun r => { r with qual := false, frozen := true }, by decide +kernel⟩,
    ⟨cyc 1024 0, sUp.modRef fun r => { r with lock := false }, by decide +kernel⟩,
    ⟨cyc 1023 0, sUp.modRef fun r => { r with lock := false }, by decide +kernel⟩,
    ⟨cyc 1024 0, sUp, by decide +kernel⟩,
    ⟨cyc 1024 5, sFr.modRef fun r => { r with winOk := true }, by decide +kernel⟩,
    ⟨[], sUp, by decide +kernel⟩⟩

theorem hyps_MeasurementLoopAndPpsin :
    (∃ (also : Option RefTrace) (s : State), s.domOn pdRef = true) ∧
    (∃ (also : Option RefTrace) (s : State), s.domOn pdRef = false) ∧
    (∃ (t : Nat) (s : State), s.ts.st ≠ .stopped ∧ s.pps.qual = true ∧
      (∀ l, s.pps.last = some l → (decide (((stampDiff t l - secU).natAbs : Int) ≤ s.pi P.ppsWin)) = true)) ∧
    (∃ (t : Nat) (l : Nat) (s : State), s.ts.st ≠ .stopped ∧ s.pps.qual = true ∧ s.pps.last = some l ∧
      (decide (((stampDiff t l - secU).natAbs : Int) ≤ s.pi P.ppsWin)) = false) ∧
    (∃ (t : Nat) (l : Nat) (s : State), s.ts.st ≠ .stopped ∧ s.pps.qual = false ∧ s.pps.run = 1 ∧ s.pps.last = some l ∧
      (decide (((stampDiff t l - secU).natAbs : Int) ≤ s.pi P.ppsWin)) = true) ∧
    (∃ (t : Nat) (l : Nat) (s : State), s.ts.st ≠ .stopped ∧ s.pps.qual = false ∧ s.pps.run = 0 ∧ s.pps.last = some l ∧
      (decide (((stampDiff t l - secU).natAbs : Int) ≤ s.pi P.ppsWin)) = true) ∧
    (∃ (t : Nat) (s : State), s.ts.st ≠ .stopped ∧ s.pps.qual = false ∧
      (∀ l, s.pps.last = some l → (decide (((stampDiff t l - secU).natAbs : Int) ≤ s.pi P.ppsWin)) = false)) ∧
    (∃ (t : Nat) (s : State), s.ts.st = .stopped) ∧
    (∃ (l : Nat) (s : State), s.ts.st ≠ .stopped ∧ s.pps.qual = true ∧ s.pps.last = some l ∧ (secU : Int) + s.pi P.ppsWin < stampDiff s.now l) ∧
    (∃ (l : Nat) (s : State), s.ts.st ≠ .stopped ∧ s.pps.last = some l ∧ stampDiff s.now l ≤ (secU : Int) + s.pi P.ppsWin) :=
   ⟨⟨none, sTs .locked, by decide +kernel⟩,
    ⟨none, sOff, by decide +kernel⟩,
    ⟨secU, sPps, by decide +kernel⟩,
    ⟨secU / 2, 0, sPps, by decide +kernel⟩,
    ⟨secU, 0, sPps.modPps fun p => { p with qual := false, run := 1 }, by decide +kernel⟩,
    ⟨secU, 0, sPps.modPps fun p => { p with qual := false, run := 0 }, by decide +kernel⟩,
    ⟨secU/2, sPps.modPps fun p => { p with qual := false, run := 1 }, by decide +kernel⟩,
    ⟨secU, sUp, by decide +kernel⟩,
    ⟨0, sPps.modTs fun t => { t with dts := 2 * secU * 2 ^ 46 }, by decide +kernel⟩,
    ⟨0, sPps, by decide +kernel⟩⟩

theorem hyps_TsStartArmsAndExecutes :
    (∃ (h : Hdr) (v : BitVec 96) (s : State), Taken h 0x0401 s ∧ s.ts.st = .stopped ∧ dtfOk v.toNat = true ∧ s.domOn pdRef = true) ∧
    (∃ (h : Hdr) (v : BitVec 96) (s : State), Taken h 0x0401 s ∧ s.ts.st = .stopped ∧ dtfOk v.toNat = true ∧ s.domOn pdRef = true) ∧
    (∃ (h : Hdr) (v : BitVec 96) (s : State), Taken h 0x0401 s ∧ s.ts.st = .stopped ∧ dtfOk v.toNat = true ∧ s.domOn pdRef = true) ∧
    (∃ (h : Hdr) (mode : Fin 3) (v : BitVec 96) (s : State), Taken h 0x0401 s ∧ s.ts.st ≠ .stopped) ∧
    (∃ (lead : BitVec 96) (d : Nat) (s : State), s.ts.st = .stopped ∧ s.domOn pdRef = true) :=
   ⟨⟨hd, 2^48, sUp, by unfold Taken; decide +kernel⟩,
    ⟨hd, 2^48, sUp, by unfold Taken; decide +kernel⟩,
    ⟨hd, 2^48, sUp, by unfold Taken; decide +kernel⟩,
    ⟨hd, 1, 2^48, sTs .free, by unfold Taken; decide +kernel⟩,
    ⟨2^48, 5, sUp.modTs fun t => { t with armed := some (.pps secU) }, by decide +kernel⟩⟩

theorem hyps_TsStopHoldRelease :
    (∃ (h : Hdr) (s : State), Taken h 0x0402 s ∧ s.pwr.mode = .survey) ∧
    (∃ (h : Hdr) (s : State), Taken h 0x0402 s ∧ s.pwr.mode ≠ .survey) ∧
    (∃ (h : Hdr) (s : State), Taken h 0x0405 s ∧ s.ts.st = .locked) ∧
    (∃ (h : Hdr) (s : State), Taken h 0x0405 s ∧ s.ts.st ≠ .locked) ∧
    (∃ (h : Hdr) (s : State), Taken h 0x0406 s ∧ s.ts.st = .coasting) ∧
    (∃ (h : Hdr) (s : State), Taken h 0x0406 s ∧ s.ts.st ≠ .coasting) :=
   ⟨⟨h7, (sTs .free).modPwr fun p => { p with mode := .survey }, by unfold Taken; decide +kernel⟩,
    ⟨h7, sTs .free, by unfold Taken; decide +kernel⟩,
    ⟨hd, sTs .locked, by unfold Taken; decide +kernel⟩,
    ⟨hd, sTs .free, by unfold Taken; decide +kernel⟩,
    ⟨hd, sTs .coasting, by unfold Taken; decide +kernel⟩,
    ⟨hd, sTs .free, by unfold Taken; decide +kernel⟩⟩

theorem hyps_TsRequestsMovePhaseCommand :
    (∃ (h : Hdr) (o : Int) (s : State), Taken h 0x0403 s ∧ tivOk o = true ∧ s.ts.role = .bnd ∧
      (h.force = true ∨ ((o - s.ts.o).natAbs : Int) ≤ s.pi P.tsOfsStepMax) ∧ (s.ts.st = .coasting ∨ s.ts.st = .stopped)) ∧
    (∃ (h : Hdr) (o : Int) (s : State), Taken h 0x0403 s ∧ tivOk o = true ∧ s.ts.role = .bnd ∧
      (h.force = true ∨ ((o - s.ts.o).natAbs : Int) ≤ s.pi P.tsOfsStepMax) ∧ s.ts.st ≠ .coasting ∧ s.ts.st ≠ .stopped ∧
      s.tsRange (o - s.ts.o) = false) ∧
    (∃ (h : Hdr) (o : Int) (s : State), Taken h 0x0403 s ∧ tivOk o = true ∧ s.ts.role ≠ .bnd) ∧
    (∃ (h : Hdr) (d : Int) (s : State), Taken h 0x0404 s ∧ tivOk d = true ∧ s.ts.st = .free ∧ s.tsRange d = false) ∧
    (∃ (h : Hdr) (d : Int) (s : State), Taken h 0x0404 s ∧ tivOk d = true ∧ s.ts.st ≠ .free) :=
   ⟨⟨hd, 5, sBnd .coasting, by unfold Taken; decide +kernel⟩,
    ⟨hd, 5, sBnd .locked, by unfold Taken; decide +kernel⟩,
    ⟨hd, 5, sTs .locked, by unfold Taken; decide +kernel⟩,
    ⟨hd, 5, sTs .free, by unfold Taken; decide +kernel⟩,
    ⟨hd, 5, sTs .locked, by unfold Taken; decide +kernel⟩⟩

theorem hyps_TsUpstreamAndRole :
    (∃ (s : State), (s.ts.role = .fol ∨ s.ts.role = .bnd ∧ s.bndSilent = true) ∧ s.ts.upOnce = true ∧ (s.ts.st = .acquiring ∨ s.ts.st = .locked)) ∧
    (∃ (s : State), s.bndSilent = false ∧ s.ts.role ≠ .fol) ∧
    (∃ (s : State), s.bndSilent = true ∧ s.ts.role = .gm) ∧
    (∃ (s : State), s.ts.st = .coasting ∧ s.upQual = true ∧ s.ts.forced = false) ∧
    (∃ (s : State), (s.ts.st ≠ .coasting ∨ s.upQual = false ∨ s.ts.forced = true)) ∧
    (∃ (r : Role) (s : State), s.ts.rolePend = some r) ∧
    (∃ (r : Nat) (s : State), s.cas.rolePend = some r) ∧
    (∃ (s : State), s.ts.rolePend = none ∧ s.cas.rolePend = none) :=
   ⟨⟨sF .locked, by decide +kernel⟩,
    ⟨(sTs .locked).modTs fun t => { t with bndLast := some (0, 0) }, by decide +kernel⟩,
    ⟨sUp, by decide +kernel⟩,
    ⟨sQ .coasting, by decide +kernel⟩,
    ⟨sQ .locked, by decide +kernel⟩,
    ⟨.fol, sUp.modTs fun t => { t with rolePend := some .fol }, by decide +kernel⟩,
    ⟨2, sUp.modCas fun t => { t with rolePend := some 2 }, by decide +kernel⟩,
    ⟨sUp, by decide +kernel⟩⟩

theorem hyps_TsTimerEvents :
    (∃ (e : Nat) (s : State), s.engReady = true ∧ s.onTick = true ∧ s.ts.st ≠ .stopped ∧ s.ts.trav.res ≠ 0 ∧ s.ts.trav.paused = false ∧
      (upTo 32).any (fun e => (s.eng e).q.any (·.chan = none)) = false ∧ s.homeTs = some e ∧ s.leaseOk e .tick = true) ∧
    (∃ (s : State), s.engReady = true ∧ s.onTick = true ∧ s.ts.st ≠ .stopped ∧ s.ts.trav.res ≠ 0 ∧ s.ts.trav.paused = false ∧
      (upTo 32).any (fun e => (s.eng e).q.any (·.chan = none)) = true) ∧
    (∃ (s : State), (s.engReady = false ∨ s.onTick = false ∨ s.ts.st = .stopped ∨ s.ts.trav.res = 0 ∨ s.ts.trav.paused = true)) ∧
    (∃ (a : Int) (d : Int) (sa : Nat) (sd : Nat) (cover : Nat) (s : State), s.ts.st ≠ .stopped ∧ s.pv P.hoModel ≠ 1) ∧
    (∃ (a : Int) (d : Int) (sa : Nat) (sd : Nat) (d' : Int) (sd' : Nat) (cover : Nat) (s : State), s.ts.st ≠ .stopped ∧ s.pv P.hoModel = 1 ∧
      s.g6Slope = some (d', sd')) ∧
    (∃ (s : State), s.ts.st = .coasting ∧ 60 * secU * (s.ts.boundN + 1) ≤ (s.now + linMod - s.ts.tEntry) % linMod) ∧
    (∃ (s : State), (s.ts.st ≠ .coasting ∨ (s.now + linMod - s.ts.tEntry) % linMod < 60 * secU * (s.ts.boundN + 1))) ∧
    (∃ (b : Int) (s : State), s.extActive = true ∧ s.pi P.extGain ≠ 0 ∧ s.tests.any (·.kind = 5) = false ∧ s.per.q = [] ∧
      (dacEntry (s.pv P.extBits) (s.extCode b).1).ok = true) ∧
    (∃ (b : Int) (s : State), s.extActive = true ∧ s.pi P.extGain ≠ 0 ∧ (s.tests.any (·.kind = 5) = true ∨ s.per.q ≠ [])) :=
   ⟨⟨0, sTick, by decide +kernel⟩,
    ⟨sTick.modEng 1 fun g => { g with q := [.ts (r0 0x800 (5 * secU))] }, by decide +kernel⟩,
    ⟨(sTs .free), by decide +kernel⟩,
    ⟨1, 2, 3, 4, 2^40, (sTs .free), by decide +kernel⟩,
    ⟨5, 6, 7, 8, g6s.1, g6s.2, 100000, sG6, by decide +kernel⟩,
    ⟨(sTs .coasting).modTs fun t => { t with dts := 10^12 * 2^64, sigA := 2^30, sigD := 2^20 }, by decide +kernel⟩,
    ⟨sTs .locked, by decide +kernel⟩,
    ⟨10^6, sExt, by decide +kernel⟩,
    ⟨10^6, sExt.modPer fun p => { p with q := [dacEntry 16 5] }, by decide +kernel⟩⟩

theorem hyps_MasterLoopLocksAndLosses :
    (∃ (k : OctIx) (cyc : List PdCyc) (s : State), ((s.oct k).loop.st = .acq ∨ (s.oct k).loop.st = .scan) ∧ (s.oct k).loop.opened = none ∧
      s.domOn (pdQ (quadOf k)) = true ∧ s.mlPar k P.mlLkcnt ≤ runOf (pdWithin (s.mlInt k P.mlLkwin)) cyc) ∧
    (∃ (k : OctIx) (cyc : List PdCyc) (s : State), (((s.oct k).loop.st ≠ .acq ∧
      (s.oct k).loop.st ≠ .scan) ∨ (s.oct k).loop.opened ≠ none ∨ s.domOn (pdQ (quadOf k)) = false ∨ runOf (pdWithin (s.mlInt k P.mlLkwin)) cyc < s.mlPar k P.mlLkcnt)) ∧
    (∃ (k : OctIx) (tr : MlTrace) (cause : Nat) (s : State), (s.oct k).loop.st = .locked ∧ (s.oct k).loop.opened = none ∧
      (s.mlCauses k tr).head? = some cause) ∧
    (∃ (k : OctIx) (tr : MlTrace) (s : State), (s.oct k).loop.st = .locked ∧ (s.oct k).loop.opened = none ∧ s.mlCauses k tr = []) ∧
    (∃ (k : OctIx) (tr : MlTrace) (s : State), ((s.oct k).loop.st ≠ .locked ∨ (s.oct k).loop.opened ≠ none)) ∧
    (∃ (k : OctIx) (pre : List PdCyc) (last : PdCyc) (s : State), (s.oct k).loop.st = .locked ∧ (s.oct k).loop.opened = none ∧
      pdWithin (s.mlInt k P.mlLosswin) last = true ∧ 0 < (runOf (fun c => !pdWithin (s.mlInt k P.mlLosswin) c) pre) ∧
      (runOf (fun c => !pdWithin (s.mlInt k P.mlLosswin) c) pre) < s.mlPar k P.mlLosscnt) ∧
    (∃ (k : OctIx) (pre : List PdCyc) (last : PdCyc) (s : State), ((s.oct k).loop.st ≠ .locked ∨ (s.oct k).loop.opened ≠ none ∨ pdWithin (s.mlInt k P.mlLosswin) last = false ∨ runOf (fun c => !pdWithin (s.mlInt k P.mlLosswin) c) pre = 0 ∨ s.mlPar k P.mlLosscnt ≤ runOf (fun c => !pdWithin (s.mlInt k P.mlLosswin) c) pre)) :=
   ⟨⟨3, cyc 4096 0, sLoop .acq, by decide +kernel⟩,
    ⟨3, cyc 1 0, sLoop .acq, by decide +kernel⟩,
    ⟨3, mtr [] none false true, 5, sLoop .locked, by decide +kernel⟩,
    ⟨3, mtr (cyc 5 0) none false false, sLoop .locked, by decide +kernel⟩,
    ⟨3, mtr [] none true false, sLoop .acq, by decide +kernel⟩,
    ⟨3, cyc 1 (2 ^ 40), ⟨0, 0⟩, sLoop .locked, by decide +kernel⟩,
    ⟨3, cyc 1 0, ⟨0, 0⟩, sLoop .locked, by decide +kernel⟩⟩

theorem hyps_LoopPlansAndForcedSwitches :
    (∃ (k : OctIx) (s : State), s.domOn (pdQ (quadOf k)) = true) ∧
    (∃ (k : OctIx) (temp : Int) (s : State), s.domOn (pdQ (quadOf k)) = true ∧ degC < (temp - (s.oct k).loop.planT).natAbs ∧ (s.oct k).loop.st ≠ .off) ∧
    (∃ (k : OctIx) (temp : Int) (s : State), s.domOn (pdQ (quadOf k)) = true ∧ ((temp - (s.oct k).loop.planT).natAbs ≤ degC ∨ (s.oct k).loop.st = .off)) ∧
    (∃ (k : OctIx) (temp : Int) (s : State), s.domOn (pdQ (quadOf k)) = false) ∧
    (∃ (k : OctIx) (n : Nat) (s : State), (s.oct k).loop.restore = true ∧ s.restoring k = false ∧
      ((s.store.prog.isSome = true ∨ s.store.stage ≠ 0 ∨ s.store.att ≠ 0) ∧ n = 1 ∨ s.store.prog.isSome = false ∧ s.store.stage = 0 ∧
      s.store.att = 0 ∧ n = 0)) ∧
    (∃ (k : OctIx) (s : State), ((s.oct k).loop.restore = false ∨ s.restoring k = true)) ∧
    (∃ (c : Ch) (y : OutSrc) (s : State), (s.chan c).sw = some (y, false) ∧ s.hasEdges c y = true) ∧
    (∃ (c : Ch) (y : OutSrc) (s : State), (s.chan c).sw = some (y, false) ∧ s.hasEdges c y = false) ∧
    (∃ (c : Ch) (y : OutSrc) (e : Bool) (s : State), (s.chan c).sw = some (y, false) ∧ y ≠ .stop ∧ y ≠ .none ∧ (e = false ∨ s.hasEdges c y = false)) ∧
    (∃ (c : Ch) (y : OutSrc) (s : State), (s.chan c).sw = some (y, false) ∧ s.hasEdges c y = true) ∧
    (∃ (c : Ch) (y : OutSrc) (s : State), (s.chan c).sw = some (y, false) ∧ (y = .stop ∨ y = .none)) ∧
    (∃ (c : Ch) (e : Bool) (s : State), ((s.chan c).sw = none ∨ ∃ y, (s.chan c).sw = some (y, true))) :=
   ⟨⟨3, sAcq (fun l => { l with plan := [(1, 2), (3, 4)] }) .acq, by decide +kernel⟩,
    ⟨3, 450, sLoop .locked, by decide +kernel⟩,
    ⟨3, 0, sLoop .locked, by decide +kernel⟩,
    ⟨3, 45, (sLoop .locked).setPwr 6 false, by decide +kernel⟩,
    ⟨3, 1, sRb, by decide +kernel⟩,
    ⟨3, sLoop .locked, by decide +kernel⟩,
    ⟨96, .stop, sSw .stop, by decide +kernel⟩,
    ⟨96, .bypass false 0, (sSw (.bypass false 0)).setPwr (pdQ 1) false, by decide +kernel⟩,
    ⟨96, .bypass false 0, false, sSw (.bypass false 0), by decide +kernel⟩,
    ⟨96, .bypass false 0, (sSw (.bypass false 0)), by decide +kernel⟩,
    ⟨96, .stop, sSw .stop, by decide +kernel⟩,
    ⟨96, true, sUp, Or.inl (by decide +kernel)⟩⟩

theorem hyps_RetuneChecksThenStores :
    (∃ (h : Hdr) (k : OctIx) (ni : Fin 256) (nf : BitVec 24) (s : State), Taken h 0x0340 s ∧ s.pwr.mode ≠ .survey ∧ s.pwr.mode ≠ .service ∧
      s.pwr.mode ≠ .holdover) ∧
    (∃ (h : Hdr) (k : OctIx) (ni : Fin 256) (nf : BitVec 24) (s : State), Taken h 0x0340 s ∧
      (s.pwr.mode = .survey ∨ s.pwr.mode = .service ∨ s.pwr.mode = .holdover) ∧
      (ni.val * 2 ^ 24 + nf.toNat < 40 * 2 ^ 24 ∨ 52 * 2 ^ 24 < ni.val * 2 ^ 24 + nf.toNat)) ∧
    (∃ (h : Hdr) (k : OctIx) (ni : Fin 256) (nf : BitVec 24) (s : State), Taken h 0x0340 s ∧ s.retuneErr k ni nf.toNat = none ∧
      ((s.oct k).loop.ni ≠ ni.val ∨ (s.oct k).loop.nf ≠ nf.toNat)) ∧
    (∃ (h : Hdr) (k : OctIx) (ni : Fin 256) (nf : BitVec 24) (b : Nat) (u : Int) (r : List (Nat × Int)) (s : State), Taken h 0x0340 s ∧
      s.retuneErr k ni nf.toNat = none ∧ (s.oct k).loop.ni = ni.val ∧ (s.oct k).loop.nf = nf.toNat ∧ (s.oct k).loop.plan = (b, u) :: r) :=
   ⟨⟨hd, 3, 48, 0, sUp.modPwr fun p => { p with mode := .bypass }, by unfold Taken; decide +kernel⟩,
    ⟨hd, 3, 53, 0, sLoop .locked, by unfold Taken; decide +kernel⟩,
    ⟨hd, 3, 48, 6, sLoop .locked, by unfold Taken; decide +kernel⟩,
    ⟨hd, 3, 48, 5, 1, 2, [], sAcq (fun l => { l with plan := [(1,2)] }) .locked, by unfold Taken; decide +kernel⟩⟩

theorem hyps_GraticuleChangesAreStored :
    (∃ (h : Hdr) (mask : BitVec 8) (s : State), Taken h 0x0505 s ∧ s.pwr.mode = .survey) ∧
    (∃ (h : Hdr) (mask : BitVec 8) (s : State), Taken h 0x0505 s ∧ s.pwr.mode ≠ .survey) ∧
    (∃ (rs : List BandCount) (o : Option Hdr) (mask : Nat) (q : List (Option Hdr × Nat)) (s : State), s.grat.scans = (o, mask) :: q ∧
      (scanBands mask).all (fun e => (bandCount rs e.1 e.2).isSome) = true) ∧
    (∃ (rs : List BandCount) (o : Option Hdr) (mask : Nat) (q : List (Option Hdr × Nat)) (s : State), s.grat.scans = (o, mask) :: q ∧
      (scanBands mask).all (fun e => (bandCount rs e.1 e.2).isSome) = false) ∧
    (∃ (h : Hdr) (k : OctIx) (band : Fin 64) (point : Fin 4) (w : W128) (s : State), Taken h 0x0A10 s ∧ gReserved w.toNat = 0 ∧
      (gTemp ((gSet 92 4 3 w.toNat)) ≠ -32768 ∧ gOrder ((s.gPts k band).set point ((gSet 92 4 3 w.toNat))) = true ∧
      gOrder ((s.gPtsNext k band).set point ((gSet 92 4 3 w.toNat))) = true)) ∧
    (∃ (h : Hdr) (k : OctIx) (band : Fin 64) (point : Fin 4) (w : W128) (s : State), Taken h 0x0A10 s ∧ gReserved w.toNat ≠ 0) ∧
    (∃ (h : Hdr) (k : OctIx) (band : Fin 64) (point : Fin 4) (w : W128) (s : State), Taken h 0x0A10 s ∧ gReserved w.toNat = 0 ∧
      ¬ (gTemp ((gSet 92 4 3 w.toNat)) ≠ -32768 ∧ gOrder ((s.gPts k band).set point ((gSet 92 4 3 w.toNat))) = true ∧
      gOrder ((s.gPtsNext k band).set point ((gSet 92 4 3 w.toNat))) = true)) :=
   ⟨⟨hd, 0xFF, sUp.modPwr fun p => { p with mode := .survey }, by unfold Taken; decide +kernel⟩,
    ⟨hd, 0xFF, sUp, by unfold Taken; decide +kernel⟩,
    ⟨scan1, none, 1, [], sScan, by decide +kernel⟩,
    ⟨[], none, 3, [], sUp.modGrat fun g => { g with scans := [(none, 3)] }, by decide +kernel⟩,
    ⟨h7, 3, 5, 2, gWd 1 2 7000, sLoop .locked, by unfold Taken; decide +kernel⟩,
    ⟨h7, 3, 5, 2, 2^127, sUp, by unfold Taken; decide +kernel⟩,
    ⟨h7, 3, 5, 1, BitVec.ofNat 128 (2 ^ 76 * 0x8000), sLoop .locked, by unfold Taken; decide +kernel⟩⟩

theorem hyps_CorrectionBecomesDelta :
    (∃ (nom : Nat) (delta : Int), (nom : Int) ≤ ratioMax) ∧
    (∃ (k : OctIx) (lane : EngIx) (bnd : Nat) (same : Bool) (c : Nat) (slot : Nat) (delta : Int) (q : List (Nat × FcwRec)) (s : State), (s.oct k).vclkRst = false ∧ takeLane lane (s.oct k).fcw = some (.corr c slot delta, q) ∧ laneBehind lane c (s.oct k).fcw = false ∧ (same = false ∨ (s.chan (s.divOf (s.userOf c))).div.trig = [])) ∧
    (∃ (k : OctIx) (lane : EngIx) (bnd : Nat) (same : Bool) (c : Nat) (slot : Nat) (delta : Int) (q : List (Nat × FcwRec)) (s : State), takeLane lane (s.oct k).fcw = some (.corr c slot delta, q) ∧ (laneBehind lane c (s.oct k).fcw = true ∨ (s.oct k).vclkRst = true)) :=
   ⟨⟨5 * 2 ^ 64, -(2 ^ 80), by decide +kernel⟩,
    ⟨3, 12, 5, false, 96, 0, 777, [], sFc (.corr 96 0 777) 12, by decide +kernel⟩,
    ⟨3, 12, 5, false, 96, 0, 777, [], (sFc (.corr 96 0 777) 12).modOct 3 fun o => { o with vclkRst := true }, by decide +kernel⟩⟩

theorem hyps_SlotsTablesAndPulses :
    (∃ (k : OctIx) (bnd : Nat) (own : Nat) (c : Nat) (slot : Nat) (v : Slot) (q : List (Nat × FcwRec)) (s : State), (s.oct k).vclkRst = false ∧
      takeLane cobLane (s.oct k).fcw = some (.load c slot v, q)) ∧
    (∃ (c : Ch) (bnd : Nat) (r : Ramp) (s : State), (s.chan c).div.ramp = some r) ∧
    (∃ (c : Ch) (bnd : Nat) (s : State), (s.chan c).div.ramp = none) ∧
    (∃ (c : Ch) (d : Tab Nat) (s : State), (s.chan c).div.dtcNew = some d) ∧
    (∃ (c : Ch) (s : State), (s.chan c).div.dtcNew = none) ∧
    (∃ (c : Ch) (sec : BitVec 48) (a : Nat) (s : State), (s.up c P.mrkMode = 3 ∨ s.up c P.mrkMode = 4) ∧ (s.chan c).st = .track ∧
      (s.chan c).srv.anchor = some a) ∧
    (∃ (c : Ch) (sec : BitVec 48) (s : State), (s.up c P.mrkMode = 3 ∨ s.up c P.mrkMode = 4) ∧ ((s.chan c).st ≠ .track ∨ (s.chan c).srv.anchor = none)) ∧
    (∃ (c : Ch) (sec : BitVec 48) (s : State), s.up c P.mrkMode ≠ 3 ∧ s.up c P.mrkMode ≠ 4) :=
   ⟨⟨3, 5, 7, 96, 2, sl 10, [], sFc (.load 96 2 (sl 10)) 32, by decide +kernel⟩,
    ⟨96, 5, ⟨1, 2, 3, 4⟩, sCh.modDiv 96 fun d => { d with ramp := some ⟨1, 2, 3, 4⟩ }, by decide +kernel⟩,
    ⟨96, 5, sCh, by decide +kernel⟩,
    ⟨96, [(1,2)], sCh.modDiv 96 fun d => { d with dtcNew := some [(1,2)] }, by decide +kernel⟩,
    ⟨96, sCh, by decide +kernel⟩,
    ⟨96, 7, 5, sPu 3, by decide +kernel⟩,
    ⟨96, 7, (sPu 3).modChan 96 fun x => { x with st := .holdover }, by decide +kernel⟩,
    ⟨96, 7, sCh, by decide +kernel⟩⟩

theorem hyps_HopsLatchAndApply :
    (∃ (c : Fin 256) (slot : Fin 4) (s : State), ((s.chan c).st ≠ .idle ∧ (s.chan c).st ≠ .bypass ∧ (s.chan c).st ≠ .retired ∧ (s.chan c).st ≠ .test) ∧
      ((s.oct (octOf c)).xSel.present = true ∧ (s.oct (octOf c)).xSel.full = false) ∧ slot.val ≠ (s.chan (s.divOf c)).div.act) ∧
    (∃ (c : Fin 256) (slot : Fin 4) (s : State), slot.val = (s.chan (s.divOf c)).div.act) ∧
    (∃ (c : Fin 256) (slot : Fin 4) (s : State), ((s.chan c).st = .idle ∨ (s.chan c).st = .bypass) ∧ ((s.oct (octOf c)).xSel.present = true ∧
      (s.oct (octOf c)).xSel.full = false) ∧ slot.val ≠ (s.chan c).div.act ∧ (((s.chan (s.divOf c)).div.slot slot).valid = true ∧
      ((s.chan (s.divOf c)).div.slot slot).k = (s.chan (s.divOf c)).div.k)) ∧
    (∃ (c : Ch) (s : State), ((s.chan c).st ≠ .idle ∧ (s.chan c).st ≠ .bypass ∧ (s.chan c).st ≠ .retired ∧ (s.chan c).st ≠ .test) ∧
      s.up c P.mrkMode = 2 ∧ (s.oct (octOf c)).vclkRst = false) ∧
    (∃ (c : Ch) (same : Bool) (s : State), s.up c P.mrkMode ≠ 2) ∧
    (∃ (h : Hdr) (c : Ch) (slot : Fin 4) (s : State), Taken h 0x0303 s ∧ ((s.chan c).st ≠ .idle ∧ (s.chan c).st ≠ .bypass ∧ (s.chan c).st ≠ .retired ∧
      (s.chan c).st ≠ .test) ∧ ((s.oct (octOf c)).xSel.present = true ∧ (s.oct (octOf c)).xSel.full = false) ∧
      slot.val ≠ (s.chan (s.divOf c)).div.act ∧ (((s.chan (s.divOf c)).div.slot slot).valid = true ∧
      ((s.chan (s.divOf c)).div.slot slot).k = (s.chan (s.divOf c)).div.k)) ∧
    (∃ (h : Hdr) (c : Ch) (slot : Fin 4) (s : State), Taken h 0x0303 s ∧ slot.val ≠ (s.chan (s.divOf c)).div.act ∧
      ((s.oct (octOf c)).xSel.present = true ∧ (s.oct (octOf c)).xSel.full = false) ∧ ¬ (((s.chan (s.divOf c)).div.slot slot).valid = true ∧
      ((s.chan (s.divOf c)).div.slot slot).k = (s.chan (s.divOf c)).div.k)) ∧
    (∃ (h : Hdr) (c : Ch) (slot : Fin 4) (s : State), Taken h 0x0303 s ∧ slot.val ≠ (s.chan (s.divOf c)).div.act ∧
      ¬ ((s.oct (octOf c)).xSel.present = true ∧ (s.oct (octOf c)).xSel.full = false)) ∧
    (∃ (c : Ch) (bnd : Nat) (own : Nat) (n : Nat) (q : List Trig) (s : State), (s.oct (octOf c)).vclkRst = false ∧
      (s.chan (s.divOf c)).div.trig = ⟨false, n⟩ :: q) :=
   ⟨⟨96, 1, sCh, by decide +kernel⟩,
    ⟨96, 0, sCh, by decide +kernel⟩,
    ⟨96, 1, sChI, by decide +kernel⟩,
    ⟨96, sMk, by decide +kernel⟩,
    ⟨96, true, sCh, by decide +kernel⟩,
    ⟨hd, 96, 1, sCh, by unfold Taken; decide +kernel⟩,
    ⟨hd, 96, 2, sCh, by unfold Taken; decide +kernel⟩,
    ⟨hd, 96, 1, sCh.modOct 3 fun o => { o with xSel := { xq with present := false } }, by unfold Taken; decide +kernel⟩,
    ⟨96, 5, 7, 1, [], sCh.modDiv 96 fun d => { d with trig := [⟨false, 1⟩] }, by decide +kernel⟩⟩

theorem hyps_PhaseRequests :
    (∃ (h : Hdr) (c : Ch) (d : Int) (e : Nat) (s : State), Taken h 0x0304 s ∧ tivOk d = true ∧ s.phaseMode c = false ∧
      (s.oct (octOf (s.actOf c))).xReq.present = true ∧ s.homeOf (s.actOf c) = some e ∧ (s.eng e).q.length < 16) ∧
    (∃ (h : Hdr) (c : Ch) (d : Int) (e : Nat) (s : State), Taken h 0x0304 s ∧ tivOk d = true ∧ s.phaseMode c = false ∧
      (s.oct (octOf (s.actOf c))).xReq.present = true ∧ s.homeOf (s.actOf c) = some e ∧ 16 ≤ (s.eng e).q.length) ∧
    (∃ (h : Hdr) (c : Ch) (d : Int) (s : State), Taken h 0x0304 s ∧ tivOk d = true ∧ s.phaseMode c = true) ∧
    (∃ (h : Hdr) (c : Ch) (e : Nat) (s : State), Taken h 0x0305 s ∧ s.phaseMode c = false ∧ (s.oct (octOf (s.actOf c))).xReq.present = true ∧
      s.homeOf (s.actOf c) = some e ∧ (s.eng e).q.length < 16) ∧
    (∃ (e : EngIx) (c : Nat) (h : Hdr) (n : Bool) (d : Int) (l : List Job) (s : State), (s.eng e).retired = false ∧ s.engReady = true ∧
      (s.eng e).q = .req c (.adj (some h) n d) :: l ∧ s.leaseOk e (.req c (.adj (some h) n d)) = true ∧ (s.chan c).st.phased = true ∧
      s.adjRange c d = false ∧ h.door.val ≠ 6) ∧
    (∃ (e : EngIx) (c : Nat) (h : Hdr) (l : List Job) (s : State), (s.eng e).retired = false ∧ s.engReady = true ∧
      (s.eng e).q = .req c (.cancel (some h)) :: l ∧ s.leaseOk e (.req c (.cancel (some h))) = true ∧ (s.chan c).st.phased = true ∧ h.door.val ≠ 6) ∧
    (∃ (e : EngIx) (c : Nat) (l : List Job) (s : State), (s.eng e).retired = false ∧ s.engReady = true ∧ (s.eng e).q = .req c .start :: l ∧
      s.leaseOk e (.req c .start) = true ∧ (s.chan c).st = .idle ∧ s.ts.st ≠ .stopped ∧ (s.pwr.mode = .service ∨ s.pwr.mode = .holdover)) :=
   ⟨⟨hd, 96, 500, (sCh.homeOf 96).getD 0, sCh, by unfold Taken; decide +kernel⟩,
    ⟨hd, 96, 5, (hm 96).val, sFullQ, by unfold Taken; decide +kernel⟩,
    ⟨hd, 96, 500, sCh.modChan 96 fun x => { x with st := .idle }, by unfold Taken; decide +kernel⟩,
    ⟨hd, 96, (sCh.homeOf 96).getD 0, sCh, by unfold Taken; decide +kernel⟩,
    ⟨12, 96, hd, false, 500, [], sJob (.adj (some hd) false 500), by decide +kernel⟩,
    ⟨12, 96, hd, [], sJob (.cancel hd), by decide +kernel⟩,
    ⟨12, 96, [], (sJob .start).modChan 96 fun x => { x with st := .idle }, by decide +kernel⟩⟩

theorem hyps_TraverseNeverPassesCommand :
    ∃ (t : Trav) (d : Int), t.guard < 2 ^ 64 :=
   ⟨tv, 5, by decide +kernel⟩

theorem hyps_EdgesBecomeRecords :
    (∃ (x : Source) (fall : Bool) (tap : Fin 64) (vern : Fin 32) (core : Nat) (src : Nat) (welt : Bool) (s : State), s.srcOf x = some (core, src, welt) ∧
      s.ts.st ≠ .stopped ∧ s.domOn (domOf x) = true ∧ s.srcOn x = true ∧ s.edgeSel fall x = true ∧ (x = .dev 1 → s.strobe = false)) ∧
    (∃ (x : Source) (fall : Bool) (tap : Fin 64) (vern : Fin 32) (s : State), (s.srcOf x = none ∨ s.ts.st = .stopped ∨ s.domOn (domOf x) = false ∨ s.srcOn x = false ∨ s.edgeSel fall x = false ∨ x = .dev 1 ∧ s.strobe = true)) :=
   ⟨⟨.dev 0, false, 3, 4, devCore 0, 0x800, false, sE, by decide +kernel⟩,
    ⟨.rx 96, false, 3, 4, sUp, by decide +kernel⟩⟩

theorem hyps_StampNumbersAndCoreFaults :
    (∃ (i : Nat) (r : Rec) (s : State), s.nextCore 8 s.devq.rr = some (i, r) ∧ (s.converted r = true ∧ s.writes r.src = true) ∧
      s.devq.xStamp.present = true ∧ s.devq.xStamp.full = false ∧ s.devq.stampQ.length < stampDepth) ∧
    (∃ (q : Fin 9) (i : Nat) (r : Rec) (s : State), q.val < 8 ∧ s.nextCore q (s.oct q).rr = some (i, r)) ∧
    (∃ (k : Fin 9) (w : BitVec 10) (s : State), s.domOn (dllDom k) = true) ∧
    (∃ (k : Fin 9) (w : BitVec 10) (s : State), s.domOn (dllDom k) = false) ∧
    (∃ (k : Fin 9) (s : State), (s.dll k).lock = true) ∧
    (∃ (k : Fin 9) (s : State), s.domOn (dllDom k) = true ∧ (s.dll k).lock = false ∧ (s.dll k).fail = false) ∧
    (∃ (k : Fin 9) (s : State), ((s.dll k).lock = true ∨ (s.dll k).fail = true)) ∧
    (∃ (core : Fin 532) (s : State), s.domOn (dllDom (if core.val < 528 then octOf (core.val / 2) else 8)) = true ∧
      (s.dll (if core.val < 528 then octOf (core.val / 2) else 8)).lock = true ∧ (s.core core).fail = false) :=
   ⟨⟨528, r0 0x800 (5*secU), sR, by decide +kernel⟩,
    ⟨3, 192, r0 384 (5*secU), sRo xq, by decide +kernel⟩,
    ⟨3, 500, sUp, by decide +kernel⟩,
    ⟨3, 500, sUp.setPwr 6 false, by decide +kernel⟩,
    ⟨3, sE0, by decide +kernel⟩,
    ⟨3, sUp, by decide +kernel⟩,
    ⟨3, sE0, by decide +kernel⟩,
    ⟨200, sE0, by decide +kernel⟩⟩

theorem hyps_IntervalsPairRecords :
    (∃ (st : Nat) (l : List (Rec × Bool)) (b : Rec × Bool) (r : List (Rec × Bool)), takeFirst (ivBefore st) l = some (b, r) ∧
      (∀ x ∈ l, 2 * x.1.t < linMod)) ∧
    (∃ (p : Fin 16) (r : Rec × Bool) (l : List (Rec × Bool)) (s : State), takeFirst (ivBefore (s.ivStart p)) (s.pair p).inQ = some (r, l) ∧
      s.ivMode p = 1 ∧ s.reached (linAdd r.1.t us1) = true) ∧
    (∃ (p : Fin 16) (r : Rec × Bool) (l : List (Rec × Bool)) (s : State), takeFirst (ivBefore (s.ivStart p)) (s.pair p).inQ = some (r, l) ∧
      s.reached (linAdd r.1.t us1) = false) ∧
    (∃ (p : Fin 16) (a : Rec × Bool) (s : State), (s.pair p).start = some a ∧ s.ivMode p = 1 ∧
      s.reached (linAdd (linAdd a.1.t (s.ivTime p)) us1) = true ∧ (s.pair p).inQ = [] ∧ s.devq.xRep.present = true ∧ s.iv.ring.length < 2048) ∧
    (∃ (p : Fin 16) (a : Rec × Bool) (s : State), (s.pair p).start = some a ∧ s.reached (linAdd (linAdd a.1.t (s.ivTime p)) us1) = false) ∧
    (∃ (p : Fin 16) (x : Rec × Bool) (l : List (Rec × Bool)) (s : State), (s.pair p).und = x :: l) :=
   ⟨⟨384, [(r0 388 5, false), (r0 384 5, false), (r0 384 7, false)], (r0 384 5, false), [(r0 388 5, false), (r0 384 7, false)], by decide +kernel⟩,
    ⟨2, (r0 384 5, false), [], t9 (sIv 1 fun p => { p with inQ := [(r0 384 5, false)] }), by decide +kernel⟩,
    ⟨2, (r0 384 5, false), [], sIv 1 fun p => { p with inQ := [(r0 384 5, false)] }, by decide +kernel⟩,
    ⟨2, (r0 384 1, false), t9 (sIv 1 fun p => { p with start := some (r0 384 1, false) }), by decide +kernel⟩,
    ⟨2, (r0 384 1, false), sIv 1 fun p => { p with start := some (r0 384 1, false) }, by decide +kernel⟩,
    ⟨2, (r0 384 1, false), [(r0 388 1001, false)], sIv 2 fun p => { p with und := [(r0 384 1, false), (r0 388 1001, false)] }, by decide +kernel⟩⟩

theorem hyps_RingReadsOpenStreams :
    (∃ (h : Hdr) (bd : Fin 8) (n : BitVec 16) (s : State), Taken h 0x0310 s ∧ (bd.val = 4 ∨ bd.val = 5) ∧ (s.door bd).stream = none) ∧
    (∃ (h : Hdr) (bd : Fin 8) (n : BitVec 16) (s : State), Taken h 0x0311 s ∧ (bd.val = 4 ∨ bd.val = 5) ∧ (s.door bd).stream = none) ∧
    (∃ (h : Hdr) (bd : Fin 8) (n : BitVec 16) (s : State), Taken h 0x0322 s ∧ (bd.val = 4 ∨ bd.val = 5) ∧ (s.door bd).stream = none) ∧
    (∃ (h : Hdr) (bd : Fin 8) (n : BitVec 16) (s : State), Taken h 0x0310 s ∧ bd.val ≠ 4 ∧ bd.val ≠ 5) ∧
    (∃ (h : Hdr) (bd : Fin 8) (n : BitVec 16) (s : State), Taken h 0x0310 s ∧ (bd.val = 4 ∨ bd.val = 5) ∧ (s.door bd).stream.isSome = true) :=
   ⟨⟨hd, 4, 0, sRing, by unfold Taken; decide +kernel⟩,
    ⟨hd, 4, 1, sUp.modIv fun v => { v with ring := [(1,2),(3,4)] }, by unfold Taken; decide +kernel⟩,
    ⟨hd, 4, 1, sUp.modRg fun v => { v with ring := [[1,2],[3,4]] }, by unfold Taken; decide +kernel⟩,
    ⟨hd, 6, 1, sUp, by unfold Taken; decide +kernel⟩,
    ⟨hd, 4, 1, nextOf (exec (.stampRead ⟨1,9,false,false⟩ 4 0) sRing), by unfold Taken; decide +kernel⟩⟩

theorem hyps_GatesAccumulateAndClose :
    (∃ (i : Fin 16) (r : Rec) (l : List Rec) (s : State), rgNext (s.rgSlot i).armed (s.rgEnd i) (s.rgSlot i).inQ = some (r, l)) ∧
    (∃ (i : Fin 16) (s : State), (s.rgSlot i).armed = true ∧ s.reached (linAdd (s.rgEnd i) us1) = true ∧ (s.rgSlot i).inQ = []) ∧
    (∃ (i : Fin 16) (s : State), ((s.rgSlot i).armed = false ∨ s.reached (linAdd (s.rgEnd i) us1) = false)) ∧
    (∃ (i : Nat) (s : State), ((s.rgSlot i).n < 3 ∨ (s.rgSlot i).n < s.rgNmin i)) ∧
    (∃ (i : Fin 16) (r : RgRes) (l : List RgRes) (s : State), (s.rgSlot i).out = r :: l) :=
   ⟨⟨1, r0 384 5, [], sG fun x => { x with armed := true, start := 5, inQ := [r0 384 5] }, by decide +kernel⟩,
    ⟨1, t9 (sG fun x => { x with armed := true, start := 6, n := 2 }), by decide +kernel⟩,
    ⟨1, sG fun x => { x with armed := false }, by decide +kernel⟩,
    ⟨1, sG fun x => { x with armed := true, n := 2 }, by decide +kernel⟩,
    ⟨1, rr, [], sG fun x => { x with out := [rr], prio := 2 }, by decide +kernel⟩⟩

theorem hyps_RegressionClaims :
    (∃ (h : Hdr) (slot : Fin 32) (prio : Fin 4) (s : State), Taken h 0x0320 s ∧ slot.val < 16 ∧ (prio.val = 2 ∨ prio.val = 3) ∧
      (s.rgSlot slot).prio = 0 ∧ s.rgHost.length < s.pv P.rgHostMax) ∧
    (∃ (h : Hdr) (slot : Fin 32) (prio : Fin 4) (i : Nat) (s : State), Taken h 0x0320 s ∧ slot.val = 31 ∧ (prio.val = 2 ∨ prio.val = 3) ∧
      (upTo 16).find? (fun i => (s.rgSlot i).prio = 0) = some i ∧ s.rgHost.length < s.pv P.rgHostMax) ∧
    (∃ (h : Hdr) (slot : Fin 32) (prio : Fin 4) (s : State), Taken h 0x0320 s ∧ slot.val < 16 ∧ (prio.val = 2 ∨ prio.val = 3) ∧ (s.rgSlot slot).prio ≠ 0) ∧
    (∃ (h : Hdr) (i : Fin 16) (s : State), Taken h 0x0321 s ∧ (s.rgSlot i).prio ≠ 0 ∧ (s.rgSlot i).internal = false) ∧
    (∃ (h : Hdr) (i : Fin 16) (s : State), Taken h 0x0321 s ∧ ((s.rgSlot i).prio = 0 ∨ (s.rgSlot i).internal = true)) ∧
    (∃ (h : Hdr) (i : Fin 16) (s : State), Taken h 0x0323 s) ∧
    (∃ (h : Hdr) (p : Fin 16) (s : State), Taken h 0x0312 s) :=
   ⟨⟨hd, 5, 2, sUp, by unfold Taken; decide +kernel⟩,
    ⟨hd, 31, 2, 1, sUp.modSlot 0 fun x => { x with prio := 1, internal := true }, by unfold Taken; decide +kernel⟩,
    ⟨hd, 5, 2, sUp.modSlot 5 fun x => { x with prio := 1, internal := true }, by unfold Taken; decide +kernel⟩,
    ⟨hd, 5, sUp.modSlot 5 fun x => { x with prio := 2 }, by unfold Taken; decide +kernel⟩,
    ⟨hd, 5, sUp, by unfold Taken; decide +kernel⟩,
    ⟨hd, 5, sUp, by unfold Taken; decide +kernel⟩,
    ⟨hd, 5, sUp, by unfold Taken; decide +kernel⟩⟩

theorem hyps_RecordsBecomeJobs :
    (∃ (q : Fin 9) (r : Rec) (l : List Rec) (s : State), q.val < 8 ∧ s.domOn pdEng = true ∧ (s.oct q).stampQ = r :: l) ∧
    (∃ (q : Fin 9) (s : State), s.domOn pdEng = false) ∧
    (∃ (e : EngIx) (c : Nat) (r : Rec) (l : List Job) (s : State), (s.eng e).retired = false ∧ s.engReady = true ∧ (s.eng e).ready = none ∧
      (s.eng e).q = .steer c r :: l ∧ s.leaseOk e (.steer c r) = true) ∧
    (∃ (e : EngIx) (r : Rec) (l : List Job) (s : State), (s.eng e).retired = false ∧ s.engReady = true ∧ (s.eng e).ready = none ∧
      (s.eng e).q = .ts r :: l ∧ s.leaseOk e (.ts r) = true) ∧
    (∃ (e : EngIx) (r : Rec) (l : List Job) (s : State), (s.eng e).retired = false ∧ s.engReady = true ∧ (s.eng e).q = .whole r :: l ∧
      s.leaseOk e (.whole r) = true) ∧
    (∃ (e : EngIx) (s : State), s.engReady = false) ∧
    (∃ (k : OctIx) (e : Nat) (r : HopRep) (s : State), s.engReady = true ∧ (s.oct k).hopQ = [r] ∧ s.homeOf r.div = some e ∧ e / 4 = k.val ∧
      (s.eng e).retired = false ∧ (∀ j, j < 4 → (s.eng (4 * k + j)).q = []) ∧ s.leaseOk e (.hop r) = true) ∧
    (∃ (k : OctIx) (i : Nat) (r : HopRep) (l : List Job) (s : State), s.engReady = true ∧ (s.oct k).hopQ = [] ∧ i < 4 ∧
      (s.eng (4 * k + i)).q = .hop r :: l ∧ (s.eng (4 * k + i)).retired = false ∧ (∀ j, j < i → (s.eng (4 * k + j)).q = []) ∧
      s.leaseOk (4 * k + i) (.hop r) = true) ∧
    (∃ (k : OctIx) (s : State), s.engReady = false) ∧
    (∃ (e : EngIx) (w : Settle) (l : List Settle) (s : State), (s.eng e).settle = w :: l) ∧
    (∃ (e : EngIx) (s : State), (s.eng e).settle = []) :=
   ⟨⟨3, r0 386 (5*secU), [r0 384 5], sQ6, by decide +kernel⟩,
    ⟨3, sQ6.setPwr 4 false, by decide +kernel⟩,
    ⟨hm 96, 96, r0 386 (5 * secU + 10 * 2^18), [], sJ, by decide +kernel⟩,
    ⟨1, r0 0x800 (5*secU), [], sJt, by decide +kernel⟩,
    ⟨1, r0 0x800 (5*secU), [], sWh, by decide +kernel⟩,
    ⟨1, sRun.setPwr 4 false, by decide +kernel⟩,
    ⟨3, (hm 96).val, hr, sHop, by decide +kernel⟩,
    ⟨3, 1, hr, [], sHopJ, by decide +kernel⟩,
    ⟨3, noEng, by decide +kernel⟩,
    ⟨1, .chan 96 9 bk, [], (sRun.modEng 1 fun g => { g with settle := [.chan 96 9 bk] }).modChan 96 fun x => { x with lease := some 1 }, by decide +kernel⟩,
    ⟨1, sRun, by decide +kernel⟩⟩

theorem hyps_StealingMovesJobs :
    (∃ (t : EngIx) (v : EngIx) (j : Job) (l : List Job) (s : State), s.pv P.stealEn = 0 ∧ s.engReady = true ∧ s.idleEng t = true ∧
      (s.eng v).retired = false ∧ ((t.val / 4 = v.val / 4 ∧ t ≠ v ∧ s.pv P.settleTh < s.backlog v) ∨ nextOct (t.val / 4) (v.val / 4) = true) ∧
      (s.eng v).q = j :: l ∧ j.steers = true ∧ (∀ c, j.chan = some c → (s.chan c).lease = none) ∧ (j.chan = none → s.ts.lease = none)) ∧
    (∃ (t : EngIx) (v : EngIx) (s : State), s.pv P.stealEn ≠ 0) ∧
    (∃ (e : EngIx) (j : Job) (s : State), (s.eng e).fetch = some j) :=
   ⟨⟨13, 12, js, [], sSteal, by decide +kernel⟩,
    ⟨13, 12, sSteal.modPar (·.setDev P.stealEn (some 1)), by decide +kernel⟩,
    ⟨13, js, sRun.modEng 13 fun g => { g with fetch := some js }, by decide +kernel⟩⟩

theorem hyps_HashEpochs :
    (∃ (e : EngIx) (seed : Option (BitVec 32)) (s : State), s.pv P.skewTh < s.shed e) ∧
    (∃ (e : EngIx) (long : Bool) (seed : Option (BitVec 32)) (s : State), (long = false ∨ s.shed e ≤ s.pv P.skewTh)) ∧
    (∃ (h : Hdr) (seed : BitVec 32) (x : BitVec 32) (s : State), Taken h 0x0330 s ∧ s.ts.st ≠ .stopped ∧ s.now + 2 * secU ≤ s.epochSec x.toNat * secU) ∧
    (∃ (h : Hdr) (seed : BitVec 32) (x : BitVec 32) (s : State), Taken h 0x0330 s ∧ s.ts.st ≠ .stopped ∧ s.epochSec x.toNat * secU < s.now + 2 * secU) ∧
    (∃ (h : Hdr) (seed : BitVec 32) (x : BitVec 32) (s : State), Taken h 0x0330 s ∧ s.ts.st = .stopped) ∧
    (∃ (seed : Nat) (x : Nat) (s : State), s.arr.epoch = some (seed, x) ∧ s.now < x * secU) ∧
    (∃ (seed : Nat) (x : Nat) (s : State), s.arr.epoch = some (seed, x) ∧ x * secU ≤ s.now) :=
   ⟨⟨13, none, sShed, by decide +kernel⟩,
    ⟨13, true, some 5, sRun, by decide +kernel⟩,
    ⟨hd, 7, 9, sRun, by unfold Taken; decide +kernel⟩,
    ⟨hd, 7, 6, sRun, by unfold Taken; decide +kernel⟩,
    ⟨hd, 7, 6, sUp, by unfold Taken; decide +kernel⟩,
    ⟨5, 6, { sRun with arr := { sRun.arr with epoch := some (5, 6) } }, by decide +kernel⟩,
    ⟨7, 5, { sRun with arr := { sRun.arr with epoch := some (7, 5) } }, by decide +kernel⟩⟩

theorem hyps_EngineFaultsAndArrayLoss :
    (∃ (e : EngIx) (b : Bool) (s : State), (s.eng e).retired = false) ∧
    (∃ (e : EngIx) (b : Bool) (s : State), (s.eng e).retired = true) ∧
    (∃ (e : EngIx) (stuck : Bool) (s : State), (s.eng e).retired = false ∧ (stuck = true ∨ 3 < (s.eng e).parT.length)) ∧
    (∃ (e : EngIx) (s : State), (s.eng e).parT.length ≤ 3) ∧
    (∃ (s : State), s.domOn pdEng = true ∧ s.arr.lost = false) ∧
    (∃ (s : State), s.arr.lost = true) ∧
    (∃ (ue : List (Ch × BitVec 16)) (s : State), s.arr.lost = true) ∧
    (∃ (ue : List (Ch × BitVec 16)) (s : State), s.arr.lost = false) ∧
    (∃ (h : Hdr) (e : EngIx) (s : State), Taken h 0x0331 s) :=
   ⟨⟨13, true, sSteal, by decide +kernel⟩,
    ⟨13, true, sRun.modEng 13 fun g => { g with retired := true }, by decide +kernel⟩,
    ⟨12, true, sSteal, by decide +kernel⟩,
    ⟨12, sSteal, by decide +kernel⟩,
    ⟨sSteal, by decide +kernel⟩,
    ⟨sLost, by decide +kernel⟩,
    ⟨[], sLost, by decide +kernel⟩,
    ⟨[], sSteal, by decide +kernel⟩,
    ⟨hd, 12, sSteal, by unfold Taken; decide +kernel⟩⟩

theorem hyps_ChannelStartChecksInOrder :
    (∃ (h : Hdr) (c : Ch) (e : Nat) (s : State), Taken h 0x0301 s ∧ ((s.pwr.mode = .service ∨ s.pwr.mode = .holdover) ∧
      s.quadEn (quadOf (octOf c)) = true) ∧ s.ts.st ≠ .stopped ∧ (s.chan c).st = .idle ∧ (((s.chan c).div.slot (s.chan c).div.act).valid = true) ∧
      (s.oct (octOf c)).loop.st = .locked ∧ (s.oct (octOf c)).noStamp = false ∧ (s.oct (octOf c)).xReq.present = true ∧ s.homeOf c = some e ∧
      (s.eng e).q.length < 16) ∧
    (∃ (h : Hdr) (c : Ch) (s : State), Taken h 0x0301 s ∧ (s.chan c).st = .idle ∧ s.pwr.mode ≠ .service ∧ s.pwr.mode ≠ .holdover) ∧
    (∃ (h : Hdr) (c : Ch) (s : State), Taken h 0x0301 s ∧ ((s.pwr.mode = .service ∨ s.pwr.mode = .holdover) ∧ s.quadEn (quadOf (octOf c)) = true) ∧
      (s.chan c).st = .idle ∧ s.ts.st = .stopped) ∧
    (∃ (h : Hdr) (c : Ch) (s : State), Taken h 0x0301 s ∧ ((s.pwr.mode = .service ∨ s.pwr.mode = .holdover) ∧ s.quadEn (quadOf (octOf c)) = true) ∧
      (s.chan c).st = .idle ∧ s.ts.st ≠ .stopped ∧ ¬(((s.chan c).div.slot (s.chan c).div.act).valid = true)) ∧
    (∃ (h : Hdr) (c : Ch) (s : State), Taken h 0x0301 s ∧ ((s.pwr.mode = .service ∨ s.pwr.mode = .holdover) ∧ s.quadEn (quadOf (octOf c)) = true) ∧
      (s.chan c).st = .idle ∧ s.ts.st ≠ .stopped ∧ (((s.chan c).div.slot (s.chan c).div.act).valid = true) ∧ (s.oct (octOf c)).loop.st ≠ .locked) ∧
    (∃ (h : Hdr) (c : Ch) (s : State), Taken h 0x0301 s ∧ ((s.pwr.mode = .service ∨ s.pwr.mode = .holdover) ∧ s.quadEn (quadOf (octOf c)) = true) ∧
      (s.chan c).st = .idle ∧ s.ts.st ≠ .stopped ∧ (((s.chan c).div.slot (s.chan c).div.act).valid = true) ∧ (s.oct (octOf c)).loop.st = .locked ∧
      (s.oct (octOf c)).noStamp = true) :=
   ⟨⟨hd, 96, (sRun.homeOf 96).getD 0, sId id, by unfold Taken; decide +kernel⟩,
    ⟨hd, 96, (sId id).modPwr fun p => { p with mode := .survey }, by unfold Taken; decide +kernel⟩,
    ⟨hd, 96, (sId id).modTs fun t => { t with st := .stopped }, by unfold Taken; decide +kernel⟩,
    ⟨hd, 97, sId id, by unfold Taken; decide +kernel⟩,
    ⟨hd, 96, (sId id).modLoop 3 fun l => { l with st := .acq }, by unfold Taken; decide +kernel⟩,
    ⟨hd, 96, (sId id).modOct 3 fun o => { o with noStamp := true }, by unfold Taken; decide +kernel⟩⟩

theorem hyps_ChannelStopAndTimers :
    (∃ (h : Hdr) (c : Ch) (s : State), Taken h 0x0302 s ∧ (s.chan c).st ≠ .retired) ∧
    (∃ (h : Hdr) (c : Ch) (s : State), Taken h 0x0302 s ∧ (s.chan c).st = .retired ∧ s.actOf c = c) ∧
    (∃ (h : Hdr) (c : Ch) (s : State), Taken h 0x0307 s) ∧
    (∃ (c : Ch) (s : State), (s.chan c).st = .acquire ∧ (s.chan c).slow = false) ∧
    (∃ (c : Ch) (s : State), ((s.chan c).st ≠ .acquire ∨ (s.chan c).slow = true)) ∧
    (∃ (c : Ch) (s : State), ((s.chan c).st = .acquire ∨ (s.chan c).st = .track) ∧ s.heard c = false) ∧
    (∃ (c : Ch) (s : State), ((s.chan c).st ≠ .acquire ∧ (s.chan c).st ≠ .track ∨ s.heard c = true)) ∧
    (∃ (c : Ch) (s : State), (s.chan c).st = .bypass ∧ (s.chan c).cause = .restart ∧ (s.oct (octOf c)).loop.st = .locked ∧
      (s.pwr.mode = .service ∨ s.pwr.mode = .holdover)) ∧
    (∃ (c : Ch) (s : State), (s.chan c).st = .bypass ∧ (s.chan c).cause = .restart ∧ (s.oct (octOf c)).loop.st ≠ .locked) :=
   ⟨⟨hd, 96, sRun, by unfold Taken; decide +kernel⟩,
    ⟨hd, 96, sRun.modChan 96 fun x => { x with st := .retired }, by unfold Taken; decide +kernel⟩,
    ⟨hd, 96, sRun, by unfold Taken; decide +kernel⟩,
    ⟨96, sRun.modChan 96 fun x => { x with st := .acquire }, by decide +kernel⟩,
    ⟨96, sRun, by decide +kernel⟩,
    ⟨96, sRun, by decide +kernel⟩,
    ⟨96, sId id, by decide +kernel⟩,
    ⟨96, sBy .service, by decide +kernel⟩,
    ⟨96, (sBy .service).modLoop 3 fun l => { l with st := .acq }, by decide +kernel⟩⟩

theorem hyps_ChannelFaultsRetire :
    (∃ (c : Fin 256) (f : Fin 12) (s : State), (s.chan c).st ≠ .retired ∧ ¬((s.chan c).st = .bypass ∧ (s.chan c).cause = .fault)) ∧
    (∃ (k : OctIx) (f : Fin 12) (s : State), (s.chan (weltOf k)).st ≠ .retired ∧ ¬((s.chan (weltOf k)).st = .bypass ∧
      (s.chan (weltOf k)).cause = .fault) ∧ (s.oct k).welt ≠ .retired) ∧
    (∃ (c : Ch) (s : State), (s.chan c).hiz = false ∧ s.domOn (pdQ (quadOf (octOf c))) = true) ∧
    (∃ (c : Ch) (s : State), s.domOn pdEng = true) ∧
    (∃ (c : Ch) (mask : BitVec 16) (s : State), mask ≠ 0 ∧ s.domOn pdEng = true ∧
      ((s.chan c).st = .acquire ∨ (s.chan c).st = .track ∨ (s.chan c).st = .holdover)) :=
   ⟨⟨96, 5, sRun, by decide +kernel⟩,
    ⟨3, 5, sRun, by decide +kernel⟩,
    ⟨96, sRun, by decide +kernel⟩,
    ⟨96, sRun, by decide +kernel⟩,
    ⟨96, 0x8001, sRun, by decide +kernel⟩⟩

theorem hyps_HandoversAndClearing :
    (∃ (k : OctIx) (h : Hand) (s : State), (s.oct k).hand = some h ∧ h.agree < 16) ∧
    (∃ (k : OctIx) (h : Hand) (s : State), (s.oct k).hand = some h ∧ 16 ≤ h.agree ∧ h.step = 3 ∧ h.ch < 256) ∧
    (∃ (k : OctIx) (h : Hand) (s : State), (s.oct k).hand = some h ∧ 16 ≤ h.agree ∧ h.step = 6 ∧ h.ch < 256 ∧ s.cal.runs.find? (fun r => r.kind = 0 ∧
      r.unit = h.ch) = none) ∧
    (∃ (k : OctIx) (h : Hand) (s : State), (s.oct k).hand = some h ∧ h.step = 6 ∧ h.fails < 2) ∧
    (∃ (k : OctIx) (h : Hand) (s : State), (s.oct k).hand = some h ∧ h.step ≤ 3) ∧
    (∃ (k : OctIx) (h : Hand) (s : State), (s.oct k).hand = some h ∧ h.step = 8) ∧
    (∃ (k : OctIx) (c : Nat) (s : State), (s.oct k).welt = .takeover c ∧ (s.chan (weltOf k)).st = .track ∧ (s.chan c).goal ≠ .welt) ∧
    (∃ (k : OctIx) (c : Nat) (s : State), (s.oct k).welt = .takeover c ∧ (s.chan (weltOf k)).st ≠ .track) ∧
    (∃ (h : Hdr) (kind : Fin 16) (unit : Fin 4096) (s : State), Taken h 0x0A11 s ∧ s.pwr.mode = .survey ∧
      s.cal.checked.contains (retKey kind unit) = true ∧ s.isRetired kind unit = true) ∧
    (∃ (h : Hdr) (kind : Fin 16) (unit : Fin 4096) (s : State), Taken h 0x0A11 s ∧ s.pwr.mode ≠ .survey) ∧
    (∃ (h : Hdr) (kind : Fin 16) (unit : Fin 4096) (s : State), Taken h 0x0A11 s ∧ s.pwr.mode = .survey ∧
      (s.cal.checked.contains (retKey kind unit) = false ∨ s.isRetired kind unit = false)) :=
   ⟨⟨3, hn 3 15, sH 3 15, by decide +kernel⟩,
    ⟨3, hn 3 16, sH 3 16, by decide +kernel⟩,
    ⟨3, hn 6 16, sH 6 16, by decide +kernel⟩,
    ⟨3, hn 6 5, sH 6 5, by decide +kernel⟩,
    ⟨3, hn 3 5, sH 3 5, by decide +kernel⟩,
    ⟨3, hn 8 5, sH 8 5, by decide +kernel⟩,
    ⟨3, 96, sTk .track, by decide +kernel⟩,
    ⟨3, 96, sTk .acquire, by decide +kernel⟩,
    ⟨h7, 0, 96, sClr .survey true, by unfold Taken; decide +kernel⟩,
    ⟨h7, 0, 96, sClr .service true, by unfold Taken; decide +kernel⟩,
    ⟨h7, 0, 96, sClr .survey false, by unfold Taken; decide +kernel⟩⟩

theorem hyps_WakeRunsItsSteps :
    (∃ (h : Hdr) (s : State), Taken h 0x0A01 s ∧ s.pwr.mode = .stowed ∧ s.pwr.brace = false) ∧
    (∃ (h : Hdr) (s : State), Taken h 0x0A01 s ∧ (s.pwr.mode ≠ .stowed ∨ s.pwr.brace = true)) ∧
    (∃ (s : State), s.pwr.mode = .stowed ∧ s.pwr.auto = true ∧ s.pwr.rom = false ∧ s.pwr.brace = false ∧ s.autoStored = true) ∧
    (∃ (temps : List (OctIx × BitVec 16)) (s : State), s.waking = true ∧ s.wakeDone = true ∧ s.pwr.step < 5) ∧
    (∃ (temps : List (OctIx × BitVec 16)) (s : State), (s.waking = false ∨ s.wakeDone = false)) ∧
    (∃ (s : State), s.pwr.mode = .wake ∧ s.pwr.step = 2 ∧ s.ref.lock = false) ∧
    (∃ (s : State), s.bypEnds = true ∧ s.pwr.bypFrom ≠ .wake) ∧
    (∃ (s : State), s.bypEnds = false) :=
   ⟨⟨h7, sStow, by unfold Taken; decide +kernel⟩,
    ⟨h7, sUp, by unfold Taken; decide +kernel⟩,
    ⟨{ sStow with pwr := { sStow.pwr with auto := true }, mem := { sStow.mem with usable := false } }, by decide +kernel⟩,
    ⟨[], sW 1, by decide +kernel⟩,
    ⟨[], sUp, by decide +kernel⟩,
    ⟨{ sW 2 with ref := { (sW 2).ref with lock := false } }, by decide +kernel⟩,
    ⟨sB .service, by decide +kernel⟩,
    ⟨sUp, by decide +kernel⟩⟩

theorem hyps_ModeCommands :
    (∃ (h : Hdr) (s : State), Taken h 0x0A02 s ∧ s.pwr.mode = .survey) ∧
    (∃ (h : Hdr) (s : State), Taken h 0x0A02 s ∧ s.pwr.mode ≠ .survey) ∧
    (∃ (h : Hdr) (s : State), Taken h 0x0A03 s ∧ (s.pwr.mode = .service ∨ s.pwr.mode = .holdover)) ∧
    (∃ (h : Hdr) (s : State), Taken h 0x0A03 s ∧ s.pwr.mode ≠ .service ∧ s.pwr.mode ≠ .holdover) ∧
    (∃ (h : Hdr) (s : State), Taken h 0x0A04 s ∧ s.pwr.mode ≠ .stowed) ∧
    (∃ (h : Hdr) (s : State), Taken h 0x0A04 s ∧ s.pwr.mode = .stowed) :=
   ⟨⟨h7, inM .survey sUp, by unfold Taken; decide +kernel⟩,
    ⟨h7, sUp, by unfold Taken; decide +kernel⟩,
    ⟨h7, sLoop .locked, by unfold Taken; decide +kernel⟩,
    ⟨h7, sStow, by unfold Taken; decide +kernel⟩,
    ⟨h7, sCh, by unfold Taken; decide +kernel⟩,
    ⟨h7, sStow, by unfold Taken; decide +kernel⟩⟩

theorem hyps_ResetsAndRails :
    (∃ (h : Hdr) (s : State), Taken h 0x0A05 s) ∧
    (∃ (r : Fin 8) (s : State), s.pwr.rail.testBit r = true) ∧
    (∃ (r : Fin 8) (s : State), s.pwr.rail.testBit r = false) ∧
    (∃ (r : Fin 8) (s : State), s.pwr.rail.testBit r = true) :=
   ⟨⟨h7, sCh, by unfold Taken; decide +kernel⟩,
    ⟨0, sR2x, by decide +kernel⟩,
    ⟨0, sR2x.modPwr fun p => { p with rail := 0xFE }, by decide +kernel⟩,
    ⟨3, sR2x, by decide +kernel⟩⟩

theorem hyps_RestartsAndBraces :
    (∃ (w : Nat) (s : State), s.pwr.held = false) ∧
    (∃ (w : Nat) (s : State), s.pwr.held = true) ∧
    (∃ (w : Nat) (cls : WCls) (s : State), s.pwr.brace = false ∧ s.pwr.held = false) ∧
    (∃ (w : Nat) (cls : WCls) (s : State), (s.pwr.brace = true ∨ s.pwr.held = true)) ∧
    (∃ (s : State), s.pwr.brace = true) ∧
    (∃ (s : State), s.pwr.brace = false) ∧
    (∃ (s : State), s.pwr.brace = true ∧ s.pwr.braceDone = true ∧ s.pwr.shed = false) ∧
    (∃ (s : State), s.pwr.brace = true ∧ s.pwr.braceDone = true ∧ s.pwr.shed = true) ∧
    (∃ (s : State), (s.pwr.brace = false ∨ s.pwr.braceDone = false)) :=
   ⟨⟨5, sCh, by decide +kernel⟩,
    ⟨5, sCh.modPwr fun p => { p with held := true }, by decide +kernel⟩,
    ⟨0, .bad, sCh.modStore fun d => { d with erasing := some (9, 3088, 3088, 0) }, by decide +kernel⟩,
    ⟨0, .bad, sCh.modPwr fun p => { p with brace := true }, by decide +kernel⟩,
    ⟨sBr true, by decide +kernel⟩,
    ⟨sCh, by decide +kernel⟩,
    ⟨(sBr false).modStore fun d => { d with wait := true }, by decide +kernel⟩,
    ⟨sBr true, by decide +kernel⟩,
    ⟨sCh, by decide +kernel⟩⟩

theorem hyps_QueueResets :
    (∃ (q : Queue) (s : State), s.bothOn q = false) ∧
    (∃ (q : Queue) (s : State), s.bothOn q = true) ∧
    (∃ (q : Queue) (r : Bool) (s : State), s.bothOn q = false ∧ (s.xq q).present = true) ∧
    (∃ (q : Queue) (s : State), s.bothOn q = true ∧ (s.xq q).resync = true) ∧
    (∃ (q : Queue) (s : State), (s.xq q).resync = false) :=
   ⟨⟨.stamp 3, noEng.modOct 3 fun o => { o with stampQ := [⟨386, 0, Flags.init, 5, 0⟩] }, by decide +kernel⟩,
    ⟨.req 3, sCh, by decide +kernel⟩,
    ⟨.req 3, true, noEng.modOct 3 fun o => { o with xReq := xq }, by decide +kernel⟩,
    ⟨.stamp 3, sCh.modOct 3 fun o => { o with xStamp := ⟨true, true, true, 0⟩ }, by decide +kernel⟩,
    ⟨.stamp 3, sCh, by decide +kernel⟩⟩

theorem hyps_CalibrationRuns :
    (∃ (h : Hdr) (c : Ch) (s : State), Taken h 0x0501 s ∧ s.runErr c 1 1 = none ∧ s.rgClaimTop ≠ none ∧ s.ref.qual = true ∧ s.ref.lock = true ∧
      (s.dll (octOf c)).lock = true) ∧
    (∃ (h : Hdr) (c : Ch) (s : State), Taken h 0x0501 s ∧ s.runErr c 0 (s.pv P.calParts) = none ∧ s.rgClaimTop ≠ none ∧ s.ref.qual = true ∧
      s.ref.lock = true ∧ (s.dll (octOf c)).lock = true ∧ (s.oct (octOf c)).loop.st = .locked ∧ (s.dll 8).lock = true ∧ s.refRetired = false) ∧
    (∃ (h : Hdr) (c : Ch) (stat : Bool) (e : Rep) (s : State), Taken h 0x0501 s ∧ s.runErr c (bit stat) (s.partsFor (bit stat)) = some e) ∧
    (∃ (h : Hdr) (c : Ch) (s : State), Taken h 0x0501 s ∧ s.runErr c 1 1 = none ∧ s.rgClaimTop ≠ none ∧ s.ref.qual = false) ∧
    (∃ (h : Hdr) (mask : BitVec 8) (band : Bool) (s : State), Taken h 0x0502 s ∧ s.pwr.mode = .survey ∧ s.rgClaimTop ≠ none ∧ s.cal.runs = [] ∧
      s.ref.qual = true ∧ s.ref.lock = true ∧ (∀ k, k < 8 → (s.dll k).lock = true ∧ (s.oct k).loop.st = .locked) ∧ (s.dll 8).lock = true ∧
      s.refRetired = false) ∧
    (∃ (h : Hdr) (mask : BitVec 8) (band : Bool) (s : State), Taken h 0x0502 s ∧ s.pwr.mode ≠ .survey) ∧
    (∃ (h : Hdr) (n : BitVec 32) (r : CalRun) (s : State), Taken h 0x0504 s ∧ s.cal.runs.find? (·.num = n.toNat) = some r) ∧
    (∃ (h : Hdr) (n : BitVec 32) (s : State), Taken h 0x0504 s ∧ s.cal.runs.find? (·.num = n.toNat) = none) ∧
    (∃ (n : BitVec 32) (r : CalRun) (s : State), s.cal.runs.find? (·.num = n.toNat) = some r ∧ r.runT ≤ s.now - r.t0) ∧
    (∃ (n : BitVec 32) (r : CalRun) (s : State), s.cal.runs.find? (·.num = n.toNat) = some r ∧ s.now - r.t0 < r.runT) ∧
    (∃ (h : Hdr) (bd : Fin 8) (n : BitVec 16) (s : State), Taken h 0x0503 s ∧ (bd.val = 4 ∨ bd.val = 5) ∧ (s.door bd).stream = none) ∧
    (∃ (n : BitVec 32) (m : PartMeas) (r : CalRun) (r' : CalRun) (s : State), s.cal.runs.find? (·.num = n.toNat) = some r ∧ r.kind ≠ 2 ∧ r.part ≠ 0 ∧
      r.part ≠ 5 ∧ r.stored = false ∧ m.fail = none ∧ s.dtcShort m r = false ∧ s.partResult m r = .ok r') ∧
    (∃ (n : BitVec 32) (m : PartMeas) (r : CalRun) (s : State), s.cal.runs.find? (·.num = n.toNat) = some r ∧ r.kind ≠ 2 ∧ m.fail = none ∧
      (r.part = 0 ∨ r.stored = true ∨ s.dtcShort m r = true)) ∧
    (∃ (n : BitVec 32) (m : PartMeas) (r : CalRun) (s : State), s.cal.runs.find? (·.num = n.toNat) = some r ∧ r.kind = 1 ∧ r.part = 5 ∧
      r.stored = false ∧ m.fail = none ∧ s.runPre r = none) ∧
    (∃ (k : OctIx) (stat : Bool) (c : Nat) (s : State), s.pv P.calSched = 1 ∧ s.cal.bench = none ∧ s.calNext (bit stat) k = some c) ∧
    (∃ (k : OctIx) (stat : Bool) (s : State), s.pv P.calSched ≠ 1) ∧
    (∃ (i : Fin 532) (t₀ : Nat) (x : Int) (s : State), look s.cal.meas i = some (t₀, x) ∧ 31 * 86400 * secU ≤ s.ageOf (t₀ * secU)) :=
   ⟨⟨hd, 96, sC, by unfold Taken; decide +kernel⟩,
    ⟨hd, 96, sC, by unfold Taken; decide +kernel⟩,
    ⟨hd, 96, true, (sUp.runErr 96 (bit true) (sUp.partsFor (bit true))).getD .ok, sUp, by unfold Taken; decide +kernel⟩,
    ⟨hd, 96, sNq, by unfold Taken; decide +kernel⟩,
    ⟨hd, 0x0C, true, sSv, by unfold Taken; decide +kernel⟩,
    ⟨hd, 0x0C, true, sC, by unfold Taken; decide +kernel⟩,
    ⟨h7, BitVec.ofNat 32 rn.num, rn, sRn, by unfold Taken; decide +kernel⟩,
    ⟨hd, 1000, sRn, by unfold Taken; decide +kernel⟩,
    ⟨BitVec.ofNat 32 rn.num, rn, later 1000000 sRn, by decide +kernel⟩,
    ⟨BitVec.ofNat 32 rn.num, rn, sRn, by decide +kernel⟩,
    ⟨hd, 4, 5, sRn, by unfold Taken; decide +kernel⟩,
    ⟨BitVec.ofNat 32 rn.num, m4, rn4, pr4, sRn4, by refine ⟨?_, ?_, ?_, ?_, ?_, ?_, ?_, rfl⟩ <;> decide +kernel⟩,
    ⟨BitVec.ofNat 32 rn.num, m0, { rn with stored := true }, sRn.modCal fun c => { c with runs := [{ rn with stored := true }] }, by decide +kernel⟩,
    ⟨BitVec.ofNat 32 rn.num, m0, rn5, sRn5, by decide +kernel⟩,
    ⟨3, false, 96, sSc, by decide +kernel⟩,
    ⟨3, true, sSc.modPar (·.setDev P.calSched (some 0)), by decide +kernel⟩,
    ⟨Fin.ofNat 532 (rxCore 96), 5, 100, sMe, by decide +kernel⟩⟩

theorem hyps_BenchmarkSessions :
    (∃ (h : Hdr) (u : BitVec 64) (id : BitVec 256) (op : BitVec 128) (i : Nat) (j : Nat) (l : List Nat) (s : State), Taken h 0x0510 s ∧
      (s.pwr.mode = .service ∨ s.pwr.mode = .holdover) ∧ u.toNat ≠ 2 ^ 63 ∧ s.refRetired = false ∧ s.cal.bench = none ∧ s.cal.runs = [] ∧
      (upTo 16).reverse.filter (fun i => (s.rgSlot i).prio = 0) = i :: j :: l) ∧
    (∃ (h : Hdr) (u : BitVec 64) (id : BitVec 256) (op : BitVec 128) (b : Bench) (s : State), Taken h 0x0510 s ∧
      (s.pwr.mode = .service ∨ s.pwr.mode = .holdover) ∧ u.toNat ≠ 2 ^ 63 ∧ s.refRetired = false ∧ s.cal.bench = some b) ∧
    (∃ (h : Hdr) (d : BitVec 64) (u : BitVec 64) (l : List Nat) (b : Bench) (s : State), Taken h 0x0511 s ∧ tivOk d.toInt = true ∧ u.toNat ≠ 2 ^ 63 ∧
      s.cal.bench = some b) ∧
    (∃ (h : Hdr) (d : BitVec 64) (u : BitVec 64) (l : List Nat) (s : State), Taken h 0x0511 s ∧ tivOk d.toInt = true ∧ u.toNat ≠ 2 ^ 63 ∧
      s.cal.bench = none) ∧
    (∃ (h : Hdr) (d : BitVec 64) (u : BitVec 64) (l : List Nat) (s : State), Taken h 0x0511 s ∧ (tivOk d.toInt = false ∨ u.toNat = 2 ^ 63)) ∧
    (∃ (h : Hdr) (c : Ch) (path : Fin 4) (d : BitVec 64) (u : BitVec 64) (m : LoopMeas) (b : Bench) (s : State), Taken h 0x0512 s ∧ path ≠ 0 ∧
      tivOk d.toInt = true ∧ u.toNat ≠ 2 ^ 63 ∧ s.cal.bench = some b ∧ m.hop = false ∧ (path = 3 → s.tests.any (fun r => r.kind = 1 ∧
      r.unit = c) = false) ∧ 4 * (beyond ((m.tIn : Int) - m.tSrc - d.toInt) (max 1 (s.freqOf c))).natAbs ≤ 2 ^ 24 * secU) ∧
    (∃ (h : Hdr) (c : Ch) (path : Fin 4) (d : BitVec 64) (u : BitVec 64) (m : LoopMeas) (b : Bench) (s : State), Taken h 0x0512 s ∧ path ≠ 0 ∧
      tivOk d.toInt = true ∧ u.toNat ≠ 2 ^ 63 ∧ s.cal.bench = some b ∧ m.hop = true ∧ (path = 3 → s.tests.any (fun r => r.kind = 1 ∧
      r.unit = c) = false)) ∧
    (∃ (h : Hdr) (b : Bench) (s : State), Taken h 0x0513 s ∧ s.cal.bench = some b ∧ s.calPre b.octs true false = none ∧ s.benchQueued = false) ∧
    (∃ (h : Hdr) (slope : Bool) (b : Bench) (e : Nat) (s : State), Taken h 0x0513 s ∧ s.cal.bench = some b ∧ s.calPre b.octs true false = some e) ∧
    (∃ (h : Hdr) (b : Bench) (s : State), Taken h 0x0513 s ∧ s.cal.bench = some b ∧ s.calPre b.octs true false = none) ∧
    (∃ (h : Hdr) (b : Bench) (s : State), Taken h 0x0514 s ∧ s.cal.bench = some b) ∧
    (∃ (b : Bench) (s : State), s.cal.bench = some b ∧ s.pv P.bmT * secU ≤ s.ageOf b.t0) ∧
    (∃ (b : Bench) (s : State), s.cal.bench = some b ∧ s.ageOf b.t0 < s.pv P.bmT * secU) :=
   ⟨⟨hd, 7, 8, 9, 15, 14, (upTo 14).reverse, sC, by unfold Taken; decide +kernel⟩,
    ⟨hd, 7, 8, 9, bm0, bmS, by unfold Taken; decide +kernel⟩,
    ⟨hd, 100, 8, [secU, 2*secU+5, 3*secU], bm0, bmS, by unfold Taken; decide +kernel⟩,
    ⟨hd, 100, 8, [], sC, by unfold Taken; decide +kernel⟩,
    ⟨hd, 2 ^ 63, 5, [], bmS, by unfold Taken; decide +kernel⟩,
    ⟨hd, 96, 1, 100, 8, lm false, bm0, bmS, by unfold Taken; decide +kernel⟩,
    ⟨hd, 96, 1, 100, 8, lm true, bm0, bmS, by unfold Taken; decide +kernel⟩,
    ⟨hd, bm0, bmS, by unfold Taken; decide +kernel⟩,
    ⟨hd, true, bmL.cal.bench.getD bm0, 1, { bmL with ref := { bmL.ref with qual := false } }, by unfold Taken; decide +kernel⟩,
    ⟨hd, bm0, bmS, by unfold Taken; decide +kernel⟩,
    ⟨hd, bmL.cal.bench.getD bm0, bmL, by unfold Taken; decide +kernel⟩,
    ⟨bm0, bmS.modTs fun t => { t with dts := 100 * 86400 * secU * 2^46 }, by decide +kernel⟩,
    ⟨bm0, bmS, by decide +kernel⟩⟩

theorem hyps_StoresBeginAndCommit :
    (∃ (r : StoreReq) (l : List StoreReq) (p : Prog) (s : State), (s.pwr.held = false ∧ s.portBusy = false ∧ s.mem.usable = true ∧
      s.store.foreign = false ∧ s.pwr.brace = false) ∧ s.store.q = r :: l ∧ r.ch ≠ .refresh ∧
      r.worn ((s.modPwr fun p => { p with holdup := true })) = none ∧ ((s.modPwr fun p => { p with holdup := true })).plan r = .go p) ∧
    (∃ (r : StoreReq) (l : List StoreReq) (s : State), (s.pwr.held = false ∧ s.portBusy = false ∧ s.mem.usable = true ∧ s.store.foreign = false ∧
      s.pwr.brace = false) ∧ s.store.q = r :: l ∧ r.ch ≠ .refresh ∧ s.store.wait = false) ∧
    (∃ (b : Bool) (s : State), s.pwr.held = true) ∧
    (∃ (r : StoreReq) (l : List StoreReq) (s : State), s.pwr.held = false ∧ s.store.prog = none ∧ s.portBusy = true ∧ s.store.q = r :: l ∧
      r.ch ≠ .refresh) ∧
    (∃ (r : StoreReq) (l : List StoreReq) (p : Prog) (s : State), (s.pwr.held = false ∧ s.portBusy = false ∧ s.mem.usable = true ∧
      s.store.foreign = false ∧ s.pwr.brace = false) ∧ s.store.q = r :: l ∧ s.store.wait = true ∧
      r.worn ((s.modPwr fun p => { p with holdup := true })) = none ∧ ((s.modPwr fun p => { p with holdup := true })).plan r = .go p) ∧
    (∃ (s : State), s.store.wait = false) ∧
    (∃ (i : Nat) (r : StoreReq) (h : Hdr) (s : State), s.store.wait = true ∧ s.store.q[i]? = some r ∧ r.h = some h ∧ (∀ p, r.ch ≠ .age p) ∧
      (∀ k a b, r.ch ≠ .restore k a b) ∧ (∀ c, r.ch ≠ .cal c)) ∧
    (∃ (i : Nat) (s : State), s.store.wait = false) ∧
    (∃ (p : Prog) (r : StoreReq) (l : List StoreReq) (h : Hdr) (seed : Nat) (e : Nat) (s : State), s.store.prog = some p ∧ s.store.q = r :: l ∧
      s.pwr.held = false ∧ s.pwr.brace = false ∧ s.mem.waiting = [] ∧ r.h = some h ∧ r.ch = .epoch seed e ∧ p.ty = 0x11) ∧
    (∃ (p : Prog) (r : StoreReq) (l : List StoreReq) (h : Hdr) (seed : Nat) (e : Nat) (i : Nat) (c : Bool) (s : State), s.store.prog = some p ∧
      s.store.q = r :: l ∧ s.pwr.held = false ∧ s.pwr.brace = false ∧ s.mem.waiting = [] ∧ r.h = some h ∧ h.door ≠ 6 ∧ r.ch = .epoch seed e ∧
      2 ≤ p.att) :=
   ⟨⟨rBt, [rE], gp rBt (sQ2x [rBt, rE]), sQ2x [rBt, rE], by refine ⟨?_, ?_, ?_, ?_, rfl⟩ <;> decide +kernel⟩,
    ⟨rBt, [rE], sQ2x [rBt, rE], by decide +kernel⟩,
    ⟨true, (sQ2x [rE]).modPwr fun p => { p with held := true }, by decide +kernel⟩,
    ⟨rE, [], (sQ2x [rE]).modStore er, by decide +kernel⟩,
    ⟨rBt, [rE], gp rBt (wt (sQ2x [rBt, rE])), wt (sQ2x [rBt, rE]), by refine ⟨?_, ?_, ?_, ?_, rfl⟩ <;> decide +kernel⟩,
    ⟨(sQ2x [rE]).modPwr fun p => { p with holdup := false }, by decide +kernel⟩,
    ⟨0, rE, hd, wt (sQ2x [rE]), by refine ⟨rfl, rfl, rfl, ?_, ?_, ?_⟩ <;> intros <;> simp [rE]⟩,
    ⟨0, sQ2x [rE], by decide +kernel⟩,
    ⟨{ pP with ty := 0x11 }, rE, [], hd, 7, 9, sPr1, by decide +kernel⟩,
    ⟨{ pP with att := 2 }, rE, [], hd, 7, 9, 1, false, sPr.modStore fun d => { d with prog := some { pP with att := 2 } }, by decide +kernel⟩⟩

theorem hyps_ErasesAndScrubs :
    (∃ (ring : Bool) (l : Nat) (s : State), (s.pwr.held = false ∧ s.pwr.brace = false ∧ s.pwr.rom = false ∧ s.mem.usable = true ∧
      s.store.foreign = false) ∧ s.portBusy = false ∧ s.eraseTarget ring = some l) ∧
    (∃ (ring : Bool) (s : State), (s.pwr.held = false ∧ s.pwr.brace = false ∧ s.pwr.rom = false ∧ s.mem.usable = true ∧ s.store.foreign = false) ∧
      s.portBusy = true) ∧
    (∃ (ring : Bool) (s : State), ¬ (s.pwr.held = false ∧ s.pwr.brace = false ∧ s.pwr.rom = false ∧ s.mem.usable = true ∧ s.store.foreign = false)) ∧
    (∃ (p : Nat) (l : Nat) (r : Nat) (n : Nat) (s : State), s.store.erasing = some (p, l, r, n) ∧ s.pwr.held = false ∧ s.store.q = [] ∧
      s.mem.waiting = [] ∧ (s.modStore fun d => d.erase p l).worn l = false) ∧
    (∃ (p : Nat) (l : Nat) (r : Nat) (n : Nat) (s : State), s.store.erasing = some (p, l, r, n) ∧ s.pwr.held = false ∧ n < 2) ∧
    (∃ (ok : Bool) (s : State), s.store.erasing = none) ∧
    (∃ (ws : List (BitVec 32 × Bool)) (s : State), s.pwr.held = false ∧ s.pwr.rom = false ∧ s.mem.usable = true ∧ s.store.foreign = false ∧
      s.store.scrubT + s.pv P.dsScrubPeriod ≤ s.gw.secs) ∧
    (∃ (ws : List (BitVec 32 × Bool)) (s : State), s.gw.secs < s.store.scrubT + s.pv P.dsScrubPeriod) ∧
    (∃ (h : Hdr) (ws : List (BitVec 32 × Bool)) (s : State), Taken h 0x0605 s ∧ s.mem.usable = true ∧ s.store.foreign = false) ∧
    (∃ (h : Hdr) (s : State), Taken h 0x0601 s) ∧
    (∃ (h : Hdr) (bd : Fin 8) (s : State), Taken h 0x0604 s ∧ (bd.val = 4 ∨ bd.val = 5) ∧ (s.door bd).stream = none) ∧
    (∃ (h : Hdr) (bd : Fin 8) (s : State), Taken h 0x0602 s ∧ (bd.val = 4 ∨ bd.val = 5) ∧ (s.door bd).stream = none ∧ s.store.foreign = false) ∧
    (∃ (h : Hdr) (bd : Fin 8) (n : BitVec 32) (b : Nat × List Nat × Bool) (s : State), Taken h 0x0603 s ∧ (bd.val = 4 ∨ bd.val = 5) ∧
      (s.door bd).stream = none ∧ s.benchList.find? (·.1 = n.toNat) = some b) ∧
    (∃ (h : Hdr) (s : State), Taken h 0x0A12 s ∧ s.pwr.mode = .stowed ∧ s.mem.usable = true ∧ s.pwr.brace = false ∧ s.pwr.holdup = true ∧
      s.store.foreign = true) ∧
    (∃ (h : Hdr) (s : State), Taken h 0x0A12 s ∧ s.pwr.mode ≠ .stowed) :=
   ⟨⟨true, (sAh.eraseTarget true).getD 0, sAh, by decide +kernel⟩,
    ⟨true, mem er sUp, by decide +kernel⟩,
    ⟨true, inM .service (sUp.modPwr fun p => { p with rom := true }), by decide +kernel⟩,
    ⟨3088, 3088, 3088, 1, mem er sUp, by decide +kernel⟩,
    ⟨3088, 3088, 3088, 1, mem er sUp, by decide +kernel⟩,
    ⟨true, sUp, by decide +kernel⟩,
    ⟨[(227 * 2064 + 1, true), (227 * 2064 + 2, false)], sFl.modGw fun g => { g with secs := 10 ^ 9 }, by decide +kernel⟩,
    ⟨[(227 * 2064 + 1, true)], sFl, by decide +kernel⟩,
    ⟨hd, [(227 * 2064 + 1, true), (227 * 2064 + 2, false)], sFl, by unfold Taken; decide +kernel⟩,
    ⟨hd, sFl, by unfold Taken; decide +kernel⟩,
    ⟨hd, 4, sFl, by unfold Taken; decide +kernel⟩,
    ⟨hd, 4, sFl, by unfold Taken; decide +kernel⟩,
    ⟨hd, 4, 7, (sBe.benchList.headD (0, [], false)), sBe, by unfold Taken; decide +kernel⟩,
    ⟨h7, inM .stowed (mem (fun d => { d with foreign := true }) sUp), by unfold Taken; decide +kernel⟩,
    ⟨h7, mem (fun d => { d with foreign := true }) sUp, by unfold Taken; decide +kernel⟩⟩

theorem hyps_MaintenanceAndFirmware :
    (∃ (h : Hdr) (c : Ch) (l : List (BitVec 32)) (s : State), Taken h 0x0A13 s ∧ dtcOk (l.map (·.toNat)) = true) ∧
    (∃ (h : Hdr) (c : Ch) (l : List (BitVec 32)) (s : State), Taken h 0x0A13 s ∧ dtcOk (l.map (·.toNat)) = false) ∧
    (∃ (h : Hdr) (core : BitVec 10) (l : List (BitVec 18)) (s : State), Taken h 0x0A14 s ∧ core.toNat < 532) ∧
    (∃ (h : Hdr) (core : BitVec 10) (pos : List Nat) (t₀ : Nat) (wid : List (BitVec 14)) (vern : List (BitVec 16)) (ofs : BitVec 21) (trim : BitVec 6) (valid : Bool) (temp : BitVec 16) (secs : BitVec 48) (s : State), Taken h 0x0A14 s ∧ core.toNat < 532 ∧ s.cal.part0 = some (core.toNat, pos, t₀) ∧ t₀ ≤ s.now ∧ s.now - t₀ ≤ 10 * secU ∧ temp.toInt ≠ -32768 ∧ CorrSet.ok ⟨pos, wid.map (·.toNat), vern.map (·.toNat), ofs.toNat, valid⟩ = true) ∧
    (∃ (h : Hdr) (node : Bool) (v : W128) (s : State), Taken h 0x0A15 s ∧ s.otp.written node = false ∧ s.pwr.brace = false ∧ s.pwr.holdup = true) ∧
    (∃ (h : Hdr) (node : Bool) (v : W128) (s : State), Taken h 0x0A15 s ∧ s.otp.written node = true) ∧
    (∃ (f : Nat) (x : Nat) (h : Hdr) (l : List (Nat × Nat × Option Hdr)) (s : State), s.otp.rows = (f, x, some h) :: l ∧ s.pwr.held = false ∧
      s.pwr.brace = false ∧ s.pwr.holdup = true) ∧
    (∃ (b : Bool) (s : State), s.otp.rows = []) ∧
    (∃ (h : Hdr) (k : Fin 4) (s : State), Taken h 0x0805 s ∧ s.img.any (·.key = k.val) = false) ∧
    (∃ (h : Hdr) (k : Fin 4) (s : State), Taken h 0x0805 s ∧ s.img.any (·.key = k.val) = true) ∧
    (∃ (h : Hdr) (s : State), Taken h 0x0801 s) ∧
    (∃ (h : Hdr) (bd : Fin 8) (n : BitVec 32) (s : State), Taken h 0x0802 s ∧ (bd.val = 4 ∨ bd.val = 5) ∧ (s.door bd).stream = none ∧
      s.imageQueued = false) ∧
    (∃ (h : Hdr) (bd : Fin 8) (n : BitVec 32) (s : State), Taken h 0x0804 s ∧ s.pwr.rom = true ∧ (bd.val = 4 ∨ bd.val = 5) ∧ (s.door bd).stream = none) ∧
    (∃ (h : Hdr) (bd : Fin 8) (n : BitVec 32) (s : State), Taken h 0x0804 s ∧ s.pwr.rom = false) ∧
    (∃ (h : Hdr) (i : Img) (s : State), Taken h 0x0803 s ∧ s.img = some i ∧ i.trial = true) ∧
    (∃ (h : Hdr) (s : State), Taken h 0x0803 s ∧ s.img.any (·.trial) = false) :=
   ⟨⟨h7, 96, dl2x, sUp, by unfold Taken; decide +kernel⟩,
    ⟨h7, 96, dl2x.drop 1, sUp, by unfold Taken; decide +kernel⟩,
    ⟨h7, 100, tp, sUp, by unfold Taken; decide +kernel⟩,
    ⟨h7, 100, tp.map (·.toNat), 45 * secU, List.replicate 64 4096, vn, 7, 5, true, 100, 9, sP02x, by unfold Taken; decide +kernel⟩,
    ⟨h7, true, 5, sUp, by unfold Taken; decide +kernel⟩,
    ⟨h7, true, 5, sUp.modOtp fun o => { o with node := some 7 }, by unfold Taken; decide +kernel⟩,
    ⟨0, 5, hd, [(1, 5, none)], sRow 0 5, by decide +kernel⟩,
    ⟨true, sUp, by decide +kernel⟩,
    ⟨h7, 1, sIm true, by unfold Taken; decide +kernel⟩,
    ⟨h7, 2, sIm true, by unfold Taken; decide +kernel⟩,
    ⟨hd, sIm true, by unfold Taken; decide +kernel⟩,
    ⟨hd, 4, 100, sUp, by unfold Taken; decide +kernel⟩,
    ⟨hd, 4, 100, sUp.modPwr fun p => { p with rom := true }, by unfold Taken; decide +kernel⟩,
    ⟨hd, 4, 100, sUp, by unfold Taken; decide +kernel⟩,
    ⟨hd, im true, sIm true, by unfold Taken; decide +kernel⟩,
    ⟨hd, sIm false, by unfold Taken; decide +kernel⟩⟩

theorem hyps_GaugesAndWear :
    (∃ (temp : BitVec 16) (s : State), s.pwr.rom = false ∧ s.pwr.held = false) ∧
    (∃ (m : GwMeas) (s : State), s.pwr.rom = false ∧ s.pwr.held = false ∧ s.gw.last + s.gw.per ≤ s.gw.secs) ∧
    (∃ (m : GwMeas) (s : State), s.gw.secs < s.gw.last + s.gw.per) ∧
    (∃ (h : Hdr) (m : GwMeas) (s : State), Taken h 0x0703 s) ∧
    (∃ (i : Nat) (s : State), s.ts.st = .locked ∧ s.gw.slot = none ∧ s.rgClaimTop = some i) ∧
    (∃ (s : State), s.ts.st ≠ .locked ∧ s.gw.slot = none) ∧
    (∃ (k : OctIx) (tune : Int) (s : State), (s.oct k).loop.st = .locked ∧ (s.oct k).loop.warned = false ∧ s.pv (P.mlTuneWarn + 16 * k) < tune.natAbs) ∧
    (∃ (k : OctIx) (tune : Int) (s : State), ((s.oct k).loop.st ≠ .locked ∨ (s.oct k).loop.warned = true)) ∧
    (∃ (h : Hdr) (bd : Fin 8) (first : BitVec 32) (n : BitVec 16) (s : State), Taken h 0x0702 s ∧ (bd.val = 4 ∨ bd.val = 5) ∧ (s.door bd).stream = none) ∧
    (∃ (h : Hdr) (bd : Fin 8) (s : State), Taken h 0x0701 s ∧ (bd.val = 4 ∨ bd.val = 5) ∧ (s.door bd).stream = none) ∧
    (∃ (h : Hdr) (g : Fin 16) (n : Fin 4096) (i : Nat) (s : State), Taken h 0x0704 s ∧ gwIx g n = some i) ∧
    (∃ (h : Hdr) (g : Fin 16) (n : Fin 4096) (s : State), Taken h 0x0704 s ∧ gwIx g n = none) ∧
    (∃ (h : Hdr) (g : Fin 16) (n : Fin 4096) (i : Nat) (s : State), Taken h 0x0705 s ∧ gwIx g n = some i ∧ (s.gwi i).want ≠ 0) ∧
    (∃ (h : Hdr) (g : Fin 16) (n : Fin 4096) (i : Nat) (s : State), Taken h 0x0705 s ∧ gwIx g n = some i ∧ (s.gwi i).want = 0) :=
   ⟨⟨100, sLoop .locked, by decide +kernel⟩,
    ⟨gm, lh 10000000 sUp, by decide +kernel⟩,
    ⟨gm, lh 10 sUp, by decide +kernel⟩,
    ⟨hd, gm, lh 10 sUp, by unfold Taken; decide +kernel⟩,
    ⟨15, sTs .locked, by decide +kernel⟩,
    ⟨sTs .coasting, by decide +kernel⟩,
    ⟨3, 30000, sLoop .locked, by decide +kernel⟩,
    ⟨3, -32768, sLoop .acq, by decide +kernel⟩,
    ⟨hd, 4, 1, 5, sAg, by unfold Taken; decide +kernel⟩,
    ⟨hd, 4, sAg, by unfold Taken; decide +kernel⟩,
    ⟨h7, 3, 96, (gwIx 3 96).getD 0, sUp, by unfold Taken; decide +kernel⟩,
    ⟨h7, 15, 4095, sUp, by unfold Taken; decide +kernel⟩,
    ⟨h7, 3, 96, ix, sWant 1, by unfold Taken; decide +kernel⟩,
    ⟨h7, 3, 96, ix, sUp, by unfold Taken; decide +kernel⟩⟩

theorem hyps_FramesAndShortFrames :
    (∃ (s : State), s.pwr.held = false) ∧
    (∃ (f : Frame) (i : Instr) (s : State), i ∈ [Instr.regWr f, .regRd f, .bulkWr f, .bulkRd f, .nop f, .indWr f, .indRd f, .loop f] ∧ f.edges = 0) ∧
    (∃ (f : Frame) (i : Instr) (s : State), i ∈ [Instr.regRd f, .bulkRd f, .nop f, .indWr f, .indRd f, .loop f] ∧ f.edges ≠ 0 ∧ s.pwr.held = false) ∧
    (∃ (n : Fin 32) (ready : Bool) (s : State), s.pwr.held = false ∧ n.val ≠ 0 ∧ n.val * laneN s.hp.il < 32) ∧
    (∃ (f : Frame) (i : Instr) (s : State), i ∈ [Instr.regWr f, .regRd f, .bulkWr f, .bulkRd f, .nop f, .indWr f, .indRd f, .loop f, .edgelessSelect] ∧
      s.pwr.held = true) :=
   ⟨⟨sUp, by decide +kernel⟩,
    ⟨fr 0 0 0 [], .regWr (fr 0 0 0 []), sUp, by decide +kernel⟩,
    ⟨fr 0 0 32 [], .indRd (fr 0 0 32 []), sUp, by decide +kernel⟩,
    ⟨31, true, sUp, by decide +kernel⟩,
    ⟨fr 0 0 2 [], .edgelessSelect, sUp.modPwr fun p => { p with held := true }, by decide +kernel⟩⟩

theorem hyps_FrameReads :
    (∃ (f : Frame) (s : State), PlainFrame 32 f s ∧ f.door = 0) ∧
    (∃ (f : Frame) (s : State), PlainFrame 32 f s ∧ f.door = 0 ∧ (f.addr.toNat < 0x8000 → canon f.addr.toNat ≠ 0x141)) ∧
    (∃ (f : Frame) (s : State), PlainFrame 32 f s ∧ f.door = 0 ∧ f.addr.toNat < 0x8000 ∧ canon f.addr.toNat = 0x141) ∧
    (∃ (f : Frame) (s : State), PlainFrame 32 f s ∧ f.door = 0 ∧ s.hp.payload % 32 = 0) ∧
    (∃ (f : Frame) (s : State), PlainFrame 32 f s ∧ f.door ≠ 4 ∧ f.door ≠ 5 ∧ 32 * f.addr.toNat + s.hp.payload ≤ 2048) ∧
    (∃ (f : Frame) (st : Stream) (s : State), PlainFrame 32 f s ∧ (f.door = 4 ∨ f.door = 5) ∧ (s.door f.door).stream = some st) ∧
    (∃ (f : Frame) (s : State), PlainFrame (32 + s.hp.payload) f s ∧ f.door = 0) ∧
    (∃ (f : Frame) (a : Nat) (s : State), s.pwr.held = false ∧ s.pwr.brace = false ∧ s.hp.il = 0 ∧ s.hp.ol = 0 ∧ s.hp.nOut = 32 ∧ s.hp.wait = false ∧
      s.hp.fx = .ind a ∧ f.ready = true ∧ f.ring = false ∧ f.door = 0) :=
   ⟨⟨fr 0 7 32 [], sUp, by unfold PlainFrame; decide +kernel⟩,
    ⟨fr 0 0x0C2 32 [], sTs .locked, by unfold PlainFrame; decide +kernel⟩,
    ⟨fr 0 0x141 32 [], sUp, by unfold PlainFrame; decide +kernel⟩,
    ⟨fr 0 0 32 [], hpl 64 sUp, by unfold PlainFrame; decide +kernel⟩,
    ⟨fr 1 2 32 [], hpl 64 (dr 1 (fun d => { d with words := [(0, 99), (1, 2^127+5)] }) sUp), by unfold PlainFrame; decide +kernel⟩,
    ⟨fr 4 2 32 [], stm, hpl 64 sStm, by unfold PlainFrame; decide +kernel⟩,
    ⟨fr 0 0 (32+64) [1,2], hpl 64 sUp, by unfold PlainFrame; decide +kernel⟩,
    ⟨fr 0 0 64 [], 9, sDel, by decide +kernel⟩⟩

theorem hyps_FrameWrites :
    (∃ (f : Frame) (w : BitVec 32) (s : State), PlainFrame 64 f s ∧ f.door = 0 ∧ f.pay = [w] ∧
      ((s.modHp fun h => { h with low := true }).regWrite .host f.addr.toNat w.toNat f.me).2.hp.low = true ∧
      ((s.modHp fun h => { h with low := true }).regWrite .host f.addr.toNat w.toNat f.me).1 ≠ .badop) ∧
    (∃ (f : Frame) (w : BitVec 32) (s : State), PlainFrame 64 f s ∧ f.door = 0 ∧ f.pay = [w] ∧ f.addr.toNat < 0x8000 ∧ canon f.addr.toNat = 0x046) ∧
    (∃ (f : Frame) (w : BitVec 32) (s : State), PlainFrame 64 f s ∧ f.door = 0 ∧ f.pay = [w] ∧ f.addr.toNat < 0x8000 ∧
      isGuarded (canon f.addr.toNat) = true ∧ s.reg.armed = false) ∧
    (∃ (f : Frame) (s : State), PlainFrame (32 + s.hp.payload) f s ∧ f.door.val < 4 ∧ (s.door f.door).st ≠ .busy ∧
      32 * f.addr.toNat + s.hp.payload ≤ 2048) ∧
    (∃ (f : Frame) (s : State), PlainFrame (32 + s.hp.payload) f s ∧ f.door = 7 ∧ s.reg.armed = true ∧ (s.door 7).st ≠ .busy ∧
      32 * f.addr.toNat + s.hp.payload ≤ 2048) ∧
    (∃ (f : Frame) (s : State), PlainFrame (32 + s.hp.payload) f s ∧ f.door = 7 ∧ s.reg.armed = false ∧ 32 * f.addr.toNat + s.hp.payload ≤ 2048) ∧
    (∃ (f : Frame) (s : State), PlainFrame (32 + s.hp.payload) f s ∧ f.door.val < 4 ∧ (s.door f.door).st = .busy ∧
      32 * f.addr.toNat + s.hp.payload ≤ 2048) ∧
    (∃ (f : Frame) (st : Stream) (s : State), PlainFrame (32 + s.hp.payload) f s ∧ (f.door = 4 ∨ f.door = 5) ∧ (s.door f.door).st = .reply ∧
      (s.door f.door).stream = some st ∧ st.inbound = true) ∧
    (∃ (f : Frame) (s : State), PlainFrame (32 + s.hp.payload) f s ∧ f.door = 0 ∧ s.hp.payload % 32 = 0) ∧
    (∃ (op : BitVec 4) (f : Frame) (s : State), PlainFrame 32 f s ∧ (op = 0 ∨ 9 ≤ op.toNat)) ∧
    (∃ (f : Frame) (s : State), PlainFrame 32 f s ∧ f.door = 6) :=
   ⟨⟨fr 0 0x040 64 [3], 3, sUp, by unfold PlainFrame; decide +kernel⟩,
    ⟨fr 0 0x046 64 [5], 5, sCh, by unfold PlainFrame; decide +kernel⟩,
    ⟨fr 0 0x103 64 [5], 5, sUp, by unfold PlainFrame; decide +kernel⟩,
    ⟨fr 0 2 96 [5, 6], hpl 64 sUp, by unfold PlainFrame; decide +kernel⟩,
    ⟨fr 7 2 72 [5, 0xFF000000], hpl 40 sArm, by unfold PlainFrame; decide +kernel⟩,
    ⟨fr 7 2 72 [5, 0xFF000000], hpl 40 sUp, by unfold PlainFrame; decide +kernel⟩,
    ⟨fr 3 2 72 [5, 0xFF000000], hpl 40 (dr 3 (fun d => { d with st := .busy }) sUp), by unfold PlainFrame; decide +kernel⟩,
    ⟨fr 4 2 72 [5, 0xFF000000], stm2x, hpl 40 sStm2x, by unfold PlainFrame; decide +kernel⟩,
    ⟨fr 0 2 96 [5, 0xFF000000], hpl 64 sStm2x, by unfold PlainFrame; decide +kernel⟩,
    ⟨0, fr 0 2 32 [], sUp, by unfold PlainFrame; decide +kernel⟩,
    ⟨fr 6 2 32 [], sUp, by unfold PlainFrame; decide +kernel⟩⟩

theorem hyps_KeyWritesAndGuardedWrites :
    (∃ (s : State), s.pwr.held = false ∧ s.reg.lockout = false) ∧
    (∃ (w : W32) (s : State), s.pwr.held = false ∧ s.reg.lockout = false ∧ w ≠ 0xC0B1) ∧
    (∃ (w : W32) (s : State), s.pwr.held = false ∧ s.reg.lockout = true) ∧
    (∃ (s : State), s.reg.lockout = true) ∧
    (∃ (a : BitVec 15) (w : W32) (me : Meas) (s : State), isGuarded (canon a.toNat) = true ∧ s.reg.armed = false) ∧
    (∃ (a : BitVec 15) (w : W32) (me : Meas) (s : State), s.pwr.held = false ∧ canon a.toNat = 0x103 ∧ s.reg.armed = true ∧ s.otp.oem = none ∧
      s.pwr.holdup = true ∧ s.pwr.brace = false) ∧
    (∃ (w : W32) (s : State), s.pwr.held = false ∧ s.reg.armed = true ∧ s.otp.oem = none ∧ s.pwr.holdup = true ∧ s.pwr.brace = false) ∧
    (∃ (w : W32) (s : State), s.pwr.held = false ∧ s.reg.armed = true ∧ s.otp.node = none ∧ s.pwr.holdup = true ∧ s.pwr.brace = false) ∧
    (∃ (node : Bool) (w : W32) (s : State), s.pwr.held = false ∧ s.reg.armed = true ∧ s.otp.written node = true) ∧
    (∃ (node : Bool) (w : W32) (s : State), s.pwr.held = false ∧ s.reg.armed = true ∧ s.otp.written node = false ∧
      (s.pwr.holdup = false ∨ s.pwr.brace = true)) :=
   ⟨⟨sUp, by decide +kernel⟩,
    ⟨0xC0B2, sUp, by decide +kernel⟩,
    ⟨0xC0B1, sUp.modReg fun r => { r with lockout := true }, by decide +kernel⟩,
    ⟨sUp.modReg fun r => { r with lockout := true }, by decide +kernel⟩,
    ⟨0x103, 5, me0, sUp, by decide +kernel⟩,
    ⟨0x103, 5, me0, sArm, by decide +kernel⟩,
    ⟨5, sArm, by decide +kernel⟩,
    ⟨5, sArm, by decide +kernel⟩,
    ⟨true, 5, sArm.modOtp fun o => { o with node := some 5, oem := some 6 }, by decide +kernel⟩,
    ⟨true, 5, sArm.modPwr fun p => { p with holdup := false }, by decide +kernel⟩⟩

theorem hyps_ClearsNeedCurrentRead :
    (∃ (m : Master) (a : BitVec 15) (w : W32) (s : State), s.pwr.held = false ∧ isRs (canon a.toNat) = true) ∧
    (∃ (m : Master) (a : BitVec 15) (w : W32) (me : Meas) (s : State), isRs (canon a.toNat) = true) ∧
    (∃ (host : Bool) (w : W32) (r : RsReg), w.setWidth 8 = r.seq ∧ (if host then r.host else r.cob) = some r.n) ∧
    (∃ (host : Bool) (w : W32) (r : RsReg), (w.setWidth 8 ≠ r.seq ∨ (if host then r.host else r.cob) ≠ some r.n)) ∧
    (∃ (m : Master) (a : BitVec 15) (s : State), s.pwr.held = false ∧ isRs (canon a.toNat) = true) ∧
    (∃ (host : Bool) (w : W32) (r : RsReg) (l : List Nat), l ≠ []) ∧
    (∃ (a : BitVec 15) (s : State), s.pwr.held = false ∧ canon a.toNat = 0x0C2) :=
   ⟨⟨.host, 0x0C2, 5, sUp, by decide +kernel⟩,
    ⟨.host, 0x0C2, 5, me0, sUp, by decide +kernel⟩,
    ⟨true, 0x0001, rs0.noteRead true, by decide +kernel⟩,
    ⟨true, 0xFFFFFF01, rs0, by decide +kernel⟩,
    ⟨.host, 0x0C2, sUp, by decide +kernel⟩,
    ⟨true, 0xFFFFFF01, RsReg.init, [3], by decide +kernel⟩,
    ⟨0x0C2, sUp.modTs fun t => { t with ev := t.ev.raise 3 }, by decide +kernel⟩⟩

theorem hyps_RegistersAndIndirectAccess :
    (∃ (a : BitVec 15) (w : W32) (s : State), s.pwr.held = false ∧ canon a.toNat = 0x00C) ∧
    (∃ (a : BitVec 15) (w : W32) (k : OctIx) (s : State), s.pwr.held = false ∧ canon a.toNat = 0x203 + 32 * k.val) ∧
    (∃ (a : BitVec 15) (l : Fin 32) (i : Fin 3) (s : State), s.pwr.held = false ∧ canon a.toNat = 0x180 + 4 * l.val) ∧
    (∃ (a : BitVec 15) (w : W32) (i : Fin 3) (s : State), s.pwr.held = false ∧ canon a.toNat = 0x104 + i.val) ∧
    (∃ (m : Master) (a : BitVec 15) (w : W32) (s : State), s.pwr.held = false ∧ canon a.toNat = 0x044 ∧ s.hp.lanesW = false ∧ bits w.toNat 0 2 ≠ 3 ∧
      bits w.toNat 2 2 ≠ 3) ∧
    (∃ (m : Master) (a : BitVec 15) (w : W32) (s : State), s.pwr.held = false ∧ canon a.toNat = 0x044 ∧ s.hp.lanesW = true) ∧
    (∃ (w : W32) (s : State), s.pwr.held = false ∧ s.hp.lanesW = false ∧ bits w.toNat 0 2 ≠ 3 ∧ bits w.toNat 2 2 ≠ 3) ∧
    (∃ (w : W32) (s : State), s.pwr.held = false ∧ s.hp.lanesW = false ∧ (bits w.toNat 0 2 = 3 ∨ bits w.toNat 2 2 = 3)) ∧
    (∃ (w : W32) (s : State), s.pwr.held = false ∧ s.hp.lanesW = true) ∧
    (∃ (m : Master) (a : BitVec 10) (b : Fin 32) (d : Bool) (me : Meas) (s : State), s.pwr.held = false ∧ canon a.toNat = 0x046) ∧
    (∃ (m : Master) (a : BitVec 15) (w : W32) (me : Meas) (s : State), s.pwr.held = false ∧ canon a.toNat = 0x0C1) ∧
    (∃ (s : State), s.pwr.held = false ∧ s.domOn pdRef = true) ∧
    (∃ (r : Rec) (q : List Rec) (s : State), s.devq.copies = r :: q) ∧
    (∃ (s : State), s.pwr.held = false) ∧
    (∃ (s : State), s.pwr.held = false ∧ s.reg.addr % 4 = 0 ∧ indMapped s.reg.addr = true ∧ (s.reg.addr < 0x200000 ∨ 0x300000 ≤ s.reg.addr) ∧
      (s.indWord s.reg.addr).absent = false) ∧
    (∃ (w : Nat) (ue : Bool) (i : Nat) (s : State), s.pwr.held = false ∧ s.reg.rdLatch = some (s.reg.addr - i, w, ue) ∧ i ≠ 0 ∧ s.reg.addr % 4 = i) ∧
    (∃ (s : State), s.pwr.held = false ∧ s.reg.addr % 4 = 0 ∧ (s.indWord s.reg.addr).absent = true) ∧
    (∃ (w : W32) (s : State), s.pwr.held = false) ∧
    (∃ (w : W32) (s : State), s.pwr.held = false) ∧
    (∃ (w : W32) (s : State), s.pwr.held = false) :=
   ⟨⟨0x00C, 7, sUp, by decide +kernel⟩,
    ⟨0x203, 7, 0, sUp, by decide +kernel⟩,
    ⟨0x184, 1, 2, sUp, by decide +kernel⟩,
    ⟨0x105, 99, 1, sUp, by decide +kernel⟩,
    ⟨.host, 0x044, 5, sUp, by decide +kernel⟩,
    ⟨.cobbler, 0x044, 0, sUp.modHp fun h => { h with lanesW := true }, by decide +kernel⟩,
    ⟨5, sUp, by decide +kernel⟩,
    ⟨3, sUp, by decide +kernel⟩,
    ⟨3, sUp.modHp fun h => { h with lanesW := true }, by decide +kernel⟩,
    ⟨.host, 0x046, 5, true, me0, sUp, by decide +kernel⟩,
    ⟨.host, 0x0C1, 0xFFFFFFFF, me0, sUp, by decide +kernel⟩,
    ⟨sTs .locked, by decide +kernel⟩,
    ⟨rr2x 0x800 5, [rr2x 0x801 6], { sUp with devq := { sUp.devq with copies := [rr2x 0x800 5, rr2x 0x801 6] } }, by decide +kernel⟩,
    ⟨sUp, by decide +kernel⟩,
    ⟨atA 0, by decide +kernel⟩,
    ⟨5 + 2^64, true, 2, (atA 2).modReg fun r => { r with rdLatch := some (0, 5 + 2^64, true) }, by decide +kernel⟩,
    ⟨(atA 0).modPwr fun p => { p with pwr := 7 }, by decide +kernel⟩,
    ⟨7, atA 0xF00000, by decide +kernel⟩,
    ⟨0x12345678, atA 0, by decide +kernel⟩,
    ⟨0x12345678, atA 0, by decide +kernel⟩⟩

theorem hyps_DoorsRingAndStream :
    (∃ (d : Fin 8) (me : Meas) (s : State), s.pwr.held = false ∧ d.val < 4 ∧ (s.door d).st ≠ .busy) ∧
    (∃ (d : Fin 8) (me : Meas) (s : State), s.pwr.held = false ∧ d.val < 4 ∧ (s.door d).st = .busy) ∧
    (∃ (me : Meas) (s : State), s.pwr.held = false ∧ s.reg.armed = true ∧ (s.door 7).st ≠ .busy) ∧
    (∃ (me : Meas) (s : State), s.reg.armed = false) ∧
    (∃ (d : Fin 8) (me : Meas) (tag : BitVec 16) (s : State), s.pwr.held = false ∧ d.val < 4 ∧ (s.door d).st ≠ .busy ∧ s.pwr.rom = false ∧
      (s.door d).words.get 0 0 = BitVec.ofNat 128 (fld 112 16 0x0101 + fld 96 16 tag.toNat + fld 80 16 16)) ∧
    (∃ (d : Fin 8) (me : Meas) (tag : BitVec 16) (cmd : BitVec 16) (s : State), s.pwr.held = false ∧ d.val < 4 ∧ (s.door d).st ≠ .busy ∧
      s.pwr.rom = false ∧ cmdForm cmd.toNat 0 = none ∧
      (s.door d).words.get 0 0 = BitVec.ofNat 128 (fld 112 16 cmd.toNat + fld 96 16 tag.toNat + fld 80 16 16)) ∧
    (∃ (e : Event) (q : List Event) (s : State), (s.door 6).st = .reply ∧ s.mbox.evLostNew = 0 ∧ s.mbox.evq = e :: q) ∧
    (∃ (s : State), (s.door 6).st = .reply ∧ s.mbox.evLostNew = 0 ∧ s.mbox.evq = []) ∧
    (∃ (s : State), 512 ≤ s.mbox.evq.length) ∧
    (∃ (five : Bool) (st : Stream) (s : State), s.pwr.held = false ∧ (s.door (4 + bit five)).st = .reply ∧ (s.door (4 + bit five)).stream = some st ∧
      st.inbound = false ∧ st.last = true) ∧
    (∃ (five : Bool) (st : Stream) (s : State), s.pwr.held = false ∧ (s.door (4 + bit five)).st = .reply ∧ (s.door (4 + bit five)).stream = some st ∧
      st.inbound = false ∧ st.last = false) ∧
    (∃ (five : Bool) (st : Stream) (s : State), s.pwr.held = false ∧ (s.door (4 + bit five)).st = .reply ∧ (s.door (4 + bit five)).stream = some st ∧
      st.inbound = true ∧ st.headOk ((s.door (4 + bit five)).words.get 0 0).toNat = true ∧
      ((s.door (4 + bit five)).words.get 0 0).toNat.testBit 16 = false) ∧
    (∃ (five : Bool) (st : Stream) (s : State), s.pwr.held = false ∧ (s.door (4 + bit five)).st = .reply ∧ (s.door (4 + bit five)).stream = some st ∧
      st.inbound = true ∧ st.opener.door.val ≠ 4 + bit five ∧ st.headOk ((s.door (4 + bit five)).words.get 0 0).toNat = false) ∧
    (∃ (five : Bool) (st : Stream) (s : State), (s.door (4 + bit five)).st = .reply ∧ (s.door (4 + bit five)).stream = some st ∧
      st.opener.door.val ≠ 4 + bit five) ∧
    (∃ (h : Hdr) (bd : Fin 8) (st : Stream) (s : State), Taken h 0x0104 s ∧ (bd.val = 4 ∨ bd.val = 5) ∧ (s.door bd).stream = some st ∧
      st.opener.door.val ≠ bd.val ∧ st.opener.door ≠ h.door) ∧
    (∃ (h : Hdr) (bd : Fin 8) (s : State), Taken h 0x0104 s ∧ bd.val ≠ 4 ∧ bd.val ≠ 5) :=
   ⟨⟨1, me0, msgHead 0x0102 7 sUp, by decide +kernel⟩,
    ⟨1, me0, dr 1 (fun d => { d with st := .busy }) (msgHead 0x0102 7 sUp), by decide +kernel⟩,
    ⟨me0, sUp.modReg fun r => { r with armed := true }, by decide +kernel⟩,
    ⟨me0, sUp, by decide +kernel⟩,
    ⟨1, me0, 9, msgHead 0x0101 9 sUp, by decide +kernel⟩,
    ⟨1, me0, 9, 0x0FFF, msgHead 0x0FFF 9 sUp, by decide +kernel⟩,
    ⟨ev0, [ev0], sEv, by decide +kernel⟩,
    ⟨sEv.modMbox fun m => { m with evq := [] }, by decide +kernel⟩,
    ⟨sEv.modMbox fun m => { m with evq := List.replicate 512 ev0 }, by decide +kernel⟩,
    ⟨false, so 0 true, sSo (so 0 true), by decide +kernel⟩,
    ⟨false, so 20 false, sSo (so 20 false), by decide +kernel⟩,
    ⟨false, si, sIn hOk si, by decide +kernel⟩,
    ⟨false, si, sIn 5 si, by decide +kernel⟩,
    ⟨false, si, sIn 5 si, by decide +kernel⟩,
    ⟨h1, 4, si, sIn 5 si, by unfold Taken; decide +kernel⟩,
    ⟨h1, 3, sIn 5 si, by unfold Taken; decide +kernel⟩⟩

theorem hyps_InformationCommands :
    (∃ (h : Hdr) (s : State), Taken h 0x0101 s) ∧
    (∃ (h : Hdr) (s : State), Taken h 0x0102 s) ∧
    (∃ (h : Hdr) (s : State), Taken h 0x0103 s) ∧
    (∃ (h : Hdr) (s : State), Taken h 0x0306 s) ∧
    (∃ (h : Hdr) (c : Ch) (s : State), Taken h 0x0306 s) ∧
    (∃ (h : Hdr) (l : List Item) (ws : List Nat) (s : State), Taken h 0x0201 s ∧ (s.taken h).readItems 0 l = .ok ws ∧ ws.length ≤ 15) ∧
    (∃ (h : Hdr) (l : List Item) (r : Rep) (s : State), Taken h 0x0201 s ∧ (s.taken h).readItems 0 l = .error r) ∧
    (∃ (x : Item) (d : PDef) (l : List Item) (s : State), pFind x.id.toNat = some d ∧ d.perCh = false ∧ x.ch = 0xFFF) ∧
    (∃ (h : Hdr) (bd : Fin 8) (s : State), Taken h 0x0207 s ∧ (bd.val = 4 ∨ bd.val = 5) ∧ (s.door bd).stream = none) :=
   ⟨⟨hd, sCh, by unfold Taken; decide +kernel⟩,
    ⟨hd, sCh, by unfold Taken; decide +kernel⟩,
    ⟨hd, sTs .coasting, by unfold Taken; decide +kernel⟩,
    ⟨hd, sTs .coasting, by unfold Taken; decide +kernel⟩,
    ⟨hd, 96, sCh, by unfold Taken; decide +kernel⟩,
    ⟨hd, [it P.hashSeed 0xFFF 0, it P.fmax 96 0], ri [it P.hashSeed 0xFFF 0, it P.fmax 96 0] sCh, sCh, by refine ⟨by unfold Taken; decide +kernel, rfl, by decide +kernel⟩⟩,
    ⟨hd, [it 0xFFFF 0xFFF 0], re [it 0xFFFF 0xFFF 0] sCh, sCh, by refine ⟨by unfold Taken; decide +kernel, rfl⟩⟩,
    ⟨it P.hashSeed 0xFFF 0, (pFind P.hashSeed).getD ⟨0,.nat 0 1,0,true,true,true,false,0,0⟩, [it P.hashSeed 0xFFF 0], sCh, by decide +kernel⟩,
    ⟨hd, 5, { sCh with par := { sCh.par with lasts := [(3, [(P.hopFreq0, 7)]), (7, [])] } }, by unfold Taken; decide +kernel⟩⟩

theorem hyps_ParametersAndLasts :
    (∃ (h : Hdr) (l : List Item) (r : Rep) (s : State), Taken h 0x0202 s ∧ (s.taken h).badparam 0 l = some r) ∧
    (∃ (h : Hdr) (l : List Item) (r : Rep) (s : State), Taken h 0x0202 s ∧ (s.taken h).badparam 0 l = none ∧ (s.taken h).itemErr 0 l = none ∧
      (s.taken h).writeErr h.door (l.map (itemWrite false)) = some r) ∧
    (∃ (h : Hdr) (l : List Item) (s : State), Taken h 0x0202 s ∧ (s.taken h).badparam 0 l = none ∧ (s.taken h).itemErr 0 l = none ∧
      (s.taken h).writeErr h.door (l.map (itemWrite false)) = none ∧ (∃ w ∈ l.map (itemWrite false), (pFind w.id).any (·.persists) = true)) ∧
    (∃ (h : Hdr) (l : List Item) (s : State), Taken h 0x0202 s ∧ (s.taken h).badparam 0 l = none ∧ (s.taken h).itemErr 0 l = none ∧
      (s.taken h).writeErr h.door (l.map (itemWrite false)) = none ∧ (∀ w ∈ l.map (itemWrite false), (pFind w.id).any (·.persists) = false)) ∧
    (∃ (h : Hdr) (i : Fin 24) (v : BitVec 96) (s : State), Taken h 0x0202 s ∧ ((pFind (P.latchSrc + i.val)).any fun d => d.ty.ok v.toNat) = true) ∧
    (∃ (h : Hdr) (l : List Item) (r : Rep) (s : State), Taken h 0x0203 s ∧ (s.taken h).badparam 0 l = none ∧ (s.taken h).itemErr 0 l = none ∧
      (s.taken h).writeErr h.door (l.map (itemWrite true)) = some r) ∧
    (∃ (h : Hdr) (l : List Item) (s : State), Taken h 0x0203 s ∧ (s.taken h).badparam 0 l = none ∧ (s.taken h).itemErr 0 l = none ∧
      (s.taken h).writeErr h.door (l.map (itemWrite true)) = none ∧ (∃ w ∈ l.map (itemWrite true), (pFind w.id).any (·.persists) = true)) ∧
    (∃ (h : Hdr) (l : List Item) (s : State), Taken h 0x0203 s ∧ (s.taken h).badparam 0 l = none ∧ (s.taken h).itemErr 0 l = none ∧
      (s.taken h).writeErr h.door (l.map (itemWrite true)) = none ∧ (∀ w ∈ l.map (itemWrite true), (pFind w.id).any (·.persists) = false)) ∧
    (∃ (h : Hdr) (n : Fin 64) (c : Ch) (s : State), Taken h 0x0204 s ∧ s.lastUser n.val = none ∧
      (h.door = 7 ∨ look ((s.taken h).lastFor c) P.fmax = none)) ∧
    (∃ (h : Hdr) (n : Fin 64) (c : Ch) (d : Nat) (s : State), Taken h 0x0204 s ∧ s.lastUser n.val = some d) ∧
    (∃ (h : Hdr) (n : Fin 64) (s : State), Taken h 0x0206 s ∧ s.lastUser n.val = none) ∧
    (∃ (h : Hdr) (n : Fin 64) (d : Nat) (s : State), Taken h 0x0206 s ∧ s.lastUser n.val = some d) ∧
    (∃ (h : Hdr) (n : BitVec 8) (c0 : Ch) (c1 : Ch) (s : State), Taken h 0x0205 s ∧ (n.toNat < 64 ∨ n = 0xFF) ∧ c0.val ≤ c1.val ∧
      (∀ c, c0.val ≤ c → c ≤ c1.val → s.lastOk c = true) ∧
      (h.door = 7 ∨ look (if n = 0xFF then [] else (look s.par.lasts n.toNat).getD []) P.fmax = none) ∧
      (c1.val < 256 ∨ look (if n = 0xFF then [] else (look s.par.lasts n.toNat).getD []) P.chAutostart = none) ∧
      (∀ c id, c0.val ≤ c → c ≤ c1.val → id ∈ lastable → ((s.taken h).withChange (.lastApply n.toNat c0 c1)).cp c id ≠ s.cp c id → ((s.taken h).withChange (.lastApply n.toNat c0 c1)).crossErr ⟨id, some c, some (((s.taken h).withChange (.lastApply n.toNat c0 c1)).cp c id)⟩ = none ∧ ((s.taken h).withChange (.lastApply n.toNat c0 c1)).modeErr ⟨id, some c, some (((s.taken h).withChange (.lastApply n.toNat c0 c1)).cp c id)⟩ = none)) ∧
    (∃ (h : Hdr) (n : BitVec 8) (c0 : Ch) (c1 : Ch) (s : State), Taken h 0x0205 s ∧ n.toNat < 64 ∧ c1.val < c0.val) ∧
    (∃ (h : Hdr) (n : BitVec 8) (c : Ch) (s : State), Taken h 0x0205 s ∧ n.toNat < 64 ∧ s.lastOk c = false) :=
   ⟨⟨hd, [it 0xFFFF 0xFFF 0], bad [it 0xFFFF 0xFFF 0] sCh, sCh, by unfold Taken; decide +kernel⟩,
    ⟨hd, [it P.latchSrc 0xFFF 0xABC], we false [it P.latchSrc 0xFFF 0xABC] sCh, sCh, by unfold Taken; decide +kernel⟩,
    ⟨hd, [it P.braceShed 0xFFF 1], sCh, by unfold Taken; decide +kernel⟩,
    ⟨hd, [it P.latchSrc 0xFFF 0x800], sCh, by unfold Taken; decide +kernel⟩,
    ⟨hd, 3, 0x800, sCh, by unfold Taken; decide +kernel⟩,
    ⟨hd, [it P.fmax 96 0], we true [it P.fmax 96 0] sCh, sCh, by unfold Taken; decide +kernel⟩,
    ⟨hd, [it P.braceShed 0xFFF 1], sCh, by unfold Taken; decide +kernel⟩,
    ⟨hd, [it P.latchSrc 0xFFF 1], sCh, by unfold Taken; decide +kernel⟩,
    ⟨hd, 5, 96, sUp, by unfold Taken; decide +kernel⟩,
    ⟨hd, 5, 97, 96, lu, by unfold Taken; decide +kernel⟩,
    ⟨hd, 4, lu, by unfold Taken; decide +kernel⟩,
    ⟨hd, 5, 96, lu, by unfold Taken; decide +kernel⟩,
    ⟨hd, 3, 10, 10, ls, by
    have one (c : Nat) (h : (10 : Fin 264).val ≤ c) (g : c ≤ (10 : Fin 264).val) : c = 10 := Nat.le_antisymm g h
    refine ⟨by unfold Taken; decide +kernel, by decide, by decide, ?_, by decide +kernel, by decide +kernel, ?_⟩
    · intro c h g; rw [one c h g]; decide +kernel
    · intro c id h g; rw [one c h g]; revert id; decide +kernel⟩,
    ⟨hd, 3, 13, 12, ls, by unfold Taken; decide +kernel⟩,
    ⟨hd, 3, 96, sCh, by unfold Taken; decide +kernel⟩⟩

theorem hyps_PatternTestsRunAndEnd :
    (∃ (h : Hdr) (unit : BitVec 16) (kind : BitVec 4) (pat : BitVec 8) (secs : BitVec 32) (s : State), Taken h 0x0901 s ∧
      (s.taken h).testErr kind.toNat unit.toNat pat.toNat = none ∧ kind ≠ 5) ∧
    (∃ (h : Hdr) (unit : BitVec 16) (pat : BitVec 8) (secs : BitVec 32) (s : State), Taken h 0x0901 s ∧
      (s.taken h).testErr 5 unit.toNat pat.toNat = none ∧ (∀ r ∈ s.tests, r.kind ≠ 5) ∧ s.per.q.length < 4) ∧
    (∃ (h : Hdr) (unit : BitVec 16) (kind : BitVec 4) (pat : BitVec 8) (secs : BitVec 32) (r : Rep) (s : State), Taken h 0x0901 s ∧
      (s.taken h).testErr kind.toNat unit.toNat pat.toNat = some r) ∧
    (∃ (h : Hdr) (unit : BitVec 16) (ms : List (Fin 7 × BitVec 64 × BitVec 32)) (s : State), Taken h 0x0902 s) ∧
    (∃ (kind : Fin 7) (unit : BitVec 16) (b : BitVec 64) (e : BitVec 32) (r : TestRun) (s : State), s.testOf kind unit.toNat = some r ∧ r.secs ≠ 0) ∧
    (∃ (kind : Fin 7) (unit : BitVec 16) (r : TestRun) (s : State), s.testOf kind unit.toNat = some r ∧ r.syncT = none) ∧
    (∃ (kind : Fin 7) (unit : BitVec 16) (us : BitVec 16) (r : TestRun) (s : State), s.testOf kind unit.toNat = some r ∧ kind.val ≠ 3 ∧ r.sync = false) ∧
    (∃ (kind : Fin 7) (unit : BitVec 16) (b : BitVec 64) (e : BitVec 32) (r : TestRun) (s : State), s.testOf kind unit.toNat = some r ∧ kind.val ≠ 3 ∧
      r.sync = true ∧ r.eye = none) ∧
    (∃ (kind : Fin 7) (unit : BitVec 16) (b : BitVec 64) (e : BitVec 32) (r : TestRun) (s : State), s.testOf kind unit.toNat = some r ∧ kind.val ≠ 3 ∧
      r.sync = true ∧ r.eye.isSome = true) ∧
    (∃ (h : Hdr) (c : Ch) (bd : Fin 8) (r : TestRun) (s : State), Taken h 0x0903 s ∧ s.testOf 0 c = some r ∧ r.sync = true ∧ r.eye = none ∧
      (bd.val = 4 ∨ bd.val = 5) ∧ (s.door bd).stream = none) ∧
    (∃ (h : Hdr) (c : Ch) (bd : Fin 8) (s : State), Taken h 0x0903 s ∧ s.testOf 0 c = none) ∧
    (∃ (c : Ch) (l : List (BitVec 32)) (h : Hdr) (bd : Nat) (r : TestRun) (s : State), s.testOf 0 c = some r ∧ r.eye = some (h, bd) ∧ (bd = 4 ∨ bd = 5) ∧
      h.door.val ≠ bd ∧ (s.door bd).stream = none ∧ l.length = 64) :=
   ⟨⟨hd, 97, 0, 3, 10, sCh, by unfold Taken; decide +kernel⟩,
    ⟨hd, 0, 3, 5, sCh, by unfold Taken; decide +kernel⟩,
    ⟨hd, 96, 0, 3, 5, .fail .mode, sCh, by unfold Taken; decide +kernel⟩,
    ⟨hd, 97, [(0, 5, 6)], sT, by unfold Taken; decide +kernel⟩,
    ⟨0, 97, 5, 6, tr 0 97 3, d6 sT, by decide +kernel⟩,
    ⟨0, 97, tr 0 97 3, d6 sT, by decide +kernel⟩,
    ⟨0, 97, 500, tr 0 97 3, sT, by decide +kernel⟩,
    ⟨0, 97, 50, 4, { tr 0 97 3 with sync := true, bits := 7 }, wT [{ tr 0 97 3 with sync := true, bits := 7 }] sT, by decide +kernel⟩,
    ⟨0, 97, 100, 3, te, wT [te] sCh, by decide +kernel⟩,
    ⟨hd, 97, 4, { tr 0 97 3 with sync := true, bits := 7 }, wT [{ tr 0 97 3 with sync := true, bits := 7 }] sT, by unfold Taken; decide +kernel⟩,
    ⟨hd, 96, 4, sT, by unfold Taken; decide +kernel⟩,
    ⟨97, List.replicate 64 7, hd, 4, te, wT [te] sT, by decide +kernel⟩⟩

theorem hyps_PortsFillAndTransfer :
    (∃ (n : BitVec 16) (k : Nat) (ws : List FWord) (s : State), ((∃ i, s.img = some i ∧ i.sram = false ∧ i.slot = k) ∧ s.pwr.held = false ∧
      (s.mem.lines.any fun l => l.1 = n.toNat) = false) ∧ s.readsOpen = true ∧ s.mem.waiting = [] ∧ s.codeLine k n.toNat = some ws ∧
      (∀ w ∈ ws, w.cls ≠ .bad)) ∧
    (∃ (n : BitVec 16) (k : Nat) (ws : List FWord) (s : State), ((∃ i, s.img = some i ∧ i.sram = false ∧ i.slot = k) ∧ s.pwr.held = false ∧
      (s.mem.lines.any fun l => l.1 = n.toNat) = false) ∧ s.readsOpen = true ∧ s.mem.waiting = [] ∧ s.codeLine k n.toNat = some ws ∧
      (∃ w ∈ ws, w.cls = .bad)) ∧
    (∃ (n : BitVec 16) (k : Nat) (s : State), ((∃ i, s.img = some i ∧ i.sram = false ∧ i.slot = k) ∧ s.pwr.held = false ∧
      (s.mem.lines.any fun l => l.1 = n.toNat) = false) ∧ s.readsOpen = false) ∧
    (∃ (n : BitVec 16) (s : State), (∀ k, ¬ ((∃ i, s.img = some i ∧ i.sram = false ∧ i.slot = k) ∧ s.pwr.held = false ∧
      (s.mem.lines.any fun l => l.1 = n.toNat) = false))) ∧
    (∃ (inp : List (BitVec 32)) (e : PEntry) (q : List PEntry) (s : State), s.per.q = e :: q ∧ s.pwr.held = false ∧ e.dac = true) ∧
    (∃ (inp : List (BitVec 32)) (e : PEntry) (q : List PEntry) (s : State), s.per.q = e :: q ∧ s.pwr.held = false ∧ e.dac = false ∧
      (∀ r ∈ s.tests, r.kind ≠ 5)) ∧
    (∃ (inp : List (BitVec 32)) (e : PEntry) (q : List PEntry) (r : TestRun) (s : State), s.per.q = e :: q ∧ s.pwr.held = false ∧ e.dac = false ∧
      s.tests.find? (·.kind = 5) = some r ∧ q.length < 4) ∧
    (∃ (inp : List (BitVec 32)) (s : State), s.per.q = []) :=
   ⟨⟨2, 1, cl (sPf .clean) 2, sPf .clean, by refine ⟨⟨⟨_, rfl, rfl, rfl⟩, rfl, by decide +kernel⟩, by decide +kernel, by decide +kernel, by decide +kernel, by decide +kernel⟩⟩,
    ⟨2, 1, cl (sPf .bad) 2, sPf .bad, by refine ⟨⟨⟨_, rfl, rfl, rfl⟩, rfl, by decide +kernel⟩, by decide +kernel, by decide +kernel, by decide +kernel, by decide +kernel⟩⟩,
    ⟨2, 1, sNoRead, by refine ⟨⟨⟨_, rfl, rfl, rfl⟩, rfl, by decide +kernel⟩, by decide +kernel⟩⟩,
    ⟨2, im2x true, by rintro k ⟨⟨i, hi, hs, _⟩, _⟩; cases hi; cases hs⟩,
    ⟨[1,2,3,4,5], pe true, [pe false], sPe true, by decide +kernel⟩,
    ⟨[1,2,3,4,5], pe false, [pe false], sPe false, by decide +kernel⟩,
    ⟨[1,2,3,4], pe false, [pe false], tr 5 0 3, wT [tr 5 0 3] (sPe false), by decide +kernel⟩,
    ⟨[], sUp, by decide +kernel⟩⟩

theorem hyps_CascadeScanAndHeartbeat :
    (∃ (s : State), s.casRuns = true) ∧
    (∃ (f : CasFrame) (mark : BitVec 96) (s : State), s.casRuns = true ∧ f.role.toNat ≠ s.cas.role ∧ f.role.toNat = 3 - s.cas.role ∧
      (∀ q, s.cas.last = some q → f.seq.toNat = (q + 1) % 2 ^ 16)) ∧
    (∃ (f : CasFrame) (mark : BitVec 96) (t1 : Nat) (t2 : Nat) (t3 : Nat) (s : State), s.casRuns = true ∧ s.cas.role = 2 ∧ s.cas.up = true ∧
      f.role.toNat = 1 ∧ (∀ q, s.cas.last = some q → f.seq.toNat = (q + 1) % 2 ^ 16) ∧ s.devq.xCas.present = true ∧ s.devq.xCas.full = false ∧
      f.stampOk = true ∧ look s.cas.sets f.peerSeq.toNat = some (t1, t2, t3)) ∧
    (∃ (f : CasFrame) (mark : BitVec 96) (s : State), s.casRuns = true ∧ f.role.toNat = s.cas.role ∧ s.cas.up = true) ∧
    (∃ (f : CasFrame) (mark : BitVec 96) (s : State), s.casRuns = true ∧ s.cas.up = false) ∧
    (∃ (f : CasFrame) (mark : BitVec 96) (s : State), s.casRuns = true ∧ s.cas.up = true ∧ s.cas.miss < 7) ∧
    (∃ (f : CasFrame) (mark : BitVec 96) (s : State), s.casRuns = true ∧ s.cas.up = true ∧ 7 ≤ s.cas.miss) ∧
    (∃ (s : State), s.cas.up = true) ∧
    (∃ (s : State), s.waking = true ∧ s.pwr.step = 5 ∧ s.casOn = true ∧ s.cas.up = false) ∧
    (∃ (x : Tap) (s : State), tapHolds x = true ∧ tapHolds s.tap = false ∧ s.store.prog = none ∧ s.store.erasing = none) ∧
    (∃ (x : Tap) (s : State), tapHolds x = tapHolds s.tap) ∧
    (∃ (x : Tap) (s : State), tapHolds x = false ∧ tapHolds s.tap = true ∧ s.railsUp = true) ∧
    (∃ (s : State), tapHolds s.tap = false) ∧
    (∃ (s : State), tapHolds s.tap = true ∧ s.railsUp = true) ∧
    (∃ (s : State), s.pwr.held = false ∧ s.pwr.rom = false) :=
   ⟨⟨sCas 1, by decide +kernel⟩,
    ⟨cf 2 10 false, 5, sCas 1, by decide +kernel⟩,
    ⟨cf 1 10 true, 5, 1, 2, 3, { sCas 2 with cas := { (sCas 2).cas with sets := [(3, 1, 2, 3)] } }, by decide +kernel⟩,
    ⟨cf 2 10 true, 5, sCas 2, by decide +kernel⟩,
    ⟨cf 2 10 true, 5, { sCas 2 with cas := { (sCas 2).cas with up := false, run := 63 } }, by decide +kernel⟩,
    ⟨cf 1 3 false, 5, sCas 2, by decide +kernel⟩,
    ⟨cf 1 3 false, 5, (sCas 2).modCas fun c => { c with miss := 7 }, by decide +kernel⟩,
    ⟨sCas 2, by decide +kernel⟩,
    ⟨sTr, by decide +kernel⟩,
    ⟨.extest, sCh, by decide +kernel⟩,
    ⟨.idcode, sCh, by decide +kernel⟩,
    ⟨.idcode, { sUp with tap := .clamp, pwr := { sUp.pwr with held := true, rail := 0xFF } }, by decide +kernel⟩,
    ⟨sUp, by decide +kernel⟩,
    ⟨{ sUp with tap := .clamp, pwr := { sUp.pwr with held := true, rail := 0xFF } }, by decide +kernel⟩,
    ⟨sUp.modReg fun r => { r with beat := 0xFFFF }, by decide +kernel⟩⟩

theorem hyps_HashIsOneToOne : ∃ (seed : Nat) (k : Nat), k < 8 := ⟨0x6A3C91F5, 7, by decide⟩

theorem hyps_CommandsKeepOtherParts : ∃ (i : Instr) (s t : State), exec i s = .next t ∧ t ≠ s := ⟨.edgelessSelect, sUp, _, rfl, by decide +kernel⟩

theorem hyps_StepKeepsFlashForm : ∃ (s t : State), FlashWf s ∧ s.store.flash ≠ [] ∧ step s = .next t :=
  ⟨sUp.modStore fun d => d.erase 3088 3088, _, rfl, by decide +kernel, rfl⟩

end Sys2Proof.Tests
end

section
/-!
PROOFS. The home hash of R389 is a permutation of 0 to 31 for every seed, because its multiplier is odd; R27 reads the permutation as four engines
of eight home slots.
-/
namespace Sys2Proof.Machine
open Sys2Proof

theorem hashOf_lt (seed k p : Nat) : hashOf seed k p < 32 := Nat.mod_lt _ (by decide)

theorem coprime_32_odd (a : Nat) : Nat.Coprime 32 (2 * a + 1) := by
  have hodd : (2 * a + 1) % 2 = 1 := by omega
  have htwo : Nat.Coprime 2 (2 * a + 1) := by rw [Nat.Coprime, Nat.gcd_rec, hodd, Nat.gcd_one_left]
  exact htwo.pow_left 5

/-- An odd multiplier is cancelled modulo 32; as `≤`, so that one subtraction of natural numbers does. -/
theorem le_of_oddAffine_mod_eq {a b x y : Nat} (hx : x < 32)
    (h : ((2 * a + 1) * x + b) % 32 = ((2 * a + 1) * y + b) % 32) : x ≤ y := by
  have hprod : 32 ∣ (2 * a + 1) * (x - y) := by
    rw [Nat.mul_sub, ← Nat.add_sub_add_right _ b]
    exact Nat.dvd_of_mod_eq_zero (Nat.sub_mod_eq_zero_of_mod_eq h)
  have hdvd : 32 ∣ x - y := (coprime_32_odd a).dvd_of_dvd_mul_left hprod
  omega

theorem eq_of_xor_eq {p q m : Nat} (h : p ^^^ m = q ^^^ m) : p = q :=
  calc p = p ^^^ m ^^^ m := by rw [Nat.xor_assoc, Nat.xor_self, Nat.xor_zero]
    _ = q ^^^ m ^^^ m := by rw [h]
    _ = q := by rw [Nat.xor_assoc, Nat.xor_self, Nat.xor_zero]

/-- An affine map with an odd multiplier, after an exclusive-or, loses nothing modulo 32. -/
theorem oddAffine_xor_inj {a b m p q : Nat} (hm : m < 32) (hp : p < 32) (hq : q < 32)
    (h : ((2 * a + 1) * (p ^^^ m) + b) % 32 = ((2 * a + 1) * (q ^^^ m) + b) % 32) : p = q :=
  eq_of_xor_eq (Nat.le_antisymm
    (le_of_oddAffine_mod_eq (Nat.xor_lt_two_pow (n := 5) hp hm) h)
    (le_of_oddAffine_mod_eq (Nat.xor_lt_two_pow (n := 5) hq hm) h.symm))

theorem hashOf_inj {seed k p q : Nat} (hp : p < 32) (hq : q < 32) (h : hashOf seed k p = hashOf seed k q) : p = q :=
  oddAffine_xor_inj (Nat.mod_lt _ (by decide)) hp hq h

/-- Distinct members of a list that is no longer are its members in some order (core Lean has no such lemma). -/
theorem perm_of_nodup_subset_length {l l' : List Nat} (hnodup : l.Nodup) (hsub : l ⊆ l') (hlen : l'.length ≤ l.length) :
    l.Perm l' := by
  induction l generalizing l' with
  | nil =>
    have hnil : l' = [] := List.eq_nil_of_length_eq_zero (Nat.le_zero.1 hlen)
    exact hnil ▸ .nil
  | cons x xs ih =>
    obtain ⟨hx, hxs⟩ := List.nodup_cons.1 hnodup
    have hmem : x ∈ l' := hsub List.mem_cons_self
    have hrest : xs ⊆ l'.erase x := fun y hy =>
      (List.mem_erase_of_ne (ne_of_mem_of_not_mem hy hx)).2 (hsub (List.mem_cons_of_mem x hy))
    have hshort : (l'.erase x).length ≤ xs.length := by
      rw [List.length_erase_of_mem hmem]
      exact Nat.sub_le_of_le_add hlen
    exact ((ih hxs hrest hshort).cons x).trans (List.perm_cons_erase hmem).symm

theorem map_hashOf_nodup (seed k : Nat) : ((upTo 32).map (hashOf seed k)).Nodup := by
  have hdistinct : (upTo 32).Nodup := List.nodup_range
  refine List.pairwise_map.2 (hdistinct.imp_of_mem fun hp hq hne hh => ?_)
  exact hne (hashOf_inj (List.mem_range.1 hp) (List.mem_range.1 hq) hh)

/-- The permutation of R389: the hashes of the 32 positions of an octant are 0 to 31 in some order. -/
theorem map_hashOf_perm (seed k : Nat) : ((upTo 32).map (hashOf seed k)).Perm (upTo 32) := by
  have hsub : (upTo 32).map (hashOf seed k) ⊆ upTo 32 := fun h hh => by
    obtain ⟨p, -, rfl⟩ := List.mem_map.1 hh
    exact List.mem_range.2 (hashOf_lt seed k p)
  exact perm_of_nodup_subset_length (map_hashOf_nodup seed k) hsub (Nat.le_of_eq (List.length_map _).symm)

theorem hashOf_surj (seed k : Nat) {h : Nat} (hh : h < 32) : ∃ p, p < 32 ∧ hashOf seed k p = h := by
  obtain ⟨p, hp, rfl⟩ := List.mem_map.1 ((map_hashOf_perm seed k).mem_iff.2 (List.mem_range.2 hh))
  exact ⟨p, List.mem_range.1 hp, rfl⟩

/-- Eight of the hashes 0 to 31 name engine `e` of an octant. -/
theorem countP_upTo_engine {e : Nat} (he : e < 4) : (upTo 32).countP (fun h => h / 8 = e) = 8 := by
  match e, he with
  | 0, _ | 1, _ | 2, _ | 3, _ => rfl

theorem countP_hashOf_engine (seed k : Nat) {e : Nat} (he : e < 4) : (upTo 32).countP (fun p => hashOf seed k p / 8 = e) = 8 :=
  calc (upTo 32).countP (fun p => hashOf seed k p / 8 = e)
      = ((upTo 32).map (hashOf seed k)).countP (fun h => h / 8 = e) := by rw [List.countP_map]; rfl
    _ = (upTo 32).countP (fun h => h / 8 = e) := (map_hashOf_perm seed k).countP_eq _
    _ = 8 := countP_upTo_engine he

/-- R389: `h[4:3]` is the engine within the octant. -/
theorem hashEng_position (seed k : Nat) {p : Nat} (hp : p < 32) : hashEng seed (32 * k + p) = 4 * k + hashOf seed k p / 8 := by
  have hk : (32 * k + p) / 32 = k := by omega
  have hpos : (32 * k + p) % 32 = p := by omega
  simp only [hashEng, hk, hpos]

/-- R389: `h[2:0]` is the home slot. -/
theorem hashSlot_position (seed k : Nat) {p : Nat} (hp : p < 32) : hashSlot seed (32 * k + p) = hashOf seed k p % 8 := by
  have hk : (32 * k + p) / 32 = k := by omega
  have hpos : (32 * k + p) % 32 = p := by omega
  simp only [hashSlot, hk, hpos]

/-- Engine and home slot together are the hash, so that two channels of one octant with the same home are one channel. -/
theorem home_position_inj {seed k p q : Nat} (hp : p < 32) (hq : q < 32) (he : hashEng seed (32 * k + p) = hashEng seed (32 * k + q))
    (hs : hashSlot seed (32 * k + p) = hashSlot seed (32 * k + q)) : p = q := by
  rw [hashEng_position seed k hp, hashEng_position seed k hq] at he
  rw [hashSlot_position seed k hp, hashSlot_position seed k hq] at hs
  have hh : hashOf seed k p = hashOf seed k q := by omega
  exact hashOf_inj hp hq hh

/-- Home slot `j` of engine `e` of octant `k` is that of the channel with hash `8 * e + j`. -/
theorem home_position_surj (seed k : Nat) {e j : Nat} (he : e < 4) (hj : j < 8) :
    ∃ p, p < 32 ∧ hashEng seed (32 * k + p) = 4 * k + e ∧ hashSlot seed (32 * k + p) = j := by
  obtain ⟨p, hp, hh⟩ := hashOf_surj seed k (h := 8 * e + j) (by omega)
  refine ⟨p, hp, ?_, ?_⟩
  · rw [hashEng_position seed k hp]; omega
  · rw [hashSlot_position seed k hp]; omega

theorem homes_of_engine_length (seed k : Nat) {e : Nat} (he : e < 4) :
    ((upTo 32).filter fun p => hashEng seed (32 * k + p) = 4 * k + e).length = 8 := by
  rw [← List.countP_eq_length_filter, ← countP_hashOf_engine seed k he]
  refine List.countP_congr fun p hp => ?_
  simp only [hashEng_position seed k (List.mem_range.1 hp), Nat.add_left_cancel_iff]

/-- Settles O30: the hash of an octant's positions is a permutation of 0 to 31 (R389), read as engine and home slot. -/
theorem hashIsOneToOne : Obligations.HashIsOneToOne := by
  intro seed k
  refine ⟨fun p hp => ⟨?_, ?_⟩, fun p q => home_position_inj, fun e j => home_position_surj seed k, fun e => homes_of_engine_length seed k⟩
  · have hlt := hashOf_lt seed k p
    rw [hashEng_position seed k hp]; omega
  · exact Nat.mod_lt _ (by decide)

end Sys2Proof.Machine
end

section
/-!
PROOFS. Frames, short headers and low periods without an edge (R664, R681): what each part of a frame leaves of the host port's own state, then
what a frame does to its counters.
-/
namespace Sys2Proof.Machine
open Sys2Proof

/-! ## The port's own state through the parts of a frame -/

@[simp] theorem State.fault_hp (kind unit fault : Nat) (s : State) : (s.fault kind unit fault).hp = s.hp :=
  Only.hp (l := [.mbox, .flt]) (State.fault_outside _ _ _ _ (by simp) (by simp)) (by simp)

@[simp] theorem State.ask_hp (r : MemReq) (s : State) : (s.ask r).hp = s.hp := rfl

@[simp] theorem State.commitRead_hp (s : State) : s.commitRead.hp = s.hp :=
  Only.hp (l := [.mbox, .reg]) (State.commitRead_outside _ (by simp) (by simp)) (by simp)

@[simp] theorem State.frameRead_hp (op : Nat) (f : Frame) (len : Nat) (s : State) : (s.frameRead op f len).st.hp = s.hp :=
  Only.hp (l := [.ref, .ts, .octs, .mbox, .pwr, .store, .flt, .mem, .reg])
    (State.frameRead_outside _ _ _ _ (by simp) (by simp) (by simp) (by simp) (by simp) (by simp) (by simp) (by simp) (by simp)) (by simp)

/-- Of the operations that write, only REG_WR and BULK_WR reach the port's own state. -/
theorem State.frameWrite_hp {op : Nat} (hreg : op ≠ 1) (hbulk : op ≠ 3) (f : Frame) (n : Nat) (cut : Bool) (s : State) :
    (s.frameWrite op f n cut).2.hp = s.hp := by
  refine Only.hp (l := [.reg, .tests]) ?_ (by simp)
  unfold Only State.frameWrite
  split
  · contradiction
  · contradiction
  · split <;> simp
  · simp
  · rfl

@[simp] theorem HpS.note_frames (st tag op : Nat) (h : HpS) : (h.note st tag op).frames = h.frames := by
  unfold HpS.note; split <;> rfl
@[simp] theorem HpS.note_shortN (st tag op : Nat) (h : HpS) : (h.note st tag op).shortN = h.shortN := by
  unfold HpS.note; split <;> rfl
@[simp] theorem HpS.note_il (st tag op : Nat) (h : HpS) : (h.note st tag op).il = h.il := by
  unfold HpS.note; split <;> rfl

/-- Abandoning pending data leaves the counters of frames and short headers, and the lanes. -/
theorem State.readReady_keeps_counts_lanes (ready : Bool) (s : State) :
    (s.readReady ready).hp.frames = s.hp.frames ∧ (s.readReady ready).hp.shortN = s.hp.shortN ∧ (s.readReady ready).hp.il = s.hp.il := by
  unfold State.readReady
  split
  · exact ⟨rfl, rfl, rfl⟩
  · simp

/-! ## Frames -/

theorem State.edgeless_held {s : State} (hheld : s.pwr.held = true) : s.edgeless = s := if_pos hheld

/-- A frame without an edge is none. -/
theorem State.frame_no_edges (op : Nat) {f : Frame} (hedges : f.edges = 0) (s : State) : s.frame op f = s.edgeless := by
  have he : f.edges.toNat = 0 := by simp [hedges]
  unfold State.frame
  split
  · next hheld => exact (State.edgeless_held hheld).symm
  · exact if_pos he

theorem State.frame_held (op : Nat) (f : Frame) {s : State} (hheld : s.pwr.held = true) : s.frame op f = s := if_pos hheld

/-- A frame whose write leaves the port's own state counts in HP_FRAMES. -/
theorem State.frame_hp_frames (op : Nat) (f : Frame) (s : State) (hheld : s.pwr.held = false) (hedges : f.edges ≠ 0)
    (hw : ∀ n cut t, (State.frameWrite op f n cut t).2.hp = t.hp) : (s.frame op f).hp.frames = satAdd 32 1 s.hp.frames := by
  have he : f.edges.toNat ≠ 0 := fun h => hedges (BitVec.eq_of_toNat_eq h)
  unfold State.frame
  extract_lets e s1 h li lo olen count short whole len bad run pin n cut rd s2 s3 w s4 isBad trunc flen past st tag opn loop sentBits s5 s6
  have h1 : s1.hp.frames = s.hp.frames := (State.readReady_keeps_counts_lanes _ _).1
  have hrd : rd.st.hp = s1.hp := by
    simp only [rd]; split
    · simp
    · rfl
  have h2 : s2.hp = s1.hp := by
    rw [← hrd]; simp only [s2]; split
    · simp
    · rfl
  have h4 : s4.hp = { s1.hp with low := true } := by
    rw [← h2]; simp only [s4, w]; split
    · simp [hw, s3]
    · simp [s3]
  have h6 : s6.hp = s5.hp := by
    simp only [s6]; split
    · simp
    · rfl
  have h5 : s5.hp.frames = satAdd 32 1 s.hp.frames := by simp [s5, h4, h1]
  have hlow : s4.hp.low = true := by rw [h4]
  rw [if_neg (by simp [hheld]), if_neg he, if_neg (by simp [hlow])]
  split
  · rw [State.fault_hp, h6, h5]
  · rw [h6, h5]

/-- The reply that a short header leaves: TRUNC, TAG 0 and its bits, without data, and one more in SHORT_N (R681). -/
theorem State.frame_short_reply (op : Nat) (f : Frame) (s : State) (hheld : s.pwr.held = false) (hedges : f.edges.toNat ≠ 0)
    (hshort : f.edges.toNat * laneN s.hp.il < 32) :
    (s.frame op f).hp.shortN = satAdd 8 1 s.hp.shortN ∧
      (s.frame op f).hp.reply = BitVec.ofNat 32 (2 ^ 24 + f.edges.toNat * laneN s.hp.il) ∧
      (s.frame op f).hp.nOut = 0 ∧ (s.frame op f).hp.out = [] := by
  unfold State.frame
  extract_lets e s1 h li lo olen count short whole len bad run pin n cut rd s2 s3 w s4 isBad trunc flen past st tag opn loop sentBits s5 s6
  obtain ⟨-, h1, hil⟩ : s1.hp.frames = s.hp.frames ∧ s1.hp.shortN = s.hp.shortN ∧ s1.hp.il = s.hp.il := State.readReady_keeps_counts_lanes _ _
  have hcount : count = f.edges.toNat * laneN s.hp.il := by simp only [count, li, h, e, hil]
  have hs : short = true := by simpa only [short, hcount, decide_eq_true_eq] using hshort
  have hrun : run = false := by simp [run, hs]
  have hrd : rd = ⟨0, [], .none, false, false, s1⟩ := by simp [rd, hrun]
  have h2 : s2.hp = s1.hp := by simp only [s2, hrd]; split <;> simp
  have hw : w = (0, s3) := by simp [w, hrun]
  have h4 : s4.hp = { s1.hp with low := true } := by simp [s4, hw, s3, h2]
  have hbad : isBad = false := by simp [isBad, hs, hw]
  have htrunc : trunc = true := by simp [trunc, hs]
  have hst : st = 1 := by simp [st, hbad, hw, hrd, htrunc]
  have htag : tag = 0 := by simp [tag, hs]
  have hloop : loop = false := by simp [loop, hrun]
  have h6 : s6 = s5 := by simp [s6, hrd]
  have hlow : s4.hp.low = true := by rw [h4]
  have hreply : fld 24 8 st + fld 16 8 tag + min 0xFFFF count = 2 ^ 24 + f.edges.toNat * laneN s.hp.il := by
    rw [hst, htag, ← hcount, Nat.min_eq_right (by omega)]; rfl
  rw [if_neg (by simp [hheld]), if_neg hedges, if_neg (by simp [hlow]), if_pos (.inr htrunc), State.fault_hp, h6]
  exact ⟨by simp [s5, h4, h1, hs, bit], congrArg (BitVec.ofNat 32) hreply, by simp [s5, hloop, hrd], by simp [s5, hloop, hrd]⟩

/-- A frame with OP 0 reads and writes nothing: it reaches the port, the effect of the read that it delivers, a read that waits for the memory
port, and its fault. -/
theorem State.frame_zero_only (f : Frame) (s : State) : Only [.hp, .reg, .mbox, .flt, .mem] s (s.frame 0 f) :=
  State.frame_outside_of 0 f s (fun _ _ => rfl) (fun _ _ _ => rfl) (by simp) (by simp) (by simp) (by simp) (by simp)

/-! ## The commands -/

/-- A command of a frame is the frame with its operation. -/
theorem exec_eq_frame {f : Frame} {i : Instr}
    (hi : i ∈ [Instr.regWr f, .regRd f, .bulkWr f, .bulkRd f, .nop f, .indWr f, .indRd f, .loop f]) (s : State) :
    ∃ op, exec i s = .next (s.frame op f) := by
  simp only [List.mem_cons, List.not_mem_nil, or_false] at hi
  obtain rfl | rfl | rfl | rfl | rfl | rfl | rfl | rfl := hi
  · exact ⟨1, rfl⟩
  · exact ⟨2, rfl⟩
  · exact ⟨3, rfl⟩
  · exact ⟨4, rfl⟩
  · exact ⟨5, rfl⟩
  · exact ⟨6, rfl⟩
  · exact ⟨7, rfl⟩
  · exact ⟨8, rfl⟩

/-- The commands of frames that write no register and no door. -/
theorem exec_eq_frame_quiet {f : Frame} {i : Instr} (hi : i ∈ [Instr.regRd f, .bulkRd f, .nop f, .indWr f, .indRd f, .loop f]) (s : State) :
    ∃ op, op ≠ 1 ∧ op ≠ 3 ∧ exec i s = .next (s.frame op f) := by
  simp only [List.mem_cons, List.not_mem_nil, or_false] at hi
  obtain rfl | rfl | rfl | rfl | rfl | rfl := hi
  · exact ⟨2, by decide, by decide, rfl⟩
  · exact ⟨4, by decide, by decide, rfl⟩
  · exact ⟨5, by decide, by decide, rfl⟩
  · exact ⟨6, by decide, by decide, rfl⟩
  · exact ⟨7, by decide, by decide, rfl⟩
  · exact ⟨8, by decide, by decide, rfl⟩

theorem exec_edgelessSelect (s : State) : exec .edgelessSelect s = .next s.edgeless := rfl

theorem exec_shortHeaderFrame {n : Fin 32} (ready : Bool) {s : State} (hshort : n.val * laneN s.hp.il < 32) :
    exec (.shortHeaderFrame n ready) s = .next (s.frame 0 ⟨false, 0, 0, 0, BitVec.ofNat 32 n.val, [], ready, 0, measNone⟩) :=
  if_neg (Nat.not_le.2 hshort)

/-- Settles O49: a frame without an edge is the edgeless select (R664), every other counts itself, and one of fewer than 32 header bits leaves
the reply of R681. -/
theorem framesAndShortFrames : Obligations.FramesAndShortFrames := by
  refine ⟨fun s hheld => ?_, fun f i s hi hedges => ?_, fun f i s hi hedges hheld => ?_, fun n ready s hheld hn hshort => ?_,
    fun f i s hi hheld => ?_⟩
  · simp [exec_edgelessSelect, State.edgeless, hheld, State.modHp]
  · obtain ⟨op, hop⟩ := exec_eq_frame hi s
    rw [hop, State.frame_no_edges op hedges, exec_edgelessSelect]
  · obtain ⟨op, hreg, hbulk, hop⟩ := exec_eq_frame_quiet hi s
    exact ⟨_, hop, State.frame_hp_frames op f s hheld hedges (State.frameWrite_hp hreg hbulk f)⟩
  · have hedges : (BitVec.ofNat 32 n.val).toNat = n.val := by rw [BitVec.toNat_ofNat]; omega
    obtain ⟨hshortN, hreply, hnOut, hout⟩ := State.frame_short_reply 0 ⟨false, 0, 0, 0, BitVec.ofNat 32 n.val, [], ready, 0, measNone⟩ s hheld
      (by rwa [hedges]) (by rwa [hedges])
    rw [hedges] at hreply
    exact ⟨_, exec_shortHeaderFrame ready hshort, hshortN, hreply, hnOut, hout, State.frame_zero_only _ s⟩
  · change i ∈ [Instr.regWr f, .regRd f, .bulkWr f, .bulkRd f, .nop f, .indWr f, .indRd f, .loop f] ++ [.edgelessSelect] at hi
    obtain hframe | hselect := List.mem_append.1 hi
    · obtain ⟨op, hop⟩ := exec_eq_frame hframe s
      rw [hop, State.frame_held op f hheld]
    · rw [List.mem_singleton.1 hselect, exec_edgelessSelect, State.edgeless_held hheld]

end Sys2Proof.Machine
end

section
/-!
PROOFS. RS registers (R704 to R706): what a clear, a read and a delivery of events do to one register, then what a read and a write at its
address do to the state.
-/
namespace Sys2Proof.Machine
open Sys2Proof

/-! ## One RS register -/

/-- The delivered-event count that a master's last read recorded. -/
def RsReg.lastRead (host : Bool) (r : RsReg) : Option Nat := if host then r.host else r.cob

@[simp] theorem RsReg.noteRead_n (host : Bool) (r : RsReg) : (r.noteRead host).n = r.n := by
  cases host <;> rfl
@[simp] theorem RsReg.noteRead_seq (host : Bool) (r : RsReg) : (r.noteRead host).seq = r.seq := by
  cases host <;> rfl
@[simp] theorem RsReg.noteRead_ev (host : Bool) (r : RsReg) : (r.noteRead host).ev = r.ev := by
  cases host <;> rfl
@[simp] theorem RsReg.noteRead_lastRead (host : Bool) (r : RsReg) : (r.noteRead host).lastRead host = some r.n := by
  cases host <;> rfl
@[simp] theorem RsReg.raise_lastRead (host : Bool) (b : Nat) (r : RsReg) : (r.raise b).lastRead host = r.lastRead host := rfl

theorem RsReg.clear_accepted {host : Bool} {w : W32} {r : RsReg} (hseq : w.setWidth 8 = r.seq) (hread : r.lastRead host = some r.n) :
    r.clear host w = { r with ev := r.ev &&& ~~~((w >>> 8).setWidth 24) } := if_pos ⟨hseq, hread⟩

theorem RsReg.clear_refused {host : Bool} {w : W32} {r : RsReg} (h : w.setWidth 8 ≠ r.seq ∨ r.lastRead host ≠ some r.n) :
    r.clear host w = r := if_neg fun ⟨hseq, hread⟩ => h.elim (· hseq) (· hread)

/-- SEQ is the low byte of the register word. -/
theorem RsReg.word_seq (r : RsReg) : r.word.setWidth 8 = r.seq := by
  ext i hi
  simp [RsReg.word]

/-- The event fields stand above it. -/
theorem RsReg.word_ev (r : RsReg) : (r.word >>> 8).setWidth 24 = r.ev := by
  ext i hi
  simp [RsReg.word, hi, show 8 + i < 32 by omega]

/-- A master that writes back the word it read clears every event it saw. -/
theorem RsReg.clear_word_after_read (host : Bool) (r : RsReg) : (r.noteRead host).clear host r.word = { r.noteRead host with ev := 0 } := by
  rw [RsReg.clear_accepted (by rw [RsReg.word_seq, RsReg.noteRead_seq]) (by simp), RsReg.word_ev, RsReg.noteRead_ev, BitVec.and_not_self]

/-- Delivery of the events `l`, one after the other. -/
def RsReg.raiseAll (l : List Nat) (r : RsReg) : RsReg := l.foldl (fun r b => r.raise b) r

theorem RsReg.raiseAll_n (l : List Nat) (r : RsReg) : (r.raiseAll l).n = r.n + l.length := by
  induction l generalizing r with
  | nil => rfl
  | cons b l ih =>
    calc ((r.raise b).raiseAll l).n = (r.raise b).n + l.length := ih _
      _ = r.n + (b :: l).length := by rw [RsReg.raise_n, List.length_cons]; omega

theorem RsReg.raiseAll_lastRead (host : Bool) (l : List Nat) (r : RsReg) : (r.raiseAll l).lastRead host = r.lastRead host := by
  induction l generalizing r with
  | nil => rfl
  | cons b l ih => exact ih (r.raise b)

/-- Events delivered since the read refuse every clear, also 256 of them, after which SEQ reads the same again (R705). -/
theorem RsReg.clear_after_events (host : Bool) (w : W32) (r : RsReg) {l : List Nat} (hl : l ≠ []) :
    ((r.noteRead host).raiseAll l).clear host w = (r.noteRead host).raiseAll l := by
  refine RsReg.clear_refused (.inr ?_)
  have hlen : 0 < l.length := List.length_pos_iff.2 hl
  rw [RsReg.raiseAll_lastRead, RsReg.noteRead_lastRead, RsReg.raiseAll_n, RsReg.noteRead_n, Ne, Option.some.injEq]
  omega

/-! ## Accesses at a direct address -/

theorem State.accessIf_of {p : Bool} {s : State} (hp : p = true) (hheld : s.pwr.held = false) (f : State → State) : s.accessIf p f = f s :=
  if_pos ⟨hp, by simp [hheld]⟩

/-- A whole-word address lies below the addresses of single bits (R697). -/
theorem direct_not_bitAddr (a : BitVec 15) : ¬ 0x8000 ≤ a.toNat := by omega

/-- The addresses of the RS registers. -/
theorem isRs_iff (c : Nat) : isRs c = true ↔
    c = 0x011 ∨ c = 0x0C2 ∨ c = 0x0C3 ∨ c = 0x102 ∨ (0x200 ≤ c ∧ c < 0x300 ∧ (c % 32 = 1 ∨ c % 32 = 8)) := by
  simp [isRs, or_assoc, and_assoc]

theorem isGuarded_of_isRs {c : Nat} (h : isRs c = true) : isGuarded c = false := by
  rw [isRs_iff] at h
  simp only [isGuarded, Bool.or_eq_false_iff, decide_eq_false_iff_not]
  omega

theorem State.putReg_rs (m : Master) {c : Nat} (h : isRs c = true) (w : Nat) (me : Meas) (s : State) :
    s.putReg m c w me = (.ok, s.modRs c (·.clear (m = .host) (BitVec.ofNat 32 w))) := if_pos h

/-- A whole-word write of an RS register is a clear request, answered OK (R705). -/
theorem State.regWrite_rs (m : Master) {a : BitVec 15} (h : isRs (canon a.toNat) = true) (w : W32) (me : Meas) (s : State) :
    s.regWrite m a.toNat w.toNat me = (.ok, s.modRs (canon a.toNat) (·.clear (m = .host) w)) := by
  rw [State.regWrite, if_neg (direct_not_bitAddr a), if_neg (by simp [isGuarded_of_isRs h]), State.putReg_rs m h, BitVec.ofNat_toNat,
    BitVec.setWidth_eq]

/-- A whole-word read of an RS register records the count for its master (R706). -/
theorem State.regRead_rs_st (m : Master) {a : BitVec 15} (h : isRs (canon a.toNat) = true) (s : State) :
    (s.regRead m a.toNat).st = s.modRs (canon a.toNat) (·.noteRead (m = .host)) := by
  have hind : canon a.toNat ≠ 0x141 := fun hc => by simp [hc, isRs] at h
  simp only [State.regRead, if_neg (direct_not_bitAddr a), if_neg hind, if_pos h]

theorem State.modRs_ts (f : RsReg → RsReg) (s : State) : s.modRs 0x0C2 f = s.modTs fun t => { t with ev := f t.ev } := rfl

theorem exec_rsClear (m : Master) {a : BitVec 15} (h : isRs (canon a.toNat) = true) (w : W32) {s : State} (hheld : s.pwr.held = false) :
    exec (.rsClear m a w) s = .next (s.modRs (canon a.toNat) (·.clear (m = .host) w)) :=
  congrArg Host.Outcome.next (State.accessIf_of h hheld _)

theorem exec_rsRead (m : Master) {a : BitVec 15} (h : isRs (canon a.toNat) = true) {s : State} (hheld : s.pwr.held = false) :
    exec (.rsRead m a) s = .next (s.modRs (canon a.toNat) (·.noteRead (m = .host))) :=
  congrArg Host.Outcome.next ((State.accessIf_of h hheld _).trans (State.regRead_rs_st m h s))

/-- REGISTER_WRITE at the address of an RS register is RS_CLEAR, also while the register file is in reset. -/
theorem exec_registerWrite_rs (m : Master) {a : BitVec 15} (h : isRs (canon a.toNat) = true) (w : W32) (me : Meas) (s : State) :
    exec (.registerWrite m a w me) s = exec (.rsClear m a w) s := by
  change Host.Outcome.next (s.accessIf true fun s => (s.regWrite m a.toNat w.toNat me).2) =
    .next (s.accessIf (isRs (canon a.toNat)) fun s => s.modRs (canon a.toNat) (·.clear (m = .host) w))
  simp only [State.regWrite_rs m h, h]

/-- TS_EVENT, read and written back: every event that the host saw is cleared, SEQ stays. -/
theorem tsEvent_read_then_clear {a : BitVec 15} (ha : canon a.toNat = 0x0C2) {s : State} (hheld : s.pwr.held = false) :
    Completes (.rsRead .host a) s fun t =>
      Completes (.rsClear .host a s.ts.ev.word) t fun u => u.ts.ev.ev = 0 ∧ u.ts.ev.seq = s.ts.ev.seq ∧ Only [.ts] s u := by
  have hrs : isRs (canon a.toNat) = true := by rw [ha]; rfl
  refine ⟨_, exec_rsRead .host hrs hheld, ?_⟩
  rw [ha, State.modRs_ts]
  refine ⟨_, exec_rsClear .host hrs _ (by simpa using hheld), ?_⟩
  rw [ha, State.modRs_ts]
  simp [RsReg.clear_word_after_read, Only]

/-- Settles O53: a clear needs SEQ and the delivered-event count of the master's last read, which every event moves on (R705, R706). -/
theorem clearsNeedCurrentRead : Obligations.ClearsNeedCurrentRead :=
  ⟨fun m _ w s hheld h => ⟨congrArg Prod.fst (State.regWrite_rs m h w measNone s), exec_rsClear m h w hheld⟩,
    fun m _ w me s h => exec_registerWrite_rs m h w me s,
    fun _ _ _ => RsReg.clear_accepted,
    fun _ _ _ => RsReg.clear_refused,
    fun m _ _ hheld h => exec_rsRead m h hheld,
    fun host w r _ => RsReg.clear_after_events host w r,
    fun _ _ hheld ha => tsEvent_read_then_clear ha hheld,
    fun host _ => RsReg.clear_refused (.inr (by cases host <;> exact nofun))⟩

end Sys2Proof.Machine
end

section
/-!
PROOFS. The key, guarded writes and the OTP-backed fields (R722 to R724, R728, R730, R731).
-/
namespace Sys2Proof.Machine
open Sys2Proof

/-! ## The key -/

/-- The word that arms the key. -/
theorem State.keyWrite_right {s : State} (hout : s.reg.lockout = false) :
    s.keyWrite 0xC0B1 = (.ok, s.modReg fun r => { r with armed := true, run := 0 }) := by
  simp [State.keyWrite, hout]

/-- REG after a wrong key outside a lock-out: the fourth in a row begins one (R722, R724). -/
def RegS.wrongKey (r : RegS) : RegS :=
  { r with armed := false, keyErr := satAdd 16 1 r.keyErr, run := r.run + 1, lockout := decide (4 ≤ r.run + 1),
           ev := if 4 ≤ r.run + 1 then r.ev.raise 9 else r.ev }

theorem State.keyWrite_wrong {w : Nat} (hw : w ≠ 0xC0B1) {s : State} (hout : s.reg.lockout = false) :
    s.keyWrite w = (.ok, s.modReg RegS.wrongKey) := by
  by_cases h4 : 4 ≤ s.reg.run + 1
  · simp [State.keyWrite, State.modReg, RegS.wrongKey, hout, hw, h4]
  · simp [State.keyWrite, State.modReg, RegS.wrongKey, hout, hw, h4]

theorem State.keyWrite_lockout (w : Nat) {s : State} (hlock : s.reg.lockout = true) : s.keyWrite w = (.locked, s) := if_pos hlock

/-- KEY_WRITE leads to what the write of KEY leaves. -/
theorem exec_keyWrite {w : W32} {s t : State} {st : WrSt} (hheld : s.pwr.held = false) (hkey : s.keyWrite w.toNat = (st, t)) :
    exec (.keyWrite w) s = .next t := by
  change Host.Outcome.next (s.accessIf true fun s => (s.keyWrite w.toNat).2) = _
  rw [State.accessIf_of rfl hheld, hkey]

theorem exec_lockoutEnd {s : State} (hlock : s.reg.lockout = true) :
    exec .lockoutEnd s = .next (s.modReg fun r => { r with lockout := false, run := 0, armed := false }) := if_pos hlock

/-! ## Guarded writes -/

theorem State.guarded_host_unarmed (f : State → WrSt × State) {s : State} (harm : s.reg.armed = false) : s.guarded .host f = (.locked, s) := by
  simp [State.guarded, harm]

theorem State.guarded_host_armed (f : State → WrSt × State) {s : State} (harm : s.reg.armed = true) : s.guarded .host f = f s.disarm := by
  simp [State.guarded, harm, State.disarm]

theorem State.regWrite_guarded (m : Master) {a : Nat} (hdirect : ¬ 0x8000 ≤ a) (h : isGuarded (canon a) = true) (w : Nat) (me : Meas) (s : State) :
    s.regWrite m a w me = s.guarded m fun s => s.putReg m (canon a) w me := by
  rw [State.regWrite, if_neg hdirect, if_pos h]

theorem exec_guardedWrite_unarmed {a : BitVec 15} (h : isGuarded (canon a.toNat) = true) (w : W32) (me : Meas) {s : State}
    (harm : s.reg.armed = false) : exec (.guardedWrite a w me) s = .next s := by
  change Host.Outcome.next (s.accessIf _ fun s => (s.regWrite .host a.toNat w.toNat me).2) = _
  rw [State.accessIf, State.regWrite_guarded .host (direct_not_bitAddr a) h, State.guarded_host_unarmed _ harm, ite_self]

/-! ## The OTP-backed fields -/

@[simp] theorem State.disarm_otp (s : State) : s.disarm.otp = s.otp := rfl
@[simp] theorem State.disarm_pwr (s : State) : s.disarm.pwr = s.pwr := rfl

/-- A field that is written answers WO (R728). -/
theorem State.otpWrite_written {node : Bool} {s : State} (hw : s.otp.written node = true) (v : Nat) :
    s.otpWrite node v = s.woViol (if node then 0x107 else 0x103) := if_pos hw

/-- A write with HOLDUP_OK low or during brace is put off (R731). -/
theorem State.otpWrite_deferred {node : Bool} {s : State} (hw : s.otp.written node = false) (hno : s.pwr.holdup = false ∨ s.pwr.brace = true)
    (v : Nat) : s.otpWrite node v = (.ok, s.modReg fun r => { r with ev := r.ev.raise 10 }) := by
  simp [State.otpWrite, hw, hno]

/-- The first write is taken (R727, R731). -/
theorem State.otpWrite_first {node : Bool} {s : State} (hw : s.otp.written node = false) (hhold : s.pwr.holdup = true) (hbrace : s.pwr.brace = false)
    (v : Nat) : s.otpWrite node v = (.ok, s.modOtp (·.write node v none)) := by
  simp [State.otpWrite, hw, hhold, hbrace]

theorem State.putReg_oem (m : Master) (w : Nat) (me : Meas) (s : State) : s.putReg m 0x103 w me = s.otpWrite false w := rfl

/-- NODE_SERIAL as its committing write `w` completes the host's write shadow (R709). -/
def State.nodeSerial (w : Nat) (s : State) : Nat :=
  let sh := s.reg.wrSh.get [] 0x104
  packB 32 [Tab.get 0 sh 0, Tab.get 0 sh 1, Tab.get 0 sh 2, w]

theorem State.putReg_node (w : Nat) (me : Meas) (s : State) :
    s.putReg .host 0x107 w me = (s.modReg fun r => { r with wrSh := r.wrSh.put 0x104 [] }).otpWrite true (s.nodeSerial w) := rfl

/-- What the committing write of a field leaves before the field answers: the key disarmed, and the write shadow of NODE_SERIAL used up. -/
def State.otpTaken (node : Bool) (s : State) : State :=
  if node then s.disarm.modReg fun r => { r with wrSh := r.wrSh.put 0x104 [] } else s.disarm

/-- The value that the committing write `w` of a field carries. -/
def State.otpValue (node : Bool) (w : Nat) (s : State) : Nat := if node then s.nodeSerial w else w

@[simp] theorem State.otpTaken_otp (node : Bool) (s : State) : (s.otpTaken node).otp = s.otp := by cases node <;> rfl
@[simp] theorem State.otpTaken_pwr (node : Bool) (s : State) : (s.otpTaken node).pwr = s.pwr := by cases node <;> rfl
@[simp] theorem State.otpTaken_armed (node : Bool) (s : State) : (s.otpTaken node).reg.armed = false := by cases node <;> rfl
@[simp] theorem State.otpTaken_ev (node : Bool) (s : State) : (s.otpTaken node).reg.ev = s.reg.ev := by cases node <;> rfl
theorem State.otpTaken_only (node : Bool) (s : State) : Only [.reg] s (s.otpTaken node) := by cases node <;> simp [Only, State.otpTaken]
theorem State.otpTaken_shadow (s : State) : (s.otpTaken true).reg.wrSh.get [] 0x104 = [] := Tab.get_put_same [] s.reg.wrSh 0x104 []

theorem State.regWrite_otpField (node : Bool) (w : Nat) (me : Meas) {s : State} (harm : s.reg.armed = true) :
    s.regWrite .host (if node then 0x107 else 0x103) w me = (s.otpTaken node).otpWrite node (s.otpValue node w) := by
  cases node with
  | false => exact (State.regWrite_guarded .host (by decide) (by decide) w me s).trans (State.guarded_host_armed _ harm)
  | true =>
    rw [State.regWrite_guarded .host (by decide) (by decide), State.guarded_host_armed _ harm]
    exact State.putReg_node w me s.disarm

theorem exec_otpFieldWrite (node : Bool) (w : W32) {s : State} (hheld : s.pwr.held = false) (harm : s.reg.armed = true) :
    exec (.otpFieldWrite node w) s = .next ((s.otpTaken node).otpWrite node (s.otpValue node w.toNat)).2 :=
  congrArg Host.Outcome.next ((State.accessIf_of rfl hheld _).trans (congrArg Prod.snd (State.regWrite_otpField node w.toNat measNone harm)))

/-- A GUARDED_WRITE at an address of OEM_ID is its committing write. -/
theorem exec_guardedWrite_oem {a : BitVec 15} (ha : canon a.toNat = 0x103) (w : W32) (me : Meas) {s : State} (hheld : s.pwr.held = false)
    (harm : s.reg.armed = true) : exec (.guardedWrite a w me) s = .next (s.disarm.otpWrite false w.toNat).2 := by
  have hg : isGuarded (canon a.toNat) = true := by rw [ha]; rfl
  change Host.Outcome.next (s.accessIf _ fun s => (s.regWrite .host a.toNat w.toNat me).2) = _
  rw [State.accessIf_of hg hheld, State.regWrite_guarded .host (direct_not_bitAddr a) hg, State.guarded_host_armed _ harm, ha, State.putReg_oem]

theorem exec_otpFieldWrite_first {node : Bool} (w : W32) {s : State} (hheld : s.pwr.held = false) (harm : s.reg.armed = true)
    (hw : s.otp.written node = false) (hhold : s.pwr.holdup = true) (hbrace : s.pwr.brace = false) :
    exec (.otpFieldWrite node w) s = .next ((s.otpTaken node).modOtp (·.write node (s.otpValue node w.toNat) none)) := by
  rw [exec_otpFieldWrite node w hheld harm, State.otpWrite_first (by simpa) (by simpa) (by simpa)]

theorem exec_otpFieldWrite_written {node : Bool} (w : W32) {s : State} (hheld : s.pwr.held = false) (harm : s.reg.armed = true)
    (hw : s.otp.written node = true) :
    exec (.otpFieldWrite node w) s = .next ((s.otpTaken node).woViol (if node then 0x107 else 0x103)).2 := by
  rw [exec_otpFieldWrite node w hheld harm, State.otpWrite_written (by simpa)]

theorem exec_otpFieldWrite_deferred {node : Bool} (w : W32) {s : State} (hheld : s.pwr.held = false) (harm : s.reg.armed = true)
    (hw : s.otp.written node = false) (hno : s.pwr.holdup = false ∨ s.pwr.brace = true) :
    exec (.otpFieldWrite node w) s = .next ((s.otpTaken node).modReg fun r => { r with ev := r.ev.raise 10 }) := by
  rw [exec_otpFieldWrite node w hheld harm, State.otpWrite_deferred (by simpa) (by simpa)]

/-- Settles O52: the three cases of a write of KEY, the guard, and the three answers of an OTP-backed field. -/
theorem keyWritesAndGuardedWrites : Obligations.KeyWritesAndGuardedWrites := by
  refine ⟨fun s hheld hout => ?_, fun w s hheld hout hw => ?_, fun w s hheld hlock => ?_, fun s => exec_lockoutEnd,
    fun a w me s hg => exec_guardedWrite_unarmed hg w me, fun a w me s hheld ha harm hoem hhold hbrace => ?_,
    fun w s hheld harm hoem => exec_otpFieldWrite_first w hheld harm (by simp [OtpS.written, hoem]),
    fun w s hheld harm hnode hhold hbrace => ?_, fun node w s hheld harm hw => ?_, fun node w s hheld harm hw hno => ?_⟩
  · have hkey := State.keyWrite_right hout
    exact ⟨congrArg Prod.fst hkey, exec_keyWrite hheld hkey⟩
  · have hkey := State.keyWrite_wrong (w := w.toNat) (fun h => hw (BitVec.eq_of_toNat_eq h)) hout
    refine ⟨congrArg Prod.fst hkey, _, exec_keyWrite hheld hkey, rfl, rfl, rfl, rfl, rfl, ?_⟩
    simp [Only]
  · have hkey := State.keyWrite_lockout w.toNat hlock
    exact ⟨congrArg Prod.fst hkey, exec_keyWrite hheld hkey⟩
  · rw [exec_guardedWrite_oem ha w me hheld harm, State.otpWrite_first (by simp [OtpS.written, hoem]) (by simpa) (by simpa), State.disarm]
  · refine ⟨_, exec_otpFieldWrite_first w hheld harm (by simp [OtpS.written, hnode]) hhold hbrace, by simp [State.otpValue, State.nodeSerial],
      by simp, by simpa using State.otpTaken_shadow s, ?_⟩
    simp [Only, State.otpTaken]
  · exact ⟨_, exec_otpFieldWrite_written w hheld harm hw, by simp [State.woViol]⟩
  · exact ⟨_, exec_otpFieldWrite_deferred w hheld harm hw hno, by simp⟩

end Sys2Proof.Machine
end

section
/-!
PROOFS. A part read through a frame: where a chain of operations has a frame law that spares a part, the part is as it was. `simp` proves the frame
of the chain from the laws of Laws/Frame*, so that no chain is unfolded to read one part of its end.
-/
namespace Sys2Proof.Machine
open Sys2Proof

/-- Every part but those of `l`. -/
def allBut (l : List Part) : List Part :=
  [.ref, .pps, .ext, .ts, .latch, .chans, .octs, .dlls, .engs, .arr, .cores, .srcs, .devq, .iv, .ring, .rg, .mbox, .pwr, .par, .store, .flash, .grat,
   .flt, .tests, .cas, .cal, .otp, .img, .mem, .per, .gw, .hp, .reg, .tap, .byp, .pending].filter (· ∉ l)

@[simp] theorem mem_allBut (p : Part) (l : List Part) : p ∈ allBut l ↔ p ∉ l := by
  cases p <;> simp [allBut]

section
variable {s t : State}

theorem State.ref_of_outside (h : t.outside (allBut [.ref]) = s.outside (allBut [.ref])) : t.ref = s.ref := Only.ref h (by simp)
theorem State.pps_of_outside (h : t.outside (allBut [.pps]) = s.outside (allBut [.pps])) : t.pps = s.pps := Only.pps h (by simp)
theorem State.ext_of_outside (h : t.outside (allBut [.ext]) = s.outside (allBut [.ext])) : t.ext = s.ext := Only.ext h (by simp)
theorem State.ts_of_outside (h : t.outside (allBut [.ts]) = s.outside (allBut [.ts])) : t.ts = s.ts := Only.ts h (by simp)
theorem State.latch_of_outside (h : t.outside (allBut [.latch]) = s.outside (allBut [.latch])) : t.latch = s.latch := Only.latch h (by simp)
theorem State.chans_of_outside (h : t.outside (allBut [.chans]) = s.outside (allBut [.chans])) : t.chans = s.chans := Only.chans h (by simp)
theorem State.octs_of_outside (h : t.outside (allBut [.octs]) = s.outside (allBut [.octs])) : t.octs = s.octs := Only.octs h (by simp)
theorem State.dlls_of_outside (h : t.outside (allBut [.dlls]) = s.outside (allBut [.dlls])) : t.dlls = s.dlls := Only.dlls h (by simp)
theorem State.engs_of_outside (h : t.outside (allBut [.engs]) = s.outside (allBut [.engs])) : t.engs = s.engs := Only.engs h (by simp)
theorem State.arr_of_outside (h : t.outside (allBut [.arr]) = s.outside (allBut [.arr])) : t.arr = s.arr := Only.arr h (by simp)
theorem State.cores_of_outside (h : t.outside (allBut [.cores]) = s.outside (allBut [.cores])) : t.cores = s.cores := Only.cores h (by simp)
theorem State.srcs_of_outside (h : t.outside (allBut [.srcs]) = s.outside (allBut [.srcs])) : t.srcs = s.srcs := Only.srcs h (by simp)
theorem State.devq_of_outside (h : t.outside (allBut [.devq]) = s.outside (allBut [.devq])) : t.devq = s.devq := Only.devq h (by simp)
theorem State.iv_of_outside (h : t.outside (allBut [.iv]) = s.outside (allBut [.iv])) : t.iv = s.iv := Only.iv h (by simp)
theorem State.ring_of_outside (h : t.outside (allBut [.ring]) = s.outside (allBut [.ring])) : t.ring = s.ring := Only.ring h (by simp)
theorem State.rg_of_outside (h : t.outside (allBut [.rg]) = s.outside (allBut [.rg])) : t.rg = s.rg := Only.rg h (by simp)
theorem State.mbox_of_outside (h : t.outside (allBut [.mbox]) = s.outside (allBut [.mbox])) : t.mbox = s.mbox := Only.mbox h (by simp)
theorem State.pwr_of_outside (h : t.outside (allBut [.pwr]) = s.outside (allBut [.pwr])) : t.pwr = s.pwr := Only.pwr h (by simp)
theorem State.par_of_outside (h : t.outside (allBut [.par]) = s.outside (allBut [.par])) : t.par = s.par := Only.par h (by simp)
theorem State.grat_of_outside (h : t.outside (allBut [.grat]) = s.outside (allBut [.grat])) : t.grat = s.grat := Only.grat h (by simp)
theorem State.flt_of_outside (h : t.outside (allBut [.flt]) = s.outside (allBut [.flt])) : t.flt = s.flt := Only.flt h (by simp)
theorem State.tests_of_outside (h : t.outside (allBut [.tests]) = s.outside (allBut [.tests])) : t.tests = s.tests := Only.tests h (by simp)
theorem State.cas_of_outside (h : t.outside (allBut [.cas]) = s.outside (allBut [.cas])) : t.cas = s.cas := Only.cas h (by simp)
theorem State.cal_of_outside (h : t.outside (allBut [.cal]) = s.outside (allBut [.cal])) : t.cal = s.cal := Only.cal h (by simp)
theorem State.otp_of_outside (h : t.outside (allBut [.otp]) = s.outside (allBut [.otp])) : t.otp = s.otp := Only.otp h (by simp)
theorem State.img_of_outside (h : t.outside (allBut [.img]) = s.outside (allBut [.img])) : t.img = s.img := Only.img h (by simp)
theorem State.mem_of_outside (h : t.outside (allBut [.mem]) = s.outside (allBut [.mem])) : t.mem = s.mem := Only.mem h (by simp)
theorem State.per_of_outside (h : t.outside (allBut [.per]) = s.outside (allBut [.per])) : t.per = s.per := Only.per h (by simp)
theorem State.gw_of_outside (h : t.outside (allBut [.gw]) = s.outside (allBut [.gw])) : t.gw = s.gw := Only.gw h (by simp)
theorem State.hp_of_outside (h : t.outside (allBut [.hp]) = s.outside (allBut [.hp])) : t.hp = s.hp := Only.hp h (by simp)
theorem State.reg_of_outside (h : t.outside (allBut [.reg]) = s.outside (allBut [.reg])) : t.reg = s.reg := Only.reg h (by simp)
theorem State.tap_of_outside (h : t.outside (allBut [.tap]) = s.outside (allBut [.tap])) : t.tap = s.tap := Only.tap h (by simp)
theorem State.byp_of_outside (h : t.outside (allBut [.byp]) = s.outside (allBut [.byp])) : t.byp = s.byp := Only.byp h (by simp)
theorem State.pending_of_outside (h : t.outside (allBut [.pending]) = s.outside (allBut [.pending])) : t.pending = s.pending := Only.pending h (by simp)
theorem State.flash_of_outside (h : t.outside (allBut [.flash]) = s.outside (allBut [.flash])) : t.store.flash = s.store.flash :=
  Only.flash h (by simp)
theorem State.store_of_outside (h : t.outside (allBut [.store, .flash]) = s.outside (allBut [.store, .flash])) : t.store = s.store :=
  Only.store h (by simp) (by simp)

/-! Units read through a frame. -/

theorem State.chan_of_outside (c : Nat) (h : t.outside (allBut [.chans]) = s.outside (allBut [.chans])) : t.chan c = s.chan c := by
  rw [State.chan, State.chans_of_outside h]; rfl
theorem State.oct_of_outside (k : Nat) (h : t.outside (allBut [.octs]) = s.outside (allBut [.octs])) : t.oct k = s.oct k := by
  rw [State.oct, State.octs_of_outside h]; rfl
theorem State.eng_of_outside (e : Nat) (h : t.outside (allBut [.engs]) = s.outside (allBut [.engs])) : t.eng e = s.eng e := by
  rw [State.eng, State.engs_of_outside h]; rfl
theorem State.core_of_outside (i : Nat) (h : t.outside (allBut [.cores]) = s.outside (allBut [.cores])) : t.core i = s.core i := by
  rw [State.core, State.cores_of_outside h]; rfl
theorem State.src_of_outside (i : Nat) (h : t.outside (allBut [.srcs]) = s.outside (allBut [.srcs])) : t.src i = s.src i := by
  rw [State.src, State.srcs_of_outside h]; rfl
theorem State.dll_of_outside (i : Nat) (h : t.outside (allBut [.dlls]) = s.outside (allBut [.dlls])) : t.dll i = s.dll i := by
  rw [State.dll, State.dlls_of_outside h]; rfl
theorem State.door_of_outside (n : Nat) (h : t.outside (allBut [.mbox]) = s.outside (allBut [.mbox])) : t.door n = s.door n := by
  rw [State.door, State.mbox_of_outside h]; rfl
theorem State.gwi_of_outside (i : Nat) (h : t.outside (allBut [.gw]) = s.outside (allBut [.gw])) : t.gwi i = s.gwi i := by
  rw [State.gwi, State.gw_of_outside h]; rfl
theorem State.rgSlot_of_outside (i : Nat) (h : t.outside (allBut [.rg]) = s.outside (allBut [.rg])) : t.rgSlot i = s.rgSlot i := by
  rw [State.rgSlot, State.rg_of_outside h]; rfl
theorem State.pair_of_outside (p : Nat) (h : t.outside (allBut [.iv]) = s.outside (allBut [.iv])) : t.pair p = s.pair p := by
  rw [State.pair, State.iv_of_outside h]; rfl
theorem State.pv_of_outside (i : Nat) (h : t.outside (allBut [.par, .ts]) = s.outside (allBut [.par, .ts])) : t.pv i = s.pv i := by
  rw [State.pv, Only.par h (by simp), Only.ts h (by simp)]; rfl
theorem State.pi_of_outside (i : Nat) (h : t.outside (allBut [.par, .ts]) = s.outside (allBut [.par, .ts])) : t.pi i = s.pi i := by
  rw [State.pi, State.pv_of_outside i h]; rfl
theorem State.cp_of_outside (c i : Nat) (h : t.outside (allBut [.par]) = s.outside (allBut [.par])) : t.cp c i = s.cp c i := by
  rw [State.cp, State.par_of_outside h]; rfl
theorem State.now_of_outside (h : t.outside (allBut [.ts]) = s.outside (allBut [.ts])) : t.now = s.now := by
  rw [State.now, State.ts_of_outside h]; rfl
theorem State.domOn_of_outside (d : Nat) (h : t.outside (allBut [.pwr]) = s.outside (allBut [.pwr])) : t.domOn d = s.domOn d := by
  rw [State.domOn, State.pwr_of_outside h]; rfl

end

/-! A message taken changes its door alone. -/

section
variable (h : Hdr) (s : State)

@[simp] theorem State.taken_ref : (s.taken h).ref = s.ref := rfl
@[simp] theorem State.taken_pps : (s.taken h).pps = s.pps := rfl
@[simp] theorem State.taken_ext : (s.taken h).ext = s.ext := rfl
@[simp] theorem State.taken_ts : (s.taken h).ts = s.ts := rfl
@[simp] theorem State.taken_latch : (s.taken h).latch = s.latch := rfl
@[simp] theorem State.taken_chans : (s.taken h).chans = s.chans := rfl
@[simp] theorem State.taken_octs : (s.taken h).octs = s.octs := rfl
@[simp] theorem State.taken_dlls : (s.taken h).dlls = s.dlls := rfl
@[simp] theorem State.taken_engs : (s.taken h).engs = s.engs := rfl
@[simp] theorem State.taken_arr : (s.taken h).arr = s.arr := rfl
@[simp] theorem State.taken_cores : (s.taken h).cores = s.cores := rfl
@[simp] theorem State.taken_srcs : (s.taken h).srcs = s.srcs := rfl
@[simp] theorem State.taken_devq : (s.taken h).devq = s.devq := rfl
@[simp] theorem State.taken_iv : (s.taken h).iv = s.iv := rfl
@[simp] theorem State.taken_ring : (s.taken h).ring = s.ring := rfl
@[simp] theorem State.taken_rg : (s.taken h).rg = s.rg := rfl
@[simp] theorem State.taken_pwr : (s.taken h).pwr = s.pwr := rfl
@[simp] theorem State.taken_par : (s.taken h).par = s.par := rfl
@[simp] theorem State.taken_store : (s.taken h).store = s.store := rfl
@[simp] theorem State.taken_grat : (s.taken h).grat = s.grat := rfl
@[simp] theorem State.taken_flt : (s.taken h).flt = s.flt := rfl
@[simp] theorem State.taken_tests : (s.taken h).tests = s.tests := rfl
@[simp] theorem State.taken_cas : (s.taken h).cas = s.cas := rfl
@[simp] theorem State.taken_cal : (s.taken h).cal = s.cal := rfl
@[simp] theorem State.taken_otp : (s.taken h).otp = s.otp := rfl
@[simp] theorem State.taken_img : (s.taken h).img = s.img := rfl
@[simp] theorem State.taken_mem : (s.taken h).mem = s.mem := rfl
@[simp] theorem State.taken_per : (s.taken h).per = s.per := rfl
@[simp] theorem State.taken_gw : (s.taken h).gw = s.gw := rfl
@[simp] theorem State.taken_hp : (s.taken h).hp = s.hp := rfl
@[simp] theorem State.taken_reg : (s.taken h).reg = s.reg := rfl
@[simp] theorem State.taken_tap : (s.taken h).tap = s.tap := rfl
@[simp] theorem State.taken_byp : (s.taken h).byp = s.byp := rfl
@[simp] theorem State.taken_pending : (s.taken h).pending = s.pending := rfl
@[simp] theorem State.taken_chan (c : Nat) : (s.taken h).chan c = s.chan c := rfl
@[simp] theorem State.taken_oct (k : Nat) : (s.taken h).oct k = s.oct k := rfl
@[simp] theorem State.taken_eng (e : Nat) : (s.taken h).eng e = s.eng e := rfl
@[simp] theorem State.taken_core (i : Nat) : (s.taken h).core i = s.core i := rfl
@[simp] theorem State.taken_src (i : Nat) : (s.taken h).src i = s.src i := rfl
@[simp] theorem State.taken_dll (i : Nat) : (s.taken h).dll i = s.dll i := rfl
@[simp] theorem State.taken_gwi (i : Nat) : (s.taken h).gwi i = s.gwi i := rfl
@[simp] theorem State.taken_rgSlot (i : Nat) : (s.taken h).rgSlot i = s.rgSlot i := rfl
@[simp] theorem State.taken_pair (p : Nat) : (s.taken h).pair p = s.pair p := rfl
@[simp] theorem State.taken_pv (i : Nat) : (s.taken h).pv i = s.pv i := rfl
@[simp] theorem State.taken_pi (i : Nat) : (s.taken h).pi i = s.pi i := rfl
@[simp] theorem State.taken_domOn (d : Nat) : (s.taken h).domOn d = s.domOn d := rfl
@[simp] theorem State.taken_cp (c i : Nat) : (s.taken h).cp c i = s.cp c i := rfl
@[simp] theorem State.taken_now : (s.taken h).now = s.now := rfl

end

/-- What each step of a fold keeps, the fold keeps. -/
theorem forAll_keeps {α : Type} {P : State → Prop} {f : α → State → State} (hf : ∀ a s, P s → P (f a s)) (l : List α) {s : State} (hs : P s) :
    P (forAll l f s) := by
  induction l generalizing s with
  | nil => exact hs
  | cons a l ih => exact ih (hf a s hs)

/-- A reading that each step of a fold leaves, the fold leaves. -/
theorem forAll_reads {α β : Type} {r : State → β} {f : α → State → State} (hf : ∀ a s, r (f a s) = r s) (l : List α) (s : State) :
    r (forAll l f s) = r s :=
  forAll_keeps (P := fun t => r t = r s) (fun a t h => (hf a t).trans h) l rfl

/-! A reading of a unit stays where a change of one unit leaves it. -/

section
variable {α : Type} {s : State}

theorem State.modOct_reads {r : Oct → α} {k : Nat} {f : Oct → Oct} (h : r (f (s.oct k)) = r (s.oct k)) (j : Nat) :
    r ((s.modOct k f).oct j) = r (s.oct j) := by
  by_cases e : j = k
  · rw [e, State.modOct_oct, h]
  · rw [State.modOct_oct_ne _ _ _ _ e]

theorem State.modLoop_reads {r : Oct → α} {k : Nat} {f : Loop → Loop} (h : r { s.oct k with loop := f (s.oct k).loop } = r (s.oct k)) (j : Nat) :
    r ((s.modLoop k f).oct j) = r (s.oct j) := State.modOct_reads h j

theorem State.modChan_reads {r : Chan → α} {c : Nat} {f : Chan → Chan} (h : r (f (s.chan c)) = r (s.chan c)) (i : Nat) :
    r ((s.modChan c f).chan i) = r (s.chan i) := by
  by_cases e : i = c
  · rw [e, State.modChan_chan, h]
  · rw [State.modChan_chan_ne _ _ _ _ e]

end

end Sys2Proof.Machine
end

section
/-!
PROOFS. Every command answers a next state, and changes only the parts that `partsOf` lists for it: the frame of its meaning (Laws/Frame*), command
by command.
-/
namespace Sys2Proof.Machine
open Sys2Proof

/-! ## Frames -/

/-- What a frame blanks, a wider frame blanks too. -/
theorem State.outside_outside {l l' : List Part} (h : l ⊆ l') (s : State) : (s.outside l).outside l' = s.outside l' := by
  have blank {α : Type} (p : Part) (d x : α) : (if p ∈ l' then d else if p ∈ l then d else x) = if p ∈ l' then d else x := by
    by_cases hp : p ∈ l
    · simp [h hp]
    · simp [hp]
  have hstore : ((s.outside l).outside l').store = (s.outside l').store := by
    by_cases hs : Part.store ∈ l'
    · simp [State.outside, hs, blank]
    · have hl : Part.store ∉ l := fun g => hs (h g)
      simp [State.outside, hs, hl, blank]
  simp only [State.outside, blank] at hstore ⊢
  rw [hstore]

/-- A frame holds with every wider list of parts. -/
theorem Only.mono {l l' : List Part} (hl : l ⊆ l') {s t : State} (h : Only l s t) : Only l' s t := by
  rw [Only, ← State.outside_outside hl t, h, State.outside_outside hl]

/-- Settles O3: each command's meaning has its frame law; EXT_PERIOD's is narrower than its list. -/
theorem commandsKeepOtherParts : Obligations.CommandsKeepOtherParts := by
  intro i s t h
  cases i with
  | refinMissingEdge _ => exact execRefinMissingEdge_only _ _ _ h
  | refinLoopWindow _ => exact execRefinLoopWindow_only _ _ _ h
  | refinFrequencyGate _ _ => exact execRefinFrequencyGate_only _ _ _ _ h
  | refinFreqWindow _ => exact execRefinFreqWindow_only _ _ _ h
  | mpllLock _ => exact execMpllLock_only _ _ _ h
  | refQual _ => exact execRefQual_only _ _ _ h
  | measurementLoopLost _ => exact execMeasurementLoopLost_only _ _ _ h
  | ppsinEdge _ => exact execPpsinEdge_only _ _ _ h
  | ppsLost => exact execPpsLost_only _ _ h
  | tsStart _ _ _ => exact execTsStart_only _ _ _ _ _ h
  | tsStartExecute _ _ => exact execTsStartExecute_only _ _ _ _ h
  | tsStop _ => exact execTsStop_only _ _ _ h
  | tsSetOffset _ _ => exact execTsSetOffset_only _ _ _ _ h
  | tsAdjust _ _ => exact execTsAdjust_only _ _ _ _ h
  | tsHold _ => exact execTsHold_only _ _ _ h
  | tsRelease _ => exact execTsRelease_only _ _ _ h
  | upLossT => exact execUpLossT_only _ _ h
  | hoQual => exact execHoQual_only _ _ h
  | roleChange => exact execRoleChange_only _ _ h
  | tsTick => exact execTsTick_only _ _ h
  | hoPredictorUpdate _ _ _ _ _ => exact execHoPredictorUpdate_only _ _ _ _ _ _ _ h
  | hoBound => exact execHoBound_only _ _ h
  | extPeriod _ => exact (execExtPeriod_only _ _ _ h).mono (by simp [partsOf])
  | mlLock _ _ => exact execMlLock_only _ _ _ _ h
  | mlLoss _ _ => exact execMlLoss_only _ _ _ _ h
  | mlExcursion _ _ => exact execMlExcursion_only _ _ _ _ h
  | mlAcqT _ => exact execMlAcqT_only _ _ _ h
  | retuneRestoreRetry _ => exact execRetuneRestoreRetry_only _ _ _ h
  | margin _ _ => exact execMargin_only _ _ _ _ h
  | relockPlan _ _ => exact execRelockPlan_only _ _ _ _ h
  | mlRetune _ _ _ _ => exact execMlRetune_only _ _ _ _ _ _ h
  | gratScan _ _ => exact execGratScan_only _ _ _ _ h
  | gratEdit _ _ _ _ _ => exact execGratEdit_only _ _ _ _ _ _ _ h
  | forcedSwitch _ => exact execForcedSwitch_only _ _ _ h
  | switchNoEdge _ _ => exact execSwitchNoEdge_only _ _ _ _ h
  | correctionRecord _ _ _ _ => exact execCorrectionRecord_only _ _ _ _ _ _ h
  | slotLoad _ _ _ => exact execSlotLoad_only _ _ _ _ _ h
  | hopSelWrite _ _ => exact execHopSelWrite_only _ _ _ _ h
  | mrkHopTrigger _ _ => exact execMrkHopTrigger_only _ _ _ _ h
  | chHop _ _ _ => exact execChHop_only _ _ _ _ _ h
  | hopApply _ _ _ => exact execHopApply_only _ _ _ _ _ h
  | hopRampEnd _ _ => exact execHopRampEnd_only _ _ _ _ h
  | dtcTableApply _ => exact execDtcTableApply_only _ _ _ h
  | outPpsPulse _ _ => exact execOutPpsPulse_only _ _ _ _ h
  | chPhaseAdj _ _ _ => exact execChPhaseAdj_only _ _ _ _ _ h
  | chPhaseCancel _ _ => exact execChPhaseCancel_only _ _ _ _ h
  | chTraverse _ _ => exact execChTraverse_only _ _ _ _ h
  | tdcEvent _ _ _ _ => exact execTdcEvent_only _ _ _ _ _ _ h
  | stampRecordWrite _ => exact execStampRecordWrite_only _ _ _ h
  | dllLock _ _ => exact execDllLock_only _ _ _ _ h
  | dllLoss _ => exact execDllLoss_only _ _ _ h
  | dllFail _ => exact execDllFail_only _ _ _ h
  | lineFail _ => exact execLineFail_only _ _ _ h
  | ivRecordProcess _ => exact execIvRecordProcess_only _ _ _ h
  | ivTimeout _ => exact execIvTimeout_only _ _ _ h
  | ivSignedDecide _ => exact execIvSignedDecide_only _ _ _ h
  | stampRead _ _ _ => exact execStampRead_only _ _ _ _ _ h
  | ivRead _ _ _ => exact execIvRead_only _ _ _ _ _ h
  | ivStatus _ _ => exact execIvStatus_only _ _ _ _ h
  | rgRecord _ => exact execRgRecord_only _ _ _ h
  | rgGateClose _ => exact execRgGateClose_only _ _ _ h
  | rgResultWrite _ => exact execRgResultWrite_only _ _ _ h
  | rgClaim _ _ _ => exact execRgClaim_only _ _ _ _ _ h
  | rgRelease _ _ => exact execRgRelease_only _ _ _ _ h
  | rgRead _ _ _ => exact execRgRead_only _ _ _ _ _ h
  | rgStatus _ _ => exact execRgStatus_only _ _ _ _ h
  | dispatchRecord _ => exact execDispatchRecord_only _ _ _ h
  | steeringJob _ => exact execSteeringJob_only _ _ _ h
  | timescaleSteeringJob _ => exact execTimescaleSteeringJob_only _ _ _ h
  | wholeCycleRecordJob _ => exact execWholeCycleRecordJob_only _ _ _ h
  | hopReportJob _ => exact execHopReportJob_only _ _ _ h
  | requestJob _ => exact execRequestJob_only _ _ _ h
  | settleDone _ => exact execSettleDone_only _ _ _ h
  | stealClaim _ _ => exact execStealClaim_only _ _ _ _ h
  | csmFetchDone _ => exact execCsmFetchDone_only _ _ _ h
  | skew _ _ _ => exact execSkew_only _ _ _ _ _ h
  | engEpoch _ _ _ => exact execEngEpoch_only _ _ _ _ _ h
  | epoch => exact execEpoch_only _ _ h
  | parity _ _ => exact execParity_only _ _ _ _ h
  | engineRetire _ _ => exact execEngineRetire_only _ _ _ _ h
  | engineArrayLost => exact execEngineArrayLost_only _ _ h
  | engArrayRebuild _ => exact execEngArrayRebuild_only _ _ _ h
  | engStatus _ _ => exact execEngStatus_only _ _ _ _ h
  | chStart _ _ => exact execChStart_only _ _ _ _ h
  | chStop _ _ => exact execChStop_only _ _ _ _ h
  | chStatus _ _ => exact execChStatus_only _ _ _ _ h
  | acqSlow _ => exact execAcqSlow_only _ _ _ h
  | channelSilence _ => exact execChannelSilence_only _ _ _ h
  | dividerRestartDone _ => exact execDividerRestartDone_only _ _ _ h
  | driver _ => exact execDriver_only _ _ _ h
  | csmUe _ => exact execCsmUe_only _ _ _ h
  | csmRebuild _ _ => exact execCsmRebuild_only _ _ _ _ h
  | handoverSwitch _ => exact execHandoverSwitch_only _ _ _ h
  | handT _ => exact execHandT_only _ _ _ h
  | returnRetry _ => exact execReturnRetry_only _ _ _ h
  | weltFault _ _ => exact execWeltFault_only _ _ _ _ h
  | retirement _ _ => exact execRetirement_only _ _ _ _ h
  | weltTakeover _ => exact execWeltTakeover_only _ _ _ h
  | mntClearRetire _ _ _ => exact execMntClearRetire_only _ _ _ _ _ h
  | devWake _ => exact execDevWake_only _ _ _ h
  | wakeAutoStart => exact execWakeAutoStart_only _ _ h
  | wakeStepDone _ => exact execWakeStepDone_only _ _ _ h
  | wakeRefT => exact execWakeRefT_only _ _ h
  | bypassExit => exact execBypassExit_only _ _ h
  | devService _ => exact execDevService_only _ _ _ h
  | devSurvey _ => exact execDevSurvey_only _ _ _ h
  | devStow _ => exact execDevStow_only _ _ _ h
  | devReset _ => exact execDevReset_only _ _ _ h
  | coldReset _ _ _ _ => exact execColdReset_only _ _ _ _ _ _ h
  | railLost _ => exact execRailLost_only _ _ _ h
  | railRegained _ => exact execRailRegained_only _ _ _ h
  | cobRestart _ => exact execCobRestart_only _ _ _ h
  | brace _ _ => exact execBrace_only _ _ _ _ h
  | braceDone => exact execBraceDone_only _ _ h
  | braceRel => exact execBraceRel_only _ _ h
  | holdupWaitExpiry _ => exact execHoldupWaitExpiry_only _ _ _ h
  | queueReadyFall _ => exact execQueueReadyFall_only _ _ _ h
  | peerAbsent _ _ => exact execPeerAbsent_only _ _ _ _ h
  | queueHandshakeDone _ => exact execQueueHandshakeDone_only _ _ _ h
  | calRun _ _ _ => exact execCalRun_only _ _ _ _ _ h
  | calSurvey _ _ _ => exact execCalSurvey_only _ _ _ _ _ h
  | calStatus _ _ _ => exact execCalStatus_only _ _ _ _ _ h
  | calAbort _ _ => exact execCalAbort_only _ _ _ _ h
  | calPartDone _ _ => exact execCalPartDone_only _ _ _ _ h
  | calRunT _ => exact execCalRunT_only _ _ _ h
  | calSchedule _ _ => exact execCalSchedule_only _ _ _ _ h
  | calStale _ => exact execCalStale_only _ _ _ h
  | bmOpen _ _ _ _ => exact execBmOpen_only _ _ _ _ _ _ h
  | bmRef _ _ _ _ => exact execBmRef_only _ _ _ _ _ _ h
  | bmLoop _ _ _ _ _ _ => exact execBmLoop_only _ _ _ _ _ _ _ _ h
  | bmClose _ _ => exact execBmClose_only _ _ _ _ h
  | bmAbort _ => exact execBmAbort_only _ _ _ h
  | bmExpired => exact execBmExpired_only _ _ h
  | dsStore _ => exact execDsStore_only _ _ _ h
  | dsRecordCommit _ => exact execDsRecordCommit_only _ _ _ h
  | eraseAhead _ => exact execEraseAhead_only _ _ _ h
  | dsScrubPeriod _ => exact execDsScrubPeriod_only _ _ _ h
  | dsScrub _ _ => exact execDsScrub_only _ _ _ _ h
  | dsInfo _ => exact execDsInfo_only _ _ _ h
  | dsBenchList _ _ => exact execDsBenchList_only _ _ _ _ h
  | dsBenchRead _ _ _ => exact execDsBenchRead_only _ _ _ _ _ h
  | dsRetireList _ _ => exact execDsRetireList_only _ _ _ _ h
  | mntDsFormat _ => exact execMntDsFormat_only _ _ _ h
  | mntDtcLoad _ _ _ => exact execMntDtcLoad_only _ _ _ _ _ h
  | mntTdcLoad _ _ _ => exact execMntTdcLoad_only _ _ _ _ _ h
  | mntOtpWrite _ _ _ => exact execMntOtpWrite_only _ _ _ _ _ h
  | fwInfo _ => exact execFwInfo_only _ _ _ h
  | fwWrite _ _ _ => exact execFwWrite_only _ _ _ _ _ h
  | fwConfirm _ => exact execFwConfirm_only _ _ _ h
  | fwSramRun _ _ _ => exact execFwSramRun_only _ _ _ _ _ h
  | fwRevoke _ _ => exact execFwRevoke_only _ _ _ _ h
  | gwLog _ => exact execGwLog_only _ _ _ h
  | g8Accumulate _ => exact execG8Accumulate_only _ _ _ h
  | g6ClaimRetry => exact execG6ClaimRetry_only _ _ h
  | gwHealth _ _ _ => exact execGwHealth_only _ _ _ _ _ h
  | gwLogRead _ _ _ _ => exact execGwLogRead_only _ _ _ _ _ _ h
  | gwLogNow _ _ => exact execGwLogNow_only _ _ _ _ h
  | gwRestart _ _ _ => exact execGwRestart_only _ _ _ _ _ h
  | gwReplanRun _ _ _ => exact execGwReplanRun_only _ _ _ _ _ h
  | regWr _ => exact execRegWr_only _ _ _ h
  | regRd _ => exact execRegRd_only _ _ _ h
  | bulkWr _ => exact execBulkWr_only _ _ _ h
  | bulkRd _ => exact execBulkRd_only _ _ _ h
  | nop _ => exact execNop_only _ _ _ h
  | indWr _ => exact execIndWr_only _ _ _ h
  | indRd _ => exact execIndRd_only _ _ _ h
  | loop _ => exact execLoop_only _ _ _ h
  | badop _ _ => exact execBadop_only _ _ _ _ h
  | edgelessSelect => exact execEdgelessSelect_only _ _ h
  | keyWrite _ => exact execKeyWrite_only _ _ _ h
  | lockoutEnd => exact execLockoutEnd_only _ _ h
  | guardedWrite _ _ _ => exact execGuardedWrite_only _ _ _ _ _ h
  | rsClear _ _ _ => exact execRsClear_only _ _ _ _ _ h
  | rsRead _ _ => exact execRsRead_only _ _ _ _ h
  | rcWrite _ _ => exact execRcWrite_only _ _ _ _ h
  | multiwordLowRead _ _ => exact execMultiwordLowRead_only _ _ _ _ h
  | multiwordWrite _ _ _ => exact execMultiwordWrite_only _ _ _ _ _ h
  | wo1Write _ _ _ => exact execWo1Write_only _ _ _ _ _ h
  | hpLanesWrite _ => exact execHpLanesWrite_only _ _ _ h
  | otpFieldWrite _ _ => exact execOtpFieldWrite_only _ _ _ _ h
  | bitAliasWrite _ _ _ _ _ => exact execBitAliasWrite_only _ _ _ _ _ _ _ h
  | indDataRead => exact execIndDataRead_only _ _ h
  | indDataWrite _ => exact execIndDataWrite_only _ _ _ h
  | indAddrWrite _ _ => exact execIndAddrWrite_only _ _ _ _ h
  | snap => exact execSnap_only _ _ h
  | latchUpdate => exact execLatchUpdate_only _ _ h
  | registerWrite _ _ _ _ => exact execRegisterWrite_only _ _ _ _ _ _ h
  | ring _ _ => exact execRing_only _ _ _ _ h
  | eventDoorReturn => exact execEventDoorReturn_only _ _ h
  | evtLost => exact execEvtLost_only _ _ h
  | bulkBlockRing _ => exact execBulkBlockRing_only _ _ _ h
  | streamIdleTimeout _ => exact execStreamIdleTimeout_only _ _ _ h
  | bulkClose _ _ => exact execBulkClose_only _ _ _ _ h
  | infoId _ => exact execInfoId_only _ _ _ h
  | devStatus _ => exact execDevStatus_only _ _ _ h
  | tsInfo _ => exact execTsInfo_only _ _ _ h
  | paramRd _ _ => exact execParamRd_only _ _ _ _ h
  | paramWr _ _ => exact execParamWr_only _ _ _ _ h
  | paramDefault _ _ => exact execParamDefault_only _ _ _ _ h
  | lastSave _ _ _ => exact execLastSave_only _ _ _ _ _ h
  | lastApply _ _ _ _ => exact execLastApply_only _ _ _ _ _ _ h
  | lastDelete _ _ => exact execLastDelete_only _ _ _ _ h
  | lastList _ _ => exact execLastList_only _ _ _ _ h
  | prefetchFill _ => exact execPrefetchFill_only _ _ _ h
  | periphEntryDone _ => exact execPeriphEntryDone_only _ _ _ h
  | testRun _ _ _ _ _ => exact execTestRun_only _ _ _ _ _ _ _ h
  | testStop _ _ _ => exact execTestStop_only _ _ _ _ _ h
  | testEye _ _ _ => exact execTestEye_only _ _ _ _ _ h
  | eyeScanDone _ _ => exact execEyeScanDone_only _ _ _ _ h
  | testDuration _ _ _ _ => exact execTestDuration_only _ _ _ _ _ _ h
  | testNoSync _ _ => exact execTestNoSync_only _ _ _ _ h
  | jtagInstructionUpdate _ => exact execJtagInstructionUpdate_only _ _ _ h
  | cascadeFrameSend => exact execCascadeFrameSend_only _ _ h
  | cascadeFrame _ _ _ => exact execCascadeFrame_only _ _ _ _ _ h
  | cascadeLinkLost => exact execCascadeLinkLost_only _ _ h
  | casTrainT => exact execCasTrainT_only _ _ h
  | holdupOkHigh => exact execHoldupOkHigh_only _ _ h
  | shortHeaderFrame _ _ => exact execShortHeaderFrame_only _ _ _ _ h
  | checkerSync _ _ _ => exact execCheckerSync_only _ _ _ _ _ h
  | checkerSyncLoss _ _ _ _ => exact execCheckerSyncLoss_only _ _ _ _ _ _ h
  | sectorEraseDone _ => exact execSectorEraseDone_only _ _ _ h
  | bandScanDone _ => exact execBandScanDone_only _ _ _ h
  | otpRowProgrammed _ => exact execOtpRowProgrammed_only _ _ _ h
  | testLogicReset => exact execTestLogicReset_only _ _ h
  | firmwareHeartbeat => exact execFirmwareHeartbeat_only _ _ h

/-! ## Next states -/

/-- Whatever a condition decides, both branches answer a next state. -/
theorem next_ite {c : Prop} [Decidable c] {x y : State} :
    ∃ t, (if c then .next x else .next y : Host.Outcome State Fault Refusal) = .next t :=
  ⟨_, (apply_ite Host.Outcome.next c x y).symm⟩

theorem execPpsinEdge_next (t : Nat) (s : State) : ∃ u, execPpsinEdge t s = .next u := by
  unfold execPpsinEdge
  dsimp only
  repeat' split
  all_goals exact ⟨_, rfl⟩
theorem execTsStartExecute_next (lead : BitVec 96) (d : Nat) (s : State) : ∃ u, execTsStartExecute lead d s = .next u := by
  unfold execTsStartExecute
  repeat' split
  all_goals exact ⟨_, rfl⟩
theorem execUpLossT_next (s : State) : ∃ u, execUpLossT s = .next u := by
  unfold execUpLossT
  repeat' split
  all_goals exact ⟨_, rfl⟩
theorem execRoleChange_next (s : State) : ∃ u, execRoleChange s = .next u := by
  unfold execRoleChange
  dsimp only
  repeat' split
  all_goals exact ⟨_, rfl⟩
theorem execTsTick_next (s : State) : ∃ u, execTsTick s = .next u := by
  unfold execTsTick
  repeat' split
  all_goals exact ⟨_, rfl⟩
theorem execMlLoss_next (k : OctIx) (tr : MlTrace) (s : State) : ∃ u, execMlLoss k tr s = .next u := by
  unfold execMlLoss
  dsimp only
  repeat' split
  all_goals exact ⟨_, rfl⟩
theorem execMlAcqT_next (k : OctIx) (s : State) : ∃ u, execMlAcqT k s = .next u := by
  unfold execMlAcqT
  dsimp only
  repeat' split
  all_goals exact ⟨_, rfl⟩
theorem execForcedSwitch_next (c : Ch) (s : State) : ∃ u, execForcedSwitch c s = .next u := by
  unfold execForcedSwitch
  repeat' split
  all_goals exact ⟨_, rfl⟩
theorem execSwitchNoEdge_next (c : Ch) (yEdges : Bool) (s : State) : ∃ u, execSwitchNoEdge c yEdges s = .next u := by
  unfold execSwitchNoEdge
  repeat' split
  all_goals exact ⟨_, rfl⟩
theorem execCorrectionRecord_next (k : OctIx) (lane : EngIx) (bnd : Nat) (same : Bool) (s : State) :
    ∃ u, execCorrectionRecord k lane s bnd same = .next u := by
  unfold execCorrectionRecord
  dsimp only
  repeat' split
  all_goals exact ⟨_, rfl⟩
theorem execSlotLoad_next (k : OctIx) (bnd own : Nat) (s : State) : ∃ u, execSlotLoad k bnd own s = .next u := by
  unfold execSlotLoad
  dsimp only
  repeat' split
  all_goals exact ⟨_, rfl⟩
theorem execHopRampEnd_next (c : Ch) (bnd : Nat) (s : State) : ∃ u, execHopRampEnd c bnd s = .next u := by
  unfold execHopRampEnd
  repeat' split
  all_goals exact ⟨_, rfl⟩
theorem execDtcTableApply_next (c : Ch) (s : State) : ∃ u, execDtcTableApply c s = .next u := by
  unfold execDtcTableApply
  repeat' split
  all_goals exact ⟨_, rfl⟩
theorem execOutPpsPulse_next (c : Ch) (sec : BitVec 48) (s : State) : ∃ u, execOutPpsPulse c sec s = .next u := by
  unfold execOutPpsPulse
  dsimp only
  repeat' split
  all_goals exact ⟨_, rfl⟩
theorem execTdcEvent_next (x : Source) (fall : Bool) (tap : Fin 64) (vern : Fin 32) (s : State) : ∃ u, execTdcEvent x fall tap vern s = .next u := by
  unfold execTdcEvent
  dsimp only
  repeat' split
  all_goals exact ⟨_, rfl⟩
theorem execStampRecordWrite_next (q : Fin 9) (s : State) : ∃ u, execStampRecordWrite q s = .next u := by
  unfold execStampRecordWrite
  dsimp only
  repeat' split
  all_goals exact ⟨_, rfl⟩
theorem execDllFail_next (k : Fin 9) (s : State) : ∃ u, execDllFail k s = .next u := by
  unfold execDllFail
  repeat' split
  all_goals exact ⟨_, rfl⟩
theorem execLineFail_next (core : Fin 532) (s : State) : ∃ u, execLineFail core s = .next u := by
  unfold execLineFail
  dsimp only
  repeat' split
  all_goals exact ⟨_, rfl⟩
theorem execIvTimeout_next (p : Fin 16) (s : State) : ∃ u, execIvTimeout p s = .next u := by
  unfold execIvTimeout
  dsimp only
  repeat' split
  all_goals exact ⟨_, rfl⟩
theorem execIvSignedDecide_next (p : Fin 16) (s : State) : ∃ u, execIvSignedDecide p s = .next u := by
  unfold execIvSignedDecide
  repeat' split
  all_goals exact ⟨_, rfl⟩
theorem execDispatchRecord_next (q : Fin 9) (s : State) : ∃ u, execDispatchRecord q s = .next u := by
  unfold execDispatchRecord
  dsimp only
  repeat' split
  all_goals exact ⟨_, rfl⟩
theorem execSteeringJob_next (e : EngIx) (s : State) : ∃ u, execSteeringJob e s = .next u := by
  unfold execSteeringJob
  repeat' split
  all_goals exact ⟨_, rfl⟩
theorem execTimescaleSteeringJob_next (e : EngIx) (s : State) : ∃ u, execTimescaleSteeringJob e s = .next u := by
  unfold execTimescaleSteeringJob
  repeat' split
  all_goals exact ⟨_, rfl⟩
theorem execWholeCycleRecordJob_next (e : EngIx) (s : State) : ∃ u, execWholeCycleRecordJob e s = .next u := by
  unfold execWholeCycleRecordJob
  repeat' split
  all_goals exact ⟨_, rfl⟩
theorem execHopReportJob_next (k : OctIx) (s : State) : ∃ u, execHopReportJob k s = .next u := by
  unfold execHopReportJob
  dsimp only
  repeat' split
  all_goals exact ⟨_, rfl⟩
theorem execRequestJob_next (e : EngIx) (s : State) : ∃ u, execRequestJob e s = .next u := by
  unfold execRequestJob
  repeat' split
  all_goals exact ⟨_, rfl⟩
theorem execSettleDone_next (e : EngIx) (s : State) : ∃ u, execSettleDone e s = .next u := by
  unfold execSettleDone
  repeat' split
  all_goals exact ⟨_, rfl⟩
theorem execStealClaim_next (t v : EngIx) (s : State) : ∃ u, execStealClaim t v s = .next u := by
  unfold execStealClaim
  dsimp only
  repeat' split
  all_goals exact ⟨_, rfl⟩
theorem execCsmFetchDone_next (e : EngIx) (s : State) : ∃ u, execCsmFetchDone e s = .next u := by
  unfold execCsmFetchDone
  repeat' split
  all_goals exact ⟨_, rfl⟩
theorem execEpoch_next (s : State) : ∃ u, execEpoch s = .next u := by
  unfold execEpoch
  repeat' split
  all_goals exact ⟨_, rfl⟩
theorem execEngArrayRebuild_next (ue : List (Ch × BitVec 16)) (s : State) : ∃ u, execEngArrayRebuild ue s = .next u := by
  unfold execEngArrayRebuild
  dsimp only
  repeat' split
  all_goals exact ⟨_, rfl⟩
theorem execDividerRestartDone_next (c : Ch) (s : State) : ∃ u, execDividerRestartDone c s = .next u := by
  unfold execDividerRestartDone
  dsimp only
  repeat' split
  all_goals exact ⟨_, rfl⟩
theorem execCsmRebuild_next (c : Ch) (mask : BitVec 16) (s : State) : ∃ u, execCsmRebuild c mask s = .next u := by
  unfold execCsmRebuild
  dsimp only
  repeat' split
  all_goals exact ⟨_, rfl⟩
theorem execHandoverSwitch_next (k : OctIx) (s : State) : ∃ u, execHandoverSwitch k s = .next u := by
  unfold execHandoverSwitch
  repeat' split
  all_goals exact ⟨_, rfl⟩
theorem execHandT_next (k : OctIx) (s : State) : ∃ u, execHandT k s = .next u := by
  unfold execHandT
  repeat' split
  all_goals exact ⟨_, rfl⟩
theorem execReturnRetry_next (k : OctIx) (s : State) : ∃ u, execReturnRetry k s = .next u := by
  unfold execReturnRetry
  repeat' split
  all_goals exact ⟨_, rfl⟩
theorem execWeltTakeover_next (k : OctIx) (s : State) : ∃ u, execWeltTakeover k s = .next u := by
  unfold execWeltTakeover
  repeat' split
  all_goals exact ⟨_, rfl⟩
theorem execBypassExit_next (s : State) : ∃ u, execBypassExit s = .next u := by
  unfold execBypassExit
  repeat' split
  all_goals exact ⟨_, rfl⟩
theorem execRailLost_next (r : Fin 8) (s : State) : ∃ u, execRailLost r s = .next u := by
  unfold execRailLost
  dsimp only
  repeat' split
  all_goals exact ⟨_, rfl⟩
theorem execRailRegained_next (r : Fin 8) (s : State) : ∃ u, execRailRegained r s = .next u := by
  unfold execRailRegained
  dsimp only
  repeat' split
  all_goals exact ⟨_, rfl⟩
theorem execBraceRel_next (s : State) : ∃ u, execBraceRel s = .next u := by
  unfold execBraceRel
  dsimp only
  repeat' split
  all_goals exact ⟨_, rfl⟩
theorem execHoldupWaitExpiry_next (ix : Nat) (s : State) : ∃ u, execHoldupWaitExpiry ix s = .next u := by
  unfold execHoldupWaitExpiry
  repeat' split
  all_goals exact ⟨_, rfl⟩
theorem execCalPartDone_next (n : BitVec 32) (m : PartMeas) (s : State) : ∃ u, execCalPartDone n m s = .next u := by
  unfold execCalPartDone
  dsimp only
  repeat' split
  all_goals exact ⟨_, rfl⟩
theorem execCalRunT_next (n : BitVec 32) (s : State) : ∃ u, execCalRunT n s = .next u := by
  unfold execCalRunT
  repeat' split
  all_goals exact ⟨_, rfl⟩
theorem execCalSchedule_next (k : OctIx) (stat : Bool) (s : State) : ∃ u, execCalSchedule k stat s = .next u := by
  unfold execCalSchedule
  repeat' split
  all_goals exact ⟨_, rfl⟩
theorem execCalStale_next (ix : Fin 532) (s : State) : ∃ u, execCalStale ix s = .next u := by
  unfold execCalStale
  repeat' split
  all_goals exact ⟨_, rfl⟩
theorem execBmExpired_next (s : State) : ∃ u, execBmExpired s = .next u := by
  unfold execBmExpired
  repeat' split
  all_goals exact ⟨_, rfl⟩
theorem execDsStore_next (holdup : Bool) (s : State) : ∃ u, execDsStore holdup s = .next u := by
  unfold execDsStore
  dsimp only
  repeat' split
  all_goals exact ⟨_, rfl⟩
theorem execDsRecordCommit_next (bad : Option (Nat × Bool)) (s : State) : ∃ u, execDsRecordCommit bad s = .next u := by
  unfold execDsRecordCommit
  repeat' split
  all_goals exact ⟨_, rfl⟩
theorem execLatchUpdate_next (s : State) : ∃ u, execLatchUpdate s = .next u := by
  unfold execLatchUpdate
  repeat' split
  all_goals exact ⟨_, rfl⟩
theorem execPrefetchFill_next (n : BitVec 16) (s : State) : ∃ u, execPrefetchFill n s = .next u := by
  unfold execPrefetchFill
  repeat' split
  all_goals exact ⟨_, rfl⟩
theorem execPeriphEntryDone_next (inp : List (BitVec 32)) (s : State) : ∃ u, execPeriphEntryDone inp s = .next u := by
  unfold execPeriphEntryDone
  repeat' split
  all_goals exact ⟨_, rfl⟩
theorem execEyeScanDone_next (c : Ch) (l : List (BitVec 32)) (s : State) : ∃ u, execEyeScanDone c l s = .next u := by
  unfold execEyeScanDone
  repeat' split
  all_goals exact ⟨_, rfl⟩
theorem execTestDuration_next (kind : Fin 7) (unit : BitVec 16) (bits : BitVec 64) (errs : BitVec 32) (s : State) :
    ∃ u, execTestDuration kind unit bits errs s = .next u := by
  unfold execTestDuration
  repeat' split
  all_goals exact ⟨_, rfl⟩
theorem execTestNoSync_next (kind : Fin 7) (unit : BitVec 16) (s : State) : ∃ u, execTestNoSync kind unit s = .next u := by
  unfold execTestNoSync
  repeat' split
  all_goals exact ⟨_, rfl⟩
theorem execCascadeFrame_next (valid : Bool) (f : CasFrame) (mark : BitVec 96) (s : State) : ∃ u, execCascadeFrame valid f mark s = .next u := by
  unfold execCascadeFrame
  dsimp only
  repeat' split
  all_goals exact ⟨_, rfl⟩
theorem execSectorEraseDone_next (ok : Bool) (s : State) : ∃ u, execSectorEraseDone ok s = .next u := by
  unfold execSectorEraseDone
  repeat' split
  all_goals exact ⟨_, rfl⟩
theorem execBandScanDone_next (rs : List BandCount) (s : State) : ∃ u, execBandScanDone rs s = .next u := by
  unfold execBandScanDone
  repeat' split
  all_goals exact ⟨_, rfl⟩
theorem execOtpRowProgrammed_next (damaged : Bool) (s : State) : ∃ u, execOtpRowProgrammed damaged s = .next u := by
  unfold execOtpRowProgrammed
  repeat' split
  all_goals exact ⟨_, rfl⟩
theorem execExtPeriod_next (b : Int) (s : State) : ∃ u, execExtPeriod b s = .next u := by
  unfold execExtPeriod
  extract_lets x
  clear_value x
  repeat' split
  all_goals exact ⟨_, rfl⟩

theorem exec_answers_next (i : Instr) (s : State) : ∃ t, exec i s = .next t := by
  match i with
  | .refinMissingEdge .. | .refinLoopWindow .. | .refinFrequencyGate .. | .tsStart .. | .tsStop .. | .tsSetOffset .. | .tsAdjust ..
  | .tsHold .. | .tsRelease .. | .relockPlan .. | .mlRetune .. | .gratScan .. | .gratEdit .. | .hopSelWrite .. | .chHop .. | .hopApply ..
  | .chPhaseAdj .. | .chPhaseCancel .. | .chTraverse .. | .ivRecordProcess .. | .stampRead .. | .ivRead .. | .ivStatus .. | .rgRecord ..
  | .rgGateClose .. | .rgResultWrite .. | .rgClaim .. | .rgRelease .. | .rgRead .. | .rgStatus .. | .engEpoch .. | .engStatus ..
  | .chStart .. | .chStop .. | .chStatus .. | .mntClearRetire .. | .devWake .. | .devService .. | .devSurvey .. | .devStow ..
  | .devReset .. | .coldReset .. | .calRun .. | .calSurvey .. | .calStatus .. | .calAbort .. | .bmOpen .. | .bmRef .. | .bmLoop ..
  | .bmClose .. | .bmAbort .. | .dsScrub .. | .dsInfo .. | .dsBenchList .. | .dsBenchRead .. | .dsRetireList .. | .mntDsFormat ..
  | .mntDtcLoad .. | .mntTdcLoad .. | .mntOtpWrite .. | .fwInfo .. | .fwWrite .. | .fwConfirm .. | .fwSramRun .. | .fwRevoke ..
  | .g6ClaimRetry | .gwHealth .. | .gwLogRead .. | .gwLogNow .. | .gwRestart .. | .gwReplanRun .. | .regWr .. | .regRd .. | .bulkWr ..
  | .bulkRd .. | .nop .. | .indWr .. | .indRd .. | .loop .. | .edgelessSelect | .keyWrite .. | .guardedWrite .. | .rsClear .. | .rsRead ..
  | .rcWrite .. | .multiwordLowRead .. | .multiwordWrite .. | .wo1Write .. | .hpLanesWrite .. | .otpFieldWrite .. | .bitAliasWrite ..
  | .indDataRead | .indDataWrite .. | .indAddrWrite .. | .snap | .registerWrite .. | .ring .. | .eventDoorReturn | .bulkClose ..
  | .infoId .. | .devStatus .. | .tsInfo .. | .paramRd .. | .paramWr .. | .paramDefault .. | .lastSave .. | .lastApply .. | .lastDelete ..
  | .lastList .. | .testRun .. | .testStop .. | .testEye .. | .jtagInstructionUpdate .. | .cascadeLinkLost | .holdupOkHigh
  | .checkerSync .. | .checkerSyncLoss .. | .testLogicReset => exact ⟨_, rfl⟩
  | .refinFreqWindow .. | .mpllLock .. | .refQual .. | .measurementLoopLost .. | .ppsLost | .hoQual | .hoPredictorUpdate .. | .hoBound
  | .mlLock .. | .mlExcursion .. | .retuneRestoreRetry .. | .margin .. | .mrkHopTrigger .. | .dllLock .. | .dllLoss .. | .skew ..
  | .parity .. | .engineRetire .. | .engineArrayLost | .acqSlow .. | .channelSilence .. | .driver .. | .csmUe .. | .weltFault ..
  | .retirement .. | .wakeAutoStart | .wakeStepDone .. | .wakeRefT | .cobRestart .. | .brace .. | .braceDone | .queueReadyFall ..
  | .peerAbsent .. | .queueHandshakeDone .. | .eraseAhead .. | .dsScrubPeriod .. | .gwLog .. | .g8Accumulate .. | .badop .. | .lockoutEnd
  | .evtLost | .bulkBlockRing .. | .streamIdleTimeout .. | .cascadeFrameSend | .casTrainT | .shortHeaderFrame .. | .firmwareHeartbeat => exact next_ite
  | .ppsinEdge .. => exact execPpsinEdge_next _ _
  | .tsStartExecute .. => exact execTsStartExecute_next _ _ _
  | .upLossT => exact execUpLossT_next _
  | .roleChange => exact execRoleChange_next _
  | .tsTick => exact execTsTick_next _
  | .mlLoss .. => exact execMlLoss_next _ _ _
  | .mlAcqT .. => exact execMlAcqT_next _ _
  | .forcedSwitch .. => exact execForcedSwitch_next _ _
  | .switchNoEdge .. => exact execSwitchNoEdge_next _ _ _
  | .correctionRecord .. => exact execCorrectionRecord_next _ _ _ _ _
  | .slotLoad .. => exact execSlotLoad_next _ _ _ _
  | .hopRampEnd .. => exact execHopRampEnd_next _ _ _
  | .dtcTableApply .. => exact execDtcTableApply_next _ _
  | .outPpsPulse .. => exact execOutPpsPulse_next _ _ _
  | .tdcEvent .. => exact execTdcEvent_next _ _ _ _ _
  | .stampRecordWrite .. => exact execStampRecordWrite_next _ _
  | .dllFail .. => exact execDllFail_next _ _
  | .lineFail .. => exact execLineFail_next _ _
  | .ivTimeout .. => exact execIvTimeout_next _ _
  | .ivSignedDecide .. => exact execIvSignedDecide_next _ _
  | .dispatchRecord .. => exact execDispatchRecord_next _ _
  | .steeringJob .. => exact execSteeringJob_next _ _
  | .timescaleSteeringJob .. => exact execTimescaleSteeringJob_next _ _
  | .wholeCycleRecordJob .. => exact execWholeCycleRecordJob_next _ _
  | .hopReportJob .. => exact execHopReportJob_next _ _
  | .requestJob .. => exact execRequestJob_next _ _
  | .settleDone .. => exact execSettleDone_next _ _
  | .stealClaim .. => exact execStealClaim_next _ _ _
  | .csmFetchDone .. => exact execCsmFetchDone_next _ _
  | .epoch => exact execEpoch_next _
  | .engArrayRebuild .. => exact execEngArrayRebuild_next _ _
  | .dividerRestartDone .. => exact execDividerRestartDone_next _ _
  | .csmRebuild .. => exact execCsmRebuild_next _ _ _
  | .handoverSwitch .. => exact execHandoverSwitch_next _ _
  | .handT .. => exact execHandT_next _ _
  | .returnRetry .. => exact execReturnRetry_next _ _
  | .weltTakeover .. => exact execWeltTakeover_next _ _
  | .bypassExit => exact execBypassExit_next _
  | .railLost .. => exact execRailLost_next _ _
  | .railRegained .. => exact execRailRegained_next _ _
  | .braceRel => exact execBraceRel_next _
  | .holdupWaitExpiry .. => exact execHoldupWaitExpiry_next _ _
  | .calPartDone .. => exact execCalPartDone_next _ _ _
  | .calRunT .. => exact execCalRunT_next _ _
  | .calSchedule .. => exact execCalSchedule_next _ _ _
  | .calStale .. => exact execCalStale_next _ _
  | .bmExpired => exact execBmExpired_next _
  | .dsStore .. => exact execDsStore_next _ _
  | .dsRecordCommit .. => exact execDsRecordCommit_next _ _
  | .latchUpdate => exact execLatchUpdate_next _
  | .prefetchFill .. => exact execPrefetchFill_next _ _
  | .periphEntryDone .. => exact execPeriphEntryDone_next _ _
  | .eyeScanDone .. => exact execEyeScanDone_next _ _ _
  | .testDuration .. => exact execTestDuration_next _ _ _ _ _
  | .testNoSync .. => exact execTestNoSync_next _ _ _
  | .cascadeFrame .. => exact execCascadeFrame_next _ _ _ _
  | .sectorEraseDone .. => exact execSectorEraseDone_next _ _
  | .bandScanDone .. => exact execBandScanDone_next _ _
  | .otpRowProgrammed .. => exact execOtpRowProgrammed_next _ _
  | .extPeriod .. => exact execExtPeriod_next _ _

/-- The queue is in no command's list. -/
theorem pending_notMem_partsOf (i : Instr) : Part.pending ∉ partsOf i := by
  cases i <;> simp [partsOf]

/-- Settles O4: every branch of every meaning answers a next state, and the queue stays by the frame of the command. -/
theorem everyCommandAnswersNext : Obligations.EveryCommandAnswersNext := by
  intro i s
  obtain ⟨t, ht⟩ := exec_answers_next i s
  exact ⟨t, ht, (commandsKeepOtherParts i s t ht).pending (pending_notMem_partsOf i)⟩

/-- Settles O1: on a queue that holds a command, a step is that command with the rest. -/
theorem stepRunsFrontCommand : Obligations.StepRunsFrontCommand := by
  intro c q s h
  simp only [step, h]

end Sys2Proof.Machine
end

section
/-!
PROOFS. The flash array stays in canonical form (R591, R592). What leaves the array alone has a frame without `.flash`; what writes it has a lemma
`X_flashOk` here. Both are read through `State.outside noFlash`, so that `simp` passes through a chain of operations of either sort.
-/
namespace Sys2Proof.Machine
open Sys2Proof

/-! ## The array in a frame -/

/-- Every part but the flash array. -/
abbrev noFlash : List Part := allBut [.flash]

/-- What `noFlash` leaves of a state is its array. -/
@[simp] theorem State.outside_noFlash_flash (s : State) : (s.outside noFlash).store.flash = s.store.flash := by
  simp [State.outside]

theorem flashWf_outside (s : State) : FlashWf (s.outside noFlash) ↔ FlashWf s := by
  simp [FlashWf]

theorem FlashWf.of_flash_eq {s t : State} (h : t.store.flash = s.store.flash) (hs : FlashWf (s.outside noFlash)) : FlashWf (t.outside noFlash) := by
  simpa [FlashWf, h] using hs

/-- A change of the store that keeps the form of its array. -/
theorem State.modStore_flashOk {f : StoreS → StoreS} (hf : ∀ d : StoreS, canonicalTab d.flash = true → canonicalTab (f d).flash = true) {s : State}
    (hs : FlashWf (s.outside noFlash)) : FlashWf ((s.modStore f).outside noFlash) := by
  rw [flashWf_outside] at hs ⊢
  exact hf _ hs

/-- A fold whose steps each keep the form keeps it. -/
theorem forAll_flashOk {α : Type} {f : α → State → State} (hf : ∀ a s, FlashWf (s.outside noFlash) → FlashWf ((f a s).outside noFlash)) (l : List α)
    {s : State} (hs : FlashWf (s.outside noFlash)) : FlashWf ((forAll l f s).outside noFlash) := by
  induction l generalizing s with
  | nil => exact hs
  | cons a l ih => exact ih (hf a s hs)

/-! ## Words written and erased -/

theorem StoreS.ruin_canonical (p : Nat) (d : StoreS) (h : canonicalTab d.flash = true) : canonicalTab (d.ruin p).flash = true :=
  canonicalTab_map _ (fun e => by dsimp only; split <;> rfl) _ h

theorem StoreS.spoil_canonical (p : Prog) (i : Nat) (c : WCls) (d : StoreS) (h : canonicalTab d.flash = true) :
    canonicalTab (d.spoil p i c).flash = true :=
  canonicalTab_map _ (fun e => by dsimp only; split <;> simp [*]) _ h

theorem drift_fst (ws : List (BitVec 32 × Bool)) (e : Nat × FWord) : (drift ws e).1 = e.1 := by
  unfold drift; split <;> rfl

@[simp] theorem State.eraseRegion_flashOk (r : Nat) {s : State} (h : FlashWf (s.outside noFlash)) : FlashWf ((s.eraseRegion r).outside noFlash) :=
  (flashWf_outside _).2 (State.eraseRegion_flashWf r s ((flashWf_outside s).1 h))

@[simp] theorem State.programRec_flashOk (n : Nat) (c : WCls) {s : State} (h : FlashWf (s.outside noFlash)) :
    FlashWf ((s.programRec n c).outside noFlash) :=
  (flashWf_outside _).2 (State.programRec_flashWf n c s ((flashWf_outside s).1 h))

@[simp] theorem State.replaceSector_flashOk (l : Nat) {s : State} (h : FlashWf (s.outside noFlash)) :
    FlashWf ((s.replaceSector l).outside noFlash) := by
  unfold State.replaceSector
  split
  · simp [h]
  · exact State.modStore_flashOk (fun d => StoreS.erase_canonical _ _ d) (by simp [h])

@[simp] theorem State.formatBoot_flashOk {s : State} (h : FlashWf (s.outside noFlash)) : FlashWf (s.formatBoot.outside noFlash) :=
  State.modStore_flashOk (fun _ => StoreS.program_canonical _ _ _ _) h

@[simp] theorem State.writeBoot_flashOk (pref a b : Nat) {s : State} (h : FlashWf (s.outside noFlash)) :
    FlashWf ((s.writeBoot pref a b).outside noFlash) :=
  State.modStore_flashOk (fun _ => StoreS.program_canonical _ _ _ _) (State.eraseRegion_flashOk _ h)

@[simp] theorem State.cutErase_flashOk {s : State} (h : FlashWf (s.outside noFlash)) : FlashWf (s.cutErase.outside noFlash) := by
  unfold State.cutErase
  split
  · exact State.modStore_flashOk (StoreS.ruin_canonical _) h
  · exact h

@[simp] theorem State.cutRec_flashOk (n : Nat) (c : WCls) {s : State} (h : FlashWf (s.outside noFlash)) :
    FlashWf ((s.cutRec n c).outside noFlash) := by
  unfold State.cutRec
  split <;> simp [h]

@[simp] theorem State.scrubNow_flashOk (ws : List (BitVec 32 × Bool)) {s : State} (h : FlashWf (s.outside noFlash)) :
    FlashWf ((s.scrubNow ws).outside noFlash) := by
  have hdrift : FlashWf ((s.modStore fun d => { d with flash := d.flash.map (drift ws), scrubT := s.gw.secs }).outside noFlash) :=
    State.modStore_flashOk (fun d => canonicalTab_map _ (drift_fst ws) _) h
  unfold State.scrubNow
  split
  · exact h
  · dsimp only
    split <;> simp [hdrift]

/-- Words put one after the other keep the form. -/
theorem canonicalTab_foldl_put {α : Type} (f : α → Nat × FWord) (l : List α) {d : StoreS} (h : canonicalTab d.flash = true) :
    canonicalTab (l.foldl (fun d i => { d with flash := d.flash.put (f i).1 (f i).2 }) d).flash = true := by
  induction l generalizing d with
  | nil => exact h
  | cons a l ih => exact ih (canonicalTab_put _ _ _ h)

@[simp] theorem State.memTestFill_flashOk (pattern : Nat) {s : State} (h : FlashWf (s.outside noFlash)) :
    FlashWf ((s.memTestFill pattern).outside noFlash) :=
  State.modStore_flashOk
    (fun d hd => canonicalTab_foldl_put (fun i => (227 * (s.mem.sectors - 1) + i, ⟨Config.memTest pattern i, .clean⟩)) _
      (StoreS.blank_canonical _ d hd))
    (by simp [h])

/-! ## Resets, boot and WAKE -/

@[simp] theorem State.warm_flashOk {s : State} (h : FlashWf (s.outside noFlash)) : FlashWf (s.warm.outside noFlash) :=
  FlashWf.of_flash_eq (s := s.cutReset) rfl (State.cutErase_flashOk (State.cutRec_flashOk _ _ h))

@[simp] theorem State.cold_flashOk (cause : Nat) (pfail : Bool) {s : State} (h : FlashWf (s.outside noFlash)) :
    FlashWf ((s.cold cause pfail).outside noFlash) := by
  unfold State.cold
  dsimp only
  split <;> simp [h]

@[simp] theorem State.bootImage_flashOk {s : State} (h : FlashWf (s.outside noFlash)) : FlashWf (s.bootImage.outside noFlash) := by
  unfold State.bootImage
  dsimp only
  repeat' split
  all_goals simp [h]

@[simp] theorem State.boot_flashOk {s : State} (h : FlashWf (s.outside noFlash)) : FlashWf (s.boot.outside noFlash) := by
  unfold State.boot
  dsimp only
  split <;> simp [h]

@[simp] theorem State.warmReset_flashOk (cause : Nat) {s : State} (h : FlashWf (s.outside noFlash)) :
    FlashWf ((s.warmReset cause).outside noFlash) := by
  simp [State.warmReset, h]

@[simp] theorem State.endReset_flashOk {s : State} (h : FlashWf (s.outside noFlash)) : FlashWf (s.endReset.outside noFlash) := by
  unfold State.endReset
  split <;> simp [h]

@[simp] theorem State.tapUpdate_flashOk (t : Tap) {s : State} (h : FlashWf (s.outside noFlash)) : FlashWf ((s.tapUpdate t).outside noFlash) := by
  unfold State.tapUpdate
  dsimp only
  repeat' split
  all_goals simp [h]

@[simp] theorem State.dsLoad_flashOk {s : State} (h : FlashWf (s.outside noFlash)) : FlashWf (s.dsLoad.outside noFlash) := by
  unfold State.dsLoad
  dsimp only
  repeat' split
  all_goals simp [h]

@[simp] theorem State.wakeStep_flashOk (n : Nat) (temps : List (OctIx × BitVec 16)) {s : State} (h : FlashWf (s.outside noFlash)) :
    FlashWf ((s.wakeStep n temps).outside noFlash) := by
  unfold State.wakeStep
  dsimp only
  repeat' split
  all_goals simp [h]

@[simp] theorem State.wakeNext_flashOk (temps : List (OctIx × BitVec 16)) {s : State} (h : FlashWf (s.outside noFlash)) :
    FlashWf ((s.wakeNext temps).outside noFlash) := by
  unfold State.wakeNext
  split <;> simp [h]

@[simp] theorem State.wakeBegin_flashOk {s : State} (h : FlashWf (s.outside noFlash)) : FlashWf (s.wakeBegin.outside noFlash) := by
  simp [State.wakeBegin, h]

@[simp] theorem State.cobDrop_flashOk (words : Nat) {s : State} (h : FlashWf (s.outside noFlash)) : FlashWf ((s.cobDrop words).outside noFlash) := by
  simp [State.cobDrop, h]

/-! ## Stores -/

@[simp] theorem State.beginRec_flashOk (p : Prog) {s : State} (h : FlashWf (s.outside noFlash)) : FlashWf ((s.beginRec p).outside noFlash) := by
  have hbegun : FlashWf (State.outside noFlash (if p.ty = 1 ∨ p.ty = 0x40 then s.eraseRegion p.reg else s)) := by
    split
    · exact State.eraseRegion_flashOk _ h
    · exact h
  refine State.modStore_flashOk (fun d hd => hd) ?_
  rwa [State.modMem_outside _ _ (by simp)]

theorem State.storeStart_flashOk {s : State} (h : FlashWf (s.outside noFlash)) : FlashWf (s.storeStart.1.outside noFlash) := by
  unfold State.storeStart
  repeat' split
  all_goals simp [h]

@[simp] theorem State.runStart_flashOk {s : State} (h : FlashWf (s.outside noFlash)) : FlashWf (s.runStart.outside noFlash) := by
  have hstart := State.storeStart_flashOk h
  unfold State.runStart
  split <;> simp_all

@[simp] theorem State.takePort_flashOk (r : MemReq) {s : State} (h : FlashWf (s.outside noFlash)) : FlashWf ((s.takePort r).outside noFlash) := by
  unfold State.takePort
  dsimp only
  repeat' split
  all_goals simp [h]

@[simp] theorem State.portNext_flashOk {s : State} (h : FlashWf (s.outside noFlash)) : FlashWf (s.portNext.outside noFlash) :=
  forAll_flashOk (fun r _ => State.takePort_flashOk r) _ (by simp [h])

@[simp] theorem State.recStands_flashOk (p : Prog) (r : StoreReq) {s : State} (h : FlashWf (s.outside noFlash)) :
    FlashWf ((s.recStands p r).outside noFlash) := by
  unfold State.recStands
  dsimp only
  repeat' split
  all_goals simp [h]

/-! ## Messages -/

@[simp] theorem State.opDsScrub_flashOk (hd : Hdr) (ws : List (BitVec 32 × Bool)) {s : State} (h : FlashWf (s.outside noFlash)) :
    FlashWf ((s.opDsScrub hd ws).outside noFlash) := by
  simp [State.opDsScrub, h]

@[simp] theorem State.opDevWake_flashOk (hd : Hdr) {s : State} (h : FlashWf (s.outside noFlash)) : FlashWf ((s.opDevWake hd).outside noFlash) := by
  unfold State.opDevWake
  split <;> simp [h]

/-- Formatting erases the journal's regions and writes a boot record. -/
@[simp] theorem State.opMntDsFormat_flashOk (hd : Hdr) {s : State} (h : FlashWf (s.outside noFlash)) :
    FlashWf ((s.opMntDsFormat hd).outside noFlash) := by
  have herase : FlashWf (State.outside noFlash (forAll [regBank 0, regBank 1, regAge, regBench] (fun r s => s.eraseRegion r) s)) :=
    forAll_flashOk (fun r _ ht => State.eraseRegion_flashOk r ht) _ h
  unfold State.opMntDsFormat
  generalize forAll [regBank 0, regBank 1, regAge, regBench] (fun r s => s.eraseRegion r) s = t at herase ⊢
  iterate 4
    split
    · simp [h]
  rw [State.reply_outside _ _ _ _ (by simp)]
  refine State.writeBoot_flashOk _ _ _ ?_
  simp [herase]

@[simp] theorem State.testBegin_flashOk (kind unit pattern secs : Nat) {s : State} (h : FlashWf (s.outside noFlash)) :
    FlashWf ((s.testBegin kind unit pattern secs).outside noFlash) := by
  unfold State.testBegin
  dsimp only
  split <;> simp [h]

@[simp] theorem State.opTestRun_flashOk (hd : Hdr) (unit kind pattern secs : Nat) {s : State} (h : FlashWf (s.outside noFlash)) :
    FlashWf ((s.opTestRun hd unit kind pattern secs).outside noFlash) := by
  unfold State.opTestRun
  split <;> simp [h]

@[simp] theorem State.testOver_flashOk (verdict : TestRun → Nat) (r : TestRun) {s : State} (h : FlashWf (s.outside noFlash)) :
    FlashWf ((s.testOver verdict r).outside noFlash) := by
  have hend : FlashWf ((s.testEnd (verdict r) r).outside noFlash) := by simp [h]
  unfold State.testOver
  dsimp only
  split
  · exact State.runStart_flashOk (State.portNext_flashOk hend)
  · exact hend

@[simp] theorem State.opTestStop_flashOk (hd : Hdr) (unit : Nat) (ms : List (Fin 7 × BitVec 64 × BitVec 32)) {s : State}
    (h : FlashWf (s.outside noFlash)) : FlashWf ((s.opTestStop hd unit ms).outside noFlash) := by
  unfold State.opTestStop
  rw [State.reply_outside _ _ _ _ (by simp)]
  exact forAll_flashOk (fun _ _ => State.testOver_flashOk _ _) _ h

/-- An effect that keeps the form of the array. -/
def KeepsFlashForm (f : State → State) : Prop := ∀ s, FlashWf (s.outside noFlash) → FlashWf ((f s).outside noFlash)

/-- Every command that a message can carry keeps the form. -/
theorem cmdOp_keepsFlashForm (h : Hdr) (cmd p : Nat) (w : Nat → Nat) (m : Meas) : ∀ f ∈ cmdOp h cmd p w m, KeepsFlashForm f := by
  unfold cmdOp
  dsimp only
  repeat' split
  all_goals simp +contextual [KeepsFlashForm, chArg]

theorem State.msgOp_keepsFlashForm {s : State} {h : Hdr} {cmd len flags p : Nat} {w : Nat → Nat} {m : Meas} {f : State → State}
    (hf : s.msgOp h cmd len flags p w m = .ok f) : KeepsFlashForm f := by
  have hop := cmdOp_keepsFlashForm h cmd p w m
  unfold State.msgOp at hf
  repeat' split at hf
  all_goals simp_all

@[simp] theorem State.takeMsg_flashOk (d : Fin 8) (m : Meas) {s : State} (h : FlashWf (s.outside noFlash)) :
    FlashWf ((s.takeMsg d m).outside noFlash) := by
  unfold State.takeMsg
  dsimp only
  split
  · next hf => exact State.msgOp_keepsFlashForm hf _ (by simp [h])
  · simp [h]

theorem State.viaDoor_flashOk (hd : Hdr) (cmd : Nat) {op : State → State} (hop : KeepsFlashForm op) {s : State} (h : FlashWf (s.outside noFlash)) :
    FlashWf ((s.viaDoor hd cmd op).outside noFlash) := by
  unfold State.viaDoor
  dsimp only
  repeat' split
  · exact h
  · simp [h]
  · exact hop _ (by simp [h])

/-! ## Doors, registers and frames -/

@[simp] theorem State.ringDoor_flashOk (d : Fin 8) (m : Meas) {s : State} (h : FlashWf (s.outside noFlash)) :
    FlashWf ((s.ringDoor d m).outside noFlash) := by
  unfold State.ringDoor
  repeat' split
  all_goals simp [h]

theorem State.guarded_flashOk (m : Master) {f : State → WrSt × State} (hf : KeepsFlashForm fun s => (f s).2) {s : State}
    (h : FlashWf (s.outside noFlash)) : FlashWf ((s.guarded m f).2.outside noFlash) := by
  unfold State.guarded
  repeat' split
  · exact hf s h
  · exact hf _ (by simp [h])
  · exact h

@[simp] theorem State.doorWrite_flashOk (n w : Nat) (me : Meas) {s : State} (h : FlashWf (s.outside noFlash)) :
    FlashWf ((s.doorWrite n w me).outside noFlash) := by
  unfold State.doorWrite
  dsimp only
  split <;> simp [h]

@[simp] theorem State.putReg_flashOk (m : Master) (c w : Nat) (me : Meas) {s : State} (h : FlashWf (s.outside noFlash)) :
    FlashWf ((s.putReg m c w me).2.outside noFlash) := by
  unfold State.putReg
  dsimp only
  repeat' split
  all_goals simp [h]

@[simp] theorem State.bitWrite_flashOk (m : Master) (c b : Nat) (d : Bool) (me : Meas) {s : State} (h : FlashWf (s.outside noFlash)) :
    FlashWf ((s.bitWrite m c b d me).2.outside noFlash) := by
  have hring (d : Bool) (n : Fin 8) : KeepsFlashForm fun s => if d then s.ringDoor n me else s := by
    intro s hs
    dsimp only
    split <;> simp [hs]
  unfold State.bitWrite
  dsimp only
  split
  · exact State.guarded_flashOk m (hring d 7) h
  split
  · exact hring d _ s h
  repeat' split
  all_goals simp [h]

@[simp] theorem State.regWrite_flashOk (m : Master) (a w : Nat) (me : Meas) {s : State} (h : FlashWf (s.outside noFlash)) :
    FlashWf ((s.regWrite m a w me).2.outside noFlash) := by
  unfold State.regWrite
  repeat' split
  · exact State.bitWrite_flashOk _ _ _ _ _ h
  · exact State.guarded_flashOk m (fun _ => State.putReg_flashOk _ _ _ _) h
  · exact State.putReg_flashOk _ _ _ _ h

theorem State.accessIf_flashOk (p : Bool) {f : State → State} (hf : KeepsFlashForm f) {s : State} (h : FlashWf (s.outside noFlash)) :
    FlashWf ((s.accessIf p f).outside noFlash) := by
  unfold State.accessIf
  split
  · exact hf s h
  · exact h

@[simp] theorem State.frameWrite_flashOk (op : Nat) (f : Frame) (n : Nat) (cut : Bool) {s : State} (h : FlashWf (s.outside noFlash)) :
    FlashWf ((s.frameWrite op f n cut).2.outside noFlash) := by
  unfold State.frameWrite
  dsimp only
  repeat' split
  all_goals simp [h]

/-- A frame reaches the array through the write of its operation alone. -/
@[simp] theorem State.frame_flashOk (op : Nat) (f : Frame) {s : State} (h : FlashWf (s.outside noFlash)) :
    FlashWf ((s.frame op f).outside noFlash) := by
  unfold State.frame
  extract_lets e s1 hp li lo olen count short whole len bad run pin n cut rd s2 s3 w s4 isBad trunc flen past st tag opn loop sentBits s5 s6
  have h1 : FlashWf (s1.outside noFlash) := by simp [s1, h]
  have hrd : FlashWf (rd.st.outside noFlash) := by simp only [rd]; split <;> simp [h1]
  have h3 : FlashWf (s3.outside noFlash) := by simp only [s3, s2]; split <;> simp [hrd]
  have h4 : FlashWf (s4.outside noFlash) := by
    have hw : FlashWf (w.2.outside noFlash) := by simp only [w]; split <;> simp [h3]
    simp [s4, hw]
  have h6 : FlashWf (s6.outside noFlash) := by simp only [s6, s5]; split <;> simp [h4]
  repeat' split
  all_goals simp [h, h4, h6]

/-! ## Steps -/

theorem execWakeAutoStart_keepsFlashForm {s t : State} (hs : FlashWf (s.outside noFlash)) (h : execWakeAutoStart s = .next t) :
    FlashWf (t.outside noFlash) := by
  unfold execWakeAutoStart at h
  split at h
  · rw [← Host.Outcome.next.inj h]
    exact State.wakeBegin_flashOk hs
  · cases h; exact hs

theorem execWakeStepDone_keepsFlashForm (temps : List (OctIx × BitVec 16)) {s t : State} (hs : FlashWf (s.outside noFlash))
    (h : execWakeStepDone temps s = .next t) :
    FlashWf (t.outside noFlash) := by
  unfold execWakeStepDone at h
  repeat' split at h
  all_goals
    cases h
    simp [hs]

theorem execBypassExit_keepsFlashForm {s t : State} (hs : FlashWf (s.outside noFlash)) (h : execBypassExit s = .next t) :
    FlashWf (t.outside noFlash) := by
  unfold execBypassExit at h
  split at h
  · cases h; exact hs
  split at h
  · rw [← Host.Outcome.next.inj h]
    exact State.wakeStep_flashOk _ _ hs
  · rw [← Host.Outcome.next.inj h, State.leaveDevBypass_outside _ _ (by simp) (by simp) (by simp) (by simp) (by simp) (by simp)]
    exact hs

theorem execColdReset_keepsFlashForm (cause : Fin 3) (usable : Bool) (sectors : Fin 65537) (pfail : Bool) {s t : State} (hs : FlashWf (s.outside noFlash))
    (h : execColdReset cause usable sectors pfail s = .next t) :
    FlashWf (t.outside noFlash) := by
  cases h
  exact State.endReset_flashOk (by simp [hs])

theorem execRailLost_keepsFlashForm (r : Fin 8) {s t : State} (hs : FlashWf (s.outside noFlash)) (h : execRailLost r s = .next t) :
    FlashWf (t.outside noFlash) := by
  unfold execRailLost at h
  dsimp only at h
  repeat' split at h
  all_goals
    cases h
    simp [hs]

theorem execRailRegained_keepsFlashForm (r : Fin 8) {s t : State} (hs : FlashWf (s.outside noFlash)) (h : execRailRegained r s = .next t) :
    FlashWf (t.outside noFlash) := by
  unfold execRailRegained at h
  dsimp only at h
  repeat' split at h
  all_goals
    cases h
    simp [hs]

theorem execCobRestart_keepsFlashForm (words : Nat) {s t : State} (hs : FlashWf (s.outside noFlash)) (h : execCobRestart words s = .next t) :
    FlashWf (t.outside noFlash) := by
  unfold execCobRestart at h
  dsimp only at h
  repeat' split at h
  all_goals
    cases h
    simp [hs]

theorem execBrace_keepsFlashForm (words : Nat) (cls : WCls) {s t : State} (hs : FlashWf (s.outside noFlash)) (h : execBrace words cls s = .next t) :
    FlashWf (t.outside noFlash) := by
  unfold execBrace at h
  extract_lets shed s1 s2 at h
  have h2 : FlashWf (s2.outside noFlash) := by
    rw [State.modMem_outside _ _ (by simp)]
    exact State.cutErase_flashOk (State.cutRec_flashOk _ _ (by simp [s1, hs]))
  split at h
  · cases h; exact hs
  · injection h with h
    rw [← h]
    split <;> simp [h2]

theorem execBraceRel_keepsFlashForm {s t : State} (hs : FlashWf (s.outside noFlash)) (h : execBraceRel s = .next t) :
    FlashWf (t.outside noFlash) := by
  unfold execBraceRel at h
  dsimp only at h
  repeat' split at h
  all_goals
    cases h
    simp [hs]

theorem execDsStore_keepsFlashForm (holdup : Bool) {s t : State} (hs : FlashWf (s.outside noFlash)) (h : execDsStore holdup s = .next t) :
    FlashWf (t.outside noFlash) := by
  unfold execDsStore at h
  dsimp only at h
  repeat' split at h
  all_goals
    cases h
    simp [hs]

theorem execDsRecordCommit_keepsFlashForm (bad : Option (Nat × Bool)) {s t : State} (hs : FlashWf (s.outside noFlash))
    (h : execDsRecordCommit bad s = .next t) :
    FlashWf (t.outside noFlash) := by
  unfold execDsRecordCommit at h
  split at h
  case h_2 => cases h; exact hs
  split at h
  · cases h; exact hs
  extract_lets n at h
  split at h
  · injection h with h
    exact h ▸ State.portNext_flashOk (State.recStands_flashOk _ _ (by simp [hs]))
  · extract_lets i c s1 at h
    have h1 : FlashWf (s1.outside noFlash) :=
      State.modStore_flashOk (fun d => StoreS.spoil_canonical _ _ _ d) (State.programRec_flashOk _ _ hs)
    split at h
    · injection h with h
      exact h ▸ State.runStart_flashOk (by simp [h1])
    · injection h with h
      exact h ▸ State.portNext_flashOk (State.replaceSector_flashOk _ (by simp [h1]))

theorem execEraseAhead_keepsFlashForm (ring : Bool) {s t : State} (hs : FlashWf (s.outside noFlash)) (h : execEraseAhead ring s = .next t) :
    FlashWf (t.outside noFlash) := by
  unfold execEraseAhead at h
  repeat' split at h
  all_goals
    cases h
    simp [hs]

theorem execDsScrubPeriod_keepsFlashForm (ws : List (BitVec 32 × Bool)) {s t : State} (hs : FlashWf (s.outside noFlash))
    (h : execDsScrubPeriod ws s = .next t) :
    FlashWf (t.outside noFlash) := by
  unfold execDsScrubPeriod at h
  repeat' split at h
  all_goals
    cases h
    simp [hs]

theorem execTestDuration_keepsFlashForm (kind : Fin 7) (unit : BitVec 16) (bits : BitVec 64) (errs : BitVec 32) {s t : State} (hs : FlashWf (s.outside noFlash))
    (h : execTestDuration kind unit bits errs s = .next t) :
    FlashWf (t.outside noFlash) := by
  unfold execTestDuration at h
  repeat' split at h
  all_goals
    cases h
    simp [hs]

theorem execTestNoSync_keepsFlashForm (kind : Fin 7) (unit : BitVec 16) {s t : State} (hs : FlashWf (s.outside noFlash))
    (h : execTestNoSync kind unit s = .next t) :
    FlashWf (t.outside noFlash) := by
  unfold execTestNoSync at h
  repeat' split at h
  all_goals
    cases h
    simp [hs]

theorem execHoldupOkHigh_keepsFlashForm {s t : State} (hs : FlashWf (s.outside noFlash)) (h : execHoldupOkHigh s = .next t) :
    FlashWf (t.outside noFlash) := by
  unfold execHoldupOkHigh at h
  dsimp only at h
  repeat' split at h
  all_goals
    cases h
    simp [hs]

theorem execSectorEraseDone_keepsFlashForm (ok : Bool) {s t : State} (hs : FlashWf (s.outside noFlash)) (h : execSectorEraseDone ok s = .next t) :
    FlashWf (t.outside noFlash) := by
  unfold execSectorEraseDone at h
  split at h
  · cases h; exact hs
  split at h
  · cases h; exact hs
  split at h
  · next p l _ _ _ _ _ =>
    extract_lets s1 at h
    have h1 : FlashWf (s1.outside noFlash) := by
      rw [State.modGw_outside _ _ (by simp)]
      exact State.modStore_flashOk (fun d => StoreS.erase_canonical _ _ d) hs
    have hbad : FlashWf (State.outside noFlash (if s1.worn l = true then s1.replaceSector l else s1)) := by
      split
      · exact State.replaceSector_flashOk _ h1
      · exact h1
    injection h with h
    exact h ▸ State.runStart_flashOk (State.portNext_flashOk hbad)
  split at h
  · cases h; exact State.modStore_flashOk (fun _ hd => hd) hs
  · injection h with h
    refine h ▸ State.runStart_flashOk (State.portNext_flashOk (State.replaceSector_flashOk _ ?_))
    exact State.modStore_flashOk (fun d => StoreS.ruin_canonical _ d) hs

theorem execOtpRowProgrammed_keepsFlashForm (damaged : Bool) {s t : State} (hs : FlashWf (s.outside noFlash))
    (h : execOtpRowProgrammed damaged s = .next t) :
    FlashWf (t.outside noFlash) := by
  unfold execOtpRowProgrammed at h
  dsimp only at h
  repeat' split at h
  all_goals
    cases h
    simp [hs]

/-- A command that reaches the array keeps its form. -/
theorem exec_keepsFlashForm {i : Instr} {s t : State} (hs : FlashWf (s.outside noFlash)) (h : exec i s = .next t) : FlashWf (t.outside noFlash) := by
  by_cases hi : Part.flash ∈ partsOf i
  case neg => exact FlashWf.of_flash_eq ((commandsKeepOtherParts i s t h).flash hi) hs
  cases i with
  | devWake hd => cases h; exact State.viaDoor_flashOk _ _ (fun _ => State.opDevWake_flashOk hd) hs
  | devReset hd => cases h; exact State.viaDoor_flashOk _ _ (fun _ => State.warmReset_flashOk 3) hs
  | dsScrub hd ws => cases h; exact State.viaDoor_flashOk _ _ (fun _ => State.opDsScrub_flashOk hd ws) hs
  | mntDsFormat hd => cases h; exact State.viaDoor_flashOk _ _ (fun _ => State.opMntDsFormat_flashOk hd) hs
  | testRun hd => cases h; exact State.viaDoor_flashOk _ _ (fun _ => State.opTestRun_flashOk hd _ _ _ _) hs
  | testStop hd => cases h; exact State.viaDoor_flashOk _ _ (fun _ => State.opTestStop_flashOk hd _ _) hs
  | jtagInstructionUpdate => cases h; exact State.tapUpdate_flashOk _ hs
  | testLogicReset => cases h; exact State.tapUpdate_flashOk _ hs
  | regWr => cases h; exact State.frame_flashOk _ _ hs
  | bulkWr => cases h; exact State.frame_flashOk _ _ hs
  | guardedWrite => cases h; exact State.accessIf_flashOk _ (fun _ => State.regWrite_flashOk _ _ _ _) hs
  | registerWrite => cases h; exact State.accessIf_flashOk _ (fun _ => State.regWrite_flashOk _ _ _ _) hs
  | bitAliasWrite => cases h; exact State.accessIf_flashOk _ (fun _ => State.bitWrite_flashOk _ _ _ _ _) hs
  | ring => cases h; exact State.accessIf_flashOk _ (fun _ => State.bitWrite_flashOk _ _ _ _ _) hs
  | wakeAutoStart => exact execWakeAutoStart_keepsFlashForm hs h
  | wakeStepDone => exact execWakeStepDone_keepsFlashForm _ hs h
  | bypassExit => exact execBypassExit_keepsFlashForm hs h
  | coldReset => exact execColdReset_keepsFlashForm _ _ _ _ hs h
  | railLost => exact execRailLost_keepsFlashForm _ hs h
  | railRegained => exact execRailRegained_keepsFlashForm _ hs h
  | cobRestart => exact execCobRestart_keepsFlashForm _ hs h
  | brace => exact execBrace_keepsFlashForm _ _ hs h
  | braceRel => exact execBraceRel_keepsFlashForm hs h
  | dsStore => exact execDsStore_keepsFlashForm _ hs h
  | dsRecordCommit => exact execDsRecordCommit_keepsFlashForm _ hs h
  | eraseAhead => exact execEraseAhead_keepsFlashForm _ hs h
  | dsScrubPeriod => exact execDsScrubPeriod_keepsFlashForm _ hs h
  | testDuration => exact execTestDuration_keepsFlashForm _ _ _ _ hs h
  | testNoSync => exact execTestNoSync_keepsFlashForm _ _ hs h
  | holdupOkHigh => exact execHoldupOkHigh_keepsFlashForm hs h
  | sectorEraseDone => exact execSectorEraseDone_keepsFlashForm _ hs h
  | otpRowProgrammed => exact execOtpRowProgrammed_keepsFlashForm _ hs h
  | _ => simp [partsOf] at hi

/-- Settles O47: an idle step leaves the array alone, and every command keeps its form. -/
theorem stepKeepsFlashForm : Obligations.StepKeepsFlashForm := by
  intro s t hs h
  rw [← flashWf_outside] at hs ⊢
  unfold step at h
  split at h
  · injection h with h
    rw [← h, State.idleStep_outside _ (by simp) (by simp) (by simp) (by simp) (by simp) (by simp)]
    exact hs
  · next i q _ => exact exec_keepsFlashForm (s := s.withRest q) (FlashWf.of_flash_eq rfl hs) h

end Sys2Proof.Machine
end

section
/-!
PROOFS. The state after reset, and an idle step (R13, R103, R900).
-/
namespace Sys2Proof.Machine
open Sys2Proof

/-- Settles O46: the fields of `State.reset`, read off. -/
theorem resetHoldsItsValues : Obligations.ResetHoldsItsValues :=
  ⟨State.reset_flashWf, rfl, rfl, rfl, rfl, fun _ => rfl, fun _ => ⟨rfl, rfl, rfl⟩, fun _ => rfl, rfl, rfl, rfl, rfl, rfl, rfl, rfl, rfl, rfl, rfl, rfl⟩

/-! ## The rate word -/

/-- A reading of the timescale that does not look at RATE stays over a new rate word. -/
theorem State.setRate_reads {α : Type} {f : TsS → α} (hf : ∀ t r, f { t with rate := r } = f t) (r : Int) (s : State) :
    f (s.setRate r).ts = f s.ts := by
  unfold State.setRate
  split
  · refine (hf _ r).trans (congrArg f ?_)
    dsimp only
    split <;> rfl
  · rfl

/-- A composed rate word reaches RATE, the clamp, the slew term and the event register. -/
theorem State.tsCompose_reads {α : Type} {f : TsS → α}
    (hf : ∀ t ev r c sl cl, f { t with ev := ev, rate := r, srv := { t.srv with clamp := c }, trav := { t.trav with slew := sl, clamped := cl } } = f t)
    (s : State) : f s.tsCompose.ts = f s.ts := by
  unfold State.tsCompose
  extract_lets t slew rest y yc clamp s1 s2
  have h1 : f s1.ts = f s.ts := by
    simp only [s1]
    split
    · exact hf s.ts _ s.ts.rate s.ts.srv.clamp s.ts.trav.slew s.ts.trav.clamped
    · rfl
  rw [State.setRate_reads (fun t r => hf t t.ev r t.srv.clamp t.trav.slew t.trav.clamped), ← h1]
  exact hf s1.ts s1.ts.ev s1.ts.rate _ _ _

@[simp] theorem State.tsCompose_dts (s : State) : s.tsCompose.ts.dts = s.ts.dts := s.tsCompose_reads (f := (·.dts)) (by intros; rfl)
@[simp] theorem State.tsCompose_edges (s : State) : s.tsCompose.ts.edges = s.ts.edges := s.tsCompose_reads (f := (·.edges)) (by intros; rfl)
@[simp] theorem State.tsCompose_st (s : State) : s.tsCompose.ts.st = s.ts.st := s.tsCompose_reads (f := (·.st)) (by intros; rfl)

/-! ## SCLK edges -/

/-- The drift term leaves the counter and the edge count alone. -/
theorem State.coastEdge_counter (s : State) : s.coastEdge.ts.dts = s.ts.dts ∧ s.coastEdge.ts.edges = s.ts.edges := by
  unfold State.coastEdge
  dsimp only
  repeat' split
  all_goals simp

theorem State.sclkEdge_running {s : State} (hst : s.ts.st ≠ .stopped) (hclk : s.ref.sclkOk = true) (hon : s.domOn pdRef = true) :
    (s.sclkEdge.ts.dts : Int) = ((s.ts.dts : Int) + 2 ^ 64 + s.ts.rate) % (dtsMod : Int) ∧ s.sclkEdge.ts.edges = s.ts.edges + 1 := by
  have hmod : 0 ≤ ((s.ts.dts : Int) + 2 ^ 64 + s.ts.rate) % (dtsMod : Int) := Int.emod_nonneg _ (by decide)
  unfold State.sclkEdge
  rw [if_neg (by simp [hst, hclk, hon])]
  obtain ⟨hd, he⟩ := State.coastEdge_counter (s.modTs fun t =>
      let dts := (((t.dts : Int) + 2 ^ 64 + t.rate) % (dtsMod : Int)).toNat
      { t with dts := dts, edges := t.edges + 1, hist := (dts, t.rate) :: t.hist.take 7 })
  rw [hd, he]
  exact ⟨Int.toNat_of_nonneg hmod, rfl⟩

theorem State.sclkEdge_idle {s : State} (h : s.ts.st = .stopped ∨ s.ref.sclkOk = false ∨ s.domOn pdRef = false) : s.sclkEdge = s := by
  unfold State.sclkEdge
  rw [if_pos (by simpa using h)]

/-- Switches and bypass inputs leave the timescale to the SCLK edge. -/
theorem State.idleStep_ts (s : State) : s.idleStep.ts = s.sclkEdge.ts :=
  State.ts_of_outside (by simp [State.idleStep])

theorem State.idleStep_clk (s : State) : s.idleStep.byp.clk = s.byp.clk + 1 := by
  have h (l : List Nat) : (forAll l (fun c s => s.switchEdge c) s.sclkEdge).byp = s.byp := State.byp_of_outside (by simp)
  unfold State.idleStep State.bypEdges
  rw [State.modByp_byp, h]

theorem step_idle {s : State} (h : s.pending = []) : step s = .next s.idleStep := by
  simp only [step, h]

/-- Settles O2: an idle step's timescale is that of its SCLK edge. -/
theorem idleStepIsAnSclkEdge : Obligations.IdleStepIsAnSclkEdge := by
  refine ⟨fun s h => ⟨_, step_idle h, ?_, s.idleStep_clk, fun hst hclk hon => ?_⟩, fun s h hno => ⟨_, step_idle h, ?_⟩⟩
  · simp [Only]
  · rw [State.idleStep_ts]
    exact State.sclkEdge_running hst hclk hon
  · rw [State.idleStep_ts, State.sclkEdge_idle hno]

end Sys2Proof.Machine
end

section
/-!
PROOFS. Loss and return of REFIN, loss of the measurement loop, qualification of PPSIN (R90 to R101, R489, R896, R897).
-/
namespace Sys2Proof.Machine
open Sys2Proof

/-! ## The trace of the MPLL -/

/-- Of REF, a trace that the MPLL follows reaches the last error and the integrator. -/
theorem State.pdFollow_cases (l : List PdCyc) (s : State) :
    s.pdFollow l = s ∨ ∃ e w, s.pdFollow l = s.modRef fun r => { r with err := e, integ := w } := by
  unfold State.pdFollow
  split
  · split
    · exact .inl rfl
    · exact .inr ⟨_, _, rfl⟩
  · exact .inl rfl

/-- A reading of REF that looks at neither stays over a trace. -/
theorem State.pdFollow_reads {α : Type} {f : RefS → α} (hf : ∀ r e w, f { r with err := e, integ := w } = f r) (l : List PdCyc) (s : State) :
    f (s.pdFollow l).ref = f s.ref := by
  obtain h | ⟨e, w, h⟩ := s.pdFollow_cases l
  · rw [h]
  · rw [h]; exact hf _ _ _

@[simp] theorem State.pdFollow_refFires (l : List PdCyc) (tr : RefTrace) (s : State) : (s.pdFollow l).refFires tr = s.refFires tr := by
  obtain h | ⟨e, w, h⟩ := s.pdFollow_cases l
  · rw [h]
  · rw [h]; rfl

@[simp] theorem State.pdFollow_pdLocks (l m : List PdCyc) (s : State) : (s.pdFollow l).pdLocks m = s.pdLocks m := by
  obtain h | ⟨e, w, h⟩ := s.pdFollow_cases l
  · rw [h]
  · rw [h]; rfl

/-! ## The detectors of R92 -/

/-- The loop window of a locked MPLL has run out. -/
def State.windowFires (s : State) (tr : RefTrace) : Prop := s.ref.lock = true ∧ s.pv P.refLosscnt ≤ s.pdOut tr.cyc

/-- The frequency gate finds a deviation beyond REF_FWIN. -/
def State.freqFires (s : State) (dev : Option Int) : Prop :=
  s.ts.role = .gm ∧ s.pps.qual = true ∧ ∃ d, dev = some d ∧ s.pi P.refFwin < (d.natAbs : Int)

theorem State.windowFires_iff (s : State) (tr : RefTrace) : s.windowFires tr ↔ s.ref.lock ∧ s.pv P.refLosscnt ≤ s.pdOut tr.cyc := Iff.rfl

theorem State.freqFires_iff (s : State) (dev : Option Int) :
    s.freqFires dev ↔ s.ts.role = .gm ∧ s.pps.qual ∧ dev.any (fun d => s.pi P.refFwin < d.natAbs) := by
  simp only [State.freqFires, Option.any_eq_true, decide_eq_true_eq]

theorem State.refFires_freq {s : State} {tr : RefTrace} (h : s.freqFires tr.dev) : ∃ l, s.refFires tr = .freq :: l := by
  rw [State.refFires, if_pos ((s.freqFires_iff _).1 h)]
  exact ⟨_, rfl⟩

theorem State.refFires_window {s : State} {tr : RefTrace} (hf : ¬ s.freqFires tr.dev) (h : s.windowFires tr) :
    ∃ l, s.refFires tr = .window :: l := by
  rw [State.refFires, if_neg (mt (s.freqFires_iff _).2 hf), if_pos ((s.windowFires_iff _).1 h)]
  exact ⟨_, rfl⟩

theorem State.refFires_rest {s : State} {tr : RefTrace} (hf : ¬ s.freqFires tr.dev) (hw : ¬ s.windowFires tr) :
    s.refFires tr = if tr.missing then [.missing] else [] := by
  rw [State.refFires, if_neg (mt (s.freqFires_iff _).2 hf), if_neg (mt (s.windowFires_iff _).2 hw)]
  rfl

/-! ## Disqualification -/

/-- REF after a disqualification by detector `det` that freezes the MPLL at `mean` (R92, R93). -/
def RefS.disq (det : RefDet) (mean : Int) (r : RefS) : RefS :=
  { r with qual := false, lock := false, frozen := true, word := mean, integ := mean, qualT := false, det := det, winOk := true,
           ev := r.ev.raise 8 }

theorem State.refDisq_ref {s : State} (hq : s.ref.qual = true) (det : RefDet) (mean : Int) :
    (s.refDisq det mean).ref = s.ref.disq det mean := by
  unfold State.refDisq
  rw [if_neg (by simp [hq])]
  extract_lets s1 s2
  refine (State.ref_of_outside (s := s1) ?_).trans rfl
  split <;> simp [s2]

/-- A detector that fires first while REFIN is qualified disqualifies it. -/
theorem State.refWatch_ref {s : State} {tr : RefTrace} {det : RefDet} {l : List RefDet} (hq : s.ref.qual = true) (h : s.refFires tr = det :: l) :
    (s.refWatch tr).ref = (s.pdFollow tr.cyc).ref.disq det ((s.pdFollow tr.cyc).frozenMean det tr) := by
  have hq' : (s.pdFollow tr.cyc).ref.qual = true := (State.pdFollow_reads (f := (·.qual)) (fun _ _ _ => rfl) _ _).trans hq
  rw [State.refWatch, if_neg (by simp [hq])]
  simp only [State.pdFollow_refFires, h]
  exact State.refDisq_ref hq' _ _

theorem State.refWatch_quiet {s : State} {tr : RefTrace} (hq : s.ref.qual = true) (h : s.refFires tr = []) :
    s.refWatch tr = s.pdFollow tr.cyc := by
  rw [State.refWatch, if_neg (by simp [hq])]
  simp only [State.pdFollow_refFires, h]

theorem State.refWatch_unqualified {s : State} {tr : RefTrace} (hq : s.ref.qual = false) (ht : s.ref.qualT = false) : s.refWatch tr = s := by
  rw [State.refWatch, if_pos (by simp [hq]), if_neg (by simp [ht])]

/-- What a loss by detector `d` leaves in REF, from a trace that the MPLL followed. -/
theorem RefS.disq_follow (d : RefDet) (mean : Int) (l : List PdCyc) (s : State) :
    (s.pdFollow l).ref.disq d mean =
      { (s.pdFollow l).ref with qual := false, lock := false, frozen := true, word := mean, integ := mean, qualT := false, det := d, winOk := true,
                                ev := s.ref.ev.raise 8 } := by
  rw [← State.pdFollow_reads (f := (·.ev)) (fun _ _ _ => rfl) l s]; rfl

/-! ## Lock and requalification -/

/-- An MPLL that locks qualifies REFIN; the event comes where REF_QUAL had been met (R90, R95). -/
theorem State.mpllLocked_ref (s : State) : s.mpllLocked.ref =
    { s.ref with lock := true, sclkOk := true, qual := true, qualT := false,
                 ev := if s.ref.qualT = true ∧ s.ref.qual = false then s.ref.ev.raise 9 else s.ref.ev } := by
  unfold State.mpllLocked
  extract_lets again s1 s2 s3 s4
  have h4 : s4.ref = s2.ref := State.ref_of_outside (by simp only [s4, s3]; split <;> simp)
  have h2 : s2.ref = { s.ref with lock := true, sclkOk := true, qual := true, qualT := false,
                                  ev := if s.ref.qualT = true ∧ s.ref.qual = false then s.ref.ev.raise 9 else s.ref.ev } := by
    simp only [s2, s1, again]
    by_cases h : s.ref.qualT = true ∧ s.ref.qual = false <;> simp [h, State.refEv]
  rw [← h2, ← h4]
  split
  · exact State.ref_of_outside (by simp)
  · rfl

/-- REF as REF_QUAL leaves it: the MPLL leaves its frozen word with its divider restarted (R94). -/
def RefS.requal (r : RefS) : RefS := { r with frozen := false, qualT := true, integ := r.word, err := 0 }

/-- The trace from its first cycle on, whose error is then zero. -/
def fromFirst (cyc : List PdCyc) : List PdCyc := cyc.map fun c => { c with diff := c.diff - (cyc.headD ⟨0, 0⟩).diff }

theorem exec_refQual {s : State} (hq : s.ref.qual = false) (hfz : s.ref.frozen = true) (hwin : s.ref.winOk = true) (cyc : List PdCyc) :
    exec (.refQual cyc) s = .next (if s.pdLocks (fromFirst cyc) then ((s.modRef RefS.requal).pdFollow (fromFirst cyc)).mpllLocked
      else (s.modRef RefS.requal).pdFollow (fromFirst cyc)) := by
  change execRefQual s cyc = _
  rw [execRefQual, if_neg (by simp [hq, hfz, hwin])]
  exact congrArg Host.Outcome.next (by rw [State.pdFollow_pdLocks]; rfl)

/-- A detector that fires first in the trace `tr` disqualifies REFIN as R92 and R93 have it. -/
theorem refWatch_lost {s : State} {tr : RefTrace} {d : RefDet} {l : List RefDet} (hq : s.ref.qual = true) (h : s.refFires tr = d :: l) :
    (s.refWatch tr).ref =
      { (s.pdFollow tr.cyc).ref with
        qual := false, lock := false, frozen := true, word := (s.pdFollow tr.cyc).frozenMean d tr, integ := (s.pdFollow tr.cyc).frozenMean d tr,
        qualT := false, det := d, winOk := true, ev := s.ref.ev.raise 8 } := by
  rw [State.refWatch_ref hq h, RefS.disq_follow]

/-- Settles O5: the detector that comes first, and what it leaves; the lock of an MPLL and the requalification of REFIN. -/
theorem refinLossAndReturn : Obligations.RefinLossAndReturn := by
  refine ⟨⟨?_, ?_, ?_, ?_, ?_, ?_, ?_⟩, ?_, ?_, ?_, ?_, ?_, ?_⟩
  · intro tr s hq hw hf
    exact ⟨_, rfl, refWatch_lost hq (State.refFires_rest (tr := { tr with missing := true }) hf hw)⟩
  · intro tr s hq hw hf
    obtain ⟨l, h⟩ := State.refFires_window hf hw
    exact ⟨_, rfl, refWatch_lost hq h⟩
  · intro tr s hq hw hf
    obtain ⟨l, h⟩ := State.refFires_window (tr := { tr with missing := true }) hf hw
    exact ⟨_, rfl, refWatch_lost hq h⟩
  · intro dev tr s hq hf
    obtain ⟨l, h⟩ := State.refFires_freq (tr := { tr with dev := some dev }) hf
    exact ⟨_, rfl, refWatch_lost hq h⟩
  · intro tr s hq hw hf hm
    refine congrArg Host.Outcome.next (State.refWatch_quiet hq ?_)
    rw [State.refFires_rest hf hw, hm]; rfl
  · intro dev tr s hq hw hf hm
    refine congrArg Host.Outcome.next (State.refWatch_quiet (tr := { tr with dev := some dev }) hq ?_)
    rw [State.refFires_rest (tr := { tr with dev := some dev }) hf hw, hm]; rfl
  · intro tr s hq ht
    exact ⟨congrArg Host.Outcome.next (State.refWatch_unqualified hq ht), congrArg Host.Outcome.next (State.refWatch_unqualified hq ht)⟩
  · intro dev s hq hfz
    exact if_pos ⟨by simp [hq], hfz⟩
  · intro cyc s hl hfz hon hlk
    refine ⟨(s.pdFollow cyc).mpllLocked, ?_, ?_⟩
    · change execMpllLock s cyc = _
      rw [execMpllLock, if_neg (by simp [hl, hfz, hon])]
      simp [hlk]
    · obtain h | ⟨e, w, h⟩ := s.pdFollow_cases cyc
      · rw [State.mpllLocked_ref, h]; exact ⟨rfl, rfl, rfl, rfl, hfz, rfl⟩
      · rw [State.mpllLocked_ref, h]; exact ⟨rfl, rfl, rfl, rfl, hfz, rfl⟩
  · intro cyc s hl hfz hon hlk
    change execMpllLock s cyc = _
    rw [execMpllLock, if_neg (by simp [hl, hfz, hon])]
    simp [hlk]
  · intro cyc s h
    change execMpllLock s cyc = _
    rw [execMpllLock, if_pos (by simpa using h)]
  · intro cyc s hq hfz hwin
    refine ⟨_, exec_refQual hq hfz hwin cyc, ?_⟩
    have hreads {α : Type} {f : RefS → α} (hf : ∀ r e w, f { r with err := e, integ := w } = f r) :
        f ((s.modRef RefS.requal).pdFollow (fromFirst cyc)).ref = f s.ref.requal := State.pdFollow_reads hf _ _
    have hfz2 := hreads (f := (·.frozen)) fun _ _ _ => rfl
    have hword := hreads (f := (·.word)) fun _ _ _ => rfl
    have hqual := (hreads (f := (·.qual)) fun _ _ _ => rfl).trans hq
    have hqualT := hreads (f := (·.qualT)) fun _ _ _ => rfl
    have hev := hreads (f := (·.ev)) fun _ _ _ => rfl
    split
    · next hlk =>
      dsimp only
      rw [State.mpllLocked_ref]
      refine ⟨hfz2, hword, fun _ => ⟨rfl, rfl, ?_⟩, fun hno => absurd hlk (by rw [fromFirst, hno]; simp)⟩
      exact (if_pos ⟨hqualT, hqual⟩).trans (congrArg _ hev)
    · next hlk => exact ⟨hfz2, hword, fun hyes => absurd hyes hlk, fun _ => ⟨hqual, hqualT, hev⟩⟩
  · intro cyc s h
    change execRefQual s cyc = _
    rw [execRefQual, if_pos (by simpa using h)]

/-! ## Device mode BYPASS -/

/-- The timescale is STOPPED. -/
def State.TsStopped (s : State) : Prop := s.ts.st = .stopped

/-- What outlasts the end of BND_CH's run and the loss of the upstream outlasts the loss of BND_CH. -/
theorem State.bndGone_keeps {P : State → Prop} (hrun : ∀ {s}, P s → P (s.modTs fun t => { t with bndRun := 0, bndLast := none }))
    (hup : ∀ {s}, P s → P (s.tsUpLost false)) (c : Nat) {s : State} (h : P s) : P (s.bndGone c) := by
  unfold State.bndGone
  split
  · exact h
  · dsimp only
    split
    · exact hup (hrun h)
    · exact hrun h

theorem State.tsUpLost_stopped (byRef : Bool) {s : State} (h : s.TsStopped) : s.tsUpLost byRef = s := by
  rw [State.TsStopped] at h
  simp [State.tsUpLost, h]

theorem State.bndGone_stopped (c : Nat) {s : State} (h : s.TsStopped) : (s.bndGone c).TsStopped :=
  State.bndGone_keeps (P := State.TsStopped) id (fun h => (State.tsUpLost_stopped false h).symm ▸ h) c h

/-- What rests on the timescale alone and outlasts the loss of BND_CH outlasts a channel's entry to BYPASS. -/
theorem State.enterBypass_keeps {P : State → Prop} (hts : ∀ {s t : State}, t.ts = s.ts → P s → P t) (hbnd : ∀ (c : Nat) {s}, P s → P (s.bndGone c))
    (cause : BypCause) (c : Nat) {s : State} (h : P s) : P (s.enterBypass cause c) := by
  unfold State.enterBypass
  extract_lets x k safety s1 s2 s3 s4 s5
  have h2 : s2.ts = s.ts := State.ts_of_outside (by simp only [s2, s1, ite_outside]; simp)
  have h3 : s3.ts = s.ts := by
    rw [← h2]
    refine State.ts_of_outside ?_
    simp only [s3]
    repeat' split
    all_goals simp
  have h5 : s5.ts = s.ts := by
    rw [← h3]
    exact State.ts_of_outside (by simp [s5, s4])
  refine hbnd c (hts ?_ h)
  rw [← h5]
  clear_value s5
  split
  · exact State.ts_of_outside (by simp)
  · rfl

/-- A channel that enters BYPASS does not start the timescale. -/
theorem State.enterBypass_stopped (cause : BypCause) (c : Nat) {s : State} (h : s.TsStopped) : (s.enterBypass cause c).TsStopped :=
  State.enterBypass_keeps (fun e h => (congrArg TsS.st e).trans h) State.bndGone_stopped cause c h

theorem State.devBypass_stopped (cause : Nat) {s : State} (h : s.ts.st = .stopped) : (s.devBypass cause).ts.st = .stopped := by
  unfold State.devBypass
  extract_lets s1 s2 s3 s4 s5
  have h1 : s1.ts.st = .stopped := by rw [State.ts_of_outside (s := s) (by simp [s1]), h]
  have h2 : s2.TsStopped := by
    refine forAll_keeps (P := State.TsStopped) (fun c s hs => ?_) allChans h1
    split
    · exact State.enterBypass_stopped _ _ hs
    · exact hs
  have h4 : s4.ts = s2.ts := State.ts_of_outside (by simp [s4, s3])
  have h5 : s5.ts = s4.ts := by
    simp only [s5]
    split
    · exact State.ts_of_outside (by simp)
    · rfl
  rw [State.ts_of_outside (s := s5) (by simp), h5, h4, h2]

@[simp] theorem State.setMode_mode (m : Mode) (s : State) : (s.setMode m).pwr.mode = m := by
  unfold State.setMode
  split
  · assumption
  · rfl

/-- A change of mode leaves the cause of BYPASS alone. -/
@[simp] theorem State.setMode_bypCause (m : Mode) (s : State) : (s.setMode m).pwr.bypCause = s.pwr.bypCause := by
  unfold State.setMode
  split <;> rfl

@[simp] theorem State.devBypass_mode (cause : Nat) (s : State) : (s.devBypass cause).pwr.mode = .bypass := by
  unfold State.devBypass
  extract_lets
  rw [State.setMode_mode]

@[simp] theorem State.devBypass_bypCause (cause : Nat) (s : State) : (s.devBypass cause).pwr.bypCause = cause := by
  unfold State.devBypass
  extract_lets s1 s2 s3 s4 s5
  have h5 : s5.pwr = s4.pwr := by
    simp only [s5]
    split
    · exact State.pwr_of_outside (by simp)
    · rfl
  rw [State.setMode_bypCause, h5]
  rfl

/-! ## Loss of the measurement loop -/

/-- The timescale as TS_STOP leaves one that runs (R112, R124). -/
def TsS.stop (t : TsS) : TsS :=
  { t with
    st := .stopped, armed := none, srv := .init, trav := .init, rate := 0, drift := 0, forced := false, upOnce := false,
    o := 0, tickDue := false, lease := none, hist := [], edges := 0, folE := none, bndRun := 0, bndLast := none, ev := t.ev.raise 14 }

theorem State.tsStop_ts (s : State) : s.tsStop.ts = if s.ts.st = .stopped then { s.ts with armed := none } else s.ts.stop := by
  unfold State.tsStop
  split
  · rfl
  · extract_lets s1 s2 s3
    have h3 : s3.ts = (s2.tsEv 14).ts := State.ts_of_outside (by simp [s3])
    refine Eq.trans ?_ (h3.trans rfl)
    split
    · exact State.ts_of_outside (by simp)
    · rfl

@[simp] theorem State.tsStop_st (s : State) : s.tsStop.ts.st = .stopped := by
  rw [State.tsStop_ts]
  split
  · assumption
  · rfl

/-- PD_REF reset: no reference, no SCLK, no qualified PPSIN, and the timescale STOPPED (R489). -/
theorem State.refReset_lost (s : State) : s.refReset.ref.qual = false ∧ s.refReset.ref.lock = false ∧ s.refReset.ref.sclkOk = false ∧
    s.refReset.ts.st = .stopped ∧ s.refReset.pps.qual = false := by
  unfold State.refReset
  extract_lets s1 r0 s2 p0 s3 s4 s5
  have hts : s5.ts = s1.ts := State.ts_of_outside (by simp [s5, s4, s3, s2])
  have hpps : s5.pps = s3.pps := State.pps_of_outside (by simp [s5, s4])
  have href : s5.ref = s2.ref := State.ref_of_outside (by simp [s5, s4, s3])
  have hr : ((s5.modDll 8 fun d => { d with lock := false }).loadRef).ref.qual = s5.ref.qual := rfl
  refine ⟨?_, ?_, ?_, ?_, ?_⟩
  · exact (congrArg RefS.qual href).trans rfl
  · exact (congrArg RefS.lock href).trans rfl
  · exact (congrArg RefS.sclkOk href).trans rfl
  · exact (congrArg TsS.st hts).trans s.tsStop_st
  · exact (congrArg PpsS.qual hpps).trans rfl

/-- What the loss of the measurement loop leaves (R96, R489). -/
theorem State.measLost_lost (also : Option RefTrace) (s : State) :
    (s.measLost also).ref.qual = false ∧ (s.measLost also).ref.lock = false ∧ (s.measLost also).ref.sclkOk = false ∧
    (s.measLost also).ts.st = .stopped ∧ (s.measLost also).pps.qual = false ∧ (s.measLost also).pwr.mode = .bypass ∧
    (s.measLost also).pwr.bypCause = 1 := by
  unfold State.measLost
  extract_lets s1 s2 s3
  obtain ⟨hq, hl, hc, hts, hp⟩ := s2.refReset_lost
  have hr : s3.ref = s2.refReset.ref := State.ref_of_outside (by simp [s3])
  have hpps : s3.pps = s2.refReset.pps := State.pps_of_outside (by simp [s3])
  have e3 : s3 = s2.refReset.devBypass 1 := rfl
  have hts3 : s3.ts.st = .stopped := by rw [e3]; exact State.devBypass_stopped 1 hts
  have hm : s3.pwr.mode = .bypass := by rw [e3, State.devBypass_mode]
  have hb : s3.pwr.bypCause = 1 := by rw [e3, State.devBypass_bypCause]
  clear_value s3
  exact ⟨(congrArg RefS.qual hr).trans hq, (congrArg RefS.lock hr).trans hl, (congrArg RefS.sclkOk hr).trans hc,
    hts3, (congrArg PpsS.qual hpps).trans hp, hm, hb⟩

/-! ## PPSIN -/

/-- Of a qualified PPSIN, an edge within the window of the last one; the first one after a start (log 81). -/
def State.ppsGood (s : State) (t : Nat) : Bool := match s.pps.last with
  | some l => ((stampDiff t l - secU).natAbs : Int) ≤ s.pi P.ppsWin
  | none => s.pps.qual

theorem execPpsinEdge_qualified {s : State} (t : Nat) (hst : s.ts.st ≠ .stopped) (hq : s.pps.qual = true) :
    exec (.ppsinEdge t) s = .next (s.modPps fun p =>
      if s.ppsGood t then { p with last := some t } else { p with outlier := satAdd 32 1 p.outlier }) := by
  change execPpsinEdge t s = _
  rw [execPpsinEdge, if_neg hst]
  change (if s.pps.qual = true then if s.ppsGood t = true then _ else _ else _) = _
  rw [if_pos hq]
  split <;> rfl

/-- Of an unqualified PPSIN an edge counts in its run, and the second good one qualifies it (R99). -/
theorem execPpsinEdge_unqualified {s : State} (t : Nat) (hst : s.ts.st ≠ .stopped) (hq : s.pps.qual = false) :
    exec (.ppsinEdge t) s = .next (
      if 2 ≤ (if s.ppsGood t then s.pps.run + 1 else 0) then
        (s.modPps fun p => { p with last := some t, qual := true, ever := true, run := 0 }).refEv 11
      else s.modPps fun p => { p with last := some t, run := if s.ppsGood t then s.pps.run + 1 else 0 }) := by
  change execPpsinEdge t s = _
  rw [execPpsinEdge, if_neg hst]
  change (if s.pps.qual = true then _ else if 2 ≤ (if s.ppsGood t = true then s.pps.run + 1 else 0) then _ else _) = _
  rw [if_neg (by simp [hq]), apply_ite Host.Outcome.next]
  rfl

/-- Settles O6: the chain of `measLost`, and the branches of PPSIN's edge and loss. -/
theorem measurementLoopAndPpsin : Obligations.MeasurementLoopAndPpsin := by
  refine ⟨⟨fun also s h => ⟨_, if_pos h, s.measLost_lost also⟩, fun also s h => if_neg (by simp [h])⟩, ?_⟩
  intro near
  have hnear {s : State} {t l : Nat} (h : s.pps.last = some l) : s.ppsGood t = near s t l := by simp only [State.ppsGood, h]; rfl
  have hfirst {s : State} {t : Nat} (h : s.pps.last = none) : s.ppsGood t = s.pps.qual := by simp only [State.ppsGood, h]
  refine ⟨?_, ?_, ?_, ?_, ?_, ?_, ?_, ?_⟩
  · intro t s hst hq hgood
    have hg : s.ppsGood t = true := by
      cases hl : s.pps.last with
      | none => rw [hfirst hl, hq]
      | some l => rw [hnear hl, hgood l hl]
    rw [execPpsinEdge_qualified t hst hq, hg]; rfl
  · intro t l s hst hq hl hfar
    rw [execPpsinEdge_qualified t hst hq, hnear hl, hfar]; rfl
  · intro t l s hst hq hrun hl hgood
    rw [execPpsinEdge_unqualified t hst hq, hnear hl, hgood, hrun]; rfl
  · intro t l s hst hq hrun hl hgood
    rw [execPpsinEdge_unqualified t hst hq, hnear hl, hgood, hrun]; rfl
  · intro t s hst hq hfar
    have hg : s.ppsGood t = false := by
      cases hl : s.pps.last with
      | none => rw [hfirst hl, hq]
      | some l => rw [hnear hl, hfar l hl]
    rw [execPpsinEdge_unqualified t hst hq, hg]; rfl
  · intro t s hst
    exact if_pos hst
  · intro l s hst hq hl hlate
    refine if_pos ⟨hq, ?_⟩
    simp [State.ppsOver, hl, hlate]
  · intro l s hst hl hsoon
    refine if_neg fun ⟨_, h⟩ => ?_
    simp only [State.ppsOver, hl, hst, decide_false, Bool.false_or, decide_eq_true_eq] at h
    omega

end Sys2Proof.Machine
end

section
/-!
PROOFS. The device timescale: starting and stopping, requests, upstream and role, timer events (R109 to R137, R272, R276, R387, R849, R898).
-/
namespace Sys2Proof.Machine
open Sys2Proof

/-! ## Answers -/

/-- What is answered stands in the door, whatever happens elsewhere. -/
theorem Answered.of_door {h : Hdr} {cmd : Nat} {r : Rep} {t u : State} (hd : t.door h.door = u.door h.door) (a : Answered h cmd r u) :
    Answered h cmd r t := by
  rw [Answered, hd]; exact a

theorem Taken.door_ne {h : Hdr} {cmd : Nat} {s : State} (g : Taken h cmd s) : h.door.val ≠ 6 := fun e => g.2.2.2.1 (Fin.ext e)

/-- SLEW_DONE reaches no door but door 6. -/
theorem slewDone_door_ne {n : Nat} (h : n ≠ 6) (name : Nat) (t : Trav) (s : State) : (slewDone name t s).door n = s.door n :=
  forAll_keeps (P := fun u => u.door n = s.door n) (fun _ _ e => (State.post_door_ne h _ _).trans e) _ rfl

/-! ## The traverse of the timescale -/

/-- A reading of the timescale that looks at neither traverse, position nor realised offset stays over an advance. -/
theorem State.tsAdvance_reads {α : Type} {f : TsS → α}
    (hf : ∀ t tr a o, f { t with trav := tr, srv := { t.srv with adv := a, oReal := o } } = f t) (x : Nat) (s : State) :
    f (s.tsAdvance x).ts = f s.ts := by
  unfold State.tsAdvance
  split
  · rfl
  · extract_lets t tr oR s1
    have h1 : f s1.ts = f s.ts := hf s.ts tr x oR
    split
    · rw [State.ts_of_outside (s := s1.modTsTrav fun t => { t with notify := 0 }) (by simp), ← h1]
      exact hf s1.ts { s1.ts.trav with notify := 0 } s1.ts.srv.adv s1.ts.srv.oReal
    · exact h1

/-! ## Coasting -/

/-- The timescale as it enters COASTING (R124, R130, R131). -/
def TsS.coast (byRef forced : Bool) (t : TsS) : TsS :=
  { t with
    st := .coasting, tEntry := readDts t.dts, refEntry := byRef, drift := 0, forced := forced, boundN := 0
    srv := { t.srv with reentry := false, inRun := 0, outRun := 0 }
    trav := { t.trav with pHold := true } }

/-- The timescale as COASTING is entered, but for what composing the rate word writes. -/
theorem State.tsCoast_reads {α : Type} {f : TsS → α}
    (hf : ∀ t ev r c sl cl, f { t with ev := ev, rate := r, srv := { t.srv with clamp := c }, trav := { t.trav with slew := sl, clamped := cl } } = f t)
    (byRef forced : Bool) (s : State) : f (s.tsCoast byRef forced).ts = f ((s.tsAdvance s.ts.dts).ts.coast byRef forced) := by
  unfold State.tsCoast
  extract_lets s1 s2 s3
  have h3 : s3.ts = (s2.tsCompose.tsEv 12).ts := State.ts_of_outside (by simp [s3])
  have h4 : f s3.ts = f s2.ts := calc
    f s3.ts = f (s2.tsCompose.tsEv 12).ts := congrArg f h3
    _ = f s2.tsCompose.ts := hf s2.tsCompose.ts (s2.tsCompose.ts.ev.raise 12) s2.tsCompose.ts.rate s2.tsCompose.ts.srv.clamp
      s2.tsCompose.ts.trav.slew s2.tsCompose.ts.trav.clamped
    _ = f s2.ts := State.tsCompose_reads hf s2
  rw [show (s1.ts.coast byRef forced) = s2.ts from rfl, ← h4]
  split
  · rw [State.ts_of_outside (s := s3) (by simp)]
  · rfl

/-- Entry to COASTING leaves what neither it, the advance nor the rate word writes. -/
theorem State.tsCoast_keeps {α : Type} {f : TsS → α}
    (hf : ∀ t ev r v tr, f { t with ev := ev, rate := r, srv := v, trav := tr } = f t) (hc : ∀ b g t, f (TsS.coast b g t) = f t)
    (byRef forced : Bool) (s : State) : f (s.tsCoast byRef forced).ts = f s.ts := by
  rw [State.tsCoast_reads (fun t ev r c sl cl => hf t ev r _ _), hc, State.tsAdvance_reads (fun t tr a o => hf t t.ev t.rate _ _)]

/-! ## The servo enabled -/

/-- The timescale as its servo is enabled (R124, R277). -/
def TsS.acquire (t : TsS) : TsS :=
  { t with
    st := .acquiring, upOnce := true
    srv := { t.srv with i1 := t.srv.base, i2 := 0, reentry := true, inRun := 0, outRun := 0 } }

theorem State.tsAcquire_ts (s : State) : s.tsAcquire.ts =
    (if s.ts.role = .fol ∧ s.ts.st = .free then { s.ts with srv := { s.ts.srv with base := s.cas.rate } } else s.ts).acquire := by
  unfold State.tsAcquire
  extract_lets s1
  have h1 : (s1.modTs TsS.acquire).g6Sync.ts = s1.ts.acquire := State.ts_of_outside (s := s1.modTs TsS.acquire) (by simp)
  refine h1.trans (congrArg TsS.acquire ?_)
  simp only [s1]
  split <;> rfl

/-! ## Starting -/

/-- The timescale runs, no start armed, at counter value `d`. -/
def State.RunsAt (d : Nat) (s : State) : Prop := s.ts.st ≠ .stopped ∧ s.ts.armed = none ∧ s.ts.dts = d

theorem State.RunsAt.of_ts {d : Nat} {s t : State} (e : t.ts = s.ts) (h : s.RunsAt d) : t.RunsAt d := by
  rw [State.RunsAt, e]; exact h

theorem State.RunsAt.tsUpLost {d : Nat} {s : State} (byRef : Bool) (h : s.RunsAt d) : (s.tsUpLost byRef).RunsAt d := by
  unfold State.tsUpLost
  split
  · refine ⟨?_, ?_, ?_⟩
    · rw [State.tsCoast_reads (f := TsS.st) (by intros; rfl)]; exact TsState.noConfusion
    · exact (State.tsCoast_keeps (f := TsS.armed) (by intros; rfl) (by intros; rfl) ..).trans h.2.1
    · exact (State.tsCoast_keeps (f := TsS.dts) (by intros; rfl) (by intros; rfl) ..).trans h.2.2
  · exact h

theorem State.RunsAt.enterBypass {d : Nat} {s : State} (cause : BypCause) (c : Nat) (h : s.RunsAt d) : (s.enterBypass cause c).RunsAt d :=
  State.enterBypass_keeps State.RunsAt.of_ts (State.bndGone_keeps id (State.RunsAt.tsUpLost false)) cause c h

theorem State.RunsAt.chStart {d : Nat} {s : State} (c : Nat) (h : s.RunsAt d) : (s.chStart c).2.RunsAt d := by
  unfold State.chStart
  extract_lets i
  split
  · split
    · exact .of_ts (State.ts_of_outside (by simp)) (h.enterBypass .noStamp i)
    · exact h
  · exact h
  · have : (s.request i .start).RunsAt d := .of_ts (State.ts_of_outside (by simp)) h
    split
    · exact this
    · split <;> exact this

/-- The starts held back come without the timescale changing. -/
theorem State.RunsAt.autostart {d : Nat} {s : State} (h : s.RunsAt d) : s.autostart.RunsAt d := by
  refine forAll_keeps (P := State.RunsAt d) (fun c s hs => ?_) _ h
  have := hs.chStart c
  split
  · next e => rw [e] at this; exact .of_ts (State.ts_of_outside (by simp)) this
  · next e => rw [e] at this; exact this

theorem State.RunsAt.tsQualified {d : Nat} {s : State} (h : s.RunsAt d) : s.tsQualified.RunsAt d := by
  unfold State.tsQualified
  split
  · exact h
  · split
    · rw [State.RunsAt, State.tsAcquire_ts]
      split <;> exact ⟨TsState.noConfusion, h.2⟩
    · exact h
    · exact h

theorem State.tsCoefs_ts (s : State) : ∃ kp ki ki2, s.tsCoefs.ts = { s.ts with kp := kp, ki := ki, ki2 := ki2 } := ⟨_, _, _, rfl⟩

theorem State.RunsAt.tsCoefs {d : Nat} {s : State} (h : s.RunsAt d) : s.tsCoefs.RunsAt d := by
  obtain ⟨kp, ki, ki2, e⟩ := s.tsCoefs_ts
  rw [State.RunsAt, e]
  exact h

theorem State.RunsAt.tsCompose {d : Nat} {s : State} (h : s.RunsAt d) : s.tsCompose.RunsAt d := by
  rw [State.RunsAt, State.tsCompose_st, State.tsCompose_dts, State.tsCompose_reads (f := TsS.armed) (by intros; rfl)]
  exact h

theorem State.tsBegin_runsAt (x v : Nat) (s : State) : (s.tsBegin x v).RunsAt (x % dtsMod) := by
  unfold State.tsBegin
  extract_lets v0 s1 s2 s3 s4
  have h3 : s3.RunsAt (x % dtsMod) := ⟨TsState.noConfusion, rfl, rfl⟩
  exact .tsQualified (.of_ts (s := s3.tsCoefs.tsCompose.tsEv 11) rfl h3.tsCoefs.tsCompose)

theorem State.tsExecute_runsAt (x v : Nat) (s : State) : (s.tsExecute x v).RunsAt (x % dtsMod) := by
  unfold State.tsExecute
  extract_lets s1
  have h : s1.RunsAt (x % dtsMod) := s.tsBegin_runsAt x v
  split
  · exact State.RunsAt.autostart (s := s1.modTs fun t => { t with held := false }) h
  · exact h

/-- An armed start runs from `v`, the SCLK time since the edge added, at the rate in force (R110, R113). -/
theorem tsExecute_counter (x : Int) (s : State) : (s.tsExecute (x % (dtsMod : Int)).toNat (readDts (x % (dtsMod : Int)).toNat)).ts.st ≠ .stopped ∧
    (s.tsExecute (x % (dtsMod : Int)).toNat (readDts (x % (dtsMod : Int)).toNat)).ts.armed = none ∧
    ((s.tsExecute (x % (dtsMod : Int)).toNat (readDts (x % (dtsMod : Int)).toNat)).ts.dts : Int) = x % (dtsMod : Int) := by
  obtain ⟨h1, h2, h3⟩ := s.tsExecute_runsAt (x % (dtsMod : Int)).toNat (readDts (x % (dtsMod : Int)).toNat)
  have h0 : 0 ≤ x % (dtsMod : Int) := Int.emod_nonneg _ (by decide)
  refine ⟨h1, h2, ?_⟩
  rw [h3, Int.natCast_emod, Int.toNat_of_nonneg h0, Int.emod_emod_of_dvd _ (Int.dvd_refl _)]

theorem exec_tsStartExecute (lead : BitVec 96) (d : Nat) {s : State} (hst : s.ts.st = .stopped) (hon : s.domOn pdRef = true) :
    exec (.tsStartExecute lead d) s =
      let run (v : Int) : State :=
        let x := (v * 2 ^ 46 + roundDiv ((d : Int) * (2 ^ 64 + s.pi P.tsRateFixed + s.ref.corr)) (2 ^ 18)) % (dtsMod : Int)
        s.tsExecute x.toNat (readDts x.toNat)
      match s.ts.armed with
      | some (.pps v) => .next (run (v + s.pi P.ppsDelay))
      | some .ppsAuto => .next (run (linOf (s.pv P.tsStartVal) + s.pi P.ppsDelay))
      | some .cascade => .next (run (linOf lead.toNat + s.cas.half.getD 0))
      | none => .next s := if_neg (by simp [hst, hon])

/-- Settles O7: an IMMEDIATE start and an armed one run `tsExecute`, which leaves a running timescale at the value it is given. -/
theorem tsStartArmsAndExecutes : Obligations.TsStartArmsAndExecutes := by
  refine ⟨⟨?_, ?_, ?_, ?_⟩, ?_⟩
  · intro h v s g hst hv hon
    refine ⟨_, rfl, ?_⟩
    rw [State.viaDoor_taken g, State.opTsStart, if_neg (by simpa using hst), if_neg (by simp [hv]), if_neg (by simpa using hon)]
    exact ⟨State.reply_answered .., (s.taken h).tsExecute_runsAt _ _⟩
  · intro h v s g hst hv hon
    change Host.Outcome.next _ = _
    rw [State.viaDoor_taken g, State.opTsStart, if_neg (by simpa using hst), if_neg (by simp [hv]), if_neg (by simpa using hon)]
    rfl
  · intro h v s g hst hv hon
    change Host.Outcome.next _ = _
    rw [State.viaDoor_taken g, State.opTsStart, if_neg (by simpa using hst), if_neg (by simp [hv]), if_neg (by simpa using hon)]
    rfl
  · intro h mode v s g hst
    change Host.Outcome.next _ = _
    rw [State.viaDoor_taken g, State.opTsStart, if_pos (by simpa using hst)]
  · intro counter lead d s hst hon
    have hexec := exec_tsStartExecute lead d hst hon
    refine ⟨fun v ha => ?_, fun ha => ?_, fun ha => ?_, fun ha => ?_⟩
    · exact ⟨_, by rw [hexec, ha], tsExecute_counter _ _⟩
    · exact ⟨_, by rw [hexec, ha], tsExecute_counter _ _⟩
    · exact ⟨_, by rw [hexec, ha], tsExecute_counter _ _⟩
    · rw [hexec, ha]

/-! ## Stopping and holding -/

/-- Settles O8: what `tsStop` and `tsCoast` leave. -/
theorem tsStopHoldRelease : Obligations.TsStopHoldRelease := by
  refine ⟨?_, ?_, ?_, ?_, ?_, ?_⟩
  · intro h s g hm
    refine ⟨_, rfl, ?_⟩
    rw [State.viaDoor_taken g, State.opTsStop, if_pos (by simpa using hm)]
    have hts : ((s.taken h).tsStop.reply h 0x0402 .ok).ts = (s.taken h).tsStop.ts := rfl
    dsimp only
    rw [hts, State.tsStop_ts]
    refine ⟨State.reply_answered .., ?_⟩
    split
    · next hst => exact ⟨hst, rfl, fun hrun => absurd hst hrun⟩
    · exact ⟨rfl, rfl, fun _ => ⟨rfl, rfl, rfl⟩⟩
  · intro h s g hm
    change Host.Outcome.next _ = _
    rw [State.viaDoor_taken g, State.opTsStop, if_neg (by simpa using hm)]
  · intro h s g hst
    refine ⟨_, rfl, ?_⟩
    rw [State.viaDoor_taken g, State.opTsHold, if_pos (by simpa using hst)]
    have hts : (((s.taken h).tsCoast false true).reply h 0x0405 .ok).ts = ((s.taken h).tsCoast false true).ts := rfl
    dsimp only
    rw [hts]
    refine ⟨State.reply_answered .., ?_, ?_, ?_, ?_⟩
    · exact State.tsCoast_reads (f := TsS.st) (by intros; rfl) ..
    · exact State.tsCoast_reads (f := TsS.forced) (by intros; rfl) ..
    · exact State.tsCoast_reads (f := fun t => t.trav.pHold) (by intros; rfl) ..
    · refine (State.tsCoast_reads (f := TsS.tEntry) (by intros; rfl) ..).trans (congrArg readDts ?_)
      exact State.tsAdvance_reads (f := TsS.dts) (by intros; rfl) ..
  · intro h s g hst
    change Host.Outcome.next _ = _
    rw [State.viaDoor_taken g, State.opTsHold, if_neg (by simpa using hst)]
  · intro h s g hst
    change Host.Outcome.next _ = _
    rw [State.viaDoor_taken g, State.opTsRelease, if_pos (by simpa using hst)]
  · intro h s g hst
    change Host.Outcome.next _ = _
    rw [State.viaDoor_taken g, State.opTsRelease, if_neg (by simpa using hst)]

/-! ## Requests -/

/-- A reading of the timescale that does not look at the count of requests to be announced stays as their end is announced. -/
theorem State.tsDone_reads {α : Type} {f : TsS → α} (hf : ∀ t n, f { t with trav := { t.trav with notify := n } } = f t) (s : State) :
    f s.tsDone.ts = f s.ts := by
  unfold State.tsDone
  split
  · rw [State.ts_of_outside (s := s.modTsTrav fun t => { t with notify := 0 }) (by simp)]
    exact hf s.ts 0
  · rfl

theorem State.tsDone_door_ne {n : Nat} (h : n ≠ 6) (s : State) : s.tsDone.door n = s.door n := by
  unfold State.tsDone
  split
  · exact slewDone_door_ne h _ _ _
  · rfl

/-- Settles O9: the branches of the two requests; the announcement of a finished slew touches neither P_CMD nor the door. -/
theorem tsRequestsMovePhaseCommand : Obligations.TsRequestsMovePhaseCommand := by
  have hlim {h : Hdr} {d : Int} {s : State} (hd : h.force = true ∨ (d.natAbs : Int) ≤ s.pi P.tsOfsStepMax) :
      ¬ (s.pi P.tsOfsStepMax < (d.natAbs : Int) ∧ (!h.force) = true) := fun ⟨hgt, hno⟩ => by
    obtain hf | hle := hd
    · simp [hf] at hno
    · omega
  refine ⟨?_, ?_, ?_, ?_, ?_⟩
  · intro h o s g ho hr hd hst
    change Host.Outcome.next _ = _
    rw [State.viaDoor_taken g, State.opTsSetOffset]
    rw [if_neg (by simp [ho]), if_neg (by simp [hr]), if_neg (hlim (s := s.taken h) (d := o - (s.taken h).ts.o) hd), if_pos (by simpa using hst)]
  · intro h o s g ho hr hd hc hs hres
    refine ⟨_, rfl, ?_⟩
    rw [State.viaDoor_taken g, State.opTsSetOffset]
    extract_lets s1
    rw [if_neg (by simp [ho]), if_neg (by simp [hr]), if_neg (hlim (s := s.taken h) (d := o - (s.taken h).ts.o) hd),
      if_neg (by simp [hc, hs])]
    have hres' : (s.taken h).tsRange (o - (s.taken h).ts.o) = false := hres
    rw [if_neg (by rw [hres']; exact Bool.false_ne_true)]
    refine ⟨(State.reply_answered h 0x0403 .ok s1).of_door (State.tsDone_door_ne g.door_ne _), ?_, ?_, ?_⟩
    · exact State.tsDone_reads (f := TsS.o) (by intros; rfl) _
    · exact State.tsDone_reads (f := fun t => t.trav.pCmd) (by intros; rfl) _
    · exact State.tsDone_reads (f := fun t => t.trav.reqN) (by intros; rfl) _
  · intro h o s g ho hr
    change Host.Outcome.next _ = _
    rw [State.viaDoor_taken g, State.opTsSetOffset]
    rw [if_neg (by simp [ho]), if_pos (by simpa using hr)]
  · intro h d s g hd hst hres
    refine ⟨_, rfl, ?_⟩
    rw [State.viaDoor_taken g, State.opTsAdjust]
    extract_lets s1
    have hres' : (s.taken h).tsRange d = false := hres
    rw [if_neg (by simp [hd]), if_neg (by simp [hst]), if_neg (by rw [hres']; exact Bool.false_ne_true)]
    refine ⟨(State.reply_answered h 0x0404 _ s1).of_door (State.tsDone_door_ne g.door_ne _), ?_, ?_⟩
    · exact State.tsDone_reads (f := fun t => t.trav.pCmd) (by intros; rfl) _
    · exact State.tsDone_reads (f := fun t => t.trav.reqN) (by intros; rfl) _
  · intro h d s g hd hst
    change Host.Outcome.next _ = _
    rw [State.viaDoor_taken g, State.opTsAdjust, if_neg (by simp [hd]), if_pos (by simpa using hst)]

/-! ## Upstream and role -/

theorem State.tsUpLost_loses {s : State} (ho : s.ts.upOnce = true) (hst : s.ts.st = .acquiring ∨ s.ts.st = .locked) (byRef : Bool) :
    s.tsUpLost byRef = s.tsCoast byRef false := by
  unfold State.tsUpLost
  rw [if_pos (by simpa [ho] using hst)]

/-- The upstream lost: COASTING, not by the host; BND_CH's run stands as it was. -/
theorem State.tsCoast_upstream (s : State) : (s.tsCoast false false).ts.st = .coasting ∧ (s.tsCoast false false).ts.forced = false ∧
    (s.tsCoast false false).ts.bndRun = s.ts.bndRun ∧ (s.tsCoast false false).ts.bndLast = s.ts.bndLast :=
  ⟨State.tsCoast_reads (f := TsS.st) (by intros; rfl) .., State.tsCoast_reads (f := TsS.forced) (by intros; rfl) ..,
    State.tsCoast_keeps (f := TsS.bndRun) (by intros; rfl) (by intros; rfl) .., State.tsCoast_keeps (f := TsS.bndLast) (by intros; rfl) (by intros; rfl) ..⟩

/-- The timescale as COASTING ends, before its servo is enabled again (R124). -/
def TsS.thaw (t : TsS) : TsS :=
  { t with srv := { t.srv with base := t.srv.base + t.driftWord, adv := t.dts }, drift := 0, trav := { t.trav with pHold := false } }

theorem State.tsResume_ts {s : State} (hst : s.ts.st = .coasting) :
    s.tsResume.ts = { s.ts.thaw.acquire with ev := s.ts.ev.raise 13 } := by
  unfold State.tsResume
  extract_lets s1 s2
  have h2 : s2.ts = { s.ts.thaw.acquire with ev := s.ts.ev.raise 13 } := by
    simp only [s2, State.tsEv, State.modTs_ts, State.tsAcquire_ts]
    rw [if_neg fun h => by simp [s1, hst] at h]
    rfl
  rw [← h2]
  split
  · exact State.ts_of_outside (by simp)
  · rfl

/-- The role is set, and no other waits. -/
def State.RoleIs (r : Role) (s : State) : Prop := s.ts.role = r ∧ s.ts.rolePend = none

theorem State.RoleIs.of_ts {r : Role} {s t : State} (hr : t.ts.role = s.ts.role) (hp : t.ts.rolePend = s.ts.rolePend) (h : s.RoleIs r) : t.RoleIs r :=
  ⟨hr.trans h.1, hp.trans h.2⟩

theorem State.tsCompose_roleIs {r : Role} {s : State} (h : s.RoleIs r) : s.tsCompose.RoleIs r :=
  h.of_ts (State.tsCompose_reads (f := TsS.role) (by intros; rfl) s) (State.tsCompose_reads (f := TsS.rolePend) (by intros; rfl) s)

theorem State.tsAdvance_roleIs {r : Role} (x : Nat) {s : State} (h : s.RoleIs r) : (s.tsAdvance x).RoleIs r :=
  h.of_ts (State.tsAdvance_reads (f := TsS.role) (by intros; rfl) x s) (State.tsAdvance_reads (f := TsS.rolePend) (by intros; rfl) x s)

theorem State.tsCoefs_roleIs {r : Role} {s : State} (h : s.RoleIs r) : s.tsCoefs.RoleIs r := by
  obtain ⟨kp, ki, ki2, e⟩ := s.tsCoefs_ts
  rw [State.RoleIs, e]
  exact h

theorem State.tsAcquire_roleIs {r : Role} {s : State} (h : s.RoleIs r) : s.tsAcquire.RoleIs r := by
  rw [State.RoleIs, State.tsAcquire_ts]
  split <;> exact h

theorem State.tsRoleNow_roleIs (r : Role) (s : State) : (s.tsRoleNow r).RoleIs r := by
  unfold State.tsRoleNow
  extract_lets s1 s2
  have h1 : s1.RoleIs r := State.tsCoefs_roleIs ⟨rfl, rfl⟩
  have h2 : s2.RoleIs r := by
    simp only [s2]
    split
    · exact State.tsCompose_roleIs (State.RoleIs.of_ts (s := s1.tsAdvance s1.ts.dts) rfl rfl (State.tsAdvance_roleIs _ h1))
    · exact h1
  split
  · exact h2
  · exact h2
  · split
    · exact State.tsAcquire_roleIs h2
    · rw [State.RoleIs, State.ts_of_outside (s := s2.modTs fun t => { t with st := .free }) (by simp)]
      exact h2

theorem State.casRoleNow_cas (r : Nat) (s : State) : (s.casRoleNow r).cas = { CasS.init with role := r, txSeq := s.cas.txSeq } := by
  unfold State.casRoleNow
  extract_lets c s1
  have h1 : s1.cas = { CasS.init with role := r, txSeq := s.cas.txSeq } := rfl
  rw [← h1]
  split
  · rfl
  · split <;> rfl

/-- Settles O10: silence coasts, a qualified upstream resumes, a pending role takes effect. -/
theorem tsUpstreamAndRole : Obligations.TsUpstreamAndRole := by
  refine ⟨?_, ?_, ?_, ?_, ?_, ?_, ?_, ?_⟩
  · intro s hr ho hst
    have hup (u : State) (hu : u.ts.upOnce = s.ts.upOnce) (hs : u.ts.st = s.ts.st) : u.tsUpLost false = u.tsCoast false false :=
      State.tsUpLost_loses (hu.trans ho) (by rwa [hs]) false
    have hexec : exec .upLossT s = execUpLossT s := rfl
    unfold execUpLossT at hexec
    obtain hr | ⟨hr, hs⟩ := hr
    · rw [hr] at hexec
      extract_lets s1 at hexec
      have h1 : s1.tsUpLost false = s1.tsCoast false false := by
        simp only [s1]
        split
        · exact hup _ rfl rfl
        · exact hup _ rfl rfl
      rw [h1] at hexec
      obtain ⟨h2, h3, -, -⟩ := s1.tsCoast_upstream
      exact ⟨_, hexec, h2, h3, fun hb => by simp [hr] at hb⟩
    · rw [hr] at hexec
      simp only [hs, if_true] at hexec
      rw [hup (s.modTs fun t => { t with bndRun := 0, bndLast := none }) rfl rfl] at hexec
      obtain ⟨h2, h3, h4, h5⟩ := (s.modTs fun t => { t with bndRun := 0, bndLast := none }).tsCoast_upstream
      exact ⟨_, hexec, h2, h3, fun _ => ⟨h4, h5⟩⟩
  · intro s hs hr
    change execUpLossT s = _
    unfold execUpLossT
    cases hrole : s.ts.role with
    | gm => simp [hs]
    | bnd => simp [hs]
    | fol => exact absurd hrole hr
  · intro s hs hr
    change execUpLossT s = _
    unfold execUpLossT
    rw [hr]
    simp only [hs, if_true]
    rfl
  · intro s hst hq hf
    refine ⟨_, if_pos ⟨hst, by simp [hq, hf]⟩, ?_⟩
    dsimp only
    rw [State.tsResume_ts hst]
    exact ⟨rfl, rfl, rfl, rfl, rfl, rfl⟩
  · intro s h
    refine if_neg fun ⟨hst, hq, hf⟩ => ?_
    simp [hst, hq] at h
    simp [h] at hf
  · intro r s hr
    have hexec : exec .roleChange s = execRoleChange s := rfl
    unfold execRoleChange at hexec
    extract_lets s1 at hexec
    have h1 : s1.ts.rolePend = some r := by
      rw [← hr]
      refine congrArg TsS.rolePend (State.ts_of_outside ?_)
      simp only [s1]
      split
      · simp
      · rfl
    rw [h1] at hexec
    exact ⟨_, hexec, s1.tsRoleNow_roleIs r⟩
  · intro r s hr
    have hexec : exec .roleChange s = execRoleChange s := rfl
    unfold execRoleChange at hexec
    rw [hr] at hexec
    have hcas (u : State) (hu : u.cas = (s.casRoleNow r).cas) : u.cas.role = r ∧ u.cas.rolePend = none := by
      rw [hu, State.casRoleNow_cas]; exact ⟨rfl, rfl⟩
    dsimp only at hexec
    split at hexec
    · exact ⟨_, hexec, hcas _ (State.cas_of_outside (by simp))⟩
    · exact ⟨_, hexec, hcas _ rfl⟩
  · intro s hr hc
    change execRoleChange s = _
    unfold execRoleChange
    rw [hc]
    dsimp only
    rw [hr]

/-! ## Ticks -/

theorem State.tsAdvance_adv (x : Nat) (s : State) :
    (s.tsAdvance x).ts.srv.adv = if dtsDiff x s.ts.srv.adv ≤ 0 then s.ts.srv.adv else x := by
  unfold State.tsAdvance
  split
  · rfl
  · extract_lets t tr oR s1
    split
    · rw [State.ts_of_outside (s := s1.modTsTrav fun t => { t with notify := 0 }) (by simp)]; rfl
    · rfl

/-- A tick advances the traverse to the present and shows the realised offset (R276, R754). -/
theorem State.tsTick_due {s : State} (hst : s.ts.st ≠ .stopped) (hres : s.ts.trav.res ≠ 0) (hp : s.ts.trav.paused = false) :
    s.tsTick = (s.tsAdvance s.ts.dts).tsCompose.latchOfs := by
  unfold State.tsTick
  rw [if_neg (by simp [hst, hres, hp])]

theorem State.settle_ts (e : Nat) (w : Settle) (s : State) : (s.settle e w).ts = s.ts := rfl
theorem State.settle_latchOf (e : Nat) (w : Settle) (n : Nat) (s : State) : (s.settle e w).latchOf n = s.latchOf n := rfl
theorem State.latchOfs_ts (s : State) : s.latchOfs.ts = s.ts := rfl

/-- TS_OFS is latch 7 (R754). -/
theorem State.latchOfs_latch (s : State) : s.latchOfs.latchOf 7 = BitVec.ofNat 128 (toBits 64 s.ts.srv.oReal) :=
  Tab.get_put_same ..

theorem PerS.post_taken {e : PEntry} {p : PerS} (hok : e.ok = true) (hq : p.q.length < 4) : p.post e = some { p with q := p.q ++ [e] } :=
  if_pos ⟨hok, hq⟩

theorem exec_hoBound_due {s : State} (hst : s.ts.st = .coasting)
    (hlate : 60 * secU * (s.ts.boundN + 1) ≤ (s.now + linMod - s.ts.tEntry) % linMod) :
    Completes .hoBound s fun t => t.ts =
      { s.ts with boundN := s.ts.boundN + 1, u := hoBoundOf s.ts.sigA s.ts.sigD ((s.now + linMod - s.ts.tEntry) % linMod) } := by
  have hexec : exec .hoBound s = execHoBound s := rfl
  unfold execHoBound at hexec
  generalize (s.now + linMod - s.ts.tEntry) % linMod = d at *
  extract_lets t u at hexec
  rw [if_neg fun h => h.elim (fun h => h hst) (Nat.not_lt.2 hlate)] at hexec
  exact ⟨_, hexec, State.ts_of_outside (s := s.modTs fun x => { x with u := u, boundN := x.boundN + 1 }) (by simp)⟩

/-- A code that the DAC takes reaches the port and EXT_CODE, whether it was clamped or not. -/
theorem execExtPeriod_writes (b : Int) {s : State} {x : Nat × Bool} {d : PEntry} (ha : s.extActive = true) (hg : s.pi P.extGain ≠ 0)
    (ht : s.tests.any (·.kind = 5) = false) (hq : s.per.q = []) (hx : s.extCode b = x) (hd : dacEntry (s.pv P.extBits) x.1 = d) (hok : d.ok = true) :
    ∃ t, execExtPeriod b s = .next t ∧ t.ext = { s.ext with code := x.1 } ∧ t.per.q = [d] ∧ t.per.gpio = setBit 3 (s.pv P.extSel) false := by
  have hq' : s.per.q ++ [d] = [d] := by rw [hq]; rfl
  unfold execExtPeriod
  extract_lets y
  have hy : y = x := hx
  clear_value y
  subst hy
  rw [if_neg (by simp [ha, hg]), if_neg (by simp [ht, hq]), hd, PerS.post_taken hok (p := s.per) (by simp [hq])]
  dsimp only
  split
  · exact ⟨_, rfl, rfl, hq', rfl⟩
  · exact ⟨_, rfl, rfl, hq', rfl⟩

/-- Settles O11: the guards of the four timer events; a tick advances, composes and shows the offset. -/
theorem tsTimerEvents : Obligations.TsTimerEvents := by
  refine ⟨?_, ?_, ?_, ?_, ?_, ?_, ?_, ?_, ?_⟩
  · intro e s hr ht hst hres hp hq he hl
    have hexec : exec .tsTick s = execTsTick s := rfl
    unfold execTsTick at hexec
    rw [if_neg (by simp [hr, ht, hst, hres, hp]), if_neg (by rw [hq]; exact Bool.false_ne_true), he] at hexec
    dsimp only at hexec
    rw [if_pos hl, State.tsTick_due (s := s.takeTsLease e) hst hres hp] at hexec
    refine ⟨_, hexec, ?_⟩
    dsimp only
    rw [State.settle_ts, State.latchOfs_ts, State.settle_latchOf, State.latchOfs_latch]
    refine ⟨?_, ?_, ?_, rfl⟩
    · rw [State.tsCompose_reads (f := fun t => t.srv.adv) (by intros; rfl), State.tsAdvance_adv]; rfl
    · rw [State.tsCompose_dts, State.tsAdvance_reads (f := TsS.dts) (by intros; rfl)]; rfl
    · rw [State.tsCompose_reads (f := TsS.lease) (by intros; rfl), State.tsAdvance_reads (f := TsS.lease) (by intros; rfl)]; rfl
  · intro s hr ht hst hres hp hq
    change execTsTick s = _
    unfold execTsTick
    rw [if_neg (by simp [hr, ht, hst, hres, hp]), if_pos hq]
    rfl
  · intro s h
    refine if_pos ?_
    simpa [or_assoc] using h
  · intro a d sa sd cover s hst hm
    change execHoPredictorUpdate a d sa sd cover s = _
    unfold execHoPredictorUpdate
    rw [if_neg hst]
    simp only [State.driftFit, if_neg hm]
    rfl
  · intro a d sa sd d' sd' cover s hst hm hg
    change execHoPredictorUpdate a d sa sd cover s = _
    unfold execHoPredictorUpdate
    rw [if_neg hst]
    simp only [State.driftFit, if_pos hm, hg]
    by_cases hsd : sd' < sd
    · simp only [if_pos hsd, Nat.min_eq_right (Nat.le_of_lt hsd)]
      rfl
    · simp only [if_neg hsd, Nat.min_eq_left (Nat.le_of_not_lt hsd)]
      rfl
  · exact fun s hst hlate => exec_hoBound_due hst hlate
  · intro s h
    change execHoBound s = _
    unfold execHoBound
    extract_lets t u
    exact if_pos h
  · exact fun b s ha hg ht hq hok => execExtPeriod_writes b ha hg ht hq rfl rfl hok
  · intro b s ha hg h
    change execExtPeriod b s = _
    unfold execExtPeriod
    rw [if_neg (by simp [ha, hg]), if_pos h]
    rfl

end Sys2Proof.Machine
end

section
/-!
PROOFS. The octant read through the ends of claims, calibration runs and channels, and through a relock.
-/
namespace Sys2Proof.Machine
open Sys2Proof

/-! ## What BYPASS and the ends of runs leave of an octant -/

section
variable {α : Type} {f : Oct → α}

/-- The end of a claim reaches the use of the welt and its handover. -/
theorem State.weltRelease_reads (hf : ∀ o w h, f { o with welt := w, hand := h } = f o) (k j : Nat) (s : State) :
    f ((s.weltRelease k).oct j) = f (s.oct j) := by
  unfold State.weltRelease
  split
  · extract_lets s1
    have h1 : f (s1.oct j) = f (s.oct j) := State.modOct_reads (hf (s.oct k) .free none) j
    rw [State.oct_of_outside (s := s1) j (by simp), h1]
  · exact State.modOct_reads (hf (s.oct k) (s.oct k).welt none) j

theorem State.enterBypass_reads (hf : ∀ o w h, f { o with welt := w, hand := h } = f o) (cause : BypCause) (c j : Nat) (s : State) :
    f ((s.enterBypass cause c).oct j) = f (s.oct j) := by
  unfold State.enterBypass
  extract_lets x k safety s1 s2 s3 s4 s5
  have h2 : s2.octs = s.octs := State.octs_of_outside (by simp only [s2, s1, ite_outside]; simp)
  have h3 : f (s3.oct j) = f (s2.oct j) := by
    simp only [s3]
    split
    · split
      · split
        · exact (State.weltRelease_reads hf k j _).trans (congrArg f (State.oct_of_outside j (by simp)))
        · exact State.weltRelease_reads hf k j _
      · rfl
    · rfl
  have h5 : f (s5.oct j) = f (s.oct j) := by
    rw [State.oct_of_outside (s := s3) j (by simp [s5, s4]), h3, State.oct, h2, State.oct]
  rw [← h5]
  clear_value s5
  refine congrArg f (State.oct_of_outside j ?_)
  split <;> simp

theorem State.octBypass_reads (hf : ∀ o w h, f { o with welt := w, hand := h } = f o) (cause : BypCause) (k j : Nat) (s : State) :
    f ((s.octBypass cause k).oct j) = f (s.oct j) := by
  refine forAll_reads (r := fun s : State => f (s.oct j)) (fun c s => ?_) _ s
  split
  · exact State.enterBypass_reads hf cause c j s
  · rfl

theorem State.beginReturn_reads (hf : ∀ o w h, f { o with welt := w, hand := h } = f o) (k j : Nat) (s : State) :
    f ((s.beginReturn k).oct j) = f (s.oct j) := by
  unfold State.beginReturn
  split
  · next h _ =>
    extract_lets w v s1 s2
    have h1 : f (s1.oct j) = f (s.oct j) := State.modOct_reads (hf (s.oct k) (s.oct k).welt _) j
    rw [← h1]
    exact congrArg f (State.oct_of_outside (s := s1) j (by simp [s2]))
  · rfl

theorem State.handAbort_reads (hf : ∀ o w h, f { o with welt := w, hand := h } = f o) (k j : Nat) (s : State) :
    f ((s.handAbort k).oct j) = f (s.oct j) := by
  unfold State.handAbort
  split
  · split
    · exact (congrArg f (State.oct_of_outside (s := s.weltRelease k) j (by simp))).trans (State.weltRelease_reads hf k j s)
    · split
      · exact State.beginReturn_reads hf k j s
      · rfl
  · exact State.weltRelease_reads hf k j s

/-- A loop closed after a scan returns to its band and TUNE. -/
theorem State.scanDrop_reads (hf : ∀ o b t, f { o with loop := { o.loop with band := b, tune := t, opened := none } } = f o)
    (p : Option Hdr × Nat → Bool) (j : Nat) (s : State) : f ((s.scanDrop p).oct j) = f (s.oct j) := by
  refine (forAll_reads (r := fun s : State => f (s.oct j)) (fun k s => ?_) _ _).trans rfl
  refine State.modLoop_reads ?_ j
  split
  · exact hf _ _ _
  · rfl

theorem State.calEnd_reads (hf : ∀ o b t, f { o with loop := { o.loop with band := b, tune := t, opened := none } } = f o)
    (r : CalRun) (stale : Bool) (reason gen j : Nat) (s : State) : f ((s.calEnd r stale reason gen).oct j) = f (s.oct j) := by
  have hdrop : f ((s.calDrop r).oct j) = f (s.oct j) := by
    unfold State.calDrop
    extract_lets s1 s2 s3
    have h2 : f (s2.oct j) = f (s.oct j) := congrArg f (State.oct_of_outside j (by simp [s2, s1]))
    have h3 : f (s3.oct j) = f (s.oct j) := by
      rw [← h2]
      simp only [s3]
      split
      · exact State.scanDrop_reads hf _ j s2
      · rfl
    rw [← h3]
    split
    · exact congrArg f (State.oct_of_outside j (by simp))
    · rfl
  unfold State.calEnd
  extract_lets w s1 s2 s3 s4
  rw [← hdrop]
  have h2 : s2.octs = (s.calDrop r).octs := by
    simp only [s2]
    split
    · rfl
    · exact State.octs_of_outside (by simp [s1])
  have h3 : s3.octs = s2.octs := by
    simp only [s3]
    split <;> exact State.octs_of_outside (by simp)
  have h4 : s4.octs = s3.octs := State.octs_of_outside (by simp [s4])
  have hoct : s4.oct j = (s.calDrop r).oct j := by rw [State.oct, h4, h3, h2, State.oct]
  rw [← hoct]
  clear_value s4
  refine congrArg f (State.oct_of_outside j ?_)
  split <;> simp

/-- A run that is aborted reaches the use of its welt, and the loops that its scan has opened. -/
theorem State.calAbortIf_reads (hf : ∀ o w h, f { o with welt := w, hand := h } = f o)
    (hs : ∀ o b t, f { o with loop := { o.loop with band := b, tune := t, opened := none } } = f o) (reason : Nat) (p : CalRun → Bool) (j : Nat)
    (s : State) : f ((s.calAbortIf reason p).oct j) = f (s.oct j) := by
  refine forAll_reads (r := fun s : State => f (s.oct j)) (fun r s => ?_) _ s
  unfold State.calAbort
  extract_lets s1
  refine (State.calEnd_reads hs r false reason 0 j s1).trans ?_
  simp only [s1]
  split
  · exact State.handAbort_reads hf _ j s
  · rfl

end

/-! ## Plans and attempts -/

section
variable {α : Type} {f : Oct → α}

section
variable (hf : ∀ o st att b t h sc ev pl pt, f { o with loop := { o.loop with
    st := st, attempt := att, band := b, tune := t, hold := h, scan := sc, ev := ev, plan := pl, planT := pt } } = f o)
include hf

theorem State.scanTake_reads (k j : Nat) (l : List (Nat × Int)) {fail : State → State} (hfail : ∀ s, f ((fail s).oct j) = f (s.oct j)) (s : State) :
    f ((s.scanTake k l fail).oct j) = f (s.oct j) := by
  unfold State.scanTake
  split
  · exact hfail s
  · next b t r => exact State.modLoop_reads (hf (s.oct k) .scan _ b t false r _ _ _) j

theorem State.attempts_reads (k j : Nat) {fail : State → State} (hfail : ∀ s, f ((fail s).oct j) = f (s.oct j)) (s : State) :
    f ((s.attempts k fail).oct j) = f (s.oct j) := by
  unfold State.attempts
  split
  · exact State.scanTake_reads hf k j _ hfail s
  · next b t _ _ => exact State.modLoop_reads (hf (s.oct k) .acq 0 b t false _ _ _ _) j

theorem State.mlEv_reads (k b j : Nat) (s : State) : f ((s.mlEv k b).oct j) = f (s.oct j) :=
  State.modLoop_reads (hf (s.oct k) _ _ _ _ _ _ ((s.oct k).loop.ev.raise b) _ _) j

theorem State.replan_reads (k j : Nat) (s : State) : f ((s.replan k).oct j) = f (s.oct j) :=
  State.modLoop_reads (hf (s.oct k) _ _ _ _ _ _ _ (s.planFor k (s.oct k).loop.ni (s.oct k).loop.nf) (s.oct k).temp) j

theorem State.loopRetire_reads (k j : Nat) (s : State) : f ((s.loopRetire k).oct j) = f (s.oct j) :=
  (State.mlEv_reads hf k 12 j _).trans (State.modLoop_reads (hf (s.oct k) .retired _ _ _ _ [] _ _ _) j)

end

variable (hf : ∀ o st att b t h sc ni nf rt ev pl pt, f { o with loop := { o.loop with
    st := st, attempt := att, band := b, tune := t, hold := h, scan := sc, ni := ni, nf := nf, retune := rt, ev := ev, plan := pl, planT := pt } } = f o)
include hf

theorem State.noBand_reads (k j : Nat) (s : State) : f ((s.noBand k).oct j) = f (s.oct j) := by
  have hp : ∀ o st att b t h sc ev pl pt, f { o with loop := { o.loop with
      st := st, attempt := att, band := b, tune := t, hold := h, scan := sc, ev := ev, plan := pl, planT := pt } } = f o :=
    fun o st att b t h sc ev pl pt => hf o st att b t h sc o.loop.ni o.loop.nf o.loop.retune ev pl pt
  unfold State.noBand
  extract_lets l
  split
  · next r _ =>
    extract_lets s1 s2
    have h1 : f (s1.oct j) = f (s.oct j) :=
      (State.mlEv_reads hp k 13 j _).trans (State.modLoop_reads (hf (s.oct k) _ _ _ _ _ _ r.ni r.nf none _ _ _) j)
    have h2 : f (s2.oct j) = f (s1.oct j) := by
      simp only [s2]
      split <;> rfl
    rw [State.attempts_reads hp k j (State.loopRetire_reads hp k j), State.replan_reads hp, h2, h1]
  · exact State.loopRetire_reads hp k j s

/-- A relock reaches the progress of the plan, the feedback that a retune falls back to and the loop's events. -/
theorem State.relock_reads (k j : Nat) (s : State) : f ((s.relock k).oct j) = f (s.oct j) :=
  State.attempts_reads (fun o st att b t h sc ev pl pt => hf o st att b t h sc o.loop.ni o.loop.nf o.loop.retune ev pl pt) k j
    (State.noBand_reads hf k j) s

end

/-- Where relocking leads (R164 to R167). -/
def Loop.Relocks (l : Loop) : Prop := l.st = .acq ∨ l.st = .scan ∨ l.st = .retired

theorem State.scanTake_relocks (k : Nat) (l : List (Nat × Int)) {fail : State → State} (hfail : ∀ s, ((fail s).oct k).loop.Relocks) (s : State) :
    ((s.scanTake k l fail).oct k).loop.Relocks := by
  unfold State.scanTake
  split
  · exact hfail s
  · rw [State.modLoop_oct]; exact .inr (.inl rfl)

theorem State.attempts_relocks (k : Nat) {fail : State → State} (hfail : ∀ s, ((fail s).oct k).loop.Relocks) (s : State) :
    ((s.attempts k fail).oct k).loop.Relocks := by
  unfold State.attempts
  split
  · exact State.scanTake_relocks k _ hfail s
  · rw [State.modLoop_oct]; exact .inl rfl

theorem State.loopRetire_st (k : Nat) (s : State) : ((s.loopRetire k).oct k).loop.st = .retired := by
  change (((s.modLoop k fun l => { l with st := .retired, scan := [] }).mlEv k 12).oct k).loop.st = _
  simp [State.mlEv]

theorem State.noBand_relocks (k : Nat) (s : State) : ((s.noBand k).oct k).loop.Relocks := by
  unfold State.noBand
  extract_lets l
  split
  · exact State.attempts_relocks k (fun s => .inr (.inr (s.loopRetire_st k))) _
  · exact .inr (.inr (s.loopRetire_st k))

theorem State.relock_relocks (k : Nat) (s : State) : ((s.relock k).oct k).loop.Relocks :=
  State.attempts_relocks k (State.noBand_relocks k) s

/-! ## Locks -/

theorem State.takeoverBegin_reads {α : Type} {f : Oct → α} (hf : ∀ o w h, f { o with welt := w, hand := h } = f o) (c j : Nat) (s : State) :
    f ((s.takeoverBegin c).oct j) = f (s.oct j) := by
  unfold State.takeoverBegin
  extract_lets k x s1 s2
  have h1 : f (s1.oct j) = f (s.oct j) := State.modOct_reads (hf (s.oct k) (.takeover c) (s.oct k).hand) j
  rw [State.oct_of_outside (s := s1) j (by simp [s2]), h1]

/-- The takeover of a channel reaches the use of the welt. -/
theorem State.takeoverRetry_reads {α : Type} {f : Oct → α} (hf : ∀ o w h, f { o with welt := w, hand := h } = f o) (k j : Nat) (s : State) :
    f ((s.takeoverRetry k).oct j) = f (s.oct j) := by
  unfold State.takeoverRetry
  split
  · split
    · unfold State.takeoverClaim
      extract_lets
      split
      · exact State.takeoverBegin_reads hf _ j s
      · rfl
    · rfl
  · rfl

theorem State.recompose_reads {α : Type} {f : Oct → α} (hf : ∀ o c a, f { o with loop := { o.loop with comb := c, anew := a } } = f o) (k j : Nat)
    (s : State) : f ((s.recompose k).oct j) = f (s.oct j) := by
  unfold State.recompose
  extract_lets l
  split
  · rfl
  · have h : (forAll (chansOf k) (fun c s => s.composeSlots c) s).octs = s.octs := State.octs_of_outside (by simp)
    refine (State.modLoop_reads (hf _ _ _) j).trans ?_
    rw [State.oct, h, State.oct]

/-- What a lock declares (R161, R180). -/
def Oct.lockState (o : Oct) : LoopSt × Int × Bool × Bool × Bool := (o.loop.st, o.loop.tune, o.loop.byp, o.loop.hold, o.vclkRst)

/-- What a lock declares of a loop outlasts all that the lock has follow (R180 to R182, R185, R221). -/
theorem execMlLock_locks (k : OctIx) (cyc : List PdCyc) {s : State} (hst : (s.oct k).loop.st = .acq ∨ (s.oct k).loop.st = .scan)
    (ho : (s.oct k).loop.opened = none) (hon : s.domOn (pdQ (quadOf k)) = true)
    (hrun : s.mlPar k P.mlLkcnt ≤ runOf (pdWithin (s.mlInt k P.mlLkwin)) cyc) :
    ∃ t, execMlLock k cyc s = .next t ∧
      (t.oct k).lockState = (.locked, (cyc.getLast?.map (·.tune)).getD (s.oct k).loop.tune, false, false, false) := by
  have hexec : execMlLock k cyc s = execMlLock k cyc s := rfl
  conv at hexec => rhs; unfold execMlLock
  extract_lets l s1 s2 s3 s4 at hexec
  rw [if_pos ⟨hst, ho, hon, hrun⟩] at hexec
  refine ⟨_, hexec, ?_⟩
  have h1 : Oct.lockState (s1.oct k) = (.locked, (cyc.getLast?.map (·.tune)).getD l.tune, false, false, false) := by
    simp only [s1, State.modOct_oct, Oct.lockState]
  have h2 : Oct.lockState (s2.oct k) = Oct.lockState (s1.oct k) := by
    refine (State.modLoop_reads (r := Oct.lockState) rfl _).trans ?_
    exact (State.recompose_reads (f := Oct.lockState) (by intros; rfl) _ _ _).trans (State.modLoop_reads (r := Oct.lockState) rfl _)
  have h3 : Oct.lockState (s3.oct k) = Oct.lockState (s2.oct k) := congrArg Oct.lockState (State.oct_of_outside (s := s2) _ (by simp [s3]))
  have h4 : Oct.lockState (s4.oct k) = Oct.lockState (s3.oct k) := by
    simp only [s4]
    exact State.takeoverRetry_reads (f := Oct.lockState) (by intros; rfl) k k s3
  have h : Oct.lockState (s4.oct k) = (.locked, (cyc.getLast?.map (·.tune)).getD l.tune, false, false, false) := by rw [h4, h3, h2, h1]
  clear_value s4
  split
  · exact (State.modLoop_reads (r := Oct.lockState) rfl _).trans h
  · exact h

theorem State.mlCauses_tune (k : Nat) (u : Loop → Int) (tr : MlTrace) (s : State) :
    (s.modLoop k fun l => { l with tune := u l }).mlCauses k tr = s.mlCauses k tr := by
  unfold State.mlCauses
  rw [State.modLoop_oct]
  rfl

/-- What a loss declares (R162, R164, R180). -/
def Oct.lossState (o : Oct) : Nat × Nat × Bool × Bool := (o.loop.lossN, o.loop.cause, o.loop.byp, o.vclkRst)

theorem State.loopDown_lossState (k : Nat) (s : State) : ((s.loopDown k).oct k).lossState = ((s.oct k).loop.lossN, (s.oct k).loop.cause, true, true) :=
  (State.octBypass_reads (f := Oct.lossState) (by intros; rfl) .loop k k _).trans (by rw [State.modOct_oct]; rfl)

/-- The newest tuning word of a trace. -/
def newestTune (tr : MlTrace) (l : Loop) : Int := (tr.cyc.getLast?.map (·.tune)).getD l.tune

/-- The loop as a detector counts its loss. -/
def Loop.loss (cause : Nat) (l : Loop) : Loop :=
  { l with lossN := satAdd 16 1 l.lossN, cause := cause, run := cause ≠ 3 ∧ cause ≠ 5, attempt := 0, st := .acq }

theorem execMlLoss_eq (k : OctIx) (tr : MlTrace) {cause : Nat} {r : List Nat} {s : State} (hst : (s.oct k).loop.st = .locked)
    (ho : (s.oct k).loop.opened = none) (hc : s.mlCauses k tr = cause :: r) :
    execMlLoss k tr s = .next ((((((s.modLoop k fun l => { l with tune := newestTune tr l }).modLoop k (Loop.loss cause)).mlEv k 9).calAbortIf 0x0C
      (·.inOct k)).testAbortIf fun r => r.kind = 1 ∧ octOf r.unit = k).loopDown k |>.relock k) := by
  unfold execMlLoss
  extract_lets l s1
  have hc1 : s1.mlCauses k tr = cause :: r := (State.mlCauses_tune k (newestTune tr) tr s).trans hc
  rw [if_neg (by simp [l, hst, ho]), hc1]
  rfl

/-- A loss: the counts and the cause stay over what follows, the outputs are on bypass, and relock has begun (R162, R164, R178 to R180). -/
theorem execMlLoss_loses (k : OctIx) (tr : MlTrace) {cause : Nat} {r : List Nat} {s : State} (hst : (s.oct k).loop.st = .locked)
    (ho : (s.oct k).loop.opened = none) (hc : s.mlCauses k tr = cause :: r) :
    ∃ t, execMlLoss k tr s = .next t ∧ (t.oct k).lossState = (satAdd 16 1 (s.oct k).loop.lossN, cause, true, true) ∧ (t.oct k).loop.Relocks := by
  refine ⟨_, execMlLoss_eq k tr hst ho hc, ?_, State.relock_relocks k _⟩
  rw [State.relock_reads (f := Oct.lossState) (by intros; rfl), State.loopDown_lossState]
  generalize hs2 : (s.modLoop k fun l => { l with tune := newestTune tr l }).modLoop k (Loop.loss cause) = s2
  have h3 {α : Type} {f : Oct → α} (hf : ∀ o w h b t op ev, f { o with
      welt := w, hand := h, loop := { o.loop with band := b, tune := t, opened := op, ev := ev } } = f o) :
      f ((((s2.mlEv k 9).calAbortIf 0x0C (·.inOct k)).testAbortIf fun r => r.kind = 1 ∧ octOf r.unit = k).oct k) = f (s2.oct k) := by
    rw [State.oct_of_outside (s := (s2.mlEv k 9).calAbortIf 0x0C (·.inOct k)) k (by simp)]
    refine (State.calAbortIf_reads (fun o w h => hf o w h o.loop.band o.loop.tune o.loop.opened o.loop.ev)
      (fun o b t => hf o o.welt o.hand b t none o.loop.ev) 0x0C _ k _).trans (State.modLoop_reads ?_ k)
    exact hf _ _ _ _ _ _ _
  rw [h3 (f := (·.loop.lossN)) (by intros; rfl), h3 (f := (·.loop.cause)) (by intros; rfl), ← hs2, State.modLoop_oct, State.modLoop_oct]
  rfl

/-- Settles O12: what a lock and a loss declare outlasts what they have follow; the rest reads the guards off. -/
theorem masterLoopLocksAndLosses : Obligations.MasterLoopLocksAndLosses := by
  refine ⟨⟨?_, ?_⟩, ?_, ?_, ?_, ?_, ?_⟩
  · intro k cyc s hst ho hon hrun
    obtain ⟨t, ht, h⟩ := execMlLock_locks k cyc hst ho hon hrun
    obtain ⟨h1, h2, h3, h4, h5⟩ : (t.oct k).loop.st = _ ∧ (t.oct k).loop.tune = _ ∧ (t.oct k).loop.byp = _ ∧ (t.oct k).loop.hold = _ ∧ _ := by
      simpa only [Oct.lockState, Prod.mk.injEq] using h
    exact ⟨t, ht, h1, fun c hc => by rw [h2, hc]; rfl, h3, h4, h5⟩
  · intro k cyc s h
    refine if_neg fun ⟨hst, ho, hon, hrun⟩ => ?_
    obtain ⟨h1, h2⟩ | h | h | h := h
    · exact hst.elim h1 h2
    · exact h ho
    · exact Bool.false_ne_true (h.symm.trans hon)
    · exact Nat.not_lt.2 hrun h
  · intro k tr cause s hst ho hc
    obtain ⟨r, hr⟩ := List.head?_eq_some_iff.1 hc
    obtain ⟨t, ht, hl, hre⟩ := execMlLoss_loses k tr hst ho hr
    obtain ⟨h1, h2, h3, h4⟩ : (t.oct k).loop.lossN = _ ∧ (t.oct k).loop.cause = _ ∧ (t.oct k).loop.byp = _ ∧ _ := by
      simpa only [Oct.lossState, Prod.mk.injEq] using hl
    exact ⟨t, ht, h1, h2, h3, h4, hre⟩
  · intro k tr s hst ho hc
    have hexec : exec (.mlLoss k tr) s = execMlLoss k tr s := rfl
    unfold execMlLoss at hexec
    extract_lets l s1 at hexec
    rw [if_neg (by simp [l, hst, ho]), State.mlCauses_tune k (fun l => (tr.cyc.getLast?.map (·.tune)).getD l.tune), hc] at hexec
    exact hexec
  · intro k tr s h
    refine if_pos (h.imp_right fun h => ?_)
    cases e : (s.oct k).loop.opened with
    | none => exact absurd e h
    | some _ => rfl
  · intro k pre last s hst ho hw n hn hlt
    have hrun : 0 < runOf (fun c => !pdWithin (s.mlInt k P.mlLosswin) c) (pre ++ [last]).dropLast ∧
        runOf (fun c => !pdWithin (s.mlInt k P.mlLosswin) c) (pre ++ [last]).dropLast < s.mlPar k P.mlLosscnt := by
      rw [List.dropLast_concat]; exact ⟨hn, hlt⟩
    have hoct : (((s.modLoop k fun l => { l with excurN := satAdd 8 1 l.excurN }).fault kindLoop k 2).oct k).loop =
        { (s.oct k).loop with excurN := satAdd 8 1 (s.oct k).loop.excurN } := by
      rw [State.oct_of_outside (s := s.modLoop k fun l => { l with excurN := satAdd 8 1 l.excurN }) k (by simp), State.modLoop_oct]
    refine ⟨_, if_pos ⟨hst, ho, by simpa using hw, hrun⟩, congrArg Loop.excurN hoct, (congrArg Loop.st hoct).trans hst, ?_⟩
    exact State.fault_mem kindLoop k 2 (s.modLoop k fun l => { l with excurN := satAdd 8 1 l.excurN })
  · intro k pre last s h
    refine if_neg fun ⟨hst, ho, hw, hn, hlt⟩ => ?_
    rw [List.dropLast_concat] at hn hlt
    obtain h | h | h | h | h := h
    · exact h hst
    · exact h ho
    · simp [h] at hw
    · exact absurd h (Nat.ne_of_gt hn)
    · exact Nat.not_lt.2 h hlt

end Sys2Proof.Machine
end

section
/-!
PROOFS. Relock plans, SCAN, retirement, forced switches, retunes and changes of the Graticule (R146 to R187, R901).
-/
namespace Sys2Proof.Machine
open Sys2Proof

/-! ## Attempts and SCAN -/

/-- Two changes of a loop that agree on the loop as it stands are one. -/
theorem State.modLoop_congr {k : Nat} {f g : Loop → Loop} {s : State} (h : f (s.oct k).loop = g (s.oct k).loop) : s.modLoop k f = s.modLoop k g := by
  unfold State.modLoop State.modOct
  dsimp only
  rw [h]

theorem execMlAcqT_powered (k : OctIx) {s : State} (hon : s.domOn (pdQ (quadOf k)) = true) :
    exec (.mlAcqT k) s = match (s.oct k).loop.st with
      | .acq =>
        if (s.oct k).loop.hold then .next (s.relock k) else
        match (s.oct k).loop.plan.drop ((s.oct k).loop.attempt + 1) with
        | (b, t) :: _ => .next (s.modLoop k fun l => { l with attempt := l.attempt + 1, band := b, tune := t })
        | [] => .next (s.scanTake k (s.scanList k) (·.noBand k))
      | .scan => .next (s.scanTake k (s.oct k).loop.scan (·.noBand k))
      | _ => .next s := if_neg (by simp [hon])

theorem execMlAcqT_scan (k : OctIx) {s : State} (hon : s.domOn (pdQ (quadOf k)) = true) (hst : (s.oct k).loop.st = .scan) :
    exec (.mlAcqT k) s = .next (s.scanTake k (s.oct k).loop.scan (·.noBand k)) := by
  rw [execMlAcqT_powered k hon, hst]

theorem State.scanTake_cons (k b : Nat) (u : Int) (r : List (Nat × Int)) (fail : State → State) (s : State) :
    s.scanTake k ((b, u) :: r) fail = s.modLoop k fun l => { l with st := .scan, band := b, tune := u, scan := r, hold := false } := rfl

theorem State.attempts_cons {k b : Nat} {u : Int} {r : List (Nat × Int)} {s : State} (h : (s.oct k).loop.plan = (b, u) :: r) (fail : State → State) :
    s.attempts k fail = s.modLoop k fun l => { l with st := .acq, attempt := 0, band := b, tune := u, hold := false } := by
  unfold State.attempts
  rw [h]

theorem State.noBand_retire {k : Nat} {s : State} (h : (s.oct k).loop.retune = none) : s.noBand k = s.loopRetire k := by
  unfold State.noBand
  dsimp only
  rw [h]

/-- The retirement of a loop is the journal's last store (R167). -/
theorem State.loopRetire_store (k : Nat) (s : State) : ∃ r, r.ch = .retire kindLoop k 0x20 ∧ (s.loopRetire k).store.q = s.store.q ++ [r] :=
  ⟨_, rfl, rfl⟩

/-- What an attempt adds to the journal's queue is added behind what stands in it. -/
theorem State.attempts_store {k : Nat} {fail : State → State} (hfail : ∀ s x, x ∈ s.store.q → x ∈ (fail s).store.q) {s : State} {x : StoreReq}
    (h : x ∈ s.store.q) : x ∈ (s.attempts k fail).store.q := by
  unfold State.attempts State.scanTake
  split
  · split
    · exact hfail _ _ h
    · exact h
  · exact h

theorem State.noBand_restores {k : Nat} {r : Retune} {s : State} (h : (s.oct k).loop.retune = some r)
    (hne : (s.oct k).loop.ni ≠ r.ni ∨ (s.oct k).loop.nf ≠ r.nf) :
    ((s.noBand k).oct k).loop.ni = r.ni ∧ ((s.noBand k).oct k).loop.nf = r.nf ∧ ((s.noBand k).oct k).loop.retune = none ∧
      ∃ x ∈ (s.noBand k).store.q, x.ch = .restore k r.ni r.nf ∧ x.h = some r.h := by
  let s1 := (s.modLoop k fun l => { l with ni := r.ni, nf := r.nf, retune := none }).commit (some r.h) 0x0340 (.restore k r.ni r.nf)
  have hs : s.noBand k = ((s1.mlEv k 13).replan k).attempts k (·.loopRetire k) := by
    unfold State.noBand
    dsimp only
    rw [h]
    dsimp only
    rw [if_neg (by omega)]
    rfl
  have hreads {α : Type} {f : Oct → α} (hf : ∀ o st att b t h sc ev pl pt, f { o with loop := { o.loop with
      st := st, attempt := att, band := b, tune := t, hold := h, scan := sc, ev := ev, plan := pl, planT := pt } } = f o) :
      f ((s.noBand k).oct k) = f (s1.oct k) := by
    rw [hs, State.attempts_reads hf k k (State.loopRetire_reads hf k k), State.replan_reads hf, State.mlEv_reads hf]
  have hoct : (s1.oct k).loop = { (s.oct k).loop with ni := r.ni, nf := r.nf, retune := none } := 
    congrArg Oct.loop (State.modLoop_oct k (fun l => { l with ni := r.ni, nf := r.nf, retune := none }) s)
  refine ⟨(hreads (f := (·.loop.ni)) (by intros; rfl)).trans (congrArg Loop.ni hoct), (hreads (f := (·.loop.nf)) (by intros; rfl)).trans
    (congrArg Loop.nf hoct), (hreads (f := (·.loop.retune)) (by intros; rfl)).trans (congrArg Loop.retune hoct), ?_⟩
  refine ⟨⟨some r.h, 0x0340, .restore k r.ni r.nf, 0, [], s.now / secU, s.store.gen⟩, ?_, rfl, rfl⟩
  rw [hs]
  refine State.attempts_store (fun s x h => List.mem_append_left _ h) ?_
  exact List.mem_append_right _ (List.mem_singleton_self _)

theorem State.replan_oct (k : Nat) (s : State) : (s.replan k).oct k = { s.oct k with loop := { (s.oct k).loop with
    plan := s.planFor k (s.oct k).loop.ni (s.oct k).loop.nf, planT := (s.oct k).temp } } := State.modLoop_oct ..

theorem State.planFor_replan (k ni nf : Nat) (s : State) : (s.replan k).planFor k ni nf = s.planFor k ni nf := by
  unfold State.planFor
  rw [State.replan_oct]
  rfl

/-! ## Forced switches -/

@[simp] theorem State.gateOn_chan (c : Nat) (y : OutSrc) (s : State) : (s.gateOn c y).chan c = { s.chan c with out := y, sw := none } := by
  unfold State.gateOn
  extract_lets s1
  have h1 : s1.chan c = { s.chan c with out := y, sw := none } := State.modChan_chan ..
  rw [← h1]
  split <;> rfl

theorem State.gateOff_off {y : OutSrc} (h : y = .none ∨ y = .stop) (c : Nat) (s : State) : s.gateOff c y = s.gateOn c y := if_pos h

theorem State.gateOff_waits {y : OutSrc} (h1 : y ≠ .stop) (h2 : y ≠ .none) (c : Nat) (s : State) :
    (s.gateOff c y).chan c = { s.chan c with out := .stop, sw := some (y, true) } := by
  unfold State.gateOff
  rw [if_neg (by simp [h1, h2]), State.modChan_chan]

@[simp] theorem State.forced_chan (k c : Nat) (s : State) : (s.forced k).chan c = s.chan c := rfl

theorem State.forced_forcedN (k : Nat) (s : State) : ((s.forced k).oct k).loop.forcedN = satAdd 8 1 (s.oct k).loop.forcedN := by
  simp [State.forced, State.mlEv]

/-- A forced switch counts in the octant of its channel. -/
theorem State.forced_counts {s t : State} (h : t.octs = s.octs) (k : Nat) : ((t.forced k).oct k).loop.forcedN = satAdd 8 1 (s.oct k).loop.forcedN := by
  rw [State.forced_forcedN, State.oct, h, State.oct]

theorem State.hasEdges_of {s t : State} (ho : t.octs = s.octs) (hp : t.pwr = s.pwr) (c : Nat) (y : OutSrc) : t.hasEdges c y = s.hasEdges c y := by
  unfold State.hasEdges State.oct
  rw [ho, hp]

/-- Settles O13: the branches of the attempt that runs out of time, of a sensor reading, a restore and a switch. -/
theorem loopPlansAndForcedSwitches : Obligations.LoopPlansAndForcedSwitches := by
  refine ⟨fun k s hon => ⟨?_, ?_, ?_, ?_, ?_, ?_⟩, ⟨?_, ?_, ?_, ?_, ?_⟩, ?_⟩
  · intro b u r hst hh hp
    rw [execMlAcqT_powered k hon, hst, hp]
    simp only [hh, Bool.false_eq_true, if_false]
  · intro b u r hst hh hp hs
    rw [execMlAcqT_powered k hon, hst, hp, hs]
    simp only [hh, Bool.false_eq_true, if_false]
    rfl
  · intro b u r hst hh hp
    rw [execMlAcqT_powered k hon, hst]
    simp only [hh, if_true]
    rw [State.relock, State.attempts_cons hp]
    exact congrArg _ (State.modLoop_congr (by rw [hst]))
  · intro b u r hst hs
    rw [execMlAcqT_scan k hon hst, hs, State.scanTake_cons]
    exact congrArg _ (State.modLoop_congr (by rw [hst]))
  · intro hst hs hr
    refine ⟨_, execMlAcqT_scan k hon hst, ?_⟩
    rw [hs]
    change ((s.noBand k).oct k).loop.st = _ ∧ ∃ r, _ ∧ (s.noBand k).store.q = _
    rw [State.noBand_retire hr]
    exact ⟨s.loopRetire_st k, s.loopRetire_store k⟩
  · intro r hst hs hr hne
    refine ⟨_, execMlAcqT_scan k hon hst, ?_⟩
    rw [hs]
    exact State.noBand_restores hr hne
  · intro k temp s hon hd hst
    let s1 := s.modOct k fun o => { o with temp := temp }
    have h1 : s1.oct k = { s.oct k with temp := temp } := State.modOct_oct ..
    have hexec : exec (.relockPlan k temp) s = .next (s1.replan k) := by
      change Host.Outcome.next (s.setTemp k temp) = _
      rw [State.setTemp, if_neg (by simp [hon])]
      refine congrArg Host.Outcome.next (if_pos ?_)
      rw [State.modOct_oct]
      exact ⟨hd, hst⟩
    refine ⟨_, hexec, ?_⟩
    dsimp only
    rw [State.planFor_replan, State.replan_oct, h1]
    exact ⟨rfl, rfl, rfl, List.length_take_le ..⟩
  · intro k temp s hon h
    change Host.Outcome.next (s.setTemp k temp) = _
    rw [State.setTemp, if_neg (by simp [hon])]
    refine congrArg Host.Outcome.next (if_neg ?_)
    rw [State.modOct_oct]
    exact fun ⟨hd, hst⟩ => h.elim (fun h => Nat.not_lt.2 h hd) hst
  · intro k temp s hon
    exact congrArg Host.Outcome.next (if_pos (by simp [hon]))
  · intro k n s hr hq hn
    refine ⟨_, if_pos hr, ?_⟩
    rw [State.restoreFirst, if_neg (by simp [hq])]
    refine ⟨by simp [Only], ⟨none, 0, .restore k (s.oct k).loop.ni (s.oct k).loop.nf, 0, [], s.now / secU, s.store.gen⟩, rfl, rfl, ?_⟩
    obtain ⟨hbusy, rfl⟩ | ⟨hp, hstage, hatt, rfl⟩ := hn
    · simp only [State.modStore_store, if_pos hbusy]
    · simp only [State.modStore_store, hp, hstage, hatt]
      rfl
  · intro k s h
    change execRetuneRestoreRetry k s = _
    unfold execRetuneRestoreRetry State.restoreFirst
    split
    · next hr => rw [if_pos (h.resolve_left (by simp [hr]))]
    · rfl
  · intro count
    have hoff (c : Ch) (y : OutSrc) (s : State) : (s.gateOff c y).octs = s.octs := State.octs_of_outside (by simp)
    have hon (c : Ch) (y : OutSrc) (s : State) : (s.gateOn c y).octs = s.octs := State.octs_of_outside (by simp)
    have hforced (c : Ch) (s : State) : exec (.forcedSwitch c) s = match (s.chan c).sw with
        | some (y, false) => if s.hasEdges c y then .next ((s.gateOn c y).forced (octOf c)) else .next s
        | _ => .next s := rfl
    have hno (c : Ch) (e : Bool) (s : State) : exec (.switchNoEdge c e) s = match (s.chan c).sw with
        | some (y, false) =>
          .next ((if e ∧ (s.gateOff c y).hasEdges c y then (s.gateOff c y).gateOn c y else s.gateOff c y).forced (octOf c))
        | _ => .next s := rfl
    have hedges (c : Ch) (y : OutSrc) (s : State) : (s.gateOff c y).hasEdges c y = s.hasEdges c y :=
      State.hasEdges_of (hoff c y s) (State.pwr_of_outside (by simp)) c y
    refine ⟨?_, ?_, ?_, ?_, ?_, ?_⟩
    · intro c y s hsw he
      rw [Completes, hforced, hsw]
      refine ⟨_, if_pos he, ?_⟩
      simp only [State.forced_chan, State.gateOn_chan]
      exact ⟨trivial, trivial, State.forced_counts (hon c y s) _⟩
    · intro c y s hsw he
      rw [hforced, hsw]
      exact if_neg (by simp [he])
    · intro c y e s hsw h1 h2 he
      rw [Completes, hno, hsw]
      refine ⟨_, congrArg (fun u : State => Host.Outcome.next (u.forced (octOf c))) (if_neg ?_), ?_⟩
      · rw [hedges]
        obtain h | h := he <;> simp [h]
      · simp only [State.forced_chan, State.gateOff_waits h1 h2]
        exact ⟨trivial, trivial, State.forced_counts (hoff c y s) _⟩
    · intro c y s hsw he
      rw [Completes, hno, hsw]
      refine ⟨_, congrArg (fun u : State => Host.Outcome.next (u.forced (octOf c))) (if_pos ⟨rfl, (hedges c y s).trans he⟩), ?_⟩
      simp only [State.forced_chan, State.gateOn_chan]
      exact ⟨trivial, trivial, State.forced_counts ((hon c y _).trans (hoff c y s)) _⟩
    · intro c y s hsw hy
      rw [Completes, hno, hsw]
      refine ⟨_, congrArg (fun u : State => Host.Outcome.next (u.forced (octOf c))) (if_neg (by simp)), ?_⟩
      rw [State.gateOff_off hy.symm]
      simp only [State.forced_chan, State.gateOn_chan]
      exact ⟨trivial, trivial, State.forced_counts (hon c y s) _⟩
    · intro c e s h
      rw [hforced, hno]
      obtain h | ⟨y, h⟩ := h
      · rw [h]; exact ⟨rfl, rfl⟩
      · rw [h]; exact ⟨rfl, rfl⟩

/-! ## Retunes -/

/-- Of the loop, going down reaches what holds its outputs on bypass (R176, R180). -/
theorem State.loopDown_loop (k : Nat) (s : State) : ((s.loopDown k).oct k).loop = { (s.oct k).loop with byp := true } ∧
    ((s.loopDown k).oct k).vclkRst = true := by
  have h {α : Type} {f : Oct → α} (hf : ∀ o w h, f { o with welt := w, hand := h } = f o) :
      f ((s.loopDown k).oct k) = f { s.oct k with vclkRst := true, loop := { (s.oct k).loop with byp := true } } :=
    (State.octBypass_reads hf .loop k k _).trans (congrArg f (State.modOct_oct ..))
  exact ⟨h (f := Oct.loop) (by intros; rfl), h (f := Oct.vclkRst) (by intros; rfl)⟩

/-- A retune to the feedback in force attempts the first band of the plan that stands (R187). -/
theorem State.retuneBegin_same {h : Hdr} {k ni nf b : Nat} {u : Int} {r : List (Nat × Int)} {s : State} (hni : (s.oct k).loop.ni = ni)
    (hnf : (s.oct k).loop.nf = nf) (hp : (s.oct k).loop.plan = (b, u) :: r) :
    ((s.retuneBegin h k ni nf).oct k).loop.st = .acq ∧ ((s.retuneBegin h k ni nf).oct k).loop.band = b ∧
      ((s.retuneBegin h k ni nf).oct k).loop.tune = u ∧ ((s.retuneBegin h k ni nf).oct k).loop.byp = true ∧
      ((s.retuneBegin h k ni nf).oct k).vclkRst = true ∧ ((s.retuneBegin h k ni nf).oct k).loop.retune = some ⟨h, ni, nf⟩ := by
  subst hni hnf
  obtain ⟨hl, hv⟩ := s.loopDown_loop k
  unfold State.retuneBegin
  extract_lets l s1 s2
  rw [if_pos ⟨rfl, rfl⟩]
  have h2 : s2.oct k = _ := State.modLoop_oct ..
  have hp2 : (s2.oct k).loop.plan = (b, u) :: r := by rw [h2, hl]; exact hp
  rw [State.relock, State.attempts_cons hp2, State.modLoop_oct, h2]
  have hb : (s1.oct k).loop.byp = true := by simp only [s1, hl]
  have hv1 : (s1.oct k).vclkRst = true := by simp only [s1, hv]
  dsimp only
  exact ⟨rfl, rfl, rfl, hb, hv1, rfl⟩

/-- Settles O14: the checks in their order; a retune to another feedback is a store, one to the feedback in force begins. -/
theorem retuneChecksThenStores : Obligations.RetuneChecksThenStores := by
  refine ⟨?_, ?_, ?_, ?_⟩
  · intro h k ni nf s g h1 h2 h3
    change Host.Outcome.next _ = _
    have he : (s.taken h).retuneErr k ni nf.toNat = some (.fail .mode) := if_pos ⟨h1, h2, h3⟩
    rw [State.viaDoor_taken g, State.opMlRetune, he]
  · intro h k ni nf s g hm hr
    change Host.Outcome.next _ = _
    have he : (s.taken h).retuneErr k ni nf.toNat = some (.fail .range) := by
      unfold State.retuneErr
      extract_lets l m
      rw [if_neg fun ⟨h1, h2, h3⟩ => hm.elim h1 fun hm => hm.elim h2 h3, if_pos (by omega)]
    rw [State.viaDoor_taken g, State.opMlRetune, he]
  · intro h k ni nf s g he hne
    refine ⟨_, rfl, ?_⟩
    have he' : (s.taken h).retuneErr k ni nf.toNat = none := he
    rw [State.viaDoor_taken g, State.opMlRetune, he']
    dsimp only
    rw [if_neg (by simp only [State.taken_oct]; omega)]
    exact State.commit_queued ..
  · intro h k ni nf b u r s g he hni hnf hp
    refine ⟨_, rfl, ?_⟩
    have he' : (s.taken h).retuneErr k ni nf.toNat = none := he
    rw [State.viaDoor_taken g, State.opMlRetune, he']
    dsimp only
    rw [if_pos ⟨hni, hnf⟩]
    exact State.retuneBegin_same (s := s.taken h) hni hnf hp

/-! ## The Graticule -/

/-- Settles O15: the branches of the three operations; a scan that ends leaves the entries to its commit. -/
theorem graticuleChangesAreStored : Obligations.GraticuleChangesAreStored := by
  unfold Obligations.GraticuleChangesAreStored
  intro edit fits
  refine ⟨?_, ?_, ?_, ?_, ?_, ?_, ?_⟩
  · intro h mask s g hm
    refine ⟨_, rfl, ?_⟩
    rw [State.viaDoor_taken g, State.opGratScan, if_pos (by simpa using hm)]
    have hg : ((s.taken h).scanOpen (some h) mask.toNat).grat = { s.grat with scans := s.grat.scans ++ [(some h, mask.toNat)] } :=
      State.grat_of_outside (s := (s.taken h).modGrat fun g => { g with scans := g.scans ++ [(some h, mask.toNat)] }) (by simp [State.scanOpen])
    dsimp only
    rw [hg]
    exact ⟨rfl, rfl⟩
  · intro h mask s g hm
    change Host.Outcome.next _ = _
    rw [State.viaDoor_taken g, State.opGratScan, if_neg (by simpa using hm)]
  · intro rs o mask q s hs hc
    have hn : ¬ ((scanBands mask).any fun e => (bandCount rs e.1 e.2).isNone) = true := fun h => by
      obtain ⟨e, he, hnone⟩ := List.any_eq_true.1 h
      have := List.all_eq_true.1 hc e he
      rw [Option.isNone_iff_eq_none] at hnone
      simp [hnone] at this
    have hexec : exec (.bandScanDone rs) s = execBandScanDone rs s := rfl
    unfold execBandScanDone at hexec
    rw [hs] at hexec
    dsimp only at hexec
    rw [if_neg hn] at hexec
    refine ⟨_, hexec, ?_⟩
    have hg : ((s.modGrat fun g => { g with scans := q }).scanDrop fun _ => false).grat = { s.grat with scans := q } := by
      refine (State.grat_of_outside (s := (s.modGrat fun g => { g with scans := q }).modGrat fun g => { g with scans := g.scans.filter fun _ => true })
        (by simp [State.scanDrop])).trans ?_
      simp
    have hq : ((s.modGrat fun g => { g with scans := q }).scanDrop fun _ => false).store = s.store := State.store_of_outside (by simp)
    generalize ((s.modGrat fun g => { g with scans := q }).scanDrop fun _ => false) = u at *
    refine ⟨congrArg GratS.scans hg, (congrArg GratS.ent hg).trans rfl,
      ⟨o, 0x0505, .grat (s.scanResult mask rs).1, (s.scanResult mask rs).2.length, pack16 (s.scanResult mask rs).2 15, u.now / secU, u.store.gen⟩,
      rfl, rfl, ?_⟩
    rw [← hq]
    rfl
  · intro rs o mask q s hs hc
    change execBandScanDone rs s = _
    unfold execBandScanDone
    rw [hs]
    refine if_pos ?_
    rw [List.all_eq_false] at hc
    obtain ⟨e, he, hn⟩ := hc
    exact List.any_eq_true.2 ⟨e, he, by simpa [Option.isNone_iff_eq_none] using hn⟩
  · intro h k band point w s g hr hf
    refine ⟨_, rfl, ?_⟩
    rw [State.viaDoor_taken g, State.opGratEdit]
    rw [if_neg (not_not_intro hr)]
    refine (if_pos (show fits k band point w (s.taken h) from hf)).symm ▸ ?_
    exact State.commit_queued ..
  · intro h k band point w s g hr
    change Host.Outcome.next _ = _
    rw [State.viaDoor_taken g, State.opGratEdit]
    rw [if_pos hr]
  · intro h k band point w s g hr hf
    change Host.Outcome.next _ = _
    rw [State.viaDoor_taken g, State.opGratEdit]
    rw [if_neg (not_not_intro hr)]
    exact congrArg Host.Outcome.next (if_neg (show ¬ fits k band point w (s.taken h) from hf))

end Sys2Proof.Machine
end

section
/-!
PROOFS. The divider side: corrections, slot loads, ramps, tables, pulses and hops (R194 to R251, R400, R456, R529).
-/
namespace Sys2Proof.Machine
open Sys2Proof

/-! ## Reading dividers -/

/-- The divider of each channel after a change of one. -/
theorem State.modDiv_div (c i : Nat) (f : Div → Div) (s : State) :
    ((s.modDiv c f).chan i).div = if i = c then f (s.chan c).div else (s.chan i).div := by
  split
  · next h => rw [h, State.modDiv_chan]
  · next h => exact congrArg Chan.div (State.modChan_chan_ne _ _ _ _ h)

/-- What of a channel is not its divider stays over a change of a divider. -/
theorem State.modDiv_reads {α : Type} {r : Chan → α} (hr : ∀ x d, r { x with div := d } = r x) (c i : Nat) (f : Div → Div) (s : State) :
    r ((s.modDiv c f).chan i) = r (s.chan i) := State.modChan_reads (hr _ _) i

@[simp] theorem State.modDiv_st (c i : Nat) (f : Div → Div) (s : State) : ((s.modDiv c f).chan i).st = (s.chan i).st :=
  State.modDiv_reads (r := Chan.st) (by intros; rfl) c i f s

@[simp] theorem State.count_div (c n i : Nat) (s : State) : ((s.count c n).chan i).div = (s.chan i).div := State.modChan_reads (r := Chan.div) rfl i
@[simp] theorem State.modCnt_div (c i : Nat) (f : ChCnt → ChCnt) (s : State) : ((s.modCnt c f).chan i).div = (s.chan i).div :=
  State.modChan_reads (r := Chan.div) rfl i

@[simp] theorem State.hopReport_chan (k i : Nat) (r : HopRep) (s : State) : (s.hopReport k r).chan i = s.chan i :=
  State.chan_of_outside i (by simp)

/-- Who a channel's divider is, from the channels' states alone. -/
theorem State.divOf_of {s t : State} {c : Nat} (h : (t.chan c).st = (s.chan c).st) : t.divOf c = s.divOf c := by
  unfold State.divOf
  rw [h]

@[simp] theorem State.modDiv_divOf (c i : Nat) (f : Div → Div) (s : State) : (s.modDiv c f).divOf i = s.divOf i := State.divOf_of (by simp)

/-- Whom a divider serves, from the welts' uses alone. -/
theorem State.userOf_of {s t : State} {i : Nat} (h : ∀ k, (t.oct k).welt = (s.oct k).welt) : t.userOf i = s.userOf i := by
  unfold State.userOf
  rw [h]

/-- A parameter in force, from the uses of the welts and the parameters alone. -/
theorem State.up_of {s t : State} (hw : ∀ k, (t.oct k).welt = (s.oct k).welt) (hp : t.par = s.par) (i id : Nat) : t.up i id = s.up i id := by
  unfold State.up State.cp
  rw [State.userOf_of hw, hp]

/-- A hop report reaches the octant's hop queue. -/
theorem State.hopReport_reads {α : Type} {f : Oct → α} (hf : ∀ o q x, f { o with hopQ := q, xHop := x } = f o) (k j : Nat) (r : HopRep) (s : State) :
    f ((s.hopReport k r).oct j) = f (s.oct j) := by
  unfold State.hopReport
  dsimp only
  split
  · exact State.modOct_reads (hf (s.oct k) ((s.oct k).hopQ ++ [r]) (s.oct k).xHop) j
  · exact State.modOct_reads (hf (s.oct k) (s.oct k).hopQ _) j

/-- A hop queue that takes reports has the new one last. -/
theorem State.hopReport_hopQ {k : Nat} {s u : State} (ho : u.octs = s.octs) (hp : (s.oct k).xHop.present = true)
    (hfl : (s.oct k).xHop.full = false) (r : HopRep) : ((u.hopReport k r).oct k).hopQ = (s.oct k).hopQ ++ [r] := by
  have e : u.oct k = s.oct k := by rw [State.oct, ho, State.oct]
  unfold State.hopReport
  dsimp only
  rw [e, if_pos (by simp [hp, hfl]), State.modOct_oct, e]

theorem State.hopReport_up (k i id : Nat) (r : HopRep) (s : State) : (s.hopReport k r).up i id = s.up i id :=
  State.up_of (fun j => State.hopReport_reads (f := Oct.welt) (by intros; rfl) k j r s) (State.par_of_outside (by simp)) i id

/-! ## Corrections -/

/-- DELTA is limited to what ratio and width admit (R195, R198). -/
theorem limitDelta_bounds {nom : Nat} (delta : Int) (h : (nom : Int) ≤ ratioMax) :
    ratioMin ≤ nom + limitDelta ratioMin nom delta ∧ nom + limitDelta ratioMin nom delta ≤ ratioMax ∧
    -(2 ^ 75) ≤ limitDelta ratioMin nom delta ∧ limitDelta ratioMin nom delta < 2 ^ 75 := by
  simp only [ratioMax, ratioMin, limitDelta, delta76] at *
  omega

theorem execCorrectionRecord_corr {k : OctIx} {lane : EngIx} (bnd : Nat) {same : Bool} {c slot : Nat} {delta : Int} {q : List (Nat × FcwRec)}
    {s : State} (hv : (s.oct k).vclkRst = false) (hl : takeLane lane (s.oct k).fcw = some (.corr c slot delta, q))
    (hb : laneBehind lane c (s.oct k).fcw = false) (ht : same = false ∨ (s.chan (s.divOf (s.userOf c))).div.trig = []) :
    execCorrectionRecord k lane s bnd same =
      let u := s.modOct k fun o => { o with fcw := q }
      if slot ≠ (s.chan c).div.act then .next (u.modCnt c fun n => { n with stale := satAdd 32 1 n.stale }) else
      let v := limitDelta ratioMin (s.chan c).div.nom delta
      let u := u.modDiv c fun d => { d.runTo bnd with delta := v, clamp := d.clamp || v ≠ delta }
      .next (if v = delta then u else u.modCnt c fun n => { n with clamp := satAdd 32 1 n.clamp }) := by
  unfold execCorrectionRecord
  rw [if_neg (by simp [hv]), hl]
  dsimp only
  have hu : ((s.modOct k fun o => { o with fcw := q }).userOf c) = s.userOf c := State.userOf_of fun j => State.modOct_reads (r := Oct.welt) rfl j
  have hs : (if same = true then (s.modOct k fun o => { o with fcw := q }).hopsApply
      ((s.modOct k fun o => { o with fcw := q }).userOf c) bnd else s.modOct k fun o => { o with fcw := q }) =
      s.modOct k fun o => { o with fcw := q } := by
    obtain h | h := ht
    · rw [if_neg (by simp [h])]
    · have hn : ((s.modOct k fun o => { o with fcw := q }).chan ((s.modOct k fun o => { o with fcw := q }).divOf (s.userOf c))).div.trig = [] := h
      split
      · rw [hu, State.hopsApply, hn]; rfl
      · rfl
  rw [if_neg (by simp [hb]), hs]
  rfl

/-- Settles O16: the bounds of `limitDelta`, and the branches of a correction that is taken. -/
theorem correctionBecomesDelta : Obligations.CorrectionBecomesDelta := by
  refine ⟨fun nom delta h => limitDelta_bounds delta h, fun k lane bnd same c slot delta q s hv hl hb ht => ⟨fun ha => ?_, fun ha => ?_⟩, ?_⟩
  · have hexec : exec (.correctionRecord k lane bnd same) s = _ := execCorrectionRecord_corr bnd hv hl hb ht
    rw [if_neg (not_not_intro ha)] at hexec
    generalize hu : s.modOct k (fun o => { o with fcw := q }) = u at hexec
    generalize hlim : limitDelta ratioMin (s.chan c).div.nom delta = v at *
    have hf : (u.oct k).fcw = q := by rw [← hu, State.modOct_oct]
    have hc : u.chan c = s.chan c := by rw [← hu]; rfl
    refine ⟨_, hexec, ?_⟩
    split
    · next he =>
      refine ⟨hf, ?_, ?_⟩
      · rw [State.modDiv_chan, hc]
      · rw [State.modDiv_chan, hc]
    · next he =>
      refine ⟨hf, ?_, ?_⟩
      · rw [State.modCnt_div, State.modDiv_chan, hc]
      · rw [State.modCnt_chan, State.modDiv_chan, hc]
  · have hexec : exec (.correctionRecord k lane bnd same) s = _ := execCorrectionRecord_corr bnd hv hl hb ht
    rw [if_pos ha] at hexec
    refine ⟨_, hexec, ?_, ?_, ?_⟩
    · change ((s.modOct k fun o => { o with fcw := q }).oct k).fcw = q
      rw [State.modOct_oct]
    · rw [State.modCnt_div]; rfl
    · rw [State.modCnt_chan]; rfl
  · intro k lane bnd same c slot delta q s hl h
    change execCorrectionRecord k lane s bnd same = _
    unfold execCorrectionRecord
    by_cases hv : (s.oct k).vclkRst = true
    · rw [if_pos hv]
    · rw [if_neg hv, hl]
      exact if_pos (h.resolve_right hv)

/-! ## Slots and ramps -/

@[simp] theorem State.keepDelta_divs (w i : Nat) (s : State) : ∃ v cl, ((s.keepDelta w).chan i).div =
    if i = w then { (s.chan w).div with delta := v, clamp := cl } else (s.chan i).div := by
  exact ⟨_, _, State.modDiv_div w i _ s⟩

/-- A change of the nominal part: the divider's new contents and ramp, but for the limit on DELTA; every other divider stays (R201, R230). -/
theorem State.changeNom_divs (w c n b i : Nat) (f : Div → Div) (s : State) :
    ∃ v cl, ((s.changeNom w c n b f).chan i).div = if i = w then { f ((s.chan w).div.runTo b) with
        ramp := rampOf (((s.chan w).div.runTo b).nomBefore ((s.chan w).div.runTo b).bnd) ((f ((s.chan w).div.runTo b)).slot n).nom (s.up c P.hopRamp)
          ((s.chan w).div.runTo b).bnd
        delta := v, clamp := cl } else (s.chan i).div := by
  unfold State.changeNom
  extract_lets k d s1 d' r
  have h1 (j : Nat) : s1.chan j = s.chan j := by
    simp only [s1]
    split
    · exact State.hopReport_chan ..
    · rfl
  have hup : s1.up c P.hopRamp = s.up c P.hopRamp := by
    simp only [s1]
    split
    · exact State.hopReport_up ..
    · rfl
  obtain ⟨v, cl, h⟩ := State.keepDelta_divs w i (s1.modDiv w fun _ => { d' with ramp := r })
  refine ⟨v, cl, ?_⟩
  rw [State.hopReport_chan, h, State.modDiv_div, State.modDiv_div, h1, if_pos rfl, ← hup]
  split
  · rfl
  · rw [h1]

theorem State.changeNom_reads {α : Type} {g : Oct → α} (hg : ∀ o q x, g { o with hopQ := q, xHop := x } = g o) (w c n b j : Nat) (f : Div → Div)
    (s : State) : g ((s.changeNom w c n b f).oct j) = g (s.oct j) := by
  unfold State.changeNom
  extract_lets k d s1 d' r
  refine (State.hopReport_reads hg _ j _ _).trans ?_
  have h1 : g (s1.oct j) = g (s.oct j) := by
    simp only [s1]
    split
    · exact State.hopReport_reads hg _ j _ s
    · rfl
  rw [← h1]
  exact congrArg g (State.oct_of_outside j (by simp [State.keepDelta]))

/-- The state in which a load reaches the divider that counts: the channel's own divider holds it where its welt acts (R228). -/
def State.slotOwn (k : Nat) (own c slot : Nat) (v : Slot) (q : List (Nat × FcwRec)) (s : State) : State :=
  let u := s.modOct k fun o => { o with fcw := q }
  if s.divOf c = c then u else u.modOwn c (s.divOf c) own fun d => { d with slots := d.slots.put slot v }

theorem execSlotLoad_load {k : OctIx} (bnd own : Nat) {c slot : Nat} {v : Slot} {q : List (Nat × FcwRec)} {s : State}
    (hv : (s.oct k).vclkRst = false) (hl : takeLane cobLane (s.oct k).fcw = some (.load c slot v, q)) :
    execSlotLoad k bnd own s =
      let w := s.divOf c
      let load (d : Div) : Div := { d with slots := d.slots.put slot v }
      let u := s.slotOwn k own c slot v q
      if slot ≠ (s.chan w).div.act then .next (u.modDiv w load)
      else if !(s.chan w).st.divides then
        .next ((u.modDiv w fun d => { load d with k := v.k }).hopReport k ⟨c, slot, max bnd (s.chan w).div.bnd, none, false, w⟩)
      else .next (u.changeNom w c slot bnd load) := by
  unfold execSlotLoad
  rw [if_neg (by simp [hv]), hl]
  rfl

theorem State.slotOwn_oct {α : Type} {g : Oct → α} (hg : ∀ o q, g { o with fcw := q } = g o) (k own c slot j : Nat) (v : Slot)
    (q : List (Nat × FcwRec)) (s : State) : g ((s.slotOwn k own c slot v q).oct j) = g (s.oct j) := by
  unfold State.slotOwn
  dsimp only
  split <;> exact State.modOct_reads (s := s) (f := fun o => { o with fcw := q }) (hg _ _) j

theorem State.slotOwn_fcw (k own c slot : Nat) (v : Slot) (q : List (Nat × FcwRec)) (s : State) : ((s.slotOwn k own c slot v q).oct k).fcw = q := by
  unfold State.slotOwn
  dsimp only
  split
  · rw [State.modOct_oct]
  · change ((s.modOct k fun o => { o with fcw := q }).oct k).fcw = q
    rw [State.modOct_oct]

/-- The divider that counts is as it was, and the channel's own one holds the load. -/
theorem State.slotOwn_div (k own c slot : Nat) (v : Slot) (q : List (Nat × FcwRec)) (s : State) :
    ((s.slotOwn k own c slot v q).chan (s.divOf c)).div = (s.chan (s.divOf c)).div ∧
      (s.divOf c ≠ c → ((s.slotOwn k own c slot v q).chan c).div.slots = (s.chan c).div.slots.put slot v) := by
  unfold State.slotOwn
  dsimp only
  split
  · next h => exact ⟨rfl, fun hn => absurd h hn⟩
  · next h =>
    unfold State.modOwn
    refine ⟨?_, fun _ => ?_⟩
    · rw [State.modDiv_div, if_neg h]; rfl
    · rw [State.modDiv_div, if_pos rfl, if_neg h]; rfl

/-- Settles O17: the branches of a load, with the divider that counts and the channel's own one told apart, of a ramp's end, a table and a pulse. -/
theorem slotsTablesAndPulses : Obligations.SlotsTablesAndPulses := by
  refine ⟨⟨?_, ?_, ?_⟩, ?_, ?_, ?_, ?_, ?_⟩
  · intro k bnd own c slot v q s hv hl x
    obtain ⟨hw, hc⟩ := s.slotOwn_div k own c slot v q
    have hf := s.slotOwn_fcw k own c slot v q
    have hup (id : Nat) : (s.slotOwn k own c slot v q).up c id = s.up c id :=
      State.up_of (fun j => State.slotOwn_oct (g := Oct.welt) (by intros; rfl) ..) (State.par_of_outside (by simp [State.slotOwn, State.modOwn])) c id
    have hexec : exec (.slotLoad k bnd own) s = _ := execSlotLoad_load bnd own hv hl
    generalize s.slotOwn k own c slot v q = u at *
    extract_lets w load at hexec
    by_cases ha : slot = x.div.act
    · rw [if_neg (not_not_intro ha)] at hexec
      by_cases hd : x.st.divides = true
      · rw [if_neg (by simpa [x] using hd)] at hexec
        refine ⟨_, hexec, ?_, ?_, ?_, fun _ _ => ?_, fun _ h => ?_, fun h => absurd ha h⟩
        · exact (State.changeNom_reads (g := Oct.fcw) (by intros; rfl) w c slot bnd k load u).trans hf
        · obtain ⟨dv, cl, h⟩ := State.changeNom_divs w c slot bnd c load u
          rw [h]
          split
          · next e => rw [hw]; exact congrArg (fun i => (s.chan i).div.slots.put slot v) e.symm
          · next e => exact hc (Ne.symm e)
        · obtain ⟨dv, cl, h⟩ := State.changeNom_divs w c slot bnd w load u
          rw [h, if_pos rfl, hw]
          rfl
        · obtain ⟨dv, cl, h⟩ := State.changeNom_divs w c slot bnd w load u
          rw [h, if_pos rfl, hw, hup]
          exact congrArg (rampOf _ · _ _) (congrArg Slot.nom (Tab.get_put_same ..))
        · exact absurd hd (by simp [h])
      · rw [if_pos (by simpa [x] using hd)] at hexec
        refine ⟨_, hexec, ?_, ?_, ?_, fun _ h => absurd h hd, fun _ _ => ?_, fun h => absurd ha h⟩
        · exact (State.hopReport_reads (f := Oct.fcw) (by intros; rfl) ..).trans hf
        · rw [State.hopReport_chan, State.modDiv_div]
          split
          · next e => rw [hw]; exact congrArg (fun i => (s.chan i).div.slots.put slot v) e.symm
          · next e => exact hc (Ne.symm e)
        · rw [State.hopReport_chan, State.modDiv_div, if_pos rfl, hw]
        · rw [State.hopReport_chan, State.modDiv_div, if_pos rfl]
    · rw [if_pos ha] at hexec
      refine ⟨_, hexec, hf, ?_, ?_, fun h => absurd h ha, fun h => absurd h ha, fun _ => ?_⟩
      · rw [State.modDiv_div]
        split
        · next h => rw [hw]; exact congrArg (fun i => (s.chan i).div.slots.put slot v) h.symm
        · next h => exact hc (Ne.symm h)
      · rw [State.modDiv_div, if_pos rfl, hw]
      · rw [State.modDiv_div, if_pos rfl, hw]
        exact ⟨rfl, rfl⟩
  · intro c bnd r s hr
    have hexec : exec (.hopRampEnd c bnd) s = execHopRampEnd c bnd s := rfl
    unfold execHopRampEnd at hexec
    rw [hr] at hexec
    refine ⟨_, hexec, ?_, fun hp hfl => ?_⟩
    · rw [State.hopReport_chan, State.modDiv_chan]
    · have ho (f : Div → Div) : (s.modDiv c f).octs = s.octs := rfl
      exact State.hopReport_hopQ (ho _) hp hfl _
  · intro c bnd s hr
    change execHopRampEnd c bnd s = _
    unfold execHopRampEnd
    rw [hr]
  · intro c d s h
    change execDtcTableApply c s = _
    unfold execDtcTableApply
    rw [h]
  · intro c s h
    change execDtcTableApply c s = _
    unfold execDtcTableApply
    rw [h]
  · intro c sec a s hm hst ha
    change execOutPpsPulse c sec s = _
    unfold execOutPpsPulse
    dsimp only
    rw [if_neg (by omega), hst, ha]
  · intro c sec s hm h
    have hexec : exec (.outPpsPulse c sec) s = .next ((s.modCnt c fun n => { n with miss := satAdd 32 1 n.miss }).modChan c fun x =>
        { x with pulse := [] }) := by
      change execOutPpsPulse c sec s = _
      unfold execOutPpsPulse
      dsimp only
      rw [if_neg (by omega)]
      split
      · next hst ha => simp [hst, ha] at h
      · rfl
    refine ⟨_, hexec, ?_⟩
    dsimp only
    rw [State.modChan_chan, State.modCnt_chan]
    exact ⟨rfl, rfl⟩
  · intro c sec s h3 h4
    exact if_pos ⟨h3, h4⟩

/-! ## Hops -/

/-- Channel `c` runs a divider that takes triggers (R222, R224). -/
def State.hopRuns (s : State) (c : Nat) : Prop :=
  (s.chan c).st ≠ .idle ∧ (s.chan c).st ≠ .bypass ∧ (s.chan c).st ≠ .retired ∧ (s.chan c).st ≠ .test

theorem State.latchTrig_runs {c : Nat} {s : State} (h : s.hopRuns c) (t : Trig) :
    s.latchTrig c t = s.modDiv (s.divOf c) fun d => { d with trig := d.trig ++ [t] } := by
  obtain ⟨h1, h2, h3, h4⟩ := h
  unfold State.latchTrig
  extract_lets st
  exact if_neg (by simp [st, h1, h2, h3, h4])

/-- A hop that is lost counts in its divider (R224). -/
theorem State.hopLost_div (c i : Nat) (s : State) :
    ((s.hopLost c).chan i).div = if i = c then { (s.chan c).div with hopLost := satAdd 4 1 (s.chan c).div.hopLost } else (s.chan i).div := by
  unfold State.hopLost
  rw [State.count_div, State.modDiv_div]

@[simp] theorem State.hopLost_st (c i : Nat) (s : State) : ((s.hopLost c).chan i).st = (s.chan i).st :=
  (State.modChan_reads (r := Chan.st) rfl i).trans (State.modDiv_st ..)

/-- In a state that keeps triggers, one for a slot that can be hopped to is kept, and counts as lost (R224). -/
theorem State.latchTrig_keeps {c : Nat} {t : Trig} {s : State} (hst : (s.chan c).st = .idle ∨ (s.chan c).st = .bypass) (ht : t.mrk = false)
    (hc : (s.chan c).div.canHop t.slot = true) : ((s.latchTrig c t).chan c).div =
      { (s.chan c).div with hopLost := satAdd 4 1 (s.chan c).div.hopLost, kept := some t.slot } := by
  unfold State.latchTrig
  extract_lets st s1
  rw [if_pos (by obtain h | h := hst <;> simp [st, h]), if_neg (by simp [ht]), State.modDiv_div, if_pos rfl]
  have h1 : (s1.chan c).div = { (s.chan c).div with hopLost := satAdd 4 1 (s.chan c).div.hopLost } := by
    rw [State.hopLost_div, if_pos rfl]
  have hc1 : (s1.chan c).div.canHop t.slot = true := by rw [h1]; exact hc
  rw [if_neg (by simp [hc1]), if_pos hst, h1]

/-- A write of HOP_SEL to another slot, the way open, latches a trigger (R222). -/
theorem State.hopSelWrite_latches {c slot : Nat} {s : State} (hp : (s.oct (octOf c)).xSel.present = true) (hfl : (s.oct (octOf c)).xSel.full = false)
    (ha : slot ≠ (s.chan (s.divOf c)).div.act) :
    s.hopSelWrite c slot = (s.modDiv c fun d => { d with sel := slot }).latchTrig c ⟨false, slot⟩ := by
  unfold State.hopSelWrite
  extract_lets d s1 o
  rw [if_neg ha, if_pos (by simp [o, hp, hfl])]

theorem State.hopSelWrite_runs {c slot : Nat} {s : State} (h : s.hopRuns c) (hp : (s.oct (octOf c)).xSel.present = true)
    (hfl : (s.oct (octOf c)).xSel.full = false) (ha : slot ≠ (s.chan (s.divOf c)).div.act) :
    ((s.hopSelWrite c slot).chan c).div.sel = slot ∧
      ((s.hopSelWrite c slot).chan (s.divOf c)).div.trig = (s.chan (s.divOf c)).div.trig ++ [⟨false, slot⟩] := by
  have h1 : (s.modDiv c fun d => { d with sel := slot }).hopRuns c := by
    simp only [State.hopRuns, State.modDiv_st]; exact h
  rw [State.hopSelWrite_latches hp hfl ha, State.latchTrig_runs h1, State.modDiv_divOf]
  refine ⟨?_, ?_⟩
  · refine (State.modChan_reads (r := fun x => x.div.sel) rfl c).trans ?_
    rw [State.modDiv_chan]
  · rw [State.modDiv_chan]
    exact congrArg (· ++ _) (State.modChan_reads (r := fun x => x.div.trig) rfl _)

theorem State.hopApply_hops {c n : Nat} (bnd own : Nat) {q : List Trig} {s : State} (ht : (s.chan (s.divOf c)).div.trig = ⟨false, n⟩ :: q)
    (hc : (s.chan (s.divOf c)).div.canHop n = true) (hl : ((s.oct (octOf c)).hopQ.filter (·.ch = c)).length < 2) :
    s.hopApply c bnd own = (((((s.modDiv (s.divOf c) fun d => { d with trig := q }).changeNom (s.divOf c) c n bnd fun d => { d with act := n }).modOwn c
      (s.divOf c) own fun d => { d with act := n, hopN := satAdd 8 1 d.hopN }).count c 12).handHop c) := by
  unfold State.hopApply
  dsimp only
  rw [ht]
  dsimp only
  rw [if_neg (by simp)]
  dsimp only
  rw [if_neg (by simp [hc])]
  exact if_neg (Nat.not_le.2 hl)

/-- A trigger whose slot cannot be hopped to, or that finds two reports waiting, is lost; of the divider more than HOP_SEL stays (R224). -/
theorem State.hopApply_lost {α : Type} {r : Div → α} (hr : ∀ d a, r { d with sel := a } = r d) {c n : Nat} (bnd own i : Nat) {q : List Trig}
    {s : State} (ht : (s.chan (s.divOf c)).div.trig = ⟨false, n⟩ :: q)
    (h : (s.chan (s.divOf c)).div.canHop n = false ∨ 2 ≤ ((s.oct (octOf c)).hopQ.filter (·.ch = c)).length) :
    r ((s.hopApply c bnd own).chan i).div = r (((s.modDiv (s.divOf c) fun d => { d with trig := q }).hopLost c).chan i).div := by
  unfold State.hopApply
  dsimp only
  rw [ht]
  dsimp only
  rw [if_neg (by simp)]
  dsimp only
  split
  · rw [if_neg (by simp)]
    exact State.modChan_reads (r := fun x => r x.div) (hr _ _) i
  · next hc => exact congrArg (fun u : State => r (u.chan i).div) (if_pos (h.resolve_left (by simpa using hc)))

theorem State.handHop_none {c : Nat} {s : State} (h : (s.oct (octOf c)).hand = none) : s.handHop c = s := by
  unfold State.handHop
  rw [h]

/-- Settles O18: the ways of a trigger into its divider, and the branches of the boundary that it meets. -/
theorem hopsLatchAndApply : Obligations.HopsLatchAndApply := by
  unfold Obligations.HopsLatchAndApply
  refine ⟨?_, ?_⟩
  · intro runs openWay can
    have hcan {c : Nat} {slot : Fin 4} {s : State} (h : can c slot s) : (s.chan (s.divOf c)).div.canHop slot = true := by
      simp only [Div.canHop, h.1, h.2, decide_true, Bool.and_self]
    have hidle {c : Nat} {s : State} (h : (s.chan c).st = .idle ∨ (s.chan c).st = .bypass) : s.divOf c = c :=
      if_neg fun e => by simp [e] at h
    refine ⟨?_, ?_, ?_, ?_, ?_, ?_, ?_, ?_⟩
    · intro c slot s hr ho ha
      exact ⟨_, rfl, State.hopSelWrite_runs hr ho.1 ho.2 ha⟩
    · intro c slot s ha
      exact congrArg Host.Outcome.next (if_pos ha)
    · intro c slot s hst ho ha hc
      refine ⟨_, rfl, ?_⟩
      have hd := hidle hst
      have hc1 := hcan hc
      rw [hd] at hc1
      dsimp only
      rw [State.hopSelWrite_latches ho.1 ho.2 (by rw [hd]; exact ha)]
      have hk := State.latchTrig_keeps (c := c) (t := ⟨false, slot⟩) (s := s.modDiv c fun d => { d with sel := slot }) (by simpa using hst) rfl
        (by rw [State.modDiv_chan]; exact hc1)
      rw [State.modDiv_chan] at hk
      rw [hk]
      exact ⟨rfl, rfl, rfl, rfl⟩
    · intro c s hr hm hv
      have hexec : exec (.mrkHopTrigger c false) s = execMrkHopTrigger c false s := rfl
      unfold execMrkHopTrigger at hexec
      extract_lets w last s1 at hexec
      rw [if_neg (by simp [hm, hv])] at hexec
      have h1 : s1 = s := if_neg (by simp)
      rw [h1, State.latchTrig_runs hr] at hexec
      refine ⟨_, hexec, ?_⟩
      dsimp only
      rw [State.modDiv_div, if_pos rfl]
    · intro c same s hm
      exact if_pos (.inl hm)
    · intro h c slot s g hr ho ha hc
      obtain ⟨hp, hfl⟩ := ho
      have ha' : slot.val ≠ ((s.taken h).chan ((s.taken h).divOf c)).div.act := ha
      have hc' : can c slot (s.taken h) := hc
      refine ⟨_, rfl, ?_⟩
      dsimp only
      rw [State.viaDoor_taken g, State.opChHop, if_neg ha', if_neg (by simp [hp, hfl]), if_pos hc']
      exact ⟨State.reply_answered .., (State.hopSelWrite_runs (s := s.taken h) hr hp hfl ha).2⟩
    · intro h c slot s g ha ho hc
      obtain ⟨hp, hfl⟩ := ho
      have ha' : slot.val ≠ ((s.taken h).chan ((s.taken h).divOf c)).div.act := ha
      have hc' : ¬ can c slot (s.taken h) := hc
      refine ⟨_, rfl, ?_⟩
      dsimp only
      rw [State.viaDoor_taken g, State.opChHop, if_neg ha', if_neg (by simp [hp, hfl]), if_neg hc']
      generalize hu : ((s.taken h).modDiv c fun d => { d with sel := d.act }) = u
      refine ⟨State.reply_answered .., ?_, ?_⟩
      · change ((u.hopLost c).chan c).div.hopLost = _
        rw [State.hopLost_div, if_pos rfl, ← hu, State.modDiv_chan]
        rfl
      · change ((u.hopLost c).chan (s.divOf c)).div.trig = _
        refine (State.modChan_reads (r := fun x => x.div.trig) rfl _).trans ((State.modChan_reads (r := fun x => x.div.trig) rfl _).trans ?_)
        rw [← hu]
        exact State.modChan_reads (r := fun x => x.div.trig) rfl _
    · intro h c slot s g ha ho
      have ha' : slot.val ≠ ((s.taken h).chan ((s.taken h).divOf c)).div.act := ha
      change Host.Outcome.next _ = _
      rw [State.viaDoor_taken g, State.opChHop, if_neg ha', if_pos ?_]
      refine Classical.byContradiction fun hno => ?_
      refine ho ⟨?_, ?_⟩
      · exact Bool.of_not_eq_false fun h => hno (.inl (by simpa using h))
      · exact Bool.of_not_eq_true fun h => hno (.inr (by simpa using h))
  · intro c bnd own n q s hv ht d at_
    have hexec : exec (.hopApply c bnd own) s = .next (s.hopApply c bnd own) := congrArg Host.Outcome.next (if_neg (by simp [hv]))
    refine ⟨fun hc hl hh => ?_, fun h => ?_⟩
    · have happ := State.hopApply_hops bnd own ht hc hl
      generalize hu : (s.modDiv (s.divOf c) fun d => { d with trig := q }) = u at happ
      have hud : (u.chan (s.divOf c)).div = { (s.chan (s.divOf c)).div with trig := q } := by rw [← hu, State.modDiv_chan]
      have huc : (u.chan c).div.hopN = (s.chan c).div.hopN := by
        rw [← hu]; exact State.modChan_reads (r := fun x => x.div.hopN) rfl _
      have hup (id : Nat) : u.up c id = s.up c id := by rw [← hu]; rfl
      obtain ⟨dv, cl, hw⟩ := State.changeNom_divs (s.divOf c) c n bnd (s.divOf c) (fun d => { d with act := n }) u
      have hhop : ((u.changeNom (s.divOf c) c n bnd fun d => { d with act := n }).chan c).div.hopN = (s.chan c).div.hopN := by
        obtain ⟨dv', cl', hcc⟩ := State.changeNom_divs (s.divOf c) c n bnd c (fun d => { d with act := n }) u
        rw [hcc, ← huc]
        split
        · next e => exact congrArg (fun i => (u.chan i).div.hopN) e.symm
        · rfl
      have hhand : ((u.changeNom (s.divOf c) c n bnd fun d => { d with act := n }).oct (octOf c)).hand = none := by
        rw [State.changeNom_reads (g := Oct.hand) (by intros; rfl), ← hu]
        exact hh
      rw [hup, hud, if_pos rfl] at hw
      generalize (u.changeNom (s.divOf c) c n bnd fun d => { d with act := n }) = v at *
      rw [State.handHop_none (s := (v.modOwn c (s.divOf c) own _).count c 12) hhand] at happ
      rw [happ] at hexec
      have hown {α : Type} {r : Div → α} (hr : ∀ d : Div, r { d with act := n, hopN := satAdd 8 1 d.hopN } = r { d with act := n }) :
          r (((v.modOwn c (s.divOf c) own fun d => { d with act := n, hopN := satAdd 8 1 d.hopN }).count c 12).chan (s.divOf c)).div =
            r { (v.chan (s.divOf c)).div with act := n } := by
        rw [State.count_div, State.modOwn, State.modDiv_div]
        split
        · next e => exact (hr _).trans (congrArg (fun i => r { (v.chan i).div with act := n }) e.symm)
        · rw [hw]
      rw [hw] at hown
      refine ⟨_, hexec, hown (r := Div.act) (by intros; rfl), ?_, hown (r := Div.trig) (by intros; rfl), ?_, hown (r := Div.bnd) (by intros; rfl),
        hown (r := Div.acc) (by intros; rfl), ?_⟩
      · rw [State.count_div, State.modOwn, State.modDiv_div, if_pos rfl]
      · rw [State.count_div, State.modOwn, State.modDiv_div, if_pos rfl]
        split <;> exact congrArg (satAdd 8 1) hhop
      · exact hown (r := Div.ramp) (by intros; rfl)
    · refine ⟨_, hexec, ?_, ?_, ?_⟩
      · refine (State.hopApply_lost (r := Div.act) (by intros; rfl) bnd own _ ht h).trans ?_
        exact (State.modChan_reads (r := fun x => x.div.act) rfl _).trans ((State.modChan_reads (r := fun x => x.div.act) rfl _).trans
          (State.modChan_reads (r := fun x => x.div.act) rfl _))
      · refine (State.hopApply_lost (r := Div.trig) (by intros; rfl) bnd own _ ht h).trans ?_
        refine (State.modChan_reads (r := fun x => x.div.trig) rfl _).trans ((State.modChan_reads (r := fun x => x.div.trig) rfl _).trans ?_)
        rw [State.modDiv_chan]
      · refine (State.hopApply_lost (r := Div.hopLost) (by intros; rfl) bnd own _ ht h).trans ?_
        rw [State.hopLost_div, if_pos rfl]
        exact congrArg (satAdd 4 1) (State.modChan_reads (r := fun x => x.div.hopLost) rfl _)

end Sys2Proof.Machine
end

section
/-!
PROOFS. Phase requests and the traverse (R258 to R273, R396, R444).
-/
namespace Sys2Proof.Machine
open Sys2Proof

/-! ## The traverse -/

/-- Settles O20: P_REAL and GUARD are quotient and remainder of one position, which the step moves and P_CMD bounds. -/
theorem traverseNeverPassesCommand : Obligations.TraverseNeverPassesCommand := by
  intro t d hg
  dsimp only
  have hdiv (b : Int) : b / 2 ^ 64 * 2 ^ 64 + ((b % 2 ^ 64).toNat : Int) = b ∧ (b % 2 ^ 64).toNat < 2 ^ 64 := by omega
  unfold Trav.advance
  extract_lets a b c
  obtain ⟨h1, h2⟩ := hdiv b
  split
  · next h =>
    refine ⟨Nat.two_pow_pos 64, rfl, fun h0 hle => ?_, fun h0 hle => ?_⟩ <;> simp only [a, b, c] at * <;> omega
  · next h =>
    refine ⟨h2, rfl, fun h0 hle => ?_, fun h0 hle => ?_⟩ <;> simp only [h1] <;> simp only [a, b, c] at * <;> omega

/-! ## Switches of an output -/

section
variable {α : Type} {r : Chan → α} (hr : ∀ x o w, r { x with out := o, sw := w } = r x)
include hr

theorem State.gateOn_reads (c i : Nat) (y : OutSrc) (s : State) : r ((s.gateOn c y).chan i) = r (s.chan i) := by
  unfold State.gateOn
  extract_lets s1
  have h1 : r (s1.chan i) = r (s.chan i) := State.modChan_reads (hr _ _ _) i
  rw [← h1]
  split <;> rfl

theorem State.gateOff_reads (c i : Nat) (y : OutSrc) (s : State) : r ((s.gateOff c y).chan i) = r (s.chan i) := by
  unfold State.gateOff
  split
  · exact State.gateOn_reads hr c i y s
  · exact State.modChan_reads (hr _ _ _) i

/-- Of a channel, a switch request reaches its output and the switch. -/
theorem State.switchTo_reads (c i : Nat) (y : OutSrc) (s : State) : r ((s.switchTo c y).chan i) = r (s.chan i) := by
  unfold State.switchTo
  extract_lets x
  split
  · rfl
  · split
    · exact State.gateOff_reads hr c i y s
    · split
      · exact State.modChan_reads (hr _ _ none) i
      · split
        · exact State.gateOff_reads hr c i y s
        · exact State.modChan_reads (hr _ _ _) i

theorem State.syncStanding_reads (k i : Nat) (s : State) : r ((s.syncStanding k).chan i) = r (s.chan i) := by
  unfold State.syncStanding
  extract_lets go
  have hgo (c : Nat) : r ((go c).chan i) = r (s.chan i) := by
    simp only [go]
    split
    · split
      · rfl
      · exact State.switchTo_reads hr c i _ s
    · exact State.switchTo_reads hr c i _ s
    · exact State.switchTo_reads hr c i _ s
    · exact State.switchTo_reads hr c i _ s
    · exact State.switchTo_reads hr c i _ s
  split
  · exact hgo _
  · split
    · exact hgo _
    · rfl
  · rfl

end

theorem State.leaveIdle_st (c : Nat) (s : State) : ((s.leaveIdle c).chan c).st = .acquire := by
  unfold State.leaveIdle
  extract_lets s1 v s2 s3
  have h3 : (s3.chan c).st = .acquire := by
    refine (State.switchTo_reads (r := Chan.st) (by intros; rfl) c c .own s2).trans ?_
    simp only [s2, State.modChan_chan]
  split
  · exact (State.syncStanding_reads (r := Chan.st) (by intros; rfl) _ c s3).trans h3
  · exact h3

/-! ## Request jobs -/

/-- A map that keeps numbers, and what `r` reads of every entry, keeps what `r` reads of a table. -/
theorem Tab.get_map_reads {α β : Type} {r : α → β} {f : Nat × α → Nat × α} (hf : ∀ e, (f e).1 = e.1 ∧ r (f e).2 = r e.2)
    (d : α) (t : Tab α) (j : Nat) :
    r (Tab.get d (t.map f) j) = r (Tab.get d t j) := by
  induction t with
  | nil => rfl
  | cons a t ih =>
    obtain ⟨i, x⟩ := a
    obtain ⟨h1, h2⟩ := hf (i, x)
    have hcons : Tab.get d (((i, x) :: t).map f) j = if (f (i, x)).1 = j then (f (i, x)).2 else Tab.get d (t.map f) j := rfl
    rw [hcons, h1]
    by_cases e : i = j
    · rw [if_pos e, h2, Tab.get, if_pos e]
    · rw [if_neg e, ih, Tab.get, if_neg e]

section
variable {α : Type} {r : Eng → α} (hr : ∀ g c, r { g with cache := c } = r g)
include hr

/-- What looks past the caches stays where entry `i` moves into that of engine `e`. -/
theorem State.cached_reads (e i j : Nat) (s : State) :
    r (Tab.get .init ((s.engs.put e (s.eng e)).map fun g => (g.1, if g.1 = e then { g.2 with cache := (i :: g.2.cache.filter (· ≠ i)).take 12 }
      else { g.2 with cache := g.2.cache.filter (· ≠ i) })) j) = r (s.eng j) := by
  refine (Tab.get_map_reads (r := r) (f := fun g => (g.1, if g.1 = e then { g.2 with cache := (i :: g.2.cache.filter (· ≠ i)).take 12 }
    else { g.2 with cache := g.2.cache.filter (· ≠ i) })) (fun a => ⟨rfl, ?_⟩) _ _ j).trans ?_
  · dsimp only
    split <;> exact hr _ _
  · by_cases h : j = e
    · rw [h, Tab.get_put_same]
    · rw [Tab.get_put_ne _ _ h]; rfl

theorem State.takeLease_reads (e c j : Nat) (s : State) : r ((s.takeLease e c).eng j) = r (s.eng j) :=
  State.cached_reads hr e c j (s.modChan c fun x => { x with lease := some e, leaseEng := e })

theorem State.takeTsLease_reads (e j : Nat) (s : State) : r ((s.takeTsLease e).eng j) = r (s.eng j) :=
  State.cached_reads hr e tsIndex j (s.modTs fun t => { t with lease := some e, leaseEng := e })

end

theorem State.takeLease_q (e c j : Nat) (s : State) : ((s.takeLease e c).eng j).q = (s.eng j).q :=
  State.takeLease_reads (r := Eng.q) (by intros; rfl) e c j s

theorem State.takeLease_chan (e c i : Nat) (s : State) :
    (s.takeLease e c).chan i = (s.modChan c fun x => { x with lease := some e, leaseEng := e }).chan i := rfl

/-- A request at the front of its engine's queue, whose lease is free, is applied there. -/
theorem exec_requestJob {e : EngIx} {c : Nat} {q : Req} {l : List Job} {s : State} (hr : (s.eng e).retired = false) (hg : s.engReady = true)
    (hq : (s.eng e).q = .req c q :: l) (hl : s.leaseOk e (.req c q) = true) :
    exec (.requestJob e) s = .next ((s.modEng e fun g => { g with q := l }).sideJob e c (.req c q)) := by
  have hs : s.startSide e Job.isReq = some (.req c q, s.modEng e fun g => { g with q := l }) := by
    rw [State.startSide, if_neg (by simp [hr, hg]), hq, pickJob, if_pos (by simp [hl, Job.isReq])]
    rfl
  change execRequestJob e s = _
  rw [execRequestJob, hs]

section
variable (e c : Nat) (q : Req) (l : List Job) (s : State)

/-- The state in which request `q` of channel `c` is applied on engine `e`. -/
def State.leased : State := (s.modEng e fun g => { g with q := l }).takeLease e c

theorem State.leased_chan : (s.leased e c l).chan c = { s.chan c with lease := some e, leaseEng := e } :=
  (State.takeLease_chan e c c _).trans (State.modChan_chan _ _ _)

/-- A request job leaves its engine the rest of its queue. -/
theorem State.sideJob_q : (((s.modEng e fun g => { g with q := l }).sideJob e c (.req c q)).eng e).q = l := by
  refine (congrArg Eng.q (State.modEng_eng e _ _)).trans ?_
  refine (congrArg Eng.q (State.eng_of_outside (s := (s.modEng e fun g => { g with q := l }).takeLease e c) e (by simp [State.side]))).trans ?_
  exact (State.takeLease_q e c e _).trans (congrArg Eng.q (State.modEng_eng e _ s))

theorem State.sideJob_chan : ((s.modEng e fun g => { g with q := l }).sideJob e c (.req c q)).chan c = ((s.leased e c l).applyReq c q).chan c := rfl

theorem State.sideJob_door (n : Nat) :
    ((s.modEng e fun g => { g with q := l }).sideJob e c (.req c q)).door n = ((s.leased e c l).applyReq c q).door n := rfl

end

section
variable (b : Bool) (c : Nat) (t : Trav) (s : State)

/-- What the end of a slew that was announced leaves: the announcement is spent and counted. -/
def State.slewEnd : State := if b then slewDone c t ((s.modTrav c fun t => { t with notify := 0 }).count c 11) else s

theorem State.slewEnd_door_ne {n : Nat} (hn : n ≠ 6) : (s.slewEnd b c t).door n = s.door n := by
  unfold State.slewEnd
  split
  · exact slewDone_door_ne hn _ _ _
  · rfl

theorem State.slewEnd_reads {α : Type} {r : Chan → α} (hr : ∀ x m k, r { x with trav := { x.trav with notify := m }, cnt := k } = r x) (i : Nat) :
    r ((s.slewEnd b c t).chan i) = r (s.chan i) := by
  unfold State.slewEnd
  split
  · refine (congrArg r (State.chan_of_outside i (s := (s.modTrav c fun t => { t with notify := 0 }).count c 11) (by simp))).trans ?_
    exact (State.modChan_reads (hr _ _ _) i).trans (State.modChan_reads (hr _ _ _) i)
  · rfl

end

theorem State.applyReq_adj {h : Hdr} {c : Nat} {n : Bool} {d : Int} {s : State} (hp : (s.chan c).st.phased = true) (hr : s.adjRange c d = false) :
    s.applyReq c (.adj (some h) n d) =
      (((s.modTrav c (·.request d n)).reply h 0x0304 ⟨.ok, 0, 0, ((s.chan c).trav.request d n).reqN, [toBits 96 ((s.chan c).trav.request d n).res]⟩).slewEnd
        ((s.chan c).trav.request d n).isDone c ((s.chan c).trav.request d n)) := by
  rw [State.applyReq]
  extract_lets s1 t s2
  have ht : t = (s.chan c).trav.request d n := congrArg Chan.trav (State.modChan_chan c _ s)
  rw [if_neg (by simp [hp]), if_neg (by simp [hr]), ← ht]
  rfl

theorem State.applyReq_cancel {h : Hdr} {c : Nat} {s : State} (hp : (s.chan c).st.phased = true) :
    s.applyReq c (.cancel (some h)) =
      (((s.modTrav c Trav.cancel).reply h 0x0305 (.res (s.chan c).trav.cancel.reqN)).slewEnd
        (s.chan c).trav.cancel.isDone c (s.chan c).trav.cancel) := by
  rw [State.applyReq]
  extract_lets s1 t s2
  have ht : t = (s.chan c).trav.cancel := congrArg Chan.trav (State.modChan_chan c _ s)
  rw [if_neg (by simp [hp]), ← ht]
  rfl

/-- What a channel shows once a move of its P_CMD has been answered. -/
theorem State.slewEnd_replied {α : Type} {r : Chan → α} (hr : ∀ x m k, r { x with trav := { x.trav with notify := m }, cnt := k } = r x) {c : Nat} {x : Chan}
    {u : State} (hc : u.chan c = x) (h : Hdr) (cmd : Nat) (rep : Rep) (f : Trav → Trav) (b : Bool) (t : Trav) :
    r ((((u.modTrav c f).reply h cmd rep).slewEnd b c t).chan c) = r { x with trav := f x.trav } := by
  subst hc
  have hu : (u.modTrav c f).chan c = { u.chan c with trav := f (u.chan c).trav } := State.modChan_chan c _ u
  exact (State.slewEnd_reads _ _ _ _ hr c).trans (congrArg r hu)

theorem State.count_qdrop (c n i : Nat) (s : State) : ((s.count c n).chan i).cnt.qdrop = (s.chan i).cnt.qdrop :=
  State.modChan_reads (r := fun x => x.cnt.qdrop) rfl i

/-- A request to a home engine joins its queue while that has room. -/
theorem State.request_queued {c e : Nat} {q : Req} {s : State} (hx : (s.oct (octOf c)).xReq.present = true) (he : s.homeOf c = some e)
    (hq : (s.eng e).q.length < 16) : s.request c q = s.modEng e fun g => { g with q := g.q ++ [.req c q] } := by
  rw [State.request, if_pos hx, State.dispatch, he]
  exact if_pos hq

/-- Settles O19: a request goes into the queue of its home engine, or its refusal is counted; the job at the front of that queue is applied under
the lease. -/
theorem phaseRequests : Obligations.PhaseRequests := by
  refine ⟨?_, ?_, ?_, ?_, ?_, ?_, ?_⟩
  · intro h c d e s g hd hm hx he hq
    change Host.Outcome.next _ = _
    rw [State.viaDoor_taken g, State.opPhaseAdj]
    extract_lets t
    have hm' : (s.taken h).phaseMode c = false := hm
    rw [if_neg (by simp [hd]), if_neg (by simp [hm']), if_pos (by exact hx)]
    exact congrArg _ (State.request_queued hx he hq)
  · intro h c d e s g hd hm hx he hq
    refine ⟨_, rfl, ?_⟩
    rw [State.viaDoor_taken g, State.opPhaseAdj]
    extract_lets t
    have hm' : (s.taken h).phaseMode c = false := hm
    have ht : t = (((s.taken h).modCnt (s.actOf c) fun n => { n with qdrop := satAdd 16 1 n.qdrop }).reqRefused (s.actOf c) (some h) 0x0304 .busy).engEv
        e 9 := by
      simp only [t]
      rw [State.request, if_pos (by exact hx), State.dispatch]
      have he' : (s.taken h).homeOf ((s.taken h).actOf c) = some e := he
      rw [he']
      exact if_neg (by simpa using hq)
    rw [if_neg (by simp [hd]), if_neg (by simp [hm']), if_pos (by exact hx), ht]
    refine ⟨State.reply_answered _ _ _ _, ?_⟩
    refine (State.count_qdrop (s.actOf c) 10 (s.actOf c) _).trans ?_
    exact congrArg (fun x : Chan => x.cnt.qdrop) (State.modChan_chan _ _ (s.taken h))
  · intro h c d s g hd hm
    change Host.Outcome.next _ = _
    rw [State.viaDoor_taken g, State.opPhaseAdj]
    extract_lets t
    have hm' : (s.taken h).phaseMode c = true := hm
    rw [if_neg (by simp [hd]), if_pos hm']
    rfl
  · intro h c e s g hm hx he hq
    change Host.Outcome.next _ = _
    rw [State.viaDoor_taken g, State.opPhaseCancel]
    extract_lets t
    have hm' : (s.taken h).phaseMode c = false := hm
    rw [if_neg (by simp [hm']), if_pos (by exact hx)]
    exact congrArg _ (State.request_queued hx he hq)
  · intro e c h n d l s hr hg hq hl hp ha hd
    refine ⟨_, exec_requestJob hr hg hq hl, ?_⟩
    dsimp only
    have hc := s.leased_chan e c l
    rw [State.sideJob_q, State.sideJob_chan, Answered, State.sideJob_door]
    change _ ∧ _ ∧ _ ∧ _ ∧ Answered h 0x0304 _ ((s.leased e c l).applyReq c (.adj (some h) n d))
    rw [State.applyReq_adj (by rw [hc]; exact hp) (by rw [State.adjRange, hc]; exact ha), hc]
    dsimp only
    refine ⟨rfl, ?_, ?_, ?_, ?_⟩
    · exact State.slewEnd_replied (r := Chan.lease) (by intros; rfl) hc _ _ _ _ _ _
    · exact State.slewEnd_replied (r := fun x => x.trav.pCmd) (by intros; rfl) hc _ _ _ _ _ _
    · exact State.slewEnd_replied (r := fun x => x.trav.reqN) (by intros; rfl) hc _ _ _ _ _ _
    · have hres : ((s.chan c).trav.request d n).res = (s.chan c).trav.res + d := by
        simp only [Trav.res, Trav.request]; omega
      rw [hres]
      exact (State.reply_answered _ _ _ _).of_door (State.slewEnd_door_ne _ _ _ _ hd)
  · intro e c h l s hr hg hq hl hp hd
    refine ⟨_, exec_requestJob hr hg hq hl, ?_⟩
    dsimp only
    have hc := s.leased_chan e c l
    rw [State.sideJob_q, State.sideJob_chan, Answered, State.sideJob_door]
    change _ ∧ _ ∧ _ ∧ Answered h 0x0305 _ ((s.leased e c l).applyReq c (.cancel (some h)))
    rw [State.applyReq_cancel (by rw [hc]; exact hp), hc]
    dsimp only
    refine ⟨rfl, ?_, ?_, ?_⟩
    · exact State.slewEnd_replied (r := fun x => x.trav.pCmd) (by intros; rfl) hc _ _ _ _ _ _
    · exact State.slewEnd_replied (r := fun x => x.trav.reqN) (by intros; rfl) hc _ _ _ _ _ _
    · exact (State.reply_answered _ _ _ _).of_door (State.slewEnd_door_ne _ _ _ _ hd)
  · intro e c l s hr hg hq hl hst hts hm
    refine ⟨_, exec_requestJob hr hg hq hl, State.sideJob_q _ _ _ _ _, ?_⟩
    rw [State.sideJob_chan, State.applyReq]
    rw [if_pos ⟨by rw [State.leased_chan]; exact hst, hts, hm⟩]
    exact State.leaveIdle_st c _

end Sys2Proof.Machine
end

section
/-!
PROOFS. Stamps, records and stamping faults (R60, R285 to R308, R461, R463, R529, R545).
-/
namespace Sys2Proof.Machine
open Sys2Proof

/-! ## Cores and sources -/

@[simp] theorem State.modSrc_core (i j : Nat) (f : SrcS → SrcS) (s : State) : (s.modSrc i f).core j = s.core j := rfl
@[simp] theorem State.modCore_src (i j : Nat) (f : Core → Core) (s : State) : (s.modCore i f).src j = s.src j := rfl

/-! ## Stamps -/

theorem stampAt_form (x : Int) : (x * 128 % (linMod : Int)).toNat % 128 = 0 ∧ (x * 128 % (linMod : Int)).toNat < linMod := by
  simp only [linMod, secU]
  omega

/-! ## Drops -/

/-- Of its source, a drop leaves the decimation count and marks the gap. -/
theorem State.dropRate_src (src : Nat) (s : State) :
    ((s.dropRate src).src src).dec = (s.src src).dec ∧ ((s.dropRate src).src src).gap = true := by
  unfold State.dropRate State.dropEv
  extract_lets s1
  have h1 : s1.src src = { s.src src with gap := true } := State.modSrc_src _ _ _
  split
  · rw [State.src_of_outside (s := s1) src (by simp), h1]
    exact ⟨rfl, rfl⟩
  · rw [State.modSrc_src, h1]
    exact ⟨rfl, rfl⟩

theorem State.dropRate_rate {src : Nat} (h : src < 0x800) (s : State) :
    ((s.dropRate src).chan (src / 4)).cnt.rate = satAdd 32 1 (s.chan (src / 4)).cnt.rate := by
  unfold State.dropRate State.dropEv
  extract_lets s1
  rw [if_pos h]
  exact congrArg (fun x : Chan => x.cnt.rate) (State.modChan_chan _ _ s1)

/-! ## Events -/

theorem State.abandonTxm_none {core : Nat} {s : State} (h : (s.core core).lastTxm = none) (t : Nat) : s.abandonTxm core t = s := by
  unfold State.abandonTxm
  extract_lets k
  simp only [k, h]

/-- What an event that passes the checks leaves in its core and its source. -/
theorem State.hold_held {core src t : Nat} {fall welt : Bool} {dl : Int} {s : State} (h : (s.core core).held.length < 2) :
    ((s.hold core src fall welt t dl).core core).held =
      (s.core core).held ++ [⟨src, 0, ⟨fall, s.pwr.mode = .holdover, !(s.setOf core).valid, (s.src src).gap, welt⟩, t, dl⟩] ∧
    (s.hold core src fall welt t dl).src src = { s.src src with gap := false, last := some t } := by
  unfold State.hold
  rw [if_neg (by omega)]
  extract_lets r
  constructor
  · rw [State.modSrc_core, State.modCore_core]
  · exact State.modSrc_src _ _ _

/-- An event that passes every check becomes a record of its core. -/
theorem State.event_held {x : Source} {core src tap vern t : Nat} {welt fall : Bool} {s : State}
    (ht : s.stampAt ((s.setFor core src (s.setOf core)).delay tap vern) = t)
    (hlast : (s.src src).last.all (fun l => decide ((ns240 : Int) ≤ stampDiff t l)) = true)
    (hmrk : src % 4 = 1 → src < 0x800 → (s.core core).lastTxm = none)
    (htxm : src % 4 = 2 → src < 0x800 → (s.core core).lastMrk.any (within3 t) = false)
    (hlock : (s.dll (dllOf x)).lock = true) (hfail : (s.core core).fail = false) (href : 0x800 ≤ src → s.refRetired = false)
    (hlen : (s.core core).held.length < 2) :
    (∃ dl, ((s.event x core src welt fall tap vern).core core).held =
      (s.core core).held ++ [⟨src, 0, ⟨fall, s.pwr.mode = .holdover, !(s.setOf core).valid, (s.src src).gap, welt⟩, t, dl⟩]) ∧
    (s.event x core src welt fall tap vern).src src = { s.src src with gap := false, last := some t } := by
  have hnew : ¬ (s.src src).last.any (fun l => decide (stampDiff t l < ns240)) = true := by
    cases h : (s.src src).last with
    | none => simp
    | some l => simpa [h] using hlast
  have hpart : ¬ (src < 0x800 ∧ src % 4 = 2 ∧ (s.core core).lastMrk.any (within3 t) = true) := fun ⟨h1, h2, h3⟩ => by
    simp [htxm h2 h1] at h3
  unfold State.event
  extract_lets t' isMrk s2 dl
  have e : t' = t := ht
  clear_value t'
  subst e
  have h2 : ∃ m, s2.core core = { s.core core with lastMrk := m } ∧ s2.srcs = s.srcs ∧ s2.dlls = s.dlls ∧ s2.store = s.store ∧ s2.pwr = s.pwr := by
    by_cases hm : isMrk = true
    · have hnone : (s.core core).lastTxm = none := by
        simp only [isMrk, Bool.and_eq_true, decide_eq_true_eq] at hm
        exact hmrk hm.2 hm.1
      have e : s2 = s.modCore core fun k => { k with lastMrk := some t' } := by
        simp only [s2]
        rw [if_pos hm, State.abandonTxm_none hnone]
      rw [e]
      exact ⟨_, State.modCore_core _ _ _, rfl, rfl, rfl, rfl⟩
    · have e : s2 = s := if_neg hm
      rw [e]
      exact ⟨_, rfl, rfl, rfl, rfl, rfl⟩
  clear_value s2 dl
  obtain ⟨m, hcore, hsrcs, hdlls, hstore, hpwr⟩ := h2
  have hsrc : s2.src src = s.src src := by rw [State.src, hsrcs]; rfl
  have hdll : (s2.dll (dllOf x)).lock = true := by rw [State.dll, hdlls]; exact hlock
  have hret : ¬ (0x800 ≤ src ∧ s2.refRetired = true) := fun ⟨h1, h2⟩ => by
    rw [State.refRetired, hstore] at h2
    rw [State.refRetired] at href
    rw [href h1] at h2
    exact Bool.false_ne_true h2
  rw [if_neg hnew, if_neg hpart, if_neg (by rw [hdll, hcore]; simp [hfail]; simpa using hret)]
  obtain ⟨hh, hs⟩ := State.hold_held (core := core) (src := src) (t := t') (fall := fall) (welt := welt) (dl := dl)
    (s := s2.modCore core fun k => { k with old := none }) (by rw [State.modCore_core, hcore]; exact hlen)
  refine ⟨⟨dl, hh.trans ?_⟩, hs.trans ?_⟩
  · rw [State.setOf, State.modCore_core, hcore, State.modCore_src, hsrc, State.modCore_pwr, hpwr]
    rfl
  · rw [State.modCore_src, hsrc]

/-- Settles O21: the checks of R303 in their order. -/
theorem edgesBecomeRecords : Obligations.EdgesBecomeRecords := by
  refine ⟨fun d s => stampAt_form _, ?_, ?_⟩
  · intro x fall tap vern core src welt s hx hts hdom hon hsel hcal
    have hexec : exec (.tdcEvent x fall tap vern) s = execTdcEvent x fall tap vern s := rfl
    unfold execTdcEvent at hexec
    simp only [hx] at hexec
    rw [if_neg (by simp [hts, hdom, hon, hsel]; exact hcal)] at hexec
    refine ⟨fun hn => ?_, ?_⟩
    · rw [if_pos hn] at hexec
      exact hexec
    · intro t hn
      rw [if_neg (by omega)] at hexec
      have h0 : (s.modSrc src fun y => { y with dec := 0 }).src src = { s.src src with dec := 0 } := State.modSrc_src _ _ _
      refine ⟨fun hlast hmrk htxm hlock hfail href hlen => ⟨_, hexec, ?_⟩, fun hsoon => ⟨_, hexec, ?_⟩⟩
      · obtain ⟨⟨dl, hheld⟩, hsrc⟩ := State.event_held (s := s.modSrc src fun y => { y with dec := 0 }) (x := x) (welt := welt) (fall := fall) (t := t)
          rfl (by rw [h0]; exact hlast) hmrk htxm hlock hfail href hlen
        rw [hsrc, hheld, h0]
        exact ⟨rfl, rfl, rfl, dl, rfl⟩
      · dsimp only
        unfold State.event
        extract_lets t' isMrk s2 dl
        rw [if_pos (by rw [h0]; exact hsoon)]
        obtain ⟨hdec, hgap⟩ := State.dropRate_src src (s.modSrc src fun y => { y with dec := 0 })
        refine ⟨hdec.trans (congrArg SrcS.dec h0), hgap, ?_, fun h => State.dropRate_rate h _⟩
        exact State.cores_of_outside (s := s.modSrc src fun y => { y with dec := 0 }) (by simp)
  · intro x fall tap vern s h
    change execTdcEvent x fall tap vern s = _
    unfold execTdcEvent
    split
    · rfl
    · next hx =>
      rw [if_pos]
      simp only [hx] at h
      simpa using h

/-! ## What the end of a calibration run leaves of cores and control loops -/

/-- A reading of cores and control loops alone, which a run that is undone leaves. -/
structure Uncal {α : Type} (R : State → α) : Prop where
  frame : ∀ s t : State, t.cores = s.cores → t.dlls = s.dlls → R t = R s
  restore : ∀ (r : CalRun) s, R (r.restore s) = R s

theorem uncal_core {α : Type} {g : Core → α} (hg : ∀ c v a t, g { c with set := v, anchor := a, trim := t } = g c) (i : Nat) :
    Uncal fun s => g (s.core i) := by
  refine ⟨fun s t hc _ => by rw [State.core, hc]; rfl, fun r s => ?_⟩
  unfold CalRun.restore
  extract_lets s1 s2 s3
  have h1 : g (s1.core i) = g (s.core i) := forAll_reads (r := fun s : State => g (s.core i)) (fun e s => by
    by_cases h : i = e.1
    · rw [h, State.modCore_core, hg]
    · rw [State.modCore_core_ne _ _ _ _ h]) _ s
  have h3 : s3.core i = s1.core i := State.core_of_outside i (by simp [s3, s2])
  rw [← h1, ← h3]
  split <;> rfl

theorem uncal_dll {α : Type} {g : Dll → α} (hg : ∀ d v l, g { d with range := v, lock := l } = g d) (i : Nat) : Uncal fun s => g (s.dll i) := by
  refine ⟨fun s t _ hd => by rw [State.dll, hd]; rfl, fun r s => ?_⟩
  unfold CalRun.restore
  extract_lets s1 s2 s3
  have h2 : s2.dll i = s.dll i := State.dll_of_outside i (by simp [s2, s1])
  have h3 : g (s3.dll i) = g (s2.dll i) := forAll_reads (r := fun s : State => g (s.dll i)) (fun e s => by
    by_cases h : i = e.1
    · rw [h, State.modDll_dll, hg]
    · rw [State.modDll_dll_ne _ _ _ _ h]) _ s2
  rw [← h2, ← h3]
  split <;> rfl

section
variable {α : Type} {R : State → α} (hR : Uncal R)
include hR

theorem Uncal.of_outside {s t : State} (h : t.outside (allBut [.cores, .dlls]) = s.outside (allBut [.cores, .dlls])) : R t = R s :=
  hR.frame s t (Only.cores h (by simp)) (Only.dlls h (by simp))

theorem Uncal.calEnd (r : CalRun) (stale : Bool) (reason gen : Nat) (s : State) : R (s.calEnd r stale reason gen) = R s := by
  unfold State.calEnd
  extract_lets w s1 s2 s3 s4
  have h1 : R s1 = R s := hR.of_outside (by simp [s1])
  have h2 : R s2 = R s1 := by
    simp only [s2]
    split
    · rfl
    · exact hR.restore r s1
  rw [← h1, ← h2]
  refine hR.of_outside ?_
  simp only [s4, s3]
  split <;> split <;> simp

theorem Uncal.calAbortIf (reason : Nat) (p : CalRun → Bool) (s : State) : R (s.calAbortIf reason p) = R s := by
  refine forAll_reads (r := R) (fun r s => ?_) _ s
  unfold State.calAbort
  extract_lets s1
  refine (hR.calEnd _ _ _ _ s1).trans (hR.of_outside ?_)
  simp only [s1]
  split <;> simp

theorem Uncal.weltLost (k : Nat) (s : State) : R (s.weltLost k) = R s := by
  unfold State.weltLost
  extract_lets u s1 s2
  refine (hR.calAbortIf _ _ s2).trans (hR.of_outside ?_)
  simp only [s2]
  clear_value u
  cases u with
  | loan c => dsimp only; split <;> simp [s1]
  | takeover c => dsimp only; split <;> simp [s1]
  | _ => simp [s1]

theorem Uncal.retireChan (fault c : Nat) (s : State) : R (s.retireChan fault c) = R s := by
  unfold State.retireChan
  extract_lets x s1 s2 s3 s4 s5
  have h1 : R s1 = R s := by
    simp only [s1]
    split
    · exact hR.weltLost _ s
    · rfl
  rw [← h1]
  clear_value s1
  split
  · exact hR.frame _ _ rfl rfl |>.trans h1.symm
  · split
    · refine (hR.of_outside (by simp)).trans ((forAll_reads (r := R) (fun r s => hR.calEnd r false 0x12 0 s) (s2.cal.runs.filter (·.ofChan c)) s2).trans (hR.of_outside (by simp [s2])))
    · refine (hR.of_outside (s := s5) (by simp)).trans (Eq.trans ?_ (hR.calAbortIf 0x12 (·.ofChan c) s1))
      refine hR.of_outside ?_
      simp only [s5, s4, s3]
      split
      · rfl
      · split <;> simp

theorem Uncal.retireStamping (k : Nat) (s : State) : R (s.retireStamping k) = R s := by
  unfold State.retireStamping
  extract_lets s1 s2
  refine (hR.of_outside (s := s2) (by simp)).trans ((hR.calAbortIf _ _ s1).trans (hR.of_outside ?_))
  simp only [s1]
  refine forAll_reads (r := State.outside (allBut [.cores, .dlls])) (fun c s => ?_) _ s
  split <;> simp

end

/-! ## Settlement -/

theorem State.commit_mem (h : Option Hdr) (cmd : Nat) (c : Change) (s : State) : ∃ r ∈ (s.commit h cmd c).store.q, r.ch = c :=
  ⟨_, List.mem_append_right _ (List.mem_singleton_self _), rfl⟩

theorem State.retireStamping_queued (k : Nat) (s : State) : ∃ r ∈ (s.retireStamping k).store.q, r.ch = .retire kindStamp k 11 :=
  State.commit_mem _ _ _ _

section
variable (i : Nat) (r : Rec) (s : State)

/-- Record `r` leaves core `i`, and its number is spent. -/
def State.numbered : State :=
  (s.modCore i fun k => { k with held := k.held.drop 1, lastTxm := if r.src % 4 = 2 then none else k.lastTxm }).modSrc r.src
    fun y => { y with seq := (y.seq + 1) % 4096 }

theorem State.numbered_seq : ((s.numbered i r).src r.src).seq = ((s.src r.src).seq + 1) % 4096 := congrArg SrcS.seq (State.modSrc_src _ _ _)
theorem State.numbered_held : ((s.numbered i r).core i).held = (s.core i).held.drop 1 := by
  rw [State.numbered, State.modSrc_core, State.modCore_core]

end

/-- Settles O22: a record that a core gives up, and what the DLLs and the tapped lines report. -/
theorem stampNumbersAndCoreFaults : Obligations.StampNumbersAndCoreFaults := by
  refine ⟨⟨?_, ?_⟩, ?_, ?_, ?_, ?_, ?_, ?_⟩
  · intro i r s hn ⟨hc, hw⟩ hp hf hl
    have hexec : exec (.stampRecordWrite 8) s = execStampRecordWrite 8 s := rfl
    unfold execStampRecordWrite at hexec
    extract_lets x n at hexec
    have hn' : s.nextCore (8 : Fin 9) (if (8 : Fin 9).val < 8 then (s.oct (8 : Fin 9)).rr else s.devq.rr) = some (i, r) := hn
    have hx : x = s.devq.xStamp := if_neg (by decide)
    have hlen : n = s.devq.stampQ.length := if_neg (by decide)
    have hfree : ¬ ((!s.converted r) = true ∨ x.present = true ∧ (x.full = true ∨ stampDepth ≤ n)) := by
      rintro (h | ⟨-, h | h⟩)
      · rw [hc] at h
        cases h
      · rw [hx, hf] at h
        cases h
      · exact Nat.not_le.2 hl (hlen ▸ h)
    rw [hn'] at hexec
    dsimp only at hexec
    rw [if_neg hfree, if_neg (by simp [hw])] at hexec
    rw [if_neg (by decide)] at hexec
    refine ⟨_, hexec, ?_⟩
    exact ⟨if_pos hp, s.numbered_seq i r, s.numbered_held i r, rfl⟩
  · intro q i r s hq hn
    have hexec : exec (.stampRecordWrite q) s = execStampRecordWrite q s := rfl
    unfold execStampRecordWrite at hexec
    extract_lets x n at hexec
    have hx : x = (s.oct q).xStamp := if_pos hq
    have hl : n = (s.oct q).stampQ.length := if_pos hq
    clear_value x n
    subst hx hl
    rw [if_pos hq, hn] at hexec
    dsimp only at hexec
    refine ⟨fun ⟨hc, hw⟩ hp hf hl => ?_, fun ⟨hc, hw⟩ hp => ?_, fun hc hw hp => ?_, fun h => ?_⟩
    · rw [if_neg (by simp [hc, hf]; intro _; exact hl), if_neg (by simp [hw])] at hexec
      rw [if_pos hq] at hexec
      refine ⟨_, hexec, ?_⟩
      dsimp only
      rw [State.modOct_oct]
      exact ⟨if_pos hp, s.numbered_seq i r, s.numbered_held i r, rfl⟩
    · rw [if_neg (by simp [hc, hp]), if_neg (by simp [hw])] at hexec
      rw [if_pos hq] at hexec
      refine ⟨_, hexec, ?_⟩
      dsimp only
      rw [State.modOct_oct]
      dsimp only
      rw [if_neg (by simp [hp])]
      exact ⟨rfl, s.numbered_seq i r, congrArg Xq.drop (if_neg (by simp [hp]))⟩
    · rw [if_neg (by simp [hc, hp]), if_pos (by simp [hw])] at hexec
      exact hexec
    · rw [if_pos] at hexec
      · exact hexec
      · obtain h | ⟨hp, hf⟩ := h
        · simp [h]
        · simp [hp, hf]
  · intro k w s hon
    exact if_pos hon
  · intro k w s hoff
    exact if_neg (by simp [hoff])
  · intro k s hl
    exact if_pos hl
  · intro k s hon hl hf
    have hexec : exec (.dllFail k) s = execDllFail k s := rfl
    unfold execDllFail at hexec
    extract_lets s1 at hexec
    rw [if_neg (by simp [hon, hl, hf])] at hexec
    have h1 : (s1.dll k).fail = true := congrArg Dll.fail (State.modDll_dll _ _ s)
    split at hexec
    · next hk =>
      refine ⟨_, hexec, ?_⟩
      dsimp only
      rw [if_pos hk, if_pos hk]
      have h2 : ((s1.fault kindStamp k 11).dll k).fail = true := (congrArg Dll.fail (State.dll_of_outside k (by simp))).trans h1
      refine ⟨((uncal_dll (g := Dll.fail) (by intros; rfl) k).retireStamping k _).trans h2, State.retireStamping_queued _ _, ?_⟩
      rw [State.flt_of_outside (s := s1.fault kindStamp k 11) (by simp)]
      exact State.fault_mem _ _ _ s1
    · next hk =>
      refine ⟨_, hexec, ?_⟩
      dsimp only
      rw [if_neg hk, if_neg hk]
      refine ⟨(congrArg Dll.fail (State.dll_of_outside (s := s1) k (by simp))).trans h1, State.commit_mem _ _ _ _, ?_⟩
      exact State.fault_mem _ _ _ s1
  · intro k s h
    refine if_pos ?_
    obtain h | h := h <;> simp [h]
  · intro core s hon hl hf
    have hexec : exec (.lineFail core) s = execLineFail core s := rfl
    unfold execLineFail at hexec
    extract_lets x s1 s2 at hexec
    rw [if_neg (by simp only [x]; simp [hon, hl, hf])] at hexec
    have h2 : (s2.core core).fail = true ∧ (s2.core core).held = [] := by
      simp only [s2]
      rw [State.modCore_core]
      exact ⟨rfl, rfl⟩
    split at hexec
    · refine ⟨_, hexec, ?_⟩
      have h3 (t : State) : ((t.retireChan 10 (core.val / 2)).core core).fail = (t.core core).fail ∧
          ((t.retireChan 10 (core.val / 2)).core core).held = (t.core core).held :=
        ⟨(uncal_core (g := Core.fail) (by intros; rfl) core).retireChan _ _ t, (uncal_core (g := Core.held) (by intros; rfl) core).retireChan _ _ t⟩
      dsimp only
      rw [(h3 _).1, (h3 _).2, State.core_of_outside (s := s2) core (by simp)]
      exact h2
    · refine ⟨_, hexec, ?_⟩
      dsimp only
      rw [State.core_of_outside (s := s2) core (by simp)]
      exact h2

end Sys2Proof.Machine
end

section
/-!
PROOFS. The interval unit (R320 to R331), and streams that a read of a ring opens (R313, R331, R379, R778 to R780).
-/
namespace Sys2Proof.Machine
open Sys2Proof

/-! ## Streams -/

/-- Numbered words read back at their numbers, and as 0 beyond. -/
theorem get_numWords (ws : List Nat) (i j : Nat) : (numWords i ws).get 0 (i + j) = BitVec.ofNat 128 (ws.getD j 0) := by
  induction ws generalizing i j with
  | nil => rfl
  | cons w ws ih =>
    rw [numWords, Tab.get]
    cases j with
    | zero => simp
    | succ j =>
      rw [if_neg (by omega), show i + (j + 1) = i + 1 + j by omega, ih]
      simp

/-- The words of a first block: those of the data, filled up with zeros. -/
theorem getD_block (data : List W128) (x i : Nat) (h : i < 15) :
    BitVec.ofNat 128 ((x :: ((data.take 15).map BitVec.toNat ++ List.replicate (15 - (data.take 15).length) 0)).getD (i + 1) 0) = data.getD i 0 := by
  have hlen : ((data.take 15).map BitVec.toNat).length = min 15 data.length := by rw [List.length_map, List.length_take]
  rw [List.getD_cons_succ, List.getD_eq_getElem?_getD, List.getD_eq_getElem?_getD]
  by_cases hi : i < data.length
  · rw [List.getElem?_append_left (by omega), List.getElem?_map, List.getElem?_take_of_lt h, List.getElem?_eq_getElem hi]
    exact (BitVec.ofNat_toNat 128 _).trans (BitVec.setWidth_eq _)
  · rw [List.getElem?_append_right (by omega), List.getElem?_replicate, List.getElem?_eq_none (Nat.le_of_not_lt hi)]
    split <;> rfl

theorem State.openOut_opened {h : Hdr} {bd : Nat} (hd : bd ≠ h.door.val) (cmd : Nat) (data : List W128) (s : State) :
    StreamOpened h cmd bd data (s.openOut h cmd bd data) := by
  refine ⟨State.reply_answered _ _ _ _, ?_⟩
  unfold State.openOut
  rw [State.reply_door_ne hd]
  have hst : ((s.modDoor bd fun d => { d with stream := some ⟨cmd, h.tag, h, false, 0, data, 0, 0, false, 0⟩ }).door bd).stream =
      some ⟨cmd, h.tag, h, false, 0, data, 0, 0, false, 0⟩ := by rw [State.door_modDoor_same]
  unfold State.putBlock
  rw [hst]
  dsimp only
  rw [State.door_modDoor_same]
  refine ⟨rfl, rfl, fun i hi => ?_⟩
  dsimp only
  rw [← Nat.zero_add (i + 1), get_numWords, getD_block _ _ _ hi]

/-- A bulk door without a stream refuses none, and it is not the door of the command. -/
theorem Taken.bulk {h : Hdr} {cmd : Nat} {s : State} (g : Taken h cmd s) {bd : Fin 8} (hb : bd.val = 4 ∨ bd.val = 5) : bd.val ≠ h.door.val := by
  obtain ⟨-, h4, h5, -⟩ := g
  intro e
  obtain hb | hb := hb
  · exact h4 (Fin.ext (e.symm.trans hb))
  · exact h5 (Fin.ext (e.symm.trans hb))

theorem Taken.door_bulk {h : Hdr} {cmd : Nat} {s : State} (g : Taken h cmd s) {bd : Fin 8} (hb : bd.val = 4 ∨ bd.val = 5) :
    (s.taken h).door bd = s.door bd := State.door_modDoor_ne (g.bulk hb) _ _

theorem State.streamErr_none {bd : Nat} {s : State} (hb : bd = 4 ∨ bd = 5) (hs : (s.door bd).stream = none) : s.streamErr bd = none := by
  rw [State.streamErr, if_neg (by omega), if_neg (by simp [hs])]

/-- Settles O24: a bulk door that is free takes the stream, whose first block is placed at once. -/
theorem ringReadsOpenStreams : Obligations.RingReadsOpenStreams := by
  have hnone {h : Hdr} {cmd : Nat} {s : State} (g : Taken h cmd s) {bd : Fin 8} (hb : bd.val = 4 ∨ bd.val = 5) (hs : (s.door bd).stream = none) :
      (s.taken h).streamErr bd = none := State.streamErr_none hb (by rw [g.door_bulk hb]; exact hs)
  refine ⟨?_, ?_, ?_, ?_, ?_⟩
  · intro h bd n s g hb hs
    refine ⟨_, rfl, ?_⟩
    rw [State.viaDoor_taken g, State.opStampRead, hnone g hb hs]
    exact ⟨(State.ring_of_outside (State.openOut_outside _ _ _ _ _ (by simp))).trans rfl, State.openOut_opened (g.bulk hb) _ _ _⟩
  · intro h bd n s g hb hs
    refine ⟨_, rfl, ?_⟩
    rw [State.viaDoor_taken g, State.opIvRead, hnone g hb hs]
    exact ⟨(State.iv_of_outside (State.openOut_outside _ _ _ _ _ (by simp))).trans rfl, State.openOut_opened (g.bulk hb) _ _ _⟩
  · intro h bd n s g hb hs
    refine ⟨_, rfl, ?_⟩
    rw [State.viaDoor_taken g, State.opRgRead, hnone g hb hs]
    exact ⟨(State.rg_of_outside (State.openOut_outside _ _ _ _ _ (by simp))).trans rfl, State.openOut_opened (g.bulk hb) _ _ _⟩
  · intro h bd n s g h4 h5
    change Host.Outcome.next _ = _
    rw [State.viaDoor_taken g, State.opStampRead, State.streamErr, if_pos ⟨h4, h5⟩]
  · intro h bd n s g hb hs
    change Host.Outcome.next _ = _
    rw [State.viaDoor_taken g, State.opStampRead, State.streamErr, if_neg (by omega), if_pos (by rw [g.door_bulk hb]; exact hs)]

/-! ## The interval unit -/

theorem stampDiff_half {a b : Nat} (ha : 2 * a < linMod) (hb : 2 * b < linMod) : stampDiff a b = (a : Int) - b := by
  unfold stampDiff
  simp only [linMod, secU] at *
  omega

theorem takeFirst_none {α : Type} {lt : α → α → Bool} {l : List α} (h : takeFirst lt l = none) : l = [] := by
  cases l with
  | nil => rfl
  | cons x l =>
    rw [takeFirst] at h
    split at h
    · cases h
    · split at h <;> cases h

theorem takeFirst_perm {α : Type} (lt : α → α → Bool) : ∀ {l r : List α} {b : α}, takeFirst lt l = some (b, r) → (b :: r).Perm l
  | [], _, _, h => by simp [takeFirst] at h
  | a :: l, r, b, h => by
    rw [takeFirst] at h
    cases hl : takeFirst lt l with
    | none =>
      simp only [hl, Option.some.injEq, Prod.mk.injEq] at h
      rw [← h.1, ← h.2, takeFirst_none hl]
    | some w =>
      obtain ⟨c, q⟩ := w
      have hp := takeFirst_perm lt hl
      simp only [hl] at h
      split at h
      · simp only [Option.some.injEq, Prod.mk.injEq] at h
        rw [← h.1, ← h.2]
        exact (List.Perm.swap a c q).trans (hp.cons a)
      · simp only [Option.some.injEq, Prod.mk.injEq] at h
        rw [← h.1, ← h.2]

/-- What comes first has the least key, where a record that does not precede another has no lesser key. -/
theorem takeFirst_le {α : Type} {lt : α → α → Bool} {key : α → Nat} {p : α → Prop} (hlt : ∀ a b, p a → p b → lt a b = true → key a ≤ key b)
    (hge : ∀ a b, p a → p b → lt a b = false → key b ≤ key a) :
    ∀ {l r : List α} {b : α}, takeFirst lt l = some (b, r) → (∀ x ∈ l, p x) → ∀ x ∈ l, key b ≤ key x
  | [], _, _, h, _ => by simp [takeFirst] at h
  | a :: l, r, b, h, hp => by
    rw [takeFirst] at h
    cases hl : takeFirst lt l with
    | none =>
      simp only [hl, Option.some.injEq, Prod.mk.injEq] at h
      have hnil : l = [] := takeFirst_none hl
      rw [← h.1, hnil]
      simp
    | some w =>
      obtain ⟨c, q⟩ := w
      have ih := takeFirst_le hlt hge hl (fun x hx => hp x (List.mem_cons_of_mem _ hx))
      have hc : p c := hp c (List.mem_cons_of_mem _ ((takeFirst_perm lt hl).mem_iff.1 (List.mem_cons_self)))
      have ha : p a := hp a List.mem_cons_self
      simp only [hl] at h
      split at h
      · next hca =>
        simp only [Option.some.injEq, Prod.mk.injEq] at h
        obtain ⟨rfl, -⟩ := h
        exact List.forall_mem_cons.2 ⟨hlt _ _ hc ha hca, ih⟩
      · next hca =>
        simp only [Option.some.injEq, Prod.mk.injEq] at h
        obtain ⟨rfl, -⟩ := h
        have hac := hge _ _ hc ha (by simpa using hca)
        exact List.forall_mem_cons.2 ⟨Nat.le_refl _, fun x hx => Nat.le_trans hac (ih x hx)⟩

theorem ivBefore_le {st : Nat} {a b : Rec × Bool} (ha : 2 * a.1.t < linMod) (hb : 2 * b.1.t < linMod) :
    (ivBefore st a b = true → a.1.t ≤ b.1.t) ∧ (ivBefore st a b = false → b.1.t ≤ a.1.t) := by
  rw [ivBefore, stampDiff_half ha hb]
  constructor
  · intro h
    simp only [Bool.or_eq_true, Bool.and_eq_true, decide_eq_true_eq] at h
    omega
  · intro h
    simp only [Bool.or_eq_false_iff, decide_eq_false_iff_not] at h
    omega

theorem fld_mod {lo : Nat} (h : 64 ≤ lo) (w x : Nat) : fld lo w x % 2 ^ 64 = 0 := by
  rw [fld, ← Nat.sub_add_cancel h, Nat.pow_add, ← Nat.mul_assoc]
  exact Nat.mul_mod_left _ _

theorem toBits_lt (w : Nat) (x : Int) : toBits w x < 2 ^ w := by
  unfold toBits
  have := Int.emod_lt_of_pos x (b := (2 ^ w : Nat)) (by exact_mod_cast Nat.two_pow_pos w)
  have h0 := Int.emod_nonneg x (b := (2 ^ w : Nat)) (by exact_mod_cast (Nat.ne_of_gt (Nat.two_pow_pos w)))
  omega

/-- The low 64 bits of a result of two records are the difference of their stamps. -/
theorem ivWord_low (p n : Nat) (sg cfg : Bool) (a b : Rec × Bool) : ivWord p n sg cfg a (some b) % 2 ^ 64 = toBits 64 (stampDiff b.1.t a.1.t) := by
  unfold ivWord
  simp only [Nat.add_mod _ (fld _ _ _), fld_mod (show 64 ≤ 64 by decide), fld_mod (show 64 ≤ 76 by decide), fld_mod (show 64 ≤ 77 by decide),
    fld_mod (show 64 ≤ 78 by decide), fld_mod (show 64 ≤ 79 by decide), fld_mod (show 64 ≤ 80 by decide), fld_mod (show 64 ≤ 81 by decide),
    fld_mod (show 64 ≤ 82 by decide), fld_mod (show 64 ≤ 83 by decide), fld_mod (show 64 ≤ 84 by decide), fld_mod (show 64 ≤ 88 by decide),
    fld_mod (show 64 ≤ 96 by decide), Nat.add_zero, Nat.mod_mod]
  exact Nat.mod_eq_of_lt (toBits_lt 64 _)

theorem Tab.put_put {α : Type} (i : Nat) (x y : α) (t : Tab α) : (t.put i y).put i x = t.put i x := by
  induction t with
  | nil => simp [Tab.put]
  | cons a t ih =>
    obtain ⟨j, z⟩ := a
    by_cases h : i = j
    · simp [Tab.put, h]
    · by_cases h' : i < j
      · simp [Tab.put, h, h']
      · simp [Tab.put, h, h', ih]

section
variable (p : Nat) (s : State)

theorem State.modPair_modPair (f g : Pair → Pair) : (s.modPair p f).modPair p g = s.modPair p (g ∘ f) := by
  simp only [State.modPair, State.modIv, Tab.get_put_same, Tab.put_put, Function.comp]

theorem State.modPair_congr {f g : Pair → Pair} (h : f (s.pair p) = g (s.pair p)) : s.modPair p f = s.modPair p g := by
  have h' : f (s.iv.pairs.get .init p) = g (s.iv.pairs.get .init p) := h
  simp only [State.modPair, State.modIv, h']

theorem State.ivPush_pair (w : W128 × W128) : (s.ivPush w).pair p = s.pair p := by
  unfold State.ivPush
  split
  · rfl
  · split <;> rfl

variable {s}

theorem State.ivPush_ring (w : W128 × W128) (hx : s.devq.xRep.present = true) (hl : s.iv.ring.length < 2048) :
    (s.ivPush w).iv.ring = s.iv.ring ++ [w] := by
  rw [State.ivPush, if_neg (by simp [hx]), if_pos hl]
  rfl

theorem State.ivEmit_pair (a : Rec × Bool) (b : Option (Rec × Bool)) (s : State) :
    (s.ivEmit p a b).pair p = { s.pair p with resN := ((s.pair p).resN + 1) % 65536, cfg := false } := by
  rw [State.ivEmit, State.ivPush_pair, State.modPair_pair]

theorem State.ivEmit_ring (a : Rec × Bool) (b : Option (Rec × Bool)) (hx : s.devq.xRep.present = true) (hl : s.iv.ring.length < 2048) :
    (s.ivEmit p a b).iv.ring =
      s.iv.ring ++ [(a.1.word, BitVec.ofNat 128 (ivWord p (((s.pair p).resN + 1) % 65536) (s.ivMode p = 2) (s.pair p).cfg a b))] :=
  State.ivPush_ring (s := s.modPair p _) _ hx hl

theorem State.ivLate_pair (a : Rec × Bool) (s : State) : (s.ivLate p a).pair p =
    { s.pair p with resN := ((s.pair p).resN + 1) % 65536, cfg := false, timeout := satAdd 32 1 (s.pair p).timeout } := by
  rw [State.ivLate, State.modPair_pair, State.ivEmit_pair]

/-- The record that is due is processed in ORDERED mode. -/
theorem execIvRecordProcess_ordered {p : Fin 16} {r : Rec × Bool} {l : List (Rec × Bool)}
    (hf : takeFirst (ivBefore (s.ivStart p)) (s.pair p).inQ = some (r, l)) (hm : s.ivMode p = 1) (hr : s.reached (linAdd r.1.t us1) = true) :
    exec (.ivRecordProcess p) s = .next ((s.modPair p fun x => { x with inQ := l }).ivOrdered p r) := by
  change execIvRecordProcess p s = _
  rw [execIvRecordProcess, State.ivNext, hf]
  dsimp only
  rw [if_pos hr, State.ivTake]
  have hm' : (s.modPair p fun x => { x with inQ := l }).ivMode p = 1 := hm
  rw [hm']
  rfl

theorem State.ivDrain_nil {p : Nat} (h : (s.pair p).inQ = []) (t : Nat) (incl : Bool) : s.ivDrain p t incl = s := by
  rw [State.ivDrain, h, List.foldl_nil]

end

/-- Settles O23: the oldest record is processed once it is due; what it makes of the pair is read off its result. -/
theorem intervalsPairRecords : Obligations.IntervalsPairRecords := by
  refine ⟨⟨?_, fun p n sg cfg a b => ivWord_low p n sg cfg a b, ?_, ?_, ?_, ?_⟩, ?_⟩
  · intro st l b r h hl
    have hperm := takeFirst_perm _ h
    refine ⟨hperm, fun x hx => ?_⟩
    exact takeFirst_le (key := fun x => x.1.t) (p := fun x => 2 * x.1.t < linMod) (fun a b ha hb => (ivBefore_le ha hb).1)
      (fun a b ha hb => (ivBefore_le ha hb).2) h hl x (hperm.mem_iff.1 (List.mem_cons_of_mem _ hx))
  · intro p r l s hf hm hr
    have hexec := execIvRecordProcess_ordered hf hm hr
    have h0 : (s.modPair p fun x => { x with inQ := l }).pair p = { s.pair p with inQ := l } := State.modPair_pair _ _ s
    unfold State.ivOrdered at hexec
    extract_lets s0 s1 at hexec
    refine ⟨fun hn ha ho => ?_, fun a hs ha ho hd hx hl => ?_, fun hn ha ho => ?_⟩
    · have e0 : s0 = s.modPair p fun x => { x with inQ := l } := by simp only [s0, h0, hn]
      have e1 : s1 = s0 := by
        simp only [s1]
        rw [e0]
        exact if_neg ho
      rw [e1, e0, if_pos (by exact ha), State.modPair_modPair] at hexec
      refine hexec.trans (congrArg _ (State.modPair_congr _ _ ?_))
      simp only [Function.comp, hn]
      rfl
    · have e0 : s0 = s.modPair p fun x => { x with inQ := l } := by
        simp only [s0, h0, hs]
        exact if_neg (Int.not_le.2 hd)
      have e1 : s1 = ((s.modPair p fun x => { x with inQ := l }).ivEmit p a (some r)).modPair p fun x => { x with start := none } := by
        simp only [s1]
        rw [e0, if_pos (by exact ho), h0]
        dsimp only
        rw [hs]
      have e2 : s1.ivStart p = s.ivStart p := by
        rw [e1]
        exact State.pv_of_outside _ (by simp)
      rw [if_neg (by rw [e2]; exact ha), e1] at hexec
      refine ⟨_, hexec, ?_⟩
      dsimp only
      rw [State.modPair_pair, State.ivEmit_pair, h0]
      refine ⟨rfl, rfl, rfl, rfl, ?_⟩
      refine (State.ivEmit_ring p (s := s.modPair p fun x => { x with inQ := l }) a (some r) hx hl).trans ?_
      have hm' : (s.modPair p fun x => { x with inQ := l }).ivMode p = 1 := hm
      rw [hm', h0]
      rfl
    · have e0 : s0 = s.modPair p fun x => { x with inQ := l } := by simp only [s0, h0, hn]
      have e1 : s1 = (s.modPair p fun x => { x with inQ := l }).modPair p fun x => { x with stray := satAdd 32 1 x.stray } := by
        simp only [s1]
        rw [e0, if_pos (by exact ho), h0]
        dsimp only
        rw [hn]
      rw [e1, if_neg (by exact ha), State.modPair_modPair] at hexec
      exact hexec
  · intro p r l s hf hr
    change execIvRecordProcess p s = _
    rw [execIvRecordProcess, State.ivNext, hf]
    dsimp only
    rw [if_neg (by simp [hr])]
  · intro p a s ha hm hr hq hx hl
    have hexec : exec (.ivTimeout p) s = execIvTimeout p s := rfl
    rw [execIvTimeout, ha] at hexec
    dsimp only at hexec
    rw [if_neg (by simp [hm, hr]), State.ivDrain_nil hq, ha] at hexec
    dsimp only at hexec
    rw [if_pos rfl] at hexec
    refine ⟨_, hexec, ?_⟩
    have hmode : decide (s.ivMode p = 2) = false := by simp [hm]
    dsimp only
    rw [State.modPair_pair, State.ivLate_pair, ← hmode]
    exact ⟨rfl, rfl, State.ivEmit_ring p a none hx hl⟩
  · intro p a s ha hr
    change execIvTimeout p s = _
    rw [execIvTimeout, ha]
    dsimp only
    rw [if_pos (by simp [hr])]
  · intro near p x l s hu
    have hexec : exec (.ivSignedDecide p) s = execIvSignedDecide p s := rfl
    rw [execIvSignedDecide, hu] at hexec
    dsimp only at hexec
    refine ⟨fun hm hq hr => ?_, fun hr => by rw [hexec, if_neg (by simp [hr])]⟩
    rw [if_pos hr, State.ivDrain_nil hq, State.ivDecide, hu] at hexec
    dsimp only at hexec
    have hst (f : Pair → Pair) : (s.modPair p f).ivStart p = s.ivStart p := rfl
    have hmode : decide (s.ivMode p = 2) = true := by simp [hm]
    refine ⟨fun y hy hx hl => ?_, fun hy hs => ?_, fun hy hs => ?_⟩ <;> simp only [near] at hy <;> rw [hy] at hexec <;> dsimp only at hexec
    · rw [hst] at hexec
      have h0 : (s.modPair p fun z => { z with und := l.erase y }).pair p = { s.pair p with und := l.erase y } := State.modPair_pair _ _ s
      have hring (a : Rec × Bool) (b : Option (Rec × Bool)) := State.ivEmit_ring p (s := s.modPair p fun z => { z with und := l.erase y }) a b hx hl
      split at hexec
      · next hs =>
        refine ⟨_, hexec, ?_⟩
        dsimp only
        rw [State.ivEmit_pair, hring, h0, if_pos hs, ← hmode]
        exact ⟨rfl, rfl⟩
      · next hs =>
        refine ⟨_, hexec, ?_⟩
        dsimp only
        rw [State.ivEmit_pair, hring, h0, if_neg hs, ← hmode]
        exact ⟨rfl, rfl⟩
    · rw [hst, if_neg hs, State.modPair_modPair] at hexec
      exact hexec
    · rw [hst, if_pos hs] at hexec
      refine ⟨_, hexec, ?_⟩
      dsimp only
      rw [State.ivLate_pair, State.modPair_pair]
      exact ⟨rfl, rfl⟩

end Sys2Proof.Machine
end

section
/-!
PROOFS. Claims of regression slots (R369 to R377), stealing, epochs, and the faults of engines and of their array (R411 to R434, R451, R490).
-/
namespace Sys2Proof.Machine
open Sys2Proof

/-! ## Steps of a fold, each at its own unit -/

section
variable {ι β : Type} {f : ι → State → State} {l : List ι} {a : ι}

/-- What a step establishes for its unit, and every step keeps, the fold establishes for the units of its list. -/
theorem forAll_establishes {Q : ι → State → Prop} (hset : ∀ a s, Q a (f a s)) (hkeep : ∀ a b s, Q a s → Q a (f b s)) (ha : a ∈ l) (s : State) :
    Q a (forAll l f s) := by
  induction l generalizing s with
  | nil => exact absurd ha List.not_mem_nil
  | cons b l ih =>
    obtain rfl | ha := List.mem_cons.1 ha
    · exact forAll_keeps (P := Q a) (fun b s h => hkeep a b s h) l (hset a s)
    · exact ih ha (f b s)

theorem forAll_unit_not_mem {r : State → β} (hr : ∀ b ∈ l, ∀ s, r (f b s) = r s) (s : State) : r (forAll l f s) = r s := by
  induction l generalizing s with
  | nil => rfl
  | cons b l ih => exact (ih (fun c hc => hr c (List.mem_cons_of_mem _ hc)) _).trans (hr b List.mem_cons_self s)

/-- A reading that only the step of unit `a` changes is changed once by a fold over distinct units. -/
theorem forAll_unit {r : State → β} {F : β → β} (hne : ∀ b s, b ≠ a → r (f b s) = r s) (heq : ∀ s, r (f a s) = F (r s)) (hl : l.Nodup) (ha : a ∈ l)
    (s : State) : r (forAll l f s) = F (r s) := by
  induction l generalizing s with
  | nil => exact absurd ha List.not_mem_nil
  | cons b l ih =>
    obtain ⟨hb, hl⟩ := List.nodup_cons.1 hl
    obtain rfl | ha := List.mem_cons.1 ha
    · exact (forAll_unit_not_mem (fun c hc s => hne c s fun e => hb (e ▸ hc)) _).trans (heq s)
    · exact (ih hl ha _).trans (congrArg F (hne b s fun e => hb (e ▸ ha)))

end

theorem mem_upTo {n i : Nat} : i ∈ upTo n ↔ i < n := List.mem_range
theorem upTo_nodup (n : Nat) : (upTo n).Nodup := List.nodup_range

/-! ## Information answers -/

theorem State.modDoor_modDoor (n : Nat) (f g : Door → Door) (s : State) : (s.modDoor n f).modDoor n g = s.modDoor n (g ∘ f) := by
  simp only [State.modDoor, State.modMbox, Tab.get_put_same, Tab.put_put, Function.comp]

theorem State.modDoor_congr {n : Nat} {f g : Door → Door} {s : State} (h : f (s.door n) = g (s.door n)) : s.modDoor n f = s.modDoor n g := by
  have h' : f (s.mbox.doors.get .init n) = g (s.mbox.doors.get .init n) := h
  simp only [State.modDoor, State.modMbox, h']

/-- An answer that follows the message at once changes its door alone. -/
theorem State.reply_only (h : Hdr) (cmd : Nat) (r : Rep) (s : State) : OnlyDoor h.door s ((s.taken h).reply h cmd r) := by
  rw [OnlyDoor, State.reply, State.taken, State.modDoor_modDoor]
  exact State.modDoor_congr (State.door_modDoor_same _ _ _).symm

/-! ## Regression slots -/

/-- Settles O26: the checks of a claim and of a release in their order. -/
theorem regressionClaims : Obligations.RegressionClaims := by
  have hgrant (t : State) (i p : Nat) : ((t.rgGrant i p false).rgSlot i).prio = p ∧ ((t.rgGrant i p false).rgSlot i).internal = false ∧
      ((t.rgGrant i p false).rgSlot i).resN = 0 := by
    rw [State.rgGrant, State.modSlot_rgSlot]
    exact ⟨rfl, rfl, rfl⟩
  refine ⟨?_, ?_, ?_, ?_, ?_, ?_, ?_⟩
  · intro h slot prio s g hi hp hf hn
    refine ⟨_, rfl, ?_⟩
    rw [State.viaDoor_taken g, State.opRgClaim]
    extract_lets i
    have e : i = some slot.val := if_neg (by omega)
    rw [if_neg (by omega), e]
    dsimp only
    have hroom : ¬ (s.taken h).pv P.rgHostMax ≤ (s.taken h).rgHost.length := Nat.not_le.2 hn
    rw [if_neg (by simpa using hf), if_neg hroom]
    exact ⟨State.reply_answered _ _ _ _, hgrant _ _ _⟩
  · intro h slot prio i s g hi hp hfind hn
    refine ⟨_, rfl, ?_⟩
    rw [State.viaDoor_taken g, State.opRgClaim]
    extract_lets j
    have e : j = some i := (if_pos hi).trans hfind
    have hf : (s.rgSlot i).prio = 0 := by simpa using List.find?_some hfind
    rw [if_neg (by omega), e]
    dsimp only
    have hroom : ¬ (s.taken h).pv P.rgHostMax ≤ (s.taken h).rgHost.length := Nat.not_le.2 hn
    rw [if_neg (by simpa using hf), if_neg hroom]
    obtain ⟨h1, h2, -⟩ := hgrant (s.taken h) i prio
    exact ⟨State.reply_answered _ _ _ _, h1, h2⟩
  · intro h slot prio s g hi hp hf
    change Host.Outcome.next _ = _
    rw [State.viaDoor_taken g, State.opRgClaim]
    extract_lets i
    have e : i = some slot.val := if_neg (by omega)
    rw [if_neg (by omega), e]
    dsimp only
    rw [if_pos (by simpa using hf)]
    rfl
  · intro h i s g hp hint
    refine ⟨_, rfl, ?_⟩
    rw [State.viaDoor_taken g, State.opRgRelease, if_neg (by simp [hp, hint])]
    have hs : (((s.taken h).rgFree i).rgSlot i).prio = 0 ∧ (((s.taken h).rgFree i).rgSlot i).armed = false := by
      rw [State.rgFree, State.modSlot_rgSlot]
      exact ⟨rfl, rfl⟩
    refine ⟨State.reply_answered _ _ _ _, ?_⟩
    rw [State.rgSlot_of_outside (s := (s.taken h).rgFree i) i (by simp)]
    exact hs
  · intro h i s g hx
    change Host.Outcome.next _ = _
    rw [State.viaDoor_taken g, State.opRgRelease, if_pos (by simpa using hx)]
    rfl
  · intro h i s g
    refine ⟨_, rfl, ?_⟩
    rw [State.viaDoor_taken g, State.opRgStatus, State.taken_rgSlot, State.taken_rg]
    exact ⟨State.reply_only _ _ _ _, State.reply_answered _ _ _ _⟩
  · intro h p s g
    refine ⟨_, rfl, ?_⟩
    rw [State.viaDoor_taken g, State.opIvStatus, State.taken_pair, State.taken_iv]
    exact ⟨State.reply_only _ _ _ _, State.reply_answered _ _ _ _⟩

/-! ## Stealing and epochs -/

/-- Settles O28: an idle engine holds no job that it might claim of itself, so the victim is another. -/
theorem stealingMovesJobs : Obligations.StealingMovesJobs := by
  refine ⟨?_, ?_, ?_⟩
  · intro t v j l s hen hready hidle hv hpeer hq hj hc hts
    have hne : t.val ≠ v.val := by
      intro e
      simp only [State.idleEng, e, hq, List.any_cons, hj] at hidle
      simp at hidle
    have hexec : exec (.stealClaim t v) s = execStealClaim t v s := rfl
    unfold execStealClaim at hexec
    extract_lets inOct okPeer free at hexec
    have hok : okPeer = true := by
      simp only [okPeer, inOct, Bool.or_eq_true, Bool.and_eq_true, decide_eq_true_eq]
      obtain ⟨h1, h2, h3⟩ | h := hpeer
      · exact .inl ⟨⟨h1, by simpa using h2⟩, h3⟩
      · exact .inr h
    have hfree : free j = true := by
      simp only [free]
      split
      · next c e => simp [hc c e]
      · next e => simp [hts e]
    rw [if_neg (by simp [hen, hready, hidle, hv, hok]), hq, pickJob, if_pos (by simp [hj, hfree])] at hexec
    dsimp only at hexec
    have hfin (w : State) (hw : ∀ {α : Type} {r : Eng → α}, (∀ g c, r { g with cache := c } = r g) → ∀ i, r (w.eng i) =
        r ((s.modEng v fun g => { g with q := l, fromN := satAdd 32 1 g.fromN }).eng i)) (f : Nat → Nat) :
        ((w.modEng t fun g => { g with fetch := some j, byN := satAdd 32 1 g.byN, xbyN := f g.xbyN }).eng t).fetch = some j ∧
        ((w.modEng t fun g => { g with fetch := some j, byN := satAdd 32 1 g.byN, xbyN := f g.xbyN }).eng v).q = l ∧
        ((w.modEng t fun g => { g with fetch := some j, byN := satAdd 32 1 g.byN, xbyN := f g.xbyN }).eng v).fromN = satAdd 32 1 (s.eng v).fromN ∧
        ((w.modEng t fun g => { g with fetch := some j, byN := satAdd 32 1 g.byN, xbyN := f g.xbyN }).eng t).byN = satAdd 32 1 (s.eng t).byN := by
      rw [State.modEng_eng, State.modEng_eng_ne _ _ _ _ hne.symm]
      dsimp only
      rw [hw (r := Eng.q) (by intros; rfl), hw (r := Eng.fromN) (by intros; rfl), hw (r := Eng.byN) (by intros; rfl), State.modEng_eng,
        State.modEng_eng_ne _ _ _ _ hne]
      exact ⟨rfl, rfl, rfl, rfl⟩
    cases hjc : j.chan with
    | some c =>
      rw [hjc] at hexec
      exact ⟨_, hexec, hfin _ (fun hr i => State.takeLease_reads hr t c i _) fun n => if inOct = true then n else satAdd 32 1 n⟩
    | none =>
      rw [hjc] at hexec
      exact ⟨_, hexec, hfin _ (fun hr i => State.takeTsLease_reads hr t i _) fun n => if inOct = true then n else satAdd 32 1 n⟩
  · intro t v s hen
    change execStealClaim t v s = _
    unfold execStealClaim
    extract_lets
    rw [if_pos (.inl hen)]
  · intro e j s hf
    change execCsmFetchDone e s = _
    rw [execCsmFetchDone, hf]

/-- Engines kept out take homes again, unless retired (R427). -/
def epochOuts (s : State) : State :=
  forAll (upTo 32) (fun e s => if (s.eng e).retired then s else s.modEng e fun g => { g with out := false }) s

/-- A new seed raises event 12 of every octant. -/
def epochRaise (s : State) : State := forAll (upTo 8) (fun k s => s.modOct k fun o => { o with engEv := o.engEv.raise 12 }) s

theorem epochOuts_out {e : Nat} (he : e < 32) {s : State} (hr : (s.eng e).retired = false) : ((epochOuts s).eng e).out = false := by
  have h := forAll_unit (f := fun e s => if (s.eng e).retired then s else s.modEng e fun g => { g with out := false })
    (r := fun s : State => ((s.eng e).retired, (s.eng e).out)) (F := fun p => if p.1 then p else (p.1, false)) (a := e) (l := upTo 32)
    (fun b s hb => by
      split
      · rfl
      · rw [State.modEng_eng_ne _ _ _ _ hb.symm])
    (fun s => by
      cases hs : (s.eng e).retired
      · simp [hs]
      · simp [hs])
    (upTo_nodup 32) (mem_upTo.2 he) s
  simp only [hr, Bool.false_eq_true, if_false, Prod.mk.injEq] at h
  exact h.2

theorem epochRaise_engEv {k : Nat} (hk : k < 8) (s : State) : ((epochRaise s).oct k).engEv = (s.oct k).engEv.raise 12 := by
  have h := forAll_unit (f := fun k s => s.modOct k fun o => { o with engEv := o.engEv.raise 12 }) (r := fun s : State => (s.oct k).engEv)
    (F := fun v => v.raise 12) (a := k) (l := upTo 8) (fun b s hb => by rw [State.modOct_oct_ne _ _ _ _ hb.symm])
    (fun s => congrArg Oct.engEv (State.modOct_oct k _ s)) (upTo_nodup 8) (mem_upTo.2 hk) s
  exact h

@[simp] theorem epochOuts_outside {ps : List Part} (s : State) (h : Part.engs ∈ ps) : (epochOuts s).outside ps = s.outside ps := by
  refine forAll_outside _ _ _ fun e s => ?_
  split
  · rfl
  · exact State.modEng_outside _ _ _ h

@[simp] theorem epochRaise_outside {ps : List Part} (s : State) (h : Part.octs ∈ ps) : (epochRaise s).outside ps = s.outside ps :=
  forAll_outside _ _ _ fun _ _ => State.modOct_outside _ _ _ h

/-- Settles O29: the checks of ENG_EPOCH, and what an epoch whose second has come leaves of each engine and octant. -/
theorem hashEpochs : Obligations.HashEpochs := by
  refine ⟨?_, ?_, ?_, ?_, ?_, ?_, ?_⟩
  · intro e seed s hs
    have hexec : exec (.skew e true seed) s = execSkew e true seed s := rfl
    unfold execSkew at hexec
    extract_lets shed s1 w s2 at hexec
    rw [if_neg (by simpa using hs)] at hexec
    refine ⟨_, hexec, ?_⟩
    dsimp only
    rw [State.oct_of_outside (s := s1) (e.val / 4) (by split <;> simp [s2])]
    simp only [s1, State.engEv, State.modOct_oct]
    exact ⟨trivial, trivial⟩
  · intro e long seed s h
    change execSkew e long seed s = _
    unfold execSkew
    extract_lets shed
    rw [if_pos (by simpa using h)]
  · intro h seed x s g hst hx
    refine ⟨_, rfl, ?_⟩
    have hx' : ¬ (s.taken h).epochSec x.toNat * secU < (s.taken h).now + 2 * secU := Nat.not_lt.2 hx
    rw [State.viaDoor_taken g, State.opEngEpoch, if_neg (by simpa using hst), if_neg hx']
    exact State.commit_queued _ _ _ _
  · intro h seed x s g hst hx
    change Host.Outcome.next _ = _
    rw [State.viaDoor_taken g, State.opEngEpoch, if_neg (by simpa using hst), if_pos (by exact hx)]
  · intro h seed x s g hst
    change Host.Outcome.next _ = _
    rw [State.viaDoor_taken g, State.opEngEpoch, if_pos (by simpa using hst)]
  · intro seed x s he hx
    change execEpoch s = _
    rw [execEpoch, he]
    dsimp only
    rw [if_pos hx]
  · intro seed x s he hx
    have heq : execEpoch s = .next (epochRaise (epochOuts (s.modArr fun a => { a with seed := seed, epoch := none }))) := by
      rw [execEpoch, he]
      exact if_neg (Nat.not_lt.2 hx)
    refine ⟨_, heq, ?_⟩
    dsimp only
    generalize hs1 : s.modArr (fun a => { a with seed := seed, epoch := none }) = s1
    have harr : s1.arr.seed = seed ∧ s1.arr.epoch = none := by rw [← hs1]; exact ⟨rfl, rfl⟩
    have heng (e : Nat) : s1.eng e = s.eng e := by rw [← hs1]; rfl
    have hoct (k : Nat) : s1.oct k = s.oct k := by rw [← hs1]; rfl
    have hev : (epochRaise (epochOuts s1)).arr = s1.arr := State.arr_of_outside (by simp)
    refine ⟨by rw [hev]; exact harr.1, by rw [hev]; exact harr.2, fun e he hr => ?_, fun k hk => ?_⟩
    · rw [State.eng_of_outside (s := epochOuts s1) e (by simp)]
      exact epochOuts_out he (by rw [heng]; exact hr)
    · rw [epochRaise_engEv hk, State.oct_of_outside (s := s1) k (by simp), hoct]

end Sys2Proof.Machine
end

section
/-!
PROOFS. Parity, retirement of engines, loss and rebuilding of their array (R428 to R431, R434, R451, R490).
-/
namespace Sys2Proof.Machine
open Sys2Proof

/-! ## Settle work given up -/

theorem State.now_of {s t : State} (hst : t.ts.st = .stopped ↔ s.ts.st = .stopped) (hd : t.ts.dts = s.ts.dts) : t.now = s.now := by
  rw [State.now, State.now, hd]
  exact ite_congr (propext hst) (fun _ => rfl) fun _ => rfl

theorem State.dropSettle_now (w : Settle) (s : State) : (s.dropSettle w).now = s.now := by
  cases w with
  | chan c cost b =>
    refine State.now_of_outside ?_
    simp only [State.dropSettle]
    split <;> simp
  | ts cost b =>
    refine State.now_of ?_ rfl
    simp only [State.dropSettle, State.modTs_ts]
    split
    · next h =>
      obtain ⟨h1, h2⟩ := h
      constructor
      · intro e; rw [e] at h1; simp at h1
      · intro e; rw [e] at h2; simp at h2
    · rfl

theorem State.release_now (e : Nat) (c : Option Nat) (s : State) : (s.release e c).now = s.now := by
  cases c with
  | some c =>
    refine State.now_of_outside ?_
    simp only [State.release]
    split <;> simp
  | none =>
    simp only [State.release]
    split
    · rfl
    · exact State.now_of Iff.rfl rfl

theorem State.dropSettles_now (e : Nat) (p : Settle → Bool) (s : State) : (s.dropSettles e p).now = s.now := by
  unfold State.dropSettles
  extract_lets l s1 s2
  refine (forAll_reads (r := State.now) (fun w s => State.release_now e w.chan' s) l s2).trans ?_
  have h2 : s2.now = s1.now := State.now_of_outside (by simp [s2])
  exact h2.trans (forAll_reads (r := State.now) (fun w s => State.dropSettle_now w s) _ s)

/-- Of the engines, only the settle work of `e` changes. -/
theorem State.dropSettles_engs (e : Nat) (p : Settle → Bool) (s : State) :
    (s.dropSettles e p).engs = (s.modEng e fun g => { g with settle := g.settle.filter fun w => !p w }).engs := by
  unfold State.dropSettles
  extract_lets l s1 s2
  have h1 : s1.engs = s.engs := State.engs_of_outside (by simp [s1])
  refine (State.engs_of_outside (s := s2) (by simp)).trans ?_
  simp only [s2, State.modEng_engs, State.eng, h1]

theorem State.dropSettles_eng (e : Nat) (p : Settle → Bool) (s : State) :
    (s.dropSettles e p).eng e = { s.eng e with settle := (s.eng e).settle.filter fun w => !p w } := by
  rw [State.eng, State.dropSettles_engs]
  exact State.modEng_eng e _ s

/-! ## Retirement of an engine -/

theorem State.leastBusy_mem {s : State} {l : List Nat} {d : Nat} (h : s.leastBusy l = some d) : d ∈ l := by
  have key (l : List Nat) (b : Option Nat) : ∀ d, l.foldl (fun b e => match b with
      | none => some e
      | some d => if (s.eng e).q.length < (s.eng d).q.length then some e else some d) b = some d → d ∈ l ∨ b = some d := by
    induction l generalizing b with
    | nil => exact fun d h => .inr h
    | cons x l ih =>
      intro d h
      rw [List.foldl_cons] at h
      obtain h | h := ih _ d h
      · exact .inl (List.mem_cons_of_mem _ h)
      · cases b with
        | none => exact .inl (by simp at h; simp [h])
        | some c =>
          dsimp only at h
          split at h
          · exact .inl (by simp at h; simp [h])
          · exact .inr h
  obtain h | h := key l none d h
  · exact h
  · cases h

theorem State.liveEngs_out {s : State} {k d : Nat} (h : d ∈ s.liveEngs k) : (s.eng d).out = false := by
  simpa using (List.mem_filter.1 h).2

/-- No home is an engine that is kept out. -/
theorem State.homeOf_out {s : State} {c d : Nat} (h : s.homeOf c = some d) : (s.eng d).out = false := by
  unfold State.homeOf at h
  split at h
  · unfold State.homeUser at h
    extract_lets e a at h
    split at h
    · next ho =>
      obtain rfl := Option.some.inj h
      simpa using ho
    · split at h
      · cases h
      · exact State.liveEngs_out (List.mem_of_getElem? h)
  · exact State.liveEngs_out (State.leastBusy_mem h)

theorem State.homeTs_out {s : State} {d : Nat} (h : s.homeTs = some d) : (s.eng d).out = false :=
  State.liveEngs_out (State.leastBusy_mem h)

theorem State.enqueue_eng_ne {e d : Nat} (h : e ≠ d) (j : Job) (s : State) : (s.enqueue d j).eng e = s.eng e := by
  unfold State.enqueue
  split
  · exact State.modEng_eng_ne _ _ _ _ h
  · exact State.eng_of_outside e (by simp)

/-- Dispatching leaves an engine that is kept out alone. -/
theorem State.dispatch_eng_out {e : Nat} {s : State} (h : (s.eng e).out = true) (c : Nat) (j : Job) : (s.dispatch c j).eng e = s.eng e := by
  unfold State.dispatch
  split
  · next d hd =>
    refine State.enqueue_eng_ne (fun he => ?_) j s
    rw [he, State.homeOf_out hd] at h
    exact Bool.false_ne_true h
  · exact State.eng_of_outside e (by simp)

theorem State.dispatchTs_eng_out {e : Nat} {s : State} (h : (s.eng e).out = true) (j : Job) : (s.dispatchTs j).eng e = s.eng e := by
  unfold State.dispatchTs
  split
  · next d hd =>
    refine State.enqueue_eng_ne (fun he => ?_) j s
    rw [he, State.homeTs_out hd] at h
    exact Bool.false_ne_true h
  · rfl

/-- A job that starts leaves its engine without it. -/
theorem State.startJob_state {e : Nat} {p : Job → Bool} {s u : State} {j : Job} {pre : List Job} (h : s.startJob e p = some (j, pre, u)) :
    ∃ r q, u = s.modEng e fun g => { g with ready := r, q := q } := by
  unfold State.startJob at h
  extract_lets g at h
  split at h
  · cases h
  · split at h
    · split at h
      · obtain ⟨-, -, rfl⟩ := by simpa using h
        exact ⟨none, g.q, rfl⟩
      · cases h
    · split at h
      · obtain ⟨-, -, rfl⟩ := by simpa using h
        exact ⟨g.ready, _, rfl⟩
      · cases h

theorem testBit_setBit (x i : Nat) (b : Bool) : (setBit x i b).testBit i = b := by
  unfold setBit
  split
  · assumption
  · next h =>
    cases b with
    | true =>
      rw [if_pos rfl, Nat.add_comm, Nat.testBit_two_pow_add_eq]
      simpa using h
    | false =>
      have hx : x.testBit i = true := by simpa using h
      have hle := Nat.ge_two_pow_of_testBit hx
      have hb := Nat.testBit_two_pow_add_eq (x - 2 ^ i) i
      rw [Nat.add_sub_cancel' hle, hx] at hb
      simpa using hb.symm

/-! ## What entries to BYPASS leave of the power state -/

section
variable {α : Type} {r : PwrS → α} (hr : ∀ p m e, r { p with mode := m, ev := e } = r p)
include hr

theorem State.setMode_pwr (m : Mode) (s : State) : r (s.setMode m).pwr = r s.pwr := by
  unfold State.setMode
  split
  · rfl
  · exact hr s.pwr m _

theorem State.tsCoast_pwr (byRef forced : Bool) (s : State) : r (s.tsCoast byRef forced).pwr = r s.pwr := by
  unfold State.tsCoast
  extract_lets s1 s2 s3
  have h3 : s3.pwr = s.pwr := State.pwr_of_outside (by simp [s3, s2, s1])
  rw [← h3]
  split
  · exact State.setMode_pwr hr _ s3
  · rfl

theorem State.bndGone_pwr (c : Nat) (s : State) : r (s.bndGone c).pwr = r s.pwr :=
  State.bndGone_keeps (P := fun t => r t.pwr = r s.pwr) id (fun {t} h => by
    unfold State.tsUpLost
    split
    · exact (State.tsCoast_pwr hr _ _ t).trans h
    · exact h) c rfl

theorem State.enterBypass_pwr (cause : BypCause) (c : Nat) (s : State) : r (s.enterBypass cause c).pwr = r s.pwr := by
  unfold State.enterBypass
  extract_lets x k safety s1 s2 s3 s4 s5
  have h2 : s2.pwr = s.pwr := State.pwr_of_outside (by simp only [s2, s1, ite_outside]; simp)
  have h3 : s3.pwr = s.pwr := by
    rw [← h2]
    refine State.pwr_of_outside ?_
    simp only [s3]
    repeat' split
    all_goals simp
  have h5 : s5.pwr = s.pwr := by
    rw [← h3]
    exact State.pwr_of_outside (by simp [s5, s4])
  refine (State.bndGone_pwr hr c _).trans (congrArg r ?_)
  rw [← h5]
  split
  · exact State.pwr_of_outside (by simp)
  · rfl

theorem State.devBypass_pwr (hb : ∀ p c f, r { p with bypCause := c, bypFrom := f } = r p) (cause : Nat) (s : State) :
    r (s.devBypass cause).pwr = r s.pwr := by
  unfold State.devBypass
  extract_lets s1 s2 s3 s4 s5
  have h1 : s1.pwr = s.pwr := State.pwr_of_outside (by simp [s1])
  have h2 : r s2.pwr = r s1.pwr := by
    refine forAll_reads (r := fun s : State => r s.pwr) (fun c s => ?_) _ s1
    split
    · exact State.enterBypass_pwr hr _ _ s
    · rfl
  have h3 : s3.pwr = s2.pwr := State.pwr_of_outside (by simp [s3])
  have h5 : s5.pwr = s4.pwr := by
    simp only [s5]
    split
    · exact State.pwr_of_outside (by simp)
    · rfl
  rw [State.setMode_pwr hr, h5, ← h1, ← h2, ← h3]
  exact hb _ _ _

end

/-- A reset of PD_ENG empties every engine. -/
theorem State.engClear_eng {e : Nat} {s : State} (he : e < 32) : (s.engClear.eng e).q = [] ∧ (s.engClear.eng e).settle = [] := by
  unfold State.engClear
  extract_lets s1 s2 s3 s4 s5 s6 s7 lost s8
  have h2 : (s2.eng e).q = [] ∧ (s2.eng e).settle = [] := by
    have h := forAll_establishes (f := fun e s => (s.dropSettles e fun _ => true).modEng e fun g => { g with q := [], fetch := none, ready := none, cache := [] })
      (Q := fun e s => (s.eng e).q = [] ∧ (s.eng e).settle = []) (l := upTo 32) (a := e) (fun a s => by
        rw [State.modEng_eng, State.dropSettles_eng]
        simp) (fun a b s h => by
        by_cases hab : a = b
        · rw [hab, State.modEng_eng, State.dropSettles_eng]
          simp
        · rw [State.modEng_eng_ne _ _ _ _ hab, State.eng, State.dropSettles_engs]
          have := State.modEng_eng_ne b (fun g => { g with settle := g.settle.filter fun w => !(fun _ => true) w }) s a hab
          rw [State.eng] at this
          rw [this]
          exact h) (mem_upTo.2 he) s1
    exact h
  have h8 : s8.eng e = s2.eng e := State.eng_of_outside e (by simp [s8, s7, s6, s5, s4, s3])
  rw [State.eng_of_outside (s := s8) e (by simp), h8]
  exact h2

theorem State.tsQualified_runs {s : State} (h : s.ts.st ≠ .stopped) : s.tsQualified.ts.st ≠ .stopped := by
  unfold State.tsQualified
  split
  · exact h
  · split
    · rw [State.tsAcquire_ts]
      split <;> exact TsState.noConfusion
    · exact h
    · exact h

/-! ## Settlement -/

/-- Settles O31: what parity, retirement and the loss of the array leave of an engine, which no later dispatch reaches. -/
theorem engineFaultsAndArrayLoss : Obligations.EngineFaultsAndArrayLoss := by
  refine ⟨⟨?_, ?_, ?_, ?_⟩, ?_, ?_, ?_, ?_, ?_⟩
  · intro e b s hr
    have hexec : exec (.parity e b) s = execParity e b s := rfl
    unfold execParity at hexec
    extract_lets s1 t s2 at hexec
    rw [if_neg (by simp [hr])] at hexec
    refine ⟨_, hexec, ?_⟩
    have h1 : (s1.eng e).parN = (s.eng e).parN ∧ s1.now = s.now ∧ s1.octs = s.octs ∧
        ∀ w l, b = true → (s.eng e).settle = w :: l → (s1.eng e).settle = l.filter (·.chan' ≠ w.chan') := by
      simp only [s1]
      split
      · split
        · next w l hw =>
          rw [State.dropSettles_eng]
          refine ⟨rfl, State.dropSettles_now _ _ _, State.octs_of_outside (by simp), fun v m _ hm => ?_⟩
          obtain ⟨rfl, rfl⟩ := List.cons.inj (hw.symm.trans hm)
          simp only [hw]
          rw [List.filter_cons_of_neg (by simp)]
          exact congrArg (List.filter · l) (by funext v; simp)
        · next hw => exact ⟨rfl, rfl, rfl, fun v m _ hm => absurd (hw.symm.trans hm) (by simp)⟩
      · next hb =>
        split
        · next j pre u hj =>
          obtain ⟨rd, q, rfl⟩ := State.startJob_state hj
          refine ⟨?_, ?_, ?_, fun _ _ h => absurd h hb⟩
          · rw [State.eng_of_outside (s := s.modEng e fun g => { g with ready := rd, q := q }) e (by simp), State.modEng_eng]
          · exact (State.release_now _ _ _).trans (State.now_of_outside (by simp))
          · exact State.octs_of_outside (by simp)
        · exact ⟨rfl, rfl, rfl, fun _ _ h => absurd h hb⟩
    clear_value s1
    obtain ⟨hpar, hnow, hocts, hsettle⟩ := h1
    have h2 : s2.eng e = { s1.eng e with parN := satAdd 32 1 (s1.eng e).parN, parT := ((s1.eng e).parT.filter fun x => x ≤ t && t - x ≤ 10 * secU) ++ [t] } :=
      State.modEng_eng _ _ _
    have he : ((s2.engEv e 10).fault kindEng e 5).eng e = s2.eng e := State.eng_of_outside e (by simp)
    have hn : (s2.engEv e 10).now = s.now := (State.now_of_outside (s := s1) (by simp [s2])).trans hnow
    dsimp only
    rw [he, h2, State.oct_of_outside (s := s2.engEv e 10) (e.val / 4) (by simp), State.engEv, State.modOct_oct]
    refine ⟨congrArg (satAdd 32 1) hpar, ?_, ?_, hsettle⟩
    · have ho : s2.oct (e.val / 4) = s.oct (e.val / 4) := by rw [State.oct, State.oct, ← hocts]; rfl
      rw [ho]
    · rw [← hn]
      exact State.fault_mem _ _ _ _
  · intro e b s hr
    exact if_pos hr
  · intro e stuck s hr hs
    have hexec : exec (.engineRetire e stuck) s = execEngineRetire e stuck s := rfl
    unfold execEngineRetire at hexec
    extract_lets g drops s1 s2 s3 s4 s5 s6 s7 s8 at hexec
    rw [if_neg (by simp only [g, hr]; obtain h | h := hs <;> simp [h])] at hexec
    refine ⟨_, hexec, ?_⟩
    have h3 : s3.engs = s1.engs := by
      refine (forAll_reads (r := State.engs) (fun j s => ?_) _ s2).trans (forAll_reads (r := State.engs) (fun c s => ?_) _ s1)
      · split <;> rfl
      · exact State.engs_of_outside (by simp)
    have h4 : (s4.eng e).retired = true ∧ (s4.eng e).out = true ∧ (s4.eng e).q = [] ∧ (s4.eng e).settle = [] ∧ (s4.eng e).fetch = none := by
      simp only [s4, State.modEng_eng]
      refine ⟨trivial, trivial, trivial, ?_, trivial⟩
      rw [State.eng, h3]
      have : s1.eng e = _ := State.dropSettles_eng _ _ _
      refine (congrArg Eng.settle this).trans ?_
      simp
    have h5 : s5.eng e = s4.eng e := by
      refine forAll_keeps (P := fun t => t.eng e = s4.eng e) (fun j t ht => ?_) _ rfl
      have ho : (t.eng e).out = true := by rw [ht]; exact h4.2.1
      split
      · exact (State.dispatch_eng_out ho _ _).trans ht
      · exact (State.dispatchTs_eng_out ho _).trans ht
    have h8 : s8.eng e = s5.eng e := State.eng_of_outside e (by simp only [s8, s7, s6]; split <;> simp)
    have hfin : (if s8.liveEngs (e / 4) = [] then s8.octBypass .loop (e / 4) else s8).outside (allBut [.engs]) = s8.outside (allBut [.engs]) ∧
        (if s8.liveEngs (e / 4) = [] then s8.octBypass .loop (e / 4) else s8).outside (allBut [.store, .flash]) = s8.outside (allBut [.store, .flash]) := by
      split <;> simp
    dsimp only
    rw [State.eng_of_outside e hfin.1, State.store_of_outside hfin.2, h8, h5]
    obtain ⟨a1, a2, a3, a4, a5⟩ := h4
    exact ⟨a1, a2, a3, a4, a5, State.commit_mem _ _ _ _⟩
  · intro e s h
    change execEngineRetire e false s = _
    unfold execEngineRetire
    extract_lets
    rw [if_pos]
    exact .inr (by simpa using h)
  · intro s hon hl
    have hexec : exec .engineArrayLost s = execEngineArrayLost s := rfl
    unfold execEngineArrayLost at hexec
    extract_lets s1 at hexec
    rw [if_neg (by simp [hon, hl])] at hexec
    refine ⟨_, hexec, ?_⟩
    dsimp only
    have hlost : ((s1.setIso pdEng true).devBypass 2).arr.lost = true := by
      rw [State.arr_of_outside (s := s1) (by simp)]
      rfl
    have hiso : ((s1.setIso pdEng true).devBypass 2).pwr.iso = (s1.setIso pdEng true).pwr.iso :=
      State.devBypass_pwr (r := PwrS.iso) (by intros; rfl) (by intros; rfl) _ _
    have heng (e : Nat) : ((s1.setIso pdEng true).devBypass 2).eng e = (s.keepWords pdEng).engClear.eng e :=
      State.eng_of_outside e (by simp [s1])
    have hmode := State.devBypass_mode 2 (s1.setIso pdEng true)
    have hcause := State.devBypass_bypCause 2 (s1.setIso pdEng true)
    have hbit : (s1.setIso pdEng true).pwr.iso.testBit pdEng = true := testBit_setBit _ _ _
    rw [← hiso] at hbit
    generalize (s1.setIso pdEng true).devBypass 2 = u at *
    refine ⟨hlost, hmode, hcause, hbit, fun e he => ?_⟩
    rw [State.eng_of_outside (s := u) e (by simp), heng]
    exact State.engClear_eng he
  · intro s hl
    exact if_pos (.inr hl)
  · intro ue s hl
    have hexec : exec (.engArrayRebuild ue) s = execEngArrayRebuild ue s := rfl
    unfold execEngArrayRebuild at hexec
    extract_lets s1 s2 s3 v s4 at hexec
    rw [if_neg (by simp [hl])] at hexec
    have harr : s3.arr.lost = false := by
      rw [State.arr_of_outside (s := s1) (by simp [s3, s2])]
      rfl
    have hpwr : s3.pwr = s1.pwr := State.pwr_of_outside (by simp [s3, s2])
    have hiso : s3.pwr.iso.testBit pdEng = false := by
      rw [hpwr]
      exact testBit_setBit _ _ _
    have hts : s3.ts = s.ts := (State.ts_of_outside (s := s1) (by simp [s3, s2])).trans rfl
    split at hexec
    · next hst =>
      refine ⟨_, hexec, harr, hiso, fun h => absurd ((congrArg TsS.st hts).symm.trans hst) h⟩
    · next hst =>
      refine ⟨_, hexec, ?_⟩
      dsimp only
      rw [State.arr_of_outside (s := s3) (by simp [s4]), State.pwr_of_outside (s := s3) (by simp [s4])]
      refine ⟨harr, hiso, fun _ => ?_⟩
      obtain ⟨kp, ki, ki2, e⟩ := s4.tsCoefs_ts
      refine State.tsQualified_runs ?_
      rw [e]
      exact TsState.noConfusion
  · intro ue s hl
    exact if_pos (by simp [hl])
  · intro h e s g
    refine ⟨_, rfl, ?_⟩
    rw [State.viaDoor_taken g, State.opEngStatus]
    exact ⟨State.reply_only _ _ _ _, State.reply_answered _ _ _ _⟩

end Sys2Proof.Machine
end

section
/-!
PROOFS. Channels: what stays of a channel while runs end, outputs switch and channels enter BYPASS; the commands and timers of a channel, its
faults, and handovers (R280, R443 to R465).
-/
namespace Sys2Proof.Machine
open Sys2Proof

/-! ## Readings of a channel that outlast switches, runs and rate words -/

/-- A reading of a channel that looks past its divider, its servo, its output, its counters and its handover calibration. -/
def Steady {α : Type} (r : Chan → α) : Prop :=
  ∀ x d v o w n hs ht e p,
    r { x with div := d, srv := v, out := o, sw := w, cnt := n, handSkew := hs, hsTemp := ht, rEdges := e, periods := p } = r x

/-- A reading that looks past what a change of state leaves as well. -/
def Steadier {α : Type} (r : Chan → α) : Prop :=
  ∀ x st cause prev lock slow t d v o w n hs ht e p,
    r { x with st := st, cause := cause, prev := prev, lock := lock, slow := slow, trav := t, div := d, srv := v, out := o, sw := w, cnt := n,
               handSkew := hs, hsTemp := ht, rEdges := e, periods := p } = r x

section
variable {α : Type} {r : Chan → α}

theorem Steadier.steady (hr : Steadier r) : Steady r := fun x => hr x x.st x.cause x.prev x.lock x.slow x.trav

theorem Steadier.welt (hr : Steadier r) (x : Chan) (st : ChState) (l : Bool) (c : BypCause) : r { x with st := st, lock := l, cause := c } = r x :=
  hr x st c x.prev l x.slow x.trav x.div x.srv x.out x.sw x.cnt x.handSkew x.hsTemp x.rEdges x.periods

section
variable (hr : Steady r)
include hr

theorem Steady.out (x : Chan) (o : OutSrc) (w : Option (OutSrc × Bool)) : r { x with out := o, sw := w } = r x :=
  hr x x.div x.srv o w x.cnt x.handSkew x.hsTemp x.rEdges x.periods

theorem Steady.rEdges (x : Chan) (e : List (Nat × Int)) : r { x with rEdges := e } = r x :=
  hr x x.div x.srv x.out x.sw x.cnt x.handSkew x.hsTemp e x.periods

theorem Steady.note (t : Nat) (rate : Int) (x : Chan) : r (x.note t rate) = r x := by
  unfold Chan.note
  split
  · exact hr x x.div x.srv x.out x.sw x.cnt x.handSkew x.hsTemp x.rEdges _
  · rfl

theorem Steady.switchTo (c i : Nat) (y : OutSrc) (s : State) : r ((s.switchTo c y).chan i) = r (s.chan i) := State.switchTo_reads hr.out c i y s

theorem Steady.syncStanding (k i : Nat) (s : State) : r ((s.syncStanding k).chan i) = r (s.chan i) := State.syncStanding_reads hr.out k i s

theorem Steady.count (c n i : Nat) (s : State) : r ((s.count c n).chan i) = r (s.chan i) :=
  State.modChan_reads (hr _ _ _ _ _ _ _ _ _ _) i

theorem Steady.modDiv (c i : Nat) (f : Div → Div) (s : State) : r ((s.modDiv c f).chan i) = r (s.chan i) :=
  State.modChan_reads (hr _ _ _ _ _ _ _ _ _ _) i

theorem Steady.modSrv (c i : Nat) (f : Srv → Srv) (s : State) : r ((s.modSrv c f).chan i) = r (s.chan i) :=
  State.modChan_reads (hr _ _ _ _ _ _ _ _ _ _) i

theorem Steady.dtcFree (q : CalRun) (i : Nat) (s : State) : r ((s.dtcFree q).chan i) = r (s.chan i) := by
  unfold State.dtcFree
  refine forAll_reads (r := fun s : State => r (s.chan i)) (fun e s => ?_) _ s
  exact hr.modDiv e.1 i _ s

theorem Steady.restore (q : CalRun) (i : Nat) (s : State) : r ((q.restore s).chan i) = r (s.chan i) := by
  unfold CalRun.restore
  extract_lets s1 s2 s3
  have h1 : s1.chan i = s.chan i := State.chan_of_outside i (by simp [s1])
  have h2 : r (s2.chan i) = r (s1.chan i) := by
    simp only [s2]
    refine forAll_reads (r := fun s : State => r (s.chan i)) (fun e s => ?_) _ s1
    exact hr.modDiv e.1 i _ s
  have h3 : s3.chan i = s2.chan i := State.chan_of_outside i (by simp [s3])
  rw [← h1, ← h2, ← h3]
  split
  · exact State.modChan_reads (hr _ _ _ _ _ _ _ _ _ _) i
  · rfl

theorem Steady.calEnd (q : CalRun) (stale : Bool) (reason gen i : Nat) (s : State) : r ((s.calEnd q stale reason gen).chan i) = r (s.chan i) := by
  have hdrop : r ((s.calDrop q).chan i) = r (s.chan i) := by
    unfold State.calDrop
    extract_lets s1 s2 s3
    have h1 : r (s1.chan i) = r (s.chan i) := hr.dtcFree q i s
    have h3 : s3.chan i = s1.chan i := State.chan_of_outside i (by simp only [s3]; split <;> simp [s2])
    rw [← h1, ← h3]
    split
    · exact congrArg r (State.chan_of_outside i (by simp))
    · rfl
  unfold State.calEnd
  extract_lets w s1 s2 s3 s4
  have h2 : r (s2.chan i) = r (s.chan i) := by
    rw [← hdrop]
    simp only [s2]
    split
    · rfl
    · exact (hr.restore q i s1).trans rfl
  have h4 : s4.chan i = s2.chan i := State.chan_of_outside i (by simp only [s4, s3]; split <;> simp)
  rw [← h2, ← h4]
  split
  · exact hr.count _ _ i s4
  · rfl

theorem Steady.setRate (x : Int) (i : Nat) (s : State) : r ((s.setRate x).chan i) = r (s.chan i) := by
  unfold State.setRate
  split
  · extract_lets d s1
    refine Eq.trans rfl (Eq.trans ?_ rfl : r (s1.chan i) = r (s.chan i))
    simp only [s1]
    split
    · rfl
    · refine Tab.get_map_reads (r := r) (f := fun g : Nat × Chan => if g.2.st = .idle then g else
        (g.1, { g.2 with rEdges := g.2.rEdges ++ [(s.ts.dts, d)] }.note s.ts.dts x)) (fun a => ?_) _ _ i
      split
      · exact ⟨rfl, rfl⟩
      · exact ⟨rfl, (hr.note _ _ _).trans (hr.rEdges a.2 _)⟩
  · rfl

theorem Steady.tsCoast (byRef forced : Bool) (i : Nat) (s : State) : r ((s.tsCoast byRef forced).chan i) = r (s.chan i) := by
  unfold State.tsCoast
  extract_lets s1 s2 s3
  have h2 : s2.chan i = s.chan i := State.chan_of_outside i (by simp [s2, s1])
  have hc : r (s2.tsCompose.chan i) = r (s2.chan i) := by
    unfold State.tsCompose
    extract_lets t slew rest y yc clamp s4 s5
    refine (hr.setRate yc i s5).trans (congrArg r (State.chan_of_outside i ?_))
    simp only [s5, s4]
    split <;> simp
  have h3 : s3.chan i = s2.tsCompose.chan i := State.chan_of_outside i (by simp [s3])
  rw [← h2, ← hc, ← h3]
  split
  · exact congrArg r (State.chan_of_outside i (by simp))
  · rfl

theorem Steady.bndGone (c i : Nat) (s : State) : r ((s.bndGone c).chan i) = r (s.chan i) :=
  State.bndGone_keeps (P := fun t => r (t.chan i) = r (s.chan i)) id (fun {t} h => by
    unfold State.tsUpLost
    split
    · exact (hr.tsCoast _ _ i t).trans h
    · exact h) c rfl

theorem Steady.beginReturn (k i : Nat) (s : State) : r ((s.beginReturn k).chan i) = r (s.chan i) := by
  unfold State.beginReturn
  split
  · extract_lets w v s1 s2
    have h2 : r (s2.chan i) = r (s.chan i) := (State.modChan_reads (s := s1) (hr _ _ _ _ _ _ _ _ _ _) i).trans rfl
    rw [← h2]
    exact (hr.switchTo _ i _ _).trans rfl
  · rfl

section
variable {i : Nat} (hi : i < 256 ∨ ∀ x st l c, r { x with st := st, lock := l, cause := c } = r x)
include hi

/-- A welt that is released stops: nothing else changes its state. -/
theorem Steady.weltRelease (k : Nat) (s : State) : r ((s.weltRelease k).chan i) = r (s.chan i) := by
  unfold State.weltRelease
  split
  · extract_lets s1
    refine (hr.switchTo _ i _ _).trans (Eq.trans ?_ (rfl : r (s1.chan i) = r (s.chan i)))
    obtain hi | hw := hi
    · rw [State.modChan_chan_ne _ _ _ _ (by rw [weltOf]; omega)]
    · exact State.modChan_reads (hw _ _ _ _) i
  · rfl

theorem Steady.handAbort (k : Nat) (s : State) : r ((s.handAbort k).chan i) = r (s.chan i) := by
  unfold State.handAbort
  split
  · split
    · exact (hr.count _ _ i _).trans (hr.weltRelease hi k s)
    · split
      · exact hr.beginReturn k i s
      · rfl
  · exact hr.weltRelease hi k s

theorem Steady.calAbortIf (reason : Nat) (p : CalRun → Bool) (s : State) : r ((s.calAbortIf reason p).chan i) = r (s.chan i) := by
  refine forAll_reads (r := fun s : State => r (s.chan i)) (fun q s => ?_) _ s
  unfold State.calAbort
  extract_lets s1
  refine (hr.calEnd q _ _ _ i s1).trans ?_
  simp only [s1]
  split
  · exact hr.handAbort hi _ s
  · rfl

end

end

/-! ## Entry to BYPASS and to ACQUIRE -/

theorem State.enterBypass_state (cause : BypCause) (c : Nat) (s : State) :
    ((s.enterBypass cause c).chan c).st = .bypass ∧ ((s.enterBypass cause c).chan c).cause = cause := by
  unfold State.enterBypass
  extract_lets x k safety s1 s2 s3 s4 s5
  have hr : Steady fun x => (x.st, x.cause) := fun _ _ _ _ _ _ _ _ _ _ => rfl
  have h4 : ((s4.chan c).st, (s4.chan c).cause) = (.bypass, cause) := by simp only [s4, State.modChan_chan]
  have h5 : ((s5.chan c).st, (s5.chan c).cause) = (.bypass, cause) := ((hr.count c 4 c _).trans (hr.switchTo c c _ s4)).trans h4
  have h6 := hr.bndGone c c (if c ≥ 256 then s5.syncStanding k else s5)
  have h7 : (((if c ≥ 256 then s5.syncStanding k else s5).chan c).st, ((if c ≥ 256 then s5.syncStanding k else s5).chan c).cause) =
      ((s5.chan c).st, (s5.chan c).cause) := by
    split
    · exact hr.syncStanding k c s5
    · rfl
  exact Prod.mk.inj (h6.trans (h7.trans h5))

theorem Steadier.enterBypass (hr : Steadier r) (cause : BypCause) (c i : Nat) (s : State) : r ((s.enterBypass cause c).chan i) = r (s.chan i) := by
  unfold State.enterBypass
  extract_lets x k safety s1 s2 s3 s4 s5
  have h2 : s2.chan i = s.chan i := State.chan_of_outside i (by simp only [s2, s1]; split <;> split <;> simp)
  have h3 : r (s3.chan i) = r (s2.chan i) := by
    simp only [s3]
    split
    · split
      · refine (hr.steady.weltRelease (.inr hr.welt) k _).trans ?_
        split
        · exact congrArg r (State.chan_of_outside i (by simp))
        · rfl
      · rfl
    · rfl
  have h4 : r (s4.chan i) = r (s3.chan i) := State.modChan_reads (hr _ _ _ _ _ _ _ _ _ _ _ _ _ _ _ _) i
  have h5 : r (s5.chan i) = r (s4.chan i) := (hr.steady.count c 4 i _).trans (hr.steady.switchTo c i _ s4)
  refine (hr.steady.bndGone c i _).trans ?_
  rw [← h2, ← h3, ← h4, ← h5]
  split
  · exact hr.steady.syncStanding k i s5
  · rfl

end

/-- State, cause, lock and re-entry of a channel. -/
def Chan.entry (x : Chan) : ChState × BypCause × Bool × Nat := (x.st, x.cause, x.lock, x.srv.reentry)

/-- What the re-entry of a channel leaves of it (R181). -/
theorem State.enterAcquire_entry (out : Bool) (c : Nat) (s : State) : ((s.enterAcquire out c).chan c).entry = (.acquire, .none, false, 1) := by
  unfold State.enterAcquire
  extract_lets s1 s2 s3
  have h2 : (s2.chan c).entry = (.acquire, .none, false, 1) := by
    simp only [s2, State.modChan_chan]
    rfl
  have h3 : (s3.chan c).entry = (s2.chan c).entry := by
    simp only [s3]
    split
    · exact State.switchTo_reads (r := Chan.entry) (by intros; rfl) c c .own s2
    · rfl
  rw [← h2, ← h3]
  split
  · exact State.syncStanding_reads (r := Chan.entry) (by intros; rfl) _ c s3
  · rfl

theorem State.enterAcquire_chan (out : Bool) (c : Nat) (s : State) :
    ((s.enterAcquire out c).chan c).st = .acquire ∧ ((s.enterAcquire out c).chan c).cause = .none ∧
    ((s.enterAcquire out c).chan c).lock = false ∧ ((s.enterAcquire out c).chan c).srv.reentry = 1 := by
  simpa only [Chan.entry, Prod.mk.injEq] using s.enterAcquire_entry out c

/-- Of other channels, a re-entry reaches the output alone. -/
theorem State.enterAcquire_chan_ne {α : Type} {r : Chan → α} (hr : ∀ x o w, r { x with out := o, sw := w } = r x) (out : Bool) {c i : Nat} (hi : i ≠ c)
    (s : State) : r ((s.enterAcquire out c).chan i) = r (s.chan i) := by
  unfold State.enterAcquire
  extract_lets s1 s2 s3
  have h1 : s1.chan i = s.chan i := State.modChan_chan_ne _ _ _ _ hi
  have h2 : s2.chan i = s1.chan i := State.modChan_chan_ne _ _ _ _ hi
  have h3 : r (s3.chan i) = r (s2.chan i) := by
    simp only [s3]
    split
    · exact State.switchTo_reads hr c i .own s2
    · rfl
  rw [← h1, ← h2, ← h3]
  split
  · exact State.syncStanding_reads hr _ i s3
  · rfl

/-- A claim made again begins the takeover of a retired channel, or does nothing. -/
theorem State.takeoverRetry_cases (k : Nat) (s : State) :
    s.takeoverRetry k = s ∨ ∃ c, c < 256 ∧ (s.chan c).st = .retired ∧ s.takeoverRetry k = s.takeoverBegin c := by
  unfold State.takeoverRetry
  split
  · split
    · next c hc =>
      obtain ⟨hlt, ht, -⟩ : c < 256 ∧ s.takeable c = true ∧ _ := by simpa using List.find?_some hc
      have hret : (s.chan c).st = .retired := by
        simp only [State.takeable, Bool.and_eq_true, decide_eq_true_eq] at ht
        exact ht.1.1.1
      unfold State.takeoverClaim
      dsimp only
      split
      · exact .inr ⟨c, hlt, hret, rfl⟩
      · exact .inl rfl
    · exact .inl rfl
  · exact .inl rfl

/-- What a claim made again leaves of a channel's state. -/
theorem State.takeoverRetry_chan (k i : Nat) (s : State) :
    (((s.takeoverRetry k).chan i).st = (s.chan i).st ∧ ((s.takeoverRetry k).chan i).lock = (s.chan i).lock) ∨
    (256 ≤ i ∧ ((s.takeoverRetry k).chan i).st = .acquire ∧ ((s.takeoverRetry k).chan i).lock = false) := by
  obtain h | ⟨c, -, -, h⟩ := s.takeoverRetry_cases k
  · rw [h]; exact .inl ⟨rfl, rfl⟩
  · rw [h]
    unfold State.takeoverBegin
    extract_lets j x s1 s2
    by_cases hi : i = weltOf j
    · obtain ⟨h1, -, h2, -⟩ := s2.enterAcquire_chan true (weltOf j)
      rw [hi]
      exact .inr ⟨by rw [weltOf]; omega, h1, h2⟩
    · have h2 : s2.chan i = s.chan i := (State.modChan_chan_ne _ _ s1 _ hi).trans rfl
      rw [← h2]
      exact .inl ⟨State.enterAcquire_chan_ne (r := Chan.st) (by intros; rfl) true hi s2,
        State.enterAcquire_chan_ne (r := Chan.lock) (by intros; rfl) true hi s2⟩

theorem State.enterIdle_chan (c : Nat) (s : State) : ((s.enterIdle c).chan c).st = .idle ∧ ((s.enterIdle c).chan c).lock = false := by
  unfold State.enterIdle
  extract_lets s1 s2 s3
  have hr : Steady fun x => (x.st, x.lock) := fun _ _ _ _ _ _ _ _ _ _ => rfl
  have h2 : ((s2.chan c).st, (s2.chan c).lock) = (.idle, false) := by simp only [s2, State.modChan_chan]
  have h3 : ((s3.chan c).st, (s3.chan c).lock) = (.idle, false) := (hr.switchTo c c .none s2).trans h2
  have h4 : (fun x : Chan => (x.st, x.lock)) ((if c ≥ 256 then s3.syncStanding (octOf c) else s3).chan c) = (.idle, false) := by
    rw [← h3]
    split
    · exact hr.syncStanding _ c s3
    · rfl
  exact Prod.mk.inj h4

/-! ## Settlement of the commands and timers -/

/-- Of other channels, the return to IDLE reaches the output alone. -/
theorem State.enterIdle_chan_ne {α : Type} {r : Chan → α} (hr : ∀ x o w, r { x with out := o, sw := w } = r x) {c i : Nat} (hi : i ≠ c) (s : State) :
    r ((s.enterIdle c).chan i) = r (s.chan i) := by
  unfold State.enterIdle
  extract_lets s1 s2 s3
  have h1 : s1.chan i = s.chan i := State.chan_of_outside i (by simp only [s1]; split <;> simp)
  have h2 : s2.chan i = s1.chan i := State.modChan_chan_ne _ _ _ _ hi
  have h3 : r (s3.chan i) = r (s2.chan i) := State.switchTo_reads hr c i .none s2
  rw [← h1, ← h2, ← h3]
  split
  · exact State.syncStanding_reads hr _ i s3
  · rfl

/-- Tests that end leave an IDLE channel as it is. -/
theorem State.testAbortIf_idle {c : Nat} (p : TestRun → Bool) {s : State} (h : (s.chan c).st = .idle ∧ (s.chan c).lock = false) :
    ((s.testAbortIf p).chan c).st = .idle ∧ ((s.testAbortIf p).chan c).lock = false := by
  refine forAll_keeps (P := fun t => (t.chan c).st = .idle ∧ (t.chan c).lock = false) (fun q t ht => ?_) _ h
  unfold State.testEnd
  extract_lets t1 t2 t3
  have h2 : t2.chan c = t.chan c := State.chan_of_outside (s := t1) c (by simp [t2])
  have h3 : (t3.chan c).st = (t2.chan c).st ∧ (t3.chan c).lock = (t2.chan c).lock := by
    simp only [t3]
    split
    · next hq =>
      have hne : c ≠ q.unit := by
        intro e
        rw [← e, h2, ht.1] at hq
        exact ChState.noConfusion hq.2
      exact ⟨State.enterIdle_chan_ne (r := Chan.st) (by intros; rfl) hne t2, State.enterIdle_chan_ne (r := Chan.lock) (by intros; rfl) hne t2⟩
    · exact ⟨rfl, rfl⟩
  rw [State.chan_of_outside (s := t3) c (by simp), h3.1, h3.2, h2]
  exact ht

theorem State.chStop_chan (c : Nat) (s : State) : ((s.chStop c).chan c).lock = false ∧
    (((s.chStop c).chan c).st = .idle ∨ 256 ≤ c ∧ ((s.chStop c).chan c).st = .acquire) := by
  unfold State.chStop
  extract_lets k s1 s2 s3
  have h3 : (s3.chan c).st = .idle ∧ (s3.chan c).lock = false := State.testAbortIf_idle _ (s2.enterIdle_chan c)
  obtain ⟨h1, h2⟩ | ⟨h, h1, h2⟩ := s3.takeoverRetry_chan k c
  · exact ⟨h2.trans h3.2, .inl (h1.trans h3.1)⟩
  · exact ⟨h2, .inr ⟨h, h1⟩⟩

/-- The status word of a channel: its state in the low four bits, its lock above. -/
theorem chStatus_bits (st : ChState) (l : Bool) (a b d : Nat) :
    (fld 0 4 st.ctorIdx + fld 4 1 (bit l) + fld 5 1 a + fld 6 1 b + fld 7 4 d) % 16 = st.ctorIdx ∧
    (fld 0 4 st.ctorIdx + fld 4 1 (bit l) + fld 5 1 a + fld 6 1 b + fld 7 4 d).testBit 4 = l := by
  have hst : st.ctorIdx < 16 := by cases st <;> decide
  have hl : bit l < 2 := by cases l <;> decide
  have hw : fld 0 4 st.ctorIdx + fld 4 1 (bit l) + fld 5 1 a + fld 6 1 b + fld 7 4 d = st.ctorIdx + 16 * (bit l + 2 * (a % 2 + 2 * (b % 2) + 4 * (d % 16))) := by
    simp only [fld]
    omega
  rw [hw]
  refine ⟨by omega, ?_⟩
  rw [Nat.testBit_eq_decide_div_mod_eq]
  have : (st.ctorIdx + 16 * (bit l + 2 * (a % 2 + 2 * (b % 2) + 4 * (d % 16)))) / 2 ^ 4 % 2 = bit l := by omega
  rw [this]
  cases l <;> rfl

/-- State, lock and traverse of a channel. -/
def Chan.steering (x : Chan) : ChState × Bool × Trav := (x.st, x.lock, x.trav)

theorem Chan.steering_steady : Steady Chan.steering := fun _ _ _ _ _ _ _ _ _ _ => rfl

theorem State.enterHoldover_chan (lane : Nat) (delta : Int) (reason c : Nat) (s : State) :
    ((s.enterHoldover lane delta reason c).chan c).steering =
      (.holdover, false, { (s.chan c).trav with pHold := true, slew := if s.laneOpen (octOf c) lane then 0 else (s.chan c).trav.slew }) := by
  unfold State.enterHoldover
  extract_lets x d taken s1 s2
  have h1 : s1.chan c = s.chan c := State.chan_of_outside c (by simp [s1])
  have h2 : (s2.chan c).steering =
      (.holdover, false, { (s.chan c).trav with pHold := true, slew := if s.laneOpen (octOf c) lane then 0 else (s.chan c).trav.slew }) := by
    simp only [s2, State.modChan_chan, h1]
    rfl
  have h3 : ((s2.modChan c (·.note s2.ts.dts s2.ts.rate)).chan c).steering = (s2.chan c).steering :=
    State.modChan_reads (Chan.steering_steady.note _ _ _) c
  rw [State.chan_of_outside (s := (s2.modChan c (·.note s2.ts.dts s2.ts.rate)).count c 3) c (by simp), Chan.steering_steady.count, h3, h2]

/-- Settles O33: what stopping, silence and a restart leave of the channel's state, whatever its output and its welt do. -/
theorem channelStopAndTimers : Obligations.ChannelStopAndTimers := by
  refine ⟨⟨?_, ?_, ?_⟩, ?_, ?_, ?_, ?_, ?_, ?_⟩
  · intro h c s g hst
    have hact : (s.taken h).actOf c = c := if_neg fun hr => hst hr.1
    refine ⟨_, rfl, ?_⟩
    have hst' : ¬ ((s.taken h).chan c).st = .retired := hst
    rw [State.viaDoor_taken g, State.opChStop, hact, if_neg hst']
    obtain ⟨h1, h2⟩ := (s.taken h).chStop_chan c
    refine ⟨State.reply_answered _ _ _ _, h1, fun hc => h2.resolve_right fun hw => Nat.not_lt.2 hw.1 hc, ?_⟩
    exact h2.imp id And.right
  · intro h c s g hst hact
    change Host.Outcome.next _ = _
    have hact' : (s.taken h).actOf c = c := hact
    have hst' : ((s.taken h).chan c).st = .retired := hst
    rw [State.viaDoor_taken g, State.opChStop, hact', if_pos hst']
  · intro h c s g
    refine ⟨_, rfl, ?_⟩
    rw [State.viaDoor_taken g, State.opChStatus]
    refine ⟨State.reply_only _ _ _ _, _, State.reply_answered _ _ _ _, ?_⟩
    exact chStatus_bits _ _ _ _ _
  · intro c s hst hsl
    refine ⟨_, if_pos ⟨hst, by simp [hsl]⟩, ?_⟩
    dsimp only
    rw [State.chan_of_outside (s := s.modChan c fun x => { x with slow := true }) c (by simp), State.modChan_chan]
  · intro c s h
    refine if_neg fun ⟨h1, h2⟩ => ?_
    obtain h | h := h
    · exact h h1
    · rw [h] at h2; exact Bool.false_ne_true h2
  · intro c s hst hh
    refine ⟨_, if_pos ⟨hst, by simp [hh]⟩, ?_⟩
    obtain ⟨h1, h2, h3⟩ : _ ∧ _ ∧ _ := by
      simpa only [Chan.steering, Prod.mk.injEq] using s.enterHoldover_chan ((s.homeOf c).getD cobLane) (s.chan c).noSlew 1 c
    rw [h3]
    exact ⟨h1, h2, rfl, fun h => if_pos h⟩
  · intro c s h
    refine if_neg fun ⟨h1, h2⟩ => ?_
    obtain ⟨h, h'⟩ | h := h
    · exact h1.elim h h'
    · rw [h] at h2; exact Bool.false_ne_true h2
  · intro c s hst hc hl hm
    have hexec : exec (.dividerRestartDone c) s = execDividerRestartDone c s := rfl
    unfold execDividerRestartDone at hexec
    extract_lets x at hexec
    have h1 : s.pwr.mode ≠ .survey ∧ ¬ (s.pwr.mode = .bypass ∨ s.pwr.mode = .wake) := by
      obtain h | h := hm <;> simp [h]
    rw [if_pos ⟨hst, hc⟩, if_neg (by simpa using hl), if_neg h1.1, if_neg h1.2] at hexec
    refine ⟨_, hexec, ?_⟩
    obtain ⟨h1, h2, -, h3⟩ := s.enterAcquire_chan true c
    exact ⟨h1, h2, h3⟩
  · intro c s hst hc hl
    change execDividerRestartDone c s = _
    unfold execDividerRestartDone
    extract_lets x
    rw [if_pos ⟨hst, hc⟩, if_pos hl]

end Sys2Proof.Machine
end

section
/-!
PROOFS. Permanent faults of channels and welts (R448, R451, R459, R462).
-/
namespace Sys2Proof.Machine
open Sys2Proof

/-! ## A welt that is retired stays so -/

/-- The welt of octant `k` is retired. -/
def State.WeltRetired (k : Nat) (s : State) : Prop := (s.oct k).welt = .retired

section
variable {k : Nat} {s : State} (h : s.WeltRetired k)
include h

theorem State.WeltRetired.of_octs {t : State} (e : t.octs = s.octs) : t.WeltRetired k := by
  rw [State.WeltRetired, State.oct, e]; exact h

theorem State.WeltRetired.of_outside {t : State} (e : t.outside (allBut [.octs]) = s.outside (allBut [.octs])) : t.WeltRetired k :=
  h.of_octs (State.octs_of_outside e)

theorem State.WeltRetired.modHand (j : Nat) (f : Oct → Option Hand) : (s.modOct j fun o => { o with hand := f o }).WeltRetired k :=
  (State.modOct_reads (r := Oct.welt) rfl k).trans h

theorem State.WeltRetired.weltRelease (j : Nat) : (s.weltRelease j).WeltRetired k := by
  unfold State.weltRelease
  split
  · next c hc =>
    extract_lets s1
    have hne : k ≠ j := fun e => by
      rw [← e] at hc
      exact WeltUse.noConfusion (h.symm.trans hc)
    have h1 : s1.WeltRetired k := (congrArg Oct.welt (State.modOct_oct_ne _ _ _ _ hne)).trans h
    exact h1.of_outside (by simp)
  · exact h.modHand j _

theorem State.WeltRetired.beginReturn (j : Nat) : (s.beginReturn j).WeltRetired k := by
  unfold State.beginReturn
  split
  · extract_lets w v s1 s2
    have h1 : s1.WeltRetired k := h.modHand j _
    exact h1.of_outside (by simp [s2])
  · exact h

theorem State.WeltRetired.calEnd (r : CalRun) (stale : Bool) (reason gen : Nat) : (s.calEnd r stale reason gen).WeltRetired k :=
  (State.calEnd_reads (f := Oct.welt) (by intros; rfl) r stale reason gen k s).trans h

theorem State.WeltRetired.handAbort (j : Nat) : (s.handAbort j).WeltRetired k := by
  unfold State.handAbort
  split
  · split
    · exact (h.weltRelease j).of_outside (by simp)
    · split
      · exact h.beginReturn j
      · exact h
  · exact h.weltRelease j

theorem State.WeltRetired.calAbortIf (reason : Nat) (p : CalRun → Bool) : (s.calAbortIf reason p).WeltRetired k := by
  refine forAll_keeps (P := State.WeltRetired k) (fun r t ht => ?_) _ h
  unfold State.calAbort
  extract_lets s1
  refine State.WeltRetired.calEnd ?_ r false reason 0
  simp only [s1]
  split
  · exact ht.handAbort _
  · exact ht

theorem State.WeltRetired.enterBypass (cause : BypCause) (c : Nat) : (s.enterBypass cause c).WeltRetired k := by
  unfold State.enterBypass
  extract_lets x j safety s1 s2 s3 s4 s5
  have h2 : s2.WeltRetired k := h.of_outside (by simp only [s2, s1]; split <;> split <;> simp)
  have h3 : s3.WeltRetired k := by
    simp only [s3]
    split
    · split
      · refine State.WeltRetired.weltRelease ?_ _
        split
        · exact h2.of_outside (by simp)
        · exact h2
      · exact h2
    · exact h2
  have h5 : s5.WeltRetired k := h3.of_outside (by simp [s5, s4])
  refine h5.of_outside ?_
  split <;> simp

end

theorem State.weltLost_retired (k : Nat) (s : State) : (s.weltLost k).WeltRetired k := by
  unfold State.weltLost
  extract_lets u s1 s2
  have h1 : s1.WeltRetired k := congrArg Oct.welt (State.modOct_oct k _ s)
  refine State.WeltRetired.calAbortIf ?_ _ _
  simp only [s2]
  clear_value u
  cases u with
  | loan c =>
    dsimp only
    split
    · exact h1.enterBypass _ _
    · exact h1
  | standing c => exact h1.of_outside (by simp)
  | takeover c =>
    dsimp only
    split
    · exact h1.of_outside (by simp)
    · exact h1
  | _ => exact h1

/-! ## Retirement of a channel index -/

theorem State.retireChan_queued {fault c : Nat} {s : State} (h : ¬ ((s.chan c).st = .retired ∨ (s.chan c).st = .bypass ∧ (s.chan c).cause = .fault)) :
    ∃ r ∈ (s.retireChan fault c).store.q, r.ch = .retire kindChan c fault := by
  unfold State.retireChan
  extract_lets x s1 s2 s3 s4 s5
  rw [if_neg h]
  split
  · exact State.commit_mem _ _ _ _
  · exact State.commit_mem _ _ _ _

theorem State.retireChan_weltRetired {fault k : Nat} {s : State}
    (h : ¬ ((s.chan (weltOf k)).st = .retired ∨ (s.chan (weltOf k)).st = .bypass ∧ (s.chan (weltOf k)).cause = .fault)) :
    (s.retireChan fault (weltOf k)).WeltRetired k := by
  unfold State.retireChan
  extract_lets x s1 s2 s3 s4 s5
  rw [if_neg h]
  have h1 : s1.WeltRetired k := by
    simp only [s1]
    rw [if_pos (show weltOf k ≥ 256 from Nat.le_add_right 256 k), show weltOf k - 256 = k from Nat.add_sub_cancel_left 256 k]
    exact s.weltLost_retired k
  split
  · have h2 : s2.WeltRetired k := h1.modHand _ _
    have h3 : (forAll (s2.cal.runs.filter (·.ofChan (weltOf k))) (fun r s => s.calEnd r false 0x12 0) s2).WeltRetired k :=
      forAll_keeps (P := State.WeltRetired k) (fun r t ht => ht.calEnd r false 0x12 0) (s2.cal.runs.filter (·.ofChan (weltOf k))) h2
    exact h3.of_outside (by simp)
  · have h3 : s3.WeltRetired k := h1.calAbortIf _ _
    have h5 : s5.WeltRetired k := by
      simp only [s5, s4]
      split
      · exact h3
      · refine State.WeltRetired.of_outside (s := if x.st = .bypass then s3 else s3.enterBypass .fault (weltOf k)) ?_ (by simp)
        split
        · exact h3
        · exact h3.enterBypass _ _
    exact h5.of_outside (by simp)

/-- A channel that ran, its output its own, goes to BYPASS for FAULT. -/
theorem State.retireChan_bypass {fault c : Nat} {s : State} (hc : c < 256) (hret : (s.chan c).st ≠ .retired) (hidle : (s.chan c).st ≠ .idle)
    (hwelt : (s.chan c).st ≠ .onWelt) (h : ¬ ((s.chan c).st = .bypass ∧ (s.chan c).cause = .fault)) :
    ((s.retireChan fault c).chan c).st = .bypass ∧ ((s.retireChan fault c).chan c).cause = .fault := by
  unfold State.retireChan
  extract_lets x s1 s2 s3 s4 s5
  have e1 : s1 = s := if_neg (by omega)
  have hst : (s3.chan c).st = (s.chan c).st := by
    simp only [s3]
    rw [e1]
    exact Steady.calAbortIf (r := Chan.st) (fun _ _ _ _ _ _ _ _ _ _ => rfl) (.inl hc) _ _ s
  rw [if_neg (fun e => e.elim hret h), if_neg (fun e => hwelt e.1)]
  have h4 : (s4.chan c).st = .bypass := by
    simp only [s4]
    split
    · next hb => exact hst.trans hb
    · exact (s3.enterBypass_state .fault c).1
  have h5 : s5.chan c = { s4.chan c with cause := .fault } := by
    simp only [s5]
    rw [if_neg hidle, State.modChan_chan]
  rw [State.chan_of_outside (s := s5) c (by simp), h5]
  exact ⟨h4, rfl⟩

/-- A channel that retires keeps what its state and its loans do not touch. -/
theorem Steadier.weltLost {α : Type} {r : Chan → α} (hr : Steadier r) (k i : Nat) (s : State) : r ((s.weltLost k).chan i) = r (s.chan i) := by
  unfold State.weltLost
  extract_lets u s1 s2
  refine (hr.steady.calAbortIf (.inr hr.welt) _ _ s2).trans ?_
  simp only [s2]
  clear_value u
  cases u with
  | loan c =>
    dsimp only
    split
    · exact (hr.enterBypass _ c i s1).trans rfl
    · rfl
  | standing c => exact (hr.steady.switchTo c i _ s1).trans rfl
  | takeover c =>
    dsimp only
    split
    · exact (hr.steady.switchTo c i _ s1).trans rfl
    · rfl
  | _ => rfl

theorem Steadier.retireChan {α : Type} {r : Chan → α} (hr : Steadier r) (fault c i : Nat) (s : State) :
    r ((s.retireChan fault c).chan i) = r (s.chan i) := by
  unfold State.retireChan
  extract_lets x s1 s2 s3 s4 s5
  have h1 : r (s1.chan i) = r (s.chan i) := by
    simp only [s1]
    split
    · exact hr.weltLost _ i s
    · rfl
  split
  · rfl
  split
  · rw [← h1]
    exact (forAll_reads (r := fun s : State => r (s.chan i)) (fun q s => hr.steady.calEnd q false 0x12 0 i s) (s2.cal.runs.filter (·.ofChan c)) s2).trans rfl
  · have h3 : r (s3.chan i) = r (s1.chan i) := hr.steady.calAbortIf (.inr hr.welt) _ _ s1
    have h4 : r (s4.chan i) = r (s3.chan i) := by
      simp only [s4]
      split
      · rfl
      · exact hr.enterBypass .fault c i s3
    have h5 : r (s5.chan i) = r (s3.chan i) := by
      simp only [s5]
      split
      · rfl
      · exact (State.modChan_reads (hr.welt _ _ _ _) i).trans h4
    rw [← h1, ← h3, ← h5]
    exact congrArg r (State.chan_of_outside i (by simp))

theorem State.discardJob_lease (c : Nat) (s : State) : ((s.discardJob c).chan c).lease = none := by
  unfold State.discardJob
  split
  · next h => exact h
  · rw [State.modChan_chan]

theorem State.modChan_if_st {p : Prop} {_ : Decidable p} (c : Nat) {f : Chan → Chan} (hf : ∀ x, (f x).st = x.st) (s : State) :
    ((if p then s.modChan c f else s).chan c).st = (s.chan c).st := by
  split
  · exact State.modChan_reads (hf _) c
  · rfl

theorem State.rebuildEntry_st (c mask : Nat) (s : State) : ((s.rebuildEntry c mask).chan c).st = (s.chan c).st := by
  unfold State.rebuildEntry
  extract_lets m s1 s2 s3 s4 s5 v0 s6 s7 s8 s9
  have h9 : (s9.chan c).st = (s.chan c).st := by
    simp only [s9, s8, s7, s6, s5, s4, s3, s2, s1, State.modSrv, State.modCnt]
    iterate 9 refine (State.modChan_if_st c (by intro; rfl) _).trans ?_
    rfl
  rw [← h9]
  split
  · exact State.modChan_reads (r := Chan.st) rfl c
  · rfl

/-- Settles O34: a retirement queues its change at its end, and what it does before leaves the driver, the lease and the fault log as they are. -/
theorem channelFaultsRetire : Obligations.ChannelFaultsRetire := by
  unfold Obligations.ChannelFaultsRetire
  intro queued
  refine ⟨?_, ?_, ?_, ?_, ?_, ?_⟩
  · intro c f s hret hb
    have hchan : (s.fault kindChan c f).chan c = s.chan c := State.chan_of_outside c (by simp)
    have h : ¬ ((s.chan c).st = .retired ∨ (s.chan c).st = .bypass ∧ (s.chan c).cause = .fault) := fun e => e.elim hret hb
    refine ⟨_, if_neg h, State.retireChan_queued (by rw [hchan]; exact h), ?_, fun hidle hwelt => ?_⟩
    · rw [State.flt_of_outside (s := s.fault kindChan c f) (by simp)]
      exact State.fault_mem _ _ _ _
    · rw [← hchan] at hret hidle hwelt hb
      exact State.retireChan_bypass c.isLt hret hidle hwelt hb
  · intro k f s hret hb hw
    have hchan : (s.fault kindChan (weltOf k) f).chan (weltOf k) = s.chan (weltOf k) := State.chan_of_outside (weltOf k) (by simp)
    have h : ¬ ((s.chan (weltOf k)).st = .retired ∨ (s.chan (weltOf k)).st = .bypass ∧ (s.chan (weltOf k)).cause = .fault) := fun e => e.elim hret hb
    rw [← hchan] at h
    refine ⟨_, if_neg fun e => e.elim hret hw, State.retireChan_queued h, State.retireChan_weltRetired h, ?_⟩
    rw [State.flt_of_outside (s := s.fault kindChan (weltOf k) f) (by simp)]
    exact State.fault_mem _ _ _ _
  · intro c s hh hon
    have hexec : exec (.driver c) s = execDriver c s := rfl
    unfold execDriver at hexec
    extract_lets x s1 s2 at hexec
    rw [if_neg (by simp [x, hh, hon])] at hexec
    refine ⟨_, hexec, ?_, ?_, fun hret hb => ?_⟩
    · have hhiz : Steadier Chan.hiz := fun _ _ _ _ _ _ _ _ _ _ _ _ _ _ _ _ => rfl
      refine (hhiz.steady.switchTo c c .none s2).trans ?_
      have h1 : (s1.chan c).hiz = true := by simp only [s1, State.modChan_chan]
      simp only [s2]
      split
      · exact (hhiz.steady.switchTo c c .none s1).trans h1
      · exact (hhiz.retireChan 9 c c s1).trans h1
    · rw [State.flt_of_outside (s := s.fault kindChan c 9) (by simp only [s2, s1]; split <;> simp)]
      exact State.fault_mem _ _ _ _
    · have h1 : s1.chan c = { s.chan c with hiz := true } := by
        simp only [s1, State.modChan_chan]
        rw [State.chan_of_outside (s := s) c (by simp)]
      simp only [s2]
      rw [if_neg hret]
      have hq := State.retireChan_queued (fault := 9) (c := c) (s := s1) (by rw [h1]; exact fun e => e.elim hret hb)
      rwa [← State.store_of_outside (t := (s1.retireChan 9 c).switchTo c .none) (by simp)] at hq
  · intro c s hon
    have hexec : exec (.csmUe c) s = execCsmUe c s := rfl
    unfold execCsmUe at hexec
    extract_lets t l s1 s2 at hexec
    rw [if_neg (by simp [hon])] at hexec
    refine ⟨_, hexec, ?_, ?_⟩
    · have hlease : Steadier Chan.lease := fun _ _ _ _ _ _ _ _ _ _ _ _ _ _ _ _ => rfl
      have h1 : (s1.chan c).lease = none := by
        refine (hlease.steady.count c 2 c _).trans ?_
        rw [State.modChan_chan]
        exact State.discardJob_lease c s
      have h2 : (s2.chan c).lease = none := (congrArg Chan.lease (State.chan_of_outside (s := s1) c (by simp [s2]))).trans h1
      split
      · exact (hlease.retireChan 6 c c s2).trans h2
      · exact h2
    · have hnow : s1.now = s.now := State.now_of_outside (by simp [s1])
      rw [State.flt_of_outside (s := s2) (by split <;> simp), ← hnow]
      exact State.fault_mem _ _ _ _
  · intro c mask s hm hon hst
    have hexec : exec (.csmRebuild c mask) s = execCsmRebuild c mask s := rfl
    unfold execCsmRebuild at hexec
    extract_lets n s1 at hexec
    have h1 : (s1.chan c).st = (s.chan c).st :=
      (congrArg Chan.st (State.chan_of_outside (s := s.rebuildEntry c mask.toNat) c (by simp [s1]))).trans (s.rebuildEntry_st c mask.toNat)
    rw [if_neg fun e => e.elim hm (by simp [hon])] at hexec
    refine ⟨s1.enterAcquire true c, hexec.trans ?_, ?_⟩
    · obtain h | h | h := hst
      all_goals rw [h] at h1; rw [h1]
    · obtain ⟨h2, -, -, h3⟩ := s1.enterAcquire_chan true c
      exact ⟨h2, h3⟩
  · intro c s
    change execCsmRebuild c 0 s = _
    unfold execCsmRebuild
    exact if_pos (Or.inl rfl)

end Sys2Proof.Machine
end

section
/-!
PROOFS. Handovers, takeovers, and the clearing of retirements (R454 to R457, R460, R464).
-/
namespace Sys2Proof.Machine
open Sys2Proof

/-! ## Channels that a release and a takeover leave alone -/

theorem State.gateOn_chan_ne {c i : Nat} (hi : i ≠ c) (y : OutSrc) (s : State) : (s.gateOn c y).chan i = s.chan i := by
  unfold State.gateOn
  extract_lets s1
  have h1 : s1.chan i = s.chan i := State.modChan_chan_ne _ _ _ _ hi
  rw [← h1]
  split <;> rfl

theorem State.gateOff_chan_ne {c i : Nat} (hi : i ≠ c) (y : OutSrc) (s : State) : (s.gateOff c y).chan i = s.chan i := by
  unfold State.gateOff
  split
  · exact State.gateOn_chan_ne hi y s
  · exact State.modChan_chan_ne _ _ _ _ hi

theorem State.switchTo_chan_ne {c i : Nat} (hi : i ≠ c) (y : OutSrc) (s : State) : (s.switchTo c y).chan i = s.chan i := by
  unfold State.switchTo
  extract_lets x
  split
  · rfl
  split
  · exact State.gateOff_chan_ne hi y s
  split
  · exact State.modChan_chan_ne _ _ _ _ hi
  split
  · exact State.gateOff_chan_ne hi y s
  · exact State.modChan_chan_ne _ _ _ _ hi

theorem State.weltRelease_chan_ne {k i : Nat} (hi : i ≠ weltOf k) (s : State) : (s.weltRelease k).chan i = s.chan i := by
  unfold State.weltRelease
  split
  · extract_lets s1
    exact (State.switchTo_chan_ne hi _ _).trans ((State.modChan_chan_ne _ _ _ _ hi).trans rfl)
  · rfl

/-- A takeover that begins starts the welt, and leaves every other channel alone. -/
theorem State.takeoverBegin_chan_ne {c i : Nat} (hi : i ≠ weltOf (octOf c)) (s : State) : (s.takeoverBegin c).chan i = s.chan i := by
  unfold State.takeoverBegin
  extract_lets k x s1 s2
  have hk : octOf (weltOf k) = k := by rw [octOf, weltOf]; split <;> omega
  have h2 : s2.chan i = s.chan i := (State.modChan_chan_ne _ _ _ _ hi).trans rfl
  unfold State.enterAcquire
  extract_lets s3 s4 s5
  have h4 : s4.chan i = s2.chan i := (State.modChan_chan_ne _ _ _ _ hi).trans (State.modChan_chan_ne _ _ _ _ hi)
  have h5 : s5.chan i = s4.chan i := State.switchTo_chan_ne hi _ _
  have hw : (s5.oct k).welt = .takeover c := by
    have h : s5.oct k = s1.oct k := State.oct_of_outside k (by simp [s5, s4, s3, s2])
    rw [h]
    simp only [s1, State.modOct_oct]
  have hst : (s5.chan (weltOf k)).st = .acquire := by
    refine (State.switchTo_reads (r := Chan.st) (by intros; rfl) _ _ .own s4).trans ?_
    simp only [s4, State.modChan_chan]
  rw [if_pos (show weltOf k ≥ 256 from Nat.le_add_right 256 k), hk, ← h2, ← h4, ← h5]
  unfold State.syncStanding
  extract_lets go
  rw [hw]
  dsimp only
  rw [if_neg fun h => by rw [hst] at h; exact ChState.noConfusion h.2]

/-- A claim made again leaves a channel that is not retired alone. -/
theorem State.takeoverRetry_chan_user {k i : Nat} (hi : i < 256) (s : State) : (s.takeoverRetry k).chan i = s.chan i := by
  obtain h | ⟨c, -, -, h⟩ := s.takeoverRetry_cases k
  · rw [h]
  · rw [h]
    exact State.takeoverBegin_chan_ne (by rw [weltOf]; omega) s

/-! ## Parts of a run, and runs that end -/

/-- A part that begins reaches the dividers alone. -/
theorem State.toPart_reads {α : Type} {r : Chan → α} (hr : ∀ x d, r { x with div := d } = r x) (q : CalRun) (p i : Nat) (s : State) :
    r ((s.toPart q p).chan i) = r (s.chan i) := by
  unfold State.toPart
  extract_lets dtc cs s1 old
  have hfree : r (s1.chan i) = r (s.chan i) :=
    forAll_reads (r := fun s : State => r (s.chan i)) (fun e s => State.modChan_reads (hr _ _) i) q.oldDivs s
  rw [← hfree]
  refine (forAll_reads (r := fun s : State => r (s.chan i)) (f := fun c s => s.dtcHold c) (fun c s => ?_) cs _).trans rfl
  exact State.modChan_reads (hr _ _) i

theorem State.calDrop_cal (r : CalRun) (s : State) : (s.calDrop r).cal = { s.cal with runs := s.cal.runs.filter (·.num ≠ r.num) } := by
  have hf : (s.dtcFree r).cal = s.cal := State.cal_of_outside (by simp)
  unfold State.calDrop
  extract_lets t1 t2 t3
  have h3 : t3.cal = t1.cal := State.cal_of_outside (by simp only [t3]; split <;> simp [t2])
  have h1 : t1.cal = { s.cal with runs := s.cal.runs.filter (·.num ≠ r.num) } := by
    rw [← hf]
    rfl
  rw [← h1, ← h3]
  split
  · exact State.cal_of_outside (by simp)
  · rfl

theorem State.calDrop_runs (r : CalRun) (s : State) : (s.calDrop r).cal.runs = s.cal.runs.filter (·.num ≠ r.num) := by rw [State.calDrop_cal]

/-- A run that ends leaves the list and joins the log. -/
theorem State.calEnd_cal (r : CalRun) (stale : Bool) (reason gen : Nat) (s : State) : ∃ l, (s.calEnd r stale reason gen).cal =
    { s.cal with runs := s.cal.runs.filter (·.num ≠ r.num), log := calDone r stale reason gen :: s.cal.log, retry := l } := by
  unfold State.calEnd
  extract_lets w s1 s2 s3 s4
  have h1 : s1.cal = { s.cal with runs := s.cal.runs.filter (·.num ≠ r.num), log := w :: s.cal.log } := by
    have hd := s.calDrop_cal r
    simp only [s1, State.modCal, hd]
  have h2 : s2.cal = s1.cal := State.cal_of_outside (by simp only [s2]; split <;> simp)
  have h3 : ∃ l, s3.cal = { s2.cal with retry := l } := by
    simp only [s3]
    split <;> exact ⟨_, rfl⟩
  obtain ⟨l, h3⟩ := h3
  refine ⟨l, Eq.trans (State.cal_of_outside (s := s3) ?_) ?_⟩
  · split <;> simp [s4]
  · rw [h3, h2, h1]

theorem State.calEnd_runs (r : CalRun) (stale : Bool) (reason gen : Nat) (s : State) :
    (s.calEnd r stale reason gen).cal.runs = s.cal.runs.filter (·.num ≠ r.num) := by
  obtain ⟨l, h⟩ := s.calEnd_cal r stale reason gen
  rw [h]

/-- Runs that are aborted leave the list, and none joins it. -/
theorem State.calAbortIf_runs {reason : Nat} {p : CalRun → Bool} {s : State} {q : CalRun} (hq : q ∈ (s.calAbortIf reason p).cal.runs) :
    q ∈ s.cal.runs ∧ p q = false := by
  have hab (r : CalRun) (s : State) : (s.calAbort reason r).cal.runs = s.cal.runs.filter (·.num ≠ r.num) := by
    unfold State.calAbort
    extract_lets s1
    rw [State.calEnd_runs, State.cal_of_outside (t := s1) (s := s) (by simp only [s1]; split <;> simp)]
  have hsub : q ∈ s.cal.runs :=
    forAll_keeps (P := fun t => q ∈ t.cal.runs → q ∈ s.cal.runs) (f := fun r s => s.calAbort reason r)
      (fun r t ht h => ht (List.mem_filter.1 (by rw [hab] at h; exact h)).1) (s.cal.runs.filter p) id hq
  refine ⟨hsub, Bool.eq_false_iff.2 fun hp => ?_⟩
  refine forAll_establishes (Q := fun r t => r ∉ t.cal.runs) (f := fun r s => s.calAbort reason r) (l := s.cal.runs.filter p) (a := q)
    (fun r t h => ?_) (fun r r' t hr h => ?_) (List.mem_filter.2 ⟨hsub, hp⟩) s hq
  · rw [hab] at h
    simpa using (List.mem_filter.1 h).2
  · rw [hab] at h
    exact hr (List.mem_filter.1 h).1

/-! ## Switches of a handover -/

theorem State.switchTo_goal (c : Nat) (y : OutSrc) (s : State) : ((s.switchTo c y).chan c).goal = y := by
  have hoff : ((s.gateOff c y).chan c).goal = y := by
    unfold State.gateOff
    split
    · rw [State.gateOn_chan]
      rfl
    · rw [State.modChan_chan]
      rfl
  unfold State.switchTo
  extract_lets x
  split
  · next h => exact h
  split
  · exact hoff
  split
  · next h =>
    rw [State.modChan_chan]
    exact h
  split
  · exact hoff
  · rw [State.modChan_chan]
    rfl

/-- State, output and welt pause of a channel. -/
def Chan.served (x : Chan) : ChState × OutSrc × Bool := (x.st, x.out, x.trav.pWelt)

/-- State and phase of a channel. -/
def Chan.placed (x : Chan) : ChState × Int × Int := (x.st, x.trav.pCmd, x.trav.pReal)

theorem State.regrid_reads {α : Type} {r : Chan → α} (hr : ∀ x v, r { x with srv := v } = r x) (c i : Nat) (s : State) :
    r ((s.regrid c).chan i) = r (s.chan i) := by
  refine State.modChan_reads ?_ i
  split
  · exact hr _ _
  · rfl

theorem State.handSwitch_served {k : Nat} {h : Hand} (hne : h.ch < 256) (s : State) : ((s.handSwitch k h).chan h.ch).served = (.onWelt, .welt, true) := by
  unfold State.handSwitch
  extract_lets x s1 s2 v s3
  have h2 : (s2.chan h.ch).served = (.onWelt, .welt, true) := by simp only [s2, State.modChan_chan, Chan.served]
  have h3 : s3.chan h.ch = s2.chan h.ch := State.modChan_chan_ne _ _ _ _ (by rw [weltOf]; omega)
  rw [← h2, ← h3]
  exact (State.modChan_reads (r := Chan.served) rfl h.ch).trans (State.regrid_reads (r := Chan.served) (by intros; rfl) (weltOf k) h.ch s3)

theorem State.handSwitch_placed {k : Nat} {h : Hand} (s : State) :
    ((s.handSwitch k h).chan (weltOf k)).placed = (.track, (s.chan h.ch).trav.pReal, (s.chan h.ch).trav.pReal) := by
  unfold State.handSwitch
  extract_lets x s1 s2 v s3
  have h3 : (s3.chan (weltOf k)).placed = (.track, x.trav.pReal, x.trav.pReal) := by simp only [s3, State.modChan_chan, Chan.placed]
  refine Eq.trans ?_ h3
  exact (State.modChan_reads (r := Chan.placed) rfl (weltOf k)).trans (State.regrid_reads (r := Chan.placed) (by intros; rfl) (weltOf k) (weltOf k) s3)

theorem State.handSwitch_hand {k : Nat} {h : Hand} (s : State) : ∃ g, ((s.handSwitch k h).oct k).hand = some g ∧ g.step = 5 ∧ g.ch = h.ch := by
  unfold State.handSwitch
  extract_lets x s1 s2 v s3
  refine ⟨{ h with step := 5, agree := 0, entered := false, skew := x.handSkew }, ?_, rfl, rfl⟩
  rw [State.oct_of_outside (s := s1) k (by simp [s3, s2])]
  simp only [s1, State.modOct_oct]

theorem State.handEnd_served {k : Nat} {h : Hand} {s : State} (hh : (s.oct k).hand = some h) (hc : h.ch < 256) :
    ((s.handEnd k).chan h.ch).served = (.track, .own, false) := by
  unfold State.handEnd
  rw [hh]
  dsimp only
  rw [State.takeoverRetry_chan_user hc, State.weltRelease_chan_ne (by rw [weltOf]; omega)]
  refine (State.regrid_reads (r := Chan.served) (by intros; rfl) h.ch h.ch _).trans ?_
  rw [State.modChan_chan]
  rfl

/-- Settles O35: a switch, an end and a return leave of the two channels what their own last write says; nothing after it reaches that. -/
theorem handoversAndClearing : Obligations.HandoversAndClearing := by
  refine ⟨⟨?_, ?_, ?_, ?_, ?_, ?_⟩, ?_, ?_, ?_, ?_, ?_⟩
  · intro k h s hh ha
    change execHandoverSwitch k s = _
    unfold execHandoverSwitch
    rw [hh]
    exact if_pos ha
  · intro k h s hh ha hst hc
    have hexec : exec (.handoverSwitch k) s = execHandoverSwitch k s := rfl
    unfold execHandoverSwitch at hexec
    rw [hh] at hexec
    dsimp only at hexec
    rw [if_neg (Nat.not_lt.2 ha), if_pos hst] at hexec
    refine ⟨_, hexec, ?_⟩
    have hserved := State.handSwitch_served (k := k) hc s
    have hplaced := State.handSwitch_placed (k := k) (h := h) s
    have hhand := State.handSwitch_hand (k := k) (h := h) s
    generalize s.handSwitch k h = t at hserved hplaced hhand ⊢
    split
    · next q _ =>
      rw [← State.toPart_reads (r := Chan.served) (by intros; rfl) q (q.partFrom 1)] at hserved
      rw [← State.toPart_reads (r := Chan.placed) (by intros; rfl) q (q.partFrom 1)] at hplaced
      rw [← State.oct_of_outside (t := t.toPart q (q.partFrom 1)) k (by simp)] at hhand
      generalize t.toPart q (q.partFrom 1) = t' at hserved hplaced hhand ⊢
      simp only [Chan.served, Chan.placed, Prod.mk.injEq] at hserved hplaced
      obtain ⟨h1, h2, h3⟩ := hserved
      exact ⟨h1, h2, h3, hplaced.1, hplaced.2.1, hplaced.2.2, hhand⟩
    · simp only [Chan.served, Chan.placed, Prod.mk.injEq] at hserved hplaced
      obtain ⟨h1, h2, h3⟩ := hserved
      exact ⟨h1, h2, h3, hplaced.1, hplaced.2.1, hplaced.2.2, hhand⟩
  · intro k h s hh ha hst hc hrun
    have hexec : exec (.handoverSwitch k) s = execHandoverSwitch k s := rfl
    unfold execHandoverSwitch at hexec
    rw [hh] at hexec
    dsimp only at hexec
    rw [if_neg (Nat.not_lt.2 ha), if_neg (by omega), if_pos hst, hrun] at hexec
    refine ⟨_, hexec, ?_⟩
    have hserved := State.handEnd_served hh hc
    generalize s.handEnd k = t at hserved ⊢
    simpa only [Chan.served, Prod.mk.injEq] using hserved
  · intro k h s hh hst hf
    have hexec : exec (.handT k) s = execHandT k s := rfl
    unfold execHandT at hexec
    rw [hh] at hexec
    dsimp only at hexec
    rw [if_neg (by omega), if_pos hst, if_neg (by omega)] at hexec
    refine ⟨_, hexec, ?_⟩
    have hcount (t : State) : (t.count h.ch 7).oct k = t.oct k := State.oct_of_outside k (by simp)
    dsimp only
    rw [hcount, State.modOct_oct]
  · intro k h s hh hst
    have hexec : exec (.handT k) s = execHandT k s := rfl
    unfold execHandT at hexec
    rw [hh] at hexec
    dsimp only at hexec
    rw [if_pos hst] at hexec
    refine ⟨_, hexec, fun q hq hqc => ?_⟩
    rw [State.cal_of_outside (s := s.calAbortIf 0x0E fun r => r.kind = 0 ∧ r.unit = h.ch) (by simp)] at hq
    simpa [hqc] using (State.calAbortIf_runs hq).2
  · intro k h s hh hst
    have hexec : exec (.returnRetry k) s = execReturnRetry k s := rfl
    unfold execReturnRetry at hexec
    rw [hh] at hexec
    dsimp only at hexec
    rw [if_pos hst] at hexec
    refine ⟨_, hexec, ?_⟩
    unfold State.beginReturn
    rw [hh]
    dsimp only
    refine ⟨?_, State.switchTo_goal _ _ _⟩
    rw [State.oct_of_outside (s := s.modOct k fun o => { o with hand := some { h with step := 6, agree := 0, entered := false, trav := .init } }) k
      (by simp), State.modOct_oct]
  · intro k c s hw hst hg
    have hexec : exec (.weltTakeover k) s = execWeltTakeover k s := rfl
    unfold execWeltTakeover at hexec
    rw [hw] at hexec
    dsimp only at hexec
    rw [if_pos ⟨hst, hg⟩] at hexec
    refine ⟨_, hexec, ?_⟩
    dsimp only
    rw [← State.store_of_outside (t := s.switchTo c .welt) (s := s) (by simp)]
    exact ⟨⟨none, 0, .takeover c, 0, [], _, _⟩, rfl, rfl⟩
  · intro k c s hw hst
    change execWeltTakeover k s = _
    unfold execWeltTakeover
    rw [hw]
    exact if_neg fun h => hst h.1
  · intro h kind unit s g hm hc hr
    refine ⟨_, rfl, ?_⟩
    have hm' : ¬ (s.taken h).pwr.mode ≠ .survey := fun e => e hm
    have hc' : ¬ ((!(s.taken h).cal.checked.contains (retKey kind unit)) = true ∨ (!(s.taken h).isRetired kind unit) = true) := by
      have e : (s.taken h).isRetired kind unit = s.isRetired kind unit := rfl
      rw [e, State.taken_cal, hc, hr]
      decide
    rw [State.viaDoor_taken g, State.opMntClearRetire, if_neg hm', if_neg hc']
    exact State.commit_queued _ _ _ _
  · intro h kind unit s g hm
    change Host.Outcome.next _ = _
    have hm' : (s.taken h).pwr.mode ≠ .survey := hm
    rw [State.viaDoor_taken g, State.opMntClearRetire, if_pos hm']
  · intro h kind unit s g hm hc
    change Host.Outcome.next _ = _
    have hm' : ¬ (s.taken h).pwr.mode ≠ .survey := fun e => e hm
    have hc' : (!(s.taken h).cal.checked.contains (retKey kind unit)) = true ∨ (!(s.taken h).isRetired kind unit) = true := by
      have e : (s.taken h).isRetired kind unit = s.isRetired kind unit := rfl
      rw [e, State.taken_cal]
      exact hc.imp (by intro h; rw [h]; rfl) (by intro h; rw [h]; rfl)
    rw [State.viaDoor_taken g, State.opMntClearRetire, if_neg hm', if_pos hc']

end Sys2Proof.Machine
end

section
/-!
PROOFS. WAKE and BYPASS, the commands that change the mode (R477 to R487).
-/
namespace Sys2Proof.Machine
open Sys2Proof

/-! ## The mode outside SERVICE outlasts the loss of the timescale's upstream -/

section
variable {m : Mode} (hm : m ≠ .service)
include hm

theorem State.bndGone_mode (c : Nat) {s : State} (h : s.pwr.mode = m) : (s.bndGone c).pwr.mode = m :=
  State.bndGone_keeps (P := fun t => t.pwr.mode = m) id (fun {t} h => by
    unfold State.tsUpLost
    split
    · unfold State.tsCoast
      extract_lets s1 s2 s3
      have h3 : s3.pwr.mode = m := (congrArg PwrS.mode (State.pwr_of_outside (s := t) (by simp [s3, s2, s1]))).trans h
      rwa [if_neg (by rw [h3]; exact hm)]
    · exact h) c h

theorem State.enterBypass_mode (cause : BypCause) (c : Nat) {s : State} (h : s.pwr.mode = m) : (s.enterBypass cause c).pwr.mode = m := by
  unfold State.enterBypass
  extract_lets x k safety s1 s2 s3 s4 s5
  have h2 : s2.pwr = s.pwr := State.pwr_of_outside (by simp only [s2, s1, ite_outside]; simp)
  have h3 : s3.pwr = s.pwr := by
    rw [← h2]
    refine State.pwr_of_outside ?_
    simp only [s3]
    repeat' split
    all_goals simp
  have h5 : s5.pwr = s.pwr := by
    rw [← h3]
    exact State.pwr_of_outside (by simp [s5, s4])
  refine State.bndGone_mode hm c ?_
  rw [← h, ← h5]
  split
  · exact congrArg PwrS.mode (State.pwr_of_outside (by simp))
  · rfl

end

/-- The device is in mode `m`. -/
def State.ModeIs (m : Mode) (s : State) : Prop := s.pwr.mode = m

/-- BYPASS remembers the mode that it interrupts. -/
theorem State.devBypass_bypFrom (cause : Nat) {m : Mode} (hm : m ≠ .service) (hb : m ≠ .bypass) {s : State} (h : s.pwr.mode = m) :
    (s.devBypass cause).pwr.bypFrom = m := by
  unfold State.devBypass
  extract_lets s1 s2 s3 s4 s5
  have h1 : s1.pwr.mode = m := by rw [State.pwr_of_outside (s := s) (by simp [s1]), h]
  have h2 : s2.ModeIs m := by
    refine forAll_keeps (P := State.ModeIs m) (fun c t ht => ?_) allChans h1
    split
    · exact State.enterBypass_mode hm _ c ht
    · exact ht
  have h3 : s3.pwr.mode = m := by rw [State.pwr_of_outside (s := s2) (by simp [s3])]; exact h2
  have h4 : s4.pwr.bypFrom = m := by
    simp only [s4, State.modPwr]
    rw [if_neg (by rw [h3]; exact hb), h3]
  have h5 : s5.pwr = s4.pwr := by
    simp only [s5]
    split
    · exact State.pwr_of_outside (by simp)
    · rfl
  rw [State.setMode_pwr (r := PwrS.bypFrom) (by intros; rfl), h5, h4]

/-- The end of BYPASS leaves the mode given, and no cause. -/
theorem State.leaveDevBypass_pwr (m : Mode) (s : State) : (s.leaveDevBypass m).pwr.mode = m ∧ (s.leaveDevBypass m).pwr.bypCause = 0 := by
  unfold State.leaveDevBypass
  extract_lets s1
  rw [State.pwr_of_outside (s := s1) (by simp)]
  exact ⟨State.setMode_mode _ _, State.setMode_bypCause _ _⟩

/-! ## The steps of WAKE -/

section
variable {α : Type} {r : PwrS → α}

theorem State.tsStop_pwr (hr : ∀ p m e, r { p with mode := m, ev := e } = r p) (s : State) : r s.tsStop.pwr = r s.pwr := by
  unfold State.tsStop
  split
  · rfl
  · extract_lets s1 s2 s3
    have h3 : s3.pwr = s.pwr := (State.pwr_of_outside (s := s2) (by simp [s3])).trans rfl
    rw [← h3]
    split
    · exact State.setMode_pwr hr _ s3
    · rfl

theorem State.refReset_pwr (hr : ∀ p m e, r { p with mode := m, ev := e } = r p) (s : State) : r s.refReset.pwr = r s.pwr := by
  unfold State.refReset
  extract_lets s1 v s2 w s3 s4 s5
  rw [State.pwr_of_outside (s := s1) (by simp [s5, s4, s3, s2])]
  exact State.tsStop_pwr hr s

/-- A quadrant that is powered reaches its own domain's bits. -/
theorem State.onQuad_pwr (hr : ∀ p w i, r { p with pwr := w, iso := i } = r p) (j : Nat) (s : State) : r (s.onQuad j).pwr = r s.pwr := by
  unfold State.onQuad
  split
  · rfl
  · extract_lets s1
    rw [State.pwr_of_outside (s := s1) (forAll_outside _ _ s1 fun k s => by simp)]
    exact hr s.pwr _ _

/-- The first step loads, and leaves the power state otherwise alone. -/
theorem State.wakeStep_one {n : Nat} (hn : n = 1) (temps : List (OctIx × BitVec 16)) (s : State) :
    (s.wakeStep n temps).pwr = { s.pwr with step := n, halt := false } := by
  unfold State.wakeStep
  extract_lets +onlyGivenNames s0
  split
  · extract_lets s1 s2
    have h2 : s2.pwr = s0.pwr := State.pwr_of_outside (by simp [s2, s1])
    refine Eq.trans ?_ h2
    clear_value s2
    split <;> rfl
  · exact absurd hn (by decide)
  · exact absurd hn (by decide)
  · exact absurd hn (by decide)
  · next h _ _ _ => exact absurd hn h

variable (hr : ∀ p m e w i, r { p with mode := m, ev := e, pwr := w, iso := i } = r p)
include hr

theorem State.wakeStep_pwr (n : Nat) (temps : List (OctIx × BitVec 16)) (s : State) :
    r (s.wakeStep n temps).pwr = r { s.pwr with step := n, halt := false } := by
  have hr1 : ∀ p m e, r { p with mode := m, ev := e } = r p := fun p m e => hr p m e p.pwr p.iso
  have hr2 : ∀ p w i, r { p with pwr := w, iso := i } = r p := fun p w i => hr p p.mode p.ev w i
  obtain rfl | hn := Decidable.em (n = 1)
  · exact congrArg r (s.wakeStep_one rfl temps)
  unfold State.wakeStep
  extract_lets +onlyGivenNames s0
  split
  · exact absurd rfl hn
  · extract_lets s1
    rw [State.refReset_pwr hr1]
    exact hr2 s0.pwr _ _
  · extract_lets s1 s2 s3 v s4
    have h2 : s2.pwr = s1.pwr := rfl
    have h4 : s4.pwr = s2.pwr := State.pwr_of_outside (by simp [s4, s3])
    rw [State.pwr_of_outside (s := s4) (by simp), h4, h2]
    exact hr2 s0.pwr _ _
  · extract_lets s1 s2
    have h1 : r s1.pwr = r s0.pwr := by
      refine forAll_reads (r := fun s : State => r s.pwr) (fun j s => ?_) (upTo 4) s0
      split
      · exact State.onQuad_pwr hr2 j s
      · rfl
    rw [State.pwr_of_outside (s := s1) (by simp [s2]), h1]
    rfl
  · extract_lets v s1
    have h1 : r s1.pwr = r s0.pwr := rfl
    refine Eq.trans ?_ h1
    split
    · exact hr2 s1.pwr _ _
    · rfl

end

/-- Step and halt of WAKE. -/
def PwrS.progress (p : PwrS) : Nat × Bool := (p.step, p.halt)

theorem State.wakeBegin_pwr (s : State) : s.wakeBegin.pwr.mode = .wake ∧ s.wakeBegin.pwr.step = 1 ∧ s.wakeBegin.pwr.auto = false := by
  unfold State.wakeBegin
  rw [State.wakeStep_one rfl]
  exact ⟨State.setMode_mode _ _, rfl, State.setMode_pwr (r := PwrS.auto) (by intros; rfl) _ _⟩

/-- Settles O36: each clause follows from what the steps of WAKE, and the entry to and exit from BYPASS, leave of the power state. -/
theorem wakeRunsItsSteps : Obligations.WakeRunsItsSteps := by
  refine ⟨?_, ?_, ?_, ?_, ?_, ?_, ?_, ?_⟩
  · intro h s g hm hb
    refine ⟨_, rfl, ?_⟩
    have hno : ¬ ((s.taken h).pwr.mode ≠ .stowed ∨ (s.taken h).pwr.brace = true) := by simp [hm, hb]
    rw [State.viaDoor_taken g, State.opDevWake, if_neg hno]
    obtain ⟨h1, h2, -⟩ := (s.taken h).wakeBegin_pwr
    generalize (s.taken h).wakeBegin = t at h1 h2 ⊢
    exact ⟨State.reply_answered _ _ _ _, h1, h2⟩
  · intro h s g hno
    change Host.Outcome.next _ = _
    have hno' : (s.taken h).pwr.mode ≠ .stowed ∨ (s.taken h).pwr.brace = true := hno
    rw [State.viaDoor_taken g, State.opDevWake, if_pos hno']
  · intro s hm ha hr hb hs
    exact ⟨_, if_pos ⟨hm, ha, by simp [hr], by simp [hb], hs⟩, s.wakeBegin_pwr⟩
  · intro temps s hw hd hs
    refine ⟨_, if_pos ⟨hw, hd⟩, ?_⟩
    rw [State.wakeNext, if_neg (by omega)]
    have h := State.wakeStep_pwr (r := PwrS.progress) (by intros; rfl) (s.pwr.step + 1) temps s
    simpa only [PwrS.progress, Prod.mk.injEq] using h
  · intro temps s h
    refine if_neg fun ⟨h1, h2⟩ => ?_
    obtain h | h := h
    · rw [h] at h1; exact Bool.false_ne_true h1
    · rw [h] at h2; exact Bool.false_ne_true h2
  · intro s hm hs hl
    refine ⟨_, if_pos ⟨hm, hs, by simp [hl]⟩, State.devBypass_mode _ _, State.devBypass_bypCause _ _, ?_⟩
    refine State.devBypass_bypFrom 3 (by decide) (by decide) ?_
    refine forAll_keeps (P := State.ModeIs .wake) (fun j t ht => ?_) (upTo 4) hm
    split
    · exact (State.onQuad_pwr (r := PwrS.mode) (by intros; rfl) j t).trans ht
    · exact ht
  · intro s hb hf
    have hexec : exec .bypassExit s = execBypassExit s := rfl
    unfold execBypassExit at hexec
    rw [if_neg (by simp [hb]), if_neg hf] at hexec
    exact ⟨_, hexec, s.leaveDevBypass_pwr _⟩
  · intro s hb
    exact if_pos (by rw [hb]; rfl)

/-! ## Bits of the power state -/

theorem testBit_add_two_pow {x i j : Nat} (hx : x.testBit i = false) (hj : j ≠ i) : (x + 2 ^ i).testBit j = x.testBit j := by
  obtain hlt | hgt := Nat.lt_or_gt_of_ne hj
  · rw [Nat.add_comm, Nat.testBit_two_pow_add_gt hlt]
  · have hq : x / 2 ^ i % 2 = 0 := by
      rw [Nat.testBit_eq_decide_div_mod_eq] at hx
      have := of_decide_eq_false hx
      omega
    have hdiv : (x + 2 ^ i) / 2 ^ (i + 1) = x / 2 ^ (i + 1) := by
      rw [Nat.pow_succ, ← Nat.div_div_eq_div_mul, ← Nat.div_div_eq_div_mul, Nat.add_div_right x (Nat.two_pow_pos i)]
      omega
    obtain ⟨d, rfl⟩ : ∃ d, j = d + (i + 1) := ⟨j - (i + 1), by omega⟩
    rw [← Nat.testBit_div_two_pow, hdiv, Nat.testBit_div_two_pow]

theorem testBit_setBit_ne (x : Nat) {i j : Nat} (b : Bool) (hj : j ≠ i) : (setBit x i b).testBit j = x.testBit j := by
  unfold setBit
  split
  · rfl
  · next h =>
    cases b with
    | true =>
      rw [if_pos rfl]
      exact testBit_add_two_pow (by simpa using h) hj
    | false =>
      have hx : x.testBit i = true := by simpa using h
      have hle := Nat.ge_two_pow_of_testBit hx
      have hb := Nat.testBit_two_pow_add_eq (x - 2 ^ i) i
      rw [Nat.add_sub_cancel' hle, hx] at hb
      have := testBit_add_two_pow (x := x - 2 ^ i) (by simpa using hb.symm) hj
      rw [Nat.sub_add_cancel hle] at this
      exact this.symm

/-! ## Sessions -/

theorem State.benchEnd_bench (reason gen : Nat) (s : State) : (s.benchEnd reason gen).cal.bench = none := by
  unfold State.benchEnd
  split
  · extract_lets w s1
    rw [State.cal_of_outside (s := s1) (by simp)]
    rfl
  · next h => exact h

theorem State.benchEnd_runs (reason gen : Nat) (s : State) : (s.benchEnd reason gen).cal.runs = s.cal.runs := by
  unfold State.benchEnd
  split
  · extract_lets w s1
    rw [State.cal_of_outside (s := s1) (by simp)]
    rfl
  · rfl

/-- Domain `d` is powered down. -/
def State.DomDown (d : Nat) (s : State) : Prop := s.pwr.pwr.testBit d = false

section
variable {d : Nat}

theorem State.DomDown.stays {s t : State} (h : s.DomDown d) {i : Nat} (e : t.pwr.pwr = setBit s.pwr.pwr i false) : t.DomDown d := by
  rw [State.DomDown, e]
  by_cases hd : d = i
  · rw [hd]
    exact testBit_setBit _ _ _
  · exact (testBit_setBit_ne _ _ hd).trans h

theorem State.domDown_self {s t : State} (e : t.pwr.pwr = setBit s.pwr.pwr d false) : t.DomDown d := by
  rw [State.DomDown, e]
  exact testBit_setBit _ _ _

/-! ## Domains are powered down -/

/-- Domain `i` is powered down and out of island reset. -/
def PwrS.off (i : Nat) (p : PwrS) : PwrS := { p with pwr := setBit p.pwr i false, iso := setBit p.iso i false }

theorem State.offCas_pwr (s : State) : s.offCas.pwr = s.pwr.off pdCas := rfl

theorem State.offQuad_pwr (j : Nat) (s : State) : (s.offQuad j).pwr = s.pwr.off (pdQ j) := by
  unfold State.offQuad
  extract_lets ks s1 v w s2
  have h2 : s2.pwr = s.pwr := State.pwr_of_outside (by
    simp only [s2]
    refine (forAll_outside _ _ s1 fun k s => ?_).trans (by simp [s1])
    refine (forAll_outside _ _ _ fun c s => ?_).trans (by simp)
    exact (forAll_outside _ _ _ fun i s => by simp).trans ((forAll_outside _ _ _ fun i s => by simp).trans (by simp)))
  rw [← h2]
  rfl

theorem State.offEng_pwr (s : State) : s.offEng.pwr = s.pwr.off pdEng := by
  unfold State.offEng
  extract_lets s1 v1 v2 v3 s2 s3 s4
  have h1 : s1.pwr = s.pwr := State.pwr_of_outside (by simp [s1])
  rw [← h1]
  clear_value s1
  rfl

theorem State.offRef_pwr {α : Type} {r : PwrS → α} (hr : ∀ p m e, r { p with mode := m, ev := e } = r p) (s : State) :
    r s.offRef.pwr = r (s.pwr.off pdRef) := by
  unfold State.offRef
  extract_lets s1
  have h1 : (s1.keepWords pdRef).pwr = s.pwr := State.pwr_of_outside (by simp [s1])
  have h2 := State.refReset_pwr (r := fun p => r (p.off pdRef)) (fun p m e => hr (p.off pdRef) m e) (s1.keepWords pdRef)
  rw [← h1, ← h2]
  generalize (s1.keepWords pdRef).refReset = t
  rfl

theorem State.offRef_eq (s : State) : s.offRef.pwr.pwr = setBit s.pwr.pwr pdRef false := State.offRef_pwr (r := PwrS.pwr) (by intros; rfl) s

theorem State.offAll_stopped (s : State) : s.offAll.ts.st = .stopped := by
  unfold State.offAll State.offRef
  extract_lets s1
  have h := (s1.keepWords pdRef).refReset_lost.2.2.2.1
  generalize (s1.keepWords pdRef).refReset = t at h ⊢
  exact h

theorem State.offAll_pwr {α : Type} {r : PwrS → α} (hr : ∀ p m e w i, r { p with mode := m, ev := e, pwr := w, iso := i } = r p) (s : State) :
    r s.offAll.pwr = r s.pwr := by
  have hoff (i : Nat) (p : PwrS) : r (p.off i) = r p := hr p p.mode p.ev _ _
  unfold State.offAll
  rw [State.offRef_pwr fun p m e => hr p m e p.pwr p.iso, hoff, State.offEng_pwr, hoff]
  refine (forAll_reads (r := fun s : State => r s.pwr) (fun j s => ?_) [3, 2, 1, 0] s.offCas).trans (by rw [State.offCas_pwr, hoff])
  split
  · rw [State.offQuad_pwr, hoff]
  · rfl

/-- With all of them powered down, so is each domain from PD_REF to PD_CAS. -/
theorem State.offAll_down (h3 : 3 ≤ d) (h9 : d ≤ 9) (s : State) : s.offAll.DomDown d := by
  unfold State.offAll
  have hstep (j : Nat) (t : State) (i : Nat) (h : t.DomDown i) : (if t.pwr.pwr.testBit (pdQ j) then t.offQuad j else t).DomDown i := by
    split
    · exact h.stays (congrArg PwrS.pwr (t.offQuad_pwr j))
    · exact h
  have hcas : (forAll [3, 2, 1, 0] (fun j s => if s.pwr.pwr.testBit (pdQ j) then s.offQuad j else s) s.offCas).DomDown pdCas :=
    forAll_keeps (P := State.DomDown pdCas) (fun j t h => hstep j t _ h) [3, 2, 1, 0] (State.domDown_self (congrArg PwrS.pwr s.offCas_pwr))
  have hquad (j : Nat) (hj : j ∈ [3, 2, 1, 0]) :
      (forAll [3, 2, 1, 0] (fun j s => if s.pwr.pwr.testBit (pdQ j) then s.offQuad j else s) s.offCas).DomDown (pdQ j) := by
    refine forAll_establishes (Q := fun j t => t.DomDown (pdQ j)) (fun j t => ?_) (fun j k t h => hstep k t _ h) hj s.offCas
    split
    · exact State.domDown_self (congrArg PwrS.pwr (t.offQuad_pwr j))
    · next h => exact Bool.eq_false_iff.2 h
  generalize forAll [3, 2, 1, 0] (fun j s => if s.pwr.pwr.testBit (pdQ j) then s.offQuad j else s) s.offCas = t at hcas hquad
  obtain rfl | rfl | rfl | hq : d = pdRef ∨ d = pdEng ∨ d = pdCas ∨ ∃ j ∈ [3, 2, 1, 0], d = pdQ j := by
    simp only [List.mem_cons, List.not_mem_nil, or_false, exists_eq_or_imp, exists_eq_left, pdRef, pdEng, pdCas, pdQ]
    omega
  · exact State.domDown_self t.offEng.offRef_eq
  · exact (State.domDown_self (congrArg PwrS.pwr t.offEng_pwr)).stays t.offEng.offRef_eq
  · exact (hcas.stays (congrArg PwrS.pwr t.offEng_pwr)).stays t.offEng.offRef_eq
  · obtain ⟨j, hj, rfl⟩ := hq
    exact ((hquad j hj).stays (congrArg PwrS.pwr t.offEng_pwr)).stays t.offEng.offRef_eq

end

/-- Settles O37: each command ends with a change of mode that the folds over channels after it keep. -/
theorem modeCommands : Obligations.ModeCommands := by
  refine ⟨?_, ?_, ?_, ?_, ?_, ?_⟩
  · intro h s g hm
    refine ⟨_, rfl, ?_⟩
    have hm' : ¬ (s.taken h).pwr.mode ≠ .survey := fun e => e hm
    rw [State.viaDoor_taken g, State.opDevService, if_neg hm']
    extract_lets s1 s2
    have hts : s1.ts = s.ts := State.ts_of_outside (s := s.taken h) (by simp [s1])
    have hmode : s2.pwr.mode = s.serviceMode := by
      refine (State.setMode_mode _ _).trans ?_
      unfold State.serviceMode
      rw [hts]
    have hcal : s2.cal.checked = [] :=
      congrArg CalS.checked (State.cal_of_outside (s := s1.modCal fun c => { c with checked := [] }) (by simp [s2]))
    refine ⟨State.reply_answered _ _ _ _, ?_, ?_⟩
    · rw [← hmode]
      exact congrArg PwrS.mode (State.pwr_of_outside (by simp))
    · rw [← hcal]
      exact congrArg CalS.checked (State.cal_of_outside (by simp))
  · intro h s g hm
    change Host.Outcome.next _ = _
    have hm' : (s.taken h).pwr.mode ≠ .survey := hm
    rw [State.viaDoor_taken g, State.opDevService, if_pos hm']
  · intro h s g hm
    refine ⟨_, rfl, ?_⟩
    have hm' : ¬ ((s.taken h).pwr.mode ≠ .service ∧ (s.taken h).pwr.mode ≠ .holdover) := fun e => hm.elim e.1 e.2
    rw [State.viaDoor_taken g, State.opDevSurvey, if_neg hm']
    extract_lets s1 s2
    have hruns : s1.cal.runs = [] := by
      refine List.eq_nil_iff_forall_not_mem.2 fun q hq => ?_
      have hq' : q ∈ ((s.taken h).calAbortIf 0x0D (fun _ => true)).cal.runs := by
        rwa [← State.benchEnd_runs 0x0D 0, ← State.cal_of_outside (t := s1) (by simp [s1])]
      exact Bool.noConfusion (State.calAbortIf_runs hq').2
    have hbench : s1.cal.bench = none := by
      rw [State.cal_of_outside (t := s1) (s := ((s.taken h).calAbortIf 0x0D (fun _ => true)).benchEnd 0x0D 0) (by simp [s1])]
      exact State.benchEnd_bench _ _ _
    have hcal (t : State) (r : Rep) :
        ((forAll allChans (fun c s => if (s.chan c).st.surveyed then s.enterBypass .survey c else s) t).reply h 0x0A03 r).cal = t.cal :=
      State.cal_of_outside (by simp)
    refine ⟨State.reply_answered _ _ _ _, ?_, ?_, ?_, ?_⟩
    · have hmode : (forAll allChans (fun c s => if (s.chan c).st.surveyed then s.enterBypass .survey c else s) s2).ModeIs .survey := by
        refine forAll_keeps (P := State.ModeIs .survey) (fun c t ht => ?_) allChans (State.setMode_mode _ _)
        split
        · exact State.enterBypass_mode (by decide) _ _ ht
        · exact ht
      exact (congrArg PwrS.mode (State.pwr_of_outside (by simp))).trans hmode
    · rw [hcal]
      rfl
    · rw [hcal]
      exact hruns
    · rw [hcal]
      exact hbench
  · intro h s g h1 h2
    change Host.Outcome.next _ = _
    have hm' : (s.taken h).pwr.mode ≠ .service ∧ (s.taken h).pwr.mode ≠ .holdover := ⟨h1, h2⟩
    rw [State.viaDoor_taken g, State.opDevSurvey, if_pos hm']
  · intro h s g hm
    refine ⟨_, rfl, ?_⟩
    have hm' : ¬ (s.taken h).pwr.mode = .stowed := hm
    rw [State.viaDoor_taken g, State.opDevStow, if_neg hm']
    extract_lets s1
    have hts : s1.ts.st = .stopped := by
      rw [State.ts_of_outside (t := s1) (s := (s.taken h).abortOps.tsStop.stopOutputs.offAll) (by simp [s1])]
      exact State.offAll_stopped _
    have hpwr (d : Nat) (h3 : 3 ≤ d) (h9 : d ≤ 9) : s1.pwr.pwr.testBit d = false := by
      rw [show s1.pwr.pwr = _ from State.setMode_pwr (r := PwrS.pwr) (by intros; rfl) _ _]
      exact State.offAll_down h3 h9 _
    have hmode : s1.pwr.mode = .stowed := State.setMode_mode _ _
    clear_value s1
    exact ⟨State.reply_answered _ _ _ _, hmode, rfl, hts, hpwr⟩
  · intro h s g hm
    change Host.Outcome.next _ = _
    have hm' : (s.taken h).pwr.mode = .stowed := hm
    rw [State.viaDoor_taken g, State.opDevStow, if_pos hm']

end Sys2Proof.Machine
end

section
/-!
PROOFS. Resets and boot, losses of rails (R491 to R500).
-/
namespace Sys2Proof.Machine
open Sys2Proof

/-! ## Boot -/

/-- A reading that the ROM's entry, its loads and writes of the boot header and the start of an image leave alone outlasts the choice of an image. -/
theorem State.bootImage_reads {β : Type} {r : State → β} (hstart : ∀ slot sram trial p s, r (s.startImage slot sram trial p) = r s)
    (hrom : ∀ s : State, r (({ s with img := none } : State).modPwr fun x => { x with rom := true }) = r s) (hload : ∀ s : State, r s.loadBoot = r s)
    (hwrite : ∀ pref a b s, r (s.writeBoot pref a b) = r s) (s : State) : r s.bootImage = r s := by
  unfold State.bootImage
  extract_lets s1 s2 p other
  have h1 : r s1 = r s := hrom s
  have h2 : r s2 = r s1 := hload s1
  have hother (t : State) : r (other t) = r t := by
    simp only [other]
    split
    · split
      · exact hstart _ _ _ _ t
      · rfl
    · rfl
  rw [← h1]
  split
  · rfl
  rw [← h2]
  split
  · split
    · exact hother s2
    split
    · exact hstart _ _ _ _ s2
    split
    · split
      · rfl
      · exact (hstart _ _ _ _ _).trans (hwrite _ _ _ s2)
    · exact hother s2
  · exact hother s2

/-- What a boot leaves: of the supplies what `q` reads, and the OTP mirror. -/
def State.bootKept {β : Type} (q : PwrS → β) (s : State) : β × Tab (Nat × Nat) := (q s.pwr, s.otp.mirror)

section
variable {β : Type} {q : PwrS → β} (hq : ∀ p b, q { p with rom := b } = q p)

theorem State.bootKept_of_outside {s t : State} (h : t.outside (allBut [.pwr, .otp]) = s.outside (allBut [.pwr, .otp])) : t.bootKept q = s.bootKept q := by
  rw [State.bootKept, State.bootKept, Only.pwr h (by simp), Only.otp h (by simp)]

include hq

theorem State.startImage_kept (slot : Nat) (sram trial : Bool) (p : List Nat) (s : State) : (s.startImage slot sram trial p).bootKept q = s.bootKept q := by
  unfold State.startImage
  extract_lets s1 s2
  have h2 : s2.bootKept q = s.bootKept q := congrArg (·, s.otp.mirror) (hq s.pwr false)
  rw [← h2]
  split
  · rfl
  · unfold State.raiseAr
    split <;> rfl

theorem State.bootImage_kept (s : State) : s.bootImage.bootKept q = s.bootKept q :=
  State.bootImage_reads (State.startImage_kept hq) (fun s => congrArg (·, s.otp.mirror) (hq s.pwr true))
    (fun s => State.bootKept_of_outside (by simp)) (fun pref a b s => State.bootKept_of_outside (by simp)) s

theorem State.boot_kept (hb : ∀ p h a e, q { p with held := h, auto := a, ev := e } = q p) (s : State) : s.boot.bootKept q = s.bootKept q := by
  unfold State.boot
  extract_lets s1
  have h1 : s1.bootKept q = s.bootKept q :=
    (State.bootImage_kept hq _).trans (congrArg (·, s.otp.mirror) (hb s.pwr false s.pwr.auto s.pwr.ev))
  rw [← h1]
  split
  · exact congrArg (·, s1.otp.mirror) (hb s1.pwr s1.pwr.held true _)
  · rfl

theorem State.endReset_kept (hb : ∀ p h a e, q { p with held := h, auto := a, ev := e } = q p) (s : State) : s.endReset.bootKept q = s.bootKept q := by
  unfold State.endReset
  split
  · exact State.boot_kept hq hb s
  · exact congrArg (·, s.otp.mirror) (hb s.pwr true s.pwr.auto s.pwr.ev)

end

/-- Timescale, channels, parameters and engines are as a reset leaves them. -/
def State.Fresh (t : State) : Prop :=
  t.ts = State.reset.ts ∧ t.chans = State.reset.chans ∧ t.par = State.reset.par ∧ t.engs = State.reset.engs

theorem State.Fresh.of_outside {s t : State} (h : s.Fresh)
    (hts : t.outside (allBut [.ts, .chans, .par, .engs]) = s.outside (allBut [.ts, .chans, .par, .engs])) :
    t.Fresh := by
  rw [State.Fresh, Only.ts hts (by simp), Only.chans hts (by simp), Only.par hts (by simp), Only.engs hts (by simp)]
  exact h

theorem State.warm_fresh (s : State) : s.warm.Fresh := ⟨rfl, rfl, rfl, rfl⟩

/-- What a reset names in the power state. -/
def PwrS.reset (p : PwrS) : Mode × Nat × Bool × Nat := (p.mode, p.cause, p.brace, p.rail)

theorem State.warmReset_kept (cause : Nat) (s : State) :
    (s.warmReset cause).bootKept PwrS.reset = ((.stowed, cause, s.pwr.brace, s.pwr.rail), s.otp.mirror) := by
  unfold State.warmReset
  refine (State.boot_kept (by intros; rfl) (by intros; rfl) _).trans ?_
  have hp : s.cutReset.pwr = s.pwr := State.pwr_of_outside (by simp)
  have ho : s.cutReset.otp = s.otp := State.otp_of_outside (by simp)
  have h : ((s.warm.modPwr fun p => { p with cause := cause }).bootKept PwrS.reset) =
      ((.stowed, cause, s.cutReset.pwr.brace, s.cutReset.pwr.rail), s.cutReset.otp.mirror) := rfl
  rw [h, hp, ho]

theorem State.cold_kept (cause : Nat) (pfail : Bool) (s : State) :
    (s.cold cause pfail).bootKept PwrS.reset = ((.stowed, cause, pfail, s.pwr.rail), s.otp.mirror) := by
  unfold State.cold
  extract_lets s1 s2 s3 s4
  have hp : s.cutReset.pwr = s.pwr := State.pwr_of_outside (by simp)
  have ho : s.cutReset.otp = s.otp := State.otp_of_outside (by simp)
  have h : s4.bootKept PwrS.reset = ((.stowed, cause, pfail, s.cutReset.pwr.rail), s.cutReset.otp.mirror) := rfl
  rw [← hp, ← ho, ← h]
  split <;> rfl

theorem State.cold_fresh (cause : Nat) (pfail : Bool) (s : State) : (s.cold cause pfail).Fresh := by
  unfold State.cold
  extract_lets s1 s2 s3 s4
  exact s.warm_fresh.of_outside (by simp only [s4, s3, s2, s1, ite_outside]; simp)

/-! ## Rails -/

section
variable {α : Type} {r : PwrS → α}

theorem State.measLost_pwr (hr : ∀ p m c f d h e, r { p with mode := m, bypCause := c, bypFrom := f, redo := d, halt := h, ev := e } = r p) (s : State) :
    r (s.measLost none).pwr = r s.pwr := by
  unfold State.measLost
  extract_lets s1 s2 s3
  have h2 : s2.pwr = s.pwr := State.pwr_of_outside (by simp [s2, s1])
  have hme : ∀ p m e, r { p with mode := m, ev := e } = r p := fun p m e => hr p m p.bypCause p.bypFrom p.redo p.halt e
  have h3 : r s3.pwr = r s2.pwr :=
    (State.devBypass_pwr hme (fun p c f => hr p p.mode c f p.redo p.halt p.ev) 1 _).trans (State.refReset_pwr hme s2)
  rw [← h2, ← h3]
  clear_value s3
  exact hr s3.pwr s3.pwr.mode s3.pwr.bypCause s3.pwr.bypFrom _ _ s3.pwr.ev

theorem State.railLoss_pwr (hr : ∀ p m e, r { p with mode := m, ev := e } = r p) (k : Nat) (s : State) : r (s.railLoss k).pwr = r s.pwr := by
  unfold State.railLoss
  extract_lets st s1 s2
  split
  · rfl
  · unfold State.loopDown State.octBypass
    have h2 : s2.pwr = s.pwr := State.pwr_of_outside (by simp [s2, s1])
    rw [← h2]
    refine (forAll_reads (r := fun s : State => r s.pwr) (fun c s => ?_) (chansOf k) _).trans (congrArg r (State.pwr_of_outside (by simp)))
    split
    · exact State.enterBypass_pwr hr _ _ s
    · rfl

theorem State.isoQuad_eq (j : Nat) (s : State) :
    (s.isoQuad j).pwr = if s.pwr.pwr.testBit (pdQ j) then { s.pwr with iso := setBit s.pwr.iso (pdQ j) true } else s.pwr := by
  unfold State.isoQuad
  split
  · next h => rw [if_neg (by simpa using h)]
  · next h =>
    extract_lets s1 v
    have h1 : s1.pwr = { s.pwr with iso := setBit s.pwr.iso (pdQ j) true } := by
      have h0 : (s.keepWords (pdQ j)).pwr = s.pwr := State.pwr_of_outside (by simp)
      rw [← h0]
      rfl
    rw [if_pos (by simpa using h), ← h1]
    refine State.pwr_of_outside (forAll_outside _ _ s1 fun k s => ?_)
    refine (forAll_outside _ _ _ fun c s => ?_).trans (by simp)
    exact (forAll_outside _ _ _ fun i s => by simp).trans (forAll_outside _ _ _ fun i s => by simp)

theorem State.isoQuad_rail (j : Nat) (s : State) : (s.isoQuad j).pwr.rail = s.pwr.rail := by
  rw [State.isoQuad_eq]
  split <;> rfl

theorem State.releaseQuad_pwr (hr : ∀ p w i, r { p with pwr := w, iso := i } = r p) (j : Nat) (s : State) : r (s.releaseQuad j).pwr = r s.pwr := by
  unfold State.releaseQuad
  split
  · rfl
  split
  · extract_lets s1
    refine Eq.trans ?_ (hr s.pwr s.pwr.pwr _ : r s1.pwr = r s.pwr)
    refine congrArg r (State.pwr_of_outside (forAll_outside _ _ s1 fun k s => ?_))
    simp only [ite_outside]
    simp
  split
  · refine (congrArg r (State.pwr_of_outside (by simp))).trans (State.onQuad_pwr hr j s)
  · rfl

end

/-- Settles O38: of the power state, a boot, the losses and the regains leave what names the reset, the rails and the isolation. -/
theorem resetsAndRails : Obligations.ResetsAndRails := by
  unfold Obligations.ResetsAndRails
  intro fresh
  refine ⟨?_, ?_, ?_, ?_, ?_⟩
  · intro h s g
    refine ⟨_, rfl, ?_⟩
    rw [State.viaDoor_taken g]
    have hk := (s.taken h).warmReset_kept 3
    simp only [State.bootKept, PwrS.reset, Prod.mk.injEq] at hk
    obtain ⟨⟨hm, hc, -⟩, ho⟩ := hk
    exact ⟨(s.taken h).warm_fresh.of_outside (by simp [State.warmReset]), hm, hc, ho⟩
  · intro cause usable sectors pfail s
    have hexec : exec (.coldReset cause usable sectors pfail) s = execColdReset cause usable sectors pfail s := rfl
    unfold execColdReset at hexec
    extract_lets s1 at hexec
    refine ⟨_, hexec, ?_⟩
    have hk : s1.endReset.bootKept PwrS.reset = _ :=
      (State.endReset_kept (by intros; rfl) (by intros; rfl) s1).trans ((State.bootKept_of_outside (by simp [s1])).trans (s.cold_kept cause pfail))
    simp only [State.bootKept, PwrS.reset, Prod.mk.injEq] at hk
    obtain ⟨⟨hm, hc, hb, -⟩, ho⟩ := hk
    have hmem : s1.endReset.mem = s1.mem := State.mem_of_outside (by simp)
    exact ⟨(s.cold_fresh cause pfail).of_outside (by simp [s1]), hm, hc, hb, congrArg MemS.usable hmem, ho⟩
  · intro i s hi
    have hexec : exec (.railLost i) s = execRailLost i s := rfl
    unfold execRailLost at hexec
    extract_lets s1 s2 s3 j at hexec
    have hrail : s1.pwr.rail.testBit i = false := testBit_setBit _ _ _
    rw [if_neg (by simp [hi])] at hexec
    split at hexec
    · next hio =>
      refine ⟨_, hexec, ?_⟩
      have hk := s1.cold_kept 2 s1.pwr.pfail
      generalize s1.cold 2 s1.pwr.pfail = t at hk ⊢
      simp only [State.bootKept, PwrS.reset, Prod.mk.injEq] at hk
      obtain ⟨⟨-, hc, -, hr⟩, -⟩ := hk
      refine ⟨?_, fun _ => ⟨rfl, hc⟩, fun h3 h6 => ?_⟩
      · rw [← hrail, ← hr]
        rfl
      · exfalso
        obtain rfl | rfl | rfl := hio
        · exact absurd h3 (by decide)
        · exact absurd h3 (by decide)
        · exact absurd h6 (by decide)
    · next hio =>
      split at hexec
      · next hh =>
        refine ⟨_, hexec, hrail, fun h => absurd h hio, fun _ _ hn => ?_⟩
        exact absurd (hn.symm.trans hh) Bool.false_ne_true
      · split at hexec
        · next h2 =>
          refine ⟨_, hexec, ?_, fun h => absurd h hio, fun h3 => ?_⟩
          · have h3 : s3.pwr.rail = s1.pwr.rail := by
              simp only [s3]
              split
              · exact State.measLost_pwr (r := PwrS.rail) (by intros; rfl) s2
              · rfl
            have h4 := forAll_reads (r := fun s : State => s.pwr.rail) (f := fun j s => s.isoQuad j) State.isoQuad_rail (upTo 4) s3
            rw [← hrail, ← h3, ← h4]
            rfl
          · rw [h2] at h3
            exact absurd h3 (by decide)
        · have hloss {α : Type} {r : PwrS → α} (hr : ∀ p m e, r { p with mode := m, ev := e } = r p) (t : State) :
              r (forAll [2 * j, 2 * j + 1] (fun k s => s.railLoss k) t).pwr = r t.pwr :=
            forAll_reads (r := fun s : State => r s.pwr) (f := fun k s => s.railLoss k) (fun k s => State.railLoss_pwr hr k s) _ t
          split at hexec
          · next hp =>
            refine ⟨_, hexec, ?_, fun h => absurd h hio, fun _ _ _ _ => ?_⟩
            · rw [hloss (r := PwrS.rail) (by intros; rfl), State.isoQuad_rail]
              exact hrail
            · rw [hloss (r := PwrS.iso) (by intros; rfl), State.isoQuad_eq, if_pos hp]
              exact testBit_setBit _ _ _
          · next hp => exact ⟨_, hexec, hrail, fun h => absurd h hio, fun _ _ _ h => absurd h hp⟩
  · intro i s hi
    refine ⟨if_pos (by simp [hi]), ?_⟩
    have hexec : exec (.railRegained i) s = execRailRegained i s := rfl
    unfold execRailRegained at hexec
    extract_lets s1 s2 s3 at hexec
    have hrail : s1.pwr.rail.testBit i = true := testBit_setBit _ _ _
    rw [if_neg (by simp [hi])] at hexec
    split at hexec
    · refine ⟨_, hexec, ?_⟩
      have hk := State.endReset_kept (q := PwrS.rail) (by intros; rfl) (by intros; rfl) s1
      rw [← hrail]
      exact congrArg (·.testBit i) (Prod.mk.inj hk).1
    · refine ⟨_, hexec, ?_⟩
      have h3 : s3.pwr.rail = s1.pwr.rail := by
        simp only [s3]
        split
        · exact State.wakeStep_pwr (r := PwrS.rail) (by intros; rfl) 2 [] s2
        · rfl
      have h4 := forAll_reads (r := fun s : State => s.pwr.rail) (f := fun j s => s.releaseQuad j)
        (fun j s => State.releaseQuad_pwr (r := PwrS.rail) (by intros; rfl) j s) (upTo 4) s3
      rw [← hrail, ← h3, ← h4]
  · intro r s hr
    exact if_pos hr

end Sys2Proof.Machine
end

section
/-!
PROOFS. Restarts of the cobbler, and braces (R501 to R508).
-/
namespace Sys2Proof.Machine
open Sys2Proof

/-! ## Runs that are dropped, and the store -/

theorem State.calDrop_store (r : CalRun) (s : State) : (s.calDrop r).store = s.store.unqueueCal r.num := by
  unfold State.calDrop
  extract_lets s1 s2 s3
  have h1 : s1.store = s.store := State.store_of_outside (t := s.dtcFree r) (by simp)
  have h3 : s3.store = s2.store := State.store_of_outside (by simp only [s3]; split <;> simp)
  rw [← h1]
  refine Eq.trans ?_ h3
  split
  · exact State.store_of_outside (by simp)
  · rfl

theorem StoreS.unqueueCal_q {d : StoreS} (h : d.q = []) (n : Nat) : (d.unqueueCal n).q = [] := by
  unfold StoreS.unqueueCal
  extract_lets keep
  split <;> simp [h]

theorem StoreS.unqueueCal_erasing (n : Nat) (d : StoreS) : (d.unqueueCal n).erasing = d.erasing := by
  unfold StoreS.unqueueCal
  extract_lets keep
  split <;> rfl

theorem State.calEnd_store (r : CalRun) (stale : Bool) (reason gen : Nat) (s : State) : (s.calEnd r stale reason gen).store = s.store.unqueueCal r.num := by
  unfold State.calEnd
  extract_lets w s1 s2 s3 s4
  rw [← s.calDrop_store r]
  have h2 : s2.store = s1.store := State.store_of_outside (by simp only [s2]; split <;> simp)
  have h4 : s4.store = s2.store := State.store_of_outside (by simp only [s4, s3]; split <;> simp)
  have h1 : s1.store = (s.calDrop r).store := rfl
  rw [← h1, ← h2, ← h4]
  split
  · exact State.store_of_outside (by simp)
  · rfl

/-- An erase in progress. -/
def State.eraseNow (s : State) : Option (Nat × Nat × Nat × Nat) := s.store.erasing

theorem State.calAbortIf_eraseNow (reason : Nat) (p : CalRun → Bool) (s : State) : (s.calAbortIf reason p).eraseNow = s.eraseNow := by
  refine forAll_reads (r := State.eraseNow) (fun q s => ?_) (s.cal.runs.filter p) s
  unfold State.calAbort
  extract_lets s1
  have h1 : s1.store = s.store := State.store_of_outside (by simp only [s1]; split <;> simp)
  rw [State.eraseNow, State.calEnd_store, StoreS.unqueueCal_erasing, h1, State.eraseNow]

theorem State.abortOps_eraseNow (s : State) : s.abortOps.eraseNow = s.eraseNow := by
  rw [← s.calAbortIf_eraseNow 0x0D (fun _ => true)]
  unfold State.abortOps
  extract_lets s1 s2 s3 s4
  have h1 : s1.store = (s.calAbortIf 0x0D (fun _ => true)).store := State.store_of_outside (by simp [s1])
  have h2 : s2.store = s1.store := State.store_of_outside (by simp [s2])
  have h3 : s3.store = s2.store := State.store_of_outside (by
    simp only [s3]
    refine forAll_outside _ _ s2 fun k s => ?_
    split <;> simp)
  have h4 : s4.store = s3.store := State.store_of_outside (by simp [s4])
  have h5 : (s4.scanDrop fun _ => true).store = s4.store := State.store_of_outside (by simp)
  rw [State.eraseNow, h5, h4, h3, h2, h1, State.eraseNow]

theorem Tab.get_map_all {α : Type} {P : α → Prop} {d : α} (hd : P d) {f : Nat × α → Nat × α} (hf : ∀ e, (f e).1 = e.1 ∧ P (f e).2)
    (t : Tab α) (j : Nat) :
    P (Tab.get d (t.map f) j) := by
  induction t with
  | nil => exact hd
  | cons a t ih =>
    obtain ⟨i, x⟩ := a
    have hcons : Tab.get d (((i, x) :: t).map f) j = if (f (i, x)).1 = j then (f (i, x)).2 else Tab.get d (t.map f) j := rfl
    rw [hcons]
    split
    · exact (hf _).2
    · exact ih

/-! ## What a restart of the cobbler leaves -/

/-- No store waits. -/
def State.NoStore (s : State) : Prop := s.store.q = []

theorem State.dropRuns_runs (s : State) : (forAll s.cal.runs (fun r s => r.restore (s.calDrop r)) s).cal.runs = [] := by
  have hrun (r : CalRun) (s : State) : (r.restore (s.calDrop r)).cal.runs = s.cal.runs.filter (·.num ≠ r.num) := by
    rw [State.cal_of_outside (s := s.calDrop r) (by simp), State.calDrop_runs]
  refine List.eq_nil_iff_forall_not_mem.2 fun q hq => ?_
  have hsub : q ∈ s.cal.runs :=
    forAll_keeps (P := fun t => q ∈ t.cal.runs → q ∈ s.cal.runs) (f := fun r s => r.restore (s.calDrop r))
      (fun r t ht h => ht (List.mem_filter.1 (by rw [hrun] at h; exact h)).1) s.cal.runs id hq
  refine forAll_establishes (Q := fun r t => r ∉ t.cal.runs) (f := fun r s => r.restore (s.calDrop r)) (l := s.cal.runs) (a := q)
    (fun r t h => ?_) (fun r r' t hr h => ?_) hsub s hq
  · rw [hrun] at h
    simpa using (List.mem_filter.1 h).2
  · rw [hrun] at h
    exact hr (List.mem_filter.1 h).1

theorem State.scanDrop_scans (p : Option Hdr × Nat → Bool) (s : State) : (s.scanDrop p).grat.scans = s.grat.scans.filter fun x => !p x := by
  unfold State.scanDrop
  extract_lets s1
  rw [State.grat_of_outside (s := s1) (forAll_outside _ _ s1 fun k s => by simp [State.scanClose])]
  rfl

/-- Retunes and restores that are dropped. -/
def State.dropRetunes (s : State) : State := forAll (upTo 8) (fun k s => s.modLoop k fun l => { l with retune := none, restore := false }) s

theorem State.dropRetunes_loop {k : Nat} (hk : k < 8) (s : State) : (s.dropRetunes.oct k).loop.retune = none := by
  refine forAll_establishes (Q := fun k t => (t.oct k).loop.retune = none) (fun k t => ?_) (fun k j t h => ?_) (mem_upTo.2 hk) s
  · rw [State.modLoop, State.modOct_oct]
  · by_cases e : k = j
    · rw [e, State.modLoop, State.modOct_oct]
    · exact (congrArg (·.loop.retune) (State.modOct_oct_ne _ _ _ _ e)).trans h

@[simp] theorem State.dropRetunes_outside {ps : List Part} (s : State) (h : Part.octs ∈ ps) : s.dropRetunes.outside ps = s.outside ps :=
  forAll_outside _ _ s fun _ _ => State.modLoop_outside _ _ _ h

section
variable (words : Nat) (s : State)

theorem State.cobDrop_parts : (s.cobDrop words).store.q = [] ∧ (s.cobDrop words).cal.runs = [] ∧ (s.cobDrop words).grat.scans = [] ∧
    (∀ n, ((s.cobDrop words).door n).st = .idle) ∧ ∀ k, k < 8 → ((s.cobDrop words).oct k).loop.retune = none := by
  unfold State.cobDrop
  extract_lets s1 s2 s3 runs s4 s5 s6 s7 s8
  have h4 : s4.store.q = [] := by
    refine forAll_keeps (P := State.NoStore) (fun r t ht => ?_) runs (rfl : s3.NoStore)
    rw [State.NoStore, State.store_of_outside (s := t.calDrop r) (by simp), State.calDrop_store]
    exact StoreS.unqueueCal_q ht _
  have hloops : forAll (upTo 8) (fun k s => s.modLoop k fun l => { l with retune := none, restore := false }) s8 = s8.dropRetunes := rfl
  rw [hloops]
  refine ⟨?_, ?_, ?_, fun n => ?_, fun k hk => ?_⟩
  · rw [State.store_of_outside (s := s4) (by simp [s8, s7, s6, s5])]
    exact h4
  · rw [State.cal_of_outside (s := s6) (by simp [s8, s7])]
    have h5 : s5.cal = s4.cal := State.cal_of_outside (by simp [s5])
    exact (congrArg CalS.runs h5).trans s3.dropRuns_runs
  · rw [State.grat_of_outside (s := s8) (by simp)]
    refine (State.scanDrop_scans _ s7).trans (List.filter_eq_nil_iff.2 fun x _ => ?_)
    decide
  · rw [State.door_of_outside (s := s3) n (by simp [s8, s7, s6, s5, s4])]
    exact Tab.get_map_all (P := fun d : Door => d.st = .idle) rfl (f := fun d => (d.1, { d.2 with words := [], st := .idle, stream := none }))
      (fun e => ⟨rfl, rfl⟩) s2.mbox.doors n
  · rw [State.oct_of_outside (s := s8.dropRetunes) k (by simp)]
    exact s8.dropRetunes_loop hk

end

/-! ## The boot header, and the store queue -/

theorem StoreS.program_q (reg i : Nat) (l : List FWord) (d : StoreS) : (d.program reg i l).q = d.q := by
  induction l generalizing i d with
  | nil => rfl
  | cons w l ih => exact ih _ _

theorem StoreS.erases_q (p : StoreS → Nat → Nat) (l : Nat → Nat) (is : List Nat) (d : StoreS) :
    (is.foldl (fun d i => d.erase (p d i) (l i)) d).q = d.q := by
  induction is generalizing d with
  | nil => rfl
  | cons i is ih => exact ih _

theorem State.bootImage_q (s : State) : s.bootImage.store.q = s.store.q := by
  refine State.bootImage_reads (r := fun s => s.store.q) (fun slot sram trial p s => ?_) (fun s => rfl) (fun s => ?_) (fun pref a b s => ?_) s
  · rw [State.store_of_outside (s := s) (by simp)]
  · unfold State.loadBoot
    split <;> rfl
  · unfold State.writeBoot
    extract_lets c s1
    refine (StoreS.program_q _ _ _ _).trans ?_
    exact StoreS.erases_q (fun d i => d.phys (regBoot c + i)) (regBoot c + ·) (upTo (regSize (regBoot c))) s.store

/-! ## Brace -/

/-- What a brace sets of the power state. -/
def PwrS.braced (p : PwrS) : Bool × Bool × Bool × Bool := (p.brace, p.braceDone, p.pfail, p.shed)

theorem State.cutErase_eraseNow (s : State) : s.cutErase.eraseNow = none := by
  unfold State.cutErase
  split
  · rfl
  · next h => exact h

theorem State.servePort_none {s : State} (h : s.mem.waiting = []) : s.servePort = s := by
  have hrow (n : Nat) : s.mem.inRow n = [] := by rw [MemS.inRow, h, List.filter_nil]
  have hm : (s.modMem fun m => { m with waiting := m.inRow 4 }) = s := by
    have : ({ s.mem with waiting := s.mem.inRow 4 } : MemS) = s.mem := by rw [hrow, ← h]
    rw [State.modMem, this]
  unfold State.servePort
  split
  · rfl
  · dsimp only
    rw [hm, hrow, hrow]
    rfl

theorem cobRestart_drops : ∀ w s, s.pwr.held = false → Completes (.cobRestart w) s fun t => t.pwr.cobN = satAdd 8 1 s.pwr.cobN ∧ t.store.q = [] ∧
    t.cal.runs = [] ∧ t.grat.scans = [] ∧ (∀ n, n ≠ 6 → (t.door n).st = .idle) ∧ ∀ k, k < 8 → (t.oct k).loop.retune = none := by
  intro w s hh
  have hexec : exec (.cobRestart w) s = execCobRestart w s := rfl
  unfold execCobRestart at hexec
  extract_lets s1 s2 s3 at hexec
  rw [if_neg (by simp [hh])] at hexec
  refine ⟨_, hexec, ?_⟩
  obtain ⟨hq, hruns, hscans, hdoors, hloops⟩ := s.cobDrop_parts w
  have hcob : s3.pwr.cobN = satAdd 8 1 s.pwr.cobN := by
    have h1 : s1.pwr = s.pwr := State.pwr_of_outside (by simp [s1])
    have hk := State.bootImage_kept (q := PwrS.cobN) (by intros; rfl) (s2.devEv 12)
    rw [← h1]
    exact (Prod.mk.inj hk).1
  have hout : (if s3.img.isSome then s3.post ⟨0x8101, 0, 0, 0⟩ else s3).outside (.mbox :: []) = s3.outside (.mbox :: []) := by
    split
    · exact State.post_outside _ _ (by simp)
    · rfl
  have hdoor (n : Nat) (hn : n ≠ 6) : (if s3.img.isSome then s3.post ⟨0x8101, 0, 0, 0⟩ else s3).door n = s3.door n := by
    split
    · exact State.post_door_ne hn _ _
    · rfl
  generalize (if s3.img.isSome then s3.post ⟨0x8101, 0, 0, 0⟩ else s3) = t at hout hdoor ⊢
  have h31 : s3.store.q = [] := by
    rw [State.bootImage_q]
    exact (congrArg StoreS.q (State.store_of_outside (s := s.cobDrop w) (by simp [s2, s1]))).trans hq
  refine ⟨?_, ?_, ?_, ?_, fun n hn => ?_, fun k hk => ?_⟩
  · rw [Only.pwr hout (by simp), hcob]
  · rw [Only.store hout (by simp) (by simp), h31]
  · rw [Only.cal hout (by simp), State.cal_of_outside (s := s.cobDrop w) (by simp [s3, s2, s1]), hruns]
  · rw [Only.grat hout (by simp), State.grat_of_outside (s := s.cobDrop w) (by simp [s3, s2, s1]), hscans]
  · rw [hdoor n hn, State.door_of_outside (s := s.cobDrop w) n (by simp [s3, s2, s1]), hdoors]
  · have ho : t.oct k = s3.oct k := by rw [State.oct, State.oct, Only.octs hout (by simp)]
    have h3 : s3.oct k = (s.cobDrop w).oct k := State.oct_of_outside k (by simp [s3, s2, s1])
    rw [ho, h3]
    exact hloops k hk

theorem brace_begins : ∀ w cls s, s.pwr.brace = false → s.pwr.held = false → Completes (.brace w cls) s fun t => t.pwr.brace = true ∧
    t.pwr.braceDone = false ∧ t.pwr.pfail = true ∧ t.pwr.shed = decide (s.pv P.braceShed = 1) ∧ t.store.erasing = none := by
  intro w cls s hb hh
  have hexec : exec (.brace w cls) s = execBrace w cls s := rfl
  unfold execBrace at hexec
  extract_lets shed s1 s2 at hexec
  rw [if_neg (by simp [hb, hh])] at hexec
  refine ⟨_, hexec, ?_⟩
  have h2 : s2.pwr = s1.pwr := State.pwr_of_outside (by simp [s2])
  have he : s2.eraseNow = none := State.cutErase_eraseNow _
  clear_value s2
  have hp : s2.pwr.braced = (true, false, true, shed) := by
    rw [h2]
    rfl
  clear_value s1
  split
  · have hb : (s2.abortOps.stopOutputs.offAll).pwr.braced = (true, false, true, shed) :=
      ((State.offAll_pwr (r := PwrS.braced) (by intros; rfl) _).trans (congrArg PwrS.braced (State.pwr_of_outside (by simp)))).trans hp
    have hs : s2.abortOps.stopOutputs.offAll.store = s2.abortOps.store := State.store_of_outside (by simp)
    have he' : s2.abortOps.stopOutputs.offAll.store.erasing = none := by
      rw [hs]
      exact s2.abortOps_eraseNow.trans he
    generalize s2.abortOps.stopOutputs.offAll = t at hb he' ⊢
    simp only [PwrS.braced, Prod.mk.injEq] at hb
    obtain ⟨h1, h2, h3, h4⟩ := hb
    exact ⟨h1, h2, h3, h4, he'⟩
  · simp only [PwrS.braced, Prod.mk.injEq] at hp
    obtain ⟨h1, h2, h3, h4⟩ := hp
    exact ⟨h1, h2, h3, h4, he⟩

/-- Settles O39: what a restart drops, and what a brace sets, later steps of the command leave as it is. -/
theorem restartsAndBraces : Obligations.RestartsAndBraces := by
  refine ⟨⟨?_, ?_⟩, ?_, ?_, ?_, ?_, ?_, ?_, ?_⟩
  · exact cobRestart_drops
  · intro w s hh
    exact if_pos hh
  · exact brace_begins
  · intro w cls s h
    exact if_pos h
  · intro s hb
    refine ⟨_, if_pos hb, ?_⟩
    dsimp only
    rw [State.pwr_of_outside (s := s.modPwr fun p => { p with braceDone := true }) (by simp)]
    refine ⟨rfl, hb, fun hw => ?_⟩
    exact State.servePort_none hw
  · intro s hb
    exact if_neg (by simp [hb])
  · intro s hb hd hs
    change execBraceRel s = _
    unfold execBraceRel
    extract_lets shed s1
    rw [if_pos ⟨hb, hd⟩, if_neg (by simp [shed, hs])]
    rfl
  · intro s hb hd hs
    have hexec : exec .braceRel s = execBraceRel s := rfl
    unfold execBraceRel at hexec
    extract_lets shed s1 at hexec
    rw [if_pos ⟨hb, hd⟩, if_pos (by simp [shed, hs])] at hexec
    refine ⟨_, hexec, ?_⟩
    have hk := s1.warmReset_kept 4
    generalize s1.warmReset 4 = t at hk ⊢
    simp only [State.bootKept, PwrS.reset, Prod.mk.injEq] at hk
    obtain ⟨⟨hm, hc, hb, -⟩, -⟩ := hk
    exact ⟨hb, hc, hm⟩
  · intro s h
    refine if_neg fun ⟨h1, h2⟩ => ?_
    obtain h | h := h
    · rw [h] at h1; exact Bool.false_ne_true h1
    · rw [h] at h2; exact Bool.false_ne_true h2

end Sys2Proof.Machine
end

section
/-!
PROOFS. Resets of the dual-clock queues (R527 to R529).
-/
namespace Sys2Proof.Machine
open Sys2Proof

/-! ## Status and words of a queue -/

@[simp] theorem State.modXq_xq (f : Xq → Xq) (q : Queue) (s : State) : (s.modXq f q).xq q = f (s.xq q) := by
  cases q <;> simp [State.modXq, State.xq, State.modDevq]

@[simp] theorem State.modXq_xqWords (f : Xq → Xq) (q : Queue) (s : State) : (s.modXq f q).xqWords q = s.xqWords q := by
  cases q <;> simp [State.modXq, State.xqWords, State.modDevq]

@[simp] theorem State.xqEmpty_xq (q : Queue) (s : State) : (s.xqEmpty q).xq q = s.xq q := by
  cases q <;> simp [State.xqEmpty, State.xq, State.modDevq]

@[simp] theorem State.xqEmpty_xqWords (q : Queue) (s : State) : (s.xqEmpty q).xqWords q = 0 := by
  cases q <;> simp [State.xqEmpty, State.xqWords, State.modDevq]

theorem State.modXq_pwr (f : Xq → Xq) (q : Queue) (s : State) : (s.modXq f q).pwr = s.pwr := by
  cases q <;> rfl

/-- Settles O40: each clause is one change of the queue's status, or of its words, read back. -/
theorem queueResets : Obligations.QueueResets := by
  refine ⟨?_, ?_, ?_, ?_, ?_⟩
  · intro q s hb
    have hexec : exec (.queueReadyFall q) s = execQueueReadyFall q s := rfl
    unfold execQueueReadyFall at hexec
    rw [if_neg (by simp [hb])] at hexec
    refine ⟨_, hexec, ?_, ?_⟩
    · rw [State.modXq_xqWords, State.xqEmpty_xqWords]
    · rw [State.modXq_xq, State.xqEmpty_xq]
  · intro q s hb
    exact ⟨if_pos hb, fun r => if_pos (.inl hb)⟩
  · intro q r s hb hp
    have hexec : exec (.peerAbsent q r) s = execPeerAbsent q r s := rfl
    unfold execPeerAbsent at hexec
    extract_lets s1 at hexec
    rw [if_neg (by simp [hb, hp])] at hexec
    have hxq : s1.xq q = { s.xq q with present := false } := State.modXq_xq _ q s
    have hw : s1.xqWords q = s.xqWords q := State.modXq_xqWords _ q s
    have hpwr : s1.pwr = s.pwr := State.modXq_pwr _ q s
    refine ⟨_, hexec, ?_⟩
    cases r with
    | true =>
      rw [if_pos rfl, if_pos rfl, ← hxq, ← hw, ← hpwr]
      exact ⟨rfl, rfl, rfl⟩
    | false => exact ⟨hxq, hw, congrArg PwrS.ev hpwr⟩
  · intro q s hb hr
    refine ⟨_, if_pos ⟨hb, hr⟩, ?_, ?_⟩
    · rw [State.modXq_xq]
    · rw [State.modXq_xqWords]
  · intro q s hr
    refine if_neg fun ⟨_, h⟩ => ?_
    rw [hr] at h
    exact Bool.false_ne_true h

end Sys2Proof.Machine
end

section
/-!
PROOFS. Calibration runs (R548 to R575).
-/
namespace Sys2Proof.Machine
open Sys2Proof

/-! ## Runs that start -/

/-- Run `r` of `kind` on `unit` has joined the list in state `t`, its number and slot taken. -/
structure State.Started (s : State) (kind unit : Nat) (r : CalRun) (t : State) : Prop where
  num : r.num = s.cal.next
  kind : r.kind = kind
  unit : r.unit = unit
  part : r.part = if r.kind = 0 then 0 else 1
  cal : t.cal = { s.cal with next := (s.cal.next + 1) % 2 ^ 32, runs := s.cal.runs ++ [r] }
  rest : t.outside [.rg, .cal, .mbox] = s.outside [.rg, .cal, .mbox]

/-- A run starts: it joins the list, and ends at once where a condition fails. -/
theorem State.calStart_started (kind unit parts : Nat) (band : Bool) (s : State) : ∃ r t, s.Started kind unit r t ∧ t.mbox = s.mbox ∧
    (∀ e, (if s.rgClaimTop.isNone then some 0x14 else t.runPre r) = some e → s.calStart kind unit parts band = t.calEnd r false e 0) ∧
    ((if s.rgClaimTop.isNone then some 0x14 else t.runPre r) = none →
      s.calStart kind unit parts band = if kind = 0 then t.handBegin unit else if band then t.scanOpen none unit else t) := by
  unfold State.calStart
  extract_lets slot r s1 s2
  have h1 {ps : List Part} (hp : Part.rg ∈ ps) : s1.outside ps = s.outside ps := by
    simp only [s1]
    cases hs : s.rgClaimTop with
    | some i => simp only [slot, hs]; exact State.rgGrant_outside _ _ _ _ hp
    | none => simp only [slot, hs]
  have hcal : s1.cal = s.cal := State.cal_of_outside (h1 (by simp))
  refine ⟨r, s2, ⟨rfl, rfl, rfl, rfl, ?_, ?_⟩, ?_, fun e he => ?_, fun he => ?_⟩
  · rw [← hcal]
    rfl
  · exact (State.modCal_outside _ _ (by simp)).trans (h1 (by simp))
  · exact State.mbox_of_outside ((State.modCal_outside _ _ (by simp)).trans (h1 (by simp)))
  · rw [show (if slot.isNone = true then some 0x14 else s2.runPre r) = some e from he]
  · rw [show (if slot.isNone = true then some 0x14 else s2.runPre r) = none from he]

/-- The conditions of a run rest on the reference, the delay lines, the loops and the retirements. -/
theorem State.runPre_of {s t : State} (href : t.ref = s.ref) (hdll : t.dlls = s.dlls) (hoct : t.octs = s.octs) (hst : t.store = s.store) (r : CalRun) :
    t.runPre r = s.runPre r := by
  cases s
  cases t
  dsimp only at href hdll hoct hst
  subst href hdll hoct hst
  rfl

theorem State.calPre_none {ks : List Nat} {ref loops : Bool} {s : State} (hq : s.ref.qual = true) (hl : s.ref.lock = true)
    (hd : ∀ k ∈ ks, (s.dll k).lock = true) (hr : ref = true → (s.dll 8).lock = true ∧ s.refRetired = false)
    (ho : loops = true → ∀ k ∈ ks, (s.oct k).loop.st = .locked) : s.calPre ks ref loops = none := by
  have hall : (ks.all fun k => (s.dll k).lock) = true := List.all_eq_true.2 hd
  have h2 : ¬ ((!(ks.all fun k => (s.dll k).lock)) = true ∨ (ref && (!(s.dll 8).lock || s.refRetired)) = true) := by
    rw [hall]
    cases ref with
    | false => simp
    | true => obtain ⟨h8, hrr⟩ := hr rfl; simp [h8, hrr]
  have h3 : ¬ (loops = true ∧ (!(ks.all fun k => decide ((s.oct k).loop.st = .locked))) = true) := fun ⟨h, hn⟩ => by
    have : (ks.all fun k => decide ((s.oct k).loop.st = .locked)) = true := List.all_eq_true.2 fun k hk => decide_eq_true (ho h k hk)
    rw [this] at hn
    exact Bool.false_ne_true hn
  rw [State.calPre, if_neg (by simp [hq, hl]), if_neg h2, if_neg h3]

/-- A run that ends reaches no door but door 6. -/
theorem State.calEnd_door_ne {n : Nat} (hn : n ≠ 6) (r : CalRun) (stale : Bool) (reason gen : Nat) (s : State) :
    (s.calEnd r stale reason gen).door n = s.door n := by
  unfold State.calEnd
  extract_lets w s1 s2 s3 s4
  have h3 : s3.door n = s.door n := State.door_of_outside n (by simp only [s3, s2, s1, ite_outside]; simp)
  have h4 : s4.door n = s3.door n := State.post_door_ne hn _ _
  rw [← h3, ← h4]
  split
  · exact State.door_of_outside n (by simp)
  · rfl

theorem State.calAbort_door_ne {n : Nat} (hn : n ≠ 6) (reason : Nat) (r : CalRun) (s : State) : (s.calAbort reason r).door n = s.door n := by
  unfold State.calAbort
  extract_lets s1
  rw [State.calEnd_door_ne hn]
  exact State.door_of_outside n (by simp only [s1]; split <;> simp)

theorem State.calAbort_cal (reason : Nat) (r : CalRun) (s : State) : ∃ l, (s.calAbort reason r).cal =
    { s.cal with runs := s.cal.runs.filter (·.num ≠ r.num), log := calDone r false reason 0 :: s.cal.log, retry := l } := by
  unfold State.calAbort
  extract_lets s1
  have h1 : s1.cal = s.cal := State.cal_of_outside (by simp only [s1]; split <;> simp)
  obtain ⟨l, h⟩ := s1.calEnd_cal r false reason 0
  exact ⟨l, by rw [h, h1]⟩

theorem State.calStart_next (kind unit parts : Nat) (band : Bool) (s : State) : (s.calStart kind unit parts band).cal.next = (s.cal.next + 1) % 2 ^ 32 := by
  obtain ⟨r, t, ht, -, he, hb⟩ := s.calStart_started kind unit parts band
  have hn : t.cal.next = (s.cal.next + 1) % 2 ^ 32 := by rw [ht.cal]
  rw [← hn]
  cases hc : (if s.rgClaimTop.isNone then some 0x14 else t.runPre r) with
  | some e =>
    obtain ⟨l, hl⟩ := t.calEnd_cal r false e 0
    rw [he e hc, hl]
  | none =>
    rw [hb hc]
    refine congrArg CalS.next (State.cal_of_outside ?_)
    repeat' split
    all_goals simp

/-- An accepted run answers with its number, and starts. -/
theorem State.calStart_answered {h : Hdr} {cmd : Nat} {s : State} (hs : s.rgClaimTop ≠ none) (kind unit parts : Nat) (band : Bool) :
    ∃ r t, s.Started kind unit r t ∧ Answered h cmd (.res s.cal.next) t ∧
      (∀ e, s.runPre r = some e → ((s.taken h).reply h cmd (.res s.cal.next)).calStart kind unit parts band = t.calEnd r false e 0) ∧
      (s.runPre r = none → ((s.taken h).reply h cmd (.res s.cal.next)).calStart kind unit parts band =
        if kind = 0 then t.handBegin unit else if band then t.scanOpen none unit else t) := by
  have hS : ((s.taken h).reply h cmd (.res s.cal.next)).outside [.mbox] = s.outside [.mbox] := rfl
  have hA := State.reply_answered h cmd (.res s.cal.next) (s.taken h)
  have hc : ((s.taken h).reply h cmd (.res s.cal.next)).rgClaimTop.isNone = false := by
    have e : ((s.taken h).reply h cmd (.res s.cal.next)).rgClaimTop = s.rgClaimTop := rfl
    rw [e]
    exact Option.isNone_eq_false_iff.2 (Option.isSome_iff_ne_none.2 hs)
  obtain ⟨r, t, ht, hm, he, hb⟩ := ((s.taken h).reply h cmd (.res s.cal.next)).calStart_started kind unit parts band
  rw [hc] at he hb
  have hcal := ht.cal
  rw [Only.cal hS (by simp)] at hcal
  have hrest : t.outside [.rg, .cal, .mbox] = s.outside [.rg, .cal, .mbox] := ht.rest.trans rfl
  have hpre : t.runPre r = s.runPre r :=
    State.runPre_of (Only.ref hrest (by simp)) (Only.dlls hrest (by simp)) (Only.octs hrest (by simp)) (Only.store hrest (by simp) (by simp)) r
  refine ⟨r, t, ⟨ht.num, ht.kind, ht.unit, ht.part, hcal, hrest⟩, ?_, fun e h => he e (hpre.trans h), fun h => hb (hpre.trans h)⟩
  exact Answered.of_door (by rw [State.door, State.door, hm]) hA

theorem State.Started.octs {s t : State} {kind unit : Nat} {r : CalRun} (h : s.Started kind unit r t) : t.octs = s.octs := Only.octs h.rest (by simp)

theorem State.Started.runs {s t : State} {kind unit : Nat} {r : CalRun} (h : s.Started kind unit r t) : t.cal.runs = s.cal.runs ++ [r] := by rw [h.cal]

/-- The octants of a run on one channel index. -/
theorem State.Started.octants {s t : State} {kind unit : Nat} {r : CalRun} (h : s.Started kind unit r t) (hk : kind ≠ 2) : r.octs = [octOf unit] := by
  rw [CalRun.octs, if_neg (by rw [h.kind]; exact hk), h.unit]

theorem State.handBegin_oct (c : Nat) (s : State) :
    (s.handBegin c).oct (octOf c) = { s.oct (octOf c) with welt := .loan c, hand := some ⟨c, 1, 0, 0, 0, false, .init, 0⟩ } := by
  unfold State.handBegin
  extract_lets k s1
  rw [State.oct_of_outside (s := s1) k (by simp)]
  exact State.modOct_oct _ _ _

theorem opCalRun_accepted {h : Hdr} {c : Ch} {stat : Bool} {s : State} (g : Taken h 0x0501 s)
    (he : s.runErr c (bit stat) (s.partsFor (bit stat)) = none) (hs : s.rgClaimTop ≠ none) :
    exec (.calRun h c stat) s =
      .next (((s.taken h).reply h 0x0501 (.res s.cal.next)).calStart (bit stat) c (s.partsFor (bit stat)) false) := by
  change Host.Outcome.next _ = _
  have he' : (s.taken h).runErr c (bit stat) ((s.taken h).partsFor (bit stat)) = none := he
  have hc : ¬ ((s.taken h).rgClaimTop.isNone = true) := by
    have e : (s.taken h).rgClaimTop = s.rgClaimTop := rfl
    rw [e, Option.isNone_iff_eq_none]
    exact hs
  rw [State.viaDoor_taken g, State.opCalRun, he']
  dsimp only
  rw [if_neg hc]
  rfl

theorem State.scanOpen_scans (h : Option Hdr) (mask : Nat) (s : State) : (s.scanOpen h mask).grat.scans = s.grat.scans ++ [(h, mask)] := by
  unfold State.scanOpen
  extract_lets s1
  rw [State.grat_of_outside (s := s1) (forAll_outside _ _ s1 fun _ _ => State.modLoop_outside _ _ _ (by simp))]
  rfl

/-- Settles O41: a run that starts is described once, and what ends it reads off the list and the log. -/
theorem calibrationRuns : Obligations.CalibrationRuns := by
  refine ⟨?_, ?_, ?_, ?_, ?_, ?_, ?_, ?_, ?_, ?_, ?_, ?_, ?_, ?_, ?_, ?_, ?_⟩
  · intro h c s g he hs hq hl hd
    obtain ⟨r, t, ht, ha, -, hb⟩ := State.calStart_answered (h := h) (cmd := 0x0501) hs 1 c (s.partsFor 1) false
    have hpre : s.runPre r = none := by
      rw [State.runPre, if_neg (by rw [ht.kind]; decide), ht.octants (by decide)]
      refine State.calPre_none hq hl (by simpa using hd) (fun hu => ?_) (by simp [ht.kind])
      simp [CalRun.usesCalIn, ht.kind] at hu
    replace hb := hb hpre
    rw [if_neg (by decide), if_neg (by decide)] at hb
    refine ⟨t, (opCalRun_accepted (stat := true) g he hs).trans (congrArg _ hb), ha, by rw [ht.cal], r, ?_, ht.num, ht.kind, ht.unit, ?_⟩
    · exact ht.runs
    · rw [ht.part, if_neg (by rw [ht.kind]; decide)]
  · intro h c s g he hs hq hl hd ho h8 hr
    obtain ⟨r, t, ht, ha, -, hb⟩ := State.calStart_answered (h := h) (cmd := 0x0501) hs 0 c (s.partsFor 0) false
    have hpre : s.runPre r = none := by
      rw [State.runPre, if_neg (by rw [ht.kind]; decide), ht.octants (by decide)]
      exact State.calPre_none hq hl (by simpa using hd) (fun _ => ⟨h8, hr⟩) fun _ => by simpa using ho
    refine ⟨_, (opCalRun_accepted (stat := false) g he hs).trans (congrArg _ ((hb hpre).trans (if_pos rfl))), ?_⟩
    dsimp only
    rw [State.handBegin_oct, State.cal_of_outside (t := t.handBegin c) (s := t) (by simp)]
    refine ⟨?_, rfl, ⟨_, rfl, rfl, rfl⟩, r, ht.runs, ht.num, ht.kind, ht.unit, ?_⟩
    · exact Answered.of_door (State.door_of_outside (t := t.handBegin c) (s := t) _ (by simp)) ha
    · rw [ht.part, if_pos ht.kind]
  · intro h c stat e s g he
    change Host.Outcome.next _ = _
    have he' : (s.taken h).runErr c (bit stat) ((s.taken h).partsFor (bit stat)) = some e := he
    rw [State.viaDoor_taken g, State.opCalRun, he']
  · intro h c s g he hs hq
    obtain ⟨r, t, ht, ha, hend, -⟩ := State.calStart_answered (h := h) (cmd := 0x0501) hs 1 c (s.partsFor 1) false
    have hpre : s.runPre r = some 1 := by
      rw [State.runPre, State.calPre, if_pos (.inl (by rw [hq]; rfl))]
    refine ⟨_, (opCalRun_accepted (stat := true) g he hs).trans (congrArg _ (hend 1 hpre)), ?_, r, ht.num, ?_⟩
    · exact Answered.of_door (State.calEnd_door_ne g.door_ne _ _ _ _ _) ha
    · obtain ⟨l, hl⟩ := t.calEnd_cal r false 1 0
      rw [hl, ht.cal]
  · intro h mask band s g hm hs hruns hq hl hk h8 hr
    obtain ⟨r, t, ht, ha, -, hb⟩ := State.calStart_answered (h := h) (cmd := 0x0502) hs 2 mask.toNat 15 band
    have hocts : ∀ k ∈ r.octs, k < 8 := fun k h => by
      rw [CalRun.octs, if_pos ht.kind] at h
      exact mem_upTo.1 (List.mem_filter.1 h).1
    have hpre : s.runPre r = none := by
      rw [State.runPre, if_pos ht.kind]
      exact State.calPre_none hq hl (fun k h => (hk k (hocts k (List.mem_filter.1 h).1)).1) (fun _ => ⟨h8, hr⟩)
        fun _ k h => (hk k (hocts k (List.mem_filter.1 h).1)).2
    replace hb := hb hpre
    rw [if_neg (by decide)] at hb
    refine ⟨_, rfl, ?_⟩
    have hm' : ¬ (s.taken h).pwr.mode ≠ .survey := fun e => e hm
    have hr' : (s.taken h).cal.runs.find? (fun r => (upTo 8).any fun k => mask.toNat.testBit k && r.inOct k) = none := by
      rw [State.taken_cal, hruns]
      rfl
    have hc : ¬ ((s.taken h).rgClaimTop.isNone = true) := by
      have e : (s.taken h).rgClaimTop = s.rgClaimTop := rfl
      rw [e, Option.isNone_iff_eq_none]
      exact hs
    rw [State.viaDoor_taken g, State.opCalSurvey, if_neg hm', hr']
    dsimp only
    rw [if_neg hc, State.taken_cal, hb]
    have hlist : t.cal.runs = [r] := by rw [ht.runs, hruns]; rfl
    have hrun : ∃ q, [r] = [q] ∧ q.num = s.cal.next ∧ q.kind = 2 ∧ q.unit = mask.toNat ∧ q.part = 1 :=
      ⟨r, rfl, ht.num, ht.kind, ht.unit, by rw [ht.part, if_neg (by rw [ht.kind]; decide)]⟩
    have hgrat : t.grat = s.grat := Only.grat ht.rest (by simp)
    cases band with
    | true =>
      rw [if_pos rfl, if_pos rfl, State.cal_of_outside (t := t.scanOpen none mask.toNat) (s := t) (by simp), hlist, State.scanOpen_scans, hgrat]
      exact ⟨Answered.of_door (State.door_of_outside (t := t.scanOpen none mask.toNat) (s := t) _ (by simp)) ha, hrun, rfl⟩
    | false =>
      rw [if_neg (by decide), if_neg (by decide), hlist, hgrat, List.append_nil]
      exact ⟨ha, hrun, rfl⟩
  · intro h mask band s g hm
    change Host.Outcome.next _ = _
    have hm' : (s.taken h).pwr.mode ≠ .survey := hm
    rw [State.viaDoor_taken g, State.opCalSurvey, if_pos hm']
  · intro h n r s g hr
    refine ⟨_, rfl, ?_⟩
    have hr' : (s.taken h).cal.runs.find? (·.num = n.toNat) = some r := hr
    rw [State.viaDoor_taken g, State.opCalAbort, hr']
    obtain ⟨l, hl⟩ := (s.taken h).calAbort_cal 0x12 r
    dsimp only
    rw [State.cal_of_outside (t := State.reply h 0x0504 .ok _) (s := (s.taken h).calAbort 0x12 r) (by simp), hl]
    exact ⟨State.reply_answered _ _ _ _, fun x hx => by simpa using (List.mem_filter.1 hx).2, rfl⟩
  · intro h n s g hr
    change Host.Outcome.next _ = _
    have hr' : (s.taken h).cal.runs.find? (·.num = n.toNat) = none := hr
    rw [State.viaDoor_taken g, State.opCalAbort, hr']
  · intro n r s hr ht
    have hexec : exec (.calRunT n) s = execCalRunT n s := rfl
    unfold execCalRunT at hexec
    rw [hr] at hexec
    dsimp only at hexec
    rw [if_neg (Nat.not_lt.2 ht)] at hexec
    obtain ⟨l, hl⟩ := s.calAbort_cal 0x19 r
    refine ⟨_, hexec, ?_⟩
    dsimp only
    rw [hl]
    exact ⟨fun x hx => by simpa using (List.mem_filter.1 hx).2, rfl⟩
  · intro n r s hr ht
    change execCalRunT n s = _
    unfold execCalRunT
    rw [hr]
    exact if_pos ht
  · intro h bd n s g hb hs
    refine ⟨_, rfl, ?_⟩
    have hnone : (s.taken h).streamErr bd = none := State.streamErr_none hb (by rw [g.door_bulk hb]; exact hs)
    rw [State.viaDoor_taken g, State.opCalStatus, hnone]
    exact State.openOut_opened (g.bulk hb) _ _ _
  · intro n m r r' s hr hk h0 h5 hst hf hd hp
    have h1 : ¬ (r.part = 0 ∨ r.stored = true) := by simp [h0, hst]
    have h2 : ¬ (m.fail.isNone = true ∧ s.dtcShort m r = true) := by simp [hd]
    change execCalPartDone n m s = _
    unfold execCalPartDone
    rw [hr]
    dsimp only
    rw [if_neg h1, if_neg hk, if_neg h2, hf]
    dsimp only
    rw [if_neg fun e => hk e.1, if_neg h5, hp]
    dsimp only
    rw [if_neg hk]
  · intro n m r s hr hk hf hcond
    change execCalPartDone n m s = _
    unfold execCalPartDone
    rw [hr]
    dsimp only
    by_cases h1 : r.part = 0 ∨ r.stored = true
    · rw [if_pos h1]
    · have hd : s.dtcShort m r = true := (hcond.resolve_left fun e => h1 (.inl e)).resolve_left fun e => h1 (.inr e)
      rw [if_neg h1, if_neg hk, if_pos ⟨by rw [hf]; rfl, hd⟩]
  · intro n m r s hr hk h5 hst hf hp
    have hexec : exec (.calPartDone n m) s = execCalPartDone n m s := rfl
    have h1 : ¬ (r.part = 0 ∨ r.stored = true) := by simp [h5, hst]
    have hk2 : ¬ r.kind = 2 := by omega
    have h2 : ¬ (m.fail.isNone = true ∧ s.dtcShort m r = true) := by simp [State.dtcShort, hk]
    unfold execCalPartDone at hexec
    rw [hr] at hexec
    dsimp only at hexec
    rw [if_neg h1, if_neg hk2, if_neg h2, hf] at hexec
    dsimp only at hexec
    rw [if_neg fun e => hk2 e.1, if_pos h5, if_neg fun e => hk2 e.1, State.calFinish, hp] at hexec
    dsimp only at hexec
    rw [if_neg (by omega)] at hexec
    exact ⟨_, hexec, ⟨none, 0, .cal { r with stored := true }, 0, [], _, _⟩, rfl, rfl⟩
  · intro k stat c s hs hb hc
    have hexec : exec (.calSchedule k stat) s = execCalSchedule k stat s := rfl
    unfold execCalSchedule at hexec
    rw [if_neg (by simp [hs, hb]), hc] at hexec
    exact ⟨_, hexec, State.calStart_next _ _ _ _ _⟩
  · intro k stat s hs
    exact if_pos (.inl hs)
  · intro i t x s hm ha
    have hexec : exec (.calStale i) s = execCalStale i s := rfl
    unfold execCalStale at hexec
    rw [hm] at hexec
    dsimp only at hexec
    rw [if_pos (.inl ha)] at hexec
    split at hexec
    · next hc =>
      exact ⟨_, hexec, by simpa using hc, fun _ => rfl⟩
    · next hc =>
      refine ⟨_, hexec, ?_, fun hin => absurd (by simpa using hin) hc⟩
      rw [State.cal_of_outside (s := s.modCal fun c => { c with stale := i.val :: c.stale }) (by simp)]
      exact List.mem_cons_self
end Sys2Proof.Machine
end

section
/-!
PROOFS. Benchmark sessions (R576 to R579).
-/
namespace Sys2Proof.Machine
open Sys2Proof

/-! ## A device parameter that is written reads its value -/

theorem look_drop {α : Type} (i : Nat) (t : Tab α) : look (drop i t) i = none := by
  induction t with
  | nil => rfl
  | cons e t ih =>
    obtain ⟨j, a⟩ := e
    rw [drop]
    split
    · exact ih
    · next h => rw [look, if_neg h, ih]

theorem ParS.dv_setDev (p : ParS) (role : Role) (id v : Nat) : (p.setDev id (some v)).dv role id = v := by
  unfold ParS.setDev
  dsimp only
  split
  · next h =>
    rw [ParS.dv, look_drop]
    dsimp only
    rw [if_neg fun e => h.2 e.1, h.1]
  · rw [ParS.dv, look_put_same]

/-! ## Slots of a session -/

theorem State.rgGrant_prio (i p : Nat) (internal : Bool) (s : State) : ((s.rgGrant i p internal).rgSlot i).prio = p := by
  rw [State.rgGrant, State.modSlot_rgSlot]

theorem State.rgGrant_prio_other {i p k : Nat} (internal : Bool) {s : State} (h : (s.rgSlot k).prio = p) :
    ((s.rgGrant i p internal).rgSlot k).prio = p := by
  by_cases e : k = i
  · rw [e]
    exact s.rgGrant_prio i p internal
  · exact (congrArg RgSlot.prio (Tab.get_put_ne RgSlot.init s.rg.slots e _)).trans h

/-- A loop measurement within a quarter period is recorded (R577). -/
theorem State.opBmLoop_records {h : Hdr} {c path : Nat} {d : BitVec 64} {u : Nat} {m : LoopMeas} {s : State} {b : Bench}
    (hp : path ≠ 0) (hd : tivOk d.toInt = true) (hu : u ≠ 2 ^ 63) (hb : s.cal.bench = some b)
    (ht : path = 3 → s.tests.any (fun r => r.kind = 1 ∧ r.unit = c) = false) (hm : m.hop = false)
    (hx : 4 * (beyond ((m.tIn : Int) - m.tSrc - d.toInt) (max 1 (s.freqOf c))).natAbs ≤ 2 ^ 24 * secU) :
    ∃ p g, (s.opBmLoop h c path d u m).cal.bench = some g ∧ p ∈ g.paths ∧ p.ch = c ∧ p.path = path ∧ p.dLb = d.toInt ∧ p.m = p.dLb + p.e ∧
      Answered h 0x0512 ⟨.ok, 0, 0, 0, [tivWord p.m + 2 ^ 64 * tivWord p.e]⟩ (s.opBmLoop h c path d u m) := by
  unfold State.opBmLoop
  extract_lets f x e p
  rw [if_neg fun h => h.elim hp fun h => h.elim (by simp [hd]) hu, hb]
  dsimp only
  rw [if_neg fun ⟨h3, ha⟩ => by rw [ht h3] at ha; exact Bool.false_ne_true ha, if_neg (by simp [hm]), if_neg (Nat.not_lt.2 hx)]
  exact ⟨p, _, rfl, List.mem_append_right _ List.mem_cons_self, rfl, rfl, rfl, rfl, State.reply_answered _ _ _ _⟩

/-- Settles O42: the checks of each command in their order, and the session that it leaves. -/
theorem benchmarkSessions : Obligations.BenchmarkSessions := by
  refine ⟨?_, ?_, ?_, ?_, ?_, ?_, ?_, ?_, ?_, ?_, ?_, ?_, ?_⟩
  · intro h u id op i j l s g hm hu hr hb hruns hslots
    refine ⟨_, rfl, ?_⟩
    have h2 : ¬ (((s.taken h).pwr.mode ≠ .service ∧ (s.taken h).pwr.mode ≠ .holdover) ∨ (s.taken h).refRetired = true) := by
      have e : (s.taken h).refRetired = s.refRetired := rfl
      rw [e, hr]
      obtain h | h := hm <;> simp [h]
    have hb' : (s.taken h).cal.bench = none := hb
    have hruns' : (s.taken h).cal.runs = [] := hruns
    have hslots' : (upTo 16).reverse.filter (fun i => ((s.taken h).rgSlot i).prio = 0) = i :: j :: l := hslots
    rw [State.viaDoor_taken g, State.opBmOpen, if_neg hu, if_neg h2, hb', hruns', List.find?_nil]
    dsimp only
    rw [hslots']
    dsimp only
    have hi := ((s.taken h).rgGrant i 1 true).rgGrant_prio_other (i := j) true ((s.taken h).rgGrant_prio i 1 true)
    have hj := ((s.taken h).rgGrant i 1 true).rgGrant_prio j 1 true
    refine ⟨State.reply_answered _ _ _ _, hi, hj, ParS.dv_setDev _ _ _ _, _, rfl, rfl, rfl, rfl, rfl, rfl, rfl⟩
  · intro h u id op b s g hm hu hr hb
    change Host.Outcome.next _ = _
    have h2 : ¬ (((s.taken h).pwr.mode ≠ .service ∧ (s.taken h).pwr.mode ≠ .holdover) ∨ (s.taken h).refRetired = true) := by
      have e : (s.taken h).refRetired = s.refRetired := rfl
      rw [e, hr]
      obtain h | h := hm <;> simp [h]
    have hb' : (s.taken h).cal.bench = some b := hb
    rw [State.viaDoor_taken g, State.opBmOpen, if_neg hu, if_neg h2, hb']
  · intro h d u l b s g hd hu hb
    refine ⟨_, rfl, ?_⟩
    have hb' : (s.taken h).cal.bench = some b := hb
    rw [State.viaDoor_taken g, State.opBmRef, if_neg fun e => e.elim (by simp [hd]) hu, hb']
    exact ⟨_, rfl, State.reply_answered _ _ _ _⟩
  · intro h d u l s g hd hu hb
    change Host.Outcome.next _ = _
    have hb' : (s.taken h).cal.bench = none := hb
    rw [State.viaDoor_taken g, State.opBmRef, if_neg fun e => e.elim (by simp [hd]) hu, hb']
  · intro h d u l s g hx
    change Host.Outcome.next _ = _
    rw [State.viaDoor_taken g, State.opBmRef, if_pos (hx.imp_left fun e => by rw [e]; rfl)]
  · intro h c path d u m b s g hp hd hu hb hm ht hx
    refine ⟨_, rfl, ?_⟩
    rw [State.viaDoor_taken g]
    have hp' : path.val ≠ 0 := fun e => hp (Fin.ext e)
    exact State.opBmLoop_records (s := s.taken h) hp' hd hu hb (fun e => ht (Fin.ext e)) hm hx
  · intro h c path d u m b s g hp hd hu hb hm ht
    change Host.Outcome.next _ = _
    have hp' : path.val ≠ 0 := fun e => hp (Fin.ext e)
    have hb' : (s.taken h).cal.bench = some b := hb
    have ht' : ¬ (path.val = 3 ∧ (s.taken h).tests.any (fun r => r.kind = 1 ∧ r.unit = c) = true) := fun ⟨h3, ha⟩ => by
      have := ht (Fin.ext h3)
      rw [State.taken_tests, this] at ha
      exact Bool.false_ne_true ha
    rw [State.viaDoor_taken g, State.opBmLoop, if_neg fun e => e.elim hp' fun e => e.elim (by simp [hd]) hu, hb']
    dsimp only
    rw [if_neg ht', if_pos hm]
  · intro h b s g hb hc hq
    refine ⟨_, rfl, ?_⟩
    have hb' : (s.taken h).cal.bench = some b := hb
    have hc' : (s.taken h).calPre b.octs true false = none := hc
    have hq' : ¬ (s.taken h).benchQueued = true := by
      have e : (s.taken h).benchQueued = s.benchQueued := rfl
      rw [e, hq]
      decide
    rw [State.viaDoor_taken g, State.opBmClose, hb']
    dsimp only
    rw [hc']
    dsimp only [Option.or]
    rw [if_pos rfl]
    dsimp only
    rw [if_neg hq']
    exact State.commit_queued _ _ _ _
  · intro h slope b e s g hb hc
    change Host.Outcome.next _ = _
    have hb' : (s.taken h).cal.bench = some b := hb
    have hc' : (s.taken h).calPre b.octs true false = some e := hc
    rw [State.viaDoor_taken g, State.opBmClose, hb']
    dsimp only
    rw [hc']
    rfl
  · intro h b s g hb hc
    change Host.Outcome.next _ = _
    have hb' : (s.taken h).cal.bench = some b := hb
    have hc' : (s.taken h).calPre b.octs true false = none := hc
    rw [State.viaDoor_taken g, State.opBmClose, hb']
    dsimp only
    rw [hc']
    rfl
  · intro h b s g hb
    refine ⟨_, rfl, ?_⟩
    rw [State.viaDoor_taken g, State.opBmAbort]
    refine ⟨State.reply_answered _ _ _ _, ?_, ?_⟩
    · rw [State.cal_of_outside (s := (s.taken h).benchEnd 0x12 0) (by simp)]
      exact State.benchEnd_bench _ _ _
    · exact (State.store_of_outside (s := s.taken h) (by simp)).trans rfl
  · intro b s hb ht
    have hexec : exec .bmExpired s = execBmExpired s := rfl
    unfold execBmExpired at hexec
    rw [hb] at hexec
    dsimp only at hexec
    rw [if_pos ht] at hexec
    refine ⟨_, hexec, ?_, State.store_of_outside (by simp)⟩
    rw [State.cal_of_outside (s := s.benchEnd 0x12 0) (by simp)]
    exact State.benchEnd_bench _ _ _
  · intro b s hb ht
    change execBmExpired s = _
    unfold execBmExpired
    rw [hb]
    exact if_neg (Nat.not_le.2 ht)

end Sys2Proof.Machine
end

section
/-!
PROOFS. Stores that begin, wait and stand (R506, R595, R600, R601).
-/
namespace Sys2Proof.Machine
open Sys2Proof

/-! ## The port with nothing waiting -/

theorem State.portNext_none {s : State} (h : s.mem.waiting = []) : s.portNext = s := by
  have hrow : s.mem.inRow 4 = [] := by rw [MemS.inRow, h, List.filter_nil]
  unfold State.portNext
  rw [State.servePort_none h]
  dsimp only
  rw [hrow]
  rfl

/-! ## A record that begins -/

theorem State.eraseRegion_q (r : Nat) (s : State) : (s.eraseRegion r).store.q = s.store.q :=
  StoreS.erases_q (fun d i => d.phys (r + i)) (r + ·) (upTo (regSize r)) s.store

theorem State.beginRec_store (p : Prog) (s : State) : (s.beginRec p).store.prog = some p ∧ (s.beginRec p).store.wait = false ∧
    (s.beginRec p).store.q = s.store.q ∧ (p.ty ≠ 1 → p.ty ≠ 0x40 → (s.beginRec p).store.flash = s.store.flash) := by
  unfold State.beginRec
  extract_lets s1
  refine ⟨rfl, rfl, ?_, fun h1 h40 => ?_⟩
  · have h1 : s1.store.q = s.store.q := by
      simp only [s1]
      split
      · exact s.eraseRegion_q p.reg
      · rfl
    exact h1
  · have e1 : s1 = s := if_neg fun h => h.elim h1 h40
    rw [e1]
    rfl

/-- The first store begins as the record planned for it. -/
theorem State.runStart_begins {r : StoreReq} {l : List StoreReq} {p : Prog} {s : State} (hq : s.store.q = r :: l) (hp : s.portBusy = false)
    (hu : s.mem.usable = true) (hf : s.store.foreign = false) (hb : s.pwr.brace = false) (hh : s.pwr.holdup = true) (hw : r.worn s = none)
    (hplan : s.plan r = .go p) : s.runStart = s.beginRec p := by
  have h : s.storeStart = (s.beginRec p, none) := by
    rw [State.storeStart, hq]
    dsimp only
    rw [if_neg (by simp [hp]), if_neg (by simp [hu]), if_neg (by simp [hf]), if_neg (by simp [hb, hh]), hw, hplan]
  rw [State.runStart, h]

/-- The first store waits while the hold-up supply is low. -/
theorem State.runStart_waits {r : StoreReq} {l : List StoreReq} {s : State} (hq : s.store.q = r :: l) (hp : s.portBusy = false)
    (hu : s.mem.usable = true) (hf : s.store.foreign = false) (hh : s.pwr.holdup = false) (hw : s.store.wait = false) :
    s.runStart = (s.modStore fun d => { d with wait := true }).devEv 11 := by
  have h : s.storeStart = ((s.modStore fun d => { d with wait := true }).devEv 11, none) := by
    rw [State.storeStart, hq]
    dsimp only
    rw [if_neg (by simp [hp]), if_neg (by simp [hu]), if_neg (by simp [hf]), if_pos (.inr (by simp [hh])), if_neg (by simp [hw])]
  rw [State.runStart, h]

theorem State.prog_none {s : State} (h : s.portBusy = false) : s.store.prog = none := by
  unfold State.portBusy at h
  simp only [Bool.or_eq_false_iff] at h
  simpa using h.1.1

/-! ## A store that fails, and one that stands -/

theorem StoreS.program_reads {α : Type} {f : StoreS → α} (hf : ∀ d w, f { d with flash := w } = f d) (reg i : Nat) (l : List FWord) (d : StoreS) :
    f (d.program reg i l) = f d := by
  induction l generalizing i d with
  | nil => rfl
  | cons w l ih => exact (ih _ _).trans (hf _ _)

theorem State.programRec_reads {α : Type} {f : StoreS → α} (hf : ∀ d w, f { d with flash := w } = f d) (n : Nat) (c : WCls) (s : State) :
    f (s.programRec n c).store = f s.store := by
  unfold State.programRec
  split
  · rfl
  · exact StoreS.program_reads hf _ _ _ _

theorem State.replaceSector_store (l : Nat) (s : State) : (s.replaceSector l).store.gen = s.store.gen ∧ (s.replaceSector l).store.prog = s.store.prog := by
  unfold State.replaceSector
  split
  · split
    · exact ⟨rfl, rfl⟩
    · rw [State.store_of_outside (s := s.modStore fun d => { d with resOut := true }) (by simp)]
      exact ⟨rfl, rfl⟩
  · exact ⟨rfl, rfl⟩

theorem State.replaceSector_door_ne {n : Nat} (hn : n ≠ 6) (l : Nat) (s : State) : (s.replaceSector l).door n = s.door n := by
  unfold State.replaceSector
  split
  · split
    · rfl
    · rw [State.post_door_ne hn]
      rfl
  · rfl

theorem State.dropStore_q (i : Nat) {s : State} : (s.dropStore i).store.q = s.store.q.eraseIdx i := by
  unfold State.dropStore State.modStore
  dsimp only
  split
  · next h => rw [h, List.eraseIdx_zero, List.drop_one]
  · rfl

/-- A command's store that fails is answered, and leaves the queue. -/
theorem State.storeFail_answered {i : Nat} {e : Err} {r : StoreReq} {h : Hdr} {s : State} (hr : s.store.q[i]? = some r) (hh : r.h = some h)
    (hres : ∀ k a b, r.ch ≠ .restore k a b) (hcal : ∀ c, r.ch ≠ .cal c) : ∃ m,
    s.storeFail i e = (((s.modStore fun d => { d with hi := m }).dropStore i).reply h r.cmd (.fail e)) := by
  have hgw : r.gwInst = none := by rw [StoreReq.gwInst, hh]; rfl
  refine ⟨if i = 0 ∧ s.store.stage = 1 ∧ s.store.att = 0 then 1 + max s.store.gen s.store.hi else s.store.hi, ?_⟩
  unfold State.storeFail
  rw [hr]
  dsimp only
  rw [hh]
  unfold StoreReq.failed
  rw [hgw]
  dsimp only
  generalize r.ch = x at hres hcal
  cases x with
  | restore k a b => exact absurd rfl (hres k a b)
  | cal c => exact absurd rfl (hcal c)
  | _ => rfl

/-- An epoch that stands is in force as announced, and is answered. -/
theorem State.storeDone_epoch {p : Prog} {r : StoreReq} {h : Hdr} {seed e : Nat} (hch : r.ch = .epoch seed e) (hh : r.h = some h) (hty : p.ty = 0x11)
    (s : State) : ∃ t : State, s.storeDone p r = t.reply h r.cmd .ok ∧ t.arr.epoch = some (seed, e) ∧ t.store.gen = p.gen ∧
      t.store.q = s.store.q.eraseIdx 0 ∧ t.store.prog = none ∧ t.mem = s.mem := by
  unfold State.storeDone
  extract_lets old s1 s2
  have hdrop : (s.dropStore 0).store.q = s.store.q.eraseIdx 0 ∧ (s.dropStore 0).store.prog = none := ⟨s.dropStore_q 0, rfl⟩
  have hmem : old.mem = s.mem := rfl
  have hold : old.store = { (s.dropStore 0).store with gen := p.gen, chain := (s.dropStore 0).store.chain + 1 } := by
    simp only [old, State.modStore, StoreS.stands, hty]
    rfl
  have h1 : s1 = (old.modPar (·.setDev P.hashSeed (some seed))).modStore fun d => { d with epoch := fld 0 32 seed + fld 32 48 e + 2 ^ 80 } := by
    simp only [s1, StoreReq.load, hch]
  have h2 : s2 = s1.modArr fun a => { a with epoch := some (seed, e) } := by
    simp only [s2, StoreReq.effect, hch]
  have hrep : r.rep p old s2 = some .ok := by
    simp only [StoreReq.rep, hch]
  rw [hrep, hh]
  refine ⟨s2, rfl, ?_⟩
  clear_value s2 s1 old
  subst h2 h1
  exact ⟨rfl, congrArg StoreS.gen hold, (congrArg StoreS.q hold).trans hdrop.1, (congrArg StoreS.prog hold).trans hdrop.2, hmem⟩

/-- Queue and generation of the store. -/
def StoreS.queued (d : StoreS) : List StoreReq × Nat := (d.q, d.gen)

/-- A command's store that fails for good is answered STORE, and nothing of its change takes effect. -/
theorem State.storeFail_lastly {r : StoreReq} {l : List StoreReq} {h : Hdr} {seed e : Nat} {s : State} (hq : s.store.q = r :: l) (hr : r.h = some h)
    (hd : h.door ≠ 6) (hch : r.ch = .epoch seed e) (hm : s.mem.waiting = []) (x : Nat) :
    Answered h r.cmd (.fail .store) ((s.storeFail 0 .store).replaceSector x).portNext ∧ ((s.storeFail 0 .store).replaceSector x).portNext.arr = s.arr ∧
      ((s.storeFail 0 .store).replaceSector x).portNext.store.gen = s.store.gen ∧
      ((s.storeFail 0 .store).replaceSector x).portNext.store.prog = none := by
  obtain ⟨m, hfail⟩ := State.storeFail_answered (i := 0) (e := .store) (by rw [hq]; rfl) hr (by rw [hch]; intros; exact Change.noConfusion)
    (by rw [hch]; intros; exact Change.noConfusion)
  have ha := State.reply_answered h r.cmd (.fail .store) ((s.modStore fun d => { d with hi := m }).dropStore 0)
  have hg : (s.storeFail 0 .store).store.gen = s.store.gen := by rw [hfail]; rfl
  have hp : (s.storeFail 0 .store).store.prog = none := by rw [hfail]; rfl
  rw [← hfail] at ha
  obtain ⟨h1, h2⟩ := (s.storeFail 0 .store).replaceSector_store x
  have hmem : ((s.storeFail 0 .store).replaceSector x).mem.waiting = [] := by
    rw [State.mem_of_outside (s := s) (by simp)]
    exact hm
  rw [State.portNext_none hmem, h1, h2]
  refine ⟨Answered.of_door (State.replaceSector_door_ne (fun e => hd (Fin.ext e)) _ _) ha, ?_, hg, hp⟩
  exact State.arr_of_outside (by simp)

/-- Settles O43: the first store begins as planned; one that stands or fails answers last, with nothing else waiting for the port. -/
theorem storesBeginAndCommit : Obligations.StoresBeginAndCommit := by
  unfold Obligations.StoresBeginAndCommit
  intro up free
  refine ⟨?_, ?_, ?_, ?_, ?_, ?_, ?_, ?_, ?_, ?_⟩
  · rintro r l p s ⟨hh, hp, hu, hf, hb⟩ hq hr hw hplan
    have hexec : exec (.dsStore true) s = execDsStore true s := rfl
    unfold execDsStore at hexec
    extract_lets s1 at hexec
    have hq1 : s1.store.q = r :: l := hq
    have hp1 : s1.portBusy = false := hp
    rw [if_neg (by simp [hh]), hq1, List.head?_cons] at hexec
    dsimp only at hexec
    rw [if_neg (by simp [State.prog_none hp1]), if_neg fun h => hr h.1, if_neg (by simp [hp1]), State.runStart_begins hq1 hp1 hu hf hb rfl hw hplan] at hexec
    exact ⟨_, hexec, s1.beginRec_store p⟩
  · rintro r l s ⟨hh, hp, hu, hf, hb⟩ hq hr hw
    have hexec : exec (.dsStore false) s = execDsStore false s := rfl
    unfold execDsStore at hexec
    extract_lets s1 at hexec
    have hq1 : s1.store.q = r :: l := hq
    have hp1 : s1.portBusy = false := hp
    rw [if_neg (by simp [hh]), hq1, List.head?_cons] at hexec
    dsimp only at hexec
    rw [if_neg (by simp [State.prog_none hp1]), if_neg fun h => hr h.1, if_neg (by simp [hp1]), State.runStart_waits hq1 hp1 hu hf rfl hw] at hexec
    exact ⟨_, hexec, rfl, rfl⟩
  · intro b s hh
    exact if_pos hh
  · intro r l s hh hprog hp hq hr
    change execDsStore true s = _
    unfold execDsStore
    extract_lets s1
    have hq1 : s1.store.q = r :: l := hq
    have hp1 : s1.portBusy = true := hp
    have hprog1 : s1.store.prog = none := hprog
    rw [if_neg (by simp [hh]), hq1, List.head?_cons]
    dsimp only
    rw [if_neg (by simp [hprog1]), if_neg fun h => hr h.1, if_pos hp1]
  · rintro r l p s ⟨hh, hp, hu, hf, hb⟩ hq hwait hw hplan
    have hexec : exec .holdupOkHigh s = execHoldupOkHigh s := rfl
    unfold execHoldupOkHigh at hexec
    extract_lets s1 at hexec
    have hq1 : s1.store.q = r :: l := hq
    have hp1 : s1.portBusy = false := hp
    have hc : s1.store.wait = true ∧ (!s1.pwr.held) = true := ⟨hwait, by simp [s1, State.modPwr, hh]⟩
    rw [if_pos hc, State.runStart_begins hq1 hp1 hu hf hb rfl hw hplan] at hexec
    obtain ⟨h1, h2, h3, -⟩ := s1.beginRec_store p
    exact ⟨_, hexec, h1, h2, h3⟩
  · intro s hw
    change execHoldupOkHigh s = _
    unfold execHoldupOkHigh
    extract_lets s1
    rw [if_neg fun h => Bool.false_ne_true (hw.symm.trans h.1)]
  · intro i r h s hw hr hh hage hres hcal
    have hexec : exec (.holdupWaitExpiry i) s = execHoldupWaitExpiry i s := rfl
    have hstays : ¬ r.stays = true := by simp [StoreReq.stays, hh]
    obtain ⟨m, hfail⟩ := State.storeFail_answered (e := .holdup) hr hh hres hcal
    unfold execHoldupWaitExpiry at hexec
    rw [if_neg (by simp [hw]), hr] at hexec
    dsimp only at hexec
    rw [if_neg hstays, hfail] at hexec
    refine ⟨((s.modStore fun d => { d with hi := m }).dropStore i).reply h r.cmd (.fail .holdup), ?_, State.reply_answered _ _ _ _, ?_⟩
    · rw [hexec]
      generalize r.ch = x at hage
      cases x with
      | age q => exact absurd rfl (hage q)
      | _ => rfl
    · exact State.dropStore_q i
  · intro i s hw
    exact if_pos (by simp [hw])
  · intro p r l h seed e s hprog hq hh hb hm hr hch hty
    have hexec : exec (.dsRecordCommit none) s = execDsRecordCommit none s := rfl
    unfold execDsRecordCommit at hexec
    rw [hprog, hq] at hexec
    dsimp only at hexec
    rw [if_neg (by simp [hh, hb]), State.recStands, hch] at hexec
    dsimp only at hexec
    have hq1 : (s.programRec (p.pay.length + 3) .clean).store.q = r :: l :=
      (State.programRec_reads (f := StoreS.q) (by intros; rfl) _ _ s).trans hq
    have hm1 : (s.programRec (p.pay.length + 3) .clean).mem = s.mem := State.mem_of_outside (by simp)
    generalize s.programRec (p.pay.length + 3) .clean = s1 at hexec hq1 hm1
    obtain ⟨t, ht, h1, h2, h3, h4, h5⟩ := State.storeDone_epoch hch hr hty (s1.modStore fun d => { d with prog := none })
    rw [ht, State.portNext_none (show (t.reply h r.cmd .ok).mem.waiting = [] by change t.mem.waiting = []; rw [h5]; exact (congrArg MemS.waiting hm1).trans hm)] at hexec
    refine ⟨_, hexec, State.reply_answered _ _ _ _, h1, h2, ?_, h4⟩
    exact h3.trans (by rw [State.modStore, hq1]; rfl)
  · intro p r l h seed e i c s hprog hq hh hb hm hr hd hch hatt
    have hexec : exec (.dsRecordCommit (some (i, c))) s = execDsRecordCommit (some (i, c)) s := rfl
    unfold execDsRecordCommit at hexec
    rw [hprog, hq] at hexec
    dsimp only at hexec
    rw [if_neg (by simp [hh, hb]), if_neg (Nat.not_lt.2 hatt)] at hexec
    refine ⟨_, hexec, ?_⟩
    have hm1 (n : Nat) : (s.programRec n .clean).mem.waiting = [] := (congrArg MemS.waiting (State.mem_of_outside (by simp))).trans hm
    have ha1 (n : Nat) : (s.programRec n .clean).arr = s.arr := State.arr_of_outside (by simp)
    have hs1 (n : Nat) : (s.programRec n .clean).store.queued = (r :: l, s.store.gen) := by
      rw [State.programRec_reads (f := StoreS.queued) (by intros; rfl), StoreS.queued, hq]
    have hlast (s1 : State) (n : Nat) {j k : Nat} (x : WCls)
        (e : s1 = (s.programRec n .clean).modStore fun d => { (d.spoil p j x) with prog := none }) :
        Answered h r.cmd (.fail .store) ((s1.storeFail 0 .store).replaceSector k).portNext ∧ ((s1.storeFail 0 .store).replaceSector k).portNext.arr = s.arr ∧
          ((s1.storeFail 0 .store).replaceSector k).portNext.store.gen = s.store.gen ∧ ((s1.storeFail 0 .store).replaceSector k).portNext.store.prog = none := by
      obtain ⟨h1, h2⟩ := Prod.mk.inj (hs1 n)
      have hq1 : s1.store.q = r :: l := by rw [e]; exact h1
      have hm1 : s1.mem.waiting = [] := by rw [e]; exact hm1 n
      have ha1 : s1.arr = s.arr := by rw [e]; exact ha1 n
      have hg1 : s1.store.gen = s.store.gen := by rw [e]; exact h2
      clear e
      rw [← ha1, ← hg1]
      exact State.storeFail_lastly hq1 hr hd hch hm1 k
    exact hlast _ _ _ rfl

end Sys2Proof.Machine
end

section
/-!
PROOFS. Erases ahead of need, scrubs, and the reads and the formatting of the datum store (R612 to R622, R631, R633 to R637).
-/
namespace Sys2Proof.Machine
open Sys2Proof

/-! ## What a read or a scrub of the array leaves of the store -/

theorem State.eccCorr_reads {β : Type} {r : StoreS → β} (hr : ∀ d n, r { d with corr := n } = r d) (ws : List Nat) (s : State) :
    r (s.eccCorr ws).store = r s.store :=
  forAll_reads (r := fun s => r s.store) (fun w s => by
    rw [State.store_of_outside (State.fault_outside _ _ _ (s.modStore fun d => { d with corr := satAdd 32 1 d.corr }) (by simp) (by simp))]
    exact hr _ _) ws s

theorem State.readRegion_reads {β : Type} {r : StoreS → β} (hc : ∀ d n, r { d with corr := n } = r d) (hu : ∀ d n, r { d with ue := n } = r d)
    (reg : Nat) (s : State) : r (s.readRegion reg).store = r s.store :=
  (State.eccCorr_reads hc _ _).trans (hu _ _)

/-- Reading the region of the Benchmarks leaves the list of them. -/
theorem State.readRegion_benchList (reg : Nat) (s : State) : (s.readRegion reg).benchList = s.benchList := by
  have hrec : (s.readRegion reg).store.records regBench = s.store.records regBench :=
    State.readRegion_reads (r := fun d => d.records regBench) (fun _ _ => rfl) (fun _ _ => rfl) reg s
  have hfor : (s.readRegion reg).store.foreign = s.store.foreign := State.readRegion_reads (r := StoreS.foreign) (fun _ _ => rfl) (fun _ _ => rfl) reg s
  unfold State.benchList State.benches
  rw [hrec, hfor, State.mem_of_outside (State.readRegion_outside reg s (by simp) (by simp) (by simp))]

/-- A scrub marks the words that have come to read so, and the next one counts from now. -/
theorem State.scrubNow_marks {ws : List (BitVec 32 × Bool)} {s : State} (hu : s.mem.usable = true) (hf : s.store.foreign = false) :
    (s.scrubNow ws).store.flash = s.store.flash.map (drift ws) ∧ (s.scrubNow ws).store.scrubT = s.gw.secs := by
  unfold State.scrubNow
  rw [if_neg (by simp [hu, hf])]
  extract_lets s1 s2 s3 dirty s4
  have hcommit (h : Option Hdr) (n : Nat) (c : Change) (t : State) :
      ((t.commit h n c).store.flash, (t.commit h n c).store.scrubT) = (t.store.flash, t.store.scrubT) := rfl
  have h3 : (s3.store.flash, s3.store.scrubT) = (s.store.flash.map (drift ws), s.gw.secs) :=
    State.eccCorr_reads (r := fun d => (d.flash, d.scrubT)) (fun _ _ => rfl) _ s2
  have h4 : (s4.store.flash, s4.store.scrubT) = (s3.store.flash, s3.store.scrubT) := by
    unfold s4
    split <;> rfl
  clear_value s4
  exact Prod.mk.inj ((forAll_reads (r := fun s => (s.store.flash, s.store.scrubT)) (fun _ t => hcommit _ _ _ t) _ s4).trans (h4.trans h3))

/-! ## What an erase leaves -/

/-- With the first store of no queue nothing begins. -/
theorem State.runStart_nil {s : State} (h : s.store.q = []) : s.runStart = s := by
  unfold State.runStart State.storeStart
  rw [h]

theorem State.eraseBegin_begins {ring : Bool} {l : Nat} {s : State} (h : s.eraseTarget ring = some l) :
    s.eraseBegin ring = (s.modMem fun m => { m with cont := false }).modStore fun d =>
      { d with erasing := some (d.phys l, l, if ring then regAge else regBank d.otherBank, 0) } := by
  unfold State.eraseBegin
  rw [h]

theorem State.writeBoot_foreign (pref a b : Nat) (s : State) : (s.writeBoot pref a b).store.foreign = s.store.foreign := by
  have herase (p : StoreS → Nat → Nat) (l : Nat → Nat) (is : List Nat) (d : StoreS) :
      (is.foldl (fun d i => d.erase (p d i) (l i)) d).foreign = d.foreign := by
    induction is generalizing d with
    | nil => rfl
    | cons i is ih => exact ih _
  exact (StoreS.program_reads (f := StoreS.foreign) (fun _ _ => rfl) _ _ _ _).trans (herase _ _ _ _)

/-- A format makes the store its own, and the boot record that follows leaves it so. -/
theorem State.format_foreign (h : Hdr) (pref a b : Nat) (s : State) :
    (((s.modStore fun d => { d with foreign := false }).writeBoot pref a b).reply h 0x0A12 .ok).store.foreign = false :=
  State.writeBoot_foreign pref a b (s.modStore fun d => { d with foreign := false })

/-- Settles O44: each erase, scrub and read takes the one branch that its state names. -/
theorem erasesAndScrubs : Obligations.ErasesAndScrubs := by
  unfold Obligations.ErasesAndScrubs
  intro able
  have hstream {h : Hdr} {cmd : Nat} {s : State} (g : Taken h cmd s) {bd : Fin 8} (hb : bd.val = 4 ∨ bd.val = 5) (hs : (s.door bd).stream = none) :
      (s.taken h).streamErr bd = none := State.streamErr_none hb (by rw [g.door_bulk hb]; exact hs)
  have hport {t : State} (hm : t.mem.waiting = []) (hq : t.store.q = []) : t.portNext.runStart = t := by
    rw [State.portNext_none hm, State.runStart_nil hq]
  refine ⟨?_, ?_, ?_, ?_, ?_, ?_, ?_, ?_, ?_, ?_, ?_, ?_, ?_, ?_, ?_⟩
  · rintro ring l s ⟨hh, hb, hr, hu, hf⟩ hp ht
    change execEraseAhead ring s = _
    rw [execEraseAhead, if_neg (by simp [hh, hb, hr, hu, hf]), if_neg (by simp [hp]), State.eraseBegin_begins ht]
  · rintro ring s ⟨hh, hb, hr, hu, hf⟩ hp
    change execEraseAhead ring s = _
    rw [execEraseAhead, if_neg (by simp [hh, hb, hr, hu, hf]), if_pos hp]
  · intro ring s hn
    change execEraseAhead ring s = _
    rw [execEraseAhead, if_pos]
    refine Classical.byContradiction fun hc => ?_
    simp only [not_or, Bool.not_eq_true, Bool.not_eq_eq_eq_not, Bool.not_true] at hc
    obtain ⟨hh, hb, hr, hu, hf⟩ := hc
    exact hn ⟨hh, hb, hr, by simpa using hu, hf⟩
  · intro p l r n s he hh hq hm hw
    change execSectorEraseDone true s = _
    unfold execSectorEraseDone
    rw [he]
    dsimp only
    rw [if_neg (by simp [hh]), if_pos rfl, if_neg (by rw [Bool.not_eq_true]; exact hw)]
    exact congrArg Host.Outcome.next (hport hm hq)
  · intro p l r n s he hh hn
    change execSectorEraseDone false s = _
    unfold execSectorEraseDone
    rw [he]
    dsimp only
    rw [if_neg (by simp [hh]), if_neg (by simp), if_pos hn]
  · intro ok s he
    change execSectorEraseDone ok s = _
    unfold execSectorEraseDone
    rw [he]
  · intro ws s hh hr hu hf hd
    refine ⟨s.scrubNow ws, ?_, State.scrubNow_marks hu hf⟩
    change execDsScrubPeriod ws s = _
    rw [execDsScrubPeriod, if_neg (by simp [hh, hr, hd])]
  · intro ws s hd
    exact if_pos (.inr (.inr hd))
  · intro h ws s g hu hf
    refine ⟨_, rfl, ?_⟩
    rw [State.viaDoor_taken g]
    exact ⟨State.reply_answered _ _ _ _, (State.scrubNow_marks (s := s.taken h) hu hf).1⟩
  · intro h s g
    refine ⟨_, rfl, ?_⟩
    rw [State.viaDoor_taken g]
    exact ⟨State.reply_only _ _ _ _, State.reply_answered _ _ _ _⟩
  · intro h bd s g hb hs
    refine ⟨_, rfl, ?_⟩
    rw [State.viaDoor_taken g, State.opDsRetireList, hstream g hb hs]
    exact State.openOut_opened (g.bulk hb) _ _ _
  · intro h bd s g hb hs hf
    refine ⟨_, rfl, ?_⟩
    have hf' : ¬ (s.taken h).store.foreign = true := by simp [hf]
    rw [State.viaDoor_taken g, State.opDsBenchList, hstream g hb hs]
    dsimp only
    rw [if_neg hf']
    refine ⟨_, ?_, State.openOut_opened (g.bulk hb) _ _ _⟩
    rw [List.length_map]
    split
    · rw [State.readRegion_benchList]
      rfl
    · rfl
  · intro h bd n b s g hb hs hfind
    refine ⟨_, rfl, ?_⟩
    have hfind' : (s.taken h).benchList.find? (·.1 = n.toNat) = some b := hfind
    rw [State.viaDoor_taken g, State.opDsBenchRead, hstream g hb hs]
    dsimp only
    rw [hfind']
    exact State.openOut_opened (g.bulk hb) _ _ _
  · intro h s g hm hu hb hh hf
    refine ⟨_, rfl, ?_⟩
    rw [State.viaDoor_taken g, State.opMntDsFormat, if_neg (by simp [hm]), if_neg (by simp [hu]), if_neg (by simp [hb, hh]), if_neg (by simp [hf])]
    exact ⟨State.reply_answered _ _ _ _, State.format_foreign _ _ _ _ _⟩
  · intro h s g hm
    change Host.Outcome.next _ = _
    rw [State.viaDoor_taken g, State.opMntDsFormat, if_pos (by simpa using hm)]

end Sys2Proof.Machine
end

section
/-!
PROOFS. Maintenance loads, OTP fields and firmware (R208, R209, R299, R588, R615, R629, R785).
-/
namespace Sys2Proof.Machine
open Sys2Proof

/-- A stream into a bulk door stands open there, and the door of the command stays busy until it ends. -/
theorem State.openIn_opened {h : Hdr} {cmd : Nat} {s : State} (g : Taken h cmd s) {bd : Fin 8} (hb : bd.val = 4 ∨ bd.val = 5) (len : Nat) :
    (((s.taken h).openIn h cmd bd len).door bd).stream = some ⟨cmd, h.tag, h, true, 0, [], len, 0, false, 0⟩ ∧
      (((s.taken h).openIn h cmd bd len).door bd).st = .reply ∧ (((s.taken h).openIn h cmd bd len).door h.door).st = .busy := by
  unfold State.openIn
  rw [State.door_modDoor_same, State.door_modDoor_ne (g.bulk hb).symm, State.taken, State.door_modDoor_same]
  exact ⟨rfl, rfl, rfl⟩

/-- The end of the row in front: with the supply up it is programmed, and its command is answered. -/
theorem State.otpRow_programmed {f x : Nat} {h : Hdr} {l : List (Nat × Nat × Option Hdr)} {s : State} (hl : s.otp.rows = (f, x, some h) :: l)
    (hh : s.pwr.held = false) (hb : s.pwr.brace = false) (hu : s.pwr.holdup = true) :
    Completes (.otpRowProgrammed false) s fun t => Answered h (otpCmd f) .ok t ∧ t.otp = { s.otp.program f x false with rows := l } := by
  have hexec : exec (.otpRowProgrammed false) s = execOtpRowProgrammed false s := rfl
  unfold execOtpRowProgrammed at hexec
  rw [hl] at hexec
  dsimp only at hexec
  rw [if_neg (by simp [hh, hb, hu]), if_neg (by simp)] at hexec
  exact ⟨_, hexec, State.reply_answered _ _ _ _, rfl⟩

/-- Settles O45: each load, write and image takes the one branch that its form and the state name. -/
theorem maintenanceAndFirmware : Obligations.MaintenanceAndFirmware := by
  have hstream {h : Hdr} {cmd : Nat} {s : State} (g : Taken h cmd s) {bd : Fin 8} (hb : bd.val = 4 ∨ bd.val = 5) (hs : (s.door bd).stream = none) :
      (s.taken h).streamErr bd = none := State.streamErr_none hb (by rw [g.door_bulk hb]; exact hs)
  refine ⟨?_, ?_, ?_, ?_, ?_, ?_, ?_, ?_, ?_, ?_, ?_, ?_, ?_, ?_, ?_, ?_⟩
  · intro h c l s g hok
    refine ⟨_, rfl, ?_⟩
    rw [State.viaDoor_taken g, State.opMntDtcLoad]
    rw [if_pos hok]
    exact State.commit_queued _ _ _ _
  · intro h c l s g hok
    change Host.Outcome.next _ = _
    rw [State.viaDoor_taken g, State.opMntDtcLoad]
    rw [if_neg (by simp [hok])]
  · intro h core l s g hc
    change Host.Outcome.next _ = _
    rw [State.viaDoor_taken g, State.opMntTdcLoad, if_neg (Nat.not_le.2 hc)]
    rfl
  · intro h core pos t₀ wid vern ofs trim valid temp secs s g hc hp h₀ hlate htemp hok
    refine ⟨_, rfl, ?_⟩
    have hp' : (s.taken h).cal.part0 = some (core.toNat, pos, t₀) := hp
    have htime : ¬ (core.toNat ≠ core.toNat ∨ (s.taken h).now < t₀ ∨ 10 * secU < (s.taken h).now - t₀) := by
      change ¬ (_ ∨ s.now < t₀ ∨ 10 * secU < s.now - t₀)
      omega
    have hop : (s.taken h).opMntTdcLoad h core.toNat (.rest wid vern ofs trim valid temp secs) =
        ((s.taken h).modCal fun c => { c with part0 := none }).commit (some h) 0x0A14
          (.tdc core.toNat ⟨pos, wid.map (·.toNat), vern.map (·.toNat), ofs.toNat, valid⟩ trim.toNat temp.toInt secs.toNat) := by
      rw [State.opMntTdcLoad, if_neg (Nat.not_le.2 hc)]
      dsimp only
      rw [hp']
      exact (if_neg htime).trans (if_pos ⟨hok, htemp⟩)
    rw [State.viaDoor_taken g, hop]
    exact ⟨rfl, _, rfl, rfl, rfl⟩
  · intro h node v s g hw hb hu
    have hw' : ¬ (s.taken h).otp.written node = true := by rw [Bool.not_eq_true]; exact hw
    have hb' : ¬ ((s.taken h).pwr.brace = true ∨ (!(s.taken h).pwr.holdup) = true) := by
      change ¬ (s.pwr.brace = true ∨ (!s.pwr.holdup) = true)
      simp [hb, hu]
    change Host.Outcome.next _ = _
    rw [State.viaDoor_taken g, State.opMntOtpWrite, if_neg hw', if_neg hb']
  · intro h node v s g hw
    refine ⟨_, rfl, ?_⟩
    have hw' : (s.taken h).otp.written node = true := hw
    rw [State.viaDoor_taken g, State.opMntOtpWrite, if_pos hw']
    exact ⟨State.reply_answered _ _ _ _, rfl, rfl⟩
  · intro f x h l s hl hh hb hu
    exact State.otpRow_programmed hl hh hb hu
  · intro b s hl
    change execOtpRowProgrammed b s = _
    unfold execOtpRowProgrammed
    rw [hl]
  · intro h k s g hk
    have hk' : ¬ (s.taken h).img.any (·.key = k.val) = true := by rw [Bool.not_eq_true]; exact hk
    change Host.Outcome.next _ = _
    rw [State.viaDoor_taken g, State.opFwRevoke, if_neg hk']
  · intro h k s g hk
    have hk' : (s.taken h).img.any (·.key = k.val) = true := hk
    change Host.Outcome.next _ = _
    rw [State.viaDoor_taken g, State.opFwRevoke, if_pos hk']
  · intro h s g
    refine ⟨_, rfl, ?_⟩
    rw [State.viaDoor_taken g]
    exact ⟨State.reply_only _ _ _ _, State.reply_answered _ _ _ _⟩
  · intro h bd n s g hb hs hq
    refine ⟨_, rfl, ?_⟩
    have hq' : ¬ (s.taken h).imageQueued = true := by rw [Bool.not_eq_true]; exact hq
    rw [State.viaDoor_taken g, State.opFwWrite, hstream g hb hs]
    dsimp only
    rw [if_neg hq']
    exact State.openIn_opened g hb _
  · intro h bd n s g hrom hb hs
    refine ⟨_, rfl, ?_⟩
    have hrom' : ¬ (!(s.taken h).pwr.rom) = true := by
      change ¬ (!s.pwr.rom) = true
      simp [hrom]
    rw [State.viaDoor_taken g, State.opFwSramRun, if_neg hrom', hstream g hb hs]
    exact State.openIn_opened g hb _
  · intro h bd n s g hrom
    have hrom' : (!(s.taken h).pwr.rom) = true := by
      change (!s.pwr.rom) = true
      simp [hrom]
    change Host.Outcome.next _ = _
    rw [State.viaDoor_taken g, State.opFwSramRun, if_pos hrom']
  · intro h i s g hi htr
    refine ⟨_, rfl, ?_⟩
    have hi' : (s.taken h).img = some i := hi
    rw [State.viaDoor_taken g, State.opFwConfirm, hi']
    dsimp only
    rw [if_pos htr]
    exact State.commit_queued _ _ _ _
  · intro h s g htr
    change Host.Outcome.next _ = _
    rw [State.viaDoor_taken g, State.opFwConfirm]
    have himg : (s.taken h).img = s.img := rfl
    rw [himg]
    cases hi : s.img with
    | none => rfl
    | some i =>
      rw [hi, Option.any_some] at htr
      dsimp only
      rw [if_neg (by simp [htr])]

end Sys2Proof.Machine
end

section
/-!
PROOFS. The gauges and what they wear (R169, R633 to R658).
-/
namespace Sys2Proof.Machine
open Sys2Proof

/-! ## The times of the log, which only a log moves -/

/-- Time of the newest sample, powered time, and the period in force. -/
def GwS.times (g : GwS) : Nat × Nat × Nat := (g.last, g.secs, g.per)

/-- What reads the gauges no further keeps their times. -/
theorem State.times_of_outside {s t : State} (h : t.outside (allBut [.gw]) = s.outside (allBut [.gw])) : t.gw.times = s.gw.times :=
  congrArg GwS.times (State.gw_of_outside h)

theorem State.modGwi_times (i : Nat) (f : GwInst → GwInst) (s : State) : (s.modGwi i f).gw.times = s.gw.times := rfl

theorem State.rgWrite_times (i : Nat) (s : State) : (s.rgWrite i).gw.times = s.gw.times := by
  unfold State.rgWrite
  split
  · rfl
  · next r l _ =>
    extract_lets n s1 s2
    have h2 : s2.gw.times = s.gw.times := State.times_of_outside (by simp only [s2, s1, ite_outside]; simp)
    rw [← h2]
    clear_value s2
    split
    · split <;> rfl
    · split
      · rfl
      · split <;> rfl

theorem State.rgFree_times (i : Nat) (s : State) : (s.rgFree i).gw.times = s.gw.times := by
  have hwrite {α : Type} (l : List α) (s : State) : (l.foldl (fun s _ => s.rgWrite i) s).gw.times = s.gw.times := by
    induction l generalizing s with
    | nil => rfl
    | cons a l ih => exact (ih _).trans (State.rgWrite_times i s)
  have hflush : (s.rgFlush i).gw.times = s.gw.times := by
    unfold State.rgFlush
    extract_lets s1
    exact (hwrite _ s1).trans (State.times_of_outside (by simp [s1]))
  exact hflush

theorem State.calEnd_times (r : CalRun) (stale : Bool) (reason gen : Nat) (s : State) : (s.calEnd r stale reason gen).gw.times = s.gw.times := by
  have hdrop : (s.calDrop r).gw.times = s.gw.times := by
    unfold State.calDrop
    extract_lets s1 s2 s3
    have h3 : s3.gw.times = s.gw.times := State.times_of_outside (by simp only [s3, s2, s1, ite_outside]; simp)
    rw [← h3]
    split
    · exact State.rgFree_times _ s3
    · rfl
  unfold State.calEnd
  extract_lets w s1 s2 s3 s4
  rw [← hdrop]
  exact State.times_of_outside (s := s.calDrop r) (by simp only [s4, s3, s2, s1, ite_outside]; simp)

theorem State.calStart_times (kind unit parts : Nat) (band : Bool) (s : State) : (s.calStart kind unit parts band).gw.times = s.gw.times := by
  unfold State.calStart
  extract_lets slot r s1 s2
  have h2 : s2.gw.times = s.gw.times := State.times_of_outside (by simp only [s2, s1]; cases slot <;> simp)
  rw [← h2]
  clear_value s2
  split
  · exact State.calEnd_times _ _ _ _ s2
  · exact State.times_of_outside (by simp)

theorem State.gwRan_times (i : Nat) (s : State) : (s.gwRan i).gw.times = s.gw.times := rfl

theorem State.dtcReassign_times (i : Nat) (v : Int) (s : State) : (s.dtcReassign i v).gw.times = s.gw.times := by
  unfold State.dtcReassign
  extract_lets c
  split
  · split
    · exact State.times_of_outside (s := s) (t := s.replanReq i 4 v) (by simp)
    · rfl
  · split
    · rfl
    · exact State.calStart_times 0 c 4 true s

theorem State.gwRun_times (i code : Nat) (v : Int) (s : State) : (s.gwRun i code v).gw.times = s.gw.times := by
  unfold State.gwRun
  split
  · rfl
  · split
    · rfl
    · exact State.dtcReassign_times i v s
    · rfl
    · rfl
    · rfl

theorem State.gwCheck_times (i : Nat) (s : State) : (s.gwCheck i).gw.times = s.gw.times := by
  have hsoon (th : Nat) (s : State) : (s.gwSoon i th).gw.times = s.gw.times := by
    unfold State.gwSoon
    extract_lets x d near was s1
    have h1 : s1.gw.times = s.gw.times := rfl
    rw [← h1]
    clear_value s1
    split
    · exact State.times_of_outside (by simp)
    · rfl
  have hact (v : Int) (s : State) : (s.gwAct i v).gw.times = s.gw.times := by
    unfold State.gwAct
    extract_lets code
    split
    · exact State.times_of_outside (s := s) (t := s.replanReq i code v) (by simp)
    · exact State.gwRun_times i code v s
  unfold State.gwCheck
  extract_lets x g b action s1 s2 s3 late s4
  split
  · rfl
  · have h1 : s1.gw.times = s.gw.times := rfl
    have h3 : s3.gw.times = s1.gw.times := State.times_of_outside (by simp only [s3, s2, ite_outside]; simp)
    have h4 : s4.gw.times = s3.gw.times := by
      simp only [s4]
      split
      · exact hact _ s3
      · rfl
    exact (hsoon 1 _).trans ((hsoon 0 s4).trans (h4.trans (h3.trans h1)))

theorem State.gwSample_secs (m : GwMeas) (p : List Nat) (i : Nat) (s : State) : (s.gwSample m p i).gw.secs = s.gw.secs := by
  unfold State.gwSample
  extract_lets x stale first
  split
  · rfl
  · rfl

theorem State.gwStore_secs (h : Option Hdr) (pay : List Nat) (s : State) : (s.gwStore h pay).gw.secs = s.gw.secs := by
  unfold State.gwStore
  extract_lets q k isAge
  split
  · next o _ =>
    have hr : (s.replyTo o.h 0x0703 (.fail .holdup)).gw = s.gw := State.gw_of_outside (by simp)
    have hs : (s.replyTo o.h 0x0703 (.fail .holdup)).gw.secs = s.gw.secs := congrArg GwS.secs hr
    exact hs
  · rfl

/-- A log notes the powered time at which it was taken, and the period in force. -/
theorem State.gwLog_times (h : Option Hdr) (m : GwMeas) (s : State) :
    (s.gwLog h m).gw.last = s.gw.secs ∧ (s.gwLog h m).gw.secs = s.gw.secs ∧ (s.gwLog h m).gw.per = s.pv P.gwLogPeriod := by
  have hlog : (s.gwLog h m).gw.times = (s.gw.secs, s.gw.secs, s.pv P.gwLogPeriod) := by
    unfold State.gwLog
    generalize upTo 556 = is
    extract_lets s1 s2 pay new s3 s4 s5 s6
    have h1 : s1.gw = s.gw := State.gw_of_outside (by simp [s1])
    have h2 : s2.gw.secs = s1.gw.secs := by
      simp only [s2]
      split
      · split <;> rfl
      · rfl
    have h3 : s3.gw.secs = s2.gw.secs :=
      (congrArg GwS.secs (State.gw_of_outside (State.loadTlock_outside pay (s2.gwStore h pay) (by simp)))).trans (State.gwStore_secs h pay s2)
    have h4 : s4.gw.secs = s3.gw.secs := by
      simp only [s4]
      split <;> rfl
    have h5 : s5.gw.secs = s4.gw.secs := forAll_reads (r := fun s => s.gw.secs) (fun i s => State.gwSample_secs m pay i s) _ s4
    have hpv : s5.pv P.gwLogPeriod = s.pv P.gwLogPeriod := by
      refine State.pv_of_outside _ ((forAll_outside _ _ s4 fun i t => State.gwSample_outside m pay i t (by simp)).trans ?_)
      simp only [s4, s3, s2, s1]
      split <;> split
      all_goals simp
      all_goals split <;> simp
    have hsecs : s5.gw.secs = s.gw.secs := h5.trans (h4.trans (h3.trans (h2.trans (congrArg GwS.secs h1))))
    refine (forAll_reads (r := fun s => s.gw.times) (fun i s => State.gwCheck_times i s) _ s6).trans ?_
    rw [← hsecs, ← hpv]
    rfl
  obtain ⟨h1, h2⟩ := Prod.mk.inj hlog
  obtain ⟨h2, h3⟩ := Prod.mk.inj h2
  exact ⟨h1, h2, h3⟩

/-! ## The slot of G6, and the action that waits -/

theorem State.rgConfig_holder (i : Nat) (mode src : Bool) (s : State) : ((s.rgConfig i mode src).rgSlot i).prio = (s.rgSlot i).prio ∧
    ((s.rgConfig i mode src).rgSlot i).internal = (s.rgSlot i).internal := by
  unfold State.rgConfig
  extract_lets s1 st g lim
  have h1 : (s1.rgSlot i).prio = (s.rgSlot i).prio ∧ (s1.rgSlot i).internal = (s.rgSlot i).internal := by
    simp only [s1]
    rw [State.modSlot_rgSlot]
    exact ⟨rfl, rfl⟩
  rw [← h1.1, ← h1.2]
  clear_value s1
  split
  · split
    all_goals
      rw [State.modSlot_rgSlot]
      exact ⟨rfl, rfl⟩
  · rw [State.modSlot_rgSlot]
    exact ⟨rfl, rfl⟩
  · rw [State.modSlot_rgSlot]
    exact ⟨rfl, rfl⟩

/-- The gauge takes the free slot with its highest number as a task of its own, fed by the reference. -/
theorem State.g6Sync_claims {i : Nat} {s : State} (hts : s.ts.st = .locked) (hs : s.gw.slot = none) (hi : s.rgClaimTop = some i) :
    s.g6Sync.gw.slot = some i ∧ (s.g6Sync.rgSlot i).prio = 2 ∧ (s.g6Sync.rgSlot i).internal = true ∧ s.g6Sync.pv (P.rgSrc + 8 * i) = 0x802 := by
  unfold State.g6Sync
  rw [if_pos hts, if_neg (by simp [hs]), hi]
  dsimp only
  have hg : ((s.rgGrant i 2 true).rgSlot i).prio = 2 ∧ ((s.rgGrant i 2 true).rgSlot i).internal = true := by
    rw [State.rgGrant, State.modSlot_rgSlot]
    exact ⟨rfl, rfl⟩
  generalize hv : s.pv P.refFreq = v
  generalize hs0 : ((((s.rgGrant i 2 true).modPar fun p => { p with dev := p.dev.put (P.rgMode + 8 * i) 2 }).modPar fun p =>
    { p with dev := p.dev.put (P.rgGate + 8 * i) secU }).modPar fun p => { p with dev := p.dev.put (P.rgFnom + 8 * i) v }) = s0
  have h0 : s0.rg = (s.rgGrant i 2 true).rg := by rw [← hs0]; rfl
  obtain ⟨h1, h2⟩ := State.rgConfig_holder i true true (s0.modPar fun p => { p with dev := p.dev.put (P.rgSrc + 8 * i) 0x802 })
  have hsl : (s0.modPar fun p => { p with dev := p.dev.put (P.rgSrc + 8 * i) 0x802 }).rgSlot i = (s.rgGrant i 2 true).rgSlot i :=
    by
    unfold State.rgSlot
    rw [← h0]
    rfl
  rw [hsl] at h1 h2
  refine ⟨rfl, h1.trans hg.1, h2.trans hg.2, ?_⟩
  refine (State.pv_of_outside (s := s0.modPar fun p => { p with dev := p.dev.put (P.rgSrc + 8 * i) 0x802 }) _ (by simp)).trans ?_
  rw [State.pv, State.modPar, ParS.dv, look_put_same]

/-- An action that runs leaves none waiting. -/
theorem State.gwRun_want {i : Nat} (code : Nat) (v : Int) {s : State} (h : (s.gwi i).want = 0) : ((s.gwRun i code v).gwi i).want = 0 := by
  have hmod (f : GwInst → GwInst) (t : State) : (t.modGwi i f).gwi i = f (t.gwi i) := State.modGwi_gwi i f t
  have hran (t : State) : ((t.gwRan i).gwi i).want = 0 := by rw [State.gwRan, hmod]
  have hagain : ((s.gwAgain i).gwi i).want = 0 := by rw [State.gwAgain, hmod]; exact h
  unfold State.gwRun
  split
  · exact hagain
  · split
    · exact hran _
    · unfold State.dtcReassign
      extract_lets c
      split
      · split
        · exact hran _
        · exact hagain
      · split
        · exact hagain
        · exact hran _
    · exact hran _
    · exact hran _
    · rw [hmod]
      exact h

/-- Settles O48: what a minute, a log and a warning move; the commands take the branch that their instance names. -/
theorem gaugesAndWear : Obligations.GaugesAndWear := by
  have hstream {h : Hdr} {cmd : Nat} {s : State} (g : Taken h cmd s) {bd : Fin 8} (hb : bd.val = 4 ∨ bd.val = 5) (hs : (s.door bd).stream = none) :
      (s.taken h).streamErr bd = none := State.streamErr_none hb (by rw [g.door_bulk hb]; exact hs)
  refine ⟨?_, ?_, ?_, ?_, ?_, ?_, ?_, ?_, ?_, ?_, ?_, ?_, ?_, ?_⟩
  · intro temp s hr hh
    refine ⟨_, if_neg (by simp [hr, hh]), rfl, rfl, rfl⟩
  · intro m s hr hh hd
    exact ⟨s.gwLog none m, if_neg (by simp [hr, hh, hd]), State.gwLog_times none m s⟩
  · intro m s hd
    exact if_pos (.inr (.inr hd))
  · intro h m s g
    refine ⟨_, rfl, ?_⟩
    rw [State.viaDoor_taken g]
    exact State.gwLog_times (some h) m (s.taken h)
  · intro i s hts hs hi
    exact ⟨_, rfl, State.g6Sync_claims hts hs hi⟩
  · intro s hts hs
    change Host.Outcome.next s.g6Sync = _
    rw [State.g6Sync, if_neg hts, hs]
  · intro k tune s hl hw ht
    have hexec : exec (.margin k tune) s = execMargin k tune s := rfl
    unfold execMargin at hexec
    extract_lets l s1 s2 at hexec
    rw [if_pos ⟨hl, by simp [l, hw], ht⟩] at hexec
    refine ⟨_, hexec, ?_⟩
    have h1 : (s1.oct k).loop = { (s.oct k).loop with tune := tune, warned := true, ev := (s.oct k).loop.ev.raise 10 } := by
      simp only [s1, State.mlEv, State.modLoop, State.modOct_oct]
    have h2 : s2.oct k = s1.oct k := State.oct_of_outside k (by simp [s2])
    have hrun : (s2.gwRun k 1 tune).oct k = s2.oct k := by
      unfold State.gwRun
      split <;> rfl
    have h3 : ((if s.pv P.gwAuto = 1 then s2.modGwi k fun x => { x with want := 1 } else s2.gwRun k 1 tune).oct k).loop = (s1.oct k).loop := by
      rw [← h2]
      split
      · rfl
      · rw [hrun]
    have e : s2.pv P.gwAuto = s.pv P.gwAuto := State.pv_of_outside _ (by simp [s2, s1])
    dsimp only
    rw [e, h3, h1]
    exact ⟨rfl, rfl, rfl⟩
  · intro k tune s hn
    exact if_neg fun ⟨hl, hw, _⟩ => hn.elim (fun h => h hl) fun h => by simp [h] at hw
  · intro h bd first n s g hb hs
    refine ⟨_, rfl, ?_⟩
    rw [State.viaDoor_taken g, State.opGwLogRead, hstream g hb hs]
    exact State.openOut_opened (g.bulk hb) _ _ _
  · intro h bd s g hb hs
    refine ⟨_, rfl, ?_⟩
    rw [State.viaDoor_taken g, State.opGwHealth, hstream g hb hs]
    dsimp only
    rw [List.filter_eq_self.2 fun _ _ => by simp]
    exact ⟨_, State.openOut_opened (g.bulk hb) _ _ _⟩
  · intro h g n i s hg hi
    refine ⟨_, rfl, ?_⟩
    rw [State.viaDoor_taken hg]
    unfold State.opGwRestart
    rw [hi]
    exact State.commit_queued _ _ _ _
  · intro h g n s hg hi
    change Host.Outcome.next _ = _
    rw [State.viaDoor_taken hg]
    unfold State.opGwRestart
    rw [hi]
  · intro h g n i s hg hi hw
    refine ⟨_, rfl, ?_⟩
    have hw' : ¬ ((s.taken h).gwi i).want = 0 := hw
    rw [State.viaDoor_taken hg]
    unfold State.opGwReplanRun
    rw [hi]
    dsimp only
    rw [if_neg hw']
    refine ⟨State.reply_answered _ _ _ _, State.gwRun_want _ _ ?_⟩
    rw [State.modGwi_gwi]
  · intro h g n i s hg hi hw
    have hw' : ((s.taken h).gwi i).want = 0 := hw
    change Host.Outcome.next _ = _
    rw [State.viaDoor_taken hg]
    unfold State.opGwReplanRun
    rw [hi]
    dsimp only
    rw [if_pos hw']

end Sys2Proof.Machine
end

section
/-!
PROOFS. Frames that meet a port with one lane each way and nothing to send (R660 to R688): what they read, write and leave for the next frame.
-/
namespace Sys2Proof.Machine
open Sys2Proof

/-! ## A frame whose header stands -/

/-- What the host port's writes set, which a frame's own bookkeeping leaves (R689, R743). -/
def HpS.settings (h : HpS) : W32 × Nat × Nat × Nat × Bool × Bool := (h.scratch, h.len, h.il, h.ol, h.idle, h.strict)

theorem HpS.note_settings (st tag op : Nat) (h : HpS) : (h.note st tag op).settings = h.settings := by
  unfold HpS.note
  split <;> rfl

/-- Payload bits of an operation, `len` those of a block (R672). -/
def framePin (op len : Nat) : Nat := if op = 1 then 32 else if op = 3 ∨ op = 6 ∨ op = 8 then len else 0

/-- Status of a frame that came whole: that of its write, else of its read (R687). -/
def frameStatus (w : Nat) (ue : Bool) : Nat := if w ≠ 0 then w else if ue then 6 else 0

theorem State.commitRead_none {s : State} (h : s.hp.fx = .none) : s.commitRead = s := by
  unfold State.commitRead
  rw [h]

theorem State.readReady_none {s : State} (ready : Bool) (h : s.hp.nOut = 0) : s.readReady ready = s := if_pos (.inl h)

/-- The port after a frame: the reply `st` with the count of input bits, the data read, and the settings of `w`. -/
structure HpS.Left (st count : Nat) (tag : BitVec 8) (n : Nat) (out : List Nat) (fx : HpFx) (w h : HpS) : Prop where
  reply : h.reply = BitVec.ofNat 32 (fld 24 8 st + fld 16 8 tag.toNat + min 0xFFFF count)
  nOut : h.nOut = n
  out : h.out = out.map (BitVec.ofNat 32 ·)
  fx : h.fx = fx
  settings : h.settings = w.settings

theorem HpS.Left.replied {st count n : Nat} {f : Frame} {out : List Nat} {fx : HpFx} {w : HpS} {t : State}
    (h : HpS.Left st count f.tag n out fx w t.hp) : Replied st f count n (out.map (BitVec.ofNat 32 ·)) t := ⟨h.reply, h.nOut, h.out⟩

theorem PlainFrame.ring {n : Nat} {f : Frame} {s : State} (g : PlainFrame n f s) : f.ring = false := by
  obtain ⟨-, -, -, -, -, -, h⟩ := g
  exact h

/-- A frame with header and payload whole: its read, then its write, and the reply of both. -/
theorem State.frame_plain {op : Nat} {f : Frame} {s : State} (g : PlainFrame (32 + framePin op s.hp.payload) f s)
    (hbad : frameBad op f s.hp.payload = false) {rd : HpRead} (hrd : s.frameRead op f s.hp.payload = rd) {w : Nat × State}
    (hw : (rd.st.modHp fun h => { h with low := true }).frameWrite op f (framePin op s.hp.payload) false = w)
    (hlow : w.2.hp.low = true) (hw4 : w.1 ≠ 4) :
    ∃ h, s.frame op f = (if rd.wait then ({ w.2 with hp := h } : State).ask .window else { w.2 with hp := h }) ∧
      HpS.Left (frameStatus w.1 rd.ue) (32 + framePin op s.hp.payload) f.tag (if op = 8 then framePin op s.hp.payload else rd.n)
        (if op = 8 then groupsOf (framePin op s.hp.payload) f.pay else rd.ws) rd.fx w.2.hp h := by
  obtain ⟨hheld, hil, hol, hn, hfx, hedges, hring⟩ := g
  generalize hpin : framePin op s.hp.payload = pin at *
  unfold State.frame
  rw [State.readReady_none f.ready hn]
  extract_lets e s1 h li lo olen count short whole len bad run pin' n cut rd' s2 s3 w' s4 isBad trunc flen past st tag opn loop sentBits s5 s6
  have he : e = 32 + pin := hedges
  have hli : li = 1 := congrArg laneN hil
  have hlo : lo = 1 := congrArg laneN hol
  have holen : olen = 32 := congrArg (32 + ·) hn
  have hcount : count = 32 + pin := by rw [show count = e * li from rfl, hli, he, Nat.mul_one]
  have hshort : short = false := by simp only [short, hcount]; exact decide_eq_false (by omega)
  have hwhole : whole = true := by simp only [whole, holen, hlo, he]; exact decide_eq_true (by omega)
  have hlen : len = s.hp.payload := rfl
  have hbad' : bad = false := hbad
  have hrun : run = true := by simp [run, hshort, hbad']
  have hpin' : pin' = pin := by rw [← hpin]; rfl
  have hnn : n = pin := by simp only [n, hpin', hcount]; omega
  have hcut : cut = false := by simp [cut, hnn, hpin']
  have hrd' : rd' = rd := by rw [← hrd]; simp only [rd', hrun, if_true]; rfl
  have h2 : s2 = rd.st := by
    have hfx2 : rd.st.hp.fx = .none := by rw [← hrd, State.frameRead_hp]; exact hfx
    simp only [s2, hwhole, if_true, hrd']
    exact State.commitRead_none hfx2
  have hw' : w' = w := by
    rw [← hw]
    simp only [w', hrun, if_true, hnn, hcut, s3, h2]
  have h4 : s4 = w.2 := congrArg Prod.snd hw'
  have hisBad : isBad = false := by simp [isBad, hbad', hw', hw4]
  have htrunc : trunc = false := by simp [trunc, hshort, hcut, hwhole]
  have hflen : flen = 32 + pin := by
    simp only [flen, hisBad, hpin', hli, hlo, holen, divUp]
    simp
  have hpast : past = 0 := by simp only [past, hshort, hflen, he]; simp
  have hst : st = frameStatus w.1 rd.ue := by simp [st, frameStatus, hisBad, hw', hrd', htrunc, hpast]
  have htag : tag = f.tag.toNat := by simp [tag, hshort]
  have hloop : loop = decide (op = 8) := by simp [loop, hrun]
  rw [if_neg (by simp [hheld]), if_neg (by omega), if_neg (by simp [h4, hlow]), if_neg (by simp [hisBad, htrunc])]
  refine ⟨s5.hp, ?_, ?_⟩
  · have h5 : s5 = { w.2 with hp := s5.hp } := by rw [← h4]; rfl
    rw [← h5]
    simp only [s6, hrd']
  · constructor
    · rw [← hst, ← htag, ← hcount]; rfl
    · rw [← hnn, ← hrd', show s5.hp.nOut = if loop then n else rd'.n from rfl, hloop]; simp
    · rw [← hnn, ← hrd', show s5.hp.out = (if loop then groupsOf n f.pay else rd'.ws).map (BitVec.ofNat 32 ·) from rfl, hloop]; simp
    · rw [← hrd']; rfl
    · rw [← h4]; exact HpS.note_settings st tag opn s4.hp

/-! ## A frame that delivers pending data (R676) -/

/-- A NOP that finds the data ready: their effect is committed where the frame has carried all of them, and only there. -/
theorem State.frame_delivers {f : Frame} {a : Nat} {s : State} (hheld : s.pwr.held = false) (hil : s.hp.il = 0) (hol : s.hp.ol = 0)
    (hn : s.hp.nOut = 32) (hw : s.hp.wait = false) (hfx : s.hp.fx = .ind a) (hr : f.ready = true) (hring : f.ring = false) (hd : f.door = 0)
    (all : Bool) (hedges : f.edges.toNat = if all then 64 else 63) :
    (s.frame 5 f).reg.addr = (if all then a else s.reg.addr) ∧ Replied (if all then 0 else 1) f (if all then 64 else 63) 0 [] (s.frame 5 f) ∧
      (s.frame 5 f).hp.sent = cutGroups (if all then 64 else 63) 64 (s.hp.reply :: s.hp.out) ∧
      (s.frame 5 f).hp.truncN = satAdd 8 (bit !all) s.hp.truncN := by
  have hready : s.readReady f.ready = s := if_pos (.inr ⟨hr, by simp [hw]⟩)
  have hbad : frameBad 5 f s.hp.payload = false := by simp [frameBad, hring, hd]
  generalize hc : (if all then 64 else 63) = c at *
  have hcge : 63 ≤ c ∧ c ≤ 64 := by rw [← hc]; split <;> omega
  unfold State.frame
  rw [hready]
  extract_lets e s1 h li lo olen count short whole len bad run pin n cut rd s2 s3 w s4 isBad trunc flen past st tag opn loop sentBits s5 s6
  have he : e = c := hedges
  have hli : li = 1 := congrArg laneN hil
  have hlo : lo = 1 := congrArg laneN hol
  have holen : olen = 64 := congrArg (32 + ·) hn
  have hcount : count = c := by rw [show count = e * li from rfl, hli, he, Nat.mul_one]
  have hshort : short = false := by simp only [short, hcount]; exact decide_eq_false (by omega)
  have hwhole : whole = all := by
    simp only [whole, holen, hlo, he, ← hc]
    cases all <;> rfl
  have hbad' : bad = false := hbad
  have hrun : run = true := by simp [run, hshort, hbad']
  have hcut : cut = false := by simp [cut, n, pin]
  have hrd : rd = ⟨0, [], .none, false, false, s⟩ := if_pos hrun
  have h2 : s2.reg.addr = (if all then a else s.reg.addr) ∧ s2.hp = s.hp := by
    simp only [s2, hwhole, hrd]
    cases all with
    | true => rw [if_pos rfl, State.commitRead, hfx]; exact ⟨rfl, rfl⟩
    | false => exact ⟨rfl, rfl⟩
  have hw' : w = (0, s3) := if_pos hrun
  have h4 : s4 = s3 := congrArg Prod.snd hw'
  have hisBad : isBad = false := by simp [isBad, hbad', hw']
  have htrunc : trunc = !all := by simp [trunc, hshort, hcut, hwhole]
  have hflen : flen = 64 := by simp [flen, hisBad, pin, hli, hlo, holen, divUp]
  have hpast : past = 0 := by simp only [past, hshort, hflen, he]; simp; omega
  have hst : st = if all then 0 else 1 := by
    simp only [st, hisBad, hw', hrd, htrunc, hpast]
    cases all <;> rfl
  have htag : tag = f.tag.toNat := by simp [tag, hshort]
  have hsent : sentBits = c := by simp only [sentBits, holen, hlo, he]; omega
  have hloop : loop = false := by simp [loop]
  have h6 : s6 = s5 := by simp [s6, hrd]
  have h5 : s5.reg = s2.reg ∧ s5.hp.truncN = satAdd 8 (bit !all) s.hp.truncN ∧ s5.hp.sent = cutGroups c 64 (s.hp.reply :: s.hp.out) ∧
      s5.hp.reply = BitVec.ofNat 32 (fld 24 8 (if all then 0 else 1) + fld 16 8 f.tag.toNat + min 0xFFFF c) ∧ s5.hp.nOut = 0 ∧ s5.hp.out = [] := by
    have hn0 : s4.hp.truncN = s.hp.truncN := by rw [h4, ← h2.2]; rfl
    refine ⟨by simp [s5, h4, s3], ?_, ?_, ?_, ?_, ?_⟩
    · rw [← hn0, show s5.hp.truncN = satAdd 8 (bit ((run && cut) || !whole)) s4.hp.truncN from rfl, hcut, hwhole, Bool.and_false, Bool.false_or]
    · rw [← hsent, ← holen]
      rfl
    · rw [← hst, ← htag, ← hcount]
      rfl
    · simp [s5, hloop, hrd]
    · simp [s5, hloop, hrd]
  obtain ⟨hreg, htr, hse, hre, hno, hout⟩ := h5
  have hlast : ∃ t, (if isBad ∨ trunc then s6.fault 5 0 4 else s6) = t ∧ t.reg = s5.reg ∧ t.hp = s5.hp := by
    rw [h6]
    split
    · exact ⟨_, rfl, State.reg_of_outside (by simp), State.fault_hp _ _ _ _⟩
    · exact ⟨_, rfl, rfl, rfl⟩
  obtain ⟨t, ht, hregt, hhpt⟩ := hlast
  rw [if_neg (by simp [hheld]), if_neg (by omega), if_neg (by simp [h4, s3]), ht, hregt, hreg, Replied, hhpt]
  exact ⟨h2.1, ⟨hre, hno, hout⟩, hse, htr⟩

/-! ## What reads give -/

/-- An operation that only reads: the data of its read, and what the read leaves. -/
theorem State.frame_reads {op : Nat} (hop : op = 2 ∨ op = 4 ∨ op = 5 ∨ op = 7) {f : Frame} {s : State} (g : PlainFrame 32 f s)
    (hbad : frameBad op f s.hp.payload = false) {rd : HpRead} (hrd : s.frameRead op f s.hp.payload = rd) :
    ∃ h, s.frame op f = (if rd.wait then ({ rd.st with hp := h } : State).ask .window else { rd.st with hp := h }) ∧
      HpS.Left (if rd.ue then 6 else 0) 32 f.tag rd.n rd.ws rd.fx rd.st.hp h := by
  have hpin : framePin op s.hp.payload = 0 := by
    unfold framePin
    rw [if_neg (by omega), if_neg (by omega)]
  have hwrite : (rd.st.modHp fun h => { h with low := true }).frameWrite op f 0 false = (0, rd.st.modHp fun h => { h with low := true }) := by
    obtain rfl | rfl | rfl | rfl := hop <;> rfl
  obtain ⟨h, he, hl⟩ := State.frame_plain (w := (0, rd.st.modHp fun h => { h with low := true })) (by rw [hpin]; exact g) hbad hrd
    (by rw [hpin]; exact hwrite) rfl (by simp)
  rw [hpin, if_neg (by omega), if_neg (by omega)] at hl
  exact ⟨h, he, hl.reply, hl.nOut, hl.out, hl.fx, hl.settings⟩

theorem HpRead.hold_reads (a : Nat) (r : HpRead) : (r.hold a).n = r.n ∧ (r.hold a).ws = r.ws ∧ (r.hold a).ue = r.ue ∧ (r.hold a).wait = r.wait ∧
    (r.hold a).st.reg.addr = a ∧ (r.st.reg.addr ≠ a → (r.hold a).fx = .ind r.st.reg.addr) := by
  unfold HpRead.hold
  split
  · next h => exact ⟨rfl, rfl, rfl, rfl, h, fun h' => absurd h h'⟩
  · exact ⟨rfl, rfl, rfl, rfl, rfl, fun _ => rfl⟩

/-- A read of IND_DATA moves IND_ADDR on (R714). -/
theorem State.indRead_addr (s : State) : s.indRead.2.2.reg.addr = s.reg.nextAddr := by
  have hfresh (a i : Nat) : (State.indRead.fresh s a i).2.2.reg.addr = s.reg.nextAddr := by
    unfold State.indRead.fresh
    extract_lets x s1 keep
    have h1 : s1.reg = s.reg := by
      simp only [s1]
      split
      · rfl
      · exact State.reg_of_outside (by simp)
    rw [← h1]
    rfl
  unfold State.indRead
  extract_lets a i
  split
  · split
    · rfl
    · exact hfresh a i
  · exact hfresh a i

/-- A read of any other register leaves IND_ADDR, and finds no word uncorrectable. -/
theorem State.regRead_quiet {m : Master} {a : Nat} {s : State} (h : a < 0x8000 → canon a ≠ 0x141) :
    (s.regRead m a).ue = false ∧ (s.regRead m a).st.reg.addr = s.reg.addr := by
  unfold State.regRead
  split
  · exact ⟨rfl, rfl⟩
  · next ha =>
    extract_lets c
    rw [if_neg (h (Nat.lt_of_not_le ha))]
    split
    · refine ⟨rfl, ?_⟩
      dsimp only
      unfold State.modRs
      repeat' split
      all_goals rfl
    · split
      · split <;> exact ⟨rfl, rfl⟩
      · exact ⟨rfl, rfl⟩

/-- An access of IND_DATA answers with its data, and keeps IND_ADDR until the next frame has carried them. -/
theorem State.frame_holds {op : Nat} (hop : op = 2 ∨ op = 7) {f : Frame} {s : State} (g : PlainFrame 32 f s)
    (hbad : frameBad op f s.hp.payload = false) {r : HpRead} (hrd : s.frameRead op f s.hp.payload = r.hold s.reg.addr) :
    Replied (if r.ue then 6 else 0) f 32 r.n (r.ws.map (BitVec.ofNat 32 ·)) (s.frame op f) ∧ (s.frame op f).reg.addr = s.reg.addr ∧
      (r.st.reg.addr ≠ s.reg.addr → (s.frame op f).hp.fx = .ind r.st.reg.addr) := by
  obtain ⟨hn, hws, hue, -, haddr, hfx⟩ := HpRead.hold_reads s.reg.addr r
  obtain ⟨h, he, hl⟩ := State.frame_reads (by omega) g hbad hrd
  have hhp : (s.frame op f).hp = h := by
    rw [he]
    split <;> rfl
  have hreg : (s.frame op f).reg = (r.hold s.reg.addr).st.reg := by
    rw [he]
    split <;> rfl
  rw [hreg, Replied, hhp, ← hn, ← hws, ← hue]
  exact ⟨⟨hl.reply, hl.nOut, hl.out⟩, haddr, fun hne => hl.fx.trans (hfx hne)⟩

/-- A read that keeps IND_ADDR and waits for no port reaches only what it reads. -/
theorem State.frame_reads_only {op : Nat} (hop : op = 2 ∨ op = 4 ∨ op = 5 ∨ op = 7) {f : Frame} {s : State} (g : PlainFrame 32 f s)
    (hbad : frameBad op f s.hp.payload = false) {rd : HpRead} (hrd : s.frameRead op f s.hp.payload = rd) (hwait : rd.wait = false) :
    Replied (if rd.ue then 6 else 0) f 32 rd.n (rd.ws.map (BitVec.ofNat 32 ·)) (s.frame op f) ∧ (s.frame op f).hp.fx = rd.fx ∧
      OnlyPort rd.st (s.frame op f) := by
  obtain ⟨h, he, hl⟩ := State.frame_reads hop g hbad hrd
  rw [hwait] at he
  rw [he]
  exact ⟨⟨hl.reply, hl.nOut, hl.out⟩, hl.fx, rfl⟩

/-- Settles O50: each read gives its data to the next frame; what moves on waits for the frame that has carried them. -/
theorem frameReads : Obligations.FrameReads := by
  refine ⟨?_, ?_, ?_, ?_, ?_, ?_, ?_, ?_⟩
  · intro f s g hd
    obtain ⟨hr, -, ho⟩ := State.frame_reads_only (op := 5) (by omega) g (by simp [frameBad, g.ring, hd]) rfl rfl
    exact ⟨s.frame 5 f, rfl, hr, ho⟩
  · intro f s g hd ha
    have hbad : frameBad 2 f s.hp.payload = false := by simp [frameBad, g.ring, hd]
    obtain ⟨hue, haddr⟩ := State.regRead_quiet (m := .host) ha
    have hrd : s.frameRead 2 f s.hp.payload =
        ⟨32, [(s.regRead .host f.addr.toNat).val], .none, false, false, (s.regRead .host f.addr.toNat).st⟩ := by
      have hdec : decide ((s.regRead .host f.addr.toNat).st.reg.addr ≠ s.reg.addr) = false := decide_eq_false fun h => h haddr
      unfold State.frameRead
      dsimp only
      rw [HpRead.hold, if_pos haddr, hue, hdec, Bool.and_false]
      rfl
    obtain ⟨hr, -, ho⟩ := State.frame_reads_only (op := 2) (by omega) g hbad hrd rfl
    exact ⟨s.frame 2 f, rfl, hr, ho⟩
  · intro f s g hd ha hc
    have hbad : frameBad 2 f s.hp.payload = false := by simp [frameBad, g.ring, hd]
    have hread : s.regRead .host f.addr.toNat = ⟨s.indRead.1, s.indRead.2.1, s.indRead.2.2⟩ := by
      rw [State.regRead, if_neg (Nat.not_le.2 ha)]
      dsimp only
      rw [if_pos hc]
    obtain ⟨hr, hk, hf⟩ := State.frame_holds (op := 2) (by omega) g hbad rfl
    rw [hread] at hr hf
    rw [← s.indRead_addr]
    exact ⟨s.frame 2 f, rfl, hr, hk, hf⟩
  · intro f s g hd hlen
    have hbad : frameBad 7 f s.hp.payload = false := by simp [frameBad, g.ring, hd, hlen]
    obtain ⟨hr, hk, hf⟩ := State.frame_holds (op := 7) (by omega) g hbad rfl
    exact ⟨s.frame 7 f, rfl, hr, hk, hf⟩
  · intro f s g h4 h5 hfit
    have h4' : f.door.val ≠ 4 := fun e => h4 (Fin.ext e)
    have h5' : f.door.val ≠ 5 := fun e => h5 (Fin.ext e)
    have hbad : frameBad 4 f s.hp.payload = false := by simp [frameBad, g.ring, h4', h5', hfit]
    have hrd : s.frameRead 4 f s.hp.payload =
        ⟨s.hp.payload, sliceWords (s.doorBits f.door) (32 * f.addr.toNat) s.hp.payload, .none, false, false, s⟩ :=
      if_neg fun h => h.elim h4' h5'
    obtain ⟨hr, -, ho⟩ := State.frame_reads_only (op := 4) (by omega) g hbad hrd rfl
    exact ⟨s.frame 4 f, rfl, hr, ho⟩
  · intro f st s g hd hs
    have hd' : f.door.val = 4 ∨ f.door.val = 5 := hd.imp (congrArg Fin.val) (congrArg Fin.val)
    have hbad : frameBad 4 f s.hp.payload = false := by
      obtain h | h := hd' <;> simp [frameBad, g.ring, h]
    have hrd : s.frameRead 4 f s.hp.payload =
        ⟨s.hp.payload, sliceWords (s.doorBits f.door) st.pos s.hp.payload, .bulk f.door (min 2048 (st.pos + s.hp.payload)), false, false, s⟩ := by
      unfold State.frameRead
      dsimp only
      rw [if_pos hd', hs]
      rfl
    obtain ⟨hr, hf, ho⟩ := State.frame_reads_only (op := 4) (by omega) g hbad hrd rfl
    exact ⟨s.frame 4 f, rfl, hr, hf, ho⟩
  · intro f s g hd
    have hpin : framePin 8 s.hp.payload = s.hp.payload := rfl
    obtain ⟨h, he, hl⟩ := State.frame_plain (op := 8) (s := s) (f := f) g (by simp [frameBad, g.ring, hd]) rfl rfl rfl (by simp [State.frameWrite])
    refine ⟨s.frame 8 f, rfl, ?_⟩
    rw [he]
    exact ⟨⟨hl.reply, hl.nOut, hl.out⟩, rfl⟩
  · intro f a s hheld _ hil hol hn hw hfx hr hring hd
    refine ⟨fun he => ?_, fun he => ?_⟩
    · obtain ⟨h1, h2, h3, -⟩ := State.frame_delivers hheld hil hol hn hw hfx hr hring hd true (by rw [he]; rfl)
      exact ⟨s.frame 5 f, rfl, h1, h2, h3⟩
    · obtain ⟨h1, h2, -, h4⟩ := State.frame_delivers hheld hil hol hn hw hfx hr hring hd false (by rw [he]; rfl)
      exact ⟨s.frame 5 f, rfl, h1, h2, h4⟩

end Sys2Proof.Machine
end

section
/-!
PROOFS. What frames write (R669, R671, R673 to R688), and what a frame answered BADOP leaves.
-/
namespace Sys2Proof.Machine
open Sys2Proof

/-! ## The write of a frame -/

/-- The state in which a frame's write runs: the frame is in progress. -/
def State.inFrame (s : State) : State := s.modHp fun h => { h with low := true }

/-- An operation that only writes: the status of its write, and what the write leaves. -/
theorem State.frame_writes {op : Nat} (hop : op = 1 ∨ op = 3 ∨ op = 6) {f : Frame} {s : State} {pin : Nat} (hpin : framePin op s.hp.payload = pin)
    (g : PlainFrame (32 + pin) f s) (hbad : frameBad op f s.hp.payload = false) {w : Nat × State} (hw : s.inFrame.frameWrite op f pin false = w)
    (hlow : w.2.hp.low = true) (hw4 : w.1 ≠ 4) :
    Replied w.1 f (32 + pin) 0 [] (s.frame op f) ∧ OnlyPort w.2 (s.frame op f) ∧ (s.frame op f).hp.settings = w.2.hp.settings := by
  have hrd : s.frameRead op f s.hp.payload = ⟨0, [], .none, false, false, s⟩ := by obtain rfl | rfl | rfl := hop <;> rfl
  obtain ⟨h, he, hl⟩ := State.frame_plain (w := w) (by rw [hpin]; exact g) hbad hrd (by rw [hpin]; exact hw) hlow hw4
  rw [hpin, if_neg (by omega), if_neg (by omega)] at hl
  have hst : frameStatus w.1 false = w.1 := by
    unfold frameStatus
    split
    · rfl
    · next h => exact (Decidable.of_not_not h).symm
  rw [hst] at hl
  rw [he]
  exact ⟨⟨hl.reply, hl.nOut, hl.out⟩, rfl, hl.settings⟩

/-- A write that leaves the port alone is the same in a frame. -/
theorem State.frame_writes_only {op : Nat} (hop : op = 1 ∨ op = 3 ∨ op = 6) {f : Frame} {s : State} {pin : Nat}
    (hpin : framePin op s.hp.payload = pin) (g : PlainFrame (32 + pin) f s) (hbad : frameBad op f s.hp.payload = false) {n : Nat} {u : State} {h : HpS}
    (hw : s.inFrame.frameWrite op f pin false = (n, { u with hp := h })) (hlow : h.low = true) (hn : n ≠ 4) :
    Replied n f (32 + pin) 0 [] (s.frame op f) ∧ OnlyPort u (s.frame op f) := by
  obtain ⟨hr, ho, -⟩ := State.frame_writes hop hpin g hbad hw hlow hn
  exact ⟨hr, ho⟩

/-- A payload of one word is that word. -/
theorem groupsOf_one {f : Frame} {w : W32} (h : f.pay = [w]) : (groupsOf 32 f.pay).headD 0 = w.toNat := by
  rw [h]
  change w.toNat / 2 ^ 0 = w.toNat
  simp

theorem State.frameWrite_reg {f : Frame} {w : W32} (h : f.pay = [w]) (s : State) :
    s.frameWrite 1 f 32 false = ((s.regWrite .host f.addr.toNat w.toNat f.me).1.code, (s.regWrite .host f.addr.toNat w.toNat f.me).2) := by
  have e : (groupsOf 32 f.pay).headD 0 = w.toNat := groupsOf_one h
  unfold State.frameWrite
  dsimp only
  rw [e]
  rfl

theorem WrSt.code_ne_badop {r : WrSt} (h : r ≠ .badop) : r.code ≠ 4 := by
  cases r with
  | badop => exact absurd rfl h
  | _ => decide

/-- A write of a door that is free, and of door 7 with the key, reaches it (R674, R688). -/
theorem State.frameWrite_bulk {f : Frame} {n : Nat} {s : State} (hring : f.ring = false) (h7 : f.door = 7 → s.reg.armed = true)
    (hbusy : (s.door f.door).st ≠ .busy) : s.frameWrite 3 f n false =
      (0, (if f.door = 7 then s.disarm else s).bulkWrite f.door f.addr.toNat n (groupsOf n f.pay)) := by
  have h7' : ¬ (f.door.val = 7 ∧ (!s.reg.armed) = true) := fun ⟨h, ha⟩ => by
    rw [h7 (Fin.ext h)] at ha
    cases ha
  have hd : (f.door.val = 7) = (f.door = 7) := propext ⟨fun h => Fin.ext h, congrArg Fin.val⟩
  refine (if_neg h7').trans ((if_neg hbusy).trans ((if_neg (by simp)).trans ?_))
  dsimp only
  rw [if_neg (by simp [hring])]
  simp only [hd]

/-- An indirect write reads nothing of the port. -/
theorem State.indWrites_port (l : List Nat) (h : HpS) (s : State) :
    forAll l (fun w s => s.indWrite w) { s with hp := h } = { forAll l (fun w s => s.indWrite w) s with hp := h } := by
  induction l generalizing s with
  | nil => rfl
  | cons w l ih => exact ih (s.indWrite w)

/-! ## A frame answered BADOP -/

/-- A fault is noted with the present time. -/
theorem State.fault_noted (kind unit code : Nat) (s : State) : (kind, unit, code, s.now) ∈ (s.fault kind unit code).flt := by
  unfold State.fault
  extract_lets t l n
  have hflt : (({ s with flt := l ++ [(kind, unit, code, t)] } : State).faultEvent kind unit code n).flt = l ++ [(kind, unit, code, t)] :=
    State.flt_of_outside (s := { s with flt := l ++ [(kind, unit, code, t)] }) (by simp)
  rw [hflt]
  exact List.mem_append_right _ (List.mem_singleton_self _)

/-- A frame whose header is bad reads and writes nothing, and its fault is noted (R665, R687). -/
theorem State.frame_bad {op : Nat} {f : Frame} {s : State} (g : PlainFrame 32 f s) (hbad : frameBad op f s.hp.payload = true) :
    Replied 4 f 32 0 [] (s.frame op f) ∧ (s.frame op f).hp.badopN = satAdd 8 1 s.hp.badopN ∧ (5, 0, 4, s.now) ∈ (s.frame op f).flt ∧
      Only [.hp, .flt, .mbox] s (s.frame op f) := by
  obtain ⟨hheld, hil, hol, hn, hfx, hedges, hring⟩ := g
  unfold State.frame
  rw [State.readReady_none f.ready hn]
  extract_lets e s1 h li lo olen count short whole len bad run pin n cut rd s2 s3 w s4 isBad trunc flen past st tag opn loop sentBits s5 s6
  have he : e = 32 := hedges
  have hli : li = 1 := congrArg laneN hil
  have hlo : lo = 1 := congrArg laneN hol
  have holen : olen = 32 := congrArg (32 + ·) hn
  have hcount : count = 32 := by rw [show count = e * li from rfl, hli, he]
  have hshort : short = false := by simp only [short, hcount]; rfl
  have hwhole : whole = true := by simp only [whole, holen, hlo, he]; rfl
  have hbad' : bad = true := hbad
  have hrun : run = false := by simp [run, hbad']
  have hrd : rd = ⟨0, [], .none, false, false, s⟩ := if_neg (by simp [hrun])
  have h2 : s2 = s := by
    simp only [s2, hwhole, hrd, if_true]
    exact State.commitRead_none hfx
  have hw : w = (0, s3) := if_neg (by simp [hrun])
  have h4 : s4 = s.inFrame := (congrArg Prod.snd hw).trans (congrArg State.inFrame h2)
  have hisBad : isBad = true := by simp [isBad, hbad', hshort]
  have hst : st = 4 := if_pos hisBad
  have htag : tag = f.tag.toNat := by simp [tag, hshort]
  have hloop : loop = false := by simp [loop, hrun]
  have h6 : s6 = s5 := by simp [s6, hrd]
  have h5 : ∃ x, s5 = { s with hp := x } ∧ x.badopN = satAdd 8 1 s.hp.badopN ∧
      x.reply = BitVec.ofNat 32 (fld 24 8 4 + fld 16 8 f.tag.toNat + min 0xFFFF 32) ∧ x.nOut = 0 ∧ x.out = [] := by
    refine ⟨s5.hp, ?_, ?_, ?_, ?_, ?_⟩
    · rw [show s5 = { s4 with hp := s5.hp } from rfl, h4]
      rfl
    · rw [show s5.hp.badopN = satAdd 8 (bit isBad) s4.hp.badopN from rfl, hisBad, h4]
      rfl
    · have hr : s5.hp.reply = BitVec.ofNat 32 (fld 24 8 st + fld 16 8 tag + min 0xFFFF count) := rfl
      rw [hr, hst, htag, hcount]
    · simp [s5, hloop, hrd]
    · simp [s5, hloop, hrd]
  obtain ⟨x, h5, hx1, hx2, hx3, hx4⟩ := h5
  rw [if_neg (by simp [hheld]), if_neg (by omega), if_neg (by simp [h4, State.inFrame]), if_pos (.inl hisBad), h6, h5, Replied, State.fault_hp]
  refine ⟨⟨hx2, hx3, hx4⟩, hx1, ?_, ?_⟩
  · exact State.fault_noted 5 0 4 { s with hp := x }
  · exact (State.fault_outside 5 0 4 { s with hp := x } (by simp) (by simp)).trans (by simp [State.outside])

/-- Settles O51: each write leaves what its register or door takes; a frame that is discarded leaves its reply and its fault. -/
theorem frameWrites : Obligations.FrameWrites := by
  have hbulk {f : Frame} {s : State} (hring : f.ring = false) (h6 : f.door ≠ 6) (hfit : (f.door = 4 ∨ f.door = 5) ∨ 32 * f.addr.toNat + s.hp.payload ≤ 2048) :
      frameBad 3 f s.hp.payload = false := by
    have h6' : f.door.val ≠ 6 := fun e => h6 (Fin.ext e)
    obtain (h | h) | h := hfit
    · have hv : f.door.val = 4 := congrArg Fin.val h
      simp [frameBad, hring, hv]
    · have hv : f.door.val = 5 := congrArg Fin.val h
      simp [frameBad, hring, hv]
    · simp [frameBad, hring, h6', h]
  have hlt {f : Frame} (h : f.door.val < 4) : f.door ≠ 7 ∧ f.door ≠ 6 ∧ ¬ (f.door.val = 4 ∨ f.door.val = 5) :=
    ⟨fun e => by rw [e] at h; exact absurd h (by decide), fun e => by rw [e] at h; exact absurd h (by decide), by omega⟩
  refine ⟨?_, ?_, ?_, ?_, ?_, ?_, ?_, ?_, ?_, ?_, ?_⟩
  · intro f w s g hd hp r hlow hne
    obtain ⟨hr, ho, hset⟩ := State.frame_writes (op := 1) (pin := 32) (by omega) rfl g (by simp [frameBad, g.ring, hd])
      (State.frameWrite_reg hp s.inFrame) hlow (WrSt.code_ne_badop hne)
    simp only [HpS.settings, Prod.mk.injEq] at hset
    exact ⟨s.frame 1 f, rfl, hr, ho, hset⟩
  · intro f w s g hd hp ha hc
    have hwr : s.inFrame.regWrite .host f.addr.toNat w.toNat f.me = (.ok, s.inFrame.modHp fun h => { h with scratch := w }) := by
      rw [State.regWrite, if_neg (Nat.not_le.2 ha), hc, if_neg (by decide)]
      change (WrSt.ok, s.inFrame.modHp fun h => { h with scratch := BitVec.ofNat 32 w.toNat }) = _
      rw [BitVec.ofNat_toNat, BitVec.setWidth_eq]
    have hw : s.inFrame.frameWrite 1 f 32 false = (0, s.inFrame.modHp fun h => { h with scratch := w }) := by
      rw [State.frameWrite_reg hp, hwr]
      rfl
    obtain ⟨hr, ho, hset⟩ := State.frame_writes (op := 1) (pin := 32) (by omega) rfl g (by simp [frameBad, g.ring, hd]) hw rfl (Nat.zero_ne_add_one 3)
    simp only [HpS.settings, Prod.mk.injEq] at hset
    exact ⟨s.frame 1 f, rfl, hr, ho, hset.1⟩
  · intro f w s g hd hp ha hg harm
    have hwr : s.inFrame.regWrite .host f.addr.toNat w.toNat f.me = (.locked, s.inFrame) := by
      rw [State.regWrite_guarded .host (Nat.not_le.2 ha) hg]
      exact State.guarded_host_unarmed _ harm
    have hw : s.inFrame.frameWrite 1 f 32 false = (3, s.inFrame) := by
      rw [State.frameWrite_reg hp, hwr]
      rfl
    obtain ⟨hr, ho⟩ := State.frame_writes_only (op := 1) (pin := 32) (u := s) (by omega) rfl g (by simp [frameBad, g.ring, hd]) hw rfl (by decide)
    exact ⟨s.frame 1 f, rfl, hr, ho⟩
  · intro f s g hd hbusy hfit
    obtain ⟨h7, h6, h45⟩ := hlt hd
    have hw := State.frameWrite_bulk (n := s.hp.payload) (s := s.inFrame) g.ring (fun e => absurd e h7) hbusy
    rw [if_neg h7, State.bulkWrite, if_neg h45] at hw
    obtain ⟨hr, ho⟩ := State.frame_writes_only (op := 3) (u := s.modDoor f.door (·.putWords f.addr.toNat (groupsOf s.hp.payload f.pay))) (by omega) rfl g
      (hbulk g.ring h6 (.inr hfit)) hw rfl (by decide)
    exact ⟨s.frame 3 f, rfl, hr, ho⟩
  · intro f s g hd harm hbusy hfit
    have hw := State.frameWrite_bulk (n := s.hp.payload) (s := s.inFrame) g.ring (fun _ => harm) (by rw [hd]; exact hbusy)
    rw [if_pos hd, State.bulkWrite, if_neg (by rw [hd]; decide), hd] at hw
    obtain ⟨hr, ho⟩ := State.frame_writes_only (op := 3) (u := (s.modReg fun r => { r with armed := false }).modDoor 7
      (·.putWords f.addr.toNat (groupsOf s.hp.payload f.pay))) (by omega) rfl g (hbulk g.ring (by rw [hd]; decide) (.inr hfit)) hw rfl (by decide)
    exact ⟨s.frame 3 f, rfl, hr, ho⟩
  · intro f s g hd harm hfit
    have hw : s.inFrame.frameWrite 3 f s.hp.payload false = (3, s.inFrame) :=
      if_pos ⟨congrArg Fin.val hd, by rw [show s.inFrame.reg.armed = s.reg.armed from rfl, harm]; rfl⟩
    obtain ⟨hr, ho⟩ := State.frame_writes_only (op := 3) (u := s) (by omega) rfl g (hbulk g.ring (by rw [hd]; decide) (.inr hfit)) hw rfl (by decide)
    exact ⟨s.frame 3 f, rfl, hr, ho⟩
  · intro f s g hd hbusy hfit
    obtain ⟨h7, h6, -⟩ := hlt hd
    have hw : s.inFrame.frameWrite 3 f s.hp.payload false = (8, s.inFrame) :=
      (if_neg fun h => h7 (Fin.ext h.1)).trans (if_pos hbusy)
    obtain ⟨hr, ho⟩ := State.frame_writes_only (op := 3) (u := s) (by omega) rfl g (hbulk g.ring h6 (.inr hfit)) hw rfl (by decide)
    exact ⟨s.frame 3 f, rfl, hr, ho⟩
  · intro f st s g hd hreply hst hin
    have h7 : f.door ≠ 7 := by obtain h | h := hd <;> rw [h] <;> decide
    have h6 : f.door ≠ 6 := by obtain h | h := hd <;> rw [h] <;> decide
    have hd' : f.door.val = 4 ∨ f.door.val = 5 := hd.imp (congrArg Fin.val) (congrArg Fin.val)
    have hst' : (s.inFrame.door f.door).stream = some st := hst
    have hw := State.frameWrite_bulk (n := s.hp.payload) (s := s.inFrame) g.ring (fun e => absurd e h7)
      (by rw [show (s.inFrame.door f.door).st = (s.door f.door).st from rfl, hreply]; decide)
    rw [if_neg h7, State.bulkWrite, if_pos hd', hst'] at hw
    dsimp only at hw
    rw [if_pos ⟨hin, hreply⟩] at hw
    obtain ⟨hr, ho⟩ := State.frame_writes_only (op := 3) (u := s.modDoor f.door fun x =>
      { (x.putStream st.pos s.hp.payload (groupsOf s.hp.payload f.pay)) with stream := some { st with pos := min 2048 (st.pos + s.hp.payload) } })
      (by omega) rfl g (hbulk g.ring h6 (.inl hd)) hw rfl (by decide)
    exact ⟨s.frame 3 f, rfl, hr, ho⟩
  · intro f s g hd hlen
    have hw : s.inFrame.frameWrite 6 f s.hp.payload false =
        (0, { forAll (groupsOf s.hp.payload f.pay) (fun w s => s.indWrite w) s with hp := s.inFrame.hp }) := by
      rw [← State.indWrites_port]
      rfl
    obtain ⟨hr, ho⟩ := State.frame_writes_only (op := 6) (by omega) rfl g (by simp [frameBad, g.ring, hd, hlen]) hw rfl (by decide)
    exact ⟨s.frame 6 f, rfl, hr, ho⟩
  · intro op f s g hop
    have hne : ¬ (1 ≤ op.toNat ∧ op.toNat ≤ 8) := by
      obtain rfl | h := hop
      · decide
      · omega
    have hbad : frameBad op.toNat f s.hp.payload = true := by
      obtain rfl | h := hop
      · rfl
      · simp [frameBad, h]
    refine ⟨s.frame op.toNat f, ?_, State.frame_bad g hbad⟩
    exact if_neg hne
  · intro f s g hd
    have hv : f.door.val = 6 := congrArg Fin.val hd
    obtain ⟨h1, h2, -, h4⟩ := State.frame_bad (op := 3) g (by simp [frameBad, hv])
    exact ⟨s.frame 3 f, rfl, h1, h2, h4⟩

end Sys2Proof.Machine
end

section
/-!
PROOFS. Register classes (R690, R699 to R710, R727 to R729, R741, R754 to R758) and indirect access (R713 to R720, R762).
-/
namespace Sys2Proof.Machine
open Sys2Proof

theorem getD_upTo_map {α : Type} {n i : Nat} (hi : i < n) (f : Nat → α) (d : α) : ((upTo n).map f).getD i d = f i := by
  rw [List.getD_eq_getElem?_getD, List.getElem?_map, upTo, List.getElem?_range hi]
  rfl

/-! ## Register classes -/

theorem State.regWrite_direct (m : Master) {a : BitVec 15} (h : isGuarded (canon a.toNat) = false) (w : Nat) (me : Meas) (s : State) :
    s.regWrite m a.toNat w me = s.putReg m (canon a.toNat) w me := by
  rw [State.regWrite, if_neg (direct_not_bitAddr a), if_neg (by simp [h])]

/-- The counts of a loop take the written value (R701). -/
theorem State.setRc_loop (k : OctIx) (w : Nat) (s : State) : s.setRc (0x203 + 32 * k.val) w =
    s.modLoop k fun l => { l with lossN := bits w 0 16, forcedN := bits w 16 8, excurN := bits w 24 8 } := by
  have hk := k.isLt
  have h32 : (0x203 + 32 * k.val) % 32 = 3 := by omega
  have hoct : (0x203 + 32 * k.val) / 32 - 16 = k.val := by omega
  unfold State.setRc
  rw [if_neg (by omega), if_pos (by omega)]
  dsimp only
  rw [h32, hoct]
  rfl

theorem isRc_loop (k : OctIx) : isRc (0x203 + 32 * k.val) = true := by
  have hk := k.isLt
  simp only [isRc, Bool.or_eq_true, Bool.and_eq_true, decide_eq_true_eq]
  omega

/-- A write of HP_LANES that has none before it. -/
theorem State.lanesWrite_first {w : Nat} {s : State} (hl : s.hp.lanesW = false) (hi : bits w 0 2 ≠ 3) (ho : bits w 2 2 ≠ 3) :
    s.lanesWrite w = (.ok, s.modHp fun h => { h with il := bits w 0 2, ol := bits w 2 2, lanesW := true }) := by
  rw [State.lanesWrite, if_neg (by simp [hl]), if_neg (by omega)]

theorem State.putReg_lanes (m : Master) (w : Nat) (me : Meas) (s : State) : s.putReg m 0x044 w me = s.lanesWrite w := rfl

/-- A bit write of the scratch register changes its bit alone (R699). -/
theorem State.bitWrite_scratch (m : Master) (b : Fin 32) (d : Bool) (me : Meas) (s : State) :
    (s.bitWrite m 0x046 b d me).2 = s.modHp fun h => { h with scratch := BitVec.ofNat 32 (setBit s.hp.scratch.toNat b d) } := by
  have hmask : rwMask 0x046 = 2 ^ 32 - 1 := rfl
  have hb : ¬ (!(rwMask 0x046).testBit b) = true := by
    rw [hmask, Nat.testBit_two_pow_sub_one]
    simp
  unfold State.bitWrite
  rw [if_neg (by simp), if_neg (by simp), if_neg (by simp), if_neg hb, if_neg (by simp)]
  rfl

theorem setBit_bits (x : W32) (b : Fin 32) (d : Bool) {j : Nat} (hj : j < 32) :
    (BitVec.ofNat 32 (setBit x.toNat b d)).getLsbD j = if j = b.val then d else x.getLsbD j := by
  rw [BitVec.getLsbD_ofNat, decide_eq_true hj, Bool.true_and]
  split
  · next h => rw [h, testBit_setBit]
  · next h => rw [testBit_setBit_ne _ _ h]; rfl

/-! ## Words of several registers -/

/-- The low word of a latch, read by the host, and the word that the host then reads above it (R707). -/
theorem State.regRead_latch {a : BitVec 15} {l : Fin 32} (ha : canon a.toNat = 0x180 + 4 * l.val) (i : Fin 3) (s : State) :
    ∃ f, (multiOf (canon a.toNat)).any (·.1 = canon a.toNat) = true ∧ (s.regRead .host a.toNat).st = s.modReg f ∧
      ((s.modReg f).regRead .host (0x181 + 4 * l.val + i.val)).val = s.shown (0x181 + 4 * l.val + i.val) := by
  have hl := l.isLt
  have hi := i.isLt
  have hmulti {c : Nat} (h1 : 0x180 ≤ c) (h2 : c < 0x200) : multiOf c = some (c / 4 * 4, 4) := by
    unfold multiOf
    rw [if_neg (by omega), if_neg (by omega), if_neg (by omega), if_neg (by omega), if_pos ⟨h1, h2⟩]
  have hcanon {c : Nat} (h1 : 0x180 ≤ c) (h2 : c < 0x200) : canon c = c := by
    have hm : c % 1024 = c := by omega
    unfold canon
    rw [hm]
    dsimp only
    rw [if_neg (by omega), if_neg (by omega), if_neg (by omega), if_neg (by omega), if_neg (by omega), if_neg (by omega), if_pos h2]
  have hrs {c : Nat} (h1 : 0x180 ≤ c) (h2 : c < 0x200) : ¬ isRs c = true := by
    rw [isRs_iff]
    omega
  have hbase : (0x180 + 4 * l.val) / 4 * 4 = 0x180 + 4 * l.val := by omega
  have hbase' : (0x181 + 4 * l.val + i.val) / 4 * 4 = 0x180 + 4 * l.val := by omega
  refine ⟨fun r => { r with rdSh := r.rdSh.put (0x180 + 4 * l.val) ((upTo 3).map fun i => s.shown (0x180 + 4 * l.val + 1 + i)) }, ?_, ?_, ?_⟩
  · rw [ha, hmulti (by omega) (by omega), hbase]
    simp
  · unfold State.regRead
    rw [if_neg (direct_not_bitAddr a)]
    dsimp only
    rw [ha, if_neg (by omega), if_neg (hrs (by omega) (by omega)), hmulti (by omega) (by omega)]
    dsimp only
    rw [hbase, if_pos rfl]
    rfl
  · unfold State.regRead
    rw [if_neg (by omega)]
    dsimp only
    rw [hcanon (by omega) (by omega), if_neg (by omega), if_neg (hrs (by omega) (by omega)), hmulti (by omega) (by omega)]
    dsimp only
    rw [hbase', if_neg (by omega)]
    dsimp only [shadowKey]
    rw [if_neg (by simp), State.modReg, Tab.get_put_same]
    have hidx : 0x181 + 4 * l.val + i.val - (0x180 + 4 * l.val) - 1 = i.val := by omega
    have hsum : 0x180 + 4 * l.val + 1 + i.val = 0x181 + 4 * l.val + i.val := by omega
    rw [hidx, getD_upTo_map hi, hsum]

/-- A write of a word of NODE_SERIAL below its last waits in the host's write shadow (R709). -/
theorem State.putReg_serial (i : Fin 3) (w : Nat) (me : Meas) (s : State) : (s.putReg .host (0x104 + i.val) w me).2 =
    s.modReg fun r => { r with wrSh := r.wrSh.put 0x104 (Tab.put i.val w (r.wrSh.get [] 0x104)) } := by
  have hi := i.isLt
  have hrs : isRs (0x104 + i.val) = false := by revert i; decide
  have hrc : isRc (0x104 + i.val) = false := by revert i; decide
  have hmulti : multiOf (0x104 + i.val) = some (0x104, 4) := by revert i; decide
  have hsub : 0x104 + i.val - 0x104 = i.val := by omega
  unfold State.putReg
  rw [if_neg (by simp [hrs]), if_neg (by simp [hrc]), if_neg (by omega), if_neg (by omega), hmulti]
  dsimp only
  rw [if_pos (by omega), hsub]
  rfl

/-! ## The snapshot and the copied records -/

theorem dtfOf_lt (t : Nat) : dtfOf t < 2 ^ 96 := by
  unfold dtfOf
  omega

/-- A record carries its time above its source, flags and number (R297). -/
theorem Rec.word_parts (r : Rec) : r.word.toNat / 2 ^ 32 = dtfOf r.t ∧ r.word.toNat % 4096 = r.seq % 4096 := by
  have ht := dtfOf_lt r.t
  have hn : r.word.toNat = dtfOf r.t * 2 ^ 32 + fld 20 12 r.src + fld 12 8 r.fl.word + fld 0 12 r.seq := by
    rw [Rec.word, BitVec.toNat_ofNat]
    refine Nat.mod_eq_of_lt ?_
    unfold fld
    omega
  rw [hn]
  unfold fld
  omega

theorem State.setLatch_latchOf (l : Nat) (w : W128) (s : State) : (s.setLatch l w).latchOf l = w := Tab.get_put_same _ s.latch l w

theorem State.setLatch_latchOf_ne {l i : Nat} (h : i ≠ l) (w : W128) (s : State) : (s.setLatch l w).latchOf i = s.latchOf i :=
  Tab.get_put_ne _ s.latch h w

/-- Every latch of a list holds the record that was copied to it. -/
theorem State.setLatches_latchOf {ls : List Nat} {i : Nat} (hi : i ∈ ls) (w : W128) (s : State) :
    (forAll ls (fun l s => s.setLatch l w) s).latchOf i = w := by
  refine forAll_establishes (Q := fun l t => t.latchOf l = w) (fun l s => s.setLatch_latchOf l w) (fun l b s h => ?_) hi s
  by_cases e : l = b
  · rw [e]
    exact s.setLatch_latchOf b w
  · exact (State.setLatch_latchOf_ne e w s).trans h

/-! ## Indirect access -/

/-- A read of part 0 of a mapped word that is present latches it (R715). -/
theorem State.indRead_latches {s : State} (h0 : s.reg.addr % 4 = 0) (hm : indMapped s.reg.addr = true)
    (hr : s.reg.addr < 0x200000 ∨ 0x300000 ≤ s.reg.addr) (ha : (s.indWord s.reg.addr).absent = false) :
    s.indRead.2.2.reg.rdLatch = some (s.reg.addr, (s.indWord s.reg.addr).data % 2 ^ 128, (s.indWord s.reg.addr).ue) := by
  have hkeep : (s.reg.addr % 4 = 0 && !(s.indWord s.reg.addr).absent && indMapped s.reg.addr &&
      !(decide (0x200000 ≤ s.reg.addr) && decide (s.reg.addr < 0x300000))) = true := by
    simp [h0, ha, hm]
    omega
  have hfresh : (State.indRead.fresh s s.reg.addr (s.reg.addr % 4)).2.2.reg.rdLatch =
      some (s.reg.addr, (s.indWord s.reg.addr).data % 2 ^ 128, (s.indWord s.reg.addr).ue) := if_pos hkeep
  unfold State.indRead
  extract_lets a i
  split
  · rw [if_neg fun h => h.1 h0]
    exact hfresh
  · exact hfresh

/-- A read of part 0 of an absent word says so, and counts (R717). -/
theorem State.indRead_absent {s : State} (h0 : s.reg.addr % 4 = 0) (ha : (s.indWord s.reg.addr).absent = true) :
    s.indRead.2.2.reg.absent = true ∧ s.indRead.2.2.reg.absentN = satAdd 8 1 s.reg.absentN := by
  have hfresh : (State.indRead.fresh s s.reg.addr (s.reg.addr % 4)).2.2.reg.absent = true ∧
      (State.indRead.fresh s s.reg.addr (s.reg.addr % 4)).2.2.reg.absentN = satAdd 8 1 s.reg.absentN := by
    unfold State.indRead.fresh
    extract_lets x s1 keep
    have hx : x.absent = true := ha
    have h1 : s1 = s := if_pos hx
    rw [h1]
    clear_value x
    cases x with
    | mk d ab ue => exact ⟨hx, by rw [show ab = true from hx]; rfl⟩
  unfold State.indRead
  extract_lets a i
  split
  · rw [if_neg fun h => h.1 h0]
    exact hfresh
  · exact hfresh

/-- The other parts come from the latch of the word (R715). -/
theorem State.indRead_latched {w i : Nat} {ue : Bool} {s : State} (hl : s.reg.rdLatch = some (s.reg.addr - i, w, ue)) (hi : i ≠ 0)
    (hm : s.reg.addr % 4 = i) : s.indRead = (partOf w i, ue, s.modReg fun r => { (r.indDone false ue false) with addr := r.nextAddr }) := by
  unfold State.indRead
  rw [hl]
  dsimp only
  rw [hm, if_pos ⟨hi, rfl⟩]

/-- Settles O54: each access goes to the one class of its address. -/
theorem registersAndIndirectAccess : Obligations.RegistersAndIndirectAccess := by
  refine ⟨⟨?_, ?_, ?_, ?_, ?_, ?_, ?_, ?_, ?_, ?_, ?_, ?_, ?_⟩, ?_, ?_, ?_, ?_, ?_, ?_, ?_⟩
  · intro a w s hh hc
    change Host.Outcome.next _ = _
    rw [hc]
    exact congrArg Host.Outcome.next (State.accessIf_of (by decide) hh _)
  · intro a w k s hh hc
    change Host.Outcome.next _ = _
    rw [hc, State.accessIf_of (isRc_loop k) hh, State.setRc_loop]
  · intro a l i s hh hc
    obtain ⟨f, hp, hst, hval⟩ := s.regRead_latch hc i
    refine ⟨s.modReg f, ?_, hval, by simp [Only]⟩
    refine (congrArg Host.Outcome.next (State.accessIf_of hp hh _)).trans ?_
    rw [hst]
  · intro a w i s hh hc
    have hi := i.isLt
    have hmulti : (multiOf (canon a.toNat)).isSome = true := by rw [hc]; clear hc hi; revert i; decide
    have hg : isGuarded (canon a.toNat) = false := by rw [hc]; clear hc hi; revert i; decide
    have hw := s.putReg_serial i w.toNat measNone
    rw [← hc] at hw
    refine ⟨_, congrArg Host.Outcome.next (State.accessIf_of hmulti hh _), ?_⟩
    dsimp only
    rw [State.regWrite_direct .host hg, hw]
    refine ⟨?_, rfl, by simp [Only]⟩
    rw [State.modReg, Tab.get_put_same, Tab.get_put_same]
  · intro m a w s hh hc hl hi ho
    have hp : (decide (canon a.toNat = 0x044) || decide (canon a.toNat = 0x103) || decide (canon a.toNat = 0x107)) = true := by rw [hc]; rfl
    refine (congrArg Host.Outcome.next (State.accessIf_of hp hh _)).trans ?_
    rw [State.regWrite_direct m (by rw [hc]; rfl), hc, State.putReg_lanes, State.lanesWrite_first hl hi ho]
  · intro m a w s hh hc hl
    have hp : (decide (canon a.toNat = 0x044) || decide (canon a.toNat = 0x103) || decide (canon a.toNat = 0x107)) = true := by rw [hc]; rfl
    refine (congrArg Host.Outcome.next (State.accessIf_of hp hh _)).trans ?_
    rw [State.regWrite_direct m (by rw [hc]; rfl), hc, State.putReg_lanes, State.lanesWrite, if_pos hl, State.woViol]
  · intro w s hh hl hi ho
    refine (congrArg Host.Outcome.next (State.accessIf_of rfl hh _)).trans ?_
    rw [State.lanesWrite_first hl hi ho]
  · intro w s hh hl hb
    refine (congrArg Host.Outcome.next (State.accessIf_of rfl hh _)).trans ?_
    rw [State.lanesWrite, if_neg (by simp [hl]), if_pos hb]
  · intro w s hh hl
    refine (congrArg Host.Outcome.next (State.accessIf_of rfl hh _)).trans ?_
    rw [State.lanesWrite, if_pos hl, State.woViol]
  · intro m a b d me s hh hc
    refine ⟨_, congrArg Host.Outcome.next (State.accessIf_of rfl hh _), ?_⟩
    dsimp only
    rw [hc, State.bitWrite_scratch]
    exact ⟨fun j hj => setBit_bits _ b d hj, by simp [Only]⟩
  · intro m a w me s hh hc
    refine (congrArg Host.Outcome.next (State.accessIf_of rfl hh _)).trans ?_
    rw [State.regWrite_direct m (by rw [hc]; rfl), hc]
    rfl
  · intro s hh hd
    refine ⟨s.latchTime 0 s.now, ?_, ?_⟩
    · refine (congrArg Host.Outcome.next (State.accessIf_of rfl hh _)).trans ?_
      rw [State.snap, if_pos hd]
    · obtain ⟨h1, h2⟩ := Rec.word_parts ⟨0xFFF, ((s.latchOf 0).toNat + 1) % 4096, { Flags.init with hold := s.pwr.mode = .holdover }, s.now, 0⟩
      rw [State.latchTime, State.setLatch_latchOf]
      exact ⟨h1, h2.trans (Nat.mod_mod _ _), by simp [Only]⟩
  · intro r q s hq
    have hexec : exec .latchUpdate s = execLatchUpdate s := rfl
    unfold execLatchUpdate at hexec
    rw [hq] at hexec
    dsimp only at hexec
    refine ⟨_, hexec, ?_, fun h => ?_, fun i hi h => ?_, ?_⟩
    · exact congrArg DevQ.copies (State.devq_of_outside (s := s.modDevq fun d => { d with copies := q })
        (forAll_outside _ _ _ fun _ _ => State.setLatch_outside _ _ _ (by simp)))
    · exact State.setLatches_latchOf (List.mem_append_left _ (by rw [if_pos h]; exact List.mem_singleton_self 2)) _ _
    · refine State.setLatches_latchOf (List.mem_append_right _ (List.mem_map.2 ⟨i, List.mem_filter.2 ⟨List.mem_range.2 hi, ?_⟩, rfl⟩)) _ _
      exact decide_eq_true h
    · exact (forAll_outside _ _ _ fun _ _ => State.setLatch_outside _ _ _ (by simp)).trans (by simp)
  · intro s hh
    refine ⟨s.indRead.2.2, congrArg Host.Outcome.next (State.accessIf_of rfl hh _), s.indRead_addr, ?_⟩
    exact State.indRead_outside s (by simp) (by simp) (by simp) (by simp) (by simp)
  · intro s hh h0 hm hr ha
    exact ⟨s.indRead.2.2, congrArg Host.Outcome.next (State.accessIf_of rfl hh _), State.indRead_latches h0 hm hr ha⟩
  · intro w ue i s hh hl hi hm
    have hread := State.indRead_latched hl hi hm
    refine ⟨congrArg Prod.fst hread, ?_⟩
    refine (congrArg Host.Outcome.next (State.accessIf_of rfl hh _)).trans ?_
    rw [hread]
  · intro s hh h0 ha
    exact ⟨s.indRead.2.2, congrArg Host.Outcome.next (State.accessIf_of rfl hh _), State.indRead_absent h0 ha⟩
  · intro w s hh
    exact ⟨s.indWrite w.toNat, congrArg Host.Outcome.next (State.accessIf_of rfl hh _), rfl, rfl, rfl, rfl, by simp [Only]⟩
  · intro w s hh
    exact congrArg Host.Outcome.next (State.accessIf_of rfl hh _)
  · intro w s hh
    exact congrArg Host.Outcome.next (State.accessIf_of rfl hh _)

end Sys2Proof.Machine
end

section
/-!
PROOFS. Messages that a ring takes, the event door, and the blocks and ends of bulk streams (R744 to R748, R765 to R784).
-/
namespace Sys2Proof.Machine
open Sys2Proof

/-! ## The ring of a command door -/

/-- Word 0 of a message of one word: its command, TAG and LEN, and no flag or parameter (R766). -/
theorem messageWord_fields (cmd tag : BitVec 16) :
    bits (BitVec.ofNat 128 (fld 112 16 cmd.toNat + fld 96 16 tag.toNat + fld 80 16 16)).toNat 64 16 = 0 ∧
    bits (BitVec.ofNat 128 (fld 112 16 cmd.toNat + fld 96 16 tag.toNat + fld 80 16 16)).toNat 112 16 = cmd.toNat ∧
    BitVec.ofNat 16 ((BitVec.ofNat 128 (fld 112 16 cmd.toNat + fld 96 16 tag.toNat + fld 80 16 16)).toNat / 2 ^ 96) = tag ∧
    bits (BitVec.ofNat 128 (fld 112 16 cmd.toNat + fld 96 16 tag.toNat + fld 80 16 16)).toNat 80 16 = 16 ∧
    bits (BitVec.ofNat 128 (fld 112 16 cmd.toNat + fld 96 16 tag.toNat + fld 80 16 16)).toNat 0 64 = 0 := by
  have hc := cmd.isLt
  have ht := tag.isLt
  rw [BitVec.toNat_ofNat, Nat.mod_eq_of_lt (by unfold fld; omega)]
  refine ⟨by unfold fld bits; omega, by unfold fld bits; omega, BitVec.eq_of_toNat_eq ?_, by unfold fld bits; omega, by unfold fld bits; omega⟩
  rw [BitVec.toNat_ofNat]
  unfold fld
  omega

/-- A message of one word without flags or parameters is taken as its command and TAG say. -/
theorem State.takeMsg_plain {d : Fin 8} (m : Meas) {cmd tag : BitVec 16} {s : State}
    (hw : (s.door d).words.get 0 0 = BitVec.ofNat 128 (fld 112 16 cmd.toNat + fld 96 16 tag.toNat + fld 80 16 16)) :
    s.takeMsg d m = match (s.taken ⟨d, tag, false, false⟩).msgOp ⟨d, tag, false, false⟩ cmd.toNat 16 0 0
        (fun i => ((s.door d).words.get 0 i).toNat) m with
      | .ok f => f (s.taken ⟨d, tag, false, false⟩)
      | .error e => (s.taken ⟨d, tag, false, false⟩).reply ⟨d, tag, false, false⟩ cmd.toNat (.fail e) := by
  obtain ⟨h1, h2, h3, h4, h5⟩ := messageWord_fields cmd tag
  unfold State.takeMsg
  dsimp only
  rw [hw, h1, h2, h3, h4, h5]
  rfl

theorem State.ringDoor_command {d : Fin 8} (m : Meas) {s : State} (hd : d.val < 4 ∨ d.val = 7) (hh : s.pwr.held = false)
    (hb : (s.door d).st ≠ .busy) : s.ringDoor d m = s.takeMsg d m := by
  have h6 : d ≠ 6 := fun e => by rw [e] at hd; exact absurd hd (by decide)
  have h45 : ¬ (d = 4 ∨ d = 5) := by
    rintro (rfl | rfl) <;> exact absurd hd (by decide)
  rw [State.ringDoor, if_neg h6, if_neg (by simp [hh, hb]), if_neg h45]

theorem State.ringDoor_busy {d : Fin 8} (m : Meas) {s : State} (hd : d.val < 4) (hb : (s.door d).st = .busy) : s.ringDoor d m = s := by
  have h6 : d ≠ 6 := fun e => by rw [e] at hd; exact absurd hd (by decide)
  rw [State.ringDoor, if_neg h6, if_pos (.inr hb)]

/-- The bit write of a ring on a door that needs no key. -/
theorem State.bitWrite_ring {d : Fin 8} (m : Meas) (hd : d.val < 4) (s : State) : (s.bitWrite .host (0x080 + d.val) 0 true m).2 = s.ringDoor d m := by
  have hn : Fin.ofNat 8 (0x080 + d.val - 0x080) = d := Fin.ext (by simp)
  rw [State.bitWrite, if_neg (by omega), if_pos (by omega), hn]
  rfl

theorem exec_ring {d : Fin 8} (m : Meas) {s : State} (hh : s.pwr.held = false) (hd : d.val < 4) : exec (.ring d m) s = .next (s.ringDoor d m) :=
  (congrArg Host.Outcome.next (State.accessIf_of rfl hh _)).trans (congrArg Host.Outcome.next (s.bitWrite_ring m hd))

/-- A message of INFO_ID that a ring takes is the command INFO_ID (R771). -/
theorem State.takeMsg_infoId {d : Fin 8} (m : Meas) {tag : BitVec 16} {s : State} (hh : s.pwr.held = false) (hd : d.val < 4)
    (hb : (s.door d).st ≠ .busy) (hr : s.pwr.rom = false)
    (hw : (s.door d).words.get 0 0 = BitVec.ofNat 128 (fld 112 16 0x0101 + fld 96 16 tag.toNat + fld 80 16 16)) :
    s.takeMsg d m = s.viaDoor ⟨d, tag, false, false⟩ 0x0101 (·.opInfoId ⟨d, tag, false, false⟩) := by
  have hpre : (s.taken ⟨d, tag, false, false⟩).preErr ⟨d, tag, false, false⟩ 0x0101 = none := by
    rw [State.preErr, if_neg (by simp [hr]), if_neg (by simp [cmdGuarded]), if_neg (by simp)]
  have hop : (s.taken ⟨d, tag, false, false⟩).msgOp ⟨d, tag, false, false⟩ (0x0101 : BitVec 16).toNat 16 0 0
      (fun i => ((s.door d).words.get 0 i).toNat) m = .ok (·.opInfoId ⟨d, tag, false, false⟩) := by
    change State.msgOp _ _ 0x0101 16 0 0 _ m = _
    unfold State.msgOp
    rw [if_neg (by simp [hr])]
    change (if _ then _ else if _ then _ else if _ then _ else _) = _
    rw [if_neg (by simp [cmdGuarded]), if_neg (by simp), if_neg (by simp [inMask]), hpre]
    rfl
  rw [State.takeMsg_plain m (cmd := 0x0101) hw, hop, State.viaDoor, if_neg (by simp only [not_or]; exact ⟨by simp [hh], by omega, by omega, by omega, hb⟩)]
  dsimp only
  rw [show (s.modDoor d fun x => { x with st := .busy, tag := tag }).preErr ⟨d, tag, false, false⟩ 0x0101 = none from hpre]
  rfl

/-- A message of a command that is not defined is answered BADCMD (R768). -/
theorem State.takeMsg_undefined {d : Fin 8} (m : Meas) {cmd tag : BitVec 16} {s : State} (hr : s.pwr.rom = false) (hform : cmdForm cmd.toNat 0 = none)
    (hw : (s.door d).words.get 0 0 = BitVec.ofNat 128 (fld 112 16 cmd.toNat + fld 96 16 tag.toNat + fld 80 16 16)) :
    s.takeMsg d m = (s.taken ⟨d, tag, false, false⟩).reply ⟨d, tag, false, false⟩ cmd.toNat (.fail .badcmd) := by
  have hop : (s.taken ⟨d, tag, false, false⟩).msgOp ⟨d, tag, false, false⟩ cmd.toNat 16 0 0
      (fun i => ((s.door d).words.get 0 i).toNat) m = .error .badcmd := by
    unfold State.msgOp
    rw [if_neg (by simp [hr]), hform]
  rw [State.takeMsg_plain m hw, hop]

/-! ## Doors of their own -/

/-- A door that is changed is the only one. -/
theorem State.modDoor_only (n : Nat) (f : Door → Door) (s : State) : OnlyDoor n s (s.modDoor n f) :=
  State.modDoor_congr (State.door_modDoor_same _ _ _).symm

theorem OnlyDoor.trans {n : Nat} {s t u : State} (h : OnlyDoor n s t) (k : OnlyDoor n t u) : OnlyDoor n s u := by
  rw [OnlyDoor] at h k ⊢
  rw [h, State.modDoor_modDoor] at k
  exact k

/-! ## The event door -/

/-- The three words of an event are those that the door shows. -/
theorem Event.msg_shown (e : Event) (n t : Nat) (w : Tab W128) {i : Nat} (hi : i < 3) :
    ((e.msg n t).foldl (fun t w => t.put w.1 w.2) w).get 0 i = (e.msg n t).get 0 i := by
  have h0 : i = 0 ∨ i = 1 ∨ i = 2 := by omega
  unfold Event.msg
  simp only [List.foldl_cons, List.foldl_nil]
  obtain rfl | rfl | rfl := h0
  · rw [Tab.get_put_ne _ _ (by decide), Tab.get_put_ne _ _ (by decide), Tab.get_put_same]
    rfl
  · rw [Tab.get_put_ne _ _ (by decide), Tab.get_put_same]
    rfl
  · rw [Tab.get_put_same]
    rfl

theorem State.ringEvent_reply {s : State} (h : (s.door 6).st = .reply) : s.ringEvent = (s.modDoor 6 fun d => { d with st := .busy }).pump6 := if_pos h

/-- The event that the queue holds next follows on the door. -/
theorem State.pump6_next {e : Event} {q : List Event} {s : State} (hd : (s.door 6).st ≠ .reply) (hl : s.mbox.evLostNew = 0)
    (hq : s.mbox.evq = e :: q) : (s.pump6.door 6).st = .reply ∧ (s.pump6.door 6).tag = BitVec.ofNat 16 s.mbox.evSeq ∧ s.pump6.mbox.evq = q ∧
      s.pump6.mbox.evSeq = (s.mbox.evSeq + 1) % 2 ^ 16 ∧
      ∀ i, i < 3 → (s.pump6.door 6).words.get 0 i = (e.msg s.mbox.evSeq s.now).get 0 i := by
  have hnext : s.mbox.nextEvent = some (e, { s.mbox with evq := q }) := by
    rw [MboxS.nextEvent, if_neg (by simp [hl]), hq]
  unfold State.pump6
  rw [if_neg hd, hnext]
  dsimp only [State.door]
  rw [Tab.get_put_same]
  exact ⟨rfl, rfl, rfl, rfl, fun i hi => Event.msg_shown _ _ _ _ hi⟩

/-! ## Blocks and ends of a stream -/

/-- The block in door `n` shows the first fifteen words of what the stream has left (R779, R780). -/
theorem State.putBlock_shows {n : Nat} {st : Stream} {s : State} (hs : (s.door n).stream = some st) :
    ((s.putBlock n).door n).st = .reply ∧
      ((s.putBlock n).door n).stream = some { st with data := st.data.drop 15, last := decide (st.data.length ≤ 15), pos := 0 } ∧
      (∀ i, i < 15 → ((s.putBlock n).door n).words.get 0 (i + 1) = st.data.getD i 0) ∧ OnlyDoor n s (s.putBlock n) := by
  unfold State.putBlock
  rw [hs]
  dsimp only
  rw [State.door_modDoor_same]
  refine ⟨rfl, rfl, fun i hi => ?_, State.modDoor_only _ _ s⟩
  dsimp only
  rw [← Nat.zero_add (i + 1), get_numWords, getD_block _ _ _ hi]

/-- A stream that closes leaves its door, and an inbound one's command is answered there (R781, R782). -/
theorem State.closeStream_closed {e : Err} {bd : Nat} {st : Stream} {s : State} (hs : (s.door bd).stream = some st) (ho : st.opener.door.val ≠ bd) :
    ((s.closeStream e bd).door bd).st = .idle ∧ ((s.closeStream e bd).door bd).stream = none ∧
      (st.inbound = true → Answered st.opener st.cmd (.fail e) (s.closeStream e bd)) := by
  unfold State.closeStream
  rw [hs]
  dsimp only
  have hdoor : ((s.modDoor bd fun d => { d with stream := none, st := .idle }).door bd).st = .idle ∧
      ((s.modDoor bd fun d => { d with stream := none, st := .idle }).door bd).stream = none := by
    rw [State.door_modDoor_same]
    exact ⟨rfl, rfl⟩
  split
  · rw [State.reply_door_ne (Ne.symm ho)]
    exact ⟨hdoor.1, hdoor.2, fun _ => State.reply_answered _ _ _ _⟩
  · next h => exact ⟨hdoor.1, hdoor.2, fun hi => absurd hi h⟩

/-- The block that a ring of a bulk door brings. -/
theorem exec_bulkBlockRing {five : Bool} {s : State} (hh : s.pwr.held = false) (hd : (s.door (4 + bit five)).st = .reply) :
    exec (.bulkBlockRing five) s = .next (s.ringBulk (4 + bit five)) := if_neg fun h => h.elim (by simp [hh]) fun h => h hd

/-- Settles O55: each ring, block and close takes the one branch that its door and stream name. -/
theorem doorsRingAndStream : Obligations.DoorsRingAndStream := by
  refine ⟨?_, ?_, ?_, ?_, ?_, ?_, ?_, ?_, ?_, ?_, ?_, ?_, ?_, ?_, ?_, ?_⟩
  · intro d me s hh hd hb
    rw [exec_ring me hh hd, State.ringDoor_command me (.inl hd) hh hb]
  · intro d me s hh hd hb
    rw [exec_ring me hh hd, State.ringDoor_busy me hd hb]
  · intro me s hh ha hb
    refine (congrArg Host.Outcome.next (State.accessIf_of rfl hh _)).trans (congrArg Host.Outcome.next ?_)
    have hw : s.bitWrite .host (0x080 + (7 : Fin 8).val) 0 true me = s.guarded .host fun s => (.ok, s.ringDoor 7 me) := rfl
    rw [hw, State.guarded_host_armed _ ha]
    exact State.ringDoor_command (d := 7) me (.inr rfl) (s := s.disarm) hh hb
  · intro me s ha
    have hw : s.bitWrite .host (0x080 + (7 : Fin 8).val) 0 true me = s.guarded .host fun s => (.ok, s.ringDoor 7 me) := rfl
    change Host.Outcome.next (s.accessIf true fun s => (s.bitWrite .host (0x080 + (7 : Fin 8).val) 0 true me).2) = _
    rw [State.accessIf, hw, State.guarded_host_unarmed _ ha, ite_self]
  · intro d me tag s hh hd hb hr hw
    rw [exec_ring me hh hd, State.ringDoor_command me (.inl hd) hh hb, State.takeMsg_infoId me hh hd hb hr hw]
    rfl
  · intro d me tag cmd s hh hd hb hr hform hw
    refine ⟨_, exec_ring me hh hd, ?_⟩
    rw [State.ringDoor_command me (.inl hd) hh hb, State.takeMsg_undefined me hr hform hw]
    exact ⟨State.reply_answered _ _ _ _, State.reply_only ⟨d, tag, false, false⟩ _ _ s⟩
  · intro e q s hd hl hq
    refine ⟨s.ringEvent, rfl, ?_⟩
    rw [State.ringEvent_reply hd]
    exact State.pump6_next (s := s.modDoor 6 fun d => { d with st := .busy }) (by rw [State.door_modDoor_same]; exact DoorSt.noConfusion) hl hq
  · intro s hd hl hq
    refine ⟨s.ringEvent, rfl, ?_⟩
    have hnext : (s.modDoor 6 fun d => { d with st := .busy }).mbox.nextEvent = none := by
      rw [MboxS.nextEvent, if_neg fun h => h hl, show (s.modDoor 6 fun d => { d with st := .busy }).mbox.evq = [] from hq]
    have hpump : (s.modDoor 6 fun d => { d with st := .busy }).pump6 = s.modDoor 6 fun d => { d with st := .busy } := by
      unfold State.pump6
      rw [hnext]
      exact ite_self _
    rw [State.ringEvent_reply hd, hpump]
    refine ⟨?_, State.modDoor_only _ _ s⟩
    rw [State.door_modDoor_same]
  · intro s hn
    exact if_neg (Nat.not_lt.2 hn)
  · intro five st s hh hd hs hi hl
    rw [exec_bulkBlockRing hh hd, State.ringBulk, hs]
    dsimp only
    rw [if_pos (by simp [hi]), if_pos hl]
  · intro five st s hh hd hs hi hl
    refine ⟨_, exec_bulkBlockRing hh hd, ?_⟩
    rw [State.ringBulk, hs]
    dsimp only
    rw [if_pos (by simp [hi]), if_neg (by simp [hl])]
    have hs' : ((s.modDoor (4 + bit five) fun x => { x with stream := some { st with block := st.block + 1 } }).door (4 + bit five)).stream =
        some { st with block := st.block + 1 } := by rw [State.door_modDoor_same]
    obtain ⟨h1, h2, h3, h4⟩ := State.putBlock_shows hs'
    exact ⟨h1, h2, h3, (State.modDoor_only _ _ s).trans h4⟩
  · intro five st s hh hd hs hi hok hlast
    refine ⟨_, exec_bulkBlockRing hh hd, ?_⟩
    rw [State.ringBulk, hs]
    dsimp only
    rw [if_neg (by simp [hi]), if_neg (by rw [hok]; decide), if_neg (by rw [hlast]; decide), State.door_modDoor_same]
    exact ⟨rfl, State.modDoor_only _ _ s⟩
  · intro five st s hh hd hs hi ho hbad
    refine ⟨_, exec_bulkBlockRing hh hd, ?_⟩
    rw [State.ringBulk, hs]
    dsimp only
    rw [if_neg (by simp [hi]), if_pos (by rw [hbad]; decide)]
    obtain ⟨h1, h2, h3⟩ := State.closeStream_closed (e := .badarg) hs ho
    exact ⟨h1, h2, h3 hi⟩
  · intro five st s hd hs ho
    exact ⟨s.closeStream .badarg (4 + bit five), if_neg fun h => h hd, State.closeStream_closed hs ho⟩
  · intro h bd st s g hb hs ho hne
    refine ⟨_, rfl, ?_⟩
    have hs' : ((s.taken h).door bd).stream = some st := by rw [g.door_bulk hb]; exact hs
    rw [State.viaDoor_taken g, State.opBulkClose, if_neg (by omega)]
    obtain ⟨h1, h2, h3⟩ := State.closeStream_closed (e := .badarg) hs' ho
    refine ⟨State.reply_answered _ _ _ _, ?_, ?_, fun hi => Answered.of_door (State.reply_door_ne (fun e => hne (Fin.ext e)) _ _ _) (h3 hi)⟩
    · rw [State.reply_door_ne (g.bulk hb)]
      exact h1
    · rw [State.reply_door_ne (g.bulk hb)]
      exact h2
  · intro h bd s g h4 h5
    change Host.Outcome.next _ = _
    rw [State.viaDoor_taken g, State.opBulkClose, if_pos ⟨h4, h5⟩]

end Sys2Proof.Machine
end

section
/-!
PROOFS. Information commands (R113, R132, R262, R308, R739, R788).
-/
namespace Sys2Proof.Machine
open Sys2Proof

/-- An item of a device parameter reads its value, and the rest follows (R788). -/
theorem State.readItems_device {x : Item} {d : PDef} {l : List Item} {s : State} (hx : pFind x.id.toNat = some d) (hp : d.perCh = false)
    (hc : x.ch = 0xFFF) (i : Nat) : s.readItems i (x :: l) = (s.readItems (i + 1) l).map (itemWords x (s.pv x.id.toNat) ++ ·) := by
  have hplaced : itemPlaced x d.perCh = true := by
    rw [itemPlaced, hp, hc]
    rfl
  have hval : s.itemVal x = .ok (s.pv x.id.toNat) := by
    rw [State.itemVal, itemRow, hx]
    dsimp only
    rw [if_neg (by simp [hplaced]), hp]
    rfl
  rw [State.readItems, hval]
  cases s.readItems (i + 1) l with
  | error r => rfl
  | ok ws => rfl

/-- Settles O56: each answer is read from the state in which its message is taken. -/
theorem informationCommands : Obligations.InformationCommands := by
  refine ⟨?_, ?_, ?_, ?_, ?_, ?_, ?_, ?_, ?_⟩
  · intro h s g
    refine ⟨_, rfl, ?_⟩
    rw [State.viaDoor_taken g]
    exact ⟨State.reply_only _ _ _ _, State.reply_answered _ _ _ _⟩
  · intro h s g
    refine ⟨_, rfl, ?_⟩
    rw [State.viaDoor_taken g]
    refine ⟨State.reply_only _ _ _ _, fun d hd => ?_⟩
    obtain ⟨-, -, -, -, hw⟩ := State.reply_answered h 0x0102 ⟨.ok, 0, 0, 0, (upTo 4).map fun d =>
      fld 0 32 ((s.taken h).src (0x800 + d)).rate + fld 32 32 ((s.taken h).src (0x800 + d)).dll + fld 64 32 ((s.taken h).src (0x800 + d)).hold⟩ (s.taken h)
    refine (hw d hd).trans (congrArg (BitVec.ofNat 128) ?_)
    dsimp only
    exact getD_upTo_map hd _ 0
  · intro h s g
    refine ⟨_, rfl, ?_⟩
    rw [State.viaDoor_taken g]
    exact ⟨State.reply_only _ _ _ _, State.reply_answered _ _ _ _⟩
  · intro h s g
    refine ⟨_, rfl, ?_⟩
    rw [State.viaDoor_taken g]
    exact ⟨State.reply_only _ _ _ _, State.reply_answered _ _ _ _⟩
  · intro h c s g
    refine ⟨_, rfl, ?_⟩
    rw [State.viaDoor_taken g]
    exact ⟨State.reply_only _ _ _ _, State.reply_answered _ _ _ _⟩
  · intro h l ws s g hr hlen
    refine ⟨_, rfl, ?_⟩
    rw [State.viaDoor_taken g, State.opParamRd, hr]
    dsimp only
    rw [if_neg (Nat.not_lt.2 hlen)]
    exact ⟨State.reply_only _ _ _ _, State.reply_answered _ _ _ _⟩
  · intro h l r s g hr
    change Host.Outcome.next _ = _
    rw [State.viaDoor_taken g, State.opParamRd, hr]
  · intro x d l s hx hp hc
    refine (State.readItems_device hx hp hc 0).trans ?_
    change (s.readItems 1 l).map _ = _
    cases s.readItems 1 l with
    | error r => rfl
    | ok ws => rfl
  · intro h bd s g hb hs
    refine ⟨_, rfl, ?_⟩
    rw [State.viaDoor_taken g, State.opLastList, State.streamErr_none hb (by rw [g.door_bulk hb]; exact hs)]
    exact State.openOut_opened (g.bulk hb) _ _ _

end Sys2Proof.Machine
end

section
/-!
PROOFS. Sets of parameters and lasts: the checks in their order, and what each command leaves (R758, R786 to R795).
-/
namespace Sys2Proof.Machine
open Sys2Proof

/-! ## A set of writes -/

section
variable {h : Hdr} {cmd : Nat} {dflt : Bool} {l : List Item} {s : State}

theorem State.opParamWr_unknown {r : Rep} (hb : s.badparam 0 l = some r) : s.opParamWr h cmd dflt l = s.reply h cmd r := by
  rw [State.opParamWr, hb]
  rfl

theorem State.opParamWr_writes (hb : s.badparam 0 l = none) (hi : s.itemErr 0 l = none) :
    s.opParamWr h cmd dflt l = s.doWrite h cmd (l.map (itemWrite dflt)) := by
  rw [State.opParamWr, hb, hi]
  rfl
end

section
variable {h : Hdr} {cmd : Nat} {l : List PWrite} {s : State}

theorem State.doWrite_refused {r : Rep} (he : s.writeErr h.door l = some r) : s.doWrite h cmd l = s.reply h cmd r := by
  rw [State.doWrite, he]

/-- A set with a parameter that persists is one change of the journal (R791). -/
theorem State.doWrite_stored (he : s.writeErr h.door l = none) (hp : ∃ w ∈ l, (pFind w.id).any (·.persists) = true) :
    s.doWrite h cmd l = s.commit (some h) cmd (changeOf l) := by
  have hany : (l.any fun w => (pFind w.id).any (·.persists)) = true := List.any_eq_true.2 hp
  rw [State.doWrite, he]
  dsimp only
  rw [if_pos hany]

/-- A set of others takes effect at once. -/
theorem State.doWrite_applied (he : s.writeErr h.door l = none) (hp : ∀ w ∈ l, (pFind w.id).any (·.persists) = false) :
    s.doWrite h cmd l = (s.applyParams (changeOf l)).reply h cmd (State.paramRep s (changeOf l) (s.applyParams (changeOf l))) := by
  have hany : ¬ (l.any fun w => (pFind w.id).any (·.persists)) = true := by
    rw [List.any_eq_true]
    rintro ⟨w, hw, hw'⟩
    rw [hp w hw] at hw'
    cases hw'
  rw [State.doWrite, he]
  dsimp only
  rw [if_neg hany]
end

theorem firstErr_none {f : PWrite → Option Rep} {l : List PWrite} (h : ∀ w ∈ l, f w = none) (i : Nat) : firstErr f i l = none := by
  induction l generalizing i with
  | nil => rfl
  | cons w l ih =>
    rw [firstErr, h w List.mem_cons_self]
    exact ih (fun x hx => h x (List.mem_cons_of_mem _ hx)) _

/-! ## The source of a latch (R758) -/

/-- The row of the 24 latch sources. -/
def latchRow : PDef := ⟨P.latchSrc, .srcOff, 4095, false, false, false, false, 24, 1⟩

theorem pFind_latchSrc (i : Fin 24) : pFind (P.latchSrc + i.val) = some latchRow := by
  revert i
  decide

theorem latchSrc_toNat (i : Fin 24) : (BitVec.ofNat 16 (P.latchSrc + i.val)).toNat = P.latchSrc + i.val := by
  revert i
  decide

theorem kindOf_latchSrc (i : Fin 24) : kindOf (P.latchSrc + i.val) = P.latchSrc := by
  rw [kindOf, pFind_latchSrc]
  rfl

theorem instOf_latchSrc (i : Fin 24) : instOf (P.latchSrc + i.val) = i.val := by
  rw [instOf, pFind_latchSrc]
  change (P.latchSrc + i.val - P.latchSrc) / 1 = i.val
  omega

/-- The write of a latch source that its range takes passes every check. -/
theorem State.writeErr_latchSrc {i : Fin 24} {v : Nat} (hv : PTy.ok .srcOff v = true) (door : Nat) (s : State) :
    s.writeErr door [⟨P.latchSrc + i.val, none, some v⟩] = none := by
  have hcross (t : State) : t.crossErr ⟨P.latchSrc + i.val, none, some v⟩ = none := by
    unfold State.crossErr
    dsimp only
    rw [kindOf_latchSrc]
    rfl
  have hmode (t : State) : t.modeErr ⟨P.latchSrc + i.val, none, some v⟩ = none := by
    unfold State.modeErr
    dsimp only
    rw [kindOf_latchSrc]
    rfl
  have hone {f : PWrite → Option Rep} (h : f ⟨P.latchSrc + i.val, none, some v⟩ = none) : firstErr f 0 [⟨P.latchSrc + i.val, none, some v⟩] = none :=
    firstErr_none (fun w hw => by rw [List.mem_singleton.1 hw]; exact h) 0
  unfold State.writeErr
  extract_lets t at1 row
  have hrow (f : PDef → Bool) : row ⟨P.latchSrc + i.val, none, some v⟩ f = f latchRow := by
    simp only [row, pFind_latchSrc]
    rfl
  rw [hone, hone, hone, hone (hcross t), hone (hmode t)]
  · rfl
  · simp only [hrow]
    have hok : latchRow.ty.ok (PWrite.value ⟨P.latchSrc + i.val, none, some v⟩) = true := hv
    rw [hok]
    rfl
  · simp only [hrow]
    rfl
  · simp only [hrow]
    rfl

/-- The write puts the source in force, and its latch begins empty with that source. -/
theorem State.applyParams_latchSrc (i : Fin 24) (v : Nat) (s : State) :
    s.applyParams (changeOf [⟨P.latchSrc + i.val, none, some v⟩]) =
      (s.modPar (·.setDev (P.latchSrc + i.val) (some v))).setLatch (8 + i.val) (BitVec.ofNat 128 (fld 20 12 v)) := by
  have htouched {lo hi : Nat} (h : P.latchSrc < lo) : touched lo hi [P.latchSrc + i.val] = [] := by
    refine List.filter_eq_nil_iff.2 fun j _ => ?_
    rw [List.any_cons, List.any_nil, Bool.or_false, decide_eq_true_eq, kindOf_latchSrc]
    omega
  have hchange : changeOf [⟨P.latchSrc + i.val, none, some v⟩] = .params [(P.latchSrc + i.val, some v)] [] := rfl
  have hpv : (s.modPar (·.setDev (P.latchSrc + i.val) (some v))).pv (P.latchSrc + i.val) = v := ParS.dv_setDev _ _ _ _
  rw [hchange]
  unfold State.applyParams
  dsimp only
  rw [show ([(P.latchSrc + i.val, some v)].map (·.1) : List Nat) = [P.latchSrc + i.val] from rfl, htouched (by decide)]
  change (s.modPar (·.setDev (P.latchSrc + i.val) (some v))).paramEffects [P.latchSrc + i.val] [] = _
  unfold State.paramEffects
  rw [htouched (by decide), htouched (by decide)]
  change (s.modPar (·.setDev (P.latchSrc + i.val) (some v))).devEffect (P.latchSrc + i.val) = _
  unfold State.devEffect
  dsimp only
  rw [kindOf_latchSrc, if_pos rfl, instOf_latchSrc, State.latchSrc, hpv]

/-! ## Lasts -/

/-- The channels of a range. -/
theorem mem_chanRange {a b c : Nat} : c ∈ chanRange a b ↔ a ≤ c ∧ c ≤ b := by
  unfold chanRange
  rw [List.mem_map]
  refine ⟨?_, fun ⟨h1, h2⟩ => ⟨c - a, List.mem_range.2 (by omega), by omega⟩⟩
  rintro ⟨x, hx, rfl⟩
  have := List.mem_range.1 hx
  omega

/-- A range whose channels and values pass every check is stored as one change (R794). -/
theorem State.opLastApply_stored {h : Hdr} {n c0 c1 : Nat} {s t : State} {l : Tab Nat} (hn : ¬ (63 < n ∧ n ≠ 0xFF)) (hc : c0 ≤ c1)
    (hok : ∀ c, c0 ≤ c → c ≤ c1 → s.lastOk c = true) (hl : (if n = 0xFF then [] else (look s.par.lasts n).getD []) = l)
    (ht : s.withChange (.lastApply n c0 c1) = t) (hg : h.door = 7 ∨ look l P.fmax = none) (ha : c1 < 256 ∨ look l P.chAutostart = none)
    (hval : ∀ c id, c0 ≤ c → c ≤ c1 → id ∈ lastable → t.cp c id ≠ s.cp c id →
      t.crossErr ⟨id, some c, some (t.cp c id)⟩ = none ∧ t.modeErr ⟨id, some c, some (t.cp c id)⟩ = none) :
    s.opLastApply h n c0 c1 = s.commit (some h) 0x0205 (.lastApply n c0 c1) := by
  have hfind : (chanRange c0 c1).find? (fun c => !s.lastOk c) = none := by
    rw [List.find?_eq_none]
    intro c hm
    obtain ⟨h1, h2⟩ := mem_chanRange.1 hm
    simp [hok c h1 h2]
  have hauto : (chanRange c0 c1).find? (fun c => decide (256 ≤ c ∧ (look l P.chAutostart).isSome)) = none := by
    rw [List.find?_eq_none]
    intro c hm
    obtain ⟨-, h2⟩ := mem_chanRange.1 hm
    obtain h | h := ha
    · simp only [decide_eq_true_eq, not_and]
      omega
    · simp [h]
  have hws : ∀ w ∈ (chanRange c0 c1).flatMap fun c => (State.changed s t c).map fun id => (⟨id, some c, some (t.cp c id)⟩ : PWrite),
      t.crossErr w = none ∧ t.modeErr w = none := by
    intro w hw
    obtain ⟨c, hm, hw⟩ := List.mem_flatMap.1 hw
    obtain ⟨id, hid, rfl⟩ := List.mem_map.1 hw
    obtain ⟨hid, hne⟩ := List.mem_filter.1 hid
    obtain ⟨h1, h2⟩ := mem_chanRange.1 hm
    exact hval c id h1 h2 hid (of_decide_eq_true hne)
  have hguard : ¬ ((look l P.fmax).isSome = true ∧ h.door ≠ 7) := by
    obtain h | h := hg
    · exact fun x => x.2 h
    · simp [h]
  unfold State.opLastApply
  dsimp only
  rw [if_neg hn, if_neg (Nat.not_lt.2 hc), hl, ht, hfind]
  dsimp only
  rw [if_neg hguard, hauto, firstErr_none (fun w hw => (hws w hw).1), firstErr_none (fun w hw => (hws w hw).2)]
  rfl

/-- Settles O57: each set and each last goes to the first check that refuses it, else to its one effect. -/
theorem parametersAndLasts : Obligations.ParametersAndLasts := by
  refine ⟨?_, ?_, ?_, ?_, ?_, ?_, ?_, ?_, ?_, ?_, ?_, ?_, ?_, ?_, ?_⟩
  · intro h l r s g hb
    change Host.Outcome.next _ = _
    rw [State.viaDoor_taken g, State.opParamWr_unknown hb]
  · intro h l r s g hb hi he
    change Host.Outcome.next _ = _
    rw [State.viaDoor_taken g, State.opParamWr_writes hb hi, State.doWrite_refused he]
  · intro h l s g hb hi he hp
    refine ⟨_, rfl, ?_⟩
    rw [State.viaDoor_taken g, State.opParamWr_writes hb hi, State.doWrite_stored he hp]
    exact State.commit_queued _ _ _ _
  · intro h l s g hb hi he hp c
    change Host.Outcome.next _ = _
    rw [State.viaDoor_taken g, State.opParamWr_writes hb hi, State.doWrite_applied he hp]
  · intro h i v s g hv
    have hv' : PTy.ok .srcOff v.toNat = true := by
      rw [pFind_latchSrc] at hv
      exact hv
    have hitem : itemRow ⟨BitVec.ofNat 16 (P.latchSrc + i.val), 0xFFF, v⟩ = some latchRow := by
      rw [itemRow, latchSrc_toNat, pFind_latchSrc]
    have hb : (s.taken h).badparam 0 [⟨BitVec.ofNat 16 (P.latchSrc + i.val), 0xFFF, v⟩] = none := by
      rw [State.badparam, hitem]
      rfl
    have hi : (s.taken h).itemErr 0 [⟨BitVec.ofNat 16 (P.latchSrc + i.val), 0xFFF, v⟩] = none := by
      rw [State.itemErr, hitem]
      rfl
    have hw : [(⟨BitVec.ofNat 16 (P.latchSrc + i.val), 0xFFF, v⟩ : Item)].map (itemWrite false) = [⟨P.latchSrc + i.val, none, some v.toNat⟩] := by
      rw [List.map_cons, itemWrite, hitem, latchSrc_toNat]
      rfl
    refine ⟨_, rfl, ?_⟩
    rw [State.viaDoor_taken g, State.opParamWr_writes hb hi, hw, State.doWrite_applied (State.writeErr_latchSrc hv' _ _)
      (fun w hw => by rw [List.mem_singleton.1 hw, pFind_latchSrc]; rfl), State.applyParams_latchSrc]
    refine ⟨State.reply_answered _ _ _ _, ?_, ?_⟩
    · exact ParS.dv_setDev (s.taken h).par s.ts.role (P.latchSrc + i.val) v.toNat
    · exact State.setLatch_latchOf _ _ _
  · intro h l r s g hb hi he
    change Host.Outcome.next _ = _
    rw [State.viaDoor_taken g, State.opParamWr_writes hb hi, State.doWrite_refused he]
  · intro h l s g hb hi he hp
    refine ⟨_, rfl, ?_⟩
    rw [State.viaDoor_taken g, State.opParamWr_writes hb hi, State.doWrite_stored he hp]
    exact State.commit_queued _ _ _ _
  · intro h l s g hb hi he hp c
    change Host.Outcome.next _ = _
    rw [State.viaDoor_taken g, State.opParamWr_writes hb hi, State.doWrite_applied he hp]
  · intro h n c s g hu hg
    refine ⟨_, rfl, ?_⟩
    have hu' : (s.taken h).lastUser n.val = none := hu
    have hguard : ¬ ((look ((s.taken h).lastFor c) P.fmax).isSome = true ∧ h.door ≠ 7) := by
      obtain h | h := hg
      · exact fun x => x.2 h
      · simp [h]
    rw [State.viaDoor_taken g, State.opLastSave, hu']
    dsimp only
    rw [if_neg hguard]
    exact State.commit_queued _ _ _ _
  · intro h n c d s g hu
    have hu' : (s.taken h).lastUser n.val = some d := hu
    change Host.Outcome.next _ = _
    rw [State.viaDoor_taken g, State.opLastSave, hu']
  · intro h n s g hu
    refine ⟨_, rfl, ?_⟩
    have hu' : (s.taken h).lastUser n.val = none := hu
    rw [State.viaDoor_taken g, State.opLastDelete, hu']
    exact State.commit_queued _ _ _ _
  · intro h n d s g hu
    have hu' : (s.taken h).lastUser n.val = some d := hu
    change Host.Outcome.next _ = _
    rw [State.viaDoor_taken g, State.opLastDelete, hu']
  · intro h n c0 c1 s g hn hc hok l t hg ha hval
    refine ⟨_, rfl, ?_⟩
    have hn' : ¬ (63 < n.toNat ∧ n.toNat ≠ 0xFF) := by
      obtain h | h := hn
      · omega
      · exact fun x => x.2 (congrArg BitVec.toNat h)
    have hl : (if n.toNat = 0xFF then [] else (look (s.taken h).par.lasts n.toNat).getD []) = l := by
      have e : (n.toNat = 0xFF) ↔ n = 0xFF := ⟨fun h => BitVec.eq_of_toNat_eq h, congrArg BitVec.toNat⟩
      by_cases hx : n = 0xFF
      · rw [if_pos (e.2 hx)]
        exact (if_pos hx).symm
      · rw [if_neg fun h => hx (e.1 h)]
        exact (if_neg hx).symm
    rw [State.viaDoor_taken g, State.opLastApply_stored (s := s.taken h) (t := t) hn' hc hok hl rfl hg ha hval]
    exact State.commit_queued _ _ _ _
  · intro h n c0 c1 s g hn hc
    change Host.Outcome.next _ = _
    rw [State.viaDoor_taken g]
    unfold State.opLastApply
    dsimp only
    rw [if_neg (by omega), if_pos hc]
  · intro h n c s g hn hbad
    have hbad' : (s.taken h).lastOk c = false := hbad
    have hone : chanRange c.val c.val = [c.val] := by
      rw [chanRange, Nat.add_sub_cancel_left]
      rfl
    have hfind : [c.val].find? (fun c => !(s.taken h).lastOk c) = some c.val := by
      rw [List.find?_cons_of_pos (by simp [hbad'])]
    change Host.Outcome.next _ = _
    rw [State.viaDoor_taken g]
    unfold State.opLastApply
    dsimp only
    rw [if_neg (by omega), if_neg (Nat.lt_irrefl _), hone, hfind]

end Sys2Proof.Machine
end

section
/-!
PROOFS. Pattern tests: how one begins, how it ends, its checker and the eye scan (R443, R823 to R836).
-/
namespace Sys2Proof.Machine
open Sys2Proof

/-! ## A test begins -/

/-- The entry of a test that begins. -/
def newTest (kind unit pattern secs : Nat) : TestRun :=
  ⟨kind, unit, pattern, secs, false, none, 0, 0, 0, patStart (pattern % 128), ⟨0, 0, 0, 0⟩, none⟩

/-- The state with a new test among its tests. -/
def State.withTest (kind unit pattern secs : Nat) (s : State) : State := { s with tests := s.tests ++ [newTest kind unit pattern secs] }

section
variable {kind unit pattern secs : Nat} {s : State}

theorem State.testBegin_channel (hk : kind = 0 ∨ kind = 2) : s.testBegin kind unit pattern secs =
    (((((s.withTest kind unit pattern secs).takeKept unit).modDiv unit Div.restart).setSt unit .test).modTrav unit
      fun _ => .init).switchTo unit .pattern := by
  obtain rfl | rfl := hk <;> rfl

theorem State.testBegin_mem : s.testBegin 4 unit pattern secs = (s.withTest 4 unit pattern secs).memTestFill (pattern % 128) := rfl

theorem State.testBegin_periph : s.testBegin 5 unit pattern secs = (s.withTest 5 unit pattern secs).postPeriph := rfl

theorem State.testBegin_plain (h0 : kind ≠ 0) (h2 : kind ≠ 2) (h4 : kind ≠ 4) (h5 : kind ≠ 5) :
    s.testBegin kind unit pattern secs = s.withTest kind unit pattern secs := by
  unfold State.testBegin
  split
  · exact absurd rfl h0
  · exact absurd rfl h2
  · exact absurd rfl h4
  · exact absurd rfl h5
  · rfl

theorem State.testBegin_tests (h5 : kind ≠ 5) : (s.testBegin kind unit pattern secs).tests = s.tests ++ [newTest kind unit pattern secs] := by
  by_cases hc : kind = 0 ∨ kind = 2
  · rw [State.testBegin_channel hc]
    exact State.tests_of_outside (s := s.withTest kind unit pattern secs) (by simp)
  by_cases h4 : kind = 4
  · rw [h4, State.testBegin_mem]
    exact State.tests_of_outside (s := s.withTest 4 unit pattern secs) (by simp)
  · rw [State.testBegin_plain (by omega) (by omega) h4 h5]
    rfl

theorem State.testBegin_st (hk : kind = 0 ∨ kind = 2) : ((s.testBegin kind unit pattern secs).chan unit).st = .test := by
  rw [State.testBegin_channel hk, State.switchTo_reads (r := Chan.st) (fun _ _ _ => rfl)]
  simp only [State.modTrav, State.setSt, State.modChan_chan]
end

/-- What a run of writes leaves at an index that one of them wrote. -/
theorem StoreS.look_foldl_put (b : Nat) (f : Nat → FWord) {i : Nat} (l : List Nat) (d : StoreS)
    (h : i ∈ l ∨ look d.flash (b + i) = some (f i)) :
    look (l.foldl (fun d i => { d with flash := d.flash.put (b + i) (f i) }) d).flash (b + i) = some (f i) := by
  induction l generalizing d with
  | nil => exact h.resolve_left List.not_mem_nil
  | cons j l ih =>
    rw [List.foldl_cons]
    refine ih _ ?_
    dsimp only
    by_cases hj : i = j
    · rw [hj]
      exact .inr (look_put_same _ _ _)
    · rw [look_put_ne _ (by omega)]
      exact h.imp_left fun h => (List.mem_cons.1 h).resolve_left hj

theorem State.memTestFill_look {i : Nat} (hi : i < 227) (p : Nat) (s : State) :
    look (s.memTestFill p).store.flash (227 * (s.mem.sectors - 1) + i) = some ⟨Config.memTest p i, .clean⟩ := by
  have hmem : i ∈ upTo 227 := mem_upTo.2 hi
  unfold State.memTestFill
  generalize upTo 227 = l at hmem
  exact StoreS.look_foldl_put _ (fun i => ⟨Config.memTest p i, .clean⟩) l _ (.inl hmem)

/-- The entry of 4,096 bits that a PERIPH test posts from its generator at `g` (R836). -/
def testEntry (pattern g : Nat) : PEntry := ⟨periphCtl 4096 0 4 3 false false false, (patWords (pattern % 128) 128 g).1, false⟩

/-- Whether the port takes an entry is told by its control word. -/
theorem PEntry.ok_of_ctl {e : PEntry} (h : (⟨e.ctl, [], false⟩ : PEntry).ok = true) : e.ok = true := h

theorem testEntry_ok (pattern g : Nat) : (testEntry pattern g).ok = true := by
  refine PEntry.ok_of_ctl (e := testEntry pattern g) ?_
  change (⟨periphCtl 4096 0 4 3 false false false, [], false⟩ : PEntry).ok = true
  decide

/-- A PERIPH test posts its entry where the port has room. -/
theorem State.postPeriph_posts {r : TestRun} {s : State} (hr : s.tests.find? (·.kind = 5) = some r) (hq : s.per.q.length < 4) :
    s.postPeriph.per = { s.per with q := s.per.q ++ [testEntry r.pattern r.gen] } ∧ s.postPeriph.tests.length = s.tests.length := by
  unfold State.postPeriph
  rw [hr]
  refine ⟨?_, List.length_map _⟩
  change (s.per.post (testEntry r.pattern r.gen)).getD s.per = _
  rw [PerS.post_taken (testEntry_ok _ _) hq]
  rfl

theorem State.opTestRun_begins {h : Hdr} {unit kind pattern secs : Nat} {s : State} (he : s.testErr kind unit pattern = none) :
    s.opTestRun h unit kind pattern secs = (s.testBegin kind unit pattern secs).reply h 0x0901 .ok := by
  rw [State.opTestRun, he]

/-! ## A test ends -/

theorem TestRun.count_unit (b e : Nat) (r : TestRun) : (r.count b e).kind = r.kind ∧ (r.count b e).unit = r.unit ∧ (r.count b e).eye = r.eye := by
  unfold TestRun.count
  split <;> exact ⟨rfl, rfl, rfl⟩

/-- The tests that are left when those of `r`'s kind and unit have ended. -/
def TestRun.rest (r : TestRun) (l : List TestRun) : List TestRun := l.filter fun x => ¬(x.kind = r.kind ∧ x.unit = r.unit)

theorem State.testEnd_tests (v : Nat) (r : TestRun) (s : State) : (s.testEnd v r).tests = r.rest s.tests := by
  unfold State.testEnd
  extract_lets s1 s2 s3
  have h2 : s2.tests = s1.tests := State.tests_of_outside (by simp [s2])
  have h3 : s3.tests = s2.tests := State.tests_of_outside (by simp only [s3]; split <;> simp)
  exact (State.tests_of_outside (State.post_outside _ _ (by simp))).trans (h3.trans h2)

theorem State.testOver_tests (v : TestRun → Nat) (r : TestRun) (s : State) : (s.testOver v r).tests = r.rest s.tests := by
  unfold State.testOver
  extract_lets s1
  rw [← State.testEnd_tests (v r) r s]
  split
  · exact State.tests_of_outside (s := s1) (by simp)
  · rfl

/-- A test of another kind than MEM frees no port. -/
theorem State.testOver_end (v : TestRun → Nat) {r : TestRun} (hk : r.kind ≠ 4) (s : State) : s.testOver v r = s.testEnd (v r) r := by
  rw [State.testOver, if_neg hk]

theorem forAll_testOver_tests {n : TestRun → TestRun} (hn : ∀ r, (n r).kind = r.kind ∧ (n r).unit = r.unit) (v : TestRun → Nat) (l : List TestRun)
    (s : State) : (forAll l (fun r s => s.testOver v (n r)) s).tests = s.tests.filter fun x => ∀ r ∈ l, ¬(x.kind = r.kind ∧ x.unit = r.unit) := by
  induction l generalizing s with
  | nil => exact (List.filter_eq_self.2 fun _ _ => decide_eq_true fun _ hr => absurd hr List.not_mem_nil).symm
  | cons r l ih =>
    obtain ⟨hk, hu⟩ := hn r
    refine (ih _).trans ?_
    rw [State.testOver_tests, TestRun.rest, List.filter_filter, hk, hu]
    refine List.filter_congr fun x _ => ?_
    simp only [List.forall_mem_cons, ← Bool.decide_and, decide_eq_decide]
    exact and_comm

theorem State.post_queued {e : Event} {s : State} (hl : s.mbox.evq.length < 512) (hd : (s.door 6).st = .reply) :
    (s.post e).mbox.evq = s.mbox.evq ++ [e] := by
  rw [State.post, if_pos hl, State.pump6]
  exact congrArg (fun t : State => t.mbox.evq) (if_pos hd)

/-- A test without an eye scan reports its end and answers nothing else. -/
theorem State.testEnd_reports {v : Nat} {r : TestRun} {s : State} (he : r.eye = none) (hl : s.mbox.evq.length < 512) (hd : (s.door 6).st = .reply) :
    (s.testEnd v r).mbox.evq = s.mbox.evq ++ [⟨0x8901, fld 0 16 r.unit + fld 16 2 v, 0, r.word⟩] := by
  unfold State.testEnd
  extract_lets s1 s2 s3
  have h2 : s2.mbox = s.mbox := by simp only [s2, he]; rfl
  have h3 : s3.mbox = s.mbox := by
    rw [← h2]
    exact State.mbox_of_outside (by simp only [s3]; split <;> simp)
  rw [State.post_queued (by rw [h3]; exact hl) (by rw [State.door, h3]; exact hd), h3]

/-- The end of a channel's test takes the channel to IDLE. -/
theorem State.testEnd_idle {v : Nat} {r : TestRun} {s : State} (hk : r.kind = 0 ∨ r.kind = 2) (hc : (s.chan r.unit).st = .test) :
    ((s.testEnd v r).chan r.unit).st = .idle := by
  unfold State.testEnd
  extract_lets s1 s2 s3
  have h2 : s2.chan r.unit = s.chan r.unit := (State.chan_of_outside (s := s1) _ (by simp [s2])).trans rfl
  have h3 : (s3.chan r.unit).st = .idle := by
    simp only [s3]
    rw [if_pos ⟨hk, by rw [h2]; exact hc⟩]
    exact (s2.enterIdle_chan r.unit).1
  rw [State.chan_of_outside (s := s3) r.unit (by simp)]
  exact h3

theorem State.testOf_is {kind unit : Nat} {r : TestRun} {s : State} (h : s.testOf kind unit = some r) : r.kind = kind ∧ r.unit = unit := by
  simpa using List.find?_some h

/-! ## The checker -/

theorem State.modTest_testOf {kind unit : Nat} {f : TestRun → TestRun} (hf : ∀ r, (f r).kind = r.kind ∧ (f r).unit = r.unit) {r : TestRun} {s : State}
    (h : s.testOf kind unit = some r) : (s.modTest kind unit f).testOf kind unit = some (f r) := by
  have hp (x : TestRun) : decide ((if x.kind = kind ∧ x.unit = unit then f x else x).kind = kind ∧
      (if x.kind = kind ∧ x.unit = unit then f x else x).unit = unit) = decide (x.kind = kind ∧ x.unit = unit) := by
    obtain ⟨hk, hu⟩ := hf x
    split
    · rw [hk, hu]
    · rfl
  obtain ⟨hk, hu⟩ := State.testOf_is h
  unfold State.testOf State.modTest at *
  rw [List.find?_map]
  simp only [Function.comp_def, hp, h, Option.map_some, hk, hu, and_self, if_true]

/-- A bit or a loss reaches a checker without touching what names its test. -/
theorem execCheckerSyncLoss_testOf {kind : Fin 7} {unit : BitVec 16} {b : BitVec 64} {e : BitVec 32} {r : TestRun} {s : State}
    (hr : s.testOf kind unit.toNat = some r) (h3 : kind.val ≠ 3) (hs : r.sync = true) : Completes (.checkerSyncLoss kind unit b e) s fun t =>
      t.testOf kind unit.toNat = some (if r.eye.isSome then { r with sync := false } else
        { r.count b.toNat e.toNat with sync := false, resync := satAdd 16 1 r.resync }) ∧ Only [.tests] s t := by
  obtain ⟨hk, -⟩ := State.testOf_is hr
  refine ⟨_, rfl, (State.modTest_testOf (fun x => ?_) hr).trans ?_, State.modTest_outside _ _ _ _ (by simp)⟩
  · obtain ⟨hk, hu, -⟩ := x.count_unit b.toNat e.toNat
    dsimp only
    split
    · exact ⟨rfl, rfl⟩
    split
    · exact ⟨rfl, rfl⟩
    · exact ⟨hk, hu⟩
  · rw [if_neg]
    rw [hk, hs]
    simpa using h3

/-! ## The eye scan -/

/-- 64 counts are all the counts there are. -/
theorem take_counts {l : List (BitVec 32)} (h : l.length = 64) : ((l.map BitVec.toNat) ++ List.replicate 64 0).take 64 = l.map BitVec.toNat := by
  have hlen : (l.map BitVec.toNat).length = 64 := (List.length_map _).trans h
  rw [List.take_append_of_le_length (Nat.le_of_eq hlen.symm), List.take_of_length_le (Nat.le_of_eq hlen)]

theorem execEyeScanDone_opens {c : Ch} {l : List (BitVec 32)} {h : Hdr} {bd : Nat} {r : TestRun} {s : State} (hr : s.testOf 0 c = some r)
    (he : r.eye = some (h, bd)) (hb : bd = 4 ∨ bd = 5) (hs : (s.door bd).stream = none) (hl : l.length = 64) :
    exec (.eyeScanDone c l) s = .next ((s.modTest 0 c fun r => { r with eye := none }).openOut h 0x0903 bd (s.eyeWords c (l.map BitVec.toNat))) := by
  have herr : (s.modTest 0 c fun r => { r with eye := none }).streamErr bd = none := State.streamErr_none hb hs
  obtain ⟨k, u, p, n, y, t, b, e, q, g, x, eye⟩ := r
  obtain rfl : eye = some (h, bd) := he
  change execEyeScanDone c l s = _
  rw [execEyeScanDone, hr]
  dsimp only
  rw [herr, take_counts hl]
  rfl

/-! ## Settlement -/

theorem testRun_completes {h : Hdr} {unit : BitVec 16} {kind : BitVec 4} {pat : BitVec 8} {secs : BitVec 32} {s : State} (g : Taken h 0x0901 s)
    (he : (s.taken h).testErr kind.toNat unit.toNat pat.toNat = none) (h5 : kind ≠ 5) : Completes (.testRun h unit kind pat secs) s fun t =>
      Answered h 0x0901 .ok t ∧ t.tests = s.tests ++ [newTest kind.toNat unit.toNat pat.toNat secs.toNat] ∧
      ((kind = 0 ∨ kind = 2) → (t.chan unit.toNat).st = .test) ∧
      (kind = 4 → ∀ i, i < 227 → look t.store.flash (227 * (s.mem.sectors - 1) + i) = some ⟨Config.memTest (pat.toNat % 128) i, .clean⟩) := by
  have h5' : kind.toNat ≠ 5 := fun e => h5 (BitVec.eq_of_toNat_eq e)
  refine ⟨_, rfl, ?_⟩
  rw [State.viaDoor_taken g, State.opTestRun_begins he]
  refine ⟨State.reply_answered _ _ _ _, ?_, fun hk => ?_, fun hk i hi => ?_⟩
  · rw [State.tests_of_outside (State.reply_outside _ _ _ _ (by simp)), State.testBegin_tests h5']
    rfl
  · rw [State.chan_of_outside (s := (s.taken h).testBegin kind.toNat unit.toNat pat.toNat secs.toNat) _ (by simp)]
    exact State.testBegin_st (hk.imp (congrArg BitVec.toNat) (congrArg BitVec.toNat))
  · rw [State.store_of_outside (State.reply_outside _ _ _ _ (by simp)), hk]
    exact State.memTestFill_look hi _ ((s.taken h).withTest 4 unit.toNat pat.toNat secs.toNat)

theorem testRun_periph {h : Hdr} {unit : BitVec 16} {pat : BitVec 8} {secs : BitVec 32} {s : State} (g : Taken h 0x0901 s)
    (he : (s.taken h).testErr 5 unit.toNat pat.toNat = none) (hn : ∀ r ∈ s.tests, r.kind ≠ 5) (hq : s.per.q.length < 4) :
    Completes (.testRun h unit 5 pat secs) s fun t => Answered h 0x0901 .ok t ∧
      t.per.q = s.per.q ++ [testEntry pat.toNat (patStart (pat.toNat % 128))] ∧ t.tests.length = s.tests.length + 1 := by
  have hfind : ((s.taken h).withTest 5 unit.toNat pat.toNat secs.toNat).tests.find? (·.kind = 5) =
      some (newTest 5 unit.toNat pat.toNat secs.toNat) := by
    change (s.tests ++ [newTest 5 unit.toNat pat.toNat secs.toNat]).find? (·.kind = 5) = _
    rw [List.find?_append, List.find?_eq_none.2 (by simpa using hn)]
    rfl
  obtain ⟨hper, htests⟩ := State.postPeriph_posts hfind hq
  refine ⟨_, rfl, ?_⟩
  rw [State.viaDoor_taken g, State.opTestRun_begins (kind := (5 : BitVec 4).toNat) he]
  change Answered h 0x0901 .ok ((((s.taken h).withTest 5 unit.toNat pat.toNat secs.toNat).postPeriph).reply h 0x0901 .ok) ∧ _
  refine ⟨State.reply_answered _ _ _ _, ?_, ?_⟩
  · exact (congrArg PerS.q (State.per_of_outside (State.reply_outside _ _ _ _ (by simp)))).trans (congrArg PerS.q hper)
  · exact (congrArg List.length (State.tests_of_outside (State.reply_outside _ _ _ _ (by simp)))).trans (htests.trans List.length_append)

theorem testStop_completes {h : Hdr} {unit : BitVec 16} {ms : List (Fin 7 × BitVec 64 × BitVec 32)} {s : State} (g : Taken h 0x0902 s) :
    Completes (.testStop h unit ms) s fun t => Answered h 0x0902 .ok t ∧ t.tests = s.tests.filter fun r => r.unit ≠ unit.toNat := by
  refine ⟨_, rfl, ?_⟩
  rw [State.viaDoor_taken g]
  unfold State.opTestStop
  extract_lets n
  have hn (r : TestRun) : (n r).kind = r.kind ∧ (n r).unit = r.unit := by
    simp only [n]
    split
    · next m _ =>
      obtain ⟨hk, hu, -⟩ := r.count_unit m.2.1.toNat m.2.2.toNat
      exact ⟨hk, hu⟩
    · exact ⟨rfl, rfl⟩
  refine ⟨State.reply_answered _ _ _ _, ?_⟩
  rw [State.tests_of_outside (State.reply_outside _ _ _ _ (by simp)), forAll_testOver_tests hn]
  refine List.filter_congr fun x hx => decide_eq_decide.2 ⟨fun hall hu => ?_, fun hu r hr he => ?_⟩
  · exact hall x (List.mem_filter.2 ⟨hx, decide_eq_true hu⟩) ⟨rfl, rfl⟩
  · exact hu (he.2.trans (of_decide_eq_true (List.mem_filter.1 hr).2))

theorem testDuration_completes {kind : Fin 7} {unit : BitVec 16} {b : BitVec 64} {e : BitVec 32} {r : TestRun} {s : State}
    (hr : s.testOf kind unit.toNat = some r) (hs : r.secs ≠ 0) : Completes (.testDuration kind unit b e) s fun t =>
      t.tests = (s.tests.filter fun x => ¬(x.kind = kind.val ∧ x.unit = unit.toNat)) ∧
      (kind.val = 0 → unit.toNat < 256 → (s.chan unit.toNat).st = .test → (t.chan unit.toNat).st = .idle) ∧
      (s.mbox.evq.length < 512 → kind.val ≠ 4 → r.eye = none → (s.door 6).st = .reply →
        t.mbox.evq = s.mbox.evq ++ [⟨0x8901, fld 0 16 unit.toNat + fld 16 2 (r.count b.toNat e.toNat).verdict, 0,
          (r.count b.toNat e.toNat).word⟩]) := by
  obtain ⟨hk, hu⟩ := State.testOf_is hr
  obtain ⟨hk', hu', he'⟩ := r.count_unit b.toNat e.toNat
  have hexec : exec (.testDuration kind unit b e) s = execTestDuration kind unit b e s := rfl
  rw [execTestDuration, hr] at hexec
  dsimp only at hexec
  rw [if_neg hs] at hexec
  refine ⟨_, hexec, ?_, fun h0 _ hc => ?_, fun hl h4 he hd => ?_⟩
  · rw [State.testOver_tests, TestRun.rest, hk', hu', hk, hu]
  · rw [State.testOver_end _ (by rw [hk', hk, h0]; decide)]
    have := State.testEnd_idle (v := (r.count b.toNat e.toNat).verdict) (r := r.count b.toNat e.toNat) (.inl (hk'.trans (hk.trans h0)))
      (by rw [hu', hu]; exact hc)
    rwa [hu', hu] at this
  · rw [State.testOver_end _ (by rw [hk', hk]; exact h4), State.testEnd_reports (he'.trans he) hl hd, hu', hu]

theorem testNoSync_completes {kind : Fin 7} {unit : BitVec 16} {r : TestRun} {s : State} (hr : s.testOf kind unit.toNat = some r) (hs : r.syncT = none) :
    Completes (.testNoSync kind unit) s fun t => t.tests = (s.tests.filter fun x => ¬(x.kind = kind.val ∧ x.unit = unit.toNat)) ∧
      (s.mbox.evq.length < 512 → kind.val ≠ 4 → r.eye = none → (s.door 6).st = .reply →
        t.mbox.evq = s.mbox.evq ++ [⟨0x8901, fld 0 16 unit.toNat + fld 16 2 1, 0, r.word⟩]) := by
  obtain ⟨hk, hu⟩ := State.testOf_is hr
  have hexec : exec (.testNoSync kind unit) s = execTestNoSync kind unit s := rfl
  rw [execTestNoSync, hr] at hexec
  dsimp only at hexec
  rw [if_neg (by rw [hs]; simp)] at hexec
  refine ⟨_, hexec, ?_, fun hl h4 he hd => ?_⟩
  · rw [State.testOver_tests, TestRun.rest, hk, hu]
  · rw [State.testOver_end _ (by rw [hk]; exact h4), State.testEnd_reports he hl hd, hu]

/-- Settles O58: a test's entry stands while the test runs, and every end of it goes through `State.testEnd`; the checker changes its entry alone. -/
theorem patternTestsRunAndEnd : Obligations.PatternTestsRunAndEnd := by
  refine ⟨fun h unit kind pat secs s g he h5 => testRun_completes g he h5, fun h unit pat secs s g he hn hq => testRun_periph g he hn hq, ?_,
    fun h unit ms s g => testStop_completes g, fun kind unit b e r s hr hs => testDuration_completes hr hs,
    fun kind unit r s hr hs => testNoSync_completes hr hs, ?_, ?_, ?_, ?_, ?_, ?_⟩
  · intro h unit kind pat secs r s g he
    change Host.Outcome.next _ = _
    rw [State.viaDoor_taken g, State.opTestRun, he]
  · intro kind unit us r s hr h3 hs
    obtain ⟨hk, -⟩ := State.testOf_is hr
    refine ⟨_, rfl, (State.modTest_testOf (fun x => ?_) hr).trans ?_, State.modTest_outside _ _ _ _ (by simp)⟩
    · split <;> exact ⟨rfl, rfl⟩
    · rw [if_neg (by rw [hk, hs]; simpa using h3)]
      rfl
  · intro kind unit b e r s hr h3 hs he
    have hcount : r.count b.toNat e.toNat = { r with bits := (r.bits + b.toNat) % 2 ^ 64, errs := satAdd 32 e.toNat r.errs } :=
      if_pos ⟨hs, by rw [(State.testOf_is hr).1]; exact h3⟩
    obtain ⟨t, hexec, ht, honly⟩ := execCheckerSyncLoss_testOf (b := b) (e := e) hr h3 hs
    refine ⟨t, hexec, ?_, honly⟩
    rw [ht, if_neg (by rw [he]; simp), hcount]
  · intro kind unit b e r s hr h3 hs he
    obtain ⟨t, hexec, ht, honly⟩ := execCheckerSyncLoss_testOf (b := b) (e := e) hr h3 hs
    exact ⟨t, hexec, by rw [ht, if_pos he], honly⟩
  · intro h c bd r s g hr hs he hb hd
    have hr' : (s.taken h).testOf 0 c = some r := hr
    have herr : (s.taken h).streamErr bd = none := State.streamErr_none hb (by rw [g.door_bulk hb]; exact hd)
    change Host.Outcome.next _ = _
    rw [State.viaDoor_taken g, State.opTestEye, hr']
    dsimp only
    rw [if_neg (by rw [hs, he]; simp), herr]
  · intro h c bd s g hr
    have hr' : (s.taken h).testOf 0 c = none := hr
    change Host.Outcome.next _ = _
    rw [State.viaDoor_taken g, State.opTestEye, hr']
  · intro c l h bd r s hr he hb hne hs hl
    refine ⟨_, execEyeScanDone_opens hr he hb hs hl, State.openOut_opened (fun e => hne e.symm) _ _ _, ?_⟩
    have htests := State.tests_of_outside (State.openOut_outside h 0x0903 bd (s.eyeWords c (l.map BitVec.toNat))
      (s.modTest 0 c fun r => { r with eye := none }) (by simp))
    rw [State.testOf, htests]
    exact State.modTest_testOf (f := fun r => { r with eye := none }) (fun _ => ⟨rfl, rfl⟩) hr

end Sys2Proof.Machine
end

section
/-!
PROOFS. The prefetch buffer of the memory port, and the peripheral port (R800 to R818, R836).
-/
namespace Sys2Proof.Machine
open Sys2Proof

/-! ## Lines of the prefetch buffer -/

theorem look_none {α : Type} {t : Tab α} {n : Nat} (h : ∀ e ∈ t, e.1 ≠ n) : look t n = none := by
  induction t with
  | nil => rfl
  | cons e t ih =>
    obtain ⟨j, a⟩ := e
    rw [look, if_neg (h _ List.mem_cons_self)]
    exact ih fun x hx => h x (List.mem_cons_of_mem _ hx)

theorem look_append {α : Type} {t : Tab α} {n : Nat} (h : ∀ e ∈ t, e.1 ≠ n) (u : Tab α) : look (t ++ u) n = look u n := by
  induction t with
  | nil => rfl
  | cons e t ih =>
    obtain ⟨j, a⟩ := e
    rw [List.cons_append, look, if_neg (h _ List.mem_cons_self)]
    exact ih fun x hx => h x (List.mem_cons_of_mem _ hx)

/-- The buffer after a fetch of line `n` as the words `ws`: the newest 64 lines, without one that holds an uncorrectable word (R801, R812). -/
def MemS.fill (n : Nat) (ws : List FWord) (m : MemS) : MemS :=
  let l := m.lines.filter (·.1 ≠ n)
  if (ws.filter (·.cls = .bad)).length ≠ 0 then { m with lines := l, busErr := true }
  else { m with lines := l.drop (l.length - 63) ++ [(n, ws.map (·.data))] }

section
variable {n : Nat} {ws : List FWord} {m : MemS}

theorem MemS.fill_good (h : ∀ w ∈ ws, w.cls ≠ .bad) :
    m.fill n ws = { m with lines := (m.lines.filter (·.1 ≠ n)).drop ((m.lines.filter (·.1 ≠ n)).length - 63) ++ [(n, ws.map (·.data))] } := by
  rw [MemS.fill, List.filter_eq_nil_iff.2 (by simpa using h)]
  rfl

theorem MemS.fill_bad (h : ∃ w ∈ ws, w.cls = .bad) : m.fill n ws = { m with lines := m.lines.filter (·.1 ≠ n), busErr := true } := by
  obtain ⟨w, hw, hb⟩ := h
  have hlen := List.length_pos_of_mem (List.mem_filter (p := fun w => decide (w.cls = .bad)) |>.2 ⟨hw, decide_eq_true hb⟩)
  exact if_pos (by omega)

/-- A fetch changes the lines, and may raise the bus error. -/
theorem MemS.fill_keeps : (m.fill n ws).waiting = m.waiting ∧ (m.busErr = true → (m.fill n ws).busErr = true) := by
  unfold MemS.fill
  extract_lets l
  split
  · exact ⟨rfl, fun _ => rfl⟩
  · exact ⟨rfl, id⟩
end

/-- The newest line of the buffer is `n`, and holds `d`. -/
def MemS.Newest (n : Nat) (d : List W128) (m : MemS) : Prop := ∃ a, m.lines = a ++ [(n, d)] ∧ ∀ e ∈ a, e.1 ≠ n

theorem MemS.filter_ne {n : Nat} (l : List (Nat × List W128)) : ∀ e ∈ l.filter (·.1 ≠ n), e.1 ≠ n :=
  fun _ he => of_decide_eq_true (List.mem_filter.1 he).2

theorem MemS.fill_newest {n : Nat} {ws : List FWord} (h : ∀ w ∈ ws, w.cls ≠ .bad) (m : MemS) : (m.fill n ws).Newest n (ws.map (·.data)) :=
  ⟨_, by rw [MemS.fill_good h], fun _ he => MemS.filter_ne _ _ (List.mem_of_mem_drop he)⟩

/-- The newest line stays when the next one is fetched. -/
theorem MemS.Newest.look_fill {n k : Nat} {d : List W128} {m : MemS} (h : m.Newest n d) (hk : k ≠ n) (ws : List FWord) :
    look (m.fill k ws).lines n = some d := by
  obtain ⟨a, ha, hn⟩ := h
  have hfilter : m.lines.filter (·.1 ≠ k) = a.filter (·.1 ≠ k) ++ [(n, d)] := by
    rw [ha, List.filter_append, List.filter_cons_of_pos (by simpa using hk.symm), List.filter_nil]
  have hn' : ∀ e ∈ a.filter (·.1 ≠ k), e.1 ≠ n := fun e he => hn e (List.mem_filter.1 he).1
  have hlast (l : Tab (List W128)) : look ((n, d) :: l) n = some d := if_pos rfl
  unfold MemS.fill
  rw [hfilter]
  extract_lets l
  split
  · exact (look_append hn' _).trans (hlast _)
  · dsimp only [l]
    rw [List.drop_append_of_le_length (by rw [List.length_append, List.length_singleton]; omega), List.append_assoc]
    exact (look_append (fun e he => hn' e (List.mem_of_mem_drop he)) _).trans (hlast _)

/-- A line that is not in the buffer does not come in with another. -/
theorem MemS.fill_absent {n k : Nat} {m : MemS} (h : ∀ e ∈ m.lines, e.1 ≠ n) (hk : k ≠ n) (ws : List FWord) : look (m.fill k ws).lines n = none := by
  refine look_none ?_
  unfold MemS.fill
  extract_lets l
  have hl : ∀ e ∈ l, e.1 ≠ n := fun e he => h e (List.mem_filter.1 he).1
  split
  · exact hl
  · intro e he
    obtain he | he := List.mem_append.1 he
    · exact hl e (List.mem_of_mem_drop he)
    · rw [List.mem_singleton.1 he]
      exact hk

/-! ## A fill of two lines -/

section
variable {k n : Nat} {s : State}

theorem State.fillLine_mem {ws : List FWord} (h : s.codeLine k n = some ws) : (s.fillLine k n).mem = s.mem.fill n ws := by
  rw [State.fillLine, h]
  dsimp only
  rw [State.modMem]
  dsimp only
  rw [State.mem_of_outside (State.eccCorr_outside _ _ (by simp) (by simp) (by simp))]
  rfl

theorem State.fillLine_none (h : s.codeLine k n = none) : s.fillLine k n = s := by rw [State.fillLine, h]

/-- A further fetch fills the line, or reaches beyond the region and changes nothing. -/
theorem State.fillLine_cases (k n : Nat) (s : State) : s.fillLine k n = s ∨ ∃ ws, (s.fillLine k n).mem = s.mem.fill n ws := by
  cases h : s.codeLine k n with
  | none => exact .inl (State.fillLine_none h)
  | some ws => exact .inr ⟨ws, State.fillLine_mem h⟩

/-- The two lines of a fetch, which leaves the flash in continuous-read mode. -/
def State.fillTwo (k n : Nat) (s : State) : State := ((s.fillLine k n).fillLine k (n + 1)).modMem fun m => { m with cont := true }

theorem State.fillTwo_waiting (k n : Nat) (s : State) : (s.fillTwo k n).mem.waiting = s.mem.waiting := by
  have hline (j : Nat) (t : State) : (t.fillLine k j).mem.waiting = t.mem.waiting := by
    obtain h | ⟨ws, h⟩ := t.fillLine_cases k j
    · rw [h]
    · rw [h]
      exact MemS.fill_keeps.1
  exact (hline _ _).trans (hline _ _)

theorem State.fillTwo_good {ws : List FWord} (h : s.codeLine k n = some ws) (hg : ∀ w ∈ ws, w.cls ≠ .bad) :
    look (s.fillTwo k n).mem.lines n = some (ws.map (·.data)) := by
  have hnew : (s.fillLine k n).mem.Newest n (ws.map (·.data)) := by
    rw [State.fillLine_mem h]
    exact MemS.fill_newest hg _
  change look ((s.fillLine k n).fillLine k (n + 1)).mem.lines n = _
  obtain h2 | ⟨us, h2⟩ := (s.fillLine k n).fillLine_cases k (n + 1)
  · rw [h2]
    obtain ⟨a, ha, hn⟩ := hnew
    rw [ha, look_append hn]
    exact if_pos rfl
  · rw [h2]
    exact hnew.look_fill (by omega) us

theorem State.fillTwo_bad {ws : List FWord} (h : s.codeLine k n = some ws) (hb : ∃ w ∈ ws, w.cls = .bad) :
    look (s.fillTwo k n).mem.lines n = none ∧ (s.fillTwo k n).mem.busErr = true := by
  have h1 : (s.fillLine k n).mem = { s.mem with lines := s.mem.lines.filter (·.1 ≠ n), busErr := true } :=
    (State.fillLine_mem h).trans (MemS.fill_bad hb)
  have habs : ∀ e ∈ (s.fillLine k n).mem.lines, e.1 ≠ n := by
    rw [h1]
    exact MemS.filter_ne _
  have herr : (s.fillLine k n).mem.busErr = true := by rw [h1]
  change look ((s.fillLine k n).fillLine k (n + 1)).mem.lines n = none ∧ ((s.fillLine k n).fillLine k (n + 1)).mem.busErr = true
  obtain h2 | ⟨us, h2⟩ := (s.fillLine k n).fillLine_cases k (n + 1)
  · rw [h2]
    exact ⟨look_none habs, herr⟩
  · rw [h2]
    exact ⟨MemS.fill_absent habs (by omega) us, MemS.fill_keeps.2 herr⟩

/-- With nothing else waiting, the port serves the fetch at once. -/
theorem State.ask_fill_served (ho : s.readsOpen = true) (hw : s.mem.waiting = []) : (s.ask (.fill k n)).servePort =
    ((s.modMem fun m => { m with waiting := [] }).fillTwo k n) := by
  have hask : s.ask (.fill k n) = s.modMem fun m => { m with waiting := [.fill k n] } := by
    rw [State.ask, State.modMem, hw]
    rfl
  rw [hask, State.servePort, if_neg (by rw [Bool.not_eq_true']; exact ne_false_of_eq_true ho)]
  rfl
end

/-! ## Settlement -/

/-- A fetch that misses the buffer, of an image that runs from the flash. -/
def State.Misses (s : State) (n k : Nat) : Prop := (∃ i, s.img = some i ∧ i.sram = false ∧ i.slot = k) ∧ s.pwr.held = false ∧
  (s.mem.lines.any fun l => l.1 = n) = false

theorem execPrefetchFill_misses {n : BitVec 16} {k : Nat} {s : State} (h : s.Misses n.toNat k) :
    exec (.prefetchFill n) s = .next (s.ask (.fill k n.toNat)).servePort := by
  obtain ⟨⟨i, himg, hram, rfl⟩, hheld, hlines⟩ := h
  change execPrefetchFill n s = _
  rw [execPrefetchFill, himg]
  dsimp only
  rw [if_neg (by simp [hram, hheld, hlines])]

theorem execPrefetchFill_hits {n : BitVec 16} {s : State} (h : ∀ k, ¬ s.Misses n.toNat k) : exec (.prefetchFill n) s = .next s := by
  change execPrefetchFill n s = _
  rw [execPrefetchFill]
  split
  · next i himg =>
    refine if_pos ?_
    refine Classical.byContradiction fun hc => ?_
    rw [not_or, not_or] at hc
    obtain ⟨hram, hheld, hlines⟩ := hc
    exact h i.slot ⟨⟨i, himg, eq_false_of_ne_true hram, rfl⟩, eq_false_of_ne_true hheld, eq_false_of_ne_true hlines⟩
  · rfl

theorem State.postPeriph_none {s : State} (h : ∀ r ∈ s.tests, r.kind ≠ 5) : s.postPeriph = s := by
  rw [State.postPeriph, List.find?_eq_none.2 (by simpa using h)]

/-- The port when the first entry has completed. -/
theorem execPeriphEntryDone_first {inp : List (BitVec 32)} {e : PEntry} {q : List PEntry} {s : State} (hq : s.per.q = e :: q) (hh : s.pwr.held = false)
    {t : State} (ht : t = s.modPer fun p => { p with
      q := q, cpol := e.ctl.testBit 22, inp := (inp.take e.words).map (·.toNat), gpio := if e.dac then 3 else p.gpio }) :
    exec (.periphEntryDone inp) s = .next (if e.dac then t else t.postPeriph) := by
  change execPeriphEntryDone inp s = _
  rw [execPeriphEntryDone, hq]
  dsimp only
  rw [if_neg (by simp [hh]), ht]

/-- Settles O59: a fetch stands in the buffer as its newest line, which the second line it brings does not push out; without a PERIPH test the port is
left with the next entry. -/
theorem portsFillAndTransfer : Obligations.PortsFillAndTransfer := by
  refine ⟨?_, ?_, ?_, fun n s h => execPrefetchFill_hits h, ?_, ?_, ?_, ?_⟩
  · intro n k ws s hm ho hw hc hg
    refine ⟨_, execPrefetchFill_misses hm, ?_⟩
    rw [State.ask_fill_served ho hw]
    refine ⟨State.fillTwo_good (s := s.modMem fun m => { m with waiting := [] }) hc hg, rfl, State.fillTwo_waiting _ _ _, ?_⟩
    rw [Only, State.fillTwo]
    simp
  · intro n k ws s hm ho hw hc hb
    refine ⟨_, execPrefetchFill_misses hm, ?_⟩
    rw [State.ask_fill_served ho hw]
    exact State.fillTwo_bad (s := s.modMem fun m => { m with waiting := [] }) hc hb
  · intro n k s hm ho
    have ho' : (s.ask (.fill k n.toNat)).readsOpen = false := ho
    rw [execPrefetchFill_misses hm, State.servePort, if_pos (by rw [ho']; rfl)]
  · intro inp e q s hq hh hd
    rw [execPeriphEntryDone_first hq hh rfl, if_pos hd, hd]
    rfl
  · intro inp e q s hq hh hd hn
    rw [execPeriphEntryDone_first hq hh rfl, hd]
    exact congrArg Host.Outcome.next (State.postPeriph_none hn)
  · intro inp e q r s hq hh hd hr hl
    refine ⟨_, execPeriphEntryDone_first hq hh rfl, ?_⟩
    rw [hd]
    obtain ⟨hper, -⟩ := State.postPeriph_posts (s := s.modPer fun p => { p with
      q := q, cpol := e.ctl.testBit 22, inp := (inp.take e.words).map (·.toNat), gpio := if e.dac then 3 else p.gpio }) hr hl
    rw [hd] at hper
    exact ⟨congrArg PerS.q hper, (congrArg PerS.gpio hper).trans rfl⟩
  · intro inp s hq
    change execPeriphEntryDone inp s = _
    rw [execPeriphEntryDone, hq]

end Sys2Proof.Machine
end

section
/-!
PROOFS. The cascade link, the boundary scan and the heartbeat (R522, R742, R838 to R847).
-/
namespace Sys2Proof.Machine
open Sys2Proof

/-! ## The link is lost -/

/-- The link is down, and the loss is noted as a fault. -/
def State.CasDown (now : Nat) (t : State) : Prop := t.cas.up = false ∧ t.cas.run = 0 ∧ t.cas.sets = [] ∧ (6, 0, 0x30, now) ∈ t.flt

theorem State.CasDown.of_outside {n : Nat} {s t : State} (h : s.CasDown n) (hc : t.cas = s.cas) (hf : t.flt = s.flt) : t.CasDown n := by
  rw [State.CasDown, hc, hf]
  exact h

theorem State.casLost_down (s : State) : s.casLost.CasDown s.now := by
  unfold State.casLost
  extract_lets s1
  have h1 : s1.CasDown s.now := by
    have hcas : s1.cas = { s.cas with up := false, run := 0, miss := 0, sets := [] } :=
      (State.cas_of_outside (State.fault_outside 6 0 0x30 _ (by simp) (by simp))).trans rfl
    rw [State.CasDown, hcas]
    exact ⟨rfl, rfl, rfl, State.fault_noted 6 0 0x30 (s.modCas fun c => { c with up := false, run := 0, miss := 0, sets := [] })⟩
  split
  · exact h1.of_outside (State.cas_of_outside (by simp)) (State.flt_of_outside (by simp))
  · exact h1

/-- The link's record of a frame that is not good, before its loss is judged. -/
def CasS.bad (c : CasS) : CasS := { c with run := if c.up then c.run else 0, miss := if c.up then c.miss + 1 else 0 }

section
variable {s : State}

theorem State.casBad_eq : s.casBad none = if s.cas.up ∧ 8 ≤ s.cas.bad.miss then (s.modCas CasS.bad).casLost else s.modCas CasS.bad := rfl

/-- A bad frame of a link that is not up ends its run. -/
theorem State.casBad_down (hu : s.cas.up = false) : s.casBad none = s.modCas fun c => { c with run := 0, miss := 0 } := by
  have hbad : s.cas.bad = { s.cas with run := 0, miss := 0 } := by simp [CasS.bad, hu]
  rw [State.casBad_eq, if_neg (by simp [hu]), State.modCas, hbad]
  rfl

/-- One of a link that is up counts as a frame period without a good frame, the eighth of which loses the link. -/
theorem State.casBad_up (hu : s.cas.up = true) :
    s.casBad none = if 8 ≤ s.cas.miss + 1 then (s.modCas fun c => { c with miss := c.miss + 1 }).casLost
      else s.modCas fun c => { c with miss := c.miss + 1 } := by
  have hbad : s.cas.bad = { s.cas with miss := s.cas.miss + 1 } := by simp [CasS.bad, hu]
  have hmod : s.modCas CasS.bad = s.modCas fun c => { c with miss := c.miss + 1 } := by
    rw [State.modCas, hbad]
    rfl
  rw [State.casBad_eq, hmod, hbad]
  exact ite_congr (propext (and_iff_right hu)) (fun _ => rfl) fun _ => rfl
end

/-! ## A good frame -/

/-- What a frame of the other role leaves of the link, whether or not it brings the link up. -/
theorem State.casGood_cas (f : CasFrame) (mark : Option Nat) (s : State) :
    (s.casGood f mark).cas = { s.cas with
      run := min 64 (s.cas.run + 1), miss := 0, last := some f.seq.toNat, rx := (mark.map fun t => (f.seq.toNat, t)).or s.cas.rx
      up := s.cas.up || decide (64 ≤ s.cas.run + 1) } := by
  unfold State.casGood
  extract_lets s1 s2
  have h1 : s1.cas = { s.cas with
    run := min 64 (s.cas.run + 1), miss := 0, last := some f.seq.toNat, rx := (mark.map fun t => (f.seq.toNat, t)).or s.cas.rx } := rfl
  have h2 : s2.cas = { s1.cas with up := true } := rfl
  have h3 : (if s2.ts.role = .fol then s2.tsQualified else s2).cas = s2.cas := by
    split
    · exact State.cas_of_outside (by simp)
    · rfl
  have hrun : s1.cas.run = 64 ↔ 64 ≤ s.cas.run + 1 := by
    rw [h1]
    dsimp only
    omega
  by_cases h : s1.cas.run = 64 ∧ !s1.cas.up
  · rw [if_pos h, h3, h2, h1, decide_eq_true (hrun.1 h.1), Bool.or_true]
  · rw [if_neg h, h1]
    have hup : s.cas.up = (s.cas.up || decide (64 ≤ s.cas.run + 1)) := by
      cases hu : s.cas.up with
      | true => rfl
      | false =>
        have hs : s1.cas.up = false := by rw [h1, hu]
        rw [hs, hrun, and_iff_left (by rfl)] at h
        rw [decide_eq_false h]
        rfl
    rw [← hup]

/-- What a follower takes from its lead's frame leaves the rest of the link as it is. -/
theorem State.casFollow_reads {α : Type} {r : CasS → α} (hr : ∀ c x l h d, r { c with rate := x, t1 := l, half := h, sets := d } = r c) (f : CasFrame)
    (s : State) : r (s.casFollow f).cas = r s.cas := by
  unfold State.casFollow
  extract_lets s1
  have h1 : r s1.cas = r s.cas := hr s.cas _ _ s.cas.half s.cas.sets
  split
  · exact h1
  split
  · exact h1
  · exact (hr s1.cas s1.cas.rate s1.cas.t1 _ _).trans h1

theorem State.casFollow_set {f : CasFrame} {t1 t2 t3 : Nat} {s : State} (hf : f.stampOk = true) (hl : look s.cas.sets f.peerSeq.toNat = some (t1, t2, t3)) :
    (s.casFollow f).ts.folE = some (roundDiv (stampDiff t2 t1 - stampDiff (linOf f.peerStamp.toNat) t3) 2 - s.pi P.casAsym) ∧
      (s.casFollow f).cas.half = some (roundDiv (stampDiff t2 t1 + stampDiff (linOf f.peerStamp.toNat) t3) 2) ∧
      (s.casFollow f).cas.rate = f.rate.toInt := by
  unfold State.casFollow
  extract_lets s1
  have hl1 : look s1.cas.sets f.peerSeq.toNat = some (t1, t2, t3) := hl
  rw [if_neg (by simp [hf]), hl1]
  exact ⟨rfl, rfl, rfl⟩

section
variable {f : CasFrame} {mark : BitVec 96} {s : State}

/-- The state after a good frame, before what it carries is taken. -/
def State.casTaken (f : CasFrame) (mark : BitVec 96) (s : State) : State :=
  s.casGood f (if s.ts.st = .stopped then none else some (linOf mark.toNat))

/-- A frame of the other role in its order is a good one (R843, R844). -/
theorem execCascadeFrame_good (hc : s.casRuns = true) (hr : f.role.toNat ≠ s.cas.role) (hr' : f.role.toNat = 3 - s.cas.role)
    (hq : ∀ q, s.cas.last = some q → f.seq.toNat = (q + 1) % 2 ^ 16) : exec (.cascadeFrame true f mark) s =
      if !(s.casTaken f mark).devq.xCas.present ∨ (s.casTaken f mark).devq.xCas.full then
        .next ((s.casTaken f mark).modDevq fun q => { q with xCas := { q.xCas with drop := satAdd 32 1 q.xCas.drop } })
      else .next (if (s.casTaken f mark).cas.role = 2 then (s.casTaken f mark).casFollow f else s.casTaken f mark) := by
  have hlast : s.cas.last.any (fun q => f.seq.toNat ≠ (q + 1) % 2 ^ 16) = false := by
    cases hl : s.cas.last with
    | none => rfl
    | some q => simp [hq q hl]
  change execCascadeFrame true f mark s = _
  rw [execCascadeFrame, if_neg (by simp [hc]), if_neg (by decide), if_neg hr,
    if_neg (by rw [hlast, not_or]; exact ⟨not_not_intro hr', Bool.false_ne_true⟩)]
  rfl

/-- What a good frame leaves of the link, whatever else it carries. -/
theorem execCascadeFrame_reads {α : Type} {r : CasS → α} (hread : ∀ c x l h d, r { c with rate := x, t1 := l, half := h, sets := d } = r c)
    (hc : s.casRuns = true) (hr : f.role.toNat ≠ s.cas.role) (hr' : f.role.toNat = 3 - s.cas.role)
    (hq : ∀ q, s.cas.last = some q → f.seq.toNat = (q + 1) % 2 ^ 16) :
    Completes (.cascadeFrame true f mark) s fun t => r t.cas = r (s.casTaken f mark).cas := by
  rw [Completes, execCascadeFrame_good hc hr hr' hq]
  split
  · exact ⟨_, rfl, rfl⟩
  refine ⟨_, rfl, ?_⟩
  split
  · exact State.casFollow_reads hread f _
  · rfl
end

/-- A follower takes rate and set from its lead's frame (R845, R846). -/
theorem execCascadeFrame_follows {f : CasFrame} {mark : BitVec 96} {t1 t2 t3 : Nat} {s : State} (hc : s.casRuns = true) (hrole : s.cas.role = 2)
    (hu : s.cas.up = true) (hr : f.role.toNat = 1) (hq : ∀ q, s.cas.last = some q → f.seq.toNat = (q + 1) % 2 ^ 16)
    (hp : s.devq.xCas.present = true) (hx : s.devq.xCas.full = false) (hf : f.stampOk = true)
    (hl : look s.cas.sets f.peerSeq.toNat = some (t1, t2, t3)) : Completes (.cascadeFrame true f mark) s fun t =>
      t.ts.folE = some (roundDiv (stampDiff t2 t1 - stampDiff (linOf f.peerStamp.toNat) t3) 2 - s.pi P.casAsym) ∧
      t.cas.half = some (roundDiv (stampDiff t2 t1 + stampDiff (linOf f.peerStamp.toNat) t3) 2) ∧ t.cas.rate = f.rate.toInt := by
  have htaken : s.casTaken f mark = s.modCas fun c => { c with
      run := min 64 (c.run + 1), miss := 0, last := some f.seq.toNat
      rx := ((if s.ts.st = .stopped then none else some (linOf mark.toNat)).map fun t => (f.seq.toNat, t)).or c.rx } := by
    unfold State.casTaken State.casGood
    extract_lets s1 s2
    have hs1 : s1.cas.up = true := hu
    exact if_neg (by simp [hs1])
  rw [Completes, execCascadeFrame_good hc (by omega) (by omega) hq, htaken]
  refine ⟨_, (if_neg ?_).trans (congrArg Host.Outcome.next (if_pos hrole)), State.casFollow_set hf hl⟩
  intro h
  obtain h | h := h
  · have : (!s.devq.xCas.present) = true := h
    rw [hp] at this
    cases this
  · have : s.devq.xCas.full = true := h
    rw [hx] at this
    cases this

/-! ## The TAP -/

section
variable {x : Tap} {s : State}

theorem State.tapUpdate_same (h : tapHolds x = tapHolds s.tap) : s.tapUpdate x = { s with tap := x } := by
  unfold State.tapUpdate
  extract_lets was s1
  rw [h]
  cases hs : tapHolds s.tap with
  | true => rw [if_pos rfl]; exact if_pos hs
  | false => rw [if_neg (by decide)]; exact if_neg (by change ¬ tapHolds s.tap = true; simp [hs])

/-- An instruction that holds the pins leaves the block as a reset does. -/
theorem State.tapUpdate_holds (hx : tapHolds x = true) (hs : tapHolds s.tap = false) :
    s.tapUpdate x = ({ s with tap := x } : State).warm.modPwr fun p => { p with held := true } := by
  unfold State.tapUpdate
  extract_lets was s1
  rw [if_pos hx]
  exact if_neg (by change ¬ tapHolds s.tap = true; simp [hs])

/-- One that lets go of them releases the block, which boots. -/
theorem State.tapUpdate_releases (hx : tapHolds x = false) (hs : tapHolds s.tap = true) (hu : s.railsUp = true) :
    s.tapUpdate x = ({ s with tap := x, pwr := { s.pwr with cause := 1 } } : State).boot := by
  unfold State.tapUpdate
  extract_lets was s1
  have hu' : (s1.modPwr fun p => { p with cause := 1 }).railsUp = true := hu
  have hx' : (!tapHolds (s1.modPwr fun p => { p with cause := 1 }).tap) = true := by
    change (!tapHolds x) = true
    rw [hx]
    rfl
  rw [if_neg (by rw [hx]; decide)]
  exact (if_pos hs).trans (if_pos ⟨hu', hx'⟩)

/-- With no program and no erase in progress a reset keeps the flash array. -/
theorem State.cutReset_idle (hp : s.store.prog = none) (he : s.store.erasing = none) : s.cutReset = s := by
  rw [State.cutReset, State.cutRec, hp]
  dsimp only
  rw [State.cutErase, he]
end

/-- Settles O60: every loss of the link goes through `State.casLost`, a good frame's record of the link outlasts what the frame carries, and a TAP
instruction that holds the pins is a warm reset. -/
theorem cascadeScanAndHeartbeat : Obligations.CascadeScanAndHeartbeat := by
  refine ⟨?_, ?_, ?_, ?_, ?_, ?_, ?_, ?_, ?_, ?_, ?_, ?_, ?_, ?_, ?_⟩
  · intro s hc
    have hexec : exec .cascadeFrameSend s = execCascadeFrameSend s := rfl
    rw [execCascadeFrameSend, if_neg (by simp [hc])] at hexec
    exact ⟨_, hexec, rfl, rfl, rfl, rfl⟩
  · intro f mark s hc hr hr' hq
    obtain ⟨t, hexec, ht⟩ := execCascadeFrame_reads (r := fun c => (c.run, c.last, c.up, c.rx)) (mark := mark) (by intros; rfl) hc hr hr' hq
    rw [State.casTaken, State.casGood_cas] at ht
    simp only [Prod.mk.injEq] at ht
    obtain ⟨hrun, hlast, hup, hrx⟩ := ht
    refine ⟨t, hexec, hrun, hlast, hup, fun hst => ?_⟩
    rw [hrx, if_neg hst]
    rfl
  · intro f mark t1 t2 t3 s hc hrole hu hr hq hp hx hf hl
    exact execCascadeFrame_follows hc hrole hu hr hq hp hx hf hl
  · intro f mark s hc hr hu
    have hexec : exec (.cascadeFrame true f mark) s = execCascadeFrame true f mark s := rfl
    rw [execCascadeFrame, if_neg (by simp [hc]), if_neg (by decide), if_pos hr, if_pos hu] at hexec
    obtain ⟨hup, hrun, -, hflt⟩ := s.casLost_down
    exact ⟨_, hexec, hup, hrun, hflt⟩
  · intro f mark s hc hu
    change execCascadeFrame false f mark s = _
    rw [execCascadeFrame, if_neg (by simp [hc]), if_pos (by decide), State.casBad_down hu]
  · intro f mark s hc hu hm
    change execCascadeFrame false f mark s = _
    rw [execCascadeFrame, if_neg (by simp [hc]), if_pos (by decide), State.casBad_up hu, if_neg (by omega)]
  · intro f mark s hc hu hm
    have hexec : exec (.cascadeFrame false f mark) s = execCascadeFrame false f mark s := rfl
    rw [execCascadeFrame, if_neg (by simp [hc]), if_pos (by decide), State.casBad_up hu, if_pos (by omega)] at hexec
    obtain ⟨hup, hrun, -, hflt⟩ := (s.modCas fun c => { c with miss := c.miss + 1 }).casLost_down
    exact ⟨_, hexec, hup, hrun, hflt⟩
  · intro s hu
    refine ⟨_, rfl, ?_⟩
    rw [if_pos hu]
    exact s.casLost_down
  · intro s hw h5 hon hu
    have hexec : exec .casTrainT s = execCasTrainT s := rfl
    rw [execCasTrainT, if_pos ⟨hw, h5, hon, by rw [hu]; rfl⟩] at hexec
    obtain ⟨hup, -, -, hflt⟩ : s.casLost.wakeEnd.CasDown s.now :=
      s.casLost_down.of_outside (State.cas_of_outside (by simp)) (State.flt_of_outside (by simp))
    exact ⟨_, hexec, rfl, hup, hflt⟩
  · intro x s hx hs hp he
    refine ⟨_, rfl, ?_⟩
    rw [State.tapUpdate_holds hx hs, State.warm, State.cutReset_idle (s := { s with tap := x }) hp he]
    exact ⟨rfl, rfl, rfl, rfl, rfl, rfl, rfl, rfl, rfl⟩
  · intro x s h
    change Host.Outcome.next _ = _
    rw [State.tapUpdate_same h]
  · intro x s hx hs hu
    change Host.Outcome.next _ = _
    rw [State.tapUpdate_releases hx hs hu]
  · intro s hs
    change Host.Outcome.next _ = _
    rw [State.tapUpdate_same (hs ▸ rfl)]
  · intro s hs hu
    change Host.Outcome.next _ = _
    rw [State.tapUpdate_releases rfl hs hu]
  · intro s hh hr
    change execFirmwareHeartbeat s = _
    rw [execFirmwareHeartbeat, if_neg (by simp [hh, hr])]

end Sys2Proof.Machine
end
